-- ==== Sys2Proof/Word.lean ====
section
/-! DEFINITION. The byte and field widths that the desk link and the lock nodes carry. -/

namespace Sys2Proof

/-- One byte of a desk link frame (10:R178) or an 8-bit number of an answer. -/
abbrev Byte := BitVec 8

/-- A two-byte field. -/
abbrev U16 := BitVec 16

/-- A four-byte field. -/
abbrev U32 := BitVec 32

end Sys2Proof
end

