-- ==== Sys2Proof/Config.lean ====
section
/-! DEFINITION. The free values: what the spec leaves open and the part goes on with. None has a body, so
nothing can be proved of one, and a claim holds whatever it is. -/

namespace Sys2Proof

/-- Which of two acts comes first where the rules say that either may, inside one event (01:R7, 01:R10, 03:R45,
08:R157 with 04:R78). Applied to the free-choice counter of State. Log 14 DESIGN CHOICE. -/
opaque Config.tie : Nat → Bool

/-- The order in which the blocks do their start work (11:R195, 10:R189), read by `arrange` as a choice among all
orders. Applied to the free-choice counter of State. Log 14 DESIGN CHOICE. -/
opaque Config.startOrder : Nat → Nat

/-- The byte LINE_STATUS reports as the round number in progress while no round is in progress: 01:R22 states no
value. Log 18 DESIGN CHOICE. -/
opaque Config.roundNumberUnstarted : Byte

/-- The four bytes READ_JOURNAL reports as the oldest sequence number held when no record is held: 09:R175 gives the
field only "when any is held". Log 18 DESIGN CHOICE. -/
opaque Config.oldestSeqUnheld : U32

end Sys2Proof
end

