-- ==== Sys2Proof/Syntax.lean ====
section
/-! DEFINITION. The commands and events of the part: one constructor of `Instr` for each row of
spec/opcode_table.json, with the operands the rules give it, and the types of what a lock node's answer carries. -/

namespace Sys2Proof

/-- The two lock lines (01:R1). -/
inductive LineId where
  | a | b
  deriving DecidableEq, Repr

/-- The deny reasons of 06:R112 Table 6.1, and NONE, in the order of 10 Table 10.11. -/
inductive Reason where
  | none | unknownCard | checkFailed | notConfirmed | suspended | revoked | expired | notYetValid | superseded
  | outsideSchedule | noAccess | outOfService | afterHours | privacy | noFolio | creditHeld
  deriving DecidableEq, Repr

/-- The five status bits of a good answer (02:R38). -/
structure StatusBits where
  isOpen : Bool
  privacy : Bool
  batteryLow : Bool
  fallbackActive : Bool
  cacheLost : Bool
  deriving DecidableEq, Repr

/-- A presentation as an answer carries it (06:R112). -/
structure Presentation where
  number : Byte
  serial : U32
  cred : U16
  stay : U16
  code : U32
  deriving DecidableEq, Repr

/-- An OFFLINE_RECORD item (07:R137). -/
structure OfflineRecord where
  stamp : U32
  serial : U32
  cred : U16
  stay : U16
  code : U32
  granted : Bool
  reason : Reason
  deriving DecidableEq, Repr

/-- The items of an answer (02:R36 step 5). Compartment numbers and counts are bytes. -/
inductive Item where
  | forcedOpen
  | heldOpen
  | localDecision (number : Byte) (granted : Bool)
  | removed (comp count : Byte)
  | returned (comp count : Byte)
  | minibarClosed
  | offlineRecord (r : OfflineRecord)
  deriving DecidableEq, Repr

/-- The content of one node's answer (01:R7, 02:R36): status bits, node seconds, the low 32 bits of the node tick
counter, acknowledged generation, presentation, items, offline records pending flag. -/
structure Answer where
  status : StatusBits
  seconds : U32
  ticks : U32
  ack : U32
  pres : Option Presentation
  items : List Item
  pending : Bool
  deriving DecidableEq, Repr

/-- One copy that arrived on one line within a window, with what 01:R6 judges it by. `framed` says that it is framed
correctly and its frame check passes, `second` that a second answer was received in the window, `overrun` that the
line carried activity past the window's end. -/
structure Copy where
  addr : Byte
  echo : Byte
  framed : Bool
  second : Bool
  overrun : Bool
  answer : Answer
  deriving DecidableEq, Repr

/-- Which of two copies completed its reception first (01:R7 Table 1.2, first row). -/
inductive Completion where
  | aFirst | bFirst | together
  deriving DecidableEq, Repr

/-- The rows of spec/opcode_table.json. A host command is a good frame of that kind ending on the desk link, with its
tag and its body as received (10:R183, R185). The rows LINE_DISABLE and LINE_ENABLE carry the body of their LINE_CONTROL
frame less its last byte, the action, and the rows SET_NODE_DISABLE and SET_NODE_ENABLE that of their SET_NODE frame
less its last two, the action's presence and code; LINE_RETRAIN and SET_NODE carry the whole body (log 15 DESIGN CHOICE). -/
inductive Instr where
  | ping (tag : Byte) (body : List Byte)
  | getStatus (tag : Byte) (body : List Byte)
  | loadSettings (tag : Byte) (body : List Byte)
  | readSettings (tag : Byte) (body : List Byte)
  | storeSettings (tag : Byte) (body : List Byte)
  | restart (tag : Byte) (body : List Byte)
  | setTime (tag : Byte) (body : List Byte)
  | lineRetrain (tag : Byte) (body : List Byte)
  | lineDisable (tag : Byte) (head : List Byte)
  | lineEnable (tag : Byte) (head : List Byte)
  | lineStatus (tag : Byte) (body : List Byte)
  | enrollNode (tag : Byte) (body : List Byte)
  | withdrawNode (tag : Byte) (body : List Byte)
  | setNode (tag : Byte) (body : List Byte)
  | setNodeDisable (tag : Byte) (head : List Byte)
  | setNodeEnable (tag : Byte) (head : List Byte)
  | nodeStatus (tag : Byte) (body : List Byte)
  | reloadNode (tag : Byte) (body : List Byte)
  | issueCard (tag : Byte) (body : List Byte)
  | confirmCard (tag : Byte) (body : List Byte)
  | cancelIssue (tag : Byte) (body : List Byte)
  | suspendCard (tag : Byte) (body : List Byte)
  | resumeCard (tag : Byte) (body : List Byte)
  | revokeCard (tag : Byte) (body : List Byte)
  | revokeSerial (tag : Byte) (body : List Byte)
  | cardStatus (tag : Byte) (body : List Byte)
  | purgeRetired (tag : Byte) (body : List Byte)
  | rekeyRoom (tag : Byte) (body : List Byte)
  | checkout (tag : Byte) (body : List Byte)
  | resequence (tag : Byte) (body : List Byte)
  | openPoint (tag : Byte) (body : List Byte)
  | setCompartment (tag : Byte) (body : List Byte)
  | setCeiling (tag : Byte) (body : List Byte)
  | settle (tag : Byte) (body : List Byte)
  | folioStatus (tag : Byte) (body : List Byte)
  | readJournal (tag : Byte) (body : List Byte)
  | ackJournal (tag : Byte) (body : List Byte)
  /-- A good frame whose kind is not a command's (10:R185). -/
  | unknownCommand (kind tag : Byte) (body : List Byte)
  /-- The bytes received up to the end of a frame with a wrong check (10:R180). They go on with the frame in assembly, or
  begin one; bytes that end none leave what they assemble (log 12 DESIGN CHOICE). -/
  | linkRejectCrc (bytes : List Byte)
  /-- The bytes received up to the second length byte (10:R181), taken as those of the row before. -/
  | linkRejectOversize (bytes : List Byte)
  /-- The bytes received, if any, of a frame that then stays without a byte for 50 ms (10:R182). -/
  | linkRejectTimeout (bytes : List Byte)
  /-- A good frame that ends while a command is in service (10:R183). -/
  | linkRejectOverlap (kind tag : Byte)
  | frameSent
  | supplyLoss
  | supplyRestore
  | cellLow
  | cellOk
  | resetPinLow
  | resetPinRelease
  /-- What each bank of the settings memory answered; none where it did not answer (11:R194). -/
  | loadComplete (bank1 bank2 : Option (List Byte))
  /-- What the written bank reads back; none where the memory did not answer (11:R198). -/
  | storeComplete (readBack : Option (List Byte))
  | secondEvent
  | encodingLapse (cred : U16)
  | chargeDeadline (node comp : Byte)
  | minuteSweep
  | roundStart
  | trainingEnd (line : LineId)
  | tallyPeriodEnd
  | decisionAgeOut (node number : Byte)
  | stallRewind (node : Byte)
  | reloadWaitExpiry (node : Byte)
  | spanFailed (node : Byte)
  /-- The close of a node's answer window: the copies on lines A and B, none where no copy arrived (01:R7). -/
  | windowClose (node : Byte) (copyA copyB : Option Copy) (first : Completion)
  /-- The close of the invitation window (01:R8). -/
  | invitationClose (copyA copyB : Option Copy)
  deriving DecidableEq, Repr

end Sys2Proof
end

