-- ==== Sys2Proof/Decode.lean ====
section
/-! DEFINITION. The command kinds of the desk link, and the reading of opcode-table words. No row of
spec/opcode_table.json gives bits, so no word spells a command. -/

namespace Sys2Proof

/-- The kind codes of 10 Table 10.7, in its order. -/
def commandKinds : List Byte :=
  [0x01, 0x02, 0x03, 0x04, 0x05, 0x06, 0x08, 0x10, 0x11, 0x14, 0x15, 0x16, 0x17, 0x18, 0x20, 0x21, 0x22, 0x23, 0x24,
   0x25, 0x26, 0x27, 0x28, 0x2C, 0x2D, 0x2E, 0x30, 0x34, 0x35, 0x36, 0x37, 0x3A, 0x3B]

/-- 10:R185 step 1: the kind is the kind of a command. -/
def isCommandKind (k : Byte) : Bool := commandKinds.contains k

/-- The command that a word spells by the table's bits. spec/opcode_table.json gives bits to no row. -/
def decodeTableWord (_nbits _w : Nat) : Option Instr := none

end Sys2Proof
end

