-- ==== Sys2Proof/WellFormed.lean ====
section
/-! DEFINITION. Well-formed commands: the operands lie where the outside of the part can put them. A frame body holds at
most 1,024 bytes (10:R179), a bank at most 4,096 (11:R194), a node address is 1..96 (02:R24). -/

namespace Sys2Proof

/-- A node address of the table of nodes (02:R24). -/
def wfAddress (a : Byte) : Bool := 1 ≤ a.toNat && a.toNat ≤ 96

/-- A frame body (10:R179). -/
def wfBody (body : List Byte) : Bool := body.length ≤ 1024

/-- A frame body that is carried less its last `k` bytes. -/
def wfHead (k : Nat) (head : List Byte) : Bool := head.length + k ≤ 1024

/-- What a bank answered: nothing, or at most 4,096 bytes (11:R194). -/
def wfBank (b : Option (List Byte)) : Bool := b.all (fun bs => bs.length ≤ 4096)

/-- Bytes that the receive machine takes in HUNTING: they begin with the sync byte (10:R179). -/
def wfReceived (bytes : List Byte) : Bool := bytes.head? == some (0xA7 : Byte) && bytes.length ≤ 1031

/-- The body of a LINE_CONTROL frame that is no DISABLE and no ENABLE: those frames are rows of their own (log 15 DESIGN CHOICE). -/
def wfRetrainBody (body : List Byte) : Bool :=
  wfBody body && !(body.length == 2 && (body.getLast? == some (1 : Byte) || body.getLast? == some (2 : Byte)))

/-- The operands of a command lie where the outside can put them. -/
def Instr.wf : Instr → Bool
  | .ping _ b => wfBody b
  | .getStatus _ b => wfBody b
  | .loadSettings _ b => wfBody b
  | .readSettings _ b => wfBody b
  | .storeSettings _ b => wfBody b
  | .restart _ b => wfBody b
  | .setTime _ b => wfBody b
  | .lineRetrain _ b => wfRetrainBody b
  | .lineDisable _ h => wfHead 1 h
  | .lineEnable _ h => wfHead 1 h
  | .lineStatus _ b => wfBody b
  | .enrollNode _ b => wfBody b
  | .withdrawNode _ b => wfBody b
  | .setNode _ b => wfBody b
  | .setNodeDisable _ h => wfHead 2 h
  | .setNodeEnable _ h => wfHead 2 h
  | .nodeStatus _ b => wfBody b
  | .reloadNode _ b => wfBody b
  | .issueCard _ b => wfBody b
  | .confirmCard _ b => wfBody b
  | .cancelIssue _ b => wfBody b
  | .suspendCard _ b => wfBody b
  | .resumeCard _ b => wfBody b
  | .revokeCard _ b => wfBody b
  | .revokeSerial _ b => wfBody b
  | .cardStatus _ b => wfBody b
  | .purgeRetired _ b => wfBody b
  | .rekeyRoom _ b => wfBody b
  | .checkout _ b => wfBody b
  | .resequence _ b => wfBody b
  | .openPoint _ b => wfBody b
  | .setCompartment _ b => wfBody b
  | .setCeiling _ b => wfBody b
  | .settle _ b => wfBody b
  | .folioStatus _ b => wfBody b
  | .readJournal _ b => wfBody b
  | .ackJournal _ b => wfBody b
  | .unknownCommand k _ b => !isCommandKind k && wfBody b
  | .linkRejectCrc bs => wfReceived bs
  | .linkRejectOversize bs => wfReceived bs
  | .linkRejectTimeout bs => wfReceived bs
  | .linkRejectOverlap _ _ => true
  | .frameSent => true
  | .supplyLoss => true
  | .supplyRestore => true
  | .cellLow => true
  | .cellOk => true
  | .resetPinLow => true
  | .resetPinRelease => true
  | .loadComplete b1 b2 => wfBank b1 && wfBank b2
  | .storeComplete r => wfBank r
  | .secondEvent => true
  | .encodingLapse c => c.toNat < 768
  | .chargeDeadline n c => wfAddress n && (1 ≤ c.toNat && c.toNat ≤ 8)
  | .minuteSweep => true
  | .roundStart => true
  | .trainingEnd _ => true
  | .tallyPeriodEnd => true
  | .decisionAgeOut n _ => wfAddress n
  | .stallRewind n => wfAddress n
  | .reloadWaitExpiry n => wfAddress n
  | .spanFailed n => wfAddress n
  | .windowClose n _ _ _ => wfAddress n
  | .invitationClose _ _ => true

end Sys2Proof
end

