-- ==== Sys2Proof/Machine/State.lean ====
section
/-! DEFINITION. The state of the part, block by block (00 Table 0.1), the reasons a step can stop, and the state after
reset. Plain data throughout. -/

namespace Sys2Proof.Machine

open Sys2Proof

/-- The ways the part can stop. There is none: the spec names no event that stops the part (INVENTORY, Faults). -/
inductive Fault
  deriving DecidableEq, Repr

/-- The refusals. Raised by no command of this model: every arm of `exec` has its meaning. -/
inductive Refusal where
  /-- A row of the opcode table without a meaning. Safe: nothing is claimed of it. -/
  | notModelled (mnemonic : String)
  deriving DecidableEq, Repr

/-! ### Values that several blocks name -/

/-- The five part states (11:R191). -/
inductive PartState where
  | loading | unconfigured | running | retention | held
  deriving DecidableEq, Repr

/-- The kind of a start (10:R189). -/
inductive StartKind where
  | cold | warm | restart | resetPin
  deriving DecidableEq, Repr

/-- The five line states (01:R1). -/
inductive LineState where
  | off | training | up | degraded | disabled
  deriving DecidableEq, Repr

/-- The five point classes (02:R24). -/
inductive PointClass where
  | roomEntry | suiteInner | minibar | amenityGate | service
  deriving DecidableEq, Repr

/-- The six node states (02 Table 2.3). -/
inductive NodeState where
  | absent | dormant | probation | online | silent | disabled
  deriving DecidableEq, Repr

/-- The fallback mode of a node (02:R39). -/
inductive FallbackMode where
  | full | restricted
  deriving DecidableEq, Repr

/-- The four kinds of credential (04:R62). -/
inductive CredKind where
  | guest | staff | maintenance | emergency
  deriving DecidableEq, Repr

/-- The stay mode of a guest issue (04:R62). -/
inductive StayMode where
  | newStay | addCard
  deriving DecidableEq, Repr

/-- The four revocation reasons (04:R62). -/
inductive RevReason where
  | revokedByDesk | recycled | superseded | rekeyed
  deriving DecidableEq, Repr

/-- The causes with which an encoding is returned (04:R77, 09 Table 9.2). -/
inductive LapseCause where
  | cancelled | lapsed | checkout | rekeyRoom | resequence
  deriving DecidableEq, Repr

/-- The reason of a revocation list entry (05:R93). -/
inductive ListReason where
  | revoked | suspended | foreign
  deriving DecidableEq, Repr

/-- The mode of a minibar session (08:R149). -/
inductive SessionMode where
  | guest | restock
  deriving DecidableEq, Repr

/-- The fault kinds of 01:R6 and NO_ANSWER, in the order of 10 Table 10.11. -/
inductive FaultKind where
  | extra | overrun | syntaxFault | content | noAnswer
  deriving DecidableEq, Repr

/-- The class of a charged fault (01:R7). -/
inductive FaultClass where
  | correctable | uncorrectable
  deriving DecidableEq, Repr

/-- A begin and an end minute of local day: a schedule (04:R62) or opening hours (02:R24). -/
structure Hours where
  start : Nat
  stop : Nat
  deriving DecidableEq, Repr

/-- An access image (04:R66): base point, span exponent, class mask. -/
structure Image where
  base : Nat
  span : Nat
  mask : Byte
  deriving DecidableEq, Repr

/-! ### Settings loader -/

/-- The scalar values and keys of the running settings (11:R195 Table 11.2). -/
structure Settings where
  roundLength : Nat
  degradeThreshold : Nat
  localOffset : Int
  encodingLapse : Nat
  returnWindow : Nat
  defaultCeiling : Nat
  journalThreshold : Nat
  currentKey : List Byte
  previousKey : List Byte
  deriving DecidableEq, Repr

/-- The defaults of 11 Table 11.2. -/
def Settings.default : Settings where
  roundLength := 6144
  degradeThreshold := 32
  localOffset := 0
  encodingLapse := 120
  returnWindow := 120
  defaultCeiling := 20000
  journalThreshold := 64
  currentKey := List.replicate 8 0
  previousKey := List.replicate 8 0

/-- The two banks of the settings memory (11:R194). -/
inductive Bank where
  | first | second
  deriving DecidableEq, Repr

/-- The last store result (11:R198). -/
inductive StoreResult where
  | none | ok | failed
  deriving DecidableEq, Repr

/-- The unconfigured cause (11:R194). -/
inductive Cause where
  | none | noMemory | format | check
  deriving DecidableEq, Repr

/-- A settings store in flight: the bank written, the image and its store count (11:R198). -/
structure StoreJob where
  bank : Bank
  image : List Byte
  count : Nat
  deriving DecidableEq, Repr

/-- The image most recently stored: its bank and store count (11:R194, R198). -/
structure Recent where
  bank : Bank
  count : Nat
  deriving DecidableEq, Repr

/-- The settings loader. The store-in-progress flag is `store.isSome`; the fill count is `staging.length`. -/
structure Loader where
  settings : Settings
  staging : List Byte
  store : Option StoreJob
  lastStore : StoreResult
  bank1 : Option (List Byte)
  bank2 : Option (List Byte)
  recent : Option Recent
  cause : Cause
  deriving DecidableEq, Repr

/-! ### Retention controller and supply monitor -/

/-- The retention controller with the levels the supply monitor and the reset pin hold (11:R192, R193, R196). -/
structure Supply where
  /-- The retention check word is valid. -/
  checkValid : Bool
  outageStart : Nat
  /-- The cell-low flag of GET_STATUS. -/
  cellLow : Bool
  /-- The backup cell stands below its retention minimum. -/
  cellBelow : Bool
  /-- The reset pin is held low. -/
  pinLow : Bool
  /-- A supply restore waits for the release of the pin. -/
  restoreWaiting : Bool
  /-- The kind of the last start. -/
  startKind : StartKind
  deriving DecidableEq, Repr

/-! ### Wing timebase -/

/-- The wing timebase (03 Table 3.1). `begun` is the model's own: a part of the coming second event has been taken
before the rest of it, with its rise of wing seconds (log 11 DESIGN CHOICE). `owed` is the model's own: the second
boundaries that a ROUND_START row has moved the counter to or past and whose events have not been taken
(log 9 DESIGN CHOICE). -/
structure TimeBase where
  tick : Nat
  secs : Nat
  epoch : Nat
  isSet : Bool
  mark : Option Nat
  begun : Bool
  owed : Nat
  deriving DecidableEq, Repr

/-! ### Nodes -/

/-- The enrolment fields of a node record (02 Table 2.1). -/
structure Enrolment where
  point : Nat
  cls : PointClass
  entry : Option Nat
  hours : Option Hours
  oos : Bool
  comps : Option Nat
  deriving DecidableEq, Repr

/-- The enrolment copy (02:R24, R42). -/
structure EnrolCopy where
  point : Nat
  cls : PointClass
  entry : Option Nat
  comps : Option Nat
  deriving DecidableEq, Repr

/-- The four values of an enrolment that the enrolment copy holds. -/
def Enrolment.copy (e : Enrolment) : EnrolCopy := ⟨e.point, e.cls, e.entry, e.comps⟩

/-- An enrolment with the values of a copy, no opening hours and the out-of-service flag clear. -/
def EnrolCopy.enrolment (c : EnrolCopy) : Enrolment := ⟨c.point, c.cls, c.entry, none, false, c.comps⟩

/-- An open drift span (03 Table 3.4). -/
structure Span where
  r0 : Nat
  w0 : Nat
  n0 : Nat
  k : Nat
  deriving DecidableEq, Repr

/-- An anchor (03 Table 3.4). -/
structure Anchor where
  s0 : Nat
  w0 : Nat
  epoch : Nat
  deriving DecidableEq, Repr

/-- The clock-tracking record (03 Table 3.4). -/
structure Clock where
  d : Int
  s : Nat
  samples : Nat
  failed : Nat
  suspect : Bool
  span : Option Span
  anchor : Option Anchor
  grace : Nat
  deriving DecidableEq, Repr

/-- The initial values of 03 Table 3.4. -/
def Clock.initial : Clock := ⟨0, 4000, 0, 0, false, none, none, 348⟩

/-- The delivery cursor (05:R104). -/
structure Cursor where
  sent : Nat
  acked : Nat
  stall : Nat
  deriving DecidableEq, Repr

/-- How far the items of a reload have been placed (05:R109): whether the floor's turn has passed, the generation added
of the last list entry placed, the list entries placed, all RELOAD_ITEM directives placed. -/
structure ReloadProgress where
  floorDone : Bool
  last : Option Nat
  entries : Nat
  count : Nat
  deriving DecidableEq, Repr

/-- The reload state of a node (05:R108): NONE, MARKED, SENDING with its snapshot generation and progress, AWAITING with
its snapshot generation and wait count. -/
inductive Reload where
  | none
  | marked
  | sending (g : Nat) (p : ReloadProgress)
  | awaiting (g wait : Nat)
  deriving DecidableEq, Repr

/-- One entry of a node's decision memory (06:R126). -/
structure MemEntry where
  pres : Nat
  cred : Option Nat
  serial : Nat
  arrival : Nat
  granted : Bool
  reason : Reason
  reported : Bool
  deriving DecidableEq, Repr

/-- The upload anchor with N and E (07 Table 7.1). -/
structure UploadAnchor where
  s0 : Nat
  w0 : Nat
  n : Nat
  e : Nat
  deriving DecidableEq, Repr

/-- An upload in progress: reconnect mark, upload anchor, discontinuity flag (07 Table 7.1). -/
structure Upload where
  s1 : Nat
  w1 : Nat
  epoch : Nat
  anchor : Option UploadAnchor
  disc : Bool
  deriving DecidableEq, Repr

/-- The permit state, with the permit remainder while it is PLACED or OPEN (07 Table 7.1). -/
inductive Permit where
  | none
  | latched
  | placed (remainder : Nat)
  | opened (remainder : Nat)
  deriving DecidableEq, Repr

/-- A compartment record (08 Table 8.1). -/
structure Compartment where
  item : Nat
  price : Nat
  capacity : Nat
  stock : Nat
  deriving DecidableEq, Repr

/-- The initial values of 08 Table 8.1. -/
def Compartment.initial : Compartment := ⟨0, 0, 15, 0⟩

/-- A minibar session (08:R149). -/
structure Session where
  mode : SessionMode
  cred : Nat
  folio : Option Nat
  openedAt : Nat
  deriving DecidableEq, Repr

/-- Everything the blocks hold for one node address: the node record of 02 Table 2.1, its latched items (01:R18), its
decision memory (06:R126), its upload state (07:R130), its compartments and session (08:R145, R149). -/
structure Node where
  addr : Nat
  enrol : Enrolment
  st : NodeState
  joins : Nat
  good : Nat
  missed : Nat
  silent : Nat
  lastPres : Option Nat
  status : Option StatusBits
  clock : Clock
  cursor : Cursor
  reload : Reload
  fallback : FallbackMode
  copy : EnrolCopy
  latchFallback : Bool
  latchPermit : Bool
  latchComp : Bool
  memory : List MemEntry
  upload : Option Upload
  received : Nat
  permit : Permit
  comps : List Compartment
  session : Option Session
  deriving DecidableEq, Repr

/-- The node manager's pointers (02:R30). -/
structure Inviter where
  pointer : Nat
  turn : Bool
  deriving DecidableEq, Repr

/-! ### Line engine -/

/-- The five accrued flags of a line (01:R9). -/
structure Flags where
  validSeen : Bool
  syntaxSeen : Bool
  overrun : Bool
  content : Bool
  extra : Bool
  deriving DecidableEq, Repr

/-- All five flags clear. -/
def Flags.clear : Flags := ⟨false, false, false, false, false⟩

/-- What the line engine keeps for one line (01:R1, R2, R9, R11). -/
structure Line where
  st : LineState
  retrain : Nat
  running : Nat
  tally : Nat
  flags : Flags
  deriving DecidableEq, Repr

/-- A line after a start (01 Table 1.4). -/
def Line.initial : Line := ⟨.off, 0, 0, 0, Flags.clear⟩

/-- The first-fault record (01:R10). -/
structure FirstFault where
  valid : Bool
  line : LineId
  round : Nat
  node : Nat
  kind : FaultKind
  cls : FaultClass
  secs : Nat
  deriving DecidableEq, Repr

/-- A queued or repeated DECISION (01:R12, 06:R123): its decision, the round whose window took the presentation, the
round starts since then, and the content of its journal record. -/
structure Decision where
  node : Nat
  pres : Nat
  granted : Bool
  reason : Reason
  mode : Option SessionMode
  origin : Nat
  age : Nat
  point : Nat
  cred : Option Nat
  serial : Nat
  arrival : Nat
  deriving DecidableEq, Repr

/-- An urgent directive (01:R12). -/
inductive Urgent where
  | decision (d : Decision)
  | remoteOpen (node : Nat)
  deriving DecidableEq, Repr

/-- The kind of a change with what it names (05:R101). -/
inductive ChangeBody where
  | add (serial : Nat) (cred : Option Nat)
  | remove (serial : Nat) (cred : Option Nat)
  | floor (point value : Nat)
  deriving DecidableEq, Repr

/-- What a CHANGE directive carries of a change: the kind and the serial or floor value (05:R105). -/
inductive ChangeItem where
  | add (serial : Nat)
  | remove (serial : Nat)
  | floor (value : Nat)
  deriving DecidableEq, Repr

/-- The directives a delivery slot can carry (01:R15, R18, R19). -/
inductive Directive where
  | decision (node pres : Nat) (granted : Bool) (reason : Reason) (mode : Option SessionMode)
  | remoteOpen (node : Nat)
  | fallbackParams (node grace : Nat) (mode : FallbackMode) (oos : Bool) (hours : Option Hours)
  | uploadPermit (node base count : Nat)
  | compartmentSet (node : Nat) (comps : List Compartment)
  | change (node gen : Nat) (item : ChangeItem) (link : Nat)
  | reloadBegin (node g : Nat)
  | reloadFloor (node floor : Nat)
  | reloadSerial (node serial : Nat)
  | reloadEnd (node g count : Nat)
  deriving DecidableEq, Repr

/-- An answer window of the round in progress that has not been resolved; `dead` once its node was withdrawn or disabled
after the round start (01:R7). -/
structure Window where
  addr : Nat
  dead : Bool
  deriving DecidableEq, Repr

/-- What a line carries in the round in progress (01:R1, R2): nothing, a training header, the full round, or the part of
a round that stood before the line left service or training within it. -/
inductive Carried where
  | nothing | training | full | cut
  deriving DecidableEq, Repr

/-- The round in progress (01:R4, R5, 03:R45): number, header wing seconds, header tick, header generation, time-unset
flag, length, open answer windows, the invited node, whether its window is open, whether the node was withdrawn or
disabled since the round start (02:R31), the delivery segment as sent, what each line carries. -/
structure Round where
  number : Nat
  secs : Nat
  tick : Nat
  gen : Nat
  timeUnset : Bool
  length : Nat
  windows : List Window
  invited : Option Nat
  inviteOpen : Bool
  inviteDead : Bool
  segment : List Directive
  carriedA : Carried
  carriedB : Carried
  deriving DecidableEq, Repr

/-- The line engine (01). `tallyDone` is the model's own: the tally period that the coming round start ends has been
completed by a TALLY_PERIOD_END taken before it (log 10 DESIGN CHOICE). -/
structure LineEngine where
  lineA : Line
  lineB : Line
  first : FirstFault
  round : Option Round
  urgent : List Urgent
  repeats : List Urgent
  pointer : Nat
  tallyDone : Bool
  deriving DecidableEq, Repr

/-! ### Credential store -/

/-- The fields of a GUEST credential (04:R62). -/
structure GuestPart where
  entry : Nat
  stay : Nat
  mode : StayMode
  deriving DecidableEq, Repr

/-- The state of a credential that is not VACANT, with the fields present in that state (04 Table 4.1). -/
inductive CredState where
  | encoding (lapse : Nat)
  | issued
  | active
  | suspended (wasActive : Bool) (at_ : Nat)
  | revoked (at_ : Nat) (reason : RevReason)
  | expired (at_ : Nat)
  deriving DecidableEq, Repr

/-- A credential record that is not VACANT (04 Table 4.1). -/
structure Cred where
  number : Nat
  st : CredState
  kind : CredKind
  serial : Nat
  guest : Option GuestPart
  image1 : Image
  image2 : Option Image
  validStart : Nat
  validEnd : Nat
  schedule : Option Hours
  code : Nat
  issuedAt : Nat
  firstUse : Option Nat
  uses : Nat
  deriving DecidableEq, Repr

/-- The credential store. `recs` lists the records that are not VACANT, in ascending number; every other number of
0..767 is VACANT (04:R62). -/
structure Store where
  recs : List Cred
  free : List Nat
  retired : List Nat
  deriving DecidableEq, Repr

/-! ### Revocation unit -/

/-- One item of a floor history (05:R87). -/
structure FloorItem where
  floor : Nat
  at_ : Nat
  deriving DecidableEq, Repr

/-- A room record (05 Table 5.1). -/
structure Room where
  point : Nat
  stay : Nat
  floor : Nat
  history : List FloorItem
  fromCreation : Bool
  deriving DecidableEq, Repr

/-- A revocation list entry (05:R93). -/
structure ListEntry where
  serial : Nat
  cred : Option Nat
  reason : ListReason
  retireAt : Nat
  gen : Nat
  deriving DecidableEq, Repr

/-- A change of the change journal (05:R101). -/
structure Change where
  gen : Nat
  body : ChangeBody
  deriving DecidableEq, Repr

/-- The revocation unit. Cursors, reload states and fallback modes stand in the node records. -/
structure Revoc where
  rooms : List Room
  entries : List ListEntry
  changes : List Change
  gen : Nat
  rekeys : Nat
  deriving DecidableEq, Repr

/-! ### Minibar unit -/

/-- A folio (08 Table 8.4). -/
structure Folio where
  point : Nat
  isOpen : Bool
  balance : Nat
  ceiling : Nat
  pendingTotal : Nat
  openedAt : Option Nat
  deriving DecidableEq, Repr

/-- A pending charge line (08 Table 8.3). -/
structure ChargeLine where
  folio : Nat
  node : Nat
  comp : Nat
  item : Nat
  count : Nat
  amount : Nat
  createdAt : Nat
  deadline : Nat
  deriving DecidableEq, Repr

/-- The minibar unit. Compartments and sessions stand in the node records. -/
structure Minibar where
  folios : List Folio
  pool : List ChargeLine
  deriving DecidableEq, Repr

/-! ### Entry journal -/

/-- The 27 record kinds, in the order of 09 Table 9.2. -/
inductive RecKind where
  | admission | decisionLate | localAdmit | offlineAdmit | forcedOpen | heldOpen | remoteOpen | minibarCharge | stockAnomaly
  | returnAfterCommit | unattendedRemoval | cardIssued | cardConfirmed | cardLapsed | cardRevoked | cardSuspended
  | cardResumed | stayCheckout | roomRekeyed | folioHeld | folioSettled | nodeState | lineState | timeStep
  | supplyRestored | restarted | coldStart
  deriving DecidableEq, Repr

/-- The time quality of a record, with the uncertainty that RECONSTRUCTED carries (09:R168). -/
inductive Quality where
  | exact
  | reconstructed (uncertainty : Nat)
  | unreliable
  deriving DecidableEq, Repr

/-- The audit mark of a record (09:R168). -/
inductive Mark where
  | none | conflict | ambiguous
  deriving DecidableEq, Repr

/-- The outcome field of a record (09 Table 9.1). -/
inductive RecOutcome where
  | grant | deny | granted | denied
  deriving DecidableEq, Repr

/-- The named values a record's detail can give (09 Table 9.2). -/
inductive Detail where
  | credKind (k : CredKind)
  | cause (c : LapseCause)
  | revReason (r : RevReason)
  | nodeState (s : NodeState)
  | withdrawn
  | line (l : LineId)
  | lineState (s : LineState)
  | restartCommand
  | resetPin
  deriving DecidableEq, Repr

/-- What a writer supplies for a record (09:R167): `secs` absent stands for the wing seconds held at the write. -/
structure Entry where
  kind : RecKind
  secs : Option Nat := none
  quality : Quality := .exact
  node : Option Nat := none
  point : Option Nat := none
  cred : Option Nat := none
  serial : Option Nat := none
  outcome : Option RecOutcome := none
  reason : Option Reason := none
  mark : Mark := .none
  amount : Option Nat := none
  detail1 : Option Detail := none
  detail2 : Option Detail := none
  value1 : Option Nat := none
  value2 : Option Nat := none
  deriving DecidableEq, Repr

/-- A journal record as held (09 Table 9.1): its number, its wing seconds, what its writer gave, its gap count. -/
structure Rec where
  seq : Nat
  secs : Nat
  entry : Entry
  gap : Option Nat
  deriving DecidableEq, Repr

/-- The entry journal (09:R170, R172), oldest record first. -/
structure Journal where
  recs : List Rec
  acked : Nat
  next : Nat
  deriving DecidableEq, Repr

/-! ### Desk link port -/

/-- The receive state with the bytes of the frame in assembly (10:R179). -/
inductive Rx where
  | hunting
  | length (first : Option Byte)
  | header (len : Nat) (kind : Option Byte)
  | body (len : Nat) (kind tag : Byte) (got : List Byte)
  | check (len : Nat) (kind tag : Byte) (got : List Byte) (first : Option Byte)
  deriving DecidableEq, Repr

/-- The four armed notice kinds (10:R188). -/
inductive NoticeKind where
  | journalWaiting | nodeChange | lineChange | alarm
  deriving DecidableEq, Repr

/-- The reasons of a LINK_REJECT (10 Table 10.10). -/
inductive RejectReason where
  | crc | overlap | oversize | timeout
  deriving DecidableEq, Repr

/-- What a LINK_REJECT says of the kind and tag of its frame (10 Table 10.10). -/
inductive KindTag where
  | unknown
  | unverified (kind tag : Byte)
  | verified (kind tag : Byte)
  deriving DecidableEq, Repr

/-- An outgoing frame (10:R187): the reply to a command, a notice by its kind code, a LINK_REJECT with its
further-rejects count. -/
inductive OutFrame where
  | reply (kind tag : Byte) (body : List Byte)
  | notice (code : Byte) (body : List Byte)
  | reject (reason : RejectReason) (about : KindTag) (further : Nat)
  deriving DecidableEq, Repr

/-- The command in service (10:R183): its kind, its tag, and whether its effect waits for the end of its reply, as that
of an accepted RESTART does. -/
structure Service where
  kind : Byte
  tag : Byte
  restarts : Bool
  deriving DecidableEq, Repr

/-- The four desk link rates (10 Table 10.1). -/
inductive Rate where
  | b115200 | b230400 | b460800 | b921600
  deriving DecidableEq, Repr

/-- The four arming flags (10:R188). -/
structure Arming where
  journalWaiting : Bool
  nodeChange : Bool
  lineChange : Bool
  alarm : Bool
  deriving DecidableEq, Repr

/-- All four kinds armed (10 Table 10.6). -/
def Arming.all : Arming := ⟨true, true, true, true⟩

/-- The desk link port (10). `strapHigh0` and `strapHigh1` are the levels of RATE0 and RATE1; `silence` counts the wing
ticks since the last byte inside a frame (10:R182). -/
structure Port where
  strapHigh0 : Bool
  strapHigh1 : Bool
  rate : Rate
  rx : Rx
  silence : Nat
  service : Option Service
  sending : Option OutFrame
  waiting : List OutFrame
  arm : Arming
  deriving DecidableEq, Repr

/-! ### The whole part -/

/-- The state of the part, with the queue of waiting commands. `choices` is the model's own: it counts the uses of the
free values (log 14 DESIGN CHOICE). -/
structure State where
  pending : List Instr
  part : PartState
  supply : Supply
  loader : Loader
  time : TimeBase
  lines : LineEngine
  inviter : Inviter
  nodes : List Node
  store : Store
  revoc : Revoc
  minibar : Minibar
  journal : Journal
  port : Port
  choices : Nat
  deriving DecidableEq, Repr

/-- The first-fault record with valid clear; the other values are the model's (log 4 DESIGN CHOICE). -/
def FirstFault.initial : FirstFault := ⟨false, .a, 0, 0, .extra, .correctable, 0⟩

/-- The line engine after every start (01 Table 1.4). -/
def LineEngine.initial : LineEngine where
  lineA := Line.initial
  lineB := Line.initial
  first := FirstFault.initial
  round := none
  urgent := []
  repeats := []
  pointer := 96
  tallyDone := false

/-- The invitation pointer and dormant turn after every start (02 Table 2.5). -/
def Inviter.initial : Inviter := ⟨96, false⟩

/-- The credential store after a cold start (04 Table 4.5). -/
def Store.initial : Store := ⟨[], List.range 768, []⟩

/-- The revocation unit after a cold start, before any node is enrolled (05 Table 5.3). -/
def Revoc.initial : Revoc := ⟨[], [], [], 0, 0⟩

/-- The wing timebase after a cold start (03 Table 3.3). -/
def TimeBase.initial : TimeBase := ⟨0, 0, 0, false, none, false, 0⟩

/-- The entry journal after a cold start: the COLD_START record alone, with sequence number 0 (09:R177). -/
def Journal.cold : Journal where
  recs := [⟨0, 0, ⟨.coldStart, none, .exact, none, none, none, none, none, none, .none, none, none, none, none, none⟩, none⟩]
  acked := 0
  next := 1

/-- The settings loader at the entry to LOADING after a cold start (11:R193, R198; log 6 DESIGN CHOICE, log 7 DESIGN CHOICE). -/
def Loader.initial : Loader where
  settings := Settings.default
  staging := []
  store := none
  lastStore := .none
  bank1 := none
  bank2 := none
  recent := none
  cause := .none

/-- The desk link port at the entry to LOADING, with both strap pins low (10 Table 10.6; log 2 DESIGN CHOICE). -/
def Port.initial : Port where
  strapHigh0 := false
  strapHigh1 := false
  rate := .b115200
  rx := .hunting
  silence := 0
  service := none
  sending := none
  waiting := []
  arm := Arming.all

/-- The part at the end of a cold start, entering LOADING (11:R193): the state after the first application of power to a
part whose cell holds no charge (log 1 DESIGN CHOICE). -/
def State.reset : State where
  pending := []
  part := .loading
  supply := ⟨true, 0, false, false, false, false, .cold⟩
  loader := Loader.initial
  time := TimeBase.initial
  lines := LineEngine.initial
  inviter := Inviter.initial
  nodes := []
  store := Store.initial
  revoc := Revoc.initial
  minibar := ⟨[], []⟩
  journal := Journal.cold
  port := Port.initial
  choices := 0

end Sys2Proof.Machine
end

