-- ==== Sys2Proof/Machine/Bytes.lean ====
section
/-! DEFINITION. Byte order, modular differences, roundings and the keyed lists that every block uses. -/

namespace Sys2Proof.Machine

open Sys2Proof

/-- One byte of a number, its low eight bits. -/
def byteOf (n : Nat) : Byte := BitVec.ofNat 8 n

/-- Two bytes, low byte first (00 Conventions: multi-byte fields are little-endian). -/
def le16 (n : Nat) : List Byte := [byteOf n, byteOf (n / 256)]

/-- Four bytes, low byte first. -/
def le32 (n : Nat) : List Byte := [byteOf n, byteOf (n / 256), byteOf (n / 65536), byteOf (n / 16777216)]

/-- The byte at an offset, 0 beyond the end. -/
def byteAt (b : List Byte) (i : Nat) : Nat := (b.getD i 0).toNat

/-- The little-endian two-byte field at an offset. -/
def u16At (b : List Byte) (i : Nat) : Nat := byteAt b i + 256 * byteAt b (i + 1)

/-- The little-endian four-byte field at an offset. -/
def u32At (b : List Byte) (i : Nat) : Nat := u16At b i + 65536 * u16At b (i + 2)

/-- A two-byte field read as signed two's complement (10 Table 10.17, local offset). -/
def i16At (b : List Byte) (i : Nat) : Int :=
  if u16At b i < 32768 then (u16At b i : Int) else (u16At b i : Int) - 65536

/-- The two-byte two's complement number of an integer. -/
def u16OfInt (x : Int) : Nat := (x % 65536).toNat

/-- A number modulo 2^32 (03:R43). -/
def wrap32 (n : Nat) : Nat := n % 4294967296

/-- The difference `a - b` modulo 2^32 (03:R43, 05:R101, 09:R173). -/
def sub32 (a b : Nat) : Nat := (a + (4294967296 - b % 4294967296)) % 4294967296

/-- The difference `a - b` modulo 2^48 (03:R43). -/
def sub48 (a b : Nat) : Nat := (a + (281474976710656 - b % 281474976710656)) % 281474976710656

/-- Generation `g` lies below `h`: `h - g` modulo 2^32 lies in 1..2^31 - 1 (05:R101). The same comparison tells whether a
store count is newer (11:R194). -/
def genBelow (g h : Nat) : Bool := 1 ≤ sub32 h g && sub32 h g ≤ 2147483647

/-- The ceiling of a quotient. -/
def ceilDiv (a b : Nat) : Nat := (a + b - 1) / b

/-- A rise by `k` that stops at `limit` (00 Numbers and units). -/
def satAdd (limit n k : Nat) : Nat := min limit (n + k)

/-- A quarter of an integer, rounded half away from zero (03:R55, 00 Arithmetic terms). -/
def quarterHalfAway (x : Int) : Int :=
  if 0 ≤ x then ((x.natAbs + 2) / 4 : Nat) else -(((x.natAbs + 2) / 4 : Nat) : Int)

/-- The item of a keyed list with a key, if any. -/
def findKey {α : Type} (key : α → Nat) (k : Nat) (l : List α) : Option α := l.find? (fun x => key x == k)

/-- An item put into a list in ascending key order, in place of one with the same key. -/
def putKey {α : Type} (key : α → Nat) (x : α) : List α → List α
  | [] => [x]
  | y :: ys => if key x < key y then x :: y :: ys else if key x = key y then x :: ys else y :: putKey key x ys

/-- The items with other keys. -/
def dropKey {α : Type} (key : α → Nat) (k : Nat) (l : List α) : List α := l.filter (fun x => key x != k)

/-- A change of the items with a key. -/
def modKey {α : Type} (key : α → Nat) (k : Nat) (f : α → α) (l : List α) : List α :=
  l.map (fun x => if key x = k then f x else x)

/-- One of the orders of a list: the digits of `n` say which of the items left stands next. -/
def arrangeAux {α : Type} : Nat → Nat → List α → List α
  | 0, _, l => l
  | fuel + 1, n, l =>
    match l.drop (n % l.length) with
    | [] => l
    | x :: after => x :: arrangeAux fuel (n / l.length) (l.take (n % l.length) ++ after)

/-- The order of a list that the number `n` chooses; every order is chosen by some number. -/
def arrange {α : Type} (n : Nat) (l : List α) : List α := arrangeAux l.length n l

end Sys2Proof.Machine
end

