-- ==== Sys2Proof/Machine/Flags.lean ====
section
/-! DEFINITION. Codes, flag bytes and checks: the encoded values of 10 Table 10.11, the reply status codes, the two
cyclic redundancy checks, the flag bytes of replies, and the bytes of journal records, card images and frames. -/

namespace Sys2Proof.Machine

open Sys2Proof

/-! ### Encoded values (10 Table 10.11) -/

def PointClass.code : PointClass → Nat
  | .roomEntry => 0 | .suiteInner => 1 | .minibar => 2 | .amenityGate => 3 | .service => 4

def pointClassOf : Nat → Option PointClass
  | 0 => some .roomEntry | 1 => some .suiteInner | 2 => some .minibar | 3 => some .amenityGate | 4 => some .service
  | _ => none

def CredKind.code : CredKind → Nat
  | .guest => 0 | .staff => 1 | .maintenance => 2 | .emergency => 3

def credKindOf : Nat → Option CredKind
  | 0 => some .guest | 1 => some .staff | 2 => some .maintenance | 3 => some .emergency | _ => none

def StayMode.code : StayMode → Nat
  | .newStay => 0 | .addCard => 1

def stayModeOf : Nat → Option StayMode
  | 0 => some .newStay | 1 => some .addCard | _ => none

def NodeState.code : NodeState → Nat
  | .absent => 0 | .dormant => 1 | .probation => 2 | .online => 3 | .silent => 4 | .disabled => 5

def lineCode : LineId → Nat
  | .a => 0 | .b => 1

def lineOf : Nat → Option LineId
  | 0 => some .a | 1 => some .b | _ => none

def LineState.code : LineState → Nat
  | .off => 0 | .training => 1 | .up => 2 | .degraded => 3 | .disabled => 4

def Quality.code : Quality → Nat
  | .exact => 0 | .reconstructed _ => 1 | .unreliable => 2

def Mark.code : Mark → Nat
  | .none => 0 | .conflict => 1 | .ambiguous => 2

def RecOutcome.code : RecOutcome → Nat
  | .grant => 0 | .deny => 1 | .granted => 2 | .denied => 3

def reasonCode : Reason → Nat
  | .none => 0 | .unknownCard => 1 | .checkFailed => 2 | .notConfirmed => 3 | .suspended => 4 | .revoked => 5
  | .expired => 6 | .notYetValid => 7 | .superseded => 8 | .outsideSchedule => 9 | .noAccess => 10
  | .outOfService => 11 | .afterHours => 12 | .privacy => 13 | .noFolio => 14 | .creditHeld => 15

def RevReason.code : RevReason → Nat
  | .revokedByDesk => 0 | .recycled => 1 | .superseded => 2 | .rekeyed => 3

def LapseCause.code : LapseCause → Nat
  | .cancelled => 0 | .lapsed => 1 | .checkout => 2 | .rekeyRoom => 3 | .resequence => 4

def FaultKind.code : FaultKind → Nat
  | .extra => 0 | .overrun => 1 | .syntaxFault => 2 | .content => 3 | .noAnswer => 4

def FaultClass.code : FaultClass → Nat
  | .correctable => 0 | .uncorrectable => 1

def CredState.code : CredState → Nat
  | .encoding _ => 1 | .issued => 2 | .active => 3 | .suspended _ _ => 4 | .revoked _ _ => 5 | .expired _ => 6

def FallbackMode.code : FallbackMode → Nat
  | .full => 0 | .restricted => 1

def Reload.code : Reload → Nat
  | .none => 0 | .marked => 1 | .sending _ _ => 2 | .awaiting _ _ => 3

def SessionMode.code : SessionMode → Nat
  | .guest => 0 | .restock => 1

def Cause.code : Cause → Nat
  | .none => 0 | .noMemory => 1 | .format => 2 | .check => 3

def StoreResult.code : StoreResult → Nat
  | .none => 0 | .ok => 1 | .failed => 2

def StartKind.code : StartKind → Nat
  | .cold => 0 | .warm => 1 | .restart => 2 | .resetPin => 3

/-- The part state byte of PING and GET_STATUS (10:R190). The other two states serve no command. -/
def PartState.code : PartState → Nat
  | .loading => 0 | .unconfigured => 1 | .running => 2 | .retention => 3 | .held => 4

def RecKind.code : RecKind → Nat
  | .admission => 1 | .decisionLate => 2 | .localAdmit => 3 | .offlineAdmit => 4 | .forcedOpen => 5 | .heldOpen => 6
  | .remoteOpen => 7 | .minibarCharge => 8 | .stockAnomaly => 9 | .returnAfterCommit => 10 | .unattendedRemoval => 11
  | .cardIssued => 12 | .cardConfirmed => 13 | .cardLapsed => 14 | .cardRevoked => 15 | .cardSuspended => 16
  | .cardResumed => 17 | .stayCheckout => 18 | .roomRekeyed => 19 | .folioHeld => 20 | .folioSettled => 21
  | .nodeState => 22 | .lineState => 23 | .timeStep => 24 | .supplyRestored => 25 | .restarted => 26
  | .coldStart => 27

def Detail.code : Detail → Nat
  | .credKind k => k.code
  | .cause c => c.code
  | .revReason r => r.code
  | .nodeState s => s.code
  | .withdrawn => 6
  | .line l => lineCode l
  | .lineState s => s.code
  | .restartCommand => 0
  | .resetPin => 1

/-- The reply status codes (10 Table 10.4). -/
inductive Status where
  | ok | clamped | rekeyed | notReady | busy | unknownCommand | badLength | badField | notFound | wrongState | noSlot
  | issuePending | noStay | sequenceExhausted | listFull | windowInvalid | timeUnset
  deriving DecidableEq, Repr

def Status.code : Status → Byte
  | .ok => 0x00 | .clamped => 0x01 | .rekeyed => 0x02 | .notReady => 0x10 | .busy => 0x11 | .unknownCommand => 0x12
  | .badLength => 0x13 | .badField => 0x14 | .notFound => 0x15 | .wrongState => 0x16 | .noSlot => 0x17
  | .issuePending => 0x18 | .noStay => 0x19 | .sequenceExhausted => 0x1A | .listFull => 0x1B | .windowInvalid => 0x1C
  | .timeUnset => 0x1D

/-- The success codes are OK, CLAMPED and REKEYED (10:R186). -/
def Status.success : Status → Bool
  | .ok => true | .clamped => true | .rekeyed => true
  | _ => false

/-! ### Flag bytes -/

/-- A flag or presence indication as one byte (10 Table 10.15). -/
def flagByte (b : Bool) : Byte := if b then 1 else 0

/-- A presence indication, flag or option: 0 or 1, anything else is no value (10:R186). -/
def flagAt (b : List Byte) (i : Nat) : Option Bool :=
  match byteAt b i with
  | 0 => some false
  | 1 => some true
  | _ => none

/-- Bits put together, bit 0 first. -/
def bitsOf : List Bool → Nat
  | [] => 0
  | b :: bs => (if b then 1 else 0) + 2 * bitsOf bs

/-- The accrued flags byte of LINE_STATUS: bits 0 to 4 for VALID_SEEN, SYNTAX, OVERRUN, CONTENT, EXTRA. -/
def Flags.toByte (f : Flags) : Byte := byteOf (bitsOf [f.validSeen, f.syntaxSeen, f.overrun, f.content, f.extra])

/-- The status bits byte of NODE_STATUS: bits 0 to 4 for open, privacy, battery low, fallback active, cache lost. -/
def bitsOfStatus (b : StatusBits) : Byte :=
  byteOf (bitsOf [b.isOpen, b.privacy, b.batteryLow, b.fallbackActive, b.cacheLost])

/-! ### Checks -/

/-- One shift of the check of 04:R73. -/
def crc32Shift (r : U32) : U32 := if r.getLsbD 0 then (r >>> 1) ^^^ 0xEDB88320#32 else r >>> 1

/-- One byte of the check of 04:R73. -/
def crc32Byte (r : U32) (b : Byte) : U32 := Nat.iterate crc32Shift 8 (r ^^^ b.setWidth 32)

/-- The 32-bit check of 04:R73 over a list of bytes. -/
def crc32 (bs : List Byte) : Nat := (~~~ (bs.foldl crc32Byte 0xFFFFFFFF#32)).toNat

/-- One shift of the frame check of 10:R180. -/
def crc16Shift (r : U16) : U16 := if r.getLsbD 15 then (r <<< 1) ^^^ 0x1021#16 else r <<< 1

/-- One byte of the frame check of 10:R180. -/
def crc16Byte (r : U16) (b : Byte) : U16 := Nat.iterate crc16Shift 8 (r ^^^ (b.setWidth 16 <<< 8))

/-- The 16-bit check of 10:R180 over a list of bytes. -/
def crc16 (bs : List Byte) : Nat := (bs.foldl crc16Byte 0xFFFF#16).toNat

/-! ### Card images (04:R72, R73, 10 Table 10.12) -/

def Image.bytes (i : Image) : List Byte := le16 i.base ++ [byteOf i.span, i.mask]

def Hours.bytes (h : Hours) : List Byte := le16 h.start ++ le16 h.stop

/-- An optional four-byte field group, zeros when absent. -/
def orZeros (n : Nat) : Option (List Byte) → List Byte
  | some b => b
  | none => List.replicate n 0

/-- The 32-byte card body of a credential. -/
def Cred.body (c : Cred) : List Byte :=
  le16 c.number ++ le32 c.serial ++ [byteOf c.kind.code, byteOf (bitsOf [c.image2.isSome, c.schedule.isSome])]
    ++ le16 ((c.guest.map (·.entry)).getD 0) ++ le16 ((c.guest.map (·.stay)).getD 0)
    ++ c.image1.bytes ++ orZeros 4 (c.image2.map Image.bytes)
    ++ le32 c.validStart ++ le32 c.validEnd ++ orZeros 4 (c.schedule.map Hours.bytes)

/-- The check code of a card body under a key (04:R73). -/
def checkCode (key body : List Byte) : Nat := crc32 (body ++ key)

/-- The 36-byte card image: the body followed by the stored check code. -/
def Cred.image (c : Cred) : List Byte := c.body ++ le32 c.code

/-! ### Journal records (10 Table 10.13) -/

/-- An optional byte of a record or reply, zero when absent. -/
def optByte (o : Option Nat) : List Byte := [byteOf (o.getD 0)]

def optLe16 (o : Option Nat) : List Byte := le16 (o.getD 0)

def optLe32 (o : Option Nat) : List Byte := le32 (o.getD 0)

/-- The uncertainty a time quality carries (09:R167). -/
def Quality.uncertainty : Quality → Option Nat
  | .reconstructed u => some u
  | _ => none

/-- The presence bits of a journal record, bit 0 first (10 Table 10.13). -/
def Rec.presence (r : Rec) : List Bool :=
  [r.entry.quality.uncertainty.isSome, r.entry.node.isSome, r.entry.point.isSome, r.entry.cred.isSome,
   r.entry.serial.isSome, r.entry.outcome.isSome, r.entry.reason.isSome, r.entry.amount.isSome,
   r.entry.detail1.isSome, r.entry.detail2.isSome, r.entry.value1.isSome, r.entry.value2.isSome, r.gap.isSome]

/-- The 42 bytes of a journal record as READ_JOURNAL returns it. -/
def Rec.bytes (r : Rec) : List Byte :=
  le32 r.seq ++ le32 r.secs ++ [byteOf r.entry.kind.code, byteOf r.entry.quality.code, byteOf r.entry.mark.code]
    ++ le16 (bitsOf r.presence) ++ optLe16 r.entry.quality.uncertainty ++ optByte r.entry.node ++ optLe16 r.entry.point
    ++ optLe16 r.entry.cred ++ optLe32 r.entry.serial ++ optByte (r.entry.outcome.map RecOutcome.code)
    ++ optByte (r.entry.reason.map reasonCode) ++ optLe32 r.entry.amount
    ++ optByte (r.entry.detail1.map Detail.code) ++ optByte (r.entry.detail2.map Detail.code)
    ++ optLe32 r.entry.value1 ++ optLe32 r.entry.value2 ++ optLe16 r.gap

/-! ### Frames (10:R179, R180, Tables 10.9 and 10.10) -/

/-- The bytes of a frame of a kind, tag and body, its check composed as 10:R180 states. -/
def frameBytes (kind tag : Byte) (body : List Byte) : List Byte :=
  let covered := le16 body.length ++ [kind, tag] ++ body
  (0xA7 : Byte) :: covered ++ le16 (crc16 covered)

def RejectReason.code : RejectReason → Nat
  | .crc => 0 | .overlap => 1 | .oversize => 2 | .timeout => 3

/-- The three bytes that say what is known of the kind and tag (10 Table 10.10). -/
def KindTag.bytes : KindTag → List Byte
  | .unknown => [0, 0, 0]
  | .unverified k t => [1, k, t]
  | .verified k t => [2, k, t]

/-- The body of a LINK_REJECT (10 Table 10.10). -/
def rejectBody (reason : RejectReason) (about : KindTag) (further : Nat) : List Byte :=
  [byteOf reason.code] ++ about.bytes ++ [byteOf further]

/-- The bytes of an outgoing frame. A reply has the kind of its command with the top bit set (10:R186); notices and
LINK_REJECT frames carry tag 0 (10:R184, R188). -/
def OutFrame.bytes : OutFrame → List Byte
  | .reply kind tag body => frameBytes (kind ||| 0x80) tag body
  | .notice code body => frameBytes code 0 body
  | .reject reason about further => frameBytes 0x7F 0 (rejectBody reason about further)

end Sys2Proof.Machine
end

