-- ==== Sys2Proof/Machine/Operands.lean ====
section
/-! DEFINITION. The operands of the host commands: the fields of each command body, read from its bytes as
10 Tables 10.11, 10.12 and 10.15 lay them out. A reading answers none where a presence indication, flag or option is
neither 0 nor 1 or an enumerated field lies outside its set (10:R186), and where the owning chapter refuses a field's
value before anything else. -/

namespace Sys2Proof.Machine

open Sys2Proof

/-- A node address lies in 1..96. -/
def addressOk (a : Nat) : Bool := 1 ≤ a && a ≤ 96

/-- Opening hours or a schedule at an offset. -/
def hoursAt (b : List Byte) (i : Nat) : Hours := ⟨u16At b i, u16At b (i + 2)⟩

/-- Opening hours within 0..1439 with begin different from end (02:R25, R27). -/
def Hours.wellFormed (h : Hours) : Bool := h.start ≤ 1439 && h.stop ≤ 1439 && h.start != h.stop

/-- An enrolment with its address. -/
structure EnrolReq where
  addr : Nat
  enrol : Enrolment
  deriving DecidableEq, Repr

/-- The four BAD_FIELD rows of 02 Table 2.2 that read the command alone. -/
def EnrolReq.fieldsOk (r : EnrolReq) : Bool :=
  addressOk r.addr && r.enrol.point ≤ 4095 && r.enrol.hours.all Hours.wellFormed
    && (match r.enrol.cls, r.enrol.comps with
        | .minibar, some n => 1 ≤ n && n ≤ 8
        | .minibar, none => false
        | _, some _ => false
        | _, none => true)
    && (match r.enrol.cls, r.enrol.entry with
        | .amenityGate, e => e.isNone
        | .service, e => e.isNone
        | .roomEntry, e => e == some r.enrol.point
        | _, e => e.isSome)

/-- The 15 bytes of an ENROLL_NODE body, or of an enrolment record of a settings image, at an offset (10 Table 10.15);
none where a field check of 02 Table 2.2 gives BAD_FIELD. -/
def enrolAt (b : List Byte) (i : Nat) : Option EnrolReq :=
  match pointClassOf (byteAt b (i + 3)), flagAt b (i + 4), flagAt b (i + 7), flagAt b (i + 12), flagAt b (i + 13) with
  | some cls, some hasEntry, some hasHours, some oos, some hasComps =>
    let r : EnrolReq :=
      { addr := byteAt b i
        enrol :=
          { point := u16At b (i + 1)
            cls := cls
            entry := if hasEntry then some (u16At b (i + 5)) else none
            hours := if hasHours then some (hoursAt b (i + 8)) else none
            oos := oos
            comps := if hasComps then some (byteAt b (i + 14)) else none } }
    if r.fieldsOk then some r else none
  | _, _, _, _, _ => none

/-- The fields of an ENROLL_NODE body that follow its address, 14 bytes (10 Tables 10.15, 10.16). -/
def Enrolment.bytes (e : Enrolment) : List Byte :=
  le16 e.point ++ [byteOf e.cls.code, flagByte e.entry.isSome] ++ optLe16 e.entry
    ++ [flagByte e.hours.isSome] ++ orZeros 4 (e.hours.map Hours.bytes)
    ++ [flagByte e.oos, flagByte e.comps.isSome] ++ optByte e.comps

/-- The actions of SET_NODE (02:R27). -/
inductive NodeAction where
  | disable | enable
  deriving DecidableEq, Repr

/-- The body of SET_NODE (02:R27): the parts that are present. -/
structure SetNodeReq where
  addr : Nat
  oos : Option Bool
  hours : Option (Option Hours)
  action : Option NodeAction
  deriving DecidableEq, Repr

/-- A field carried as optional, with its presence indication: its value where it is present; none where the indication
is neither 0 nor 1, or where the field lies outside its set, present or absent (10:R186). -/
def optionalPart {α : Type} (present : Option Bool) (value : Option α) : Option (Option α) :=
  match present, value with
  | some p, some v => some (if p then some v else none)
  | _, _ => none

/-- The flag part: presence and value. -/
def flagPartAt (b : List Byte) (i : Nat) : Option (Option Bool) := optionalPart (flagAt b i) (flagAt b (i + 1))

/-- Opening hours with their presence. -/
def optHoursAt (b : List Byte) (i : Nat) : Option (Option Hours) := optionalPart (flagAt b i) (some (hoursAt b (i + 1)))

/-- The hours part: presence, presence of opening hours, opening hours. -/
def hoursPartAt (b : List Byte) (i : Nat) : Option (Option (Option Hours)) :=
  optionalPart (flagAt b i) (optHoursAt b (i + 1))

/-- An action code of SET_NODE (10 Table 10.11). -/
def nodeActionOf (k : Nat) : Option NodeAction :=
  match k with
  | 0 => some .disable
  | 1 => some .enable
  | _ => none

/-- The action part: presence and code. -/
def actionPartAt (b : List Byte) (i : Nat) : Option (Option NodeAction) :=
  optionalPart (flagAt b i) (nodeActionOf (byteAt b (i + 1)))

def setNodeReq (b : List Byte) : Option SetNodeReq :=
  match flagPartAt b 1, hoursPartAt b 3, actionPartAt b 9 with
  | some oos, some hours, some action =>
    if addressOk (byteAt b 0) then some ⟨byteAt b 0, oos, hours, action⟩ else none
  | _, _, _ => none

/-- An access image at an offset (10 Table 10.12). -/
def imageAt (b : List Byte) (i : Nat) : Image := ⟨u16At b i, byteAt b (i + 2), b.getD (i + 3) 0⟩

/-- The class mask names a class: the bit of the same number (10 Table 10.11). -/
def maskNames (m : Byte) (c : PointClass) : Bool := m.getLsbD c.code

/-- 04:R66. Bits 5 to 7 of the mask name no class (log 21 DEDUCED). -/
def Image.wellFormed (i : Image) : Bool :=
  i.base ≤ 4095 && i.span ≤ 12 && i.base % 2 ^ i.span == 0
    && [PointClass.roomEntry, .suiteInner, .minibar, .amenityGate, .service].any (maskNames i.mask)

/-- The body of ISSUE_CARD (04:R68). -/
structure IssueReq where
  kind : CredKind
  serial : Nat
  image1 : Image
  image2 : Option Image
  validStart : Nat
  validEnd : Nat
  schedule : Option Hours
  entry : Option Nat
  mode : Option StayMode
  deriving DecidableEq, Repr

/-- The stay mode part: presence and code. -/
def modePartAt (b : List Byte) (i : Nat) : Option (Option StayMode) :=
  optionalPart (flagAt b i) (stayModeOf (byteAt b (i + 1)))

/-- The BAD_FIELD conditions of 04:R68 that read the fields. -/
def IssueReq.fieldsOk (r : IssueReq) : Bool :=
  r.image1.wellFormed && r.image2.all Image.wellFormed
    && r.schedule.all (fun h => h.start ≤ 1439 && h.stop ≤ 1439)
    && (if r.kind = .guest then r.entry.isSome && r.mode.isSome else r.entry.isNone && r.mode.isNone)

/-- The 33 bytes of an ISSUE_CARD body; none where 04:R68 gives BAD_FIELD. -/
def issueReq (b : List Byte) : Option IssueReq :=
  match credKindOf (byteAt b 0), flagAt b 5, flagAt b 10, flagAt b 23, flagAt b 28, modePartAt b 31 with
  | some kind, some true, some has2, some hasSchedule, some hasEntry, some mode =>
    let r : IssueReq :=
      { kind := kind
        serial := u32At b 1
        image1 := imageAt b 6
        image2 := if has2 then some (imageAt b 11) else none
        validStart := u32At b 15
        validEnd := u32At b 19
        schedule := if hasSchedule then some (hoursAt b 24) else none
        entry := if hasEntry then some (u16At b 29) else none
        mode := mode }
    if r.fieldsOk then some r else none
  | _, _, _, _, _, _ => none

/-- What CARD_STATUS asks for (04:R85): a credential number or a serial. -/
inductive CardQuery where
  | number (n : Nat)
  | serial (s : Nat)
  deriving DecidableEq, Repr

def cardQuery (b : List Byte) : Option CardQuery :=
  match flagAt b 0, flagAt b 3 with
  | some true, some false => if u16At b 1 ≤ 767 then some (.number (u16At b 1)) else none
  | some false, some true => some (.serial (u32At b 4))
  | _, _ => none

/-- The LINE_CONTROL actions (01:R21). -/
inductive LineAction where
  | retrain | disable | enable
  deriving DecidableEq, Repr

/-- The line and action of a LINE_CONTROL body; none outside their values (01:R21). -/
def lineControlReq (b : List Byte) : Option (LineId × LineAction) :=
  match lineOf (byteAt b 0), byteAt b 1 with
  | some l, 0 => some (l, .retrain)
  | some l, 1 => some (l, .disable)
  | some l, 2 => some (l, .enable)
  | _, _ => none

end Sys2Proof.Machine
end

