-- ==== Sys2Proof/Machine/Ops.lean ====
section
/-! DEFINITION. The operations every block uses: outgoing frames and notices (10:R184, R187, R188), journal appends
(09:R170, R171), free choices, and the named lookups and updates of the records of each block. -/

namespace Sys2Proof.Machine

open Sys2Proof

/-! ### Settings in use -/

/-- The running settings. -/
def State.settings (s : State) : Settings := s.loader.settings

/-- Wing seconds. -/
def State.now (s : State) : Nat := s.time.secs

/-! ### Outgoing frames -/

/-- A frame made ready (10:R187): its sending begins when nothing is being sent, otherwise it waits its turn (log 17 DEDUCED). -/
def Port.ready (f : OutFrame) (p : Port) : Port :=
  match p.sending with
  | none => { p with sending := some f }
  | some _ => { p with waiting := p.waiting ++ [f] }

/-- The frame is a LINK_REJECT. -/
def OutFrame.isReject : OutFrame → Bool
  | .reject _ _ _ => true
  | _ => false

/-- A LINK_REJECT whose further-rejects count has risen by 1, saturating at 255 (10:R184). -/
def OutFrame.oneFurther : OutFrame → OutFrame
  | .reject r k n => .reject r k (satAdd 255 n 1)
  | f => f

/-- The last LINK_REJECT of a list, its count raised. -/
def raiseNewestReject : List OutFrame → List OutFrame
  | [] => []
  | f :: fs => if fs.any OutFrame.isReject then f :: raiseNewestReject fs else
      (if f.isReject then f.oneFurther :: fs else f :: fs)

/-- A rejection (10:R184): a LINK_REJECT is made ready, or with 4 waiting the newest's further-rejects count rises. -/
def Port.rejection (r : RejectReason) (about : KindTag) (p : Port) : Port :=
  if 4 ≤ (p.waiting.filter OutFrame.isReject).length then { p with waiting := raiseNewestReject p.waiting }
  else p.ready (.reject r about 0)

def State.rejection (r : RejectReason) (about : KindTag) (s : State) : State :=
  { s with port := s.port.rejection r about }

/-! ### Notices (10:R188) -/

def Arming.get (a : Arming) : NoticeKind → Bool
  | .journalWaiting => a.journalWaiting
  | .nodeChange => a.nodeChange
  | .lineChange => a.lineChange
  | .alarm => a.alarm

def Arming.put (a : Arming) (b : Bool) : NoticeKind → Arming
  | .journalWaiting => { a with journalWaiting := b }
  | .nodeChange => { a with nodeChange := b }
  | .lineChange => { a with lineChange := b }
  | .alarm => { a with alarm := b }

/-- The number of unacknowledged records (09:R172). -/
def Journal.unacked (j : Journal) : Nat := j.recs.length - j.acked

/-- The free space of the journal (09:R172). -/
def Journal.freeSpace (j : Journal) : Nat := 2048 - j.unacked

/-- The notice of a kind, its body composed from the state (10 Table 10.5). -/
def noticeFrame (k : NoticeKind) (s : State) : OutFrame :=
  match k with
  | .journalWaiting => .notice 0x61 (le16 s.journal.unacked ++ le32 s.journal.next)
  | .nodeChange => .notice 0x62 []
  | .lineChange => .notice 0x63 [byteOf s.lines.lineA.st.code, byteOf s.lines.lineB.st.code]
  | .alarm => .notice 0x64 []

/-- A condition raised at the port (10:R188). -/
def State.raise (k : NoticeKind) (s : State) : State :=
  if s.part = .running ∧ s.port.arm.get k then
    { s with port := { s.port.ready (noticeFrame k s) with arm := s.port.arm.put false k } }
  else s

/-- A kind armed again (10:R188). -/
def State.rearm (s : State) (k : NoticeKind) : State := { s with port := { s.port with arm := s.port.arm.put true k } }

/-! ### The journal -/

/-- Room for one record (09:R171): the ring after the removal, if one is needed, and the gap count of the append. -/
def Journal.makeRoom (j : Journal) : Journal × Option Nat :=
  if j.recs.length < 2048 then (j, none)
  else if 0 < j.acked then ({ j with recs := j.recs.drop 1, acked := j.acked - 1 }, none)
  else ({ j with recs := j.recs.drop 1 }, some (satAdd 65535 1 ((j.recs.head?.bind (·.gap)).getD 0)))

/-- The append of a record (09:R170) with the wing seconds it stands at. -/
def Journal.push (secs : Nat) (e : Entry) (j : Journal) : Journal :=
  { j.makeRoom.1 with
    recs := j.makeRoom.1.recs ++ [⟨j.next, secs, e, j.makeRoom.2⟩]
    next := wrap32 (j.next + 1) }

/-- A record written at the event in progress (09:R168, R170), and the JOURNAL_WAITING condition of 09:R176. -/
def State.append (e : Entry) (s : State) : State :=
  let s1 := { s with journal := s.journal.push (e.secs.getD s.now) e }
  if s.settings.journalThreshold ≤ s1.journal.unacked then s1.raise .journalWaiting else s1

/-! ### Free choices -/

/-- The next free choice between two orders (log 14 DESIGN CHOICE). -/
def State.tie (s : State) : Bool := Config.tie s.choices

/-- The free-choice counter after a use. -/
def State.chose (s : State) : State := { s with choices := s.choices + 1 }

/-! ### Nodes -/

def State.node? (s : State) (a : Nat) : Option Node := findKey Node.addr a s.nodes

def State.modNode (a : Nat) (f : Node → Node) (s : State) : State := { s with nodes := modKey Node.addr a f s.nodes }

/-- The addresses listed, ascending. -/
def State.addrs (s : State) : List Nat := s.nodes.map Node.addr

/-- The enrolled ROOM_ENTRY node with a point number (02:R24). -/
def State.roomNode? (s : State) (point : Nat) : Option Node :=
  s.nodes.find? (fun n => n.enrol.point == point && n.enrol.cls == .roomEntry)

/-- An act at each of some addresses, in their order. -/
def State.forEach (as : List Nat) (f : Nat → State → State) (s : State) : State := as.foldl (fun t a => f a t) s

/-- The node's state is ONLINE or PROBATION. -/
def NodeState.answering (st : NodeState) : Bool :=
  match st with
  | .online => true
  | .probation => true
  | _ => false

/-- 01:R18: a latched item of a node. -/
def State.latchFallback (a : Nat) (s : State) : State := s.modNode a (fun n => { n with latchFallback := true })

/-- FALLBACK_PARAMS latched for every enrolled node (03:R47, R48). -/
def State.latchFallbackAll (s : State) : State :=
  { s with nodes := s.nodes.map (fun n => { n with latchFallback := true }) }

/-! ### Credentials -/

def State.cred? (s : State) (n : Nat) : Option Cred := findKey Cred.number n s.store.recs

def State.putCred (c : Cred) (s : State) : State := { s with store := { s.store with recs := putKey Cred.number c s.store.recs } }

def State.modCred (n : Nat) (f : Cred → Cred) (s : State) : State :=
  { s with store := { s.store with recs := modKey Cred.number n f s.store.recs } }

/-- ISSUED, ACTIVE or SUSPENDED. -/
def CredState.current : CredState → Bool
  | .issued => true
  | .active => true
  | .suspended _ _ => true
  | _ => false

/-- Live: ENCODING, ISSUED, ACTIVE or SUSPENDED (04:R63). -/
def CredState.live : CredState → Bool
  | .encoding _ => true
  | .issued => true
  | .active => true
  | .suspended _ _ => true
  | _ => false

def CredState.isEncoding : CredState → Bool
  | .encoding _ => true
  | _ => false

/-- The retired_at of a record, present in REVOKED and EXPIRED (04 Table 4.1). -/
def CredState.retiredAt : CredState → Option Nat
  | .revoked t _ => some t
  | .expired t => some t
  | _ => none

/-- A GUEST credential of an entry point. -/
def Cred.guestOf (c : Cred) (point : Nat) : Bool := c.kind == .guest && c.guest.any (fun g => g.entry == point)

/-! ### Rooms and folios -/

def State.room? (s : State) (point : Nat) : Option Room := findKey Room.point point s.revoc.rooms

def State.modRoom (point : Nat) (f : Room → Room) (s : State) : State :=
  { s with revoc := { s.revoc with rooms := modKey Room.point point f s.revoc.rooms } }

def State.folio? (s : State) (point : Nat) : Option Folio := findKey Folio.point point s.minibar.folios

def State.modFolio (point : Nat) (f : Folio → Folio) (s : State) : State :=
  { s with minibar := { s.minibar with folios := modKey Folio.point point f s.minibar.folios } }

/-! ### Lines -/

def State.line (s : State) : LineId → Line
  | .a => s.lines.lineA
  | .b => s.lines.lineB

def State.modLine (l : LineId) (f : Line → Line) (s : State) : State :=
  match l with
  | .a => { s with lines := { s.lines with lineA := f s.lines.lineA } }
  | .b => { s with lines := { s.lines with lineB := f s.lines.lineB } }

/-- In service: UP or DEGRADED (01:R1). -/
def LineState.inService : LineState → Bool
  | .up => true
  | .degraded => true
  | _ => false

/-- At least one line is in service. -/
def State.service (s : State) : Bool := s.lines.lineA.st.inService || s.lines.lineB.st.inService

end Sys2Proof.Machine
end

