-- ==== Sys2Proof/Machine/Revocation.lean ====
section
/-! DEFINITION. The revocation unit's shared operations (05): coverage and relevance, the change journal, reload marks,
the revocation list, the cache limit, and the delivery cursor at answers and round starts. -/

namespace Sys2Proof.Machine

open Sys2Proof

/-! ### Coverage and relevance -/

/-- 04:R67: the image covers a lock point of a class. -/
def Image.covers (i : Image) (point : Nat) (cls : PointClass) : Bool :=
  i.base ≤ point && point < i.base + 2 ^ i.span && maskNames i.mask cls

/-- 04:R67: the credential claims the lock point of a node. -/
def Cred.claims (c : Cred) (n : Node) : Bool :=
  c.image1.covers n.enrol.point n.enrol.cls || c.image2.any (fun i => i.covers n.enrol.point n.enrol.cls)
    || c.kind == .emergency

/-- 05:R103: an ADD or REMOVE, or a list entry, naming a credential number or NONE is relevant to a node. -/
def State.credRelevant (s : State) (cred : Option Nat) (n : Node) : Bool :=
  match cred with
  | none => true
  | some k => (s.cred? k).any (fun c => c.claims n)

/-- 05:R103: a change is relevant to a node. -/
def State.relevant (s : State) (c : Change) (n : Node) : Bool :=
  match c.body with
  | .add _ cred => s.credRelevant cred n
  | .remove _ cred => s.credRelevant cred n
  | .floor point _ => n.enrol.entry == some point

/-- 05:R104: a change is deliverable to a node: relevant, and no ADD while the node is RESTRICTED. -/
def State.deliverable (s : State) (c : Change) (n : Node) : Bool :=
  s.relevant c n && !(n.fallback == .restricted && (match c.body with | .add _ _ => true | _ => false))

/-- The deliverable changes above acked_upto, oldest first. -/
def State.deliverables (s : State) (n : Node) : List Change :=
  s.revoc.changes.filter (fun c => s.deliverable c n && genBelow n.cursor.acked c.gen)

/-- The outstanding count (05:R104): deliverable changes above acked_upto and not above sent_upto. -/
def State.outstanding (s : State) (n : Node) : Nat :=
  ((s.deliverables n).filter (fun c => !genBelow n.cursor.sent c.gen)).length

/-- The effective generation (05:R104). -/
def State.effectiveGen (s : State) (n : Node) : Nat :=
  match (s.deliverables n).head? with
  | some c => sub32 c.gen 1
  | none => s.revoc.gen

/-- The cache count R(node) (05:R103). -/
def State.cacheCount (s : State) (n : Node) : Nat :=
  (s.revoc.entries.filter (fun e => s.credRelevant e.cred n)).length
    + ((s.deliverables n).filter (fun c => match c.body with | .remove _ _ => true | _ => false)).length

/-! ### Reload state -/

/-- A reload is under way: SENDING or AWAITING (05:R108). -/
def Reload.underWay : Reload → Bool
  | .sending _ _ => true
  | .awaiting _ _ => true
  | _ => false

/-- No reload is marked or under way. -/
def Reload.isNone : Reload → Bool
  | .none => true
  | _ => false

/-- A node marked for reload (05:R108): NONE and MARKED give MARKED, a reload under way restarts. -/
def Node.marked (n : Node) : Node := { n with reload := .marked }

def State.markReload (a : Nat) (s : State) : State := s.modNode a Node.marked

/-- The reload of a node that leaves ONLINE and PROBATION (05:R108): under way becomes MARKED. -/
def Node.reloadLeft (n : Node) : Node := if n.reload.underWay then n.marked else n

/-! ### The change journal -/

/-- 05:R102: what the drop of a generation does to one node. -/
def State.afterDrop (s : State) (dropped : Nat) (n : Node) : Node :=
  if n.st = .disabled then n
  else
    match n.reload with
    | .none => if genBelow (s.effectiveGen n) dropped then n.marked else n
    | .marked => n
    | .sending g _ => if genBelow g dropped then n.marked else n
    | .awaiting g _ => if genBelow g dropped then n.marked else n

/-- 05:R102: with 512 changes held the oldest is dropped before a change is emitted. -/
def State.dropOldest (s : State) : State :=
  if s.revoc.changes.length < 512 then s
  else
    match s.revoc.changes with
    | [] => s
    | c :: cs => { s with nodes := s.nodes.map (s.afterDrop c.gen), revoc := { s.revoc with changes := cs } }

/-- 05:R101: a change is emitted with the next generation. -/
def State.emit (b : ChangeBody) (s : State) : State :=
  let t := s.dropOldest
  { t with
    revoc :=
      { t.revoc with
        gen := wrap32 (t.revoc.gen + 1)
        changes := t.revoc.changes ++ [⟨wrap32 (t.revoc.gen + 1), b⟩] } }

/-! ### Fallback mode -/

/-- A change of a node's fallback mode (02:R39): FALLBACK_PARAMS latched and NODE_CHANGE raised. -/
def State.setFallback (a : Nat) (m : FallbackMode) (s : State) : State :=
  (s.modNode a (fun n => { n with fallback := m, latchFallback := true })).raise .nodeChange

/-- 05:R107 at an ADD naming `cred`: the nodes whose cache count passes 256 become RESTRICTED. -/
def State.restrictCheck (cred : Option Nat) (s : State) : State :=
  s.forEach s.addrs (fun a t =>
    match t.node? a with
    | some n =>
      if n.fallback = .full ∧ t.credRelevant cred n ∧ 256 < t.cacheCount n then t.setFallback a .restricted else t
    | none => t)

/-- 05:R107 at an event that lowers R(node) from what `before` holds: a RESTRICTED node with no reload marked or under
way whose count is now 256 or less is marked. -/
def State.relaxCheck (s before : State) : State :=
  { s with
    nodes := s.nodes.map (fun n =>
      if n.fallback = .restricted ∧ n.reload.isNone ∧ s.cacheCount n ≤ 256
          ∧ s.cacheCount n < ((before.node? n.addr).map before.cacheCount).getD 0
      then n.marked else n) }

/-! ### The revocation list -/

/-- The entry holding a serial (05:R93: at most one). -/
def State.entry? (s : State) (serial : Nat) : Option ListEntry := s.revoc.entries.find? (fun e => e.serial == serial)

def State.setEntries (es : List ListEntry) (s : State) : State := { s with revoc := { s.revoc with entries := es } }

/-- The entry holding a serial is taken off the list, with its REMOVE change (05:R93). -/
def State.removeEntry (e : ListEntry) (s : State) : State :=
  let t := (s.setEntries (dropKey ListEntry.serial e.serial s.revoc.entries)).emit (.remove e.serial e.cred)
  t.relaxCheck s

/-- An entry joins the tail with its ADD change (05:R93); `retireAt` in wing seconds. -/
def State.pushEntry (serial : Nat) (cred : Option Nat) (reason : ListReason) (retireAt : Nat) (s : State) : State :=
  let t := s.emit (.add serial cred)
  (t.setEntries (t.revoc.entries ++ [⟨serial, cred, reason, retireAt, t.revoc.gen⟩])).restrictCheck cred

/-- An entry put into a new form: a fresh ADD change, and it moves to the tail (05:R93). -/
def State.reformEntry (e : ListEntry) (cred : Option Nat) (reason : ListReason) (s : State) : State :=
  (s.setEntries (dropKey ListEntry.serial e.serial s.revoc.entries)).pushEntry e.serial cred reason e.retireAt

/-- Every entry whose retire_at is below the wing seconds is removed, in list order (05:R94, R99). -/
def State.retireEntries (s : State) : State :=
  (s.revoc.entries.filter (fun e => e.retireAt < s.now)).foldl (fun t e => t.removeEntry e) s

/-- 05:R94: room for an entry is asked for; with 256 entries the past ones are removed first. -/
def State.askRoom (s : State) : State := if s.revoc.entries.length < 256 then s else s.retireEntries

/-- The list has room for one more entry. -/
def State.listHasRoom (s : State) : Bool := s.revoc.entries.length < 256

/-- A change with a credential number replaced by NONE (05:R100). -/
def Change.forget (k : Nat) (c : Change) : Change :=
  match c.body with
  | .add serial (some n) => if n = k then { c with body := .add serial none } else c
  | .remove serial (some n) => if n = k then { c with body := .remove serial none } else c
  | _ => c

/-- 05:R100: a reclamation or purge of a slot reported to the revocation unit, before the slot is reused. The entry is
put into its new form, with its fresh ADD, the drop from a full journal and the cache test, before the number is replaced
in the changes held (log 22 DESIGN CHOICE). -/
def State.reportReuse (k : Nat) (s : State) : State :=
  let t := match s.revoc.entries.find? (fun e => e.cred == some k) with
    | some e => s.reformEntry e none .foreign
    | none => s
  { t with revoc := { t.revoc with changes := t.revoc.changes.map (Change.forget k) } }

/-! ### Acknowledgements -/

/-- 05:R106, no reload under way: the acknowledged generation of a good answer. -/
def Cursor.acknowledge (current a : Nat) (c : Cursor) : Cursor :=
  if genBelow c.acked a ∧ ¬ genBelow current a then
    { acked := a, sent := if genBelow c.sent a then a else c.sent, stall := 0 }
  else c

/-- 05:R110: the answer ends the reload of a node in AWAITING: a round start has passed since RELOAD_END was placed, the
acknowledged generation is G and cache lost is clear. -/
def Node.endsReload (n : Node) (a : Nat) (cacheLost : Bool) : Bool :=
  match n.reload with
  | .awaiting g w => 1 ≤ w && a == g && !cacheLost
  | _ => false

/-- 05:R106 and R110: the acknowledged generation of a good answer goes to the revocation unit. -/
def State.acknowledge (addr a : Nat) (cacheLost : Bool) (s : State) : State :=
  match s.node? addr with
  | none => s
  | some n =>
    if n.reload.underWay then
      if n.endsReload a cacheLost then
        let t := s.modNode addr (fun n => { n with cursor := ⟨a, a, 0⟩, reload := .none })
        match t.node? addr with
        | some m => if m.fallback = .restricted ∧ t.cacheCount m ≤ 256 then t.setFallback addr .full else t
        | none => t
      else s
    else
      let t := s.modNode addr (fun n => { n with cursor := n.cursor.acknowledge s.revoc.gen a })
      t.relaxCheck s

/-- 05:R104: the node's cache is current at a good answer that does not itself end a reload: no reload marked or under
way, and every deliverable change at or below sent_upto. -/
def State.caughtUp (s : State) (n : Node) : Bool :=
  n.reload.isNone && s.revoc.changes.all (fun c => !s.deliverable c n || !genBelow n.cursor.sent c.gen)

/-! ### Round starts -/

/-- 05:R106: the stall count of a node with no reload under way at a round start. -/
def State.stallStep (s : State) (n : Node) : Node :=
  if n.reload.underWay then n
  else if s.outstanding n = 0 then { n with cursor := { n.cursor with stall := 0 } }
  else if 8 ≤ n.cursor.stall + 1 then { n with cursor := { n.cursor with sent := n.cursor.acked, stall := 0 } }
  else { n with cursor := { n.cursor with stall := n.cursor.stall + 1 } }

/-- 05:R110: the wait count of a node in AWAITING at a round start. -/
def Node.waitStep (n : Node) : Node :=
  match n.reload with
  | .awaiting g w => if 8 ≤ w + 1 then n.marked else { n with reload := .awaiting g (w + 1) }
  | _ => n

end Sys2Proof.Machine
end

