-- ==== Sys2Proof/Machine/Minibars.lean ====
section
/-! DEFINITION. The minibar unit's shared operations (08): stock, sessions, charge lines and their commit, the held
condition, the checkout and reopening of a folio. -/

namespace Sys2Proof.Machine

open Sys2Proof

/-! ### The held condition (08:R160) -/

/-- OPEN with balance plus pending total at or above the ceiling. -/
def Folio.held (f : Folio) : Bool := f.isOpen && f.ceiling ≤ f.balance + f.pendingTotal

def State.folioHeld (s : State) (point : Nat) : Bool := (s.folio? point).any Folio.held

/-- 08:R160: FOLIO_HELD is written when the folio was not held before the event and is held now. -/
def State.judgeHeld (point : Nat) (before : Bool) (s : State) : State :=
  match s.folio? point with
  | some f =>
    if !before && f.held then
      s.append { kind := .folioHeld, point := some point, node := (s.roomNode? point).map Node.addr,
                 amount := some (min 9999999 (f.balance + f.pendingTotal)) }
    else s
  | none => s

/-! ### Charge lines -/

/-- The line names compartment `c` of node `a`. -/
def ChargeLine.names (l : ChargeLine) (a c : Nat) : Bool := l.node == a && l.comp == c

def State.lineFor? (s : State) (a c : Nat) : Option ChargeLine := s.minibar.pool.find? (fun l => l.names a c)

def State.setPool (p : List ChargeLine) (s : State) : State := { s with minibar := { s.minibar with pool := p } }

/-- The point number of a node, for a record. -/
def State.pointOf (s : State) (a : Nat) : Option Nat := (s.node? a).map (fun n => n.enrol.point)

/-- A rise of a folio's balance, stopping at 9,999,999 (08:R158 step 2). -/
def Folio.charged (amount : Nat) (f : Folio) : Folio := { f with balance := satAdd 9999999 f.balance amount }

/-- Steps 2 and 4 of 08:R158: the balance rises and MINIBAR_CHARGE is written. -/
def State.chargeNow (l : ChargeLine) (s : State) : State :=
  (s.modFolio l.folio (Folio.charged l.amount)).append
    { kind := .minibarCharge, node := some l.node, point := s.pointOf l.node, amount := some l.amount,
      value1 := some l.comp, value2 := some l.count }

/-- 08:R158: the commit of a line of the pool. -/
def State.commitLine (l : ChargeLine) (s : State) : State :=
  let t := s.setPool (s.minibar.pool.filter (fun x => !x.names l.node l.comp))
  let u := t.modFolio l.folio (fun f =>
    { f with balance := satAdd 9999999 f.balance l.amount, pendingTotal := f.pendingTotal - l.amount })
  u.append
    { kind := .minibarCharge, node := some l.node, point := s.pointOf l.node, amount := some l.amount,
      value1 := some l.comp, value2 := some l.count }

/-- The lines of the pool that a test takes are committed in pool order. -/
def State.commitWhere (p : ChargeLine → Bool) (s : State) : State :=
  (s.minibar.pool.filter p).foldl (fun t l => t.commitLine l) s

/-- A line's count and amount changed in the pool, the folio's pending total following (08:R152, R153). -/
def State.setLine (old new : ChargeLine) (s : State) : State :=
  (s.setPool (s.minibar.pool.map (fun x => if x.names old.node old.comp then new else x))).modFolio old.folio (fun f =>
    { f with pendingTotal := f.pendingTotal + new.amount - old.amount })

/-- A line leaves the pool without a record (08:R153). -/
def State.cancelLine (l : ChargeLine) (s : State) : State :=
  (s.setPool (s.minibar.pool.filter (fun x => !x.names l.node l.comp))).modFolio l.folio (fun f =>
    { f with pendingTotal := f.pendingTotal - l.amount })

/-- The compartment of a node, its initial values where it is not held. -/
def Node.comp (n : Node) (c : Nat) : Compartment := n.comps.getD (c - 1) Compartment.initial

/-- 08:R152: a removal of `n` items charged to a folio. -/
def State.charge (folio a c n : Nat) (price item : Nat) (s : State) : State :=
  let before := s.folioHeld folio
  match s.lineFor? a c with
  | some l =>
    (s.setLine l { l with count := satAdd 15 l.count n, amount := price * satAdd 15 l.count n }).judgeHeld folio before
  | none =>
    let l : ChargeLine := ⟨folio, a, c, item, min 15 n, price * min 15 n, s.now, s.now + s.settings.returnWindow⟩
    if s.settings.returnWindow = 0 then (s.chargeNow l).judgeHeld folio before
    else
      let t := match s.minibar.pool with
        | h :: _ => if 64 ≤ s.minibar.pool.length then s.commitLine h else s
        | [] => s
      ((t.setPool (t.minibar.pool ++ [l])).modFolio folio (fun f =>
        { f with pendingTotal := f.pendingTotal + l.amount })).judgeHeld folio before

/-- 08:R153: a return of `n` items; `cred` is the session's credential number in a GUEST session. -/
def State.giveBack (a c n : Nat) (price : Nat) (cred : Option Nat) (s : State) : State :=
  match s.lineFor? a c with
  | some l =>
    if l.count ≤ n then s.cancelLine l
    else s.setLine l { l with count := l.count - n, amount := price * (l.count - n) }
  | none =>
    s.append { kind := .returnAfterCommit, node := some a, point := s.pointOf a, cred := cred,
               value1 := some c, value2 := some n }

/-! ### Stock (08:R151) -/

def Node.setStock (c stock : Nat) (n : Node) : Node :=
  { n with comps := n.comps.modify (c - 1) (fun k => { k with stock := stock }) }

def State.stockAnomaly (a c : Nat) (s : State) : State :=
  s.append { kind := .stockAnomaly, node := some a, point := s.pointOf a, value1 := some c }

/-- The stock of compartment `c` falls by `n`, stopping at 0. -/
def State.stockFall (node : Node) (c n : Nat) (s : State) : State :=
  let t := s.modNode node.addr (Node.setStock c ((node.comp c).stock - n))
  if (node.comp c).stock < n then t.stockAnomaly node.addr c else t

/-- The stock of compartment `c` rises by `n`, stopping at the capacity. -/
def State.stockRise (node : Node) (c n : Nat) (s : State) : State :=
  let t := s.modNode node.addr (Node.setStock c (min (node.comp c).capacity ((node.comp c).stock + n)))
  if (node.comp c).capacity < (node.comp c).stock + n then t.stockAnomaly node.addr c else t

/-! ### Compartment events (08 Table 8.2) -/

/-- The folio that charges outside a session go to: that of the node's entry point, if it exists and is OPEN. -/
def State.openFolio? (s : State) (entry : Option Nat) : Option Nat :=
  entry.bind (fun p => if (s.folio? p).any (fun f => f.isOpen) then some p else none)

/-- A REMOVED item with a count above 0 (08:R151 to R155). -/
def State.removedItem (node : Node) (c n : Nat) (s : State) : State :=
  let t := s.stockFall node c n
  let k := node.comp c
  match node.session with
  | some ses =>
    match ses.mode, ses.folio with
    | .guest, some f => t.charge f node.addr c n k.price k.item
    | _, _ => t
  | none =>
    let u := t.append { kind := .unattendedRemoval, node := some node.addr, point := t.pointOf node.addr,
                        value1 := some c, value2 := some n }
    match u.openFolio? node.enrol.entry with
    | some f => u.charge f node.addr c n k.price k.item
    | none => u

/-- A RETURNED item with a count above 0 (08:R151, R153 to R155). -/
def State.returnedItem (node : Node) (c n : Nat) (s : State) : State :=
  let t := s.stockRise node c n
  let k := node.comp c
  match node.session with
  | some ses =>
    match ses.mode with
    | .guest => t.giveBack node.addr c n k.price (some ses.cred)
    | .restock => t
  | none => t.giveBack node.addr c n k.price none

/-- A session's end: its record is discarded (08:R150). -/
def Node.endSession (n : Node) : Node := { n with session := none }

/-- 08:R149: the opening of a session at the first send of a GRANT with a session mode. -/
def State.openSession (a : Nat) (mode : SessionMode) (cred : Nat) (s : State) : State :=
  match s.node? a with
  | none => s
  | some n =>
    match mode with
    | .restock => s.modNode a (fun n => { n with session := some ⟨.restock, cred, none, s.now⟩ })
    | .guest =>
      match s.openFolio? n.enrol.entry with
      | some f => s.modNode a (fun n => { n with session := some ⟨.guest, cred, some f, s.now⟩ })
      | none => s.modNode a Node.endSession

/-! ### Folios -/

/-- A folio as its creation leaves it (08:R159). -/
def Folio.initial (point ceiling : Nat) : Folio := ⟨point, false, 0, ceiling, 0, none⟩

/-- The GUEST sessions of a folio end (08:R150). -/
def State.endSessionsOf (point : Nat) (s : State) : State :=
  { s with
    nodes := s.nodes.map (fun n =>
      if n.session.any (fun x => x.mode == .guest && x.folio == some point) then n.endSession else n) }

/-- 08:R162: the checkout of a folio. An OPEN folio commits its lines, ends its sessions and becomes CLOSED. -/
def State.checkoutFolio (point : Nat) (s : State) : State :=
  match s.folio? point with
  | some f =>
    if f.isOpen then
      ((s.commitWhere (fun l => l.folio == point)).endSessionsOf point).modFolio point (fun f => { f with isOpen := false })
    else s
  | none => s

/-- The final balance a checkout returns (08:R162). -/
def State.balanceOf (s : State) (point : Nat) : Nat := ((s.folio? point).map (·.balance)).getD 0

/-- 08:R161: the reopening of a folio at a NEW_STAY confirm. The held condition is compared over the whole event
(log 23 DEDUCED). -/
def State.reopenFolio (point : Nat) (s : State) : State :=
  match s.folio? point with
  | none => s
  | some f =>
    let t :=
      if f.isOpen then
        let u := s.checkoutFolio point
        u.append { kind := .stayCheckout, point := some point, amount := some (u.balanceOf point) }
      else s
    (t.modFolio point (fun g =>
      { g with isOpen := true, balance := 0, ceiling := s.settings.defaultCeiling, openedAt := some s.now })).judgeHeld
        point f.held

/-- 08:R148: the withdrawal of a MINIBAR node, less the discard of its records. -/
def State.minibarLeaves (a : Nat) (s : State) : State :=
  (s.commitWhere (fun l => l.node == a)).modNode a Node.endSession

/-- The folio of a withdrawn room entry is discarded (08:R148); lines that name it are committed first and sessions that
name it end (08:R166). -/
def State.discardFolio (point : Nat) (s : State) : State :=
  let t := (s.commitWhere (fun l => l.folio == point)).endSessionsOf point
  { t with minibar := { t.minibar with folios := dropKey Folio.point point t.minibar.folios } }

end Sys2Proof.Machine
end

