-- ==== Sys2Proof/Machine/Credentials.lean ====
section
/-! DEFINITION. The shared operations of the credential store and of the room records (04, 05): revocation, the return
of an encoding, the taking of a slot, expiry, floor changes and the room commands' acts. -/

namespace Sys2Proof.Machine

open Sys2Proof

/-! ### The retired order (04:R64) -/

/-- The retired_at of a slot; 0 for a slot that holds none. -/
def State.retiredAt (s : State) (k : Nat) : Nat := ((s.cred? k).bind (fun c => c.st.retiredAt)).getD 0

/-- A slot put into the retired order after every slot whose retired_at is earlier than or equal to its own. -/
def insertRetired (at_ : Nat → Nat) (t k : Nat) : List Nat → List Nat
  | [] => [k]
  | x :: xs => if t < at_ x then k :: x :: xs else x :: insertRetired at_ t k xs

/-- A slot becomes REVOKED or EXPIRED with its retired_at and enters the retired order. -/
def State.retireSlot (k t : Nat) (st : CredState) (s : State) : State :=
  let u := s.modCred k (fun c => { c with st := st })
  { u with store := { u.store with retired := insertRetired s.retiredAt t k s.store.retired } }

/-! ### Revocation (04:R65, 05:R95) -/

/-- A revocation for a credential number and a reason. It is applied to ISSUED, ACTIVE and SUSPENDED and changes
nothing in any other state. Where the entry of a SUSPENDED credential is past and 05:R94 has removed it, the list stays as
it is and no entry is added (log 45 DESIGN CHOICE). -/
def State.revoke (k : Nat) (r : RevReason) (s : State) : State :=
  match s.cred? k with
  | none => s
  | some c =>
    if c.st.current then
      let t := (s.retireSlot k s.now (.revoked s.now r)).append
        { kind := .cardRevoked, cred := some k, serial := some c.serial, detail1 := some (.revReason r) }
      match c.st with
      | .suspended _ _ =>
        if r = .recycled then t
        else
          match t.entry? c.serial with
          | some e => t.reformEntry e e.cred .revoked
          | none => t
      | _ => t
    else s

/-- Revocations of some credential numbers, in their order. -/
def State.revokeAll (ks : List Nat) (r : RevReason) (s : State) : State := ks.foldl (fun t k => t.revoke k r) s

/-- The GUEST credentials of an entry point whose stay sequence passes a test, in ascending number. -/
def State.guestsWhere (s : State) (point : Nat) (p : Nat → Bool) : List Nat :=
  (s.store.recs.filter (fun c => c.guestOf point && c.guest.any (fun g => p g.stay))).map Cred.number

/-! ### Encodings -/

/-- 04:R77: the return of an encoding with a cause. -/
def State.returnEncoding (k : Nat) (cause : LapseCause) (s : State) : State :=
  match s.cred? k with
  | none => s
  | some c =>
    ({ s with
       store := { s.store with recs := dropKey Cred.number k s.store.recs, free := s.store.free ++ [k] } }).append
      { kind := .cardLapsed, cred := some k, serial := some c.serial, detail1 := some (.cause cause) }

/-- The GUEST credential in ENCODING that names an entry point (04:R69: at most one). -/
def State.pendingIssue? (s : State) (point : Nat) : Option Cred :=
  s.store.recs.find? (fun c => c.guestOf point && c.st.isEncoding)

/-- 04:R79: a room command cancels the pending guest issue of its room. -/
def State.cancelPending (point : Nat) (cause : LapseCause) (s : State) : State :=
  match s.pendingIssue? point with
  | some c => s.returnEncoding c.number cause
  | none => s

/-- The lapse time of a credential in ENCODING is reached (04:R78). -/
def Cred.lapsed (c : Cred) (now : Nat) : Bool :=
  match c.st with
  | .encoding t => t ≤ now
  | _ => false

/-- 04:R78: every encoding whose lapse time is reached is returned, in ascending number (log 22 DESIGN CHOICE). -/
def State.lapseEncodings (s : State) : State :=
  ((s.store.recs.filter (fun c => c.lapsed s.now)).map Cred.number).foldl (fun t k => t.returnEncoding k .lapsed) s

/-- 04:R70: the slot an issue takes: the head of the free list, or the head of the retired order, reclaimed. -/
def State.slot? (s : State) : Option Nat :=
  match s.store.free with
  | k :: _ => some k
  | [] => s.store.retired.head?

/-- 04:R70: the slot leaves the free list, or is reclaimed after the report to the revocation unit (05:R100). -/
def State.takeSlot (s : State) : State :=
  match s.store.free with
  | _ :: ks => { s with store := { s.store with free := ks } }
  | [] =>
    match s.store.retired with
    | k :: ks =>
      let t := s.reportReuse k
      { t with store := { t.store with retired := ks, recs := dropKey Cred.number k t.store.recs } }
    | [] => s

/-- 04:R84: the head of the retired order is purged. -/
def State.purgeHead (k : Nat) (s : State) : State :=
  let t := s.reportReuse k
  { t with
    store :=
      { recs := dropKey Cred.number k t.store.recs, free := t.store.free ++ [k], retired := t.store.retired.drop 1 } }

/-! ### Expiry (04:R83) -/

/-- A credential becomes EXPIRED with retired_at equal to its valid end. -/
def State.expire (k : Nat) (s : State) : State :=
  match s.cred? k with
  | some c => s.retireSlot k c.validEnd (.expired c.validEnd)
  | none => s

/-- The expiry sweep, in ascending credential number. -/
def State.expirySweep (s : State) : State :=
  ((s.store.recs.filter (fun c => c.st.current && c.validEnd < s.now)).map Cred.number).foldl (fun t k => t.expire k) s

/-! ### Floors and stays (05:R88 to R92) -/

/-- The floor history after a push (05:R88 step 1): at most 4 items, newest first. -/
def Room.pushFloor (v now : Nat) (r : Room) : Room :=
  { r with
    floor := v
    history := (⟨v, now⟩ :: r.history).take 4
    fromCreation := r.fromCreation && decide (r.history.length < 4) }

/-- 05:R88: the floor of a room becomes `v`; with a value different from the one held it is a floor change. -/
def State.setFloor (point v : Nat) (r : RevReason) (s : State) : State :=
  match s.room? point with
  | none => s
  | some room =>
    if room.floor = v then s
    else
      let t := (s.modRoom point (Room.pushFloor v s.now)).emit (.floor point v)
      t.revokeAll (t.guestsWhere point (fun stay => stay < v)) r

/-- 05:R89: the advance of a stay at the confirm of a NEW_STAY credential. -/
def State.advanceStay (point : Nat) (s : State) : State :=
  match s.room? point with
  | none => s
  | some room =>
    (s.modRoom point (fun r => { r with stay := room.stay + 1 })).setFloor point (room.stay + 1) .superseded

/-- 05:R90: the acts of REKEY_ROOM. -/
def State.rekey (point : Nat) (s : State) : State :=
  let t := s.cancelPending point .rekeyRoom
  match t.room? point with
  | none => t
  | some room =>
    ((t.modRoom point (fun r => { r with stay := room.stay + 1 })).setFloor point (room.stay + 1) .rekeyed).append
      { kind := .roomRekeyed, point := some point, value1 := some (room.stay + 1), value2 := some (room.stay + 1) }

/-- The nodes whose entry point is a room's point number are marked for reload (05:R92 step 5). -/
def State.markRoomNodes (point : Nat) (s : State) : State :=
  { s with nodes := s.nodes.map (fun n => if n.enrol.entry = some point then n.marked else n) }

/-- 05:R92 steps 2 to 5, also made by CHECKOUT at stay sequence 65,535 (05:R91). -/
def State.resetRoom (point : Nat) (s : State) : State :=
  let t := s.modRoom point (fun r =>
    { r with stay := 0, floor := 1, history := [⟨1, s.now⟩], fromCreation := false })
  ((t.revokeAll (t.guestsWhere point (fun _ => true)) .superseded).emit (.floor point 1)).markRoomNodes point

/-- A room record as enrolment creates it (05:R87), its floor standing from wing seconds `at_`. -/
def Room.initial (point at_ : Nat) : Room := ⟨point, 0, 1, [⟨1, at_⟩], true⟩

/-- A room has a current stay (05:R87). -/
def Room.hasStay (r : Room) : Bool := r.floor == r.stay

end Sys2Proof.Machine
end

