-- ==== Sys2Proof/Machine/Clocks.lean ====
section
/-! DEFINITION. Node clocks (03 sections 3.3 and 3.4): drift spans and samples, the grace per day, anchors, the upload
check and the reconstruction of a stamp; and the local minute of day (03:R47). -/

namespace Sys2Proof.Machine

open Sys2Proof

/-! ### Local time (03:R47) -/

/-- The local minute of day at a value of wing seconds: a floor, reduced to 0..1439. -/
def localMinute (offset : Int) (w : Nat) : Nat := ((((w : Int) + 60 * offset) / 60) % 1440).toNat

/-- An hour of a FALLBACK_PARAMS directive: a local minute reduced by the offset, modulo 1440. -/
def nodeMinute (offset : Int) (m : Nat) : Nat := (((m : Int) - offset) % 1440).toNat

/-- Opening hours as FALLBACK_PARAMS carries them. -/
def Hours.forNode (offset : Int) (h : Hours) : Hours := ⟨nodeMinute offset h.start, nodeMinute offset h.stop⟩

/-! ### Drift (03:R52 to R57) -/

/-- The raw sample of a closed span in ppm, truncated toward zero (03:R54). -/
def rawSample (dw dn : Nat) : Int := Int.tdiv (((dn : Int) - (dw : Int)) * 1000000) (dw : Int)

/-- The grace per day for a drift estimate and a spread (03:R57). -/
def graceOf (d : Int) (s : Nat) : Nat := min 600 (max 1 (ceilDiv ((d.natAbs + s + 20) * 86400) 1000000))

/-- A failure counted (03:R53, R54, R56): the failed-span counter rises, and CLOCK_SUSPECT is set when it reaches 4. -/
def Clock.failure (c : Clock) : Clock :=
  { c with failed := satAdd 255 c.failed 1, suspect := c.suspect || decide (4 ≤ satAdd 255 c.failed 1) }

/-- An accepted sample (03:R55, R57). -/
def Clock.accept (raw : Int) (c : Clock) : Clock :=
  let d := if c.samples = 0 then raw else quarterHalfAway (3 * c.d + raw)
  let s := if c.samples = 0 then 200 else max 2 (quarterHalfAway (3 * (c.s : Int) + ((raw - c.d).natAbs : Int))).toNat
  { c with failed := 0, suspect := false, d := d, s := s, samples := satAdd 255 c.samples 1, grace := graceOf d s }

/-- A span opened at a good answer (03:R52). -/
def Clock.openSpan (r w n : Nat) (c : Clock) : Clock := { c with span := some ⟨r, w, n, 0⟩ }

/-- The raw sample judged (03:R54, R55). -/
def Clock.judge (raw : Int) (c : Clock) : Clock := if 2000 < raw.natAbs then c.failure else c.accept raw

/-- Drift sampling at a good answer (03:R52, R53): the round number, the header tick and the tick stamp. -/
def Clock.sample (r w n : Nat) (c : Clock) : Clock :=
  match c.span with
  | none => c.openSpan r w n
  | some sp =>
    if 64 ≤ sp.k ∧ sp.k ≤ 72 then (c.judge (rawSample (sub48 w sp.w0) (sub32 n sp.n0))).openSpan r w n else c

/-- An open span discarded without a failure (03:R58). -/
def Clock.discardSpan (c : Clock) : Clock := { c with span := none }

/-- An open span discarded as failed (03:R53). -/
def Clock.failSpan (c : Clock) : Clock := c.discardSpan.failure

/-- The span's round count reaches 73 with one more round (03:R53). -/
def Clock.spanDue (c : Clock) : Bool := c.span.any (fun sp => 73 ≤ sp.k + 1)

/-- The rise of an open span's round count at a round start, or its failure (03:R52, R53). -/
def Clock.spanRise (c : Clock) : Clock :=
  match c.span with
  | none => c
  | some sp => if 73 ≤ sp.k + 1 then c.failSpan else { c with span := some { sp with k := sp.k + 1 } }

/-- A change of a node's clock record: NODE_CHANGE when CLOCK_SUSPECT becomes set (03:R56), FALLBACK_PARAMS latched when
the grace per day changes (03:R57). -/
def State.setClock (a : Nat) (f : Clock → Clock) (s : State) : State :=
  match s.node? a with
  | none => s
  | some n =>
    let t := s.modNode a (fun m =>
      { m with clock := f n.clock, latchFallback := m.latchFallback || decide ((f n.clock).grace ≠ n.clock.grace) })
    if (f n.clock).suspect && !n.clock.suspect then t.raise .nodeChange else t

/-! ### The upload check and reconstruction (03:R60, R61) -/

/-- Elapsed node seconds turned into wing seconds, rounded half up: the divisor is 1,000,000 + d. -/
def wingElapsed (d : Int) (n : Nat) : Nat :=
  (n * 1000000 + (1000000 + d).toNat / 2) / (1000000 + d).toNat

/-- The allowance U, and the uncertainty before its clamp: the ceiling of n × (s + 20) / 1,000,000, plus 2. -/
def allowance (s n : Nat) : Nat := ceilDiv (n * (s + 20)) 1000000 + 2

/-- The magnitude of a difference of two numbers. -/
def absDiff (a b : Nat) : Nat := ((a : Int) - (b : Int)).natAbs

/-- The upload check of 03:R60 with a reconnect mark (S1, W1), in the current epoch; true when the upload fails it. -/
def Clock.uploadFails (c : Clock) (s1 w1 epoch : Nat) : Bool :=
  match c.anchor with
  | none => true
  | some a =>
    a.epoch != epoch || 7776000 < sub32 w1 a.w0 || c.suspect
      || allowance c.s (sub32 s1 a.s0) + 60 < absDiff (wingElapsed c.d (sub32 s1 a.s0)) (sub32 w1 a.w0)

/-- The upload an answer begins (07:R131): the mark, the upload anchor with N and E, the outcome of the check. -/
def Clock.takeMark (c : Clock) (s1 w1 epoch : Nat) : Upload :=
  { s1 := s1, w1 := w1, epoch := epoch
    anchor := c.anchor.map (fun a => ⟨a.s0, a.w0, sub32 s1 a.s0, sub32 w1 a.w0⟩)
    disc := c.uploadFails s1 w1 epoch }

/-- The time of a record: UNRELIABLE at W1, or RECONSTRUCTED at t with uncertainty u (03:R61, 07:R138). -/
inductive RecordTime where
  | unreliable (w1 : Nat)
  | reconstructed (t u w1 : Nat)
  deriving DecidableEq, Repr

/-- The reconstruction of a stamp under an upload that passed the check (03:R61). -/
def reconstruct (d : Int) (s w1 : Nat) (a : UploadAnchor) (stamp : Nat) : RecordTime :=
  let n := sub32 stamp a.s0
  if a.n < n then .unreliable w1
  else .reconstructed (if a.e < wingElapsed d n then w1 else wrap32 (a.w0 + wingElapsed d n)) (min 65535 (allowance s n)) w1

/-- The time of a record of an upload (07:R138). -/
def Upload.timeOf (u : Upload) (c : Clock) (stamp : Nat) : RecordTime :=
  match u.disc, u.anchor with
  | false, some a => reconstruct c.d c.s u.w1 a stamp
  | _, _ => .unreliable u.w1

end Sys2Proof.Machine
end

