-- ==== Sys2Proof/Machine/NodeOps.lean ====
section
/-! DEFINITION. The shared operations over node records and lines: a change of a node's state (02:R29), a node leaving
the line (01:R20), enrolment and withdrawal (02:R25, R26), DISABLE and ENABLE (02:R28), a line state change (01:R3). -/

namespace Sys2Proof.Machine

open Sys2Proof

/-! ### Journal records of the admission unit for queued decisions -/

/-- The record of a decision: ADMIT at its first send (06:R124), DECISION_LATE at its discard (06:R125). -/
def Decision.entry (kind : RecKind) (d : Decision) : Entry :=
  { kind := kind, secs := some d.arrival, node := some d.node, point := some d.point, cred := d.cred,
    serial := some d.serial, outcome := some (if d.granted then .grant else .deny), reason := some d.reason }

def State.decisionLate (d : Decision) (s : State) : State := s.append (d.entry .decisionLate)

/-- The node an urgent directive names. -/
def Urgent.node : Urgent → Nat
  | .decision d => d.node
  | .remoteOpen a => a

/-- The discard of an urgent directive: a DECISION is reported and journaled, a REMOTE_OPEN is dropped (01:R20). -/
def State.discardUrgent (u : Urgent) (s : State) : State :=
  match u with
  | .decision d => s.decisionLate d
  | .remoteOpen _ => s

/-- Directives of the urgent queue that a test takes are removed and discarded; their DECISION_LATE records (06:R125) stand
in queue order (log 22 DESIGN CHOICE). -/
def State.removeUrgent (p : Urgent → Bool) (s : State) : State :=
  (s.lines.urgent.filter p).foldl (fun t u => t.discardUrgent u)
    { s with lines := { s.lines with urgent := s.lines.urgent.filter (fun u => !p u) } }

/-! ### A node leaving the line (01:R20) -/

/-- The latched items of a node cleared. -/
def Node.unlatched (n : Node) : Node := { n with latchFallback := false, latchPermit := false, latchComp := false }

/-- The open window of a node becomes dead (01:R7), and its invitation of this round is dropped (02:R31). -/
def Round.killWindow (a : Nat) (r : Round) : Round :=
  { r with
    windows := r.windows.map (fun w => if w.addr = a then { w with dead := true } else w)
    inviteDead := r.inviteDead || r.invited == some a }

/-- 01:R20 at a withdrawal or DISABLE: urgent entries, repeat copies and latched items removed, the window dead. -/
def State.leaveLine (a : Nat) (s : State) : State :=
  let t := { s with
    lines := { s.lines with
      repeats := s.lines.repeats.filter (fun u => u.node != a)
      round := s.lines.round.map (Round.killWindow a) } }
  (t.modNode a Node.unlatched).removeUrgent (fun u => u.node == a)

/-! ### Node state changes (02:R29) -/

/-- 02:R28: the upload state is dropped. -/
def Node.dropUpload (n : Node) : Node := { n with upload := none, received := 0, permit := .none }

/-- 07:R133: an upload in progress is dropped; with none in progress the upload state stands. -/
def Node.dropInProgress (n : Node) : Node := if n.upload.isSome then n.dropUpload else n

/-- What leaving ONLINE and PROBATION for `st` does (02:R29, 05:R108). -/
def Node.leaveFor (st : NodeState) (n : Node) : Node :=
  if n.st.answering && !st.answering then n.dropInProgress.reloadLeft else n

/-- What entry to a state does to the node record (02:R29, R37, 08:R146, R150, 07:R130). -/
def Node.enter (st : NodeState) (n : Node) : Node :=
  let m := { n.leaveFor st with st := st }
  match st with
  | .absent => { m with joins := 16, good := 0, missed := 0, lastPres := none, session := none }
  | .dormant => m.endSession
  | .probation =>
    { m with
      latchFallback := true
      latchComp := m.latchComp || m.enrol.cls == .minibar
      permit := .none
      received := 0 }
  | .online => m
  | .silent => m
  | .disabled => m.endSession

/-- The NODE_STATE record of a node. -/
def nodeStateEntry (n : Node) (d : Detail) : Entry :=
  { kind := .nodeState, node := some n.addr, point := some n.enrol.point, detail1 := some d }

/-- 02:R29: a change of a node's state, with NODE_STATE and NODE_CHANGE. -/
def State.changeNode (a : Nat) (st : NodeState) (s : State) : State :=
  match s.node? a with
  | none => s
  | some n =>
    if n.st = st then s
    else ((s.modNode a (Node.enter st)).append (nodeStateEntry n (.nodeState st))).raise .nodeChange

/-- The three round counts of a node. -/
def Node.counts (good missed silent : Nat) (n : Node) : Node := { n with good := good, missed := missed, silent := silent }

/-- 02:R35: service lost. The nodes enter SILENT in ascending address (log 22 DESIGN CHOICE). -/
def State.serviceLost (s : State) : State :=
  s.forEach s.addrs (fun a t =>
    match t.node? a with
    | some n => if n.st.answering then (t.changeNode a .silent).modNode a (Node.counts 0 0 0) else t
    | none => t)

/-! ### Line state changes (01:R3) -/

/-- A change of a line's state other than into OFF: LINE_STATE, LINE_CHANGE, and service lost where the change leaves no
line in service. -/
def State.setLineState (l : LineId) (st : LineState) (s : State) : State :=
  if (s.line l).st = st then s
  else
    let t := ((s.modLine l (fun x => { x with st := st })).append
      { kind := .lineState, detail1 := some (.line l), detail2 := some (.lineState st) }).raise .lineChange
    if s.service && !t.service then t.serviceLost else t

/-- 01:R2: entry to TRAINING: the retrain count is set to 4 and the running count to 0. -/
def State.enterTraining (l : LineId) (s : State) : State :=
  (s.modLine l (fun x => { x with retrain := 4, running := 0 })).setLineState l .training

/-- A full round cut short on a line that leaves service within it (01:R2). -/
def Carried.cutShort : Carried → Carried
  | .full => .cut
  | c => c

def State.cutRound (l : LineId) (s : State) : State :=
  { s with
    lines := { s.lines with
      round := s.lines.round.map (fun r =>
        match l with
        | .a => { r with carriedA := r.carriedA.cutShort }
        | .b => { r with carriedB := r.carriedB.cutShort }) } }

/-! ### Enrolment (02:R25) -/

/-- A node record as enrolment gives it, with the current generation for its cursor (02:R25, 05:R104). -/
def Node.fresh (r : EnrolReq) (gen : Nat) : Node where
  addr := r.addr
  enrol := r.enrol
  st := .absent
  joins := 16
  good := 0
  missed := 0
  silent := 0
  lastPres := none
  status := none
  clock := Clock.initial
  cursor := ⟨gen, gen, 0⟩
  reload := .marked
  fallback := .full
  copy := r.enrol.copy
  latchFallback := false
  latchPermit := false
  latchComp := false
  memory := []
  upload := none
  received := 0
  permit := .none
  comps := List.replicate (r.enrol.comps.getD 0) Compartment.initial
  session := none

/-- The records that enrolment creates in every block: the node's, and for a ROOM_ENTRY node its room record, the floor
standing from `floorAt`, and its folio (02:R25, 05:R87, 08:R145, R159). -/
def State.createNode (r : EnrolReq) (floorAt : Nat) (s : State) : State :=
  let t := { s with nodes := putKey Node.addr (Node.fresh r s.revoc.gen) s.nodes }
  if r.enrol.cls = .roomEntry then
    { t with
      revoc := { t.revoc with rooms := putKey Room.point (Room.initial r.enrol.point floorAt) t.revoc.rooms }
      minibar := { t.minibar with
        folios := putKey Folio.point (Folio.initial r.enrol.point s.settings.defaultCeiling) t.minibar.folios } }
  else t

/-- 02:R25: an enrolment in RUNNING: the records, the latched items, NODE_STATE ABSENT and NODE_CHANGE. -/
def State.enrol (r : EnrolReq) (s : State) : State :=
  (((s.createNode r s.now).modNode r.addr (fun n =>
      { n with latchFallback := true, latchComp := r.enrol.cls == .minibar })).append
    { kind := .nodeState, node := some r.addr, point := some r.enrol.point,
      detail1 := some (.nodeState .absent) }).raise .nodeChange

/-! ### Withdrawal (02:R26) -/

/-- The effects of a withdrawal in the blocks, the node record still listed (02:R26, 08:R148). -/
def State.releaseNode (n : Node) (s : State) : State :=
  let t := s.leaveLine n.addr
  match n.enrol.cls with
  | .minibar => t.minibarLeaves n.addr
  | .roomEntry =>
    let u := t.discardFolio n.enrol.point
    { u with revoc := { u.revoc with rooms := dropKey Room.point n.enrol.point u.revoc.rooms } }
  | _ => t

/-- The node record discarded. -/
def State.forgetNode (a : Nat) (s : State) : State := { s with nodes := dropKey Node.addr a s.nodes }

/-- 02:R26: a withdrawal in RUNNING, with NODE_STATE WITHDRAWN and NODE_CHANGE. -/
def State.withdraw (n : Node) (s : State) : State :=
  (((s.releaseNode n).append (nodeStateEntry n .withdrawn)).raise .nodeChange).forgetNode n.addr

/-- A live GUEST credential names an entry point (02:R26). -/
def State.liveGuest (s : State) (point : Nat) : Bool := s.store.recs.any (fun c => c.st.live && c.guestOf point)

/-- 02:R26: the withdrawal of a node is refused; `others` are the enrolments of the other addresses. -/
def State.withdrawRefused (s : State) (n : Node) (others : List Enrolment) : Bool :=
  n.enrol.cls == .roomEntry
    && (others.any (fun e => e.entry == some n.enrol.point) || (s.folio? n.enrol.point).any (fun f => f.isOpen)
        || s.liveGuest n.enrol.point)

/-! ### DISABLE and ENABLE (02:R28) -/

/-- The DISABLE action on a node that is not DISABLED. -/
def State.disableNode (a : Nat) (s : State) : State :=
  ((s.leaveLine a).modNode a (fun n =>
    { n.dropUpload.counts 0 0 0 with memory := [], clock := n.clock.discardSpan })).changeNode a .disabled

/-- The ENABLE action on a DISABLED node. -/
def State.enableNode (a : Nat) (s : State) : State :=
  (s.changeNode a .absent).modNode a (fun n =>
    { n.marked with status := none, lastPres := none, memory := [], latchFallback := true })

/-- New field parts of SET_NODE or LOAD_SETTINGS: FALLBACK_PARAMS is latched when a value differs (02:R27). -/
def State.setNodeFields (a : Nat) (oos : Bool) (hours : Option Hours) (s : State) : State :=
  s.modNode a (fun n =>
    { n with
      enrol := { n.enrol with oos := oos, hours := hours }
      latchFallback := n.latchFallback || decide (n.enrol.oos ≠ oos ∨ n.enrol.hours ≠ hours) })

end Sys2Proof.Machine
end

