-- ==== Sys2Proof/Machine/Link.lean ====
section
/-! DEFINITION. The desk link port (10): the assembly and check of frames, the taking of a command, its reply, and the
rows of the table that are rejections. -/

namespace Sys2Proof.Machine

open Sys2Proof

/-! ### Frame assembly (10:R179, R180) -/

/-- What a received byte brings about, beside the receive state. -/
inductive RxEvent where
  | nothing
  | oversize
  | badCheck (kind tag : Byte)
  | good (kind tag : Byte) (body : List Byte)
  deriving DecidableEq, Repr

/-- The check over a frame whose length, kind, tag and body are given. -/
def frameCheck (len : Nat) (kind tag : Byte) (got : List Byte) : Nat := crc16 (le16 len ++ [kind, tag] ++ got)

/-- The end of a frame: its check compared with the one carried (10:R180). -/
def frameEnd (len : Nat) (kind tag : Byte) (got : List Byte) (lo hi : Byte) : RxEvent :=
  if lo.toNat + 256 * hi.toNat = frameCheck len kind tag got then .good kind tag got else .badCheck kind tag

/-- The state after the tag, or after a body byte: CHECK once the body holds the body length. -/
def afterBody (len : Nat) (kind tag : Byte) (got : List Byte) : Rx :=
  if len ≤ got.length then .check len kind tag got none else .body len kind tag got

/-- One byte received (10:R179 Table 10.2). -/
def Rx.step (x : Byte) : Rx → Rx × RxEvent
  | .hunting => if x = 0xA7 then (.length none, .nothing) else (.hunting, .nothing)
  | .length none => (.length (some x), .nothing)
  | .length (some lo) =>
    if 1024 < lo.toNat + 256 * x.toNat then (.hunting, .oversize) else (.header (lo.toNat + 256 * x.toNat) none, .nothing)
  | .header len none => (.header len (some x), .nothing)
  | .header len (some kind) => (afterBody len kind x [], .nothing)
  | .body len kind tag got => (afterBody len kind tag (got ++ [x]), .nothing)
  | .check len kind tag got none => (.check len kind tag got (some x), .nothing)
  | .check len kind tag got (some lo) => (.hunting, frameEnd len kind tag got lo x)

/-- Bytes received up to the first that brings something about: the receive state then, the event, the bytes left. -/
def Rx.run : List Byte → Rx → Rx × RxEvent × List Byte
  | [], r => (r, .nothing, [])
  | x :: xs, r =>
    match r.step x with
    | (r', .nothing) => Rx.run xs r'
    | (r', e) => (r', e, xs)

/-- The kind and tag received of a frame in assembly, for a TIMEOUT (10:R182). -/
def Rx.about : Rx → KindTag
  | .body _ kind tag _ => .unverified kind tag
  | .check _ kind tag _ _ => .unverified kind tag
  | _ => .unknown

/-- The receive state is HUNTING. -/
def Rx.isHunting : Rx → Bool
  | .hunting => true
  | _ => false

/-- A byte was received: the receive state it leaves, and the measure of 10:R182 started again. -/
def State.setRx (r : Rx) (s : State) : State := { s with port := { s.port with rx := r, silence := 0 } }

/-- A good frame has ended (10:R179 Table 10.2, last row): the port returns to HUNTING. The row names the whole frame;
bytes that stood in assembly are its beginning (log 16 DEDUCED). -/
def State.frameEnded (s : State) : State := s.setRx .hunting

/-- While the part is in RETENTION or HELD the line is off and bytes are lost (10:R178). -/
def State.lineOff (s : State) : Bool :=
  match s.part with
  | .retention => true
  | .held => true
  | _ => false

/-- 10:R182: 50 ms without a byte inside a frame. -/
def State.rxTimeout (s : State) : State :=
  if s.port.rx.isHunting then s else (s.setRx .hunting).rejection .timeout s.port.rx.about

/-- `k` wing ticks pass with no byte (10:R182): inside a frame the measure rises by `k`, and at 1,639 the frame is
discarded. -/
def State.quietFor (k : Nat) (s : State) : State :=
  if s.port.rx.isHunting || s.lineOff then s
  else if 1639 ≤ s.port.silence + k then s.rxTimeout
  else { s with port := { s.port with silence := s.port.silence + k } }

/-! ### Dispatch and replies (10:R183, R185, R186) -/

/-- What an owning block answers: the status code and the content that follows a success code. -/
structure Reply where
  status : Status
  content : List Byte
  deriving DecidableEq, Repr

/-- A refusal, or a success without content. -/
def Reply.plain (st : Status) : Reply := ⟨st, []⟩

/-- The reply body: the status code, and the content after a success code only (10:R186). -/
def Reply.body (r : Reply) : List Byte := r.status.code :: (if r.status.success then r.content else [])

/-- The reply of a command made ready; the command is in service from this event (10:R183), which its frame's end is: the
port is HUNTING after it (10:R179). -/
def State.answer (kind tag : Byte) (restarts : Bool) (r : Reply) (s : State) : State :=
  { s.frameEnded with port :=
      { s.frameEnded.port.ready (.reply kind tag r.body) with service := some ⟨kind, tag, restarts⟩ } }

/-- 10:R183: a good frame that ends while a command is in service changes nothing else and is rejected. -/
def State.overlap (kind tag : Byte) (s : State) : State := s.frameEnded.rejection .overlap (.verified kind tag)

/-- 10:R185 Table 10.3: the part state serves the command of a kind. -/
def servedIn (p : PartState) (kind : Byte) : Bool :=
  match p with
  | .running => true
  | .loading => [(0x01 : Byte), 0x02, 0x06].contains kind
  | .unconfigured => [(0x01 : Byte), 0x02, 0x03, 0x04, 0x06].contains kind
  | .retention => false
  | .held => false

/-- 10:R188: the re-arming of some kinds by a command that was not refused. -/
def State.rearmIf (ok : Bool) (ks : List NoticeKind) (s : State) : State := if ok then ks.foldl State.rearm s else s

/-- A good frame of a command ends (10:R183, R185, R186, R188): `lenOk` is its body length in Table 10.7, `serve` what
its owning block does. -/
def State.command (kind tag : Byte) (len : Nat) (lenOk : Nat → Bool) (serve : State → State × Reply)
    (rearms : List NoticeKind) (s : State) : State :=
  if s.lineOff then s
  else if s.port.service.isSome then s.overlap kind tag
  else if !servedIn s.part kind then s.answer kind tag false (.plain .notReady)
  else if !lenOk len then s.answer kind tag false (.plain .badLength)
  else
    let r := serve s
    (r.1.rearmIf r.2.status.success rearms).answer kind tag (kind == 0x06 && r.2.status.success) r.2

/-- A refusal: nothing changes. -/
def refuse (st : Status) (s : State) : State × Reply := (s, .plain st)

/-! ### Link events of the table -/

/-- UNKNOWN_COMMAND (10:R185 step 1). A frame of a command's kind is that command's row. -/
def execUnknownCommand (kind tag : Byte) (_body : List Byte) (s : State) : Host.Outcome State Fault Refusal :=
  .next (
    if isCommandKind kind || s.lineOff then s
    else if s.port.service.isSome then s.overlap kind tag
    else s.answer kind tag false (.plain .unknownCommand))

/-- LINK_REJECT_CRC (10:R180): the bytes end a frame whose check is wrong. Bytes that end no frame are received all the
same, and what they leave in assembly is held (10:R179, log 12 DESIGN CHOICE). -/
def execLinkRejectCrc (bytes : List Byte) (s : State) : Host.Outcome State Fault Refusal :=
  .next (
    if s.lineOff then s
    else
      match Rx.run bytes s.port.rx with
      | (r, .badCheck kind tag, []) => (s.setRx r).rejection .crc (.unverified kind tag)
      | (r, .nothing, _) => s.setRx r
      | _ => s)

/-- LINK_REJECT_OVERSIZE (10:R181): the bytes end with a second length byte that gives a length above 1,024. Bytes that
bring nothing about are received all the same (log 12 DESIGN CHOICE). -/
def execLinkRejectOversize (bytes : List Byte) (s : State) : Host.Outcome State Fault Refusal :=
  .next (
    if s.lineOff then s
    else
      match Rx.run bytes s.port.rx with
      | (r, .oversize, []) => (s.setRx r).rejection .oversize .unknown
      | (r, .nothing, _) => s.setRx r
      | _ => s)

/-- LINK_REJECT_TIMEOUT (10:R182): the bytes, if any, leave a frame in assembly, and 1,639 wing ticks pass with no byte;
left HUNTING, the port has nothing to time out. -/
def execLinkRejectTimeout (bytes : List Byte) (s : State) : Host.Outcome State Fault Refusal :=
  .next (
    if s.lineOff then s
    else
      match Rx.run bytes s.port.rx with
      | (r, .nothing, _) => (s.setRx r).rxTimeout
      | _ => s)

/-- LINK_REJECT_OVERLAP (10:R183): a good frame ends while a command is in service. -/
def execLinkRejectOverlap (kind tag : Byte) (s : State) : Host.Outcome State Fault Refusal :=
  .next (if s.lineOff || s.port.service.isNone then s else s.overlap kind tag)

end Sys2Proof.Machine
end

