-- ==== Sys2Proof/Machine/Admission.lean ====
section
/-! DEFINITION. Admission (06): the stages of Table 6.1, the acts that follow a decision, decisions at their first send
and their discard, local decisions and door alarms. -/

namespace Sys2Proof.Machine

open Sys2Proof

/-! ### The stages (06:R113 to R122); each gives the reason it fails with, or none -/

/-- 04:R74: the check code test for a presented stay sequence and check code. -/
def State.checkTest (s : State) (c : Cred) (stay code : Nat) : Bool :=
  stay == (c.guest.map (·.stay)).getD 0
    && (code == checkCode s.settings.currentKey c.body || code == checkCode s.settings.previousKey c.body)

/-- 06:R113: the identity stage, for what a card carries. -/
def State.identify (s : State) (number serial stay code : Nat) : Except Reason Cred :=
  if 767 < number then .error .unknownCard
  else
    match s.cred? number with
    | none => .error .unknownCard
    | some c =>
      if c.serial ≠ serial then .error .unknownCard
      else if s.checkTest c stay code then .ok c
      else .error .checkFailed

/-- 06:R114: the state stage. -/
def stateStage (c : Cred) : Option Reason :=
  match c.st with
  | .encoding _ => some .notConfirmed
  | .issued => none
  | .active => none
  | .suspended _ _ => some .suspended
  | .revoked _ _ => some .revoked
  | .expired _ => some .expired

/-- 06:R115: the window stage at a value of wing seconds. -/
def windowStage (c : Cred) (now : Nat) : Option Reason :=
  if now < c.validStart then some .notYetValid else if c.validEnd < now then some .expired else none

/-- 06:R116: the floor stage. -/
def State.floorStage (s : State) (c : Cred) : Option Reason :=
  match c.kind, c.guest with
  | .guest, some g =>
    match s.room? g.entry with
    | none => some .superseded
    | some room => if g.stay < room.floor then some .superseded else none
  | _, _ => none

/-- 06 Table 6.2: the minute lies inside the range. -/
def Hours.inside (h : Hours) (m : Nat) : Bool :=
  if h.start < h.stop then h.start ≤ m && m < h.stop else h.start ≤ m || m < h.stop

/-- 06:R117: the schedule stage. -/
def State.scheduleStage (s : State) (c : Cred) (now : Nat) : Option Reason :=
  if c.schedule.all (fun h => h.inside (localMinute s.settings.localOffset now)) then none else some .outsideSchedule

/-- 06:R118: the claim stage. -/
def claimStage (c : Cred) (n : Node) : Option Reason := if c.claims n then none else some .noAccess

/-- 06:R119: the out-of-service stage. -/
def outOfServiceStage (c : Cred) (n : Node) : Option Reason :=
  if n.enrol.oos && c.kind == .guest then some .outOfService else none

/-- 06:R120: the hours stage. -/
def State.hoursStage (s : State) (c : Cred) (n : Node) (now : Nat) : Option Reason :=
  if c.kind = .guest ∧ ¬ n.enrol.hours.all (fun h => h.inside (localMinute s.settings.localOffset now)) then
    some .afterHours
  else none

/-- 06:R121: the privacy stage. -/
def privacyStage (c : Cred) (n : Node) : Option Reason :=
  if n.status.any (fun b => b.privacy) && c.kind != .emergency then some .privacy else none

/-- 06:R122: the minibar stage. -/
def State.minibarStage (s : State) (c : Cred) (n : Node) : Option Reason :=
  match n.enrol.cls, c.kind with
  | .minibar, .guest =>
    match n.enrol.entry.bind s.folio? with
    | none => some .noFolio
    | some f =>
      if ¬ f.isOpen ∨ c.guest.map (·.entry) ≠ n.enrol.entry then some .noFolio
      else if f.held then some .creditHeld
      else none
  | _, _ => none

/-- The first stage that fails. -/
def firstFailure (stages : List (Option Reason)) : Option Reason := (stages.filterMap id).head?

/-- The session mode of a GRANT (06:R122). -/
def sessionModeOf (c : Cred) (n : Node) : Option SessionMode :=
  match n.enrol.cls with
  | .minibar => some (if c.kind = .guest then .guest else .restock)
  | _ => none

/-- The decision of an evaluation. -/
structure Verdict where
  granted : Bool
  reason : Reason
  mode : Option SessionMode
  deriving DecidableEq, Repr

/-- Stages 2 to 10 for the credential that the identity stage found. -/
def State.stages (s : State) (c : Cred) (n : Node) (now : Nat) : List (Option Reason) :=
  [stateStage c, windowStage c now, s.floorStage c, s.scheduleStage c now, claimStage c n, outOfServiceStage c n,
   s.hoursStage c n now, privacyStage c n, s.minibarStage c n]

/-- 06:R112: the evaluation of a presentation at a node, with `now` the arrival time. -/
def State.evaluate (s : State) (n : Node) (p : Presentation) (now : Nat) : Verdict :=
  match s.identify p.cred.toNat p.serial.toNat p.stay.toNat p.code.toNat with
  | .error r => ⟨false, r, none⟩
  | .ok c =>
    match firstFailure (s.stages c n now) with
    | some r => ⟨false, r, none⟩
    | none => ⟨true, .none, sessionModeOf c n⟩

/-! ### The acts after a decision (06:R123) -/

/-- 04:R82: a grant reported to the credential store. -/
def Cred.granted (arrival : Nat) (c : Cred) : Cred :=
  { c with
    uses := satAdd 65535 c.uses 1
    firstUse := some (c.firstUse.getD arrival)
    st := match c.st with | .issued => .active | st => st }

/-- 06:R126: a new entry joins the front of a node's decision memory, which keeps two. -/
def Node.remember (e : MemEntry) (n : Node) : Node := { n with memory := (e :: n.memory).take 2 }

/-- The queue holds a DECISION of this node and presentation number. -/
def Urgent.isDecision (node pres : Nat) : Urgent → Bool
  | .decision d => d.node == node && d.pres == pres
  | .remoteOpen _ => false

/-- The queue holds a REMOTE_OPEN of this node. -/
def Urgent.isRemoteOpen (node : Nat) : Urgent → Bool
  | .decision _ => false
  | .remoteOpen a => a == node

def State.pushUrgent (u : Urgent) (s : State) : State :=
  { s with lines := { s.lines with urgent := s.lines.urgent ++ [u] } }

/-- 01:R12: a DECISION offered to the urgent queue. -/
def State.offerDecision (d : Decision) (s : State) : State :=
  if 32 ≤ s.lines.urgent.length ∨ s.lines.urgent.any (Urgent.isDecision d.node d.pres) then s.decisionLate d
  else s.pushUrgent (.decision d)

/-- The credential number carried, absent outside 0..767. -/
def numberCarried (k : Nat) : Option Nat := if k ≤ 767 then some k else none

/-- 06:R112, R123: a presentation handed on by the node manager, with the origin round's number. -/
def State.decideAdmission (a : Nat) (p : Presentation) (origin : Nat) (s : State) : State :=
  match s.node? a with
  | none => s
  | some n =>
    let v := s.evaluate n p s.now
    let cred := numberCarried p.cred.toNat
    let t := if v.granted then s.modCred p.cred.toNat (Cred.granted s.now) else s
    let u := t.modNode a (Node.remember
      { pres := p.number.toNat, cred := cred, serial := p.serial.toNat, arrival := s.now, granted := v.granted,
        reason := v.reason, reported := false })
    u.offerDecision
      { node := a, pres := p.number.toNat, granted := v.granted, reason := v.reason, mode := v.mode, origin := origin,
        age := 0, point := n.enrol.point, cred := cred, serial := p.serial.toNat, arrival := s.now }

/-! ### First sends (06:R124, R129) -/

/-- The report that a DECISION was first sent: ADMIT, and the session of a GRANT that carries a mode. -/
def State.decisionSent (d : Decision) (s : State) : State :=
  let t := s.append (d.entry .admission)
  match d.granted, d.mode, d.cred with
  | true, some m, some k => t.openSession d.node m k
  | _, _, _ => t

/-- The report that a REMOTE_OPEN was first sent. -/
def State.remoteOpenSent (a : Nat) (s : State) : State :=
  s.append { kind := .remoteOpen, node := some a, point := s.pointOf a }

def State.urgentSent (s : State) (u : Urgent) : State :=
  match u with
  | .decision d => s.decisionSent d
  | .remoteOpen a => s.remoteOpenSent a

/-! ### Local decisions (06:R127) -/

/-- The reported flag of the newest entry holding a presentation number is set. -/
def markReported (p : Nat) : List MemEntry → List MemEntry
  | [] => []
  | e :: es => if e.pres = p then { e with reported := true } :: es else e :: markReported p es

/-- The outcome of a node's act. -/
def nodeOutcome (granted : Bool) : RecOutcome := if granted then .granted else .denied

/-- The ALARM condition for a record marked OFFLINE_CONFLICT. -/
def State.alarmIf (b : Bool) (s : State) : State := if b then s.raise .alarm else s

/-- 06 Table 6.4: a LOCAL_DECISION item. -/
def State.localDecision (a p : Nat) (granted : Bool) (s : State) : State :=
  match s.node? a with
  | none => s
  | some n =>
    match n.memory.find? (fun e => e.pres == p) with
    | none =>
      s.append { kind := .localAdmit, quality := .unreliable, node := some a, point := some n.enrol.point,
                 outcome := some (nodeOutcome granted), mark := if granted then .ambiguous else .none }
    | some e =>
      if e.reported then s
      else
        let conflict := granted && !e.granted
        ((s.modNode a (fun n => { n with memory := markReported p n.memory })).append
          { kind := .localAdmit, secs := some e.arrival, node := some a, point := some n.enrol.point, cred := e.cred,
            serial := some e.serial, outcome := some (nodeOutcome granted), reason := some e.reason,
            mark := if conflict then .conflict else .none }).alarmIf conflict

/-! ### Door alarms (06:R128) -/

/-- A FORCED_OPEN or HELD_OPEN item: its record, and the ALARM condition. -/
def State.doorAlarm (kind : RecKind) (a : Nat) (s : State) : State :=
  (s.append { kind := kind, node := some a, point := s.pointOf a }).raise .alarm

end Sys2Proof.Machine
end

