-- ==== Sys2Proof/Machine/Audit.lean ====
section
/-! DEFINITION. The offline audit unit (07): reconnect marks, upload permits, and the judgement and journaling of each
offline record. -/

namespace Sys2Proof.Machine

open Sys2Proof

/-! ### Permits (07:R134 to R136) -/

/-- The permit state is NONE. -/
def Permit.isNone : Permit → Bool
  | .none => true
  | _ => false

/-- The permit state is PLACED or OPEN. -/
def Permit.granted : Permit → Bool
  | .placed _ => true
  | .opened _ => true
  | _ => false

/-- 07:R134: a permit judged for a node; UPLOAD_PERMIT is latched. -/
def State.judgePermit (a : Nat) (s : State) : State :=
  match s.node? a with
  | none => s
  | some n =>
    if n.upload.isSome ∧ n.permit.isNone ∧ 64 ≤ s.journal.freeSpace then
      s.modNode a (fun n => { n with permit := .latched, latchPermit := true })
    else s

/-- 07:R136: a permit closes by one of its first three events, and a new one is judged. -/
def State.closePermit (a : Nat) (s : State) : State :=
  (s.modNode a (fun n => { n with permit := .none })).judgePermit a

/-- 07:R136: a miss of the node's answer window while the permit is PLACED or OPEN. -/
def State.permitMissed (a : Nat) (s : State) : State :=
  match s.node? a with
  | none => s
  | some n => if n.permit.granted then s.closePermit a else s

/-- 07:R135: a PLACED permit passes to OPEN at a round start. -/
def Node.openPermit (n : Node) : Node :=
  match n.permit with
  | .placed r => { n with permit := .opened r }
  | _ => n

/-! ### Marks and drains (07:R131, R132) -/

/-- The taking of a reconnect mark, with the node seconds and header wing seconds of the answer. -/
def State.takeMark (a s1 w1 : Nat) (s : State) : State :=
  (s.modNode a (fun n =>
    { n with upload := some (n.clock.takeMark s1 w1 s.time.epoch), received := 0, permit := .none })).judgePermit a

/-- The drain of an upload. -/
def State.drain (a : Nat) (u : Upload) (s : State) : State :=
  s.modNode a (fun n =>
    { n with
      permit := .none
      upload := none
      clock := if s.time.epoch = u.epoch then { n.clock with anchor := some ⟨u.s1, u.w1, s.time.epoch⟩ } else n.clock })

/-- Step 6 of 02:R36: the offline records pending flag of a good answer. `before` is the permit state ahead of the items
of the answer: a record was taken exactly when it changed (07:R136, R137). -/
def State.pendingFlag (a : Nat) (pending : Bool) (s1 w1 : Nat) (before : Permit) (s : State) : State :=
  match s.node? a with
  | none => s
  | some n =>
    match n.upload, pending with
    | none, true => if n.st.answering then s.takeMark a s1 w1 else s
    | none, false => s
    | some u, false => s.drain a u
    | some _, true =>
      match n.permit with
      | .opened r => if before = .opened r then s.closePermit a else s
      | _ => s

/-! ### Judgement at a moment (07:R139 to R141) -/

/-- The judgement of a record at a moment. -/
inductive Judgement where
  | grant
  | deny (r : Reason)
  | undecided
  deriving DecidableEq, Repr

/-- 07:R140: the state stage at a moment, from the record as it stands. -/
def stateStageAt (c : Cred) (t : Nat) : Option Reason :=
  match c.st with
  | .encoding _ => some .notConfirmed
  | .issued => if t < c.issuedAt then some .notConfirmed else none
  | .active => if t < c.issuedAt then some .notConfirmed else none
  | .suspended _ at_ => if t < c.issuedAt then some .notConfirmed else if at_ ≤ t then some .suspended else none
  | .revoked at_ _ => if t < c.issuedAt then some .notConfirmed else if at_ ≤ t then some .revoked else none
  | .expired _ => if t < c.issuedAt then some .notConfirmed else none

/-- 07:R140: the floor of a room at a moment; none when it is unknown. -/
def Room.floorAt (r : Room) (t : Nat) : Option Nat :=
  match r.history.find? (fun i => i.at_ ≤ t) with
  | some i => some i.floor
  | none => if r.fromCreation then some 1 else none

/-- The stages from 5 to 8 as they apply to an offline record. -/
def State.lateStagesAt (s : State) (c : Cred) (n : Node) (t : Nat) : Option Reason :=
  firstFailure [s.scheduleStage c t, claimStage c n, outOfServiceStage c n, s.hoursStage c n t]

/-- What stages 5 to 8 leave when the floor stage has passed. -/
def State.judgeLate (s : State) (c : Cred) (n : Node) (t : Nat) (passed : Judgement) : Judgement :=
  match s.lateStagesAt c n t with
  | some r => .deny r
  | none => passed

/-- 07:R139: the judgement at a moment, for a credential whose identity stage passed. -/
def State.judgeAt (s : State) (c : Cred) (n : Node) (stay t : Nat) : Judgement :=
  match firstFailure [stateStageAt c t, windowStage c t] with
  | some r => .deny r
  | none =>
    match c.kind, c.guest with
    | .guest, some g =>
      match s.room? g.entry with
      | none => .deny .superseded
      | some room =>
        match room.floorAt t with
        | some f => if stay < f then .deny .superseded else s.judgeLate c n t .grant
        | none => s.judgeLate c n t .undecided
    | _, _ => s.judgeLate c n t .grant

/-- 07:R141: the definite reason of a record whose identity stage fails. -/
def State.definiteReason (s : State) (serial : Nat) (r : Reason) : Reason :=
  if r = .unknownCard ∧ (s.entry? serial).isSome then .revoked else r

/-! ### Verdict and journal fields (07:R142, R143) -/

/-- The audit mark of a record and the part's reason for it; none where the reason is absent. -/
structure Audit where
  mark : Mark
  reason : Option Reason
  deriving DecidableEq, Repr

/-- A record the node GRANTED, RECONSTRUCTED, with its judgements at the earlier and the later band end. -/
def auditBand (early late : Judgement) : Audit :=
  match early, late with
  | .grant, .grant => ⟨.none, some .none⟩
  | .deny _, .deny r => ⟨.conflict, some r⟩
  | _, .deny r => ⟨.ambiguous, some r⟩
  | .deny r, _ => ⟨.ambiguous, some r⟩
  | _, _ => ⟨.ambiguous, none⟩

/-- A record the node GRANTED, UNRELIABLE, with its judgement at W1. -/
def auditAtMark (j : Judgement) : Audit :=
  match j with
  | .grant => ⟨.none, some .none⟩
  | .deny r => ⟨.ambiguous, some r⟩
  | .undecided => ⟨.ambiguous, none⟩

/-- The judgement of a record at a moment, the identity stage included. -/
def State.judgeRecord (s : State) (n : Node) (r : OfflineRecord) (t : Nat) : Judgement :=
  match s.identify r.cred.toNat r.serial.toNat r.stay.toNat r.code.toNat with
  | .error e => .deny (s.definiteReason r.serial.toNat e)
  | .ok c => s.judgeAt c n r.stay.toNat t

/-- 07:R138, R142: the audit of a record at its time. -/
def State.audit (s : State) (n : Node) (r : OfflineRecord) (time : RecordTime) : Audit :=
  if r.granted then
    match time with
    | .unreliable w1 => auditAtMark (s.judgeRecord n r w1)
    | .reconstructed t u w1 => auditBand (s.judgeRecord n r (t - u)) (s.judgeRecord n r (min (t + u) w1))
  else ⟨.none, some r.reason⟩

/-- The wing seconds and quality of a record (07:R143). -/
def RecordTime.secs : RecordTime → Nat
  | .unreliable w1 => w1
  | .reconstructed t _ _ => t

def RecordTime.quality : RecordTime → Quality
  | .unreliable _ => .unreliable
  | .reconstructed _ u _ => .reconstructed u

/-- 07:R143: OFFLINE_ADMIT, and ALARM for an OFFLINE_CONFLICT. -/
def State.journalOffline (n : Node) (r : OfflineRecord) (time : RecordTime) (s : State) : State :=
  let v := s.audit n r time
  (s.append
    { kind := .offlineAdmit, secs := some time.secs, quality := time.quality, node := some n.addr,
      point := some n.enrol.point, cred := numberCarried r.cred.toNat, serial := some r.serial.toNat,
      outcome := some (nodeOutcome r.granted), reason := v.reason, mark := v.mark }).alarmIf (v.mark == .conflict)

/-- 07:R137: an OFFLINE_RECORD item. -/
def State.offlineRecord (a : Nat) (r : OfflineRecord) (s : State) : State :=
  match s.node? a with
  | none => s
  | some n =>
    match n.upload, n.permit with
    | some u, .opened (k + 1) =>
      let t := (s.modNode a (fun m =>
        { m with received := satAdd 65535 m.received 1, permit := .opened k })).journalOffline n r
          (u.timeOf n.clock r.stamp.toNat)
      if k = 0 then t.closePermit a else t
    | _, _ => s

end Sys2Proof.Machine
end

