-- ==== Sys2Proof/Machine/Windows.lean ====
section
/-! DEFINITION. The close of answer windows and of the invitation window: the judgement of copies (01:R6 to R11), the
node manager's acts at a good answer and at a miss (02:R31 to R38), and the rows WINDOW_CLOSE and INVITATION_CLOSE. -/

namespace Sys2Proof.Machine

open Sys2Proof

/-! ### Copies (01:R6) -/

/-- What a line offers of a window: no copy, a good one, or one charged with a fault kind. -/
inductive CopyJudgement where
  | absent
  | good
  | faulty (k : FaultKind)
  deriving DecidableEq, Repr

/-- The judgement of the copy on a line: a line out of service supplies none. -/
def judgeCopy (addr number : Nat) (inService : Bool) (copy : Option Copy) : CopyJudgement :=
  match inService, copy with
  | true, some c =>
    if c.second then .faulty .extra
    else if c.overrun then .faulty .overrun
    else if ¬ c.framed then .faulty .syntaxFault
    else if c.addr.toNat ≠ addr ∨ c.echo.toNat ≠ number then .faulty .content
    else .good
  | _, _ => .absent

/-- A fault charged: its line, kind and class. -/
structure Charge where
  line : LineId
  kind : FaultKind
  cls : FaultClass
  deriving DecidableEq, Repr

/-- The copy that a resolution uses. -/
inductive Used where
  | none
  | lineA
  | lineB
  | either
  deriving DecidableEq, Repr

/-- NO_ANSWER charged to a line in service without a copy whose partner's copy is good. -/
def noAnswer (l : LineId) (inService : Bool) : List Charge := if inService then [⟨l, .noAnswer, .correctable⟩] else []

/-- 01 Table 1.2: the copy used and the faults charged. `aServes` and `bServes` say which lines are in service. -/
def resolve (aServes bServes : Bool) (first : Completion) : CopyJudgement → CopyJudgement → Used × List Charge
  | .good, .good => (match first with | .aFirst => .lineA | .bFirst => .lineB | .together => .either, [])
  | .good, .faulty k => (.lineA, [⟨.b, k, .correctable⟩])
  | .faulty k, .good => (.lineB, [⟨.a, k, .correctable⟩])
  | .good, .absent => (.lineA, noAnswer .b bServes)
  | .absent, .good => (.lineB, noAnswer .a aServes)
  | .faulty k, .faulty m => (.none, [⟨.a, k, .uncorrectable⟩, ⟨.b, m, .uncorrectable⟩])
  | .faulty k, .absent => (.none, [⟨.a, k, .uncorrectable⟩])
  | .absent, .faulty k => (.none, [⟨.b, k, .uncorrectable⟩])
  | .absent, .absent => (.none, [])

/-! ### Flags, tallies and the first-fault record (01:R9 to R11) -/

/-- The accrued flag of a fault kind; NO_ANSWER has none. -/
def Flags.mark (k : FaultKind) (f : Flags) : Flags :=
  match k with
  | .extra => { f with extra := true }
  | .overrun => { f with overrun := true }
  | .syntaxFault => { f with syntaxSeen := true }
  | .content => { f with content := true }
  | .noAnswer => f

/-- A fault charged to a line: its flag, and its running count when correctable. -/
def Line.charged (k : FaultKind) (cls : FaultClass) (l : Line) : Line :=
  { l with
    flags := l.flags.mark k
    running := match cls with | .correctable => satAdd 65535 l.running 1 | .uncorrectable => l.running }

/-- VALID_SEEN set on a line. -/
def Line.seen (l : Line) : Line := { l with flags := { l.flags with validSeen := true } }

/-- 01:R10: a fault offered to the first-fault record. -/
def FirstFault.offer (c : Charge) (number node now : Nat) (f : FirstFault) : FirstFault :=
  if f.valid then f else ⟨true, c.line, number, node, c.kind, c.cls, now⟩

/-- A fault of a window charged. -/
def State.chargeFault (number node : Nat) (s : State) (c : Charge) : State :=
  let t := s.modLine c.line (Line.charged c.kind c.cls)
  { t with lines := { t.lines with first := t.lines.first.offer c number node t.now } }

/-- The faults of a window charged; two are offered in either order (01:R10, log 14 DESIGN CHOICE). -/
def State.chargeFaults (number node : Nat) (cs : List Charge) (s : State) : State :=
  match cs with
  | [c, d] => (if s.tie then [c, d] else [d, c]).foldl (State.chargeFault number node) s.chose
  | _ => cs.foldl (State.chargeFault number node) s

/-- VALID_SEEN on a line whose copy is good. -/
def State.seenIf (l : LineId) (j : CopyJudgement) (s : State) : State :=
  match j with
  | .good => s.modLine l Line.seen
  | _ => s

/-! ### A good answer (02:R32, R34, R36) -/

/-- 02 Table 2.4: the state rule of a good answer. -/
def State.goodAnswerState (n : Node) (s : State) : State :=
  match n.st with
  | .probation => s.modNode n.addr (Node.counts (satAdd 255 n.good 1) 0 n.silent)
  | .online => s.modNode n.addr (Node.counts (satAdd 255 n.good 1) 0 n.silent)
  | .silent => (s.changeNode n.addr .probation).modNode n.addr (Node.counts 1 0 0)
  | _ => s

/-- The condition NODE_CHANGE raised when a test holds. -/
def State.nodeChangeIf (b : Bool) (s : State) : State := if b then s.raise .nodeChange else s

/-- Status bits that are not held count as clear (02:R38). -/
def StatusBits.clear : StatusBits := ⟨false, false, false, false, false⟩

/-- 02:R38: the status bits of a good answer stored and compared. -/
def State.storeStatus (a : Nat) (b : StatusBits) (s : State) : State :=
  match s.node? a with
  | none => s
  | some n =>
    let old := n.status.getD StatusBits.clear
    let t := (s.modNode a (fun n => { n with status := some b })).nodeChangeIf
      (old.batteryLow != b.batteryLow || old.fallbackActive != b.fallbackActive)
    if b.cacheLost && !old.cacheLost then (t.raise .nodeChange).markReload a else t

/-- 03:R51: the clock reading of a good answer: the drift sample, and the anchor when it is refreshed. -/
def State.clockReading (a : Nat) (r : Round) (ans : Answer) (s : State) : State :=
  (s.setClock a (Clock.sample r.number r.tick ans.ticks.toNat)).modNode a (fun n =>
    if ans.pending || n.upload.isSome then n
    else { n with clock := { n.clock with anchor := some ⟨ans.seconds.toNat, r.secs, s.time.epoch⟩ } })

/-- 02:R37: the presentation of a good answer. -/
def State.presentation (a : Nat) (r : Round) (p : Option Presentation) (s : State) : State :=
  match p, s.node? a with
  | some p, some n =>
    if n.lastPres = some p.number.toNat then s
    else (s.modNode a (fun n => { n with lastPres := some p.number.toNat })).decideAdmission a p r.number
  | _, _ => s

/-- The minibar unit takes an item of this node: a MINIBAR node, the compartment within its count (02:R36 step 5). -/
def Node.takesComp (n : Node) (c : Nat) : Bool := n.enrol.cls == .minibar && 1 ≤ c && c ≤ n.enrol.comps.getD 0

/-- 02:R36 step 5: one item of a good answer handed to its owner. -/
def State.item (a : Nat) (s : State) (i : Item) : State :=
  match s.node? a with
  | none => s
  | some n =>
    match i with
    | .forcedOpen => s.doorAlarm .forcedOpen a
    | .heldOpen => s.doorAlarm .heldOpen a
    | .localDecision p granted => s.localDecision a p.toNat granted
    | .removed c k => if n.takesComp c.toNat ∧ k ≠ 0 then s.removedItem n c.toNat k.toNat else s
    | .returned c k => if n.takesComp c.toNat ∧ k ≠ 0 then s.returnedItem n c.toNat k.toNat else s
    | .minibarClosed => if n.enrol.cls = .minibar then s.modNode a Node.endSession else s
    | .offlineRecord r => s.offlineRecord a r

/-- The permit state of a node, ahead of the items of its answer. -/
def State.permitOf (s : State) (a : Nat) : Permit := ((s.node? a).map (·.permit)).getD .none

/-- 02:R34: the probation test; `ended` says that this answer ended the node's reload. -/
def State.probationTest (a : Nat) (ended : Bool) (s : State) : State :=
  match s.node? a with
  | none => s
  | some n =>
    if n.st = .probation ∧ 8 ≤ n.good ∧ n.upload.isNone ∧ (ended ∨ s.caughtUp n) then s.changeNode a .online else s

/-- Steps 4 to 6 of 02:R36. -/
def State.distributeRest (a : Nat) (r : Round) (ans : Answer) (s : State) : State :=
  let t := s.presentation a r ans.pres
  (ans.items.foldl (State.item a) t).pendingFlag a ans.pending ans.seconds.toNat r.secs (t.permitOf a)

/-- 02:R32: a good answer of a node, in the round in progress. -/
def State.goodAnswer (n : Node) (r : Round) (ans : Answer) (s : State) : State :=
  let t := ((s.goodAnswerState n).storeStatus n.addr ans.status).clockReading n.addr r ans
  let ended := (t.node? n.addr).any (fun m => m.endsReload ans.ack.toNat ans.status.cacheLost)
  ((t.acknowledge n.addr ans.ack.toNat ans.status.cacheLost).distributeRest n.addr r ans).probationTest n.addr ended

/-! ### A miss (02:R33) -/

/-- The state rule of a miss. -/
def State.missState (n : Node) (s : State) : State :=
  match n.st with
  | .probation =>
    if 3 ≤ n.missed + 1 then s.changeNode n.addr .absent
    else s.modNode n.addr (Node.counts 0 (n.missed + 1) n.silent)
  | .online =>
    if 6 ≤ n.missed + 1 then (s.changeNode n.addr .silent).modNode n.addr (Node.counts 0 0 0)
    else s.modNode n.addr (Node.counts 0 (n.missed + 1) n.silent)
  | .silent =>
    if 64 ≤ n.silent + 1 then (s.changeNode n.addr .absent).modNode n.addr (fun m => { m with silent := 0 })
    else s.modNode n.addr (fun m => { m with silent := n.silent + 1 })
  | _ => s

/-- A miss of a node's answer window: the state rule, then an open permit closes (07:R136, log 22 DESIGN CHOICE). -/
def State.miss (n : Node) (s : State) : State := (s.missState n).permitMissed n.addr

/-! ### Window close (01:R7) -/

/-- The window of an address leaves the open windows of the round. -/
def State.dropWindow (a : Nat) (s : State) : State :=
  { s with
    lines := { s.lines with
      round := s.lines.round.map (fun r => { r with windows := r.windows.filter (fun w => w.addr != a) }) } }

/-- The answer of a node window that reaches PROBATION, ONLINE or SILENT (02:R32). -/
def NodeState.hasWindow (st : NodeState) : Bool :=
  match st with
  | .probation => true
  | .online => true
  | .silent => true
  | _ => false

/-- The content of the copy used; a tie takes either (01:R7, log 14 DESIGN CHOICE). -/
def usedAnswer (u : Used) (tie : Bool) (copyA copyB : Option Copy) : Option Answer :=
  match u with
  | .none => none
  | .lineA => copyA.map (·.answer)
  | .lineB => copyB.map (·.answer)
  | .either => if tie then copyA.map (·.answer) else copyB.map (·.answer)

/-- The result of a window handed to the node manager (02:R32). -/
def State.windowResult (a : Nat) (r : Round) (ans : Option Answer) (s : State) : State :=
  match s.node? a with
  | none => s
  | some n =>
    if n.st.hasWindow then
      match ans with
      | some x => s.goodAnswer n r x
      | none => s.miss n
    else s

/-- A use of the free choice where either copy may be used. -/
def State.choseIf (b : Bool) (s : State) : State := if b then s.chose else s

/-- 01:R7: the resolution of an answer window of the round `r`. -/
def State.resolveWindow (r : Round) (w : Window) (copyA copyB : Option Copy) (first : Completion) (s : State) : State :=
  let s := s.dropWindow w.addr
  if w.dead then s
  else
    let serveA := s.lines.lineA.st.inService
    let serveB := s.lines.lineB.st.inService
    let ja := judgeCopy w.addr r.number serveA copyA
    let jb := judgeCopy w.addr r.number serveB copyB
    let res := resolve serveA serveB first ja jb
    let t := ((s.seenIf .a ja).seenIf .b jb).chargeFaults r.number w.addr res.2
    (t.choseIf (res.1 == .either)).windowResult w.addr r (usedAnswer res.1 t.tie copyA copyB)

/-- WINDOW_CLOSE (01:R7): the close of an open answer window of the round in progress. -/
def execWindowClose (node : Byte) (copyA copyB : Option Copy) (first : Completion) (s : State) :
    Host.Outcome State Fault Refusal :=
  .next (
    match s.part, s.lines.round with
    | .running, some r =>
      match r.windows.find? (fun w => w.addr == node.toNat) with
      | some w => s.resolveWindow r w copyA copyB first
      | none => s
    | _, _ => s)

/-! ### The invitation window (01:R8, 02:R31) -/

/-- 02:R31: the report of the invitation window, for the invited node. -/
def State.invitationReport (a : Nat) (answered : Bool) (s : State) : State :=
  match s.node? a with
  | none => s
  | some n =>
    match n.st, answered with
    | .absent, true => (s.changeNode a .probation).modNode a (Node.counts 0 0 n.silent)
    | .dormant, true =>
      ((s.changeNode a .probation).modNode a (Node.counts 0 0 n.silent)).modNode a (fun m => { m with joins := 16 })
    | .absent, false =>
      let t := s.modNode a (fun m => { m with joins := n.joins - 1 })
      if n.joins ≤ 1 then t.changeNode a .dormant else t
    | _, _ => s

/-- The invitation window of the round is closed. -/
def State.endInvitation (s : State) : State :=
  { s with lines := { s.lines with round := s.lines.round.map (fun r => { r with inviteOpen := false }) } }

/-- 01:R8: the resolution of the invitation window of the round `r`. A node withdrawn or disabled since the round start
is not acted on (02:R31); a good copy of its window still sets VALID_SEEN on its line (01:R9, log 37 DEDUCED). -/
def State.resolveInvitation (r : Round) (copyA copyB : Option Copy) (s : State) : State :=
  let s := s.endInvitation
  match r.invited with
  | none => s
  | some a =>
    let ja := judgeCopy a r.number s.lines.lineA.st.inService copyA
    let jb := judgeCopy a r.number s.lines.lineB.st.inService copyB
    let t := (s.seenIf .a ja).seenIf .b jb
    if r.inviteDead then t else t.invitationReport a (ja == .good || jb == .good)

/-- INVITATION_CLOSE (01:R8): the close of the invitation window of the round in progress. -/
def execInvitationClose (copyA copyB : Option Copy) (s : State) : Host.Outcome State Fault Refusal :=
  .next (
    match s.part, s.lines.round with
    | .running, some r => if r.inviteOpen then s.resolveInvitation r copyA copyB else s
    | _, _ => s)

end Sys2Proof.Machine
end

