-- ==== Sys2Proof/Machine/Composition.lean ====
section
/-! DEFINITION. The composition of the delivery segment (01:R13, R15 to R19) and the items the revocation unit offers
(05:R105, R109). -/

namespace Sys2Proof.Machine

open Sys2Proof

/-- The directive slots of a segment (01:R5). -/
def segmentSlots : Nat := 8

/-- A composition in progress: the state, the slots filled so far, the node of the last slot filled by the step under
way. -/
structure Compose where
  state : State
  segment : List Directive
  last : Option Nat
  deriving DecidableEq, Repr

/-- A slot is free. -/
def Compose.free (c : Compose) : Bool := c.segment.length < segmentSlots

/-- A directive placed in the next slot for a node, with what placing it does. -/
def Compose.place (d : Directive) (node : Nat) (s : State) (c : Compose) : Compose :=
  { state := s, segment := c.segment ++ [d], last := some node }

/-! ### Steps 1 and 2 -/

/-- The directive of an urgent entry. -/
def Urgent.directive : Urgent → Directive
  | .decision d => .decision d.node d.pres d.granted d.reason d.mode
  | .remoteOpen a => .remoteOpen a

/-- A line is DEGRADED (01:R16). -/
def State.anyDegraded (s : State) : Bool := s.lines.lineA.st == .degraded || s.lines.lineB.st == .degraded

/-- Steps 1 and 2 of 01:R15: the repeat list, then the urgent queue; first sends are reported, and repeat copies are made
while a line is DEGRADED. -/
def State.composeUrgent (s : State) : Compose :=
  let repeats := (s.lines.repeats.take segmentSlots)
  let sent := s.lines.urgent.take (segmentSlots - repeats.length)
  let t := { s with
    lines := { s.lines with
      urgent := s.lines.urgent.drop (segmentSlots - repeats.length)
      repeats := if s.anyDegraded then sent else [] } }
  { state := sent.foldl State.urgentSent t, segment := (repeats ++ sent).map Urgent.directive, last := none }

/-! ### Step 3 (01:R18) -/

/-- The content of a FALLBACK_PARAMS directive (02:R39, 03:R47). -/
def State.fallbackParams (s : State) (n : Node) : Directive :=
  .fallbackParams n.addr n.clock.grace n.fallback n.enrol.oos (n.enrol.hours.map (Hours.forNode s.settings.localOffset))

/-- The content of an UPLOAD_PERMIT directive (07:R135). -/
def uploadPermit (n : Node) : Directive :=
  match n.permit with
  | .latched => .uploadPermit n.addr n.received 16
  | _ => .uploadPermit n.addr 0 0

/-- What placing an UPLOAD_PERMIT does to its node. -/
def Node.permitPlaced (n : Node) : Node :=
  { n with latchPermit := false, permit := match n.permit with | .latched => .placed 16 | p => p }

/-- One latched item of a node placed, when it is latched and a slot is free. -/
def Compose.latched (a : Nat) (isLatched : Node → Bool) (content : State → Node → Directive) (placed : Node → Node)
    (c : Compose) : Compose :=
  match c.state.node? a with
  | some n =>
    if c.free && n.st.answering && isLatched n then c.place (content c.state n) a (c.state.modNode a placed) else c
  | none => c

/-- Step 3 of 01:R15 at one node: FALLBACK_PARAMS, UPLOAD_PERMIT, COMPARTMENT_SET. -/
def Compose.latchedItems (c : Compose) (a : Nat) : Compose :=
  ((c.latched a (·.latchFallback) State.fallbackParams (fun n => { n with latchFallback := false })).latched a
    (·.latchPermit) (fun _ n => uploadPermit n) Node.permitPlaced).latched a
    (·.latchComp) (fun _ n => .compartmentSet n.addr n.comps) (fun n => { n with latchComp := false })

/-! ### Step 4 (01:R19, 05:R105, R109) -/

/-- What a CHANGE directive carries of a change (05:R105). -/
def Change.item (c : Change) : ChangeItem :=
  match c.body with
  | .add serial _ => .add serial
  | .remove serial _ => .remove serial
  | .floor _ v => .floor v

/-- The link of a change: the deliverable change before it above acked_upto, or acked_upto (05:R105). -/
def linkOf (acked : Nat) (before : List Change) : Nat := ((before.getLast?).map (·.gen)).getD acked

/-- 05:R105: the CHANGE offered to a node, and the node once it is placed. -/
def State.offerChange (s : State) (n : Node) : Option (Directive × Node) :=
  if 4 ≤ s.outstanding n then none
  else
    let sentOnes := (s.deliverables n).takeWhile (fun c => !genBelow n.cursor.sent c.gen)
    match (s.deliverables n).drop sentOnes.length with
    | [] => none
    | c :: _ =>
      some (.change n.addr c.gen c.item (linkOf n.cursor.acked sentOnes),
        { n with cursor := { n.cursor with sent := c.gen } })

/-- The floor of a node's room, where it has an entry point whose record exists (05:R109). -/
def State.floorFor (s : State) (n : Node) : Option Nat := (n.enrol.entry.bind s.room?).map (·.floor)

/-- 05:R109 step 3: the entry whose turn comes next: in list order, past the last one placed, relevant to the node, in
its present form at G. -/
def State.nextEntry (s : State) (n : Node) (g : Nat) (p : ReloadProgress) : Option ListEntry :=
  if 256 ≤ p.entries then none
  else
    s.revoc.entries.find? (fun e =>
      p.last.all (fun l => genBelow l e.gen) && !genBelow g e.gen && s.credRelevant e.cred n)

/-- 05:R109 steps 3 and 4: a list entry, or RELOAD_END when none is left. -/
def State.offerEntry (s : State) (n : Node) (g : Nat) (p : ReloadProgress) : Directive × Node :=
  match s.nextEntry n g p with
  | some e =>
    (.reloadSerial n.addr e.serial,
      { n with reload := .sending g { p with last := some e.gen, entries := p.entries + 1, count := p.count + 1 } })
  | none => (.reloadEnd n.addr g p.count, { n with reload := .awaiting g 0 })

/-- 05:R109: the reload item offered to a node in SENDING. -/
def State.offerReload (s : State) (n : Node) (g : Nat) (p : ReloadProgress) : Directive × Node :=
  match p.floorDone, s.floorFor n with
  | false, some f =>
    (.reloadFloor n.addr f, { n with reload := .sending g { p with floorDone := true, count := p.count + 1 } })
  | _, _ => s.offerEntry n g { p with floorDone := true }

/-- The item the revocation unit offers a node next, and the node once it is placed. -/
def State.offerItem (s : State) (n : Node) : Option (Directive × Node) :=
  match n.reload with
  | .none => s.offerChange n
  | .marked =>
    some (.reloadBegin n.addr s.revoc.gen,
      { n with reload := .sending s.revoc.gen ⟨false, none, 0, 0⟩, cursor := { n.cursor with stall := 0 } })
  | .sending g p => some (s.offerReload n g p)
  | .awaiting _ _ => none

/-- One change or reload item placed at a node, when a slot is free and one is offered. With no slot free the turn of a
MARKED node begins nothing: its reload begins when its RELOAD_BEGIN is placed (05:R109 beside 01:R19, log 41 DEDUCED). -/
def Compose.deliver (a : Nat) (c : Compose) : Compose :=
  match c.state.node? a with
  | some n =>
    if c.free && n.st.answering then
      match c.state.offerItem n with
      | some (d, m) => c.place d a (c.state.modNode a (fun _ => m))
      | none => c
    else c
  | none => c

/-- Step 4 of 01:R15 at one node: at most two items. -/
def Compose.deliveries (c : Compose) (a : Nat) : Compose := (c.deliver a).deliver a

/-! ### The whole composition (01:R15, R17) -/

/-- The walk of 01:R17: ascending addresses from the one after the pointer, wrapping. -/
def walkFrom (pointer : Nat) (addrs : List Nat) : List Nat :=
  addrs.filter (fun a => pointer < a) ++ addrs.filter (fun a => a ≤ pointer)

/-- The delivery pointer parked. -/
def State.parkPointer (p : Nat) (s : State) : State := { s with lines := { s.lines with pointer := p } }

/-- 01:R15: the delivery segment composed, and the state after it. -/
def State.compose (s : State) : State × List Directive :=
  let walk := walkFrom s.lines.pointer s.addrs
  let c3 := walk.foldl Compose.latchedItems s.composeUrgent
  let c4 := walk.foldl Compose.deliveries { c3 with last := none }
  (c4.state.parkPointer ((c4.last.orElse (fun _ => c3.last)).getD s.lines.pointer), c4.segment)

end Sys2Proof.Machine
end

