-- ==== Sys2Proof/Machine/Rounds.lean ====
section
/-! DEFINITION. The round-start event (01:R4, 03:R45): its parts, each idempotent at one event, and the rows of the table
that are the event or one part of it. -/

namespace Sys2Proof.Machine

open Sys2Proof

/-! ### The event's tick and the round it ends -/

/-- The mark lies at or ahead of the tick counter, by at most the longest round. -/
def TimeBase.markAhead (t : TimeBase) (m : Nat) : Bool := sub48 m t.tick ≤ 16384

/-- The second boundaries that a move of the tick counter forward, by less than 32,768 ticks, reaches or passes. -/
def boundariesTo (tick m : Nat) : Nat := if m / 32768 = tick / 32768 then 0 else 1

/-- The tick counter at the coming round-start event, the receive timeout measured over the ticks passed (10:R182). A second boundary that the move reaches or passes is still to be
taken: a round start and a second boundary on one tick come in either order (03:R45, log 9 DESIGN CHOICE). -/
def State.toMark (s : State) : State :=
  match s.time.mark with
  | some m =>
    if s.time.markAhead m then
      { s with time := { s.time with tick := m, owed := s.time.owed + boundariesTo s.time.tick m } }.quietFor
        (sub48 m s.time.tick)
    else s
  | none => s

/-- 01:R4: what the ending round has left open is resolved, with no copies (01:R7, R8, log 13 DEDUCED). -/
def State.endRound (s : State) : State :=
  match s.lines.round with
  | none => s
  | some r =>
    let t := r.windows.foldl (fun t w => t.resolveWindow r w none none .together) s
    if r.inviteOpen then t.resolveInvitation r none none else t

/-- The opening of the coming round-start event. -/
def State.beginRoundStart (s : State) : State := s.toMark.endRound

/-- The round number that the coming round-start event gives (01:R4). -/
def State.nextNumber (s : State) : Nat :=
  match s.lines.round with
  | none => 0
  | some r => (r.number + 1) % 64

/-! ### Tally, training -/

/-- The judgement of a line at a period's end (01:R11). -/
def judgedState (threshold tally : Nat) (st : LineState) : LineState :=
  match st with
  | .up => if threshold ≤ tally then .degraded else .up
  | .degraded => if tally ≤ 4 then .up else .degraded
  | st => st

/-- The end of a tally period on one line. -/
def State.tallyLine (l : LineId) (s : State) : State :=
  let t := s.modLine l (fun x => { x with tally := x.running, running := 0 })
  t.setLineState l (judgedState s.settings.degradeThreshold (t.line l).tally (t.line l).st)

/-- 01:R11: the end of the tally period, once in the coming round-start event. -/
def State.tallyEnd (s : State) : State :=
  if s.nextNumber = 0 ∧ ¬ s.lines.tallyDone then
    let t := (s.tallyLine .a).tallyLine .b
    { t with lines := { t.lines with tallyDone := true } }
  else s

/-- The line's training has ended (01:R2). -/
def Line.trained (l : Line) : Bool := l.st == .training && l.retrain == 0

/-- 01:R2: a TRAINING line whose retrain count is 0 becomes UP. -/
def State.trainingEnd (l : LineId) (s : State) : State := if (s.line l).trained then s.setLineState l .up else s

/-- 01:R2: the training header of a TRAINING line. -/
def Line.header (l : Line) : Line := if l.st = .training then { l with retrain := l.retrain - 1 } else l

/-- What a line carries of a round that begins in its state (01 Table 1.1). -/
def LineState.carries (st : LineState) : Carried :=
  match st with
  | .off => .nothing
  | .training => .training
  | .up => .full
  | .degraded => .full
  | .disabled => .nothing

/-! ### The nodes before composition -/

/-- The drift span of one node at a round start (03:R52, R53, R58). Where the span's failure and the discard of a new
round length fall together, either is taken (log 14 DESIGN CHOICE). -/
def State.spanStep (newLength : Bool) (a : Nat) (s : State) : State :=
  match s.node? a with
  | none => s
  | some n =>
    if newLength then
      if n.clock.spanDue then
        if s.tie then s.chose.setClock a Clock.failSpan else s.chose.setClock a Clock.discardSpan
      else s.setClock a Clock.discardSpan
    else s.setClock a Clock.spanRise

/-- The coming round has another length than the round in progress (03:R45). -/
def State.lengthChanges (s : State) : Bool := s.lines.round.any (fun r => r.length != s.settings.roundLength)

/-- A DECISION one round start older (01:R14). -/
def Urgent.older : Urgent → Urgent
  | .decision d => .decision { d with age := d.age + 1 }
  | u => u

/-- The DECISION stands at the third round start after its origin round. -/
def Urgent.agedOut : Urgent → Bool
  | .decision d => 3 ≤ d.age
  | .remoteOpen _ => false

/-- 01:R14: the ageing of the urgent queue. -/
def State.ageOut (s : State) : State :=
  ({ s with lines := { s.lines with urgent := s.lines.urgent.map Urgent.older } }).removeUrgent Urgent.agedOut

/-- What each node does at a round start before composition: its permit, its stall count, its wait count (07:R135,
05:R106, R110). -/
def State.nodesStep (s : State) : State :=
  { s with nodes := s.nodes.map (fun n => (s.stallStep n).waitStep.openPermit) }

/-! ### The invitation (02:R30) -/

/-- The DORMANT nodes whose address gives the round number, ascending. -/
def State.dormantFor (s : State) (number : Nat) : List Nat :=
  (s.nodes.filter (fun n => n.st == .dormant && n.addr % 64 == number)).map Node.addr

/-- The first ABSENT node after the invitation pointer. -/
def State.absentNext (s : State) : Option Nat :=
  (walkFrom s.inviter.pointer s.addrs).find? (fun a => (s.node? a).any (fun n => n.st == .absent))

/-- The choice of the invited node, with the pointers after it; a line is in service. -/
def State.chooseInvited (number : Nat) (s : State) : Option Nat × Inviter :=
  let turn := if number = 0 then !s.inviter.turn else s.inviter.turn
  match s.dormantFor number with
  | [] =>
    match s.absentNext with
    | some a => (some a, ⟨a, turn⟩)
    | none => (none, { s.inviter with turn := turn })
  | [a] => (some a, { s.inviter with turn := turn })
  | a :: b :: _ => (some (if turn then b else a), { s.inviter with turn := turn })

/-- 02:R30 in the coming round: without service no node is chosen and the pointers keep their values. -/
def State.invitation (number : Nat) (s : State) : Option Nat × Inviter :=
  if s.service then s.chooseInvited number else (none, s.inviter)

/-! ### The new round -/

/-- The answer windows of a round: one for each node that is ONLINE, in PROBATION or SILENT (01:R5). -/
def State.windowsFor (s : State) : List Window :=
  (s.nodes.filter (fun n => n.st.hasWindow)).map (fun n => ⟨n.addr, false⟩)

/-- 01:R15: the segment of the coming round; without service none is composed and the repeat list is emptied. -/
def State.segmentFor (s : State) : State × List Directive :=
  if s.service then s.compose else ({ s with lines := { s.lines with repeats := [] } }, [])

/-- Steps 4 and 5 of 01:R4 and the next mark of 03:R45. -/
def State.newRound (s : State) : State :=
  let number := s.nextNumber
  let inv := s.invitation number
  let c := s.segmentFor
  let r : Round :=
    { number := number, secs := s.now, tick := s.time.tick, gen := s.revoc.gen, timeUnset := !s.time.isSet
      length := s.settings.roundLength, windows := s.windowsFor, invited := inv.1, inviteOpen := true
      inviteDead := false, segment := c.2, carriedA := s.lines.lineA.st.carries, carriedB := s.lines.lineB.st.carries }
  { c.1 with
    inviter := inv.2
    time := { c.1.time with mark := some ((s.time.tick + s.settings.roundLength) % 281474976710656) }
    lines := { c.1.lines with
      round := some r
      tallyDone := false
      lineA := c.1.lines.lineA.header
      lineB := c.1.lines.lineB.header } }

/-- The round-start event (01:R4): the old round ends, the tally period and the training of the lines are settled, the
nodes and the urgent queue are examined, the new round is fixed and sent. Line A comes before line B, and the nodes and
the ageing of the urgent queue (R14) after the line changes, since R4 gives these no order (log 22 DESIGN CHOICE). -/
def State.roundStart (s : State) : State :=
  let t := (s.beginRoundStart.tallyEnd.trainingEnd .a).trainingEnd .b
  (((t.forEach t.addrs (State.spanStep t.lengthChanges)).nodesStep).ageOut).newRound

/-! ### Rows -/

/-- ROUND_START (01:R4). -/
def execRoundStart (s : State) : Host.Outcome State Fault Refusal :=
  .next (match s.part with | .running => s.roundStart | _ => s)

/-- A part of the coming round-start event taken before the rest of it, when it is due (log 10 DESIGN CHOICE). -/
def State.roundPart (due : State → Bool) (act : State → State) (s : State) : State :=
  if s.part = .running ∧ due s.beginRoundStart then act s.beginRoundStart else s

/-- TRAINING_END (01:R2). -/
def execTrainingEnd (l : LineId) (s : State) : Host.Outcome State Fault Refusal :=
  .next (s.roundPart (fun t => (t.line l).trained) (State.trainingEnd l))

/-- TALLY_PERIOD_END (01:R11). -/
def execTallyPeriodEnd (s : State) : Host.Outcome State Fault Refusal :=
  .next (s.roundPart (fun t => decide (t.nextNumber = 0) && !t.lines.tallyDone) State.tallyEnd)

/-- The DECISION of a node and presentation number ages out at the coming round start. -/
def Urgent.dueFor (a p : Nat) (u : Urgent) : Bool := u.isDecision a p && u.older.agedOut

/-- DECISION_AGE_OUT (01:R14). -/
def execDecisionAgeOut (node number : Byte) (s : State) : Host.Outcome State Fault Refusal :=
  .next (s.roundPart (fun t => t.lines.urgent.any (Urgent.dueFor node.toNat number.toNat))
    (State.removeUrgent (Urgent.dueFor node.toNat number.toNat)))

/-- The stall count of a node reaches 8 at the coming round start (05:R106). -/
def State.stallDue (a : Nat) (s : State) : Bool :=
  (s.node? a).any (fun n => !n.reload.underWay && s.outstanding n != 0 && 8 ≤ n.cursor.stall + 1)

/-- STALL_REWIND (05:R106). -/
def execStallRewind (node : Byte) (s : State) : Host.Outcome State Fault Refusal :=
  .next (s.roundPart (State.stallDue node.toNat) (fun t => t.modNode node.toNat t.stallStep))

/-- The wait count of a node reaches 8 at the coming round start (05:R110). -/
def State.waitDue (a : Nat) (s : State) : Bool :=
  (s.node? a).any (fun n => match n.reload with | .awaiting _ w => 8 ≤ w + 1 | _ => false)

/-- RELOAD_WAIT_EXPIRY (05:R110). -/
def execReloadWaitExpiry (node : Byte) (s : State) : Host.Outcome State Fault Refusal :=
  .next (s.roundPart (State.waitDue node.toNat) (State.modNode node.toNat Node.waitStep))

/-- The open span of a node reaches a round count of 73 at the coming round start (03:R53). -/
def State.spanDueAt (a : Nat) (s : State) : Bool := (s.node? a).any (fun n => n.clock.spanDue)

/-- SPAN_FAILED (03:R53). -/
def execSpanFailed (node : Byte) (s : State) : Host.Outcome State Fault Refusal :=
  .next (s.roundPart (State.spanDueAt node.toNat) (State.setClock node.toNat Clock.failSpan))

end Sys2Proof.Machine
end

