-- ==== Sys2Proof/Machine/Time.lean ====
section
/-! DEFINITION. The wing timebase (03): second events, minute sweeps, SET_TIME, and the wing tick that passes while no
command waits. -/

namespace Sys2Proof.Machine

open Sys2Proof

/-! ### Second events (03:R43, R44) -/

/-- The rise of wing seconds at a second boundary. -/
def State.secondRise (s : State) : State := { s with time := { s.time with secs := wrap32 (s.time.secs + 1) } }

/-- The tick of the next second boundary. -/
def nextBoundary (tick : Nat) : Nat := (tick / 32768 + 1) * 32768 % 281474976710656

/-- The coming second boundary reached, unless a part of its event was taken already: one that a round start has reached
first, where it stands (03:R45), or the next one, the receive timeout measured over the ticks to it (10:R182, log 9 DESIGN CHOICE,
log 11 DESIGN CHOICE). -/
def State.beginSecond (s : State) : State :=
  if s.time.begun then s
  else
    let t := s.secondRise
    match s.time.owed with
    | 0 => { t with time := { t.time with tick := nextBoundary t.time.tick, begun := true } }.quietFor
        (32768 - t.time.tick % 32768)
    | k + 1 => { t with time := { t.time with owed := k, begun := true } }

/-- The second event is over. -/
def State.endSecond (s : State) : State := { s with time := { s.time with begun := false } }

/-- A line of the pool is due (08:R157). -/
def ChargeLine.due (now : Nat) (l : ChargeLine) : Bool := l.deadline ≤ now

/-- 08:R157, R166: the lines whose deadline is reached are committed, in pool order. -/
def State.commitDue (s : State) : State := s.commitWhere (ChargeLine.due s.now)

/-- 03:R44: the minute sweep, of the credential store and of the revocation unit. -/
def State.minuteSweep (s : State) : State := s.expirySweep.retireEntries

/-- A minute sweep stands at this second event. -/
def State.sweepDue (s : State) : Bool := s.time.isSet && s.now % 60 == 0

/-- 04:R78 and 08:R157 at one second event; where both have something to do, either acts first (log 14 DESIGN CHOICE). -/
def State.deadlines (s : State) : State :=
  if s.store.recs.any (fun c => c.lapsed s.now) && s.minibar.pool.any (ChargeLine.due s.now) then
    if s.tie then s.chose.lapseEncodings.commitDue else s.chose.commitDue.lapseEncodings
  else s.lapseEncodings.commitDue

/-- A second event (03:R43), raised in RUNNING only, with its minute sweep. -/
def State.secondWork (s : State) : State :=
  match s.part with
  | .running => if s.deadlines.sweepDue then s.deadlines.minuteSweep else s.deadlines
  | _ => s

/-- The coming second boundary, whole. -/
def State.secondEvent (s : State) : State := s.beginSecond.secondWork.endSecond

/-- SECOND_EVENT (03:R43). Outside RUNNING the boundary advances wing seconds and raises no event. -/
def execSecondEvent (s : State) : Host.Outcome State Fault Refusal := .next s.secondEvent

/-- A part of the coming second event taken before the rest of it, when it is due (log 11 DESIGN CHOICE). -/
def State.secondPart (due : State → Bool) (act : State → State) (s : State) : State :=
  if s.part = .running ∧ due s.beginSecond then act s.beginSecond else s

/-- ENCODING_LAPSE (04:R78): the encoding named, ahead of any other that lapses there (log 11 DESIGN CHOICE). -/
def execEncodingLapse (cred : U16) (s : State) : Host.Outcome State Fault Refusal :=
  .next (s.secondPart (fun t => (t.cred? cred.toNat).any (fun c => c.lapsed t.now))
    (fun t => t.returnEncoding cred.toNat .lapsed))

/-- The lines of a pool ahead of that of a compartment. -/
def linesAhead (a c : Nat) (pool : List ChargeLine) : List ChargeLine := pool.takeWhile (fun l => !l.names a c)

/-- 08:R157 as far as the line of a compartment: the due lines of the pool ahead of it are committed in pool order, then
it. -/
def State.commitThrough (l : ChargeLine) (s : State) : State :=
  ((linesAhead l.node l.comp s.minibar.pool).filter (ChargeLine.due s.now) ++ [l]).foldl (fun t x => t.commitLine x) s

/-- CHARGE_DEADLINE (08:R157): the line of a node's compartment, the due lines ahead of it in the pool before it (log 11 DESIGN CHOICE). -/
def execChargeDeadline (node comp : Byte) (s : State) : Host.Outcome State Fault Refusal :=
  .next (s.secondPart (fun t => (t.lineFor? node.toNat comp.toNat).any (ChargeLine.due t.now))
    (fun t => match t.lineFor? node.toNat comp.toNat with | some l => t.commitThrough l | none => t))

/-- MINUTE_SWEEP (03:R44). -/
def execMinuteSweep (s : State) : Host.Outcome State Fault Refusal :=
  .next (s.secondPart State.sweepDue State.minuteSweep)

/-! ### SET_TIME (03:R48) -/

/-- A step of wing time to a new value. -/
def State.stepTime (v : Nat) (s : State) : State :=
  let t := { s with time := { s.time with secs := v, epoch := (s.time.epoch + 1) % 65536, isSet := true } }
  (t.append { kind := .timeStep, secs := some v, value1 := some s.now }).latchFallbackAll

def serveSetTime (body : List Byte) (s : State) : State × Reply := (s.stepTime (u32At body 0), .plain .ok)

/-- SET_TIME. -/
def execSetTime (tag : Byte) (body : List Byte) (s : State) : Host.Outcome State Fault Refusal :=
  .next (s.command 0x08 tag body.length (· == 4) (serveSetTime body) [])

/-! ### One wing tick (03:R43, log 8 DESIGN CHOICE) -/

/-- The mark is reached or behind, and its round has not begun: a part of the event was taken, or another event of the
queue overtook it. -/
def State.roundOverdue (s : State) : Bool :=
  s.time.mark.any (fun m => m == s.time.tick || !s.time.markAhead m)

/-- A second boundary at the present tick. -/
def State.boundary (s : State) : State := s.secondRise.secondWork

/-- Second boundaries taken one after another at the present tick. -/
def State.boundaries : Nat → State → State
  | 0, s => s
  | k + 1, s => State.boundaries k s.boundary

/-- The second event begun by a part of it is finished. -/
def State.finishSecond (s : State) : State :=
  match s.part with
  | .running => if s.time.begun then s.secondWork.endSecond else s
  | _ => s

/-- The second boundaries that rows have passed are taken (03:R43, log 9 DESIGN CHOICE). -/
def State.takeOwed (s : State) : State := State.boundaries s.time.owed { s with time := { s.time with owed := 0 } }

/-- The round start that is overdue is taken. -/
def State.finishRound (s : State) : State :=
  match s.part with
  | .running => if s.roundOverdue then s.roundStart else s
  | _ => s

/-- What stands begun, owed or overdue at the present tick is finished. -/
def State.finishTick (s : State) : State := s.finishSecond.takeOwed.finishRound

/-- One period of the 32,768 Hz source (03:R43). A round start and a second boundary on one tick are taken in either
order (03:R45, log 14 DESIGN CHOICE). -/
def State.tickOnce (s : State) : State :=
  let t0 := s.finishTick
  let t := { t0 with time := { t0.time with tick := (t0.time.tick + 1) % 281474976710656 } }.quietFor 1
  let second := t.time.tick % 32768 == 0
  let round := t.part == .running && t.time.mark == some t.time.tick
  match second, round with
  | false, false => t
  | true, false => t.boundary
  | false, true => t.roundStart
  | true, true => if t.tie then t.chose.boundary.roundStart else t.chose.roundStart.boundary

end Sys2Proof.Machine
end

