-- ==== Sys2Proof/Machine/Images.lean ====
section
/-! DEFINITION. Settings images (10 Tables 10.14 and 10.17, 11:R194, R195): their composition, their judgement and their
reading. -/

namespace Sys2Proof.Machine

open Sys2Proof

/-! ### Composition (11:R198) -/

/-- An enrolment record of an image: the address and the fields that follow it (10 Table 10.17). -/
def Node.imageRecord (n : Node) : List Byte := byteOf n.addr :: n.enrol.bytes

/-- The scalar values and keys of an image body (10 Table 10.17). -/
def Settings.bytes (v : Settings) : List Byte :=
  le16 v.roundLength ++ [byteOf v.degradeThreshold] ++ le16 (u16OfInt v.localOffset) ++ le16 v.encodingLapse
    ++ le16 v.returnWindow ++ le32 v.defaultCeiling ++ le16 v.journalThreshold ++ v.currentKey ++ v.previousKey

/-- The body of the image of the running settings, its enrolment records in ascending address (log 49 DESIGN CHOICE). -/
def State.imageBody (s : State) : List Byte := s.settings.bytes ++ s.nodes.flatMap Node.imageRecord

/-- The first 14 bytes of an image header (10 Table 10.14). -/
def headerStart (count : Nat) (body : List Byte) : List Byte :=
  le16 0x5A42 ++ le16 1 ++ le16 body.length ++ le32 count ++ le32 (crc32 body)

/-- An image: the header with its two checks, and the body. -/
def imageOf (count : Nat) (body : List Byte) : List Byte :=
  headerStart count body ++ le16 (crc16 (headerStart count body)) ++ body

/-- The store count of the next image stored (11:R198). -/
def Loader.nextCount (l : Loader) : Nat :=
  match l.recent with
  | some r => wrap32 (r.count + 1)
  | none => 1

/-- The bank the next store writes (11:R198). -/
def Loader.nextBank (l : Loader) : Bank :=
  match l.recent with
  | some r => match r.bank with | .first => .second | .second => .first
  | none => .first

/-- The running image, as STORE_SETTINGS would compose it. -/
def State.runningImage (s : State) : List Byte := imageOf s.loader.nextCount s.imageBody

/-! ### The header judged (11:R194) -/

/-- The body length an image header gives. -/
def headerLength (img : List Byte) : Nat := u16At img 4

/-- Identifier, version and body length are those of 10 Table 10.14. -/
def headerFormatOk (img : List Byte) : Bool :=
  16 ≤ img.length && u16At img 0 == 0x5A42 && u16At img 2 == 1 && headerLength img ≤ 4080

/-- The header check. -/
def headerCheckOk (img : List Byte) : Bool := u16At img 14 == crc16 (img.take 14)

/-- The settings image in the copy of a bank: 16 header bytes and the body whose length the header gives. Where the
bytes give no whole image, the copy itself (11:R199 states no length there; log 44 DESIGN CHOICE). -/
def bankImage (copy : List Byte) : List Byte :=
  if headerFormatOk copy ∧ 16 + headerLength copy ≤ copy.length then copy.take (16 + headerLength copy) else copy

/-- The body of an image whose bytes are all held. -/
def bodyOf (img : List Byte) : List Byte := (img.drop 16).take (headerLength img)

/-- The body check. -/
def bodyCheckOk (img : List Byte) : Bool := u32At img 10 == crc32 (bodyOf img)

/-! ### The body read (11:R195, 10 Table 10.17) -/

/-- The body ends at the end of a scalar value, of the keys, or of an enrolment record. -/
def layoutOk (len : Nat) : Bool :=
  [0, 2, 3, 5, 7, 9, 13, 15].contains len || (31 ≤ len && (len - 31) % 15 == 0)

/-- A scalar value, or its default where the body ends before it. -/
def scalarOr {α : Type} (body : List Byte) (stop : Nat) (value default : α) : α := if stop ≤ body.length then value else default

/-- A number clamped into a range. -/
def clampNat (lo hi v : Nat) : Nat := max lo (min hi v)

/-- The local offset clamped. -/
def clampOffset (v : Int) : Int := max (-720) (min 840 v)

/-- The values of a body before they are clamped. -/
def rawSettings (b : List Byte) : Settings where
  roundLength := scalarOr b 2 (u16At b 0) 6144
  degradeThreshold := scalarOr b 3 (byteAt b 2) 32
  localOffset := scalarOr b 5 (i16At b 3) 0
  encodingLapse := scalarOr b 7 (u16At b 5) 120
  returnWindow := scalarOr b 9 (u16At b 7) 120
  defaultCeiling := scalarOr b 13 (u32At b 9) 20000
  journalThreshold := scalarOr b 15 (u16At b 13) 64
  currentKey := scalarOr b 31 ((b.drop 15).take 8) (List.replicate 8 0)
  previousKey := scalarOr b 31 ((b.drop 23).take 8) (List.replicate 8 0)

/-- Each value clamped into its range (11 Table 11.2). -/
def Settings.clamped (v : Settings) : Settings :=
  { v with
    roundLength := clampNat 4096 16384 v.roundLength
    degradeThreshold := clampNat 1 64 v.degradeThreshold
    localOffset := clampOffset v.localOffset
    encodingLapse := clampNat 10 600 v.encodingLapse
    returnWindow := clampNat 0 900 v.returnWindow
    defaultCeiling := clampNat 0 9999999 v.defaultCeiling
    journalThreshold := clampNat 1 2048 v.journalThreshold }

/-- The readings of the enrolment records of a body. -/
def bodyRecords (b : List Byte) : List (Option EnrolReq) :=
  (List.range ((b.length - 31) / 15)).map (fun i => enrolAt b (31 + 15 * i))

/-- The key of an enrolment is held by another of the list. -/
def distinct (key : EnrolReq → Nat) : List EnrolReq → Bool
  | [] => true
  | r :: rs => rs.all (fun x => key x != key r) && distinct key rs

/-- 11:R195: the enrolment that an image describes as a whole. -/
def enrolmentOk (rs : List EnrolReq) : Bool :=
  distinct EnrolReq.addr rs && distinct (fun r => r.enrol.point) rs
    && rs.all (fun r =>
      match r.enrol.cls with
      | .suiteInner => rs.any (fun x => x.enrol.cls == .roomEntry && r.enrol.entry == some x.enrol.point)
      | .minibar => rs.any (fun x => x.enrol.cls == .roomEntry && r.enrol.entry == some x.enrol.point)
      | _ => true)

/-- The enrolments of a body in ascending address; none where a record fails its checks. -/
def bodyEnrolments (b : List Byte) : Option (List EnrolReq) :=
  let rs := bodyRecords b
  if rs.all Option.isSome && enrolmentOk (rs.filterMap id) then
    some ((rs.filterMap id).foldl (fun l r => putKey EnrolReq.addr r l) [])
  else none

/-- What a usable image gives: settings, whether a value was clamped, the enrolments in ascending address. -/
structure Loaded where
  settings : Settings
  clamped : Bool
  enrolments : List EnrolReq
  deriving DecidableEq, Repr

/-- What a body of a good layout gives; none where an enrolment record fails its checks. -/
def loadBody (b : List Byte) : Option Loaded :=
  (bodyEnrolments b).map (fun es => ⟨(rawSettings b).clamped, decide ((rawSettings b).clamped ≠ rawSettings b), es⟩)

/-! ### Banks judged (11:R194) -/

/-- The judgement of a bank: its cause, or what its image gives. -/
def judgeBank (bank : Option (List Byte)) : Except Cause Loaded :=
  match bank with
  | none => .error .noMemory
  | some img =>
    if ¬ headerFormatOk img ∨ img.length < 16 + headerLength img ∨ ¬ layoutOk (headerLength img) then .error .format
    else if ¬ headerCheckOk img ∨ ¬ bodyCheckOk img then .error .check
    else
      match loadBody (bodyOf img) with
      | some l => .ok l
      | none => .error .check

/-- The store count of a bank. -/
def bankCount (bank : Option (List Byte)) : Nat := (bank.map (fun img => u32At img 6)).getD 0

/-- The bank taken with what it gives (11:R194): the newer of two good ones, the first of two equal ones (log 30 DESIGN CHOICE). -/
def chooseBank (bank1 bank2 : Option (List Byte)) : Option (Recent × Loaded) :=
  match judgeBank bank1, judgeBank bank2 with
  | .ok l1, .ok l2 =>
    if genBelow (bankCount bank1) (bankCount bank2) then some (⟨.second, bankCount bank2⟩, l2)
    else some (⟨.first, bankCount bank1⟩, l1)
  | .ok l1, .error _ => some (⟨.first, bankCount bank1⟩, l1)
  | .error _, .ok l2 => some (⟨.second, bankCount bank2⟩, l2)
  | .error _, .error _ => none

/-- The unconfigured cause when no bank is taken (11:R194): the judgement of the first bank. -/
def unconfiguredCause (bank1 : Option (List Byte)) : Cause :=
  match judgeBank bank1 with
  | .error c => c
  | .ok _ => .none

end Sys2Proof.Machine
end

