-- ==== Sys2Proof/Machine/Supply.lean ====
section
/-! DEFINITION. Supply, retention and starts (11): the discard of volatile state, cold, warm and other starts, the load of
the settings and the start work of the blocks, and the rows of the table that are supply, pin and load events. -/

namespace Sys2Proof.Machine

open Sys2Proof

/-! ### The discard of volatile state (11:R192) -/

/-- What a node record holds once its volatile state is gone, with the values every start gives (02 Table 2.5,
03 Table 3.6, 05 Table 5.3, 06 Table 6.3, 07 Table 7.3; log 7 DESIGN CHOICE for the enrolment fields). -/
def Node.volatileLost (n : Node) : Node :=
  { n with
    enrol := n.copy.enrolment
    st := .absent
    joins := 16
    good := 0
    missed := 0
    silent := 0
    lastPres := none
    status := none
    clock := n.clock.discardSpan
    cursor := ⟨n.cursor.acked, n.cursor.acked, 0⟩
    reload := if n.reload.underWay then .marked else n.reload
    latchFallback := false
    latchPermit := false
    latchComp := false
    memory := []
    upload := none
    received := 0
    permit := .none }

/-- The loader once its volatile state is gone: a store in flight is abandoned with FAILED (11:R198; log 6 DESIGN CHOICE, log 7 DESIGN CHOICE). -/
def Loader.volatileLost (l : Loader) : Loader :=
  { Loader.initial with lastStore := if l.store.isSome then .failed else l.lastStore }

/-- The port with nothing in assembly, in service or waiting (10 Table 10.6). -/
def Port.stopped (p : Port) : Port :=
  { p with rx := .hunting, silence := 0, service := none, sending := none, waiting := [], arm := Arming.all }

/-- 11:R192: all volatile state discarded; the retention domain and the timebase run on. -/
def State.discardVolatile (s : State) : State :=
  { s with
    loader := s.loader.volatileLost
    time := { s.time with mark := none, begun := false }
    lines := LineEngine.initial
    inviter := Inviter.initial
    nodes := s.nodes.map Node.volatileLost
    revoc := { s.revoc with rekeys := 0 }
    port := s.port.stopped }

/-! ### Starts (11:R193, R196) -/

/-- The rate the straps select (10 Table 10.1). -/
def rateOf (high1 high0 : Bool) : Rate :=
  match high1, high0 with
  | false, false => .b115200
  | false, true => .b230400
  | true, false => .b460800
  | true, true => .b921600

/-- The part enters LOADING after a start of a kind (10:R178, R189, 11:R192). -/
def State.enterLoading (kind : StartKind) (s : State) : State :=
  { s with
    part := .loading
    supply := { s.supply with startKind := kind, cellLow := s.supply.cellBelow, restoreWaiting := false }
    port := { s.port.stopped with rate := rateOf s.port.strapHigh1 s.port.strapHigh0 } }

/-- A cold start (11:R193): the retention domain in its cold-start state, the check word valid, COLD_START written. -/
def State.coldStart (s : State) : State :=
  { s.discardVolatile with
    supply := { s.supply with checkValid := true, outageStart := 0 }
    loader := Loader.initial
    time := TimeBase.initial
    nodes := []
    store := Store.initial
    revoc := Revoc.initial
    minibar := ⟨[], []⟩
    journal := Journal.cold }.enterLoading .cold

/-- A warm start (11:R193). -/
def State.warmStart (s : State) : State :=
  (s.append { kind := .supplyRestored, value1 := some (sub32 s.now s.supply.outageStart) }).enterLoading .warm

/-- The supply-restore event (11:R193). -/
def State.restore (s : State) : State := if s.supply.checkValid then s.warmStart else s.coldStart

/-- The effect of RESTART or of the reset pin (11:R196). -/
def State.restartEffect (kind : StartKind) (d : Detail) (s : State) : State :=
  if s.supply.checkValid then
    (s.discardVolatile.append { kind := .restarted, detail1 := some d }).enterLoading kind
  else s.coldStart

/-! ### Supply, cell and pin events -/

/-- SUPPLY_LOSS (11:R192), in every part state: in RETENTION the main supply falls again, and the outage counts from
there. A restore that waits for the pin waits no longer (log 31 DEDUCED). The check word keeps its value, with the cell
below its minimum too (log 47 DESIGN CHOICE). -/
def execSupplyLoss (s : State) : Host.Outcome State Fault Refusal :=
  .next { s.discardVolatile with
    part := .retention
    supply := { s.supply with outageStart := s.now, restoreWaiting := false } }

/-- SUPPLY_RESTORE (11:R193): while the pin is held the event waits for its release (log 31 DEDUCED). -/
def execSupplyRestore (s : State) : Host.Outcome State Fault Refusal :=
  .next (
    match s.part with
    | .retention => if s.supply.pinLow then { s with supply := { s.supply with restoreWaiting := true } } else s.restore
    | _ => s)

/-- CELL_LOW (11:R192): in RETENTION the check word becomes invalid, in any other state the flag is set. -/
def execCellLow (s : State) : Host.Outcome State Fault Refusal :=
  .next (
    match s.part with
    | .retention => { s with supply := { s.supply with cellBelow := true, checkValid := false } }
    | _ => { s with supply := { s.supply with cellBelow := true, cellLow := true } })

/-- CELL_OK (11:R192). -/
def execCellOk (s : State) : Host.Outcome State Fault Refusal :=
  .next { s with supply := { s.supply with cellBelow := false, cellLow := false } }

/-- RESET_PIN_LOW (11:R196): the part goes to HELD from LOADING, UNCONFIGURED and RUNNING. -/
def execResetPinLow (s : State) : Host.Outcome State Fault Refusal :=
  .next (
    match s.part with
    | .retention => { s with supply := { s.supply with pinLow := true } }
    | .held => { s with supply := { s.supply with pinLow := true } }
    | _ => { s.discardVolatile with part := .held, supply := { s.supply with pinLow := true } })

/-- RESET_PIN_RELEASE (11:R193, R196). -/
def execResetPinRelease (s : State) : Host.Outcome State Fault Refusal :=
  let t := { s with supply := { s.supply with pinLow := false } }
  .next (
    match s.part with
    | .held => t.restartEffect .resetPin .resetPin
    | .retention => if s.supply.restoreWaiting then t.restore else t
    | _ => t)

/-! ### Frames sent (10:R183, R187) -/

/-- The frame is a reply. -/
def OutFrame.isReply : OutFrame → Bool
  | .reply _ _ _ => true
  | _ => false

/-- The next waiting frame begins to be sent. -/
def Port.nextFrame (p : Port) : Port :=
  match p.waiting with
  | [] => { p with sending := none }
  | f :: fs => { p with sending := some f, waiting := fs }

/-- The command in service leaves service. -/
def Port.served (p : Port) : Port := { p with service := none }

/-- FRAME_SENT (10:R183, R187): the last byte of the frame in sending has been sent; a RESTART then takes effect. -/
def execFrameSent (s : State) : Host.Outcome State Fault Refusal :=
  .next (
    match s.port.sending with
    | none => s
    | some f =>
      if f.isReply then
        let t := { s with port := s.port.nextFrame.served }
        if s.port.service.any (fun v => v.restarts) then t.restartEffect .restart .restartCommand else t
      else { s with port := s.port.nextFrame })

/-! ### Reaching RUNNING (11:R195, 02:R42) -/

/-- The retained nodes that the loaded image does not enrol as their copy says (02:R42). -/
def State.displaced (s : State) (es : List EnrolReq) : List Node :=
  s.nodes.filter (fun n => !es.any (fun r => r.addr == n.addr && r.enrol.copy == n.copy))

/-- A retained node treated as withdrawn at a start: no NODE_STATE is written (02:R42). No NODE_CHANGE is raised for it
either: 02:R42 gives the implied withdrawal the effects of 02:R26, which name that condition, and excepts NODE_STATE alone
(log 50 DESIGN CHOICE). -/
def State.displace (s : State) (n : Node) : State := (s.releaseNode n).forgetNode n.addr

/-- An enrolment taken up at a start: the node kept with its enrolment fields, or created with the values of enrolment;
after a cold start its room's floor stands from 0 (11:R193). Nothing is latched (log 24 DEDUCED) and no NODE_CHANGE is
raised (log 50 DESIGN CHOICE). -/
def State.takeUp (s : State) (r : EnrolReq) : State :=
  match s.node? r.addr with
  | some _ => s.modNode r.addr (fun n => { n with enrol := r.enrol })
  | none => s.createNode r (if s.supply.startKind = .cold then 0 else s.now)

/-- The tables reconciled with the loaded image (02:R42, 05:R111, 08:R166): withdrawals before enrolments, each in
ascending address (log 22 DESIGN CHOICE). -/
def State.reconcile (es : List EnrolReq) (s : State) : State := es.foldl State.takeUp ((s.displaced es).foldl State.displace s)

/-- The points whose room records the start discards. -/
def State.lostRooms (s : State) (es : List EnrolReq) : List Nat :=
  ((s.displaced es).filter (fun n => n.enrol.cls == .roomEntry)).map (fun n => n.enrol.point)

/-- 04:R86: the guest encodings of discarded rooms are returned, in ascending credential number (log 22 DESIGN CHOICE). -/
def State.returnOrphans (points : List Nat) (s : State) : State :=
  ((s.store.recs.filter (fun c => c.st.isEncoding && points.any (fun p => c.guestOf p))).map Cred.number).foldl
    (fun t k => t.returnEncoding k .lapsed) s

/-- The blocks that do start work at the event the part reaches RUNNING. -/
inductive StartActor where
  | tables | orphans | lapses | charges | lineA | lineB | entry | notice
  deriving DecidableEq, Repr

/-- The part enters RUNNING: conditions raised after this find the port's flags (10:R188, R189). -/
def State.enterRunning (s : State) : State := { s with part := .running }

/-- STARTED is made ready (10:R189), before or after the notices of conditions raised at the event. -/
def State.started (s : State) : State :=
  { s with port := s.port.ready (.notice 0x60 [byteOf s.supply.startKind.code]) }

/-- The start work of one block. -/
def State.startAct (es : List EnrolReq) (lost : List Nat) (s : State) : StartActor → State
  | .tables => s.reconcile es
  | .orphans => s.returnOrphans lost
  | .lapses => s.lapseEncodings
  | .charges => s.commitDue
  | .lineA => s.enterTraining .a
  | .lineB => s.enterTraining .b
  | .entry => s.enterRunning
  | .notice => s.started

/-- Every block of the start. -/
def startActors : List StartActor := [.tables, .orphans, .lapses, .charges, .lineA, .lineB, .entry, .notice]

/-- An order of the blocks in which the encodings of discarded rooms are returned after the tables are reconciled
(04:R86). -/
def startSequence : List StartActor → List StartActor
  | [] => []
  | .orphans :: rest => if rest.contains .tables then rest ++ [.orphans] else .orphans :: rest
  | x :: rest => x :: startSequence rest

/-- The first round-start mark (03:R45). -/
def State.firstMark (s : State) : State :=
  { s with time := { s.time with mark := some ((s.time.tick + s.settings.roundLength) % 281474976710656) } }

/-- 11:R195: the part reaches RUNNING with a loaded image, the blocks acting in the order given. -/
def State.reachRunning (order : List StartActor) (l : Loaded) (s : State) : State :=
  let t := { s with loader := { s.loader with settings := l.settings } }
  ((startSequence order).foldl (State.startAct l.enrolments (t.lostRooms l.enrolments)) t).firstMark

/-- The order the blocks act in at this start (11:R195, 10:R189, log 14 DESIGN CHOICE). -/
def State.startOrder (s : State) : List StartActor := arrange (Config.startOrder s.choices) startActors

/-! ### Load complete (11:R194) -/

/-- The load-complete event, the blocks acting in the order given. -/
def State.loadComplete (order : List StartActor) (bank1 bank2 : Option (List Byte)) (s : State) : State :=
  let t := { s with loader := { s.loader with bank1 := bank1, bank2 := bank2 } }
  match chooseBank bank1 bank2 with
  | some (recent, l) =>
    ({ t with loader := { t.loader with recent := some recent, cause := .none } }).reachRunning order l
  | none => { t with part := .unconfigured, loader := { t.loader with recent := none, cause := unconfiguredCause bank1 } }

/-- LOAD_COMPLETE (11:R194). -/
def execLoadComplete (bank1 bank2 : Option (List Byte)) (s : State) : Host.Outcome State Fault Refusal :=
  .next (
    match s.part with
    | .loading => s.chose.loadComplete s.startOrder bank1 bank2
    | _ => s)

end Sys2Proof.Machine
end

