-- ==== Sys2Proof/Machine/SettingsCommands.lean ====
section
/-! DEFINITION. The commands of the settings loader, the retention controller and the port itself: PING, GET_STATUS,
LOAD_SETTINGS, READ_SETTINGS, STORE_SETTINGS, RESTART, and the row STORE_COMPLETE (10:R190, 11:R196 to R199). -/

namespace Sys2Proof.Machine

open Sys2Proof

/-! ### PING, GET_STATUS, RESTART -/

def servePing (body : List Byte) (s : State) : State × Reply := (s, ⟨.ok, body ++ [byteOf s.part.code]⟩)

/-- PING (10:R190). -/
def execPing (tag : Byte) (body : List Byte) (s : State) : Host.Outcome State Fault Refusal :=
  .next (s.command 0x01 tag body.length (· ≤ 16) (servePing body) [])

/-- The content of a GET_STATUS reply (11:R199, 10 Table 10.16). The bytes of an absent store count are zero (log 40 DESIGN CHOICE). -/
def State.statusContent (s : State) : List Byte :=
  [byteOf s.part.code, byteOf s.supply.startKind.code, byteOf s.loader.cause.code, flagByte s.loader.store.isSome,
   byteOf s.loader.lastStore.code, flagByte s.loader.recent.isSome]
    ++ optLe32 (s.loader.recent.map (·.count)) ++ [flagByte s.time.isSet] ++ le32 s.now ++ le16 s.time.epoch
    ++ [flagByte s.supply.cellLow] ++ le16 s.revoc.rekeys

def serveGetStatus (s : State) : State × Reply := (s, ⟨.ok, s.statusContent⟩)

/-- GET_STATUS (11:R199). -/
def execGetStatus (tag : Byte) (body : List Byte) (s : State) : Host.Outcome State Fault Refusal :=
  .next (s.command 0x02 tag body.length (· == 0) serveGetStatus [])

def serveRestart (s : State) : State × Reply := (s, .plain .ok)

/-- RESTART (11:R196): the reply is OK, and the effect takes place at the end of its sending (FRAME_SENT). -/
def execRestart (tag : Byte) (body : List Byte) (s : State) : Host.Outcome State Fault Refusal :=
  .next (s.command 0x06 tag body.length (· == 0) serveRestart [])

/-! ### LOAD_SETTINGS (11:R197) -/

/-- The staging image a command would leave, or none where its offset is refused. -/
def stagedBy (staging : List Byte) (offset : Nat) (data : List Byte) : Option (List Byte) :=
  if offset = 0 then some data else if offset = staging.length then some (staging ++ data) else none

/-- What a staging image comes to: refused, incomplete, or complete with what it gives. -/
inductive Staged where
  | refused
  | incomplete
  | complete (l : Loaded)
  deriving DecidableEq, Repr

/-- The judgement of a staging image as a command would leave it. -/
def judgeStaged (img : List Byte) : Staged :=
  if img.length < 16 then .incomplete
  else if ¬ headerFormatOk img ∨ ¬ headerCheckOk img ∨ 16 + headerLength img < img.length then .refused
  else if img.length < 16 + headerLength img then .incomplete
  else if ¬ bodyCheckOk img ∨ ¬ layoutOk (headerLength img) then .refused
  else
    match loadBody (bodyOf img) with
    | some l => .complete l
    | none => .refused

/-- The nodes that an image applied in RUNNING withdraws (11:R197). -/
def State.impliedWithdrawals (s : State) (es : List EnrolReq) : List Node := s.displaced es

/-- The enrolments of other addresses. -/
def othersOf (es : List EnrolReq) (a : Nat) : List Enrolment := (es.filter (fun r => r.addr != a)).map (·.enrol)

/-- An implied withdrawal would be refused (11:R197). -/
def State.loadRefused (s : State) (es : List EnrolReq) : Bool :=
  (s.impliedWithdrawals es).any (fun n => s.withdrawRefused n (othersOf es n.addr))

/-- 11:R197: the keys in use after an image was applied in RUNNING. -/
def Settings.withKeysOf (old new : Settings) : Settings :=
  if new.currentKey = old.currentKey then { new with currentKey := old.currentKey, previousKey := old.previousKey }
  else { new with currentKey := new.currentKey, previousKey := old.currentKey }

/-- The new values in the running settings; a changed local offset latches FALLBACK_PARAMS for every node (03:R47). -/
def State.replaceSettings (v : Settings) (s : State) : State :=
  let t := { s with loader := { s.loader with settings := s.settings.withKeysOf v } }
  if s.settings.localOffset = v.localOffset then t else t.latchFallbackAll

/-- An enrolment of an image that the node table does not hold. -/
def State.enrolNew (s : State) (r : EnrolReq) : State :=
  match s.node? r.addr with
  | some _ => s
  | none => s.enrol r

/-- The enrolments of an image in the order they are made: ROOM_ENTRY nodes before the others (11:R197). -/
def roomsFirst (es : List EnrolReq) : List EnrolReq :=
  es.filter (fun r => r.enrol.cls == .roomEntry) ++ es.filter (fun r => r.enrol.cls != .roomEntry)

/-- The opening hours and out-of-service flag of an address that both enrol (11:R197). -/
def State.refield (s : State) (r : EnrolReq) : State := s.setNodeFields r.addr r.enrol.oos r.enrol.hours

/-- 11:R197: an image applied in RUNNING. The scalar settings are replaced before the enrolments are compared, so a folio
created here takes the new default ceiling (08:R159, log 43 DESIGN CHOICE). -/
def State.applyImage (l : Loaded) (s : State) : State :=
  let t := (s.impliedWithdrawals l.enrolments).foldl (fun t n => t.withdraw n) (s.replaceSettings l.settings)
  l.enrolments.foldl State.refield ((roomsFirst l.enrolments).foldl State.enrolNew t)

/-- The staging image replaced. -/
def State.stage (img : List Byte) (s : State) : State := { s with loader := { s.loader with staging := img } }

/-- The status of an image that was applied. -/
def loadStatus (l : Loaded) : Status := if l.clamped then .clamped else .ok

/-- A complete image taken: applied in RUNNING, or the start of the part from UNCONFIGURED, the blocks acting in the
order given. -/
def State.takeImage (order : List StartActor) (l : Loaded) (s : State) : State × Reply :=
  match s.part with
  | .running =>
    if s.loadRefused l.enrolments then refuse .wrongState s
    else ((s.applyImage l).stage [], ⟨loadStatus l, le16 0⟩)
  | _ => ((s.stage []).chose.reachRunning order l, ⟨loadStatus l, le16 0⟩)

def serveLoadSettings (body : List Byte) (s : State) : State × Reply :=
  match stagedBy s.loader.staging (u32At body 0) (body.drop 4) with
  | none => refuse .badField s
  | some img =>
    match judgeStaged img with
    | .refused => refuse .badField s
    | .incomplete => (s.stage img, ⟨.ok, le16 img.length⟩)
    | .complete l => s.takeImage s.startOrder l

/-- LOAD_SETTINGS (11:R197). -/
def execLoadSettings (tag : Byte) (body : List Byte) (s : State) : Host.Outcome State Fault Refusal :=
  .next (s.command 0x03 tag body.length (fun n => 4 ≤ n && n ≤ 1024) (serveLoadSettings body) [])

/-! ### READ_SETTINGS (11:R199) -/

/-- Where READ_SETTINGS reads, or the code of its refusal. -/
def State.readSource (s : State) (source : Nat) : Except Status (List Byte) :=
  match source with
  | 0 => if s.part = .unconfigured then .error .wrongState else .ok s.runningImage
  | 1 => match s.loader.bank1 with | some b => .ok (bankImage b) | none => .error .notFound
  | 2 => match s.loader.bank2 with | some b => .ok (bankImage b) | none => .error .notFound
  | _ => .error .badField

/-- 11:R199: source and count are checked first, then the source is sought, and the offset is checked against the image
last (log 46 DESIGN CHOICE). -/
def serveReadSettings (body : List Byte) (s : State) : State × Reply :=
  if byteAt body 3 = 0 then refuse .badField s
  else
    match s.readSource (byteAt body 0) with
    | .error st => refuse st s
    | .ok img =>
      if img.length ≤ u16At body 1 then refuse .badField s
      else (s, ⟨.ok, le16 img.length ++ (img.drop (u16At body 1)).take (byteAt body 3)⟩)

/-- READ_SETTINGS (11:R199). -/
def execReadSettings (tag : Byte) (body : List Byte) (s : State) : Host.Outcome State Fault Refusal :=
  .next (s.command 0x04 tag body.length (· == 4) (serveReadSettings body) [])

/-! ### STORE_SETTINGS and its completion (11:R198) -/

def serveStoreSettings (s : State) : State × Reply :=
  if s.loader.store.isSome then refuse .busy s
  else
    ({ s with
       loader := { s.loader with store := some ⟨s.loader.nextBank, s.runningImage, s.loader.nextCount⟩ } }, .plain .ok)

/-- STORE_SETTINGS (11:R198). -/
def execStoreSettings (tag : Byte) (body : List Byte) (s : State) : Host.Outcome State Fault Refusal :=
  .next (s.command 0x05 tag body.length (· == 0) serveStoreSettings [])

/-- A store whose bank matched the image. -/
def Loader.stored (j : StoreJob) (l : Loader) : Loader :=
  { l with
    store := none
    lastStore := .ok
    bank1 := match j.bank with | .first => some j.image | .second => l.bank1
    bank2 := match j.bank with | .first => l.bank2 | .second => some j.image
    recent := some ⟨j.bank, j.count⟩ }

/-- The bank read back matches the image written. -/
def readsBack (j : StoreJob) (readBack : Option (List Byte)) : Bool :=
  readBack.any (fun b => b.take j.image.length == j.image)

/-- STORE_COMPLETE (11:R198). The copy of a bank whose store failed stays the one last read or stored (log 48 DESIGN CHOICE). -/
def execStoreComplete (readBack : Option (List Byte)) (s : State) : Host.Outcome State Fault Refusal :=
  .next (
    match s.loader.store with
    | none => s
    | some j =>
      if readsBack j readBack then { s with loader := s.loader.stored j }
      else { s with loader := { s.loader with store := none, lastStore := .failed } })

end Sys2Proof.Machine
end

