-- ==== Sys2Proof/Machine/LineCommands.lean ====
section
/-! DEFINITION. The line commands (01:R21, R22): LINE_CONTROL with its three actions, and LINE_STATUS. -/

namespace Sys2Proof.Machine

open Sys2Proof

/-- RETRAIN (01 Table 1.3). -/
def State.retrain (l : LineId) (s : State) : State × Reply :=
  match (s.line l).st with
  | .disabled => refuse .wrongState s
  | .off => refuse .wrongState s
  | _ => ((if (s.line l).st.inService then s.cutRound l else s).enterTraining l, .plain .ok)

/-- DISABLE (01 Table 1.3). The retrain count of a line taken out of TRAINING stands (01:R21 says that training ends, not
that the count clears; log 38 DESIGN CHOICE). -/
def State.disableLine (l : LineId) (s : State) : State × Reply :=
  ((if (s.line l).st.inService then s.cutRound l else s).setLineState l .disabled, .plain .ok)

/-- ENABLE (01 Table 1.3). -/
def State.enableLine (l : LineId) (s : State) : State × Reply :=
  match (s.line l).st with
  | .disabled => (s.enterTraining l, .plain .ok)
  | _ => refuse .wrongState s

/-- LINE_CONTROL served by the action its body carries. -/
def serveLineControl (body : List Byte) (s : State) : State × Reply :=
  match lineControlReq body with
  | none => refuse .badField s
  | some (l, .retrain) => s.retrain l
  | some (l, .disable) => s.disableLine l
  | some (l, .enable) => s.enableLine l

/-- A LINE_CONTROL frame. -/
def State.lineControl (tag : Byte) (body : List Byte) (s : State) : State :=
  s.command 0x10 tag body.length (· == 2) (serveLineControl body) []

/-- LINE_RETRAIN (01:R21): the whole body. -/
def execLineRetrain (tag : Byte) (body : List Byte) (s : State) : Host.Outcome State Fault Refusal :=
  .next (s.lineControl tag body)

/-- LINE_DISABLE (01:R21): the body less its action, which is DISABLE (log 15 DESIGN CHOICE). -/
def execLineDisable (tag : Byte) (head : List Byte) (s : State) : Host.Outcome State Fault Refusal :=
  .next (s.lineControl tag (head ++ [1]))

/-- LINE_ENABLE (01:R21): the body less its action, which is ENABLE (log 15 DESIGN CHOICE). -/
def execLineEnable (tag : Byte) (head : List Byte) (s : State) : Host.Outcome State Fault Refusal :=
  .next (s.lineControl tag (head ++ [2]))

/-! ### LINE_STATUS (01:R22, 10 Table 10.16) -/

def Line.bytes (l : Line) : List Byte :=
  [byteOf l.st.code, byteOf l.retrain] ++ le16 l.running ++ le16 l.tally ++ [l.flags.toByte]

def FirstFault.bytes (f : FirstFault) : List Byte :=
  [flagByte f.valid, byteOf (lineCode f.line), byteOf f.round, byteOf f.node, byteOf f.kind.code, byteOf f.cls.code]
    ++ le32 f.secs

/-- The round number in progress; before the first round a free value (log 18 DESIGN CHOICE). -/
def State.roundByte (s : State) : Byte :=
  match s.lines.round with
  | some r => byteOf r.number
  | none => Config.roundNumberUnstarted

/-- The content of a LINE_STATUS reply (01:R22, 10 Table 10.16). The degrade threshold in use is that of the running
settings, also where 11:R197 has it judge from the next period end on (log 39 DESIGN CHOICE). -/
def State.lineStatusContent (s : State) : List Byte :=
  s.lines.lineA.bytes ++ s.lines.lineB.bytes ++ s.lines.first.bytes
    ++ [s.roundByte, byteOf s.settings.degradeThreshold]

/-- The clear option (01:R22). -/
def State.clearFaults (s : State) : State :=
  { s with
    lines := { s.lines with
      lineA := { s.lines.lineA with flags := Flags.clear }
      lineB := { s.lines.lineB with flags := Flags.clear }
      first := { s.lines.first with valid := false } } }

def serveLineStatus (body : List Byte) (s : State) : State × Reply :=
  match flagAt body 0 with
  | none => refuse .badField s
  | some clear => (if clear then s.clearFaults else s, ⟨.ok, s.lineStatusContent⟩)

/-- LINE_STATUS (01:R22); it re-arms LINE_CHANGE. -/
def execLineStatus (tag : Byte) (body : List Byte) (s : State) : Host.Outcome State Fault Refusal :=
  .next (s.command 0x11 tag body.length (· == 1) (serveLineStatus body) [.lineChange])

end Sys2Proof.Machine
end

