-- ==== Sys2Proof/Machine/NodeCommands.lean ====
section
/-! DEFINITION. The node commands (02:R25 to R28, R41, 05:R108, 06:R129). -/

namespace Sys2Proof.Machine

open Sys2Proof

/-! ### ENROLL_NODE (02:R25) -/

/-- The checks of 02 Table 2.2 that read the node table; none where every check passes. -/
def State.enrolRefusal (s : State) (r : EnrolReq) : Option Status :=
  if (s.node? r.addr).isSome then some .wrongState
  else if s.nodes.any (fun n => n.enrol.point == r.enrol.point) then some .badField
  else
    match r.enrol.cls with
    | .suiteInner => if (r.enrol.entry.bind s.roomNode?).isSome then none else some .notFound
    | .minibar => if (r.enrol.entry.bind s.roomNode?).isSome then none else some .notFound
    | _ => none

def serveEnrollNode (body : List Byte) (s : State) : State × Reply :=
  match enrolAt body 0 with
  | none => refuse .badField s
  | some r =>
    match s.enrolRefusal r with
    | some st => refuse st s
    | none => (s.enrol r, .plain .ok)

/-- ENROLL_NODE. -/
def execEnrollNode (tag : Byte) (body : List Byte) (s : State) : Host.Outcome State Fault Refusal :=
  .next (s.command 0x14 tag body.length (· == 15) (serveEnrollNode body) [])

/-! ### WITHDRAW_NODE (02:R26) -/

/-- The enrolments of the other addresses. -/
def State.otherEnrolments (s : State) (a : Nat) : List Enrolment :=
  (s.nodes.filter (fun n => n.addr != a)).map (·.enrol)

def serveWithdrawNode (body : List Byte) (s : State) : State × Reply :=
  if ¬ addressOk (byteAt body 0) then refuse .badField s
  else
    match s.node? (byteAt body 0) with
    | none => refuse .notFound s
    | some n =>
      if s.withdrawRefused n (s.otherEnrolments n.addr) then refuse .wrongState s else (s.withdraw n, .plain .ok)

/-- WITHDRAW_NODE. -/
def execWithdrawNode (tag : Byte) (body : List Byte) (s : State) : Host.Outcome State Fault Refusal :=
  .next (s.command 0x15 tag body.length (· == 1) (serveWithdrawNode body) [])

/-! ### SET_NODE (02:R27, R28) -/

/-- The field parts a SET_NODE carries, applied. -/
def State.setParts (r : SetNodeReq) (n : Node) (s : State) : State :=
  s.setNodeFields n.addr (r.oos.getD n.enrol.oos) (r.hours.getD n.enrol.hours)

/-- The action of a SET_NODE, for the state the node held when the command was taken. -/
def State.setAction (action : Option NodeAction) (n : Node) (s : State) : State :=
  match action with
  | none => s
  | some .disable => if n.st = .disabled then s else s.disableNode n.addr
  | some .enable => s.enableNode n.addr

def serveSetNode (body : List Byte) (s : State) : State × Reply :=
  match setNodeReq body with
  | none => refuse .badField s
  | some r =>
    match s.node? r.addr with
    | none => refuse .notFound s
    | some n =>
      if ¬ r.hours.all (fun h => h.all Hours.wellFormed) then refuse .badField s
      else if r.action = some .enable ∧ n.st ≠ .disabled then refuse .wrongState s
      else ((s.setParts r n).setAction r.action n, .plain .ok)

/-- A SET_NODE frame. -/
def State.setNodeFrame (tag : Byte) (body : List Byte) (s : State) : State :=
  s.command 0x16 tag body.length (· == 11) (serveSetNode body) []

/-- SET_NODE (02:R27): the whole body. -/
def execSetNode (tag : Byte) (body : List Byte) (s : State) : Host.Outcome State Fault Refusal :=
  .next (s.setNodeFrame tag body)

/-- SET_NODE_DISABLE (02:R28): the body less its action part, which is DISABLE (log 15 DESIGN CHOICE). -/
def execSetNodeDisable (tag : Byte) (head : List Byte) (s : State) : Host.Outcome State Fault Refusal :=
  .next (s.setNodeFrame tag (head ++ [1, 0]))

/-- SET_NODE_ENABLE (02:R28): the body less its action part, which is ENABLE (log 15 DESIGN CHOICE). -/
def execSetNodeEnable (tag : Byte) (head : List Byte) (s : State) : Host.Outcome State Fault Refusal :=
  .next (s.setNodeFrame tag (head ++ [1, 1]))

/-! ### NODE_STATUS (02:R41, 10 Table 10.16) -/

/-- The entry of an enrolled node, 40 bytes. The bytes of an absent presentation number and
of absent status bits are zero (log 40 DESIGN CHOICE). -/
def State.nodeEntry (s : State) (n : Node) : List Byte :=
  [byteOf n.addr, 1] ++ n.enrol.bytes
    ++ [byteOf n.st.code, byteOf n.joins, byteOf n.good, byteOf n.missed, byteOf n.silent, flagByte n.lastPres.isSome]
    ++ optByte n.lastPres ++ [flagByte n.status.isSome, (n.status.map bitsOfStatus).getD 0, byteOf n.fallback.code]
    ++ le16 (u16OfInt n.clock.d) ++ le16 n.clock.s ++ [byteOf n.clock.samples, flagByte n.clock.suspect]
    ++ le16 n.clock.grace ++ le32 (s.effectiveGen n) ++ [byteOf n.reload.code, flagByte n.upload.isSome]

/-- The entry of an address. -/
def State.addressEntry (s : State) (a : Nat) : List Byte :=
  match s.node? a with
  | some n => s.nodeEntry n
  | none => byteOf a :: List.replicate 39 0

def serveNodeStatus (body : List Byte) (s : State) : State × Reply :=
  let first := byteAt body 0
  let last := byteAt body 1
  if ¬ addressOk first ∨ ¬ addressOk last ∨ last < first ∨ 16 < last - first + 1 then refuse .badField s
  else
    (s, ⟨.ok, byteOf (last - first + 1)
      :: ((List.range (last - first + 1)).map (fun i => s.addressEntry (first + i))).flatten⟩)

/-- NODE_STATUS; it re-arms NODE_CHANGE. -/
def execNodeStatus (tag : Byte) (body : List Byte) (s : State) : Host.Outcome State Fault Refusal :=
  .next (s.command 0x17 tag body.length (· == 2) (serveNodeStatus body) [.nodeChange])

/-! ### RELOAD_NODE (05:R108) -/

def serveReloadNode (body : List Byte) (s : State) : State × Reply :=
  if ¬ addressOk (byteAt body 0) then refuse .badField s
  else
    match s.node? (byteAt body 0) with
    | none => refuse .notFound s
    | some n => (s.markReload n.addr, .plain .ok)

/-- RELOAD_NODE. -/
def execReloadNode (tag : Byte) (body : List Byte) (s : State) : Host.Outcome State Fault Refusal :=
  .next (s.command 0x18 tag body.length (· == 1) (serveReloadNode body) [])

/-! ### OPEN_POINT (06:R129, 01:R12) -/

def serveOpenPoint (body : List Byte) (s : State) : State × Reply :=
  if ¬ addressOk (byteAt body 0) then refuse .badField s
  else
    match s.node? (byteAt body 0) with
    | none => refuse .notFound s
    | some n =>
      if ¬ n.st.answering then refuse .wrongState s
      else if s.lines.urgent.any (Urgent.isRemoteOpen n.addr) then (s, .plain .ok)
      else if 32 ≤ s.lines.urgent.length then refuse .busy s
      else (s.pushUrgent (.remoteOpen n.addr), .plain .ok)

/-- OPEN_POINT. -/
def execOpenPoint (tag : Byte) (body : List Byte) (s : State) : Host.Outcome State Fault Refusal :=
  .next (s.command 0x30 tag body.length (· == 1) (serveOpenPoint body) [])

end Sys2Proof.Machine
end

