-- ==== Sys2Proof/Machine/CardCommands.lean ====
section
/-! DEFINITION. The card commands (04): issue, confirm, cancel, suspend, resume, status and purge, and the revocations of
05:R96 and R97. -/

namespace Sys2Proof.Machine

open Sys2Proof

/-- The room record of an enrolled ROOM_ENTRY node. -/
def State.roomOf? (s : State) (point : Nat) : Option Room := if (s.roomNode? point).isSome then s.room? point else none

/-! ### ISSUE_CARD (04:R68 to R71) -/

/-- 400 days (04:R69). -/
def fourHundredDays : Nat := 34560000

/-- The effective end of a window (04:R69). -/
def IssueReq.effectiveEnd (r : IssueReq) : Nat := min r.validEnd (r.validStart + fourHundredDays)

/-- The room a guest issue names: absent for another kind, an error where no ROOM_ENTRY node is enrolled (04:R68). -/
def State.issueRoom (s : State) (r : IssueReq) : Except Status (Option Room) :=
  match r.entry with
  | none => .ok none
  | some p => match s.roomOf? p with | some room => .ok (some room) | none => .error .notFound

/-- The checks of 04 Table 4.4 in order, less the last. -/
def State.issueRefusal (s : State) (r : IssueReq) (room : Option Room) : Option Status :=
  if ¬ s.time.isSet then some .timeUnset
  else if r.validEnd ≤ r.validStart ∨ r.effectiveEnd ≤ s.now then some .windowInvalid
  else if room.any (fun m => (s.pendingIssue? m.point).isSome) then some .issuePending
  else if r.mode = some .addCard ∧ room.any (fun m => m.stay < m.floor) then some .noStay
  else if r.mode = some .newStay ∧ room.any (fun m => m.stay == 65535) then some .sequenceExhausted
  else if r.schedule.any (fun h => h.start == h.stop) then some .badField
  else none

/-- The GUEST fields of an issue (04:R71). -/
def IssueReq.guestPart (r : IssueReq) (room : Option Room) : Option GuestPart :=
  match room, r.mode with
  | some m, some .newStay => some ⟨m.point, m.stay + 1, .newStay⟩
  | some m, some .addCard => some ⟨m.point, m.stay, .addCard⟩
  | _, _ => none

/-- The record an issue writes in a slot, its check code computed under a key (04:R71). -/
def IssueReq.record (r : IssueReq) (room : Option Room) (slot now lapse : Nat) (key : List Byte) : Cred :=
  let c : Cred :=
    { number := slot, st := .encoding (now + lapse), kind := r.kind, serial := r.serial, guest := r.guestPart room
      image1 := r.image1, image2 := r.image2, validStart := r.validStart, validEnd := r.effectiveEnd
      schedule := r.schedule, code := 0, issuedAt := now, firstUse := none, uses := 0 }
  { c with code := checkCode key c.body }

/-- The CARD_ISSUED record (04:R71). -/
def issuedEntry (c : Cred) : Entry :=
  { kind := .cardIssued, point := c.guest.map (·.entry), cred := some c.number, serial := some c.serial,
    detail1 := some (.credKind c.kind) }

/-- An accepted ISSUE_CARD (04:R70, R71). -/
def State.issue (r : IssueReq) (room : Option Room) (slot : Nat) (s : State) : State × Reply :=
  let c := r.record room slot s.now s.settings.encodingLapse s.settings.currentKey
  ((s.takeSlot.putCred c).append (issuedEntry c),
    ⟨if r.validStart + fourHundredDays < r.validEnd then .clamped else .ok, le16 slot ++ c.image⟩)

def serveIssueCard (body : List Byte) (s : State) : State × Reply :=
  match issueReq body with
  | none => refuse .badField s
  | some r =>
    match s.issueRoom r with
    | .error st => refuse st s
    | .ok room =>
      match s.issueRefusal r room with
      | some st => refuse st s
      | none =>
        match s.slot? with
        | none => refuse .noSlot s
        | some k => s.issue r room k

/-- ISSUE_CARD. -/
def execIssueCard (tag : Byte) (body : List Byte) (s : State) : Host.Outcome State Fault Refusal :=
  .next (s.command 0x20 tag body.length (· == 33) (serveIssueCard body) [])

/-! ### Commands that name a credential -/

/-- A command on a credential number: BAD_FIELD above 767, WRONG_STATE where the record is VACANT. -/
def State.onCred (body : List Byte) (f : Cred → State → State × Reply) (s : State) : State × Reply :=
  if 767 < u16At body 0 then refuse .badField s
  else
    match s.cred? (u16At body 0) with
    | none => refuse .wrongState s
    | some c => f c s

/-- The journal entry of a command on a credential. -/
def Cred.entry (c : Cred) (kind : RecKind) : Entry := { kind := kind, cred := some c.number, serial := some c.serial }

def State.setCredState (k : Nat) (st : CredState) (s : State) : State := s.modCred k (fun c => { c with st := st })

/-! ### CONFIRM_CARD (04:R75, R76) -/

/-- The other credentials in ISSUED, ACTIVE or SUSPENDED that hold a serial, in ascending number. -/
def State.holdersBut (s : State) (k serial : Nat) : List Nat :=
  (s.store.recs.filter (fun c => c.number != k && c.st.current && c.serial == serial)).map Cred.number

/-- The list entry holding a serial removed, if there is one (05:R98). -/
def State.removeSerial (serial : Nat) (s : State) : State :=
  match s.entry? serial with
  | some e => s.removeEntry e
  | none => s

/-- Step 5 of 04:R75 and 04:R76: a NEW_STAY advances the stay and reopens the folio. -/
def State.confirmStay (c : Cred) (s : State) : State :=
  match c.guest with
  | some g =>
    match g.mode with
    | .newStay => (s.advanceStay g.entry).reopenFolio g.entry
    | .addCard => s
  | none => s

/-- An accepted CONFIRM_CARD. -/
def State.confirm (c : Cred) (s : State) : State :=
  let t := (s.setCredState c.number .issued).append (c.entry .cardConfirmed)
  ((t.revokeAll (t.holdersBut c.number c.serial) .recycled).removeSerial c.serial).confirmStay c

def serveConfirm (c : Cred) (s : State) : State × Reply :=
  if c.st.isEncoding then (s.confirm c, .plain .ok) else refuse .wrongState s

/-- CONFIRM_CARD. -/
def execConfirmCard (tag : Byte) (body : List Byte) (s : State) : Host.Outcome State Fault Refusal :=
  .next (s.command 0x21 tag body.length (· == 2) (State.onCred body serveConfirm) [])

/-! ### CANCEL_ISSUE (04:R77) -/

def serveCancel (c : Cred) (s : State) : State × Reply :=
  if c.st.isEncoding then (s.returnEncoding c.number .cancelled, .plain .ok) else refuse .wrongState s

/-- CANCEL_ISSUE. -/
def execCancelIssue (tag : Byte) (body : List Byte) (s : State) : Host.Outcome State Fault Refusal :=
  .next (s.command 0x22 tag body.length (· == 2) (State.onCred body serveCancel) [])

/-! ### SUSPEND_CARD and RESUME_CARD (04:R80, R81) -/

/-- A suspension, for the state before it: with the list full after 05:R94, LIST_FULL (log 19 DEDUCED). -/
def State.suspend (c : Cred) (wasActive : Bool) (s : State) : State × Reply :=
  let t := s.askRoom
  if t.listHasRoom then
    (((t.pushEntry c.serial (some c.number) .suspended c.validEnd).setCredState c.number
        (.suspended wasActive s.now)).append (c.entry .cardSuspended), .plain .ok)
  else refuse .listFull t

def serveSuspend (c : Cred) (s : State) : State × Reply :=
  match c.st with
  | .issued => s.suspend c false
  | .active => s.suspend c true
  | _ => refuse .wrongState s

/-- SUSPEND_CARD. -/
def execSuspendCard (tag : Byte) (body : List Byte) (s : State) : Host.Outcome State Fault Refusal :=
  .next (s.command 0x23 tag body.length (· == 2) (State.onCred body serveSuspend) [])

/-- The state before suspension. -/
def stateBefore (wasActive : Bool) : CredState := if wasActive then .active else .issued

def serveResume (c : Cred) (s : State) : State × Reply :=
  match c.st with
  | .suspended wasActive _ =>
    (((s.setCredState c.number (stateBefore wasActive)).removeSerial c.serial).append (c.entry .cardResumed), .plain .ok)
  | _ => refuse .wrongState s

/-- RESUME_CARD. -/
def execResumeCard (tag : Byte) (body : List Byte) (s : State) : Host.Outcome State Fault Refusal :=
  .next (s.command 0x24 tag body.length (· == 2) (State.onCred body serveResume) [])

/-! ### REVOKE_CARD and REVOKE_SERIAL (05:R96, R97) -/

/-- The rekey count raised (11:R199). -/
def State.countRekey (s : State) : State := { s with revoc := { s.revoc with rekeys := satAdd 65535 s.revoc.rekeys 1 } }

/-- 05:R96, the list full: a guest card is revoked by a rekey of its room. A card whose stay is not below the new floor,
in a room re-enrolled after a start, stays current and the reply is REKEYED all the same (log 42 DESIGN CHOICE). -/
def State.revokeByRekey (c : Cred) (s : State) : State × Reply :=
  match c.kind, c.guest with
  | .guest, some g =>
    match s.roomOf? g.entry with
    | none => refuse .listFull s
    | some room =>
      if room.stay = 65535 then refuse .sequenceExhausted s else ((s.rekey g.entry).countRekey, .plain .rekeyed)
  | _, _ => refuse .listFull s

/-- 05:R96, an ISSUED or ACTIVE credential. -/
def State.revokeCurrent (c : Cred) (s : State) : State × Reply :=
  if c.validEnd ≤ s.now then (s.revoke c.number .revokedByDesk, .plain .ok)
  else
    let t := s.askRoom
    if t.listHasRoom then
      ((t.revoke c.number .revokedByDesk).pushEntry c.serial (some c.number) .revoked c.validEnd, .plain .ok)
    else t.revokeByRekey c

def serveRevoke (c : Cred) (s : State) : State × Reply :=
  match c.st with
  | .suspended _ _ => (s.revoke c.number .revokedByDesk, .plain .ok)
  | .issued => s.revokeCurrent c
  | .active => s.revokeCurrent c
  | _ => refuse .wrongState s

/-- REVOKE_CARD. -/
def execRevokeCard (tag : Byte) (body : List Byte) (s : State) : Host.Outcome State Fault Refusal :=
  .next (s.command 0x25 tag body.length (· == 2) (State.onCred body serveRevoke) [])

/-- The credential in ISSUED, ACTIVE or SUSPENDED that holds a serial. -/
def State.holder? (s : State) (serial : Nat) : Option Cred :=
  s.store.recs.find? (fun c => c.st.current && c.serial == serial)

/-- An entry's retire_at raised to a later moment (05:R97 case 2). -/
def State.extendEntry (serial t : Nat) (s : State) : State :=
  s.setEntries (s.revoc.entries.map (fun e => if e.serial = serial then { e with retireAt := max e.retireAt t } else e))

def serveRevokeSerial (body : List Byte) (s : State) : State × Reply :=
  let serial := u32At body 0
  match s.holder? serial with
  | some c => serveRevoke c s
  | none =>
    match s.entry? serial with
    | some _ => (s.extendEntry serial (s.now + fourHundredDays), .plain .ok)
    | none =>
      let t := s.askRoom
      if t.listHasRoom then (t.pushEntry serial none .foreign (s.now + fourHundredDays), .plain .ok)
      else refuse .listFull t

/-- REVOKE_SERIAL. -/
def execRevokeSerial (tag : Byte) (body : List Byte) (s : State) : Host.Outcome State Fault Refusal :=
  .next (s.command 0x26 tag body.length (· == 4) (serveRevokeSerial body) [])

/-! ### CARD_STATUS (04:R85, 10 Table 10.16) -/

/-- The lapse time of a record. -/
def CredState.lapse : CredState → Option Nat
  | .encoding t => some t
  | _ => none

/-- The code of the state before suspension. -/
def CredState.before : CredState → Option Nat
  | .suspended a _ => some (stateBefore a).code
  | _ => none

def CredState.suspendedAt : CredState → Option Nat
  | .suspended _ t => some t
  | _ => none

def CredState.revReason : CredState → Option Nat
  | .revoked _ r => some r.code
  | _ => none

/-- An optional four-byte field with its presence byte. -/
def presLe32 (o : Option Nat) : List Byte := flagByte o.isSome :: optLe32 o

/-- An optional one-byte field with its presence byte. -/
def presByte (o : Option Nat) : List Byte := flagByte o.isSome :: optByte o

/-- The entry of a record that is not VACANT (04:R85). The bytes of an absent field are zero (log 40 DESIGN CHOICE). -/
def Cred.statusBytes (c : Cred) : List Byte :=
  le16 c.number ++ [byteOf c.st.code] ++ c.image ++ presByte (c.guest.map (fun g => g.mode.code)) ++ le32 c.issuedAt
    ++ presLe32 c.st.lapse ++ presByte c.st.before ++ presLe32 c.st.suspendedAt ++ presLe32 c.st.retiredAt
    ++ presByte c.st.revReason ++ presLe32 c.firstUse ++ le16 c.uses

/-- The entry of a VACANT slot. -/
def vacantBytes (k : Nat) : List Byte := le16 k ++ [0] ++ List.replicate 68 0

/-- The number of live credentials. -/
def State.liveCount (s : State) : Nat := (s.store.recs.filter (fun c => c.st.live)).length

/-- The three lengths that every CARD_STATUS reply carries. -/
def State.slotCounts (s : State) : List Byte :=
  le16 s.store.free.length ++ le16 s.store.retired.length ++ le16 s.liveCount

def serveCardStatus (body : List Byte) (s : State) : State × Reply :=
  match cardQuery body with
  | none => refuse .badField s
  | some (.number k) =>
    (s, ⟨.ok, (match s.cred? k with | some c => c.statusBytes | none => vacantBytes k) ++ s.slotCounts⟩)
  | some (.serial x) =>
    match s.holder? x with
    | some c => (s, ⟨.ok, c.statusBytes ++ s.slotCounts⟩)
    | none => refuse .notFound s

/-- CARD_STATUS. -/
def execCardStatus (tag : Byte) (body : List Byte) (s : State) : Host.Outcome State Fault Refusal :=
  .next (s.command 0x27 tag body.length (· == 8) (serveCardStatus body) [])

/-! ### PURGE_RETIRED (04:R84) -/

/-- The slots at the head of the retired order that a purge of an age takes. -/
def State.purgeable (s : State) (age : Nat) : List Nat :=
  s.store.retired.takeWhile (fun k => s.retiredAt k + age < s.now)

def servePurge (body : List Byte) (s : State) : State × Reply :=
  let ks := s.purgeable (u32At body 0)
  (ks.foldl (fun t k => t.purgeHead k) s, ⟨.ok, le16 ks.length⟩)

/-- PURGE_RETIRED. -/
def execPurgeRetired (tag : Byte) (body : List Byte) (s : State) : Host.Outcome State Fault Refusal :=
  .next (s.command 0x28 tag body.length (· == 4) (servePurge body) [])

end Sys2Proof.Machine
end

