-- ==== Sys2Proof/Machine/RoomCommands.lean ====
section
/-! DEFINITION. The room commands (05:R90 to R92): REKEY_ROOM, CHECKOUT and RESEQUENCE. -/

namespace Sys2Proof.Machine

open Sys2Proof

/-- A command on an entry point: BAD_FIELD above 4095, NOT_FOUND where it is no enrolled ROOM_ENTRY point. -/
def State.onRoom (body : List Byte) (f : Room → State → State × Reply) (s : State) : State × Reply :=
  if 4095 < u16At body 0 then refuse .badField s
  else
    match s.roomOf? (u16At body 0) with
    | none => refuse .notFound s
    | some room => f room s

/-- The stay sequence and floor of a room, as the two room commands reply with them. -/
def State.stayAndFloor (s : State) (point : Nat) : List Byte :=
  le16 (((s.room? point).map (·.stay)).getD 0) ++ le16 (((s.room? point).map (·.floor)).getD 0)

/-! ### REKEY_ROOM (05:R90) -/

def serveRekey (room : Room) (s : State) : State × Reply :=
  if ¬ room.hasStay then refuse .noStay s
  else if room.stay = 65535 then refuse .sequenceExhausted s
  else
    let t := s.rekey room.point
    (t, ⟨.ok, t.stayAndFloor room.point⟩)

/-- REKEY_ROOM. -/
def execRekeyRoom (tag : Byte) (body : List Byte) (s : State) : Host.Outcome State Fault Refusal :=
  .next (s.command 0x2C tag body.length (· == 2) (State.onRoom body serveRekey) [])

/-! ### CHECKOUT (05:R91) -/

/-- Steps 1 and 2 of 05:R91. -/
def State.endStay (room : Room) (s : State) : State :=
  let t := s.cancelPending room.point .checkout
  if room.stay < 65535 then t.setFloor room.point (room.stay + 1) .superseded else t.resetRoom room.point

/-- An accepted CHECKOUT. -/
def State.checkout (room : Room) (s : State) : State :=
  let t := (s.endStay room).checkoutFolio room.point
  t.append { kind := .stayCheckout, point := some room.point, amount := some (t.balanceOf room.point) }

def serveCheckout (room : Room) (s : State) : State × Reply :=
  if ¬ room.hasStay then refuse .noStay s
  else
    let t := s.checkout room
    (t, ⟨.ok, le32 (t.balanceOf room.point) ++ t.stayAndFloor room.point⟩)

/-- CHECKOUT. -/
def execCheckout (tag : Byte) (body : List Byte) (s : State) : Host.Outcome State Fault Refusal :=
  .next (s.command 0x2D tag body.length (· == 2) (State.onRoom body serveCheckout) [])

/-! ### RESEQUENCE (05:R92) -/

/-- An accepted RESEQUENCE. -/
def State.resequence (room : Room) (s : State) : State :=
  ((s.cancelPending room.point .resequence).resetRoom room.point).append
    { kind := .roomRekeyed, point := some room.point, value1 := some 0, value2 := some 1 }

def serveResequence (room : Room) (s : State) : State × Reply := (s.resequence room, .plain .ok)

/-- RESEQUENCE. -/
def execResequence (tag : Byte) (body : List Byte) (s : State) : Host.Outcome State Fault Refusal :=
  .next (s.command 0x2E tag body.length (· == 2) (State.onRoom body serveResequence) [])

end Sys2Proof.Machine
end

