-- ==== Sys2Proof/Machine/MinibarCommands.lean ====
section
/-! DEFINITION. The minibar and folio commands (08:R147, R163 to R165). -/

namespace Sys2Proof.Machine

open Sys2Proof

/-! ### SET_COMPARTMENT (08:R147) -/

/-- The compartment a command carries, its stock at most the capacity. -/
def compartmentAt (b : List Byte) : Compartment :=
  ⟨u16At b 2, u32At b 4, byteAt b 8, min (byteAt b 8) (byteAt b 9)⟩

/-- Compartment `c` of a node replaced, COMPARTMENT_SET latched. -/
def Node.setComp (c : Nat) (k : Compartment) (n : Node) : Node := { n with comps := n.comps.set (c - 1) k, latchComp := true }

def serveSetCompartment (body : List Byte) (s : State) : State × Reply :=
  if ¬ addressOk (byteAt body 0) ∨ 65535 < u32At body 4 ∨ byteAt body 8 < 1 ∨ 15 < byteAt body 8 then refuse .badField s
  else
    match s.node? (byteAt body 0) with
    | none => refuse .notFound s
    | some n =>
      if ¬ n.takesComp (byteAt body 1) then refuse .badField s
      else if (s.lineFor? n.addr (byteAt body 1)).isSome then refuse .wrongState s
      else
        (s.modNode n.addr (Node.setComp (byteAt body 1) (compartmentAt body)),
          .plain (if byteAt body 8 < byteAt body 9 then .clamped else .ok))

/-- SET_COMPARTMENT. -/
def execSetCompartment (tag : Byte) (body : List Byte) (s : State) : Host.Outcome State Fault Refusal :=
  .next (s.command 0x34 tag body.length (· == 10) (serveSetCompartment body) [])

/-! ### Folio commands -/

/-- A command on a folio: BAD_FIELD above 4095, NOT_FOUND where no folio exists for the entry point. -/
def State.onFolio (body : List Byte) (f : Folio → State → State × Reply) (s : State) : State × Reply :=
  if 4095 < u16At body 0 then refuse .badField s
  else
    match s.folio? (u16At body 0) with
    | none => refuse .notFound s
    | some x => f x s

/-- The limit of a balance and of a ceiling, in cents (08 Table 8.4). -/
def folioLimit : Nat := 9999999

def serveSetCeiling (v : Nat) (f : Folio) (s : State) : State × Reply :=
  if ¬ f.isOpen then refuse .wrongState s
  else
    ((s.modFolio f.point (fun g => { g with ceiling := min folioLimit v })).judgeHeld f.point f.held,
      .plain (if folioLimit < v then .clamped else .ok))

/-- SET_CEILING (08:R163). -/
def execSetCeiling (tag : Byte) (body : List Byte) (s : State) : Host.Outcome State Fault Refusal :=
  .next (s.command 0x35 tag body.length (· == 6) (State.onFolio body (serveSetCeiling (u32At body 2))) [])

def serveSettle (v : Nat) (f : Folio) (s : State) : State × Reply :=
  ((s.modFolio f.point (fun g => { g with balance := f.balance - v })).append
      { kind := .folioSettled, point := some f.point, amount := some (min v f.balance) },
    ⟨if f.balance < v then .clamped else .ok, le32 (f.balance - v)⟩)

/-- An amount above its limit is refused before the folio is sought (08:R164). -/
def serveSettleBody (body : List Byte) (s : State) : State × Reply :=
  if folioLimit < u32At body 2 then refuse .badField s else s.onFolio body (serveSettle (u32At body 2))

/-- SETTLE (08:R164). -/
def execSettle (tag : Byte) (body : List Byte) (s : State) : Host.Outcome State Fault Refusal :=
  .next (s.command 0x36 tag body.length (· == 6) (serveSettleBody body) [])

/-! ### FOLIO_STATUS (08:R165, 10 Table 10.16) -/

/-- A pending line in a FOLIO_STATUS reply, 13 bytes. -/
def ChargeLine.bytes (l : ChargeLine) : List Byte :=
  [byteOf l.node, byteOf l.comp] ++ le16 l.item ++ [byteOf l.count] ++ le32 l.amount ++ le32 l.deadline

/-- A minibar in a FOLIO_STATUS reply, 9 bytes. The bytes of an absent session are zero (log 40 DESIGN CHOICE). -/
def Node.minibarBytes (n : Node) : List Byte :=
  [byteOf n.addr, flagByte n.session.isSome] ++ optByte (n.session.map (fun x => x.mode.code))
    ++ optLe16 (n.session.map (·.cred)) ++ optLe32 (n.session.map (·.openedAt))

/-- The MINIBAR nodes of a folio, in ascending address. -/
def State.minibarsOf (s : State) (point : Nat) : List Node :=
  s.nodes.filter (fun n => n.enrol.cls == .minibar && n.enrol.entry == some point)

/-- The pending lines of a folio, in pool order. -/
def State.linesOf (s : State) (point : Nat) : List ChargeLine := s.minibar.pool.filter (fun l => l.folio == point)

/-- The content of a FOLIO_STATUS reply (08:R165). The bytes of an absent opened_at are zero (log 40 DESIGN CHOICE). -/
def State.folioContent (s : State) (f : Folio) : List Byte :=
  [flagByte f.isOpen] ++ le32 f.balance ++ le32 f.ceiling ++ le32 f.pendingTotal ++ presLe32 f.openedAt
    ++ [flagByte f.held, byteOf (s.linesOf f.point).length] ++ (s.linesOf f.point).flatMap ChargeLine.bytes
    ++ [byteOf (s.minibarsOf f.point).length] ++ ((s.minibarsOf f.point).take 16).flatMap Node.minibarBytes

def serveFolioStatus (f : Folio) (s : State) : State × Reply := (s, ⟨.ok, s.folioContent f⟩)

/-- FOLIO_STATUS. -/
def execFolioStatus (tag : Byte) (body : List Byte) (s : State) : Host.Outcome State Fault Refusal :=
  .next (s.command 0x37 tag body.length (· == 2) (State.onFolio body serveFolioStatus) [])

end Sys2Proof.Machine
end

