-- ==== Sys2Proof/Machine/JournalCommands.lean ====
section
/-! DEFINITION. The journal commands (09:R173 to R175): READ_JOURNAL and ACK_JOURNAL. -/

namespace Sys2Proof.Machine

open Sys2Proof

/-- Where a sequence number stands against the records held (09:R173); HELD gives its place from the oldest. -/
inductive Place where
  | next
  | held (index : Nat)
  | behind
  | ahead
  deriving DecidableEq, Repr

/-- 09:R173. -/
def Journal.locate (j : Journal) (x : Nat) : Place :=
  let k := sub32 j.next x
  if k = 0 then .next
  else if k ≤ j.recs.length then .held (j.recs.length - k)
  else if k ≤ 2147483648 then .behind
  else .ahead

/-! ### READ_JOURNAL (09:R175) -/

/-- The records a reading returns, and SKIPPED. -/
def Journal.reading (j : Journal) (x max : Nat) : List Rec × Bool :=
  match j.locate x with
  | .held i => ((j.recs.drop i).take max, false)
  | .behind => (j.recs.take max, true)
  | .next => ([], false)
  | .ahead => ([], false)

/-- The oldest sequence number held; with no record held a free value (log 18 DESIGN CHOICE). -/
def Journal.oldestSeq (j : Journal) : List Byte :=
  match j.recs with
  | r :: _ => le32 r.seq
  | [] => le32 Config.oldestSeqUnheld.toNat

def Journal.readContent (j : Journal) (x max : Nat) : List Byte :=
  [flagByte (j.reading x max).2] ++ j.oldestSeq ++ le32 j.next ++ le16 j.acked ++ le16 j.unacked
    ++ [byteOf (j.reading x max).1.length] ++ (j.reading x max).1.flatMap Rec.bytes

def serveReadJournal (body : List Byte) (s : State) : State × Reply :=
  if byteAt body 4 < 1 ∨ 16 < byteAt body 4 then refuse .badField s
  else (s, ⟨.ok, s.journal.readContent (u32At body 0) (byteAt body 4)⟩)

/-- READ_JOURNAL; it re-arms JOURNAL_WAITING and ALARM. -/
def execReadJournal (tag : Byte) (body : List Byte) (s : State) : Host.Outcome State Fault Refusal :=
  .next (s.command 0x3A tag body.length (· == 5) (serveReadJournal body) [.journalWaiting, .alarm])

/-! ### ACK_JOURNAL (09:R174) -/

/-- The acknowledged count after an acknowledgement, and the reply's status. -/
def Journal.acknowledged (j : Journal) (x : Nat) : Nat × Status :=
  match j.locate x with
  | .held i => (max j.acked (i + 1), .ok)
  | .behind => (j.acked, .ok)
  | .next => if j.recs = [] then (j.acked, .ok) else (j.recs.length, .clamped)
  | .ahead => if j.recs = [] then (j.acked, .ok) else (j.recs.length, .clamped)

def State.ackJournal (x : Nat) (s : State) : State :=
  { s with journal := { s.journal with acked := (s.journal.acknowledged x).1 } }

def Journal.ackContent (j : Journal) : List Byte := le16 j.acked ++ le16 j.unacked ++ le16 j.freeSpace ++ le32 j.next

/-- The permits judged at an acknowledgement, in ascending address (07:R134, 09:R172). -/
def State.judgePermits (s : State) : State := s.forEach s.addrs State.judgePermit

def serveAckJournal (body : List Byte) (s : State) : State × Reply :=
  let x := u32At body 0
  let t := s.ackJournal x
  (t.judgePermits, ⟨(s.journal.acknowledged x).2, t.journal.ackContent⟩)

/-- ACK_JOURNAL. -/
def execAckJournal (tag : Byte) (body : List Byte) (s : State) : Host.Outcome State Fault Refusal :=
  .next (s.command 0x3B tag body.length (· == 4) (serveAckJournal body) [])

end Sys2Proof.Machine
end

