-- ==== Sys2Proof/Machine/Dispatch.lean ====
section
/-! DEFINITION. The dispatch of commands to their meanings: one arm per constructor of Instr. -/

namespace Sys2Proof.Machine

open Sys2Proof

def exec (i : Instr) (s : State) : Host.Outcome State Fault Refusal :=
  match i with
  | .ping tag body => Sys2Proof.Machine.execPing tag body s
  | .getStatus tag body => Sys2Proof.Machine.execGetStatus tag body s
  | .loadSettings tag body => Sys2Proof.Machine.execLoadSettings tag body s
  | .readSettings tag body => Sys2Proof.Machine.execReadSettings tag body s
  | .storeSettings tag body => Sys2Proof.Machine.execStoreSettings tag body s
  | .restart tag body => Sys2Proof.Machine.execRestart tag body s
  | .setTime tag body => Sys2Proof.Machine.execSetTime tag body s
  | .lineRetrain tag body => Sys2Proof.Machine.execLineRetrain tag body s
  | .lineDisable tag head => Sys2Proof.Machine.execLineDisable tag head s
  | .lineEnable tag head => Sys2Proof.Machine.execLineEnable tag head s
  | .lineStatus tag body => Sys2Proof.Machine.execLineStatus tag body s
  | .enrollNode tag body => Sys2Proof.Machine.execEnrollNode tag body s
  | .withdrawNode tag body => Sys2Proof.Machine.execWithdrawNode tag body s
  | .setNode tag body => Sys2Proof.Machine.execSetNode tag body s
  | .setNodeDisable tag head => Sys2Proof.Machine.execSetNodeDisable tag head s
  | .setNodeEnable tag head => Sys2Proof.Machine.execSetNodeEnable tag head s
  | .nodeStatus tag body => Sys2Proof.Machine.execNodeStatus tag body s
  | .reloadNode tag body => Sys2Proof.Machine.execReloadNode tag body s
  | .issueCard tag body => Sys2Proof.Machine.execIssueCard tag body s
  | .confirmCard tag body => Sys2Proof.Machine.execConfirmCard tag body s
  | .cancelIssue tag body => Sys2Proof.Machine.execCancelIssue tag body s
  | .suspendCard tag body => Sys2Proof.Machine.execSuspendCard tag body s
  | .resumeCard tag body => Sys2Proof.Machine.execResumeCard tag body s
  | .revokeCard tag body => Sys2Proof.Machine.execRevokeCard tag body s
  | .revokeSerial tag body => Sys2Proof.Machine.execRevokeSerial tag body s
  | .cardStatus tag body => Sys2Proof.Machine.execCardStatus tag body s
  | .purgeRetired tag body => Sys2Proof.Machine.execPurgeRetired tag body s
  | .rekeyRoom tag body => Sys2Proof.Machine.execRekeyRoom tag body s
  | .checkout tag body => Sys2Proof.Machine.execCheckout tag body s
  | .resequence tag body => Sys2Proof.Machine.execResequence tag body s
  | .openPoint tag body => Sys2Proof.Machine.execOpenPoint tag body s
  | .setCompartment tag body => Sys2Proof.Machine.execSetCompartment tag body s
  | .setCeiling tag body => Sys2Proof.Machine.execSetCeiling tag body s
  | .settle tag body => Sys2Proof.Machine.execSettle tag body s
  | .folioStatus tag body => Sys2Proof.Machine.execFolioStatus tag body s
  | .readJournal tag body => Sys2Proof.Machine.execReadJournal tag body s
  | .ackJournal tag body => Sys2Proof.Machine.execAckJournal tag body s
  | .unknownCommand kind tag body => Sys2Proof.Machine.execUnknownCommand kind tag body s
  | .linkRejectCrc bytes => Sys2Proof.Machine.execLinkRejectCrc bytes s
  | .linkRejectOversize bytes => Sys2Proof.Machine.execLinkRejectOversize bytes s
  | .linkRejectTimeout bytes => Sys2Proof.Machine.execLinkRejectTimeout bytes s
  | .linkRejectOverlap kind tag => Sys2Proof.Machine.execLinkRejectOverlap kind tag s
  | .frameSent => Sys2Proof.Machine.execFrameSent s
  | .supplyLoss => Sys2Proof.Machine.execSupplyLoss s
  | .supplyRestore => Sys2Proof.Machine.execSupplyRestore s
  | .cellLow => Sys2Proof.Machine.execCellLow s
  | .cellOk => Sys2Proof.Machine.execCellOk s
  | .resetPinLow => Sys2Proof.Machine.execResetPinLow s
  | .resetPinRelease => Sys2Proof.Machine.execResetPinRelease s
  | .loadComplete bank1 bank2 => Sys2Proof.Machine.execLoadComplete bank1 bank2 s
  | .storeComplete readBack => Sys2Proof.Machine.execStoreComplete readBack s
  | .secondEvent => Sys2Proof.Machine.execSecondEvent s
  | .encodingLapse cred => Sys2Proof.Machine.execEncodingLapse cred s
  | .chargeDeadline node comp => Sys2Proof.Machine.execChargeDeadline node comp s
  | .minuteSweep => Sys2Proof.Machine.execMinuteSweep s
  | .roundStart => Sys2Proof.Machine.execRoundStart s
  | .trainingEnd line => Sys2Proof.Machine.execTrainingEnd line s
  | .tallyPeriodEnd => Sys2Proof.Machine.execTallyPeriodEnd s
  | .decisionAgeOut node number => Sys2Proof.Machine.execDecisionAgeOut node number s
  | .stallRewind node => Sys2Proof.Machine.execStallRewind node s
  | .reloadWaitExpiry node => Sys2Proof.Machine.execReloadWaitExpiry node s
  | .spanFailed node => Sys2Proof.Machine.execSpanFailed node s
  | .windowClose node copyA copyB first => Sys2Proof.Machine.execWindowClose node copyA copyB first s
  | .invitationClose copyA copyB => Sys2Proof.Machine.execInvitationClose copyA copyB s

end Sys2Proof.Machine
end

