-- ==== Sys2Proof/Machine/Step.lean ====
section
/-! DEFINITION. One step: the command at the front of the queue, or one wing tick when none waits (log 8 DESIGN CHOICE). -/

namespace Sys2Proof.Machine

open Sys2Proof

/-- The state with another queue of waiting commands. -/
def State.withPending (q : List Instr) (s : State) : State := { s with pending := q }

/-- One step. -/
def step (s : State) : Host.Outcome State Fault Refusal :=
  match s.pending with
  | [] => .next s.tickOnce
  | c :: rest => exec c (s.withPending rest)

/-- The command a table word spells put at the front of the queue; no row of the table gives bits, so no word spells
one. -/
def State.withFetchWord (s : State) (nbits w : Nat) : State :=
  match decodeTableWord nbits w with
  | some c => s.withPending (c :: s.pending)
  | none => s

end Sys2Proof.Machine
end

