-- ==== Sys2Proof/Safety.lean ====
section
/-! DEFINITION. The terms that claims are stated in: when a command is taken, what notices may change of the port, and the
laws of the spec that every step keeps. -/

namespace Sys2Proof.Machine

open Sys2Proof

/-- The part is RUNNING and no command is in service: the next good frame is taken and served (10:R183, R185). -/
def State.takes (s : State) : Prop := s.part = .running ∧ s.port.service = none

/-- The port of `q` differs from `p` at most in what notices made ready change: the frames and the arming flags. -/
def Port.noticesOnly (p q : Port) : Prop := q = { p with sending := q.sending, waiting := q.waiting, arm := q.arm }

/-! ### The journal's law (09:R170, R172) -/

/-- The sequence numbers of the records held rise by one, modulo 2^32, up to the one before `next`. -/
def numbered (next : Nat) : List Rec → Prop
  | [] => True
  | r :: rs => r.seq < 4294967296 ∧ sub32 next r.seq = rs.length + 1 ∧ numbered next rs

/-- At most 2,048 records, the acknowledged count within them, their numbers consecutive. -/
structure Journal.Law (j : Journal) : Prop where
  size : j.recs.length ≤ 2048
  acked : j.acked ≤ j.recs.length
  next : j.next < 4294967296
  numbers : numbered j.next j.recs

/-! ### The capacities of the collections (01:R12, R16, R5, 02:R24, R25, 05:R93, R101, 06:R126, 08:R156, 10:R184, 11:R197) -/

/-- The node table, the compartments of a node, the queues, lists, pools and buffers lie within their capacities. The
table's addresses rise within 1..96. -/
structure State.Capacities (s : State) : Prop where
  ascending : s.nodes.Pairwise (fun m n => m.addr < n.addr)
  addresses : ∀ n ∈ s.nodes, 1 ≤ n.addr ∧ n.addr ≤ 96
  compartments : ∀ n ∈ s.nodes, n.comps.length ≤ 8
  urgent : s.lines.urgent.length ≤ 32
  repeats : s.lines.repeats.length ≤ 8
  segment : ∀ r, s.lines.round = some r → r.segment.length ≤ 8
  list : s.revoc.entries.length ≤ 256
  changes : s.revoc.changes.length ≤ 512
  pool : s.minibar.pool.length ≤ 64
  memory : ∀ n ∈ s.nodes, n.memory.length ≤ 2
  rejects : (s.port.waiting.filter OutFrame.isReject).length ≤ 4
  staging : s.loader.staging.length ≤ 4096

/-! ### Lines, rounds and nodes (01:R4, R21, 02:R24, R35) -/

/-- A line is OFF exactly outside RUNNING, no round runs there, no node answers without a line in service, and a round
holds its answer windows in ascending address. -/
structure State.ServiceLaw (s : State) : Prop where
  ascending : s.nodes.Pairwise (fun m n => m.addr < n.addr)
  runs : s.part = .running → s.lines.lineA.st ≠ .off ∧ s.lines.lineB.st ≠ .off
  stopped : s.part ≠ .running →
    s.lines.lineA.st = .off ∧ s.lines.lineB.st = .off ∧ s.lines.round = none ∧ s.lines.urgent = [] ∧ s.lines.repeats = []
  silent : s.service = false → ∀ n ∈ s.nodes, n.st.answering = false
  windows : ∀ r, s.lines.round = some r → r.windows.Pairwise (fun v w => v.addr < w.addr)

/-! ### Credential slots (04:R63, R64) -/

/-- A slot is VACANT exactly when it stands in the free list, and REVOKED or EXPIRED exactly when it stands in the retired
order, which is sorted by retired_at. -/
structure Store.Law (st : Store) : Prop where
  ascending : st.recs.Pairwise (fun c d => c.number < d.number)
  inRange : ∀ c ∈ st.recs, c.number ≤ 767
  freeOnce : st.free.Nodup
  freeInRange : ∀ k ∈ st.free, k ≤ 767
  vacant : ∀ k, k ≤ 767 → (k ∈ st.free ↔ ∀ c ∈ st.recs, c.number ≠ k)
  retiredOnce : st.retired.Nodup
  retired : ∀ k, k ∈ st.retired ↔ ∃ c ∈ st.recs, c.number = k ∧ c.st.retiredAt.isSome = true
  sorted : st.retired.Pairwise (fun j k =>
    ((findKey Cred.number j st.recs).bind (fun c => c.st.retiredAt)).getD 0
      ≤ ((findKey Cred.number k st.recs).bind (fun c => c.st.retiredAt)).getD 0)

/-- No card serial is held by two credentials in ISSUED, ACTIVE or SUSPENDED (04:R75). -/
def Store.SerialLaw (st : Store) : Prop :=
  ∀ c ∈ st.recs, ∀ d ∈ st.recs, c.st.current = true → d.st.current = true → c.serial = d.serial → c.number = d.number

/-! ### The revocation list (05:R93, R94) -/

/-- No serial is held by two list entries, and none by an entry and an ISSUED or ACTIVE credential (05:R93). -/
structure State.ListLaw (s : State) : Prop where
  once : s.revoc.entries.Pairwise (fun e f => e.serial ≠ f.serial)
  current : ∀ e ∈ s.revoc.entries, ∀ c ∈ s.store.recs, c.st = .issued ∨ c.st = .active → c.serial ≠ e.serial

/-- `t` holds what the removal of the list entries whose retire_at lies below `now` leaves of `s` (05:R94, R99): exactly
those are gone, each with its REMOVE change, in list order; of a node at most the reload changes, MARKED by 05:R102 or
R107. -/
structure EntriesRetired (now : Nat) (s t : State) : Prop where
  stands : (∀ e ∈ s.revoc.entries, now ≤ e.retireAt) → t.revoc = s.revoc ∧ t.nodes = s.nodes
  entries : s.revoc.entries.Pairwise (fun e f => e.serial ≠ f.serial) →
    t.revoc.entries = s.revoc.entries.filter (fun e => now ≤ e.retireAt)
  changes : s.revoc.entries.Pairwise (fun e f => e.serial ≠ f.serial) → s.revoc.changes.length ≤ 512 →
    let past := s.revoc.entries.filter (fun e => e.retireAt < now)
    let emitted := past.zipIdx.map (fun p =>
      Change.mk ((s.revoc.gen + p.2 + 1) % 4294967296) (.remove p.1.serial p.1.cred))
    t.revoc.changes = (s.revoc.changes ++ emitted).drop (s.revoc.changes.length + emitted.length - 512) ∧
      (past ≠ [] → t.revoc.gen = (s.revoc.gen + past.length) % 4294967296)
  rooms : t.revoc.rooms = s.revoc.rooms ∧ t.revoc.rekeys = s.revoc.rekeys
  nodes : t.addrs = s.addrs ∧
    ∀ a n, s.node? a = some n → ∃ r, t.node? a = some { n with reload := r } ∧ (r = n.reload ∨ r = .marked)

/-- `t` holds what the asking for room in the revocation list leaves of `s` (05:R94): a list below 256 entries stands as it
is; of a full one the past entries are removed. -/
structure RoomAsked (s t : State) : Prop where
  stands : s.revoc.entries.length < 256 → t = s
  full : 256 ≤ s.revoc.entries.length → EntriesRetired s.now s t
  rest : t = { s with nodes := t.nodes, revoc := t.revoc }

/-- `t` holds what the expiry sweep at `now` leaves of the slots of `s` (04:R83, R64): each ISSUED, ACTIVE or SUSPENDED
credential whose valid end lies below `now` is EXPIRED with retired_at equal to its valid end, every other slot and the free
list stand, and the expired enter the retired order by retired_at, behind those of an equal one, in ascending number. -/
structure CredsExpired (now : Nat) (s t : State) : Prop where
  taken : ∀ k c, s.cred? k = some c → c.st.current = true → c.validEnd < now →
    t.cred? k = some { c with st := .expired c.validEnd }
  others : ∀ k c, s.cred? k = some c → c.st.current = false ∨ now ≤ c.validEnd → t.cred? k = some c
  vacant : ∀ k, s.cred? k = none → t.cred? k = none
  free : t.store.free = s.store.free
  retired :
    let all := s.store.retired
      ++ (s.store.recs.filter (fun c => c.st.current && decide (c.validEnd < now))).map Cred.number
    t.store.retired.Perm all ∧ t.store.retired.Pairwise (fun j k =>
      t.retiredAt j < t.retiredAt k ∨ t.retiredAt j = t.retiredAt k ∧ all.idxOf j < all.idxOf k)

/-! ### Node clocks (03:R55, R57) -/

/-- The drift estimate, spread and grace per day lie in the ranges of 03 Table 3.4. -/
structure Clock.InRange (c : Clock) : Prop where
  drift : -2000 ≤ c.d ∧ c.d ≤ 2000
  spread : 2 ≤ c.s ∧ c.s ≤ 4000
  grace : 1 ≤ c.grace ∧ c.grace ≤ 600
  samples : c.samples ≤ 255
  failed : c.failed ≤ 255

/-- Every node's clock record is in range. -/
def State.ClockLaw (s : State) : Prop := ∀ n ∈ s.nodes, n.clock.InRange

/-! ### Rooms (05:R87) -/

/-- In every room record the floor is the stay sequence or the stay sequence + 1, and the history holds 1 to 4 items. -/
structure Revoc.RoomLaw (v : Revoc) : Prop where
  ascending : v.rooms.Pairwise (fun r t => r.point < t.point)
  floor : ∀ r ∈ v.rooms, r.floor = r.stay ∨ r.floor = r.stay + 1
  history : ∀ r ∈ v.rooms, 1 ≤ r.history.length ∧ r.history.length ≤ 4

/-! ### Settings images (11:R195) -/

/-- The values of the running settings lie in the ranges of 11 Table 11.2. -/
structure Settings.InRange (v : Settings) : Prop where
  roundLength : 4096 ≤ v.roundLength ∧ v.roundLength ≤ 16384
  degradeThreshold : 1 ≤ v.degradeThreshold ∧ v.degradeThreshold ≤ 64
  localOffset : -720 ≤ v.localOffset ∧ v.localOffset ≤ 840
  encodingLapse : 10 ≤ v.encodingLapse ∧ v.encodingLapse ≤ 600
  returnWindow : v.returnWindow ≤ 900
  defaultCeiling : v.defaultCeiling ≤ 9999999
  journalThreshold : 1 ≤ v.journalThreshold ∧ v.journalThreshold ≤ 2048
  currentKey : v.currentKey.length = 8
  previousKey : v.previousKey.length = 8

/-- The enrolments of the node table, in ascending address. -/
def State.enrolled (s : State) : List EnrolReq := s.nodes.map (fun n => ⟨n.addr, n.enrol⟩)

/-- The node table satisfies the checks of 02 Table 2.2 as a whole. -/
structure State.EnrolmentLaw (s : State) : Prop where
  ascending : s.nodes.Pairwise (fun m n => m.addr < n.addr)
  fields : ∀ r ∈ s.enrolled, r.fieldsOk = true
  whole : enrolmentOk s.enrolled = true

/-! ### Folios, charge lines and sessions (08:R145, R149, R156, R159) -/

/-- Pending totals are the sums of the lines that name the folio, balances keep their limit, every line and every GUEST
session names an OPEN folio, no two lines name one compartment, and a folio belongs to an enrolled ROOM_ENTRY node. -/
structure State.FolioLaw (s : State) : Prop where
  nodesAscending : s.nodes.Pairwise (fun m n => m.addr < n.addr)
  foliosAscending : s.minibar.folios.Pairwise (fun f g => f.point < g.point)
  copies : ∀ n ∈ s.nodes, n.copy = n.enrol.copy
  owners : ∀ f ∈ s.minibar.folios, ∃ n ∈ s.nodes, n.enrol.cls = .roomEntry ∧ n.enrol.point = f.point
  total : ∀ f ∈ s.minibar.folios, f.pendingTotal = ((s.linesOf f.point).map (·.amount)).sum
  balance : ∀ f ∈ s.minibar.folios, f.balance ≤ 9999999
  lines : ∀ l ∈ s.minibar.pool, ∃ f ∈ s.minibar.folios, f.point = l.folio ∧ f.isOpen = true
  once : s.minibar.pool.Pairwise (fun l m => ¬ (l.node = m.node ∧ l.comp = m.comp))
  sessions : ∀ n ∈ s.nodes, ∀ x, n.session = some x → x.mode = .guest →
    ∃ f ∈ s.minibar.folios, x.folio = some f.point ∧ f.isOpen = true

/-! ### The checkout of a folio (08:R158, R161, R162) -/

/-- A folio with lines committed to it in their order: the balance rises by each amount, stopping at 9,999,999, and the
pending total falls by it (08:R158). -/
def Folio.committed (due : List ChargeLine) (f : Folio) : Folio :=
  due.foldl (fun g l =>
    { g with balance := min 9999999 (g.balance + l.amount), pendingTotal := g.pendingTotal - l.amount }) f

/-- The lines that a checkout of folio `p` commits, in pool order: those that name it, where it is OPEN (08:R162). -/
def State.linesDue (s : State) (p : Nat) : List ChargeLine :=
  if (s.folio? p).any (·.isOpen) then s.minibar.pool.filter (fun l => l.folio == p) else []

/-- The MINIBAR_CHARGE records of some lines (08:R158 step 4). -/
def State.chargeRecords (s : State) (due : List ChargeLine) : List (Nat × Entry) :=
  due.map (fun l => (s.now,
    { kind := .minibarCharge, node := some l.node, point := s.pointOf l.node, amount := some l.amount,
      value1 := some l.comp, value2 := some l.count }))

/-- The final balance of a checkout of folio `p`: that of the folio with its lines committed (08:R162). -/
def State.finalBalance (s : State) (p : Nat) : Nat :=
  ((s.folio? p).map (fun f => (f.committed (s.linesDue p)).balance)).getD 0

/-- `u` holds the folios and charge lines that a checkout of folio `p` leaves of `s`: exactly the lines due are committed,
the folio is then changed as `g` says, and every other folio and line stands. -/
structure FolioCheckedOut (p : Nat) (g : Folio → Folio) (s u : State) : Prop where
  folio : u.folio? p = (s.folio? p).map (fun f => g (f.committed (s.linesDue p)))
  total : s.FolioLaw → ∀ f, u.folio? p = some f → f.pendingTotal = 0
  others : ∀ q, q ≠ p → u.folio? q = s.folio? q
  points : u.minibar.folios.map Folio.point = s.minibar.folios.map Folio.point
  none : (s.folio? p).any (·.isOpen) = true → ∀ l ∈ u.minibar.pool, l.folio ≠ p
  pool : s.minibar.pool.Pairwise (fun l m => ¬ (l.node = m.node ∧ l.comp = m.comp)) →
    u.minibar.pool = s.minibar.pool.filter (fun l => !((s.folio? p).any (·.isOpen) && l.folio == p))

/-- The STAY_CHECKOUT record that the reopening of folio `p` writes where it was still OPEN (08:R161). -/
def State.closingRecords (s : State) (p : Nat) : List (Nat × Entry) :=
  if (s.folio? p).any (·.isOpen) then
    [(s.now, { kind := .stayCheckout, point := some p, amount := some (s.finalBalance p) })]
  else []

/-- The FOLIO_HELD record that an event from `s` to `u` writes: folio `p` is OPEN with balance plus pending total at or above
its ceiling after it and was not so before it (08:R160; compared over the whole event, log 23 DEDUCED). -/
def State.heldRecords (s u : State) (p : Nat) : List (Nat × Entry) :=
  let held (f : Folio) : Bool := f.isOpen && decide (f.ceiling ≤ f.balance + f.pendingTotal)
  match u.folio? p with
  | some f =>
    if held f && !(s.folio? p).any held then
      [(s.now, { kind := .folioHeld, point := some p, node := (s.roomNode? p).map Node.addr,
                 amount := some (min 9999999 (f.balance + f.pendingTotal)) })]
    else []
  | none => []

/-! ### The guest cards that a room command ends (04:R65, R77, R79, 05:R88) -/

/-- The GUEST credential in ENCODING that names entry point `p`, if any; by 04:R69 there is at most one. -/
def State.encodingOf (s : State) (p : Nat) : List Cred :=
  (s.store.recs.filter (fun c => c.guestOf p && c.st.isEncoding)).take 1

/-- The GUEST credentials of entry point `p` in ISSUED, ACTIVE or SUSPENDED whose stay sequence passes a test, in
ascending number. -/
def State.guestsOf (s : State) (p : Nat) (test : Nat → Bool) : List Cred :=
  s.store.recs.filter (fun c => c.guestOf p && c.st.current && c.guest.any (fun g => test g.stay))

/-- The CARD_LAPSED records of some credentials (04:R77). -/
def State.lapsedRecords (s : State) (cs : List Cred) (cause : LapseCause) : List (Nat × Entry) :=
  cs.map (fun c => (s.now,
    { kind := .cardLapsed, cred := some c.number, serial := some c.serial, detail1 := some (.cause cause) }))

/-- The CARD_REVOKED records of some credentials (04:R65). -/
def State.revokedRecords (s : State) (cs : List Cred) (r : RevReason) : List (Nat × Entry) :=
  cs.map (fun c => (s.now,
    { kind := .cardRevoked, cred := some c.number, serial := some c.serial, detail1 := some (.revReason r) }))

/-- `u` holds the credentials that a room command leaves of `s`: the encoding of entry point `p` is VACANT at the tail of
the free list, exactly the guest cards of `p` that pass the test are REVOKED for the reason, every other stands. -/
structure GuestsEnded (p : Nat) (test : Nat → Bool) (r : RevReason) (s u : State) : Prop where
  creds : ∀ k, u.cred? k = (s.cred? k).bind (fun c => if c ∈ s.encodingOf p then none
    else some (if c ∈ s.guestsOf p test then { c with st := .revoked s.now r } else c))
  free : u.store.free = s.store.free ++ (s.encodingOf p).map Cred.number

/-- `u` tells the nodes of a new floor of entry point `p` (05:R88, R92): with none of some revoked cards SUSPENDED, whose
list entries would take a new form, one FLOOR change is emitted and the list stands. -/
def FloorTold (p v : Nat) (revoked : List Cred) (s u : State) : Prop :=
  (∀ c ∈ revoked, ∀ w t, c.st ≠ .suspended w t) →
    u.revoc.gen = (s.revoc.gen + 1) % 4294967296 ∧ u.revoc.entries = s.revoc.entries ∧
    u.revoc.changes.getLast? = some ⟨u.revoc.gen, .floor p v⟩

/-! ### Host commands as frames (10 Table 10.7) -/

/-- The frame kind, tag and body length of a row that is a host command; none for the other rows. -/
def frameOf : Instr → Option (Byte × Byte × Nat)
  | .ping tag body => some (0x01, tag, body.length)
  | .getStatus tag body => some (0x02, tag, body.length)
  | .loadSettings tag body => some (0x03, tag, body.length)
  | .readSettings tag body => some (0x04, tag, body.length)
  | .storeSettings tag body => some (0x05, tag, body.length)
  | .restart tag body => some (0x06, tag, body.length)
  | .setTime tag body => some (0x08, tag, body.length)
  | .lineRetrain tag body => some (0x10, tag, body.length)
  | .lineDisable tag head => some (0x10, tag, head.length + 1)
  | .lineEnable tag head => some (0x10, tag, head.length + 1)
  | .lineStatus tag body => some (0x11, tag, body.length)
  | .enrollNode tag body => some (0x14, tag, body.length)
  | .withdrawNode tag body => some (0x15, tag, body.length)
  | .setNode tag body => some (0x16, tag, body.length)
  | .setNodeDisable tag head => some (0x16, tag, head.length + 2)
  | .setNodeEnable tag head => some (0x16, tag, head.length + 2)
  | .nodeStatus tag body => some (0x17, tag, body.length)
  | .reloadNode tag body => some (0x18, tag, body.length)
  | .issueCard tag body => some (0x20, tag, body.length)
  | .confirmCard tag body => some (0x21, tag, body.length)
  | .cancelIssue tag body => some (0x22, tag, body.length)
  | .suspendCard tag body => some (0x23, tag, body.length)
  | .resumeCard tag body => some (0x24, tag, body.length)
  | .revokeCard tag body => some (0x25, tag, body.length)
  | .revokeSerial tag body => some (0x26, tag, body.length)
  | .cardStatus tag body => some (0x27, tag, body.length)
  | .purgeRetired tag body => some (0x28, tag, body.length)
  | .rekeyRoom tag body => some (0x2C, tag, body.length)
  | .checkout tag body => some (0x2D, tag, body.length)
  | .resequence tag body => some (0x2E, tag, body.length)
  | .openPoint tag body => some (0x30, tag, body.length)
  | .setCompartment tag body => some (0x34, tag, body.length)
  | .setCeiling tag body => some (0x35, tag, body.length)
  | .settle tag body => some (0x36, tag, body.length)
  | .folioStatus tag body => some (0x37, tag, body.length)
  | .readJournal tag body => some (0x3A, tag, body.length)
  | .ackJournal tag body => some (0x3B, tag, body.length)
  | .unknownCommand _ _ _ => none
  | .linkRejectCrc _ => none
  | .linkRejectOversize _ => none
  | .linkRejectTimeout _ => none
  | .linkRejectOverlap _ _ => none
  | .frameSent => none
  | .supplyLoss => none
  | .supplyRestore => none
  | .cellLow => none
  | .cellOk => none
  | .resetPinLow => none
  | .resetPinRelease => none
  | .loadComplete _ _ => none
  | .storeComplete _ => none
  | .secondEvent => none
  | .encodingLapse _ => none
  | .chargeDeadline _ _ => none
  | .minuteSweep => none
  | .roundStart => none
  | .trainingEnd _ => none
  | .tallyPeriodEnd => none
  | .decisionAgeOut _ _ => none
  | .stallRewind _ => none
  | .reloadWaitExpiry _ => none
  | .spanFailed _ => none
  | .windowClose _ _ _ _ => none
  | .invitationClose _ _ => none

/-- The body lengths of 10 Table 10.7, least and greatest, by kind code. -/
def bodyLengths : List (Byte × Nat × Nat) :=
  [(0x01, 0, 16), (0x02, 0, 0), (0x03, 4, 1024), (0x04, 4, 4), (0x05, 0, 0), (0x06, 0, 0), (0x08, 4, 4), (0x10, 2, 2),
   (0x11, 1, 1), (0x14, 15, 15), (0x15, 1, 1), (0x16, 11, 11), (0x17, 2, 2), (0x18, 1, 1), (0x20, 33, 33), (0x21, 2, 2),
   (0x22, 2, 2), (0x23, 2, 2), (0x24, 2, 2), (0x25, 2, 2), (0x26, 4, 4), (0x27, 8, 8), (0x28, 4, 4), (0x2C, 2, 2),
   (0x2D, 2, 2), (0x2E, 2, 2), (0x30, 1, 1), (0x34, 10, 10), (0x35, 6, 6), (0x36, 6, 6), (0x37, 2, 2), (0x3A, 5, 5),
   (0x3B, 4, 4)]

/-- A body length that 10 Table 10.7 gives a kind. -/
def bodyLengthOk (kind : Byte) (len : Nat) : Bool :=
  bodyLengths.any (fun r => r.1 == kind && r.2.1 ≤ len && len ≤ r.2.2)

/-- The commands that ask the revocation list for room: the removals of 05:R94 stand whether they are refused or not
(log 19 DEDUCED). -/
def asksForRoom (i : Instr) : Bool :=
  match frameOf i with
  | some (0x23, _, _) => true
  | some (0x25, _, _) => true
  | some (0x26, _, _) => true
  | _ => false

/-- The outgoing frames of a port that have not been sent whole, in order. -/
def Port.frames (p : Port) : List OutFrame := p.sending.toList ++ p.waiting

/-- A journal with records appended at their wing seconds, in order. -/
def Journal.pushAll (es : List (Nat × Entry)) (j : Journal) : Journal := es.foldl (fun t e => t.push e.1 e.2) j

/-! ### Outgoing frames (10:R183, R187) -/

/-- A frame waits only behind one in sending, and exactly one reply waits or is sent while a command is in service. -/
structure Port.Law (p : Port) : Prop where
  idle : p.sending = none → p.waiting = []
  reply : (p.frames.filter OutFrame.isReply).length = if p.service.isSome then 1 else 0

/-! ### The items of an answer (07:R137) -/

/-- The item is an OFFLINE_RECORD. -/
def isOfflineRecord : Item → Bool
  | .offlineRecord _ => true
  | _ => false

/-! ### The discard of volatile state (11:R192) -/

/-- `t` holds what the discard of the volatile state leaves of `s`: the retention domain and the timebase. The fields of the
first-fault record with valid clear are the model's (log 4 DESIGN CHOICE). -/
structure VolatileGone (s t : State) : Prop where
  lines : t.lines = LineEngine.initial
  inviter : t.inviter = ⟨96, false⟩
  time : t.time = { s.time with mark := none, begun := false }
  store : t.store = s.store
  minibar : t.minibar = s.minibar
  revoc : t.revoc = { s.revoc with rekeys := 0 }
  port : t.port = { s.port with rx := .hunting, silence := 0, service := none, sending := none, waiting := [],
                                arm := ⟨true, true, true, true⟩ }
  staging : t.loader.staging = []
  inFlight : t.loader.store = none
  lastStore : t.loader.lastStore = if s.loader.store.isSome then .failed else s.loader.lastStore
  addrs : t.addrs = s.addrs
  gone : ∀ n ∈ t.nodes, n.st = .absent ∧ n.joins = 16 ∧ n.good = 0 ∧ n.missed = 0 ∧ n.silent = 0 ∧ n.lastPres = none
    ∧ n.status = none ∧ n.memory = [] ∧ n.upload = none ∧ n.received = 0 ∧ n.permit = .none ∧ n.latchFallback = false
    ∧ n.latchPermit = false ∧ n.latchComp = false ∧ n.reload.underWay = false
  kept : ∀ n ∈ s.nodes, ∃ m ∈ t.nodes, m.addr = n.addr ∧ m.copy = n.copy ∧ m.fallback = n.fallback ∧ m.comps = n.comps
    ∧ m.session = n.session ∧ m.cursor = ⟨n.cursor.acked, n.cursor.acked, 0⟩ ∧ m.clock = { n.clock with span := none }
    ∧ m.reload = (if n.reload.underWay then .marked else n.reload)

/-! ### A miss and an invitation unanswered (02:R31, R33) -/

/-- The node that a miss of its answer window leaves, with `free` places free in the journal: the state rule of 02:R33
with what leaving and entering a state do (02:R29, 05:R108, 07:R133, 08:R150), then the close of its permit (07:R136). -/
def Node.afterMiss (free : Nat) (n : Node) : Node :=
  let left : Node :=
    let m := if n.upload.isSome then { n with upload := none, received := 0, permit := .none } else n
    { m with reload := match n.reload with | .sending _ _ => .marked | .awaiting _ _ => .marked | r => r }
  let absent (m : Node) : Node :=
    { m with st := .absent, joins := 16, good := 0, missed := 0, lastPres := none, session := none }
  let closed (m : Node) : Node :=
    let close : Node := if m.upload.isSome ∧ 64 ≤ free then { m with permit := .latched, latchPermit := true }
      else { m with permit := .none }
    match m.permit with
    | .placed _ => close
    | .opened _ => close
    | _ => m
  match n.st with
  | .probation => closed (if n.missed + 1 < 3 then { n with good := 0, missed := n.missed + 1 } else absent left)
  | .online => closed (if n.missed + 1 < 6 then { n with good := 0, missed := n.missed + 1 }
      else { left with st := .silent, good := 0, missed := 0, silent := 0 })
  | .silent => closed (if n.silent + 1 < 64 then { n with silent := n.silent + 1 } else { absent n with silent := 0 })
  | .absent => n
  | .dormant => n
  | .disabled => n

/-- The node that an unanswered invitation leaves (02:R31). -/
def Node.afterUnanswered (n : Node) : Node :=
  match n.st with
  | .absent => if n.joins ≤ 1 then { n with joins := n.joins - 1, st := .dormant, session := none }
      else { n with joins := n.joins - 1 }
  | _ => n

/-! ### Deliveries to a node's cache (05:R103 to R105, R109) -/

/-- 05:R103: a change or list entry naming this credential number, or NONE, is relevant to the node. -/
def State.Concerns (s : State) (cred : Option Nat) (n : Node) : Prop :=
  ∀ k, cred = some k → ∃ c, s.cred? k = some c ∧ (c.kind = .emergency ∨
    c.image1.covers n.enrol.point n.enrol.cls = true ∨ ∃ i, c.image2 = some i ∧ i.covers n.enrol.point n.enrol.cls = true)

/-- 05:R103, R104: the change is relevant to the node, and no ADD while the node is RESTRICTED. -/
def State.Delivers (s : State) (c : Change) (n : Node) : Prop :=
  match c.body with
  | .add _ cred => n.fallback ≠ .restricted ∧ s.Concerns cred n
  | .remove _ cred => s.Concerns cred n
  | .floor point _ => n.enrol.entry = some point

/-- 05:R104: the change is deliverable to the node and lies above acked_upto. -/
def State.Unacked (s : State) (n : Node) (c : Change) : Prop :=
  s.Delivers c n ∧ genBelow n.cursor.acked c.gen = true

/-- 05:R109 step 3: the list entry is one that the reload of snapshot `g` has still to place, `p` placed so far. -/
def State.Reloads (s : State) (n : Node) (g : Nat) (p : ReloadProgress) (e : ListEntry) : Prop :=
  (∀ l, p.last = some l → genBelow l e.gen = true) ∧ genBelow g e.gen = false ∧ s.Concerns e.cred n

/-- 05:R105: CHANGE of the oldest deliverable change above sent_upto, with fewer than 4 outstanding, linked to the
deliverable change before it above acked_upto or to acked_upto. -/
def State.NextChange (s : State) (n : Node) (d : Directive) (cursor : Cursor) : Prop :=
  (∀ l : List Change, l.Sublist s.revoc.changes → (∀ c ∈ l, s.Unacked n c ∧ genBelow n.cursor.sent c.gen = false) →
    l.length < 4) ∧
  ∃ (before : List Change) (c : Change) (after : List Change) (link : Nat), s.revoc.changes = before ++ c :: after ∧
    s.Unacked n c ∧ genBelow n.cursor.sent c.gen = true ∧
    (∀ b ∈ before, s.Unacked n b → genBelow n.cursor.sent b.gen = false) ∧
    (link = n.cursor.acked ∧ (∀ b ∈ before, ¬ s.Unacked n b) ∨
      ∃ (older : List Change) (b : Change) (newer : List Change), before = older ++ b :: newer ∧ s.Unacked n b ∧
        (∀ x ∈ newer, ¬ s.Unacked n x) ∧ link = b.gen) ∧
    d = .change n.addr c.gen (match c.body with
      | .add serial _ => .add serial
      | .remove serial _ => .remove serial
      | .floor _ v => .floor v) link ∧
    cursor = { n.cursor with sent := c.gen }

/-- 05:R109 from step 2 on: the floor of the node's room where its record exists, then the list entries in list order, at
most 256, then RELOAD_END with the number of RELOAD_ITEM directives placed. -/
def State.NextReload (s : State) (n : Node) (g : Nat) (p : ReloadProgress) (d : Directive) (reload : Reload) : Prop :=
  let floor (f : Nat) : Prop := p.floorDone = false ∧
    ∃ point room, n.enrol.entry = some point ∧ s.room? point = some room ∧ room.floor = f
  (∃ f, floor f ∧ d = .reloadFloor n.addr f ∧ reload = .sending g { p with floorDone := true, count := p.count + 1 }) ∨
  (∀ f, ¬ floor f) ∧
    ((p.entries < 256 ∧ ∃ (before : List ListEntry) (e : ListEntry) (after : List ListEntry),
        s.revoc.entries = before ++ e :: after ∧ s.Reloads n g p e ∧ (∀ b ∈ before, ¬ s.Reloads n g p b) ∧
        d = .reloadSerial n.addr e.serial ∧ reload = .sending g
          { floorDone := true, last := some e.gen, entries := p.entries + 1, count := p.count + 1 }) ∨
      ((256 ≤ p.entries ∨ ∀ e ∈ s.revoc.entries, ¬ s.Reloads n g p e) ∧
        d = .reloadEnd n.addr g p.count ∧ reload = .awaiting g 0))

/-- The item that the revocation unit offers a node next, with the node's cursor and reload state once it is placed. -/
def State.NextItem (s : State) (n : Node) (d : Directive) (cursor : Cursor) (reload : Reload) : Prop :=
  match n.reload with
  | .none => s.NextChange n d cursor ∧ reload = .none
  | .marked => d = .reloadBegin n.addr s.revoc.gen ∧ cursor = { n.cursor with stall := 0 } ∧
      reload = .sending s.revoc.gen { floorDone := false, last := none, entries := 0, count := 0 }
  | .sending g p => s.NextReload n g p d reload ∧ cursor = n.cursor
  | .awaiting _ _ => False

/-! ### The change journal and the node caches (05:R102 to R104, R107) -/

/-- 05:R104: `g` is the node's effective generation: that of the oldest deliverable change above acked_upto, less 1, or
the current generation where there is none. -/
def State.Effective (s : State) (n : Node) (g : Nat) : Prop :=
  (∃ (before : List Change) (c : Change) (after : List Change), s.revoc.changes = before ++ c :: after ∧
    s.Unacked n c ∧ (∀ b ∈ before, ¬ s.Unacked n b) ∧ g = (c.gen + 4294967295) % 4294967296) ∨
  (∀ c ∈ s.revoc.changes, ¬ s.Unacked n c) ∧ g = s.revoc.gen

/-- 05:R103: `k` is the cache count R(node): the list entries relevant to the node, and the REMOVE changes deliverable to
it above acked_upto. -/
def State.Caches (s : State) (n : Node) (k : Nat) : Prop :=
  ∃ (held : ListEntry → Bool) (gone : Change → Bool),
    (∀ e ∈ s.revoc.entries, held e = true ↔ s.Concerns e.cred n) ∧
    (∀ c ∈ s.revoc.changes, gone c = true ↔ s.Unacked n c ∧ ∃ serial cred, c.body = .remove serial cred) ∧
    k = (s.revoc.entries.filter held).length + (s.revoc.changes.filter gone).length

/-- 05:R102: the drop of the generation `dropped` marks the node's reload or restarts it. -/
def State.DropMarks (s : State) (dropped : Nat) (n : Node) : Prop :=
  n.st ≠ .disabled ∧ match n.reload with
    | .none => ∃ g, s.Effective n g ∧ genBelow g dropped = true
    | .marked => False
    | .sending g _ => genBelow g dropped = true
    | .awaiting g _ => genBelow g dropped = true

/-- The node table of `u` is that of `s`, node by node, but for what changes emitted and list entries added, removed or
reformed do to caches (a reload MARKED by 05:R102, R107 or R108; the mode RESTRICTED with FALLBACK_PARAMS latched by
05:R107), and for the sessions that `ended` says have ended. -/
def CachesTouched (ended : Node → Bool) (s u : State) : Prop :=
  List.Forall₂ (fun n m : Node =>
    (m.reload = n.reload ∨ m.reload = .marked) ∧
    (m.fallback = n.fallback ∧ m.latchFallback = n.latchFallback ∨ m.fallback = .restricted ∧ m.latchFallback = true) ∧
    m = { n with reload := m.reload, fallback := m.fallback, latchFallback := m.latchFallback
                 session := if ended n then none else n.session }) s.nodes u.nodes

/-! ### Byte layouts of replies (10 Tables 10.11 to 10.13 and 10.16) -/

/-- Fields one after another, each given by its size in bytes and its value, low byte first. -/
def fields (l : List (Nat × Nat)) : List Byte :=
  l.flatMap (fun f => (List.range f.1).map (fun i => BitVec.ofNat 8 (f.2 / 256 ^ i)))

/-- Bits put in one number, bit 0 first. -/
def bitField (bs : List Bool) : Nat := (bs.zipIdx.map (fun p => p.1.toNat * 2 ^ p.2)).sum

/-- An optional field of a size behind its presence byte, zero where it is absent. -/
def optional (size : Nat) (o : Option Nat) : List (Nat × Nat) := [(1, o.isSome.toNat), (size, o.getD 0)]

/-- A point class as 10 Table 10.11 numbers it. -/
def numberOfClass (c : PointClass) : Nat := [PointClass.roomEntry, .suiteInner, .minibar, .amenityGate, .service].idxOf c

/-- A node state as 10 Table 10.11 numbers it. -/
def numberOfNodeState (st : NodeState) : Nat :=
  [NodeState.absent, .dormant, .probation, .online, .silent, .disabled].idxOf st

/-- A line as 10 Table 10.11 numbers it. -/
def numberOfLine (l : LineId) : Nat := [LineId.a, .b].idxOf l

/-- A line state as 10 Table 10.11 numbers it. -/
def numberOfLineState (st : LineState) : Nat := [LineState.off, .training, .up, .degraded, .disabled].idxOf st

/-- A credential kind as 10 Table 10.11 numbers it. -/
def numberOfKind (k : CredKind) : Nat := [CredKind.guest, .staff, .maintenance, .emergency].idxOf k

/-- A revocation reason as 10 Table 10.11 numbers it. -/
def numberOfRevReason (r : RevReason) : Nat := [RevReason.revokedByDesk, .recycled, .superseded, .rekeyed].idxOf r

/-- One line of a LINE_STATUS reply (10 Table 10.16). -/
def lineFields (l : Line) : List (Nat × Nat) :=
  [(1, numberOfLineState l.st), (1, l.retrain), (2, l.running), (2, l.tally),
   (1, bitField [l.flags.validSeen, l.flags.syntaxSeen, l.flags.overrun, l.flags.content, l.flags.extra])]

/-- The first-fault record of a LINE_STATUS reply (10 Table 10.16). -/
def firstFaultFields (f : FirstFault) : List (Nat × Nat) :=
  [(1, f.valid.toNat), (1, numberOfLine f.line), (1, f.round), (1, f.node),
   (1, [FaultKind.extra, .overrun, .syntaxFault, .content, .noAnswer].idxOf f.kind),
   (1, [FaultClass.correctable, .uncorrectable].idxOf f.cls), (4, f.secs)]

/-- The entry of an enrolled address in a NODE_STATUS reply, 40 bytes (10 Tables 10.15 and 10.16), `g` its effective
generation. The bytes of an absent presentation number and of absent status bits are zero (log 40 DESIGN CHOICE). -/
def nodeFields (g : Nat) (n : Node) : List (Nat × Nat) :=
  [(1, n.addr), (1, 1), (2, n.enrol.point), (1, numberOfClass n.enrol.cls)] ++ optional 2 n.enrol.entry
    ++ [(1, n.enrol.hours.isSome.toNat), (2, (n.enrol.hours.map (·.start)).getD 0),
        (2, (n.enrol.hours.map (·.stop)).getD 0), (1, n.enrol.oos.toNat)] ++ optional 1 n.enrol.comps
    ++ [(1, numberOfNodeState n.st), (1, n.joins), (1, n.good), (1, n.missed), (1, n.silent)] ++ optional 1 n.lastPres
    ++ optional 1 (n.status.map (fun b => bitField [b.isOpen, b.privacy, b.batteryLow, b.fallbackActive, b.cacheLost]))
    ++ [(1, [FallbackMode.full, .restricted].idxOf n.fallback), (2, (n.clock.d % 65536).toNat), (2, n.clock.s),
        (1, n.clock.samples), (1, n.clock.suspect.toNat), (2, n.clock.grace), (4, g),
        (1, match n.reload with | .none => 0 | .marked => 1 | .sending _ _ => 2 | .awaiting _ _ => 3),
        (1, n.upload.isSome.toNat)]

/-- An access image (10 Table 10.12). -/
def imageFields (i : Image) : List (Nat × Nat) := [(2, i.base), (1, i.span), (1, i.mask.toNat)]

/-- The card body, offsets 0 to 31 of 10 Table 10.12. -/
def cardFields (c : Cred) : List (Nat × Nat) :=
  [(2, c.number), (4, c.serial), (1, numberOfKind c.kind), (1, bitField [c.image2.isSome, c.schedule.isSome]),
   (2, (c.guest.map (·.entry)).getD 0), (2, (c.guest.map (·.stay)).getD 0)] ++ imageFields c.image1
    ++ imageFields (c.image2.getD ⟨0, 0, 0⟩)
    ++ [(4, c.validStart), (4, c.validEnd), (2, (c.schedule.map (·.start)).getD 0), (2, (c.schedule.map (·.stop)).getD 0)]

/-- The entry of a slot that is not VACANT in a CARD_STATUS reply, 71 bytes (10 Table 10.16). The bytes of an absent field
are zero (log 40 DESIGN CHOICE). -/
def credFields (c : Cred) : List (Nat × Nat) :=
  [(2, c.number), (1, match c.st with
    | .encoding _ => 1 | .issued => 2 | .active => 3 | .suspended _ _ => 4 | .revoked _ _ => 5 | .expired _ => 6)]
    ++ cardFields c ++ [(4, c.code)]
    ++ optional 1 (c.guest.map (fun g => [StayMode.newStay, .addCard].idxOf g.mode)) ++ [(4, c.issuedAt)]
    ++ optional 4 (match c.st with | .encoding lapse => some lapse | _ => none)
    ++ optional 1 (match c.st with | .suspended wasActive _ => some (if wasActive then 3 else 2) | _ => none)
    ++ optional 4 (match c.st with | .suspended _ at_ => some at_ | _ => none)
    ++ optional 4 (match c.st with | .revoked at_ _ => some at_ | .expired at_ => some at_ | _ => none)
    ++ optional 1 (match c.st with | .revoked _ r => some (numberOfRevReason r) | _ => none)
    ++ optional 4 c.firstUse ++ [(2, c.uses)]

/-- A named value of a record's detail as 10 Table 10.11 numbers it. -/
def numberOfDetail : Detail → Nat
  | .credKind k => numberOfKind k
  | .cause c => [LapseCause.cancelled, .lapsed, .checkout, .rekeyRoom, .resequence].idxOf c
  | .revReason r => numberOfRevReason r
  | .nodeState st => numberOfNodeState st
  | .withdrawn => 6
  | .line l => numberOfLine l
  | .lineState st => numberOfLineState st
  | .restartCommand => 0
  | .resetPin => 1

/-- The record kinds in the order of 09 Table 9.2. -/
def recKinds : List RecKind :=
  [.admission, .decisionLate, .localAdmit, .offlineAdmit, .forcedOpen, .heldOpen, .remoteOpen, .minibarCharge,
   .stockAnomaly, .returnAfterCommit, .unattendedRemoval, .cardIssued, .cardConfirmed, .cardLapsed, .cardRevoked,
   .cardSuspended, .cardResumed, .stayCheckout, .roomRekeyed, .folioHeld, .folioSettled, .nodeState, .lineState,
   .timeStep, .supplyRestored, .restarted, .coldStart]

/-- The reasons in the order of 10 Table 10.11: NONE, then the deny reasons in stage order (06 Table 6.1). -/
def reasons : List Reason :=
  [.none, .unknownCard, .checkFailed, .notConfirmed, .suspended, .revoked, .expired, .notYetValid, .superseded,
   .outsideSchedule, .noAccess, .outOfService, .afterHours, .privacy, .noFolio, .creditHeld]

/-- A journal record as READ_JOURNAL returns it, 42 bytes (10 Table 10.13). -/
def recFields (r : Rec) : List (Nat × Nat) :=
  let e := r.entry
  let uncertainty : Option Nat := match e.quality with | .reconstructed u => some u | _ => none
  [(4, r.seq), (4, r.secs), (1, recKinds.idxOf e.kind + 1),
   (1, match e.quality with | .exact => 0 | .reconstructed _ => 1 | .unreliable => 2),
   (1, [Mark.none, .conflict, .ambiguous].idxOf e.mark),
   (2, bitField [uncertainty.isSome, e.node.isSome, e.point.isSome, e.cred.isSome, e.serial.isSome, e.outcome.isSome,
     e.reason.isSome, e.amount.isSome, e.detail1.isSome, e.detail2.isSome, e.value1.isSome, e.value2.isSome,
     r.gap.isSome]),
   (2, uncertainty.getD 0), (1, e.node.getD 0), (2, e.point.getD 0), (2, e.cred.getD 0), (4, e.serial.getD 0),
   (1, (e.outcome.map (fun o => [RecOutcome.grant, .deny, .granted, .denied].idxOf o)).getD 0),
   (1, (e.reason.map (fun x => reasons.idxOf x)).getD 0), (4, e.amount.getD 0),
   (1, (e.detail1.map numberOfDetail).getD 0), (1, (e.detail2.map numberOfDetail).getD 0), (4, e.value1.getD 0),
   (4, e.value2.getD 0), (2, r.gap.getD 0)]

/-- The content of a FOLIO_STATUS reply (10 Table 10.16) for a folio, its lines in pool order and the MINIBAR nodes of its
entry point. The bytes of an absent opened_at or session are zero (log 40 DESIGN CHOICE). -/
def folioFields (f : Folio) (lines : List ChargeLine) (minibars : List Node) : List (Nat × Nat) :=
  [(1, f.isOpen.toNat), (4, f.balance), (4, f.ceiling), (4, f.pendingTotal)] ++ optional 4 f.openedAt
    ++ [(1, if f.isOpen = true ∧ f.ceiling ≤ f.balance + f.pendingTotal then 1 else 0), (1, lines.length)]
    ++ lines.flatMap (fun l => [(1, l.node), (1, l.comp), (2, l.item), (1, l.count), (4, l.amount), (4, l.deadline)])
    ++ [(1, minibars.length)]
    ++ (minibars.take 16).flatMap (fun n =>
      [(1, n.addr), (1, n.session.isSome.toNat),
       (1, (n.session.map (fun x => [SessionMode.guest, .restock].idxOf x.mode)).getD 0),
       (2, (n.session.map (·.cred)).getD 0), (4, (n.session.map (·.openedAt)).getD 0)])

/-! ### Enrolment records and settings images as bytes (10 Tables 10.14, 10.15 and 10.17) -/

/-- The fields of an ENROLL_NODE body, or of an enrolment record of an image, as they lie (10 Table 10.15). -/
structure RawEnrol where
  addr : Byte
  point : U16
  cls : Byte
  hasEntry : Byte
  entry : U16
  hasHours : Byte
  start : U16
  stop : U16
  oos : Byte
  hasComps : Byte
  comps : Byte
  deriving DecidableEq, Repr

/-- The 15 bytes (10 Table 10.15). -/
def RawEnrol.bytes (r : RawEnrol) : List Byte :=
  fields [(1, r.addr.toNat), (2, r.point.toNat), (1, r.cls.toNat), (1, r.hasEntry.toNat), (2, r.entry.toNat),
    (1, r.hasHours.toNat), (2, r.start.toNat), (2, r.stop.toNat), (1, r.oos.toNat), (1, r.hasComps.toNat),
    (1, r.comps.toNat)]

/-- The field checks of 02 Table 2.2, the class and each presence byte or flag in its set (10:R186, Table 10.11). -/
abbrev RawEnrol.Good (r : RawEnrol) : Prop :=
  (1 ≤ r.addr.toNat ∧ r.addr.toNat ≤ 96) ∧ r.point.toNat ≤ 4095 ∧ r.cls.toNat ≤ 4 ∧
  (r.hasEntry.toNat ≤ 1 ∧ r.hasHours.toNat ≤ 1 ∧ r.oos.toNat ≤ 1 ∧ r.hasComps.toNat ≤ 1) ∧
  (r.hasHours = 1 → r.start.toNat ≤ 1439 ∧ r.stop.toNat ≤ 1439 ∧ r.start ≠ r.stop) ∧
  (r.cls = 2 → r.hasComps = 1 ∧ 1 ≤ r.comps.toNat ∧ r.comps.toNat ≤ 8) ∧ (r.cls ≠ 2 → r.hasComps = 0) ∧
  (r.cls = 3 ∨ r.cls = 4 → r.hasEntry = 0) ∧ (r.cls ≠ 3 → r.cls ≠ 4 → r.hasEntry = 1) ∧
  (r.cls = 0 → r.entry = r.point)

/-- The enrolment that the fields of a good record ask for. -/
def RawEnrol.request (r : RawEnrol) : EnrolReq where
  addr := r.addr.toNat
  enrol :=
    { point := r.point.toNat
      cls := [PointClass.roomEntry, .suiteInner, .minibar, .amenityGate].getD r.cls.toNat .service
      entry := if r.hasEntry = 1 then some r.entry.toNat else none
      hours := if r.hasHours = 1 then some ⟨r.start.toNat, r.stop.toNat⟩ else none
      oos := r.oos == 1
      comps := if r.hasComps = 1 then some r.comps.toNat else none }

/-- The fields of a SET_NODE body as they lie (10 Table 10.15). -/
structure RawSetNode where
  addr : Byte
  hasOos : Byte
  oos : Byte
  hasHoursPart : Byte
  hasHours : Byte
  start : U16
  stop : U16
  hasAction : Byte
  action : Byte
  deriving DecidableEq, Repr

/-- The 11 bytes (10 Table 10.15). -/
def RawSetNode.bytes (r : RawSetNode) : List Byte :=
  fields [(1, r.addr.toNat), (1, r.hasOos.toNat), (1, r.oos.toNat), (1, r.hasHoursPart.toNat), (1, r.hasHours.toNat),
    (2, r.start.toNat), (2, r.stop.toNat), (1, r.hasAction.toNat), (1, r.action.toNat)]

/-- The address in its range, each presence byte, flag and action in its set, of an absent part too (02:R27, 10:R186,
log 27 DEDUCED). -/
abbrev RawSetNode.Good (r : RawSetNode) : Prop :=
  (1 ≤ r.addr.toNat ∧ r.addr.toNat ≤ 96) ∧ r.hasOos.toNat ≤ 1 ∧ r.oos.toNat ≤ 1 ∧ r.hasHoursPart.toNat ≤ 1 ∧
  r.hasHours.toNat ≤ 1 ∧ r.hasAction.toNat ≤ 1 ∧ r.action.toNat ≤ 1

/-- What the fields ask for. -/
def RawSetNode.request (r : RawSetNode) : SetNodeReq where
  addr := r.addr.toNat
  oos := if r.hasOos = 1 then some (r.oos == 1) else none
  hours := if r.hasHoursPart = 1 then some (if r.hasHours = 1 then some ⟨r.start.toNat, r.stop.toNat⟩ else none) else none
  action := if r.hasAction = 1 then some (if r.action = 0 then .disable else .enable) else none

/-- The row that a SET_NODE frame with these fields is (log 15 DESIGN CHOICE). -/
def RawSetNode.row (tag : Byte) (r : RawSetNode) : Instr :=
  if r.hasAction = 1 ∧ r.action = 0 then .setNodeDisable tag (r.bytes.take 9)
  else if r.hasAction = 1 ∧ r.action = 1 then .setNodeEnable tag (r.bytes.take 9)
  else .setNode tag r.bytes

/-- The fields of an access image as they lie (10 Table 10.12). -/
structure RawAccess where
  base : U16
  span : Byte
  mask : Byte
  deriving DecidableEq, Repr

/-- 04:R66: the base a point number, the span at most 12, the base a multiple of 2^span, and one of the five classes named
by bits 0 to 4 of the mask (log 21 DEDUCED). -/
abbrev RawAccess.Good (a : RawAccess) : Prop :=
  a.base.toNat ≤ 4095 ∧ a.span.toNat ≤ 12 ∧ a.base.toNat % 2 ^ a.span.toNat = 0 ∧ a.mask.toNat % 32 ≠ 0

/-- The fields of an ISSUE_CARD body as they lie (10 Table 10.15). -/
structure RawIssue where
  kind : Byte
  serial : U32
  hasFirst : Byte
  first : RawAccess
  hasSecond : Byte
  second : RawAccess
  validStart : U32
  validEnd : U32
  hasSchedule : Byte
  start : U16
  stop : U16
  hasEntry : Byte
  entry : U16
  hasMode : Byte
  mode : Byte
  deriving DecidableEq, Repr

/-- The 33 bytes (10 Tables 10.12 and 10.15). -/
def RawIssue.bytes (r : RawIssue) : List Byte :=
  fields [(1, r.kind.toNat), (4, r.serial.toNat),
    (1, r.hasFirst.toNat), (2, r.first.base.toNat), (1, r.first.span.toNat), (1, r.first.mask.toNat),
    (1, r.hasSecond.toNat), (2, r.second.base.toNat), (1, r.second.span.toNat), (1, r.second.mask.toNat),
    (4, r.validStart.toNat), (4, r.validEnd.toNat), (1, r.hasSchedule.toNat), (2, r.start.toNat), (2, r.stop.toNat),
    (1, r.hasEntry.toNat), (2, r.entry.toNat), (1, r.hasMode.toNat), (1, r.mode.toNat)]

/-- The field checks of 04:R68, and each presence byte and the stay mode in its set, of an absent part too (10:R186,
log 27 DEDUCED). -/
abbrev RawIssue.Good (r : RawIssue) : Prop :=
  r.kind.toNat ≤ 3 ∧ r.hasFirst = 1 ∧ r.hasSecond.toNat ≤ 1 ∧ r.hasSchedule.toNat ≤ 1 ∧ r.hasEntry.toNat ≤ 1 ∧
  r.hasMode.toNat ≤ 1 ∧ r.mode.toNat ≤ 1 ∧ r.first.Good ∧ (r.hasSecond = 1 → r.second.Good) ∧
  (r.hasSchedule = 1 → r.start.toNat ≤ 1439 ∧ r.stop.toNat ≤ 1439) ∧
  (r.kind = 0 → r.hasEntry = 1 ∧ r.hasMode = 1) ∧ (r.kind ≠ 0 → r.hasEntry = 0 ∧ r.hasMode = 0)

/-- What the fields ask for. -/
def RawIssue.request (r : RawIssue) : IssueReq where
  kind := [CredKind.guest, .staff, .maintenance].getD r.kind.toNat .emergency
  serial := r.serial.toNat
  image1 := ⟨r.first.base.toNat, r.first.span.toNat, r.first.mask⟩
  image2 := if r.hasSecond = 1 then some ⟨r.second.base.toNat, r.second.span.toNat, r.second.mask⟩ else none
  validStart := r.validStart.toNat
  validEnd := r.validEnd.toNat
  schedule := if r.hasSchedule = 1 then some ⟨r.start.toNat, r.stop.toNat⟩ else none
  entry := if r.hasEntry = 1 then some r.entry.toNat else none
  mode := if r.hasMode = 1 then some (if r.mode = 0 then .newStay else .addCard) else none

/-- A whole image body: the values, the two keys and the enrolment records as they lie (10 Table 10.17). -/
structure RawBody where
  roundLength : U16
  degradeThreshold : Byte
  localOffset : U16
  encodingLapse : U16
  returnWindow : U16
  defaultCeiling : U32
  journalThreshold : U16
  currentKey : Vector Byte 8
  previousKey : Vector Byte 8
  records : List RawEnrol
  deriving DecidableEq, Repr

/-- Its bytes. -/
def RawBody.bytes (b : RawBody) : List Byte :=
  fields [(2, b.roundLength.toNat), (1, b.degradeThreshold.toNat), (2, b.localOffset.toNat), (2, b.encodingLapse.toNat),
    (2, b.returnWindow.toNat), (4, b.defaultCeiling.toNat), (2, b.journalThreshold.toNat)]
    ++ b.currentKey.toList ++ b.previousKey.toList ++ b.records.flatMap RawEnrol.bytes

/-- The lengths at which a body ends with a scalar value, with the keys or with an enrolment record (11:R195). -/
def bodyEndsWell (len : Nat) : Prop := len ∈ [0, 2, 3, 5, 7, 9, 13, 15] ∨ ∃ k, len = 31 + 15 * k

/-- `body` is this body cut at a length at which a body may end: behind its last record, or before the keys with no
record following. -/
abbrev RawBody.cutTo (b : RawBody) (body : List Byte) : Prop :=
  body = b.bytes.take body.length ∧
    (body.length = b.bytes.length ∨ b.records = [] ∧ body.length ∈ [0, 2, 3, 5, 7, 9, 13, 15])

/-- The enrolment checks of 11:R195: each record by itself, and the image as a whole. -/
abbrev RawBody.Good (b : RawBody) : Prop :=
  (∀ r ∈ b.records, r.Good) ∧ b.records.Pairwise (fun r x => r.addr ≠ x.addr ∧ r.point ≠ x.point) ∧
  ∀ r ∈ b.records, r.cls = 1 ∨ r.cls = 2 → ∃ x ∈ b.records, x.cls = 0 ∧ x.point = r.entry

/-- What a body cut at `len` gives (11:R195, Table 11.2): each value held clamped into its range, the default of each that
is cut off, zero keys where they are cut off, and the enrolments in ascending address; clamped is a value outside its
range. -/
structure RawBody.Gives (b : RawBody) (len : Nat) (l : Loaded) : Prop where
  settings :
    let held (stop lo hi v default : Nat) : Nat := if stop ≤ len then max lo (min hi v) else default
    let key (k : Vector Byte 8) : List Byte := if 31 ≤ len then k.toList else List.replicate 8 0
    l.settings =
      { roundLength := held 2 4096 16384 b.roundLength.toNat 6144
        degradeThreshold := held 3 1 64 b.degradeThreshold.toNat 32
        localOffset := if 5 ≤ len then max (-720) (min 840 b.localOffset.toInt) else 0
        encodingLapse := held 7 10 600 b.encodingLapse.toNat 120
        returnWindow := held 9 0 900 b.returnWindow.toNat 120
        defaultCeiling := held 13 0 9999999 b.defaultCeiling.toNat 20000
        journalThreshold := held 15 1 2048 b.journalThreshold.toNat 64
        currentKey := key b.currentKey
        previousKey := key b.previousKey }
  clamped :
    let outside (stop lo hi v : Nat) : Prop := stop ≤ len ∧ (v < lo ∨ hi < v)
    l.clamped = true ↔
      outside 2 4096 16384 b.roundLength.toNat ∨ outside 3 1 64 b.degradeThreshold.toNat ∨
      5 ≤ len ∧ (b.localOffset.toInt < -720 ∨ 840 < b.localOffset.toInt) ∨ outside 7 10 600 b.encodingLapse.toNat ∨
      outside 9 0 900 b.returnWindow.toNat ∨ outside 13 0 9999999 b.defaultCeiling.toNat ∨
      outside 15 1 2048 b.journalThreshold.toNat
  ascending : l.enrolments.Pairwise (fun r x => r.addr < x.addr)
  enrolments : ∀ q, q ∈ l.enrolments ↔ ∃ r ∈ b.records, r.request = q

/-- The bytes of a bank or of a staging image of 16 bytes or more: the header fields as they lie, and what follows
(10 Table 10.14). -/
structure RawImage where
  ident : U16
  version : U16
  length : U16
  count : U32
  bodyCheck : U32
  headerCheck : U16
  rest : List Byte
  deriving DecidableEq, Repr

/-- The 14 bytes that the header check covers. -/
def RawImage.start (i : RawImage) : List Byte :=
  fields [(2, i.ident.toNat), (2, i.version.toNat), (2, i.length.toNat), (4, i.count.toNat), (4, i.bodyCheck.toNat)]

/-- Its bytes. -/
def RawImage.bytes (i : RawImage) : List Byte := i.start ++ fields [(2, i.headerCheck.toNat)] ++ i.rest

/-- The identifier, version and body length are those of 10 Table 10.14. -/
abbrev RawImage.FormatOk (i : RawImage) : Prop := i.ident = 0x5A42 ∧ i.version = 1 ∧ i.length.toNat ≤ 4080

/-- The header check is that of its bytes. -/
abbrev RawImage.HeaderOk (i : RawImage) : Prop := i.headerCheck.toNat = crc16 i.start

/-- The body: what follows, as far as the length says. -/
def RawImage.body (i : RawImage) : List Byte := i.rest.take i.length.toNat

/-- The body check is that of the body. -/
abbrev RawImage.BodyOk (i : RawImage) : Prop := i.bodyCheck.toNat = crc32 i.body

/-! ### Line state changes (01:R3) -/

/-- The LINE_CHANGE notice with the states of both lines (10 Table 10.5). -/
def lineChangeNotice (a b : LineState) : OutFrame :=
  .notice 0x63 (fields [(1, numberOfLineState a), (1, numberOfLineState b)])

/-- The LINE_STATE record of a line (09 Table 9.2). -/
def lineStateEntry (l : LineId) (st : LineState) : Entry :=
  { kind := .lineState, detail1 := some (.line l), detail2 := some (.lineState st) }

/-- `u` holds what a change of one line's state to `st` leaves of `s`, that line's own record aside. -/
structure LineMoved (l : LineId) (st : LineState) (s u : State) : Prop where
  others : ∀ m, m ≠ l → u.line m = s.line m
  record : ∃ es, u.journal
      = (s.journal.push s.now (lineStateEntry l st)).pushAll es
    ∧ ∀ e ∈ es, e.2.kind = .nodeState
  nodes : (s.service = true → u.service = true) → u.nodes = s.nodes
  lines : u.lines = { s.lines with lineA := u.lines.lineA, lineB := u.lines.lineB, round := u.lines.round }
  port : Port.noticesOnly s.port u.port
  disarmed : s.part = .running → u.port.arm.lineChange = false
  notice : s.part = .running → s.port.arm.lineChange = true →
    lineChangeNotice u.lines.lineA.st u.lines.lineB.st ∈ u.port.frames
  rest : u = { s with lines := u.lines, nodes := u.nodes, journal := u.journal, port := u.port }

/-! ### The start that reaches RUNNING (11:R195, 02:R42) -/

/-- The retained node is one that the enrolment names alike (02:R42, 11:R197). -/
def Node.enrolledAlike (n : Node) (q : EnrolReq) : Prop :=
  n.addr = q.addr ∧ n.copy = ⟨q.enrol.point, q.enrol.cls, q.enrol.entry, q.enrol.comps⟩

/-- The session of a record `m` kept of `n` under the enrolments `es` ends only with the folio of a room withdrawn. -/
def Node.keepsSession (es : List EnrolReq) (s : State) (n m : Node) : Prop :=
  m.session = n.session ∨ m.session = none ∧ ∃ x f, n.session = some x ∧ x.folio = some f ∧
    ∃ d ∈ s.nodes, d.enrol.cls = .roomEntry ∧ d.enrol.point = f ∧ ∀ q ∈ es, ¬ d.enrolledAlike q

/-- The record that an enrolment creates with the current generation (02:R25, 03 Table 3.4, 05:R104), its latched items
given. -/
def enrolledNode (r : EnrolReq) (gen : Nat) (latched : Bool) : Node :=
  ⟨r.addr, r.enrol, .absent, 16, 0, 0, 0, none, none,
    { d := 0, s := 4000, samples := 0, failed := 0, suspect := false, span := none, anchor := none, grace := 348 },
    { sent := gen, acked := gen, stall := 0 }, .marked, .full,
    ⟨r.enrol.point, r.enrol.cls, r.enrol.entry, r.enrol.comps⟩, latched, false,
    latched && r.enrol.cls == .minibar, [], none, 0, .none,
    List.replicate (r.enrol.comps.getD 0) ⟨0, 0, 15, 0⟩, none⟩

/-- The retained nodes that some enrolments do not name alike (02:R42): they leave the table. -/
def State.leaving (s : State) (es : List EnrolReq) : List Node :=
  s.nodes.filter (fun n => !es.any (fun q =>
    q.addr == n.addr && n.copy == ⟨q.enrol.point, q.enrol.cls, q.enrol.entry, q.enrol.comps⟩))

/-- The points of the rooms that leave with their ROOM_ENTRY nodes. -/
def State.leavingRooms (s : State) (es : List EnrolReq) : List Nat :=
  ((s.leaving es).filter (fun n => n.enrol.cls == .roomEntry)).map (fun n => n.enrol.point)

/-- The encodings that a start returns: those lapsed, and the guest encodings of the rooms that leave (04:R78, R86). -/
def State.returned (s : State) (es : List EnrolReq) (c : Cred) : Bool :=
  match c.st with
  | .encoding lapse => decide (lapse ≤ s.now) || (s.leavingRooms es).any (fun p => c.guestOf p)
  | _ => false

/-- The charge lines that a start commits: those due, those of a minibar that leaves and those on the folio of a room that
leaves (08:R158, R166). -/
def State.committed (s : State) (es : List EnrolReq) (x : ChargeLine) : Bool :=
  decide (x.deadline ≤ s.now) || (s.leaving es).any (fun n => n.enrol.cls == .minibar && n.addr == x.node)
    || (s.leavingRooms es).contains x.folio

/-- A record without its point number. -/
def pointless (e : Nat × Entry) : Nat × Entry := (e.1, { e.2 with point := none })

/-- The records that a start appends (01:R3, 04:R77, 08:R158, 06:R125): LINE_STATE TRAINING for each line, CARD_LAPSED for
each encoding returned and MINIBAR_CHARGE for each line committed, the point of its node aside, in an order left open
(log 14 DESIGN CHOICE), and DECISION_LATE at most where a directive was queued. -/
structure StartRecords (s : State) (es : List EnrolReq) (rs : List (Nat × Entry)) : Prop where
  kinds : ∀ e ∈ rs, e.2.kind = .lineState ∨ e.2.kind = .cardLapsed ∨ e.2.kind = .minibarCharge ∨
    e.2.kind = .decisionLate ∧ s.lines.urgent ≠ []
  lines : (rs.filter (fun e => e.2.kind == .lineState)).Perm
    [(s.now, lineStateEntry .a .training), (s.now, lineStateEntry .b .training)]
  lapsed : s.store.Law → (rs.filter (fun e => e.2.kind == .cardLapsed)).Perm
    (s.lapsedRecords (s.store.recs.filter (s.returned es)) .lapsed)
  charges : s.minibar.pool.Pairwise (fun l m => ¬ (l.node = m.node ∧ l.comp = m.comp)) →
    ((rs.filter (fun e => e.2.kind == .minibarCharge)).map pointless).Perm
      ((s.chargeRecords (s.minibar.pool.filter (s.committed es))).map pointless)

/-- A LINE_CHANGE notice (10 Table 10.5). -/
def OutFrame.isLineChange : OutFrame → Bool
  | .notice k _ => k == 0x63
  | _ => false

/-- The LINE_CHANGE frames of the two changes into TRAINING (01:R3, 10:R188, R189): none where the kind is disarmed or both
come before the entry into RUNNING, else one, with the states at the first that comes after it. -/
def TrainingNotified (p q : Port) : Prop :=
  let changes (x : Port) : List OutFrame := x.frames.filter OutFrame.isLineChange
  (q.arm.lineChange = p.arm.lineChange ∧ (changes q).Perm (changes p)) ∨
  (p.arm.lineChange = true ∧ q.arm.lineChange = false ∧
    ∃ a b, (a, b) ∈ [(LineState.training, LineState.off), (.off, .training), (.training, .training)] ∧
      (changes q).Perm (changes p ++ [lineChangeNotice a b]))

/-- `t` holds what the start work with a loaded image leaves of `s` (11:R195): the table reconciled with the image, the
lines in TRAINING, the mark set, nothing due left, and everything else as it stood. Nothing is latched by an enrolment taken
up so (log 24 DEDUCED). -/
structure ReachedRunning (l : Loaded) (s t : State) : Prop where
  part : t.part = .running
  settings : t.settings = l.settings
  enrolled : t.enrolled = l.enrolments
  absent : ∀ n ∈ t.nodes, n.st = .absent
  kept : ∀ r ∈ l.enrolments, ∀ n ∈ s.nodes, n.enrolledAlike r → t.node? r.addr = some { n with
    enrol := r.enrol
    session := n.session.filter (fun x =>
      !(x.mode == .guest && (s.leavingRooms l.enrolments).any (fun p => x.folio == some p))) }
  created : ∀ r ∈ l.enrolments, (∀ n ∈ s.nodes, ¬ n.enrolledAlike r) →
    t.node? r.addr = some (enrolledNode r s.revoc.gen false) ∧
    (r.enrol.cls = .roomEntry →
      t.room? r.enrol.point
        = some ⟨r.enrol.point, 0, 1, [⟨1, if s.supply.startKind = .cold then 0 else s.now⟩], true⟩ ∧
      (s.FolioLaw → t.folio? r.enrol.point = some ⟨r.enrol.point, false, 0, l.settings.defaultCeiling, 0, none⟩))
  withdrawn : ∀ p ∈ s.leavingRooms l.enrolments,
    (∀ c ∈ t.store.recs, c.guestOf p = true → c.st.isEncoding = false) ∧
    ((∀ q ∈ l.enrolments, q.enrol.cls = .roomEntry → q.enrol.point ≠ p) → t.room? p = none ∧ t.folio? p = none)
  standing : ∀ p, p ∉ s.leavingRooms l.enrolments →
    (∀ q ∈ l.enrolments, q.enrol.cls = .roomEntry → q.enrol.point = p → ∃ n ∈ s.nodes, n.enrolledAlike q) →
    t.room? p = s.room? p ∧
    (s.minibar.pool.Pairwise (fun l m => ¬ (l.node = m.node ∧ l.comp = m.comp)) →
      t.folio? p = (s.folio? p).map (fun f =>
        f.committed (s.minibar.pool.filter (fun x => s.committed l.enrolments x && x.folio == p))))
  pool : s.minibar.pool.Pairwise (fun l m => ¬ (l.node = m.node ∧ l.comp = m.comp)) →
    t.minibar.pool = s.minibar.pool.filter (fun x => !s.committed l.enrolments x)
  creds : s.store.Law → t.store.recs = s.store.recs.filter (fun c => !s.returned l.enrolments c)
  free : s.store.Law → ∃ ks, t.store.free = s.store.free ++ ks ∧
    ks.Perm ((s.store.recs.filter (s.returned l.enrolments)).map Cred.number)
  retired : t.store.retired = s.store.retired
  list : t.revoc = { s.revoc with rooms := t.revoc.rooms }
  journal : ∃ rs, t.journal = s.journal.pushAll rs ∧ StartRecords s l.enrolments rs
  lines : t.lines = { s.lines with
    lineA := { s.lines.lineA with st := .training, retrain := 4, running := 0 }
    lineB := { s.lines.lineB with st := .training, retrain := 4, running := 0 }
    urgent := s.lines.urgent.filter (fun u => !(s.leaving l.enrolments).any (fun n => u.node == n.addr))
    repeats := s.lines.repeats.filter (fun u => !(s.leaving l.enrolments).any (fun n => u.node == n.addr)) }
  time : t.time = { s.time with mark := some ((s.time.tick + l.settings.roundLength) % 281474976710656) }
  lapsed : ∀ c ∈ t.store.recs, c.lapsed t.now = false
  due : ∀ x ∈ t.minibar.pool, t.now < x.deadline
  port : Port.noticesOnly s.port t.port
  started : OutFrame.notice 0x60 [byteOf s.supply.startKind.code] ∈ t.port.frames
  notified : TrainingNotified s.port t.port
  rest : t = { s with part := t.part, loader := t.loader, time := t.time, lines := t.lines, nodes := t.nodes,
                      store := t.store, revoc := t.revoc, minibar := t.minibar, journal := t.journal, port := t.port,
                      choices := t.choices }

end Sys2Proof.Machine
end

