-- ==== Sys2Proof/Certificates/Slice0/Obligations.lean ====
section
/-! DEFINITION. The statements for the provers. Each docstring says what its statement claims; OBLIGATIONS.json names the
rules or sections it rests on. -/

open Sys2Proof Sys2Proof.Machine

/-- For every command c and state s whose queue is c followed by rest, step of s is exec of c on s with the queue
rest. Rests on 00_scope.md, How the blocks work together (each block acts at the events that reach it). -/
def Obligations.StepRunsTheFrontCommand : Prop :=
  ∀ (c : Instr) (rest : List Instr) (s : State), s.pending = c :: rest → step s = exec c (s.withPending rest)

/-- With an empty queue, no second event begun, no second boundary owed and no round start overdue, a step raises the
tick counter by 1 modulo 2^48; wing seconds rise by 1 modulo 2^32 exactly when the new counter is a multiple of
32,768; the time epoch and the time-set flag keep their values; outside RUNNING only the counter, the wing seconds and
the desk link port can change. A tick that is no second boundary and no round start changes nothing else but the
measure of silence of a frame in assembly, which rises by 1 and at 1,639 discards the frame with a TIMEOUT reject.
That a step on an empty queue is one wing tick is the model's own choice (log 8), and the boundaries owed are those
that a ROUND_START row has passed (log 9). Rests on 03_wing_time_and_node_clocks.md, section 3.1, 10_the_desk_link.md,
section 10.2. -/
def Obligations.EmptyQueuePassesOneTick : Prop :=
  ∀ s : State, s.pending = [] → s.time.begun = false → s.time.owed = 0 → s.roundOverdue = false →
    ∃ t : State, step s = .next t ∧ t.pending = [] ∧
      t.time.tick = (s.time.tick + 1) % 281474976710656 ∧
      t.time.secs = (if t.time.tick % 32768 = 0 then (s.time.secs + 1) % 4294967296 else s.time.secs) ∧
      t.time.epoch = s.time.epoch ∧ t.time.isSet = s.time.isSet ∧
      (s.part ≠ .running →
        t = { s with time := { s.time with tick := t.time.tick, secs := t.time.secs }, port := t.port }) ∧
      (t.time.tick % 32768 ≠ 0 → s.part ≠ .running ∨ s.time.mark ≠ some t.time.tick →
        t = { s with time := { s.time with tick := t.time.tick }, port := t.port } ∧
        (s.port.rx = .hunting ∨ s.lineOff = true → t.port = s.port) ∧
        (s.port.rx ≠ .hunting → s.lineOff = false →
          (s.port.silence + 1 < 1639 → t.port = { s.port with silence := s.port.silence + 1 }) ∧
          (1639 ≤ s.port.silence + 1 →
            t.port = { s.port with rx := .hunting, silence := 0 }.rejection .timeout (match s.port.rx with
              | .body _ kind tag _ => .unverified kind tag
              | .check _ kind tag _ _ => .unverified kind tag
              | _ => .unknown))))

/-- The reset state holds the values that 11:R193 and the after-start tables give a cold start: LOADING, no node,
every slot VACANT on the free list in ascending order, empty lists, generation 0, time 0 and unset, lines OFF,
pointers at 96, a journal holding COLD_START alone at sequence number 0, the port HUNTING with all four kinds armed.
That reset is this moment is the model's choice (log 1). Rests on 11_supply_retention_and_start_up.md, section 11.2,
01_the_lock_line.md, Table 1.4, 03_wing_time_and_node_clocks.md, Table 3.3, 04_credentials_and_card_issue.md, Table
4.5, 09_the_entry_journal.md, Table 9.3, 10_the_desk_link.md, Table 10.6. -/
def Obligations.ResetHoldsTheColdStartValues : Prop :=
  let s := State.reset
  s.pending = [] ∧ s.part = .loading ∧ s.supply.startKind = .cold ∧ s.supply.checkValid = true ∧
  s.loader.lastStore = .none ∧ s.loader.store = none ∧ s.loader.staging = [] ∧
  s.time.tick = 0 ∧ s.time.secs = 0 ∧ s.time.epoch = 0 ∧ s.time.isSet = false ∧ s.time.mark = none ∧
  s.lines.lineA = ⟨.off, 0, 0, 0, ⟨false, false, false, false, false⟩⟩ ∧ s.lines.lineB = s.lines.lineA ∧
  s.lines.first.valid = false ∧ s.lines.round = none ∧ s.lines.urgent = [] ∧ s.lines.repeats = [] ∧
  s.lines.pointer = 96 ∧ s.inviter = ⟨96, false⟩ ∧ s.nodes = [] ∧
  s.store = ⟨[], List.range 768, []⟩ ∧ s.revoc = ⟨[], [], [], 0, 0⟩ ∧ s.minibar = ⟨[], []⟩ ∧
  s.journal = ⟨[⟨0, 0, { kind := .coldStart }, none⟩], 0, 1⟩ ∧
  s.port.rx = .hunting ∧ s.port.service = none ∧ s.port.frames = [] ∧ s.port.arm = ⟨true, true, true, true⟩

/-- State.reset meets the laws whose preservation the statements named EveryStepKeeps... claim: the journal's
numbering, the capacities, the service law, the slot partition, the serial and list laws, the clock ranges, the room
law, the folio law and the port's law. Rests on 11_supply_retention_and_start_up.md, section 11.2. -/
def Obligations.ResetMeetsEveryLaw : Prop :=
  State.reset.journal.Law ∧ State.reset.Capacities ∧ State.reset.ServiceLaw ∧ State.reset.store.Law ∧
    State.reset.store.SerialLaw ∧ State.reset.ListLaw ∧ State.reset.ClockLaw ∧ State.reset.revoc.RoomLaw ∧ State.reset.FolioLaw ∧
    State.reset.port.Law

/-- From every state whose journal holds at most 2,048 records with sequence numbers rising by one modulo 2^32 up to
the one before the next, and an acknowledged count within them, every step gives a state whose journal is so. Rests on
09_the_entry_journal.md, section 9.2, 09_the_entry_journal.md, section 9.3. -/
def Obligations.EveryStepKeepsTheJournalNumbered : Prop :=
  ∀ s t : State, s.journal.Law → step s = .next t → t.journal.Law

/-- From every state whose node table (addresses rising within 1..96), compartments of a node (8), urgent queue (32),
repeat list (8), delivery segment (8), revocation list (256), change journal (512), charge line pool (64), decision
memories (2), waiting LINK_REJECT frames (4) and staging image (4,096 bytes) lie within their capacities, every step
gives such a state. Rests on 02_lock_nodes_and_their_life_on_the_line.md, section 2.1, 01_the_lock_line.md, section
1.5, 05_stays_floors_and_revocation.md, sections 5.2 and 5.3, 06_admission.md, section 6.3, 08_minibars_and_folios.md,
section 8.4, 10_the_desk_link.md, section 10.3, 11_supply_retention_and_start_up.md, section 11.5. -/
def Obligations.EveryStepKeepsTheCapacities : Prop :=
  ∀ s t : State, s.Capacities → step s = .next t → t.Capacities

/-- From every state that meets the service law (addresses ascending, also those of a round's answer windows; lines
not OFF in RUNNING; outside RUNNING lines OFF, no round, empty urgent queue and repeat list; no node ONLINE or in
PROBATION while neither line is UP or DEGRADED), every step gives such a state. Rests on
02_lock_nodes_and_their_life_on_the_line.md, section 2.3.3, 01_the_lock_line.md, sections 1.1 and 1.7. -/
def Obligations.EveryStepKeepsNodesAndLinesInService : Prop :=
  ∀ s t : State, s.ServiceLaw → step s = .next t → t.ServiceLaw

/-- From every state whose 768 slots are partitioned (a number stands in the free list exactly when no record has it,
in the retired order exactly when its record is REVOKED or EXPIRED, no number twice, the retired order sorted by
retired_at), every step gives such a state. Rests on 04_credentials_and_card_issue.md, section 4.1. -/
def Obligations.EveryStepKeepsTheSlotPartition : Prop :=
  ∀ s t : State, s.store.Law → step s = .next t → t.store.Law

/-- From every state whose slots are partitioned and in which no card serial is held by two credentials in ISSUED,
ACTIVE or SUSPENDED, every step gives a state in which none is; and when besides no serial is held by two revocation
list entries, nor by an entry and an ISSUED or ACTIVE credential, every step gives a state in which none is. Rests on
04_credentials_and_card_issue.md, section 4.5, 05_stays_floors_and_revocation.md, section 5.2. -/
def Obligations.EveryStepKeepsSerialsUnique : Prop :=
  (∀ s t : State, s.store.Law → s.store.SerialLaw → step s = .next t → t.store.SerialLaw) ∧
  (∀ s t : State, s.store.Law → s.store.SerialLaw → s.ListLaw → step s = .next t → t.ListLaw)

/-- From every state in which each node's drift estimate lies in -2,000..2,000 ppm, its spread in 2..4,000 ppm, its
grace per day in 1..600 s and its counters within 255, every step gives such a state. Rests on
03_wing_time_and_node_clocks.md, sections 3.3.2 and 3.3.3. -/
def Obligations.EveryStepKeepsClocksInRange : Prop :=
  ∀ s t : State, s.ClockLaw → step s = .next t → t.ClockLaw

/-- From every state in which every room's floor is its stay sequence or its stay sequence + 1 and its floor history
holds 1 to 4 items, rooms keyed once, every step gives such a state. Rests on 05_stays_floors_and_revocation.md,
section 5.1. -/
def Obligations.EveryStepKeepsFloorsBesideStays : Prop :=
  ∀ s t : State, s.revoc.RoomLaw → step s = .next t → t.revoc.RoomLaw

/-- From every state in which each folio's pending total is the sum of the amounts of the lines naming it, no balance
exceeds 9,999,999 cents, every line and every GUEST session names an OPEN folio, no two lines name one compartment,
and every folio belongs to an enrolled ROOM_ENTRY node, every step gives such a state. Rests on
08_minibars_and_folios.md, sections 8.1 to 8.5. -/
def Obligations.EveryStepKeepsFoliosBalanced : Prop :=
  ∀ s t : State, s.FolioLaw → step s = .next t → t.FolioLaw

/-- From every port in which frames wait only behind one in sending (the model's reading: a frame made ready while the
port is idle begins to be sent at that event, log 17) and exactly one reply waits or is sent while a command is in
service, none otherwise, every step gives such a port. Rests on 10_the_desk_link.md, sections 10.3 and 10.4. -/
def Obligations.EveryStepKeepsOneReplyWaiting : Prop :=
  ∀ s t : State, s.port.Law → step s = .next t → t.port.Law

/-- In every state whose slots are partitioned, the lengths of the free list and of the retired order and the number
of live credentials sum to 768: the three lengths that every CARD_STATUS reply carries. Rests on
04_credentials_and_card_issue.md, sections 4.1 and 4.8. -/
def Obligations.SlotSetsHold768 : Prop :=
  ∀ s : State, s.store.Law → s.store.free.length + s.store.retired.length + s.liveCount = 768

/-- For every kind, tag and body of at most 1,024 bytes, the bytes of the frame, received from HUNTING, end in a good
frame of that kind, tag and body, with no byte left over; with other check bytes they end in a wrong check; a frame of
1,025 to 65,535 body bytes is found oversize at its second length byte. Rests on 10_the_desk_link.md, section 10.2 and
Tables 10.2 and 10.9. -/
def Obligations.FramesRoundTripThroughTheReceiver : Prop :=
  ∀ (kind tag : Byte) (body : List Byte),
    (body.length ≤ 1024 → Rx.run (frameBytes kind tag body) .hunting = (.hunting, .good kind tag body, [])) ∧
    (body.length ≤ 1024 → ∀ lo hi : Byte, lo.toNat + 256 * hi.toNat ≠ crc16 (le16 body.length ++ [kind, tag] ++ body) →
      Rx.run (0xA7 :: (le16 body.length ++ [kind, tag] ++ body ++ [lo, hi])) .hunting
        = (.hunting, .badCheck kind tag, [])) ∧
    (1024 < body.length → body.length < 65536 →
      Rx.run (frameBytes kind tag body) .hunting = (.hunting, .oversize, (frameBytes kind tag body).drop 3))

/-- For every state whose running settings lie in the ranges of Table 11.2 and whose node table passes the checks of
Table 2.2 as a whole, the image composed from them is judged GOOD and gives back the same settings, unclamped, and the
same enrolments in ascending address. The composed image holds its enrolment records in that order by the model's
choice (log 49). Rests on 11_supply_retention_and_start_up.md, sections 11.3 and 11.5, 10_the_desk_link.md, Tables
10.14 and 10.17. -/
def Obligations.ImagesRoundTripThroughTheLoader : Prop :=
  ∀ s : State, s.EnrolmentLaw → s.settings.InRange →
    judgeBank (some s.runningImage) = .ok ⟨s.settings, false, s.enrolled⟩

/-- For every host command row with its kind, tag and body length, in every state: with the line off nothing changes;
with a command in service the frame is rejected with OVERLAP; in a part state that does not serve the kind the reply
is NOT_READY; with a body length outside Table 10.7 the reply is BAD_LENGTH. Nothing but the port changes, and the end
of the frame leaves it HUNTING. Rests on 10_the_desk_link.md, sections 10.2 to 10.4, Tables 10.2, 10.3 and 10.7. -/
def Obligations.PortDispatchesInOrder : Prop :=
  ∀ (i : Instr) (kind tag : Byte) (len : Nat) (s : State), frameOf i = some (kind, tag, len) →
    (s.lineOff = true → exec i s = .next s) ∧
    (s.lineOff = false → s.port.service ≠ none → exec i s
      = .next ((s.setRx .hunting).rejection .overlap (.verified kind tag))) ∧
    (s.lineOff = false → s.port.service = none → servedIn s.part kind = false →
      exec i s = .next (s.answer kind tag false (.plain .notReady))) ∧
    (s.lineOff = false → s.port.service = none → servedIn s.part kind = true → bodyLengthOk kind len = false →
      exec i s = .next (s.answer kind tag false (.plain .badLength)))

/-- In RUNNING with no command in service, every host command of a right body length answers; when its status is a
refusal, the state it answered from is the state it found. The one exception is that of log 19: a command that asks
the full revocation list for room and is then refused with LIST_FULL or SEQUENCE_EXHAUSTED leaves the removals of R94
standing: a list of 256 entries loses exactly those whose retire_at has passed, each with its REMOVE change, a shorter
one none. Rests on 10_the_desk_link.md, section 10.4, 05_stays_floors_and_revocation.md, section 5.2. -/
def Obligations.RefusedCommandsChangeNothing : Prop :=
  ∀ (i : Instr) (kind tag : Byte) (len : Nat) (s : State), frameOf i = some (kind, tag, len) → s.takes →
    bodyLengthOk kind len = true →
    ∃ (u : State) (r : Reply), exec i s = .next (u.answer kind tag (kind == 0x06 && r.status.success) r) ∧
      (r.status.success = false →
        u = s ∨ (asksForRoom i = true ∧ (r.status = .listFull ∨ r.status = .sequenceExhausted) ∧ u = s.askRoom ∧
          RoomAsked s u))

/-- With the line on and the receiver HUNTING where bytes are received: a frame whose check is wrong makes a CRC
reject with its kind and tag unverified; three bytes giving a length above 1,024 make an OVERSIZE reject; the first k
bytes of a frame followed by silence make a TIMEOUT reject that carries kind and tag when both had come; a good frame
during service makes an OVERLAP reject with kind and tag verified; a good frame of a kind that is no command's is
answered UNKNOWN_COMMAND. The end of a frame leaves the port HUNTING. The first k bytes of a frame in the bytes of a
CRC row leave the frame in assembly, its other bytes end it good, and n ticks without a byte raise its measure of
silence or, from 1,639 on, discard it with the TIMEOUT reject; that such a row delivers bytes that end nothing is the
model's choice (log 12). Rests on 10_the_desk_link.md, sections 10.2 to 10.4. -/
def Obligations.BadFramesAreRejected : Prop :=
  ∀ (kind tag : Byte) (body : List Byte) (s : State), body.length ≤ 1024 → s.lineOff = false →
    (∀ lo hi : Byte, s.port.rx = .hunting →
      lo.toNat + 256 * hi.toNat ≠ crc16 (le16 body.length ++ [kind, tag] ++ body) →
      exec (.linkRejectCrc (0xA7 :: (le16 body.length ++ [kind, tag] ++ body ++ [lo, hi]))) s
        = .next ((s.setRx .hunting).rejection .crc (.unverified kind tag))) ∧
    (∀ lo hi : Byte, s.port.rx = .hunting → 1024 < lo.toNat + 256 * hi.toNat →
      exec (.linkRejectOversize [0xA7, lo, hi]) s = .next ((s.setRx .hunting).rejection .oversize .unknown)) ∧
    (∀ k : Nat, s.port.rx = .hunting → 1 ≤ k → k < body.length + 7 →
      exec (.linkRejectTimeout ((frameBytes kind tag body).take k)) s
        = .next ((s.setRx .hunting).rejection .timeout (if k < 5 then .unknown else .unverified kind tag))) ∧
    (s.port.service ≠ none →
      exec (.linkRejectOverlap kind tag) s = .next ((s.setRx .hunting).rejection .overlap (.verified kind tag))) ∧
    (s.port.service = none → isCommandKind kind = false →
      exec (.unknownCommand kind tag body) s = .next (s.answer kind tag false (.plain .unknownCommand))) ∧
    (∀ k : Nat, s.port.rx = .hunting → 1 ≤ k → k < body.length + 7 → ∃ r : Rx, r ≠ .hunting ∧
      exec (.linkRejectCrc ((frameBytes kind tag body).take k)) s = .next (s.setRx r) ∧
      Rx.run ((frameBytes kind tag body).drop k) r = (.hunting, .good kind tag body, []) ∧
      exec (.linkRejectTimeout []) (s.setRx r)
        = .next ((s.setRx .hunting).rejection .timeout (if k < 5 then .unknown else .unverified kind tag)) ∧
      ∀ n, ((s.setRx r).quietFor n = if n < 1639 then { s.setRx r with port := { (s.setRx r).port with silence := n } }
        else (s.setRx .hunting).rejection .timeout (if k < 5 then .unknown else .unverified kind tag)))

/-- With fewer than 4 LINK_REJECT frames waiting a rejection makes one ready with a further-rejects count of 0; with 4
or more it makes none, and the newest waiting reject's count rises by 1, saturating at 255, every other waiting frame
unchanged. With frames waiting only behind one in sending, the reply to a command, its content after a success code
alone, is appended to the outgoing frames, the command is in service and the receiver HUNTING, and nothing else
changes; a condition raised in RUNNING with its kind armed appends that kind's notice to the outgoing frames and
disarms the kind, and changes nothing else; in any other case it changes nothing. Rests on 10_the_desk_link.md,
sections 10.3 and 10.5. -/
def Obligations.OutgoingFramesFollowTheirRules : Prop :=
  (∀ (reason : RejectReason) (about : KindTag) (p : Port),
    ((p.waiting.filter OutFrame.isReject).length < 4 →
      p.rejection reason about = p.ready (.reject reason about 0)) ∧
    (4 ≤ (p.waiting.filter OutFrame.isReject).length →
      ∃ older newer r k n, p.waiting = older ++ .reject r k n :: newer ∧ newer.any OutFrame.isReject = false ∧
        p.rejection reason about = { p with waiting := older ++ .reject r k (min 255 (n + 1)) :: newer })) ∧
  (∀ (kind tag : Byte) (restarts : Bool) (r : Reply) (s : State), (s.port.sending = none → s.port.waiting = []) →
    let t := s.answer kind tag restarts r
    t.port.frames = s.port.frames
      ++ [.reply kind tag (r.status.code :: if r.status.success then r.content else [])] ∧
    t = { s with port := { s.port with
      rx := .hunting, silence := 0, service := some ⟨kind, tag, restarts⟩
      sending := t.port.sending, waiting := t.port.waiting } }) ∧
  ∀ (k : NoticeKind) (s : State), (s.port.sending = none → s.port.waiting = []) →
    (s.part = .running → s.port.arm.get k = true →
      (s.raise k).port.frames = s.port.frames ++ [noticeFrame k s] ∧ (s.raise k).port.arm.get k = false ∧
      (∀ j, j ≠ k → (s.raise k).port.arm.get j = s.port.arm.get j) ∧
      s.raise k = { s with port := (s.raise k).port } ∧ Port.noticesOnly s.port (s.raise k).port) ∧
    (s.part ≠ .running ∨ s.port.arm.get k = false → s.raise k = s)

/-- FRAME_SENT: with nothing in sending nothing changes (the model's choice for a row whose event cannot arise, log
12); the next waiting frame, if any, begins to be sent; the end of a reply also ends the command's service; the end of
a RESTART's reply with a valid check word discards the volatile state (the fields of the cleared first-fault record
are the model's choice, log 4), writes RESTARTED with RESTART_COMMAND and enters LOADING. Rests on
10_the_desk_link.md, sections 10.3 and 10.4, 11_supply_retention_and_start_up.md, section 11.4. -/
def Obligations.FrameSentEndsServiceAndRestarts : Prop :=
  ∀ s : State,
    (s.port.sending = none → exec .frameSent s = .next s) ∧
    (∀ f, s.port.sending = some f → f.isReply = false → exec .frameSent s
      = .next { s with port := { s.port with sending := s.port.waiting.head?, waiting := s.port.waiting.tail } }) ∧
    (∀ f, s.port.sending = some f → f.isReply = true → s.port.service.any (·.restarts) = false → exec .frameSent s
      = .next { s with
          port := { s.port with sending := s.port.waiting.head?, waiting := s.port.waiting.tail, service := none } }) ∧
    (∀ f, s.port.sending = some f → f.isReply = true → s.port.service.any (·.restarts) = true →
      s.supply.checkValid = true →
      ∃ t : State, exec .frameSent s = .next t ∧ t.part = .loading ∧
        VolatileGone s { t with port := { t.port with rate := s.port.rate } } ∧
        t.journal = s.journal.push s.now { kind := .restarted, detail1 := some .restartCommand } ∧
        t.supply = { s.supply with startKind := .restart, cellLow := s.supply.cellBelow, restoreWaiting := false } ∧
        t.port.rate = rateOf s.port.strapHigh1 s.port.strapHigh0 ∧ t.pending = s.pending ∧ t.choices = s.choices)

/-- SUPPLY_LOSS in every part state puts the part in RETENTION with the outage start at the wing seconds of the event;
RESET_PIN_LOW in LOADING, UNCONFIGURED or RUNNING puts it in HELD; both discard the volatile state of every block (the
fields of the cleared first-fault record are the model's choice, log 4), abandon a store in flight with FAILED, and
leave the retention domain, the tick counter, wing seconds and journal as they stand. A loss in RETENTION, the supply
falling again, does the same, and ends the wait of a restore (log 31); a pin falling in RETENTION or HELD changes only
the pin (the model's choice, log 12). The check word stands at a loss, with the cell already below its minimum too
(the model's choice, log 47); CELL_LOW in RETENTION makes it invalid, elsewhere sets the cell-low flag; CELL_OK clears
the flag; the level of the cell sense follows each. Rests on 11_supply_retention_and_start_up.md, sections 11.2 and
11.4. -/
def Obligations.SupplyLossPinAndCellEvents : Prop :=
  ∀ s : State,
    (∃ t : State, exec .supplyLoss s = .next t ∧ VolatileGone s t ∧ t.part = .retention ∧
      t.journal = s.journal ∧ t.supply = { s.supply with outageStart := s.now, restoreWaiting := false } ∧
      t.pending = s.pending ∧ t.choices = s.choices) ∧
    (s.part ≠ .retention → s.part ≠ .held → ∃ t : State, exec .resetPinLow s = .next t ∧ VolatileGone s t ∧ t.part = .held ∧
      t.journal = s.journal ∧ t.supply = { s.supply with pinLow := true } ∧ t.pending = s.pending ∧
      t.choices = s.choices) ∧
    (s.part = .retention ∨ s.part = .held →
      exec .resetPinLow s = .next { s with supply := { s.supply with pinLow := true } }) ∧
    (s.part = .retention → exec .cellLow s
      = .next { s with supply := { s.supply with cellBelow := true, checkValid := false } }) ∧
    (s.part ≠ .retention → exec .cellLow s
      = .next { s with supply := { s.supply with cellBelow := true, cellLow := true } }) ∧
    exec .cellOk s = .next { s with supply := { s.supply with cellBelow := false, cellLow := false } }

/-- With a valid check word: SUPPLY_RESTORE in RETENTION with the pin high, or the release of the pin on a waiting
restore, writes SUPPLY_RESTORED with the outage length and enters LOADING as a warm start; the release in HELD writes
RESTARTED with RESET_PIN on a discarded volatile state (the fields of the cleared first-fault record are the model's
choice, log 4); the rate is read from the straps, the cell-low flag from the cell. A restore with the pin low waits
(log 31). Store, minibar and revocation unit keep their contents, the rekey count aside. Rests on
11_supply_retention_and_start_up.md, sections 11.2 and 11.4, 10_the_desk_link.md, section 10.1. -/
def Obligations.WarmStartsKeepTheRetentionDomain : Prop :=
  ∀ s : State, s.supply.checkValid = true →
    (s.part = .retention → s.supply.pinLow = false → exec .supplyRestore s = .next { s with
      part := .loading
      supply := { s.supply with startKind := .warm, cellLow := s.supply.cellBelow, restoreWaiting := false }
      journal := s.journal.push s.now
        { kind := .supplyRestored, value1 := some (sub32 s.now s.supply.outageStart) }
      port := { s.port.stopped with rate := rateOf s.port.strapHigh1 s.port.strapHigh0 } }) ∧
    (s.part = .retention → s.supply.pinLow = true →
      exec .supplyRestore s = .next { s with supply := { s.supply with restoreWaiting := true } }) ∧
    (s.part = .retention → s.supply.restoreWaiting = true → exec .resetPinRelease s = .next { s with
      part := .loading
      supply := { s.supply with pinLow := false, startKind := .warm, cellLow := s.supply.cellBelow,
                                restoreWaiting := false }
      journal := s.journal.push s.now
        { kind := .supplyRestored, value1 := some (sub32 s.now s.supply.outageStart) }
      port := { s.port.stopped with rate := rateOf s.port.strapHigh1 s.port.strapHigh0 } }) ∧
    (s.part = .held → ∃ t : State, exec .resetPinRelease s = .next t ∧ t.part = .loading ∧
      VolatileGone s { t with port := { t.port with rate := s.port.rate } } ∧
      t.journal = s.journal.push s.now { kind := .restarted, detail1 := some .resetPin } ∧
      t.supply = { s.supply with pinLow := false, startKind := .resetPin, cellLow := s.supply.cellBelow,
                                 restoreWaiting := false } ∧
      t.port.rate = rateOf s.port.strapHigh1 s.port.strapHigh0 ∧ t.pending = s.pending ∧ t.choices = s.choices)

/-- With an invalid check word, SUPPLY_RESTORE in RETENTION with the pin high, RESET_PIN_RELEASE in HELD,
RESET_PIN_RELEASE in RETENTION on a restore that waited for it and the end of a RESTART's reply all give the reset
state, but for the waiting queue, the levels of the pin, the cell and the straps, the rate the straps select and the
model's free-choice counter. No RESTARTED record is written. The values of the reset state that the spec gives no cold
start are the model's choices (log 4 to 7). Rests on 11_supply_retention_and_start_up.md, sections 11.2 and 11.4. -/
def Obligations.EveryColdStartGivesTheResetState : Prop :=
  ∀ s : State, s.supply.checkValid = false →
    let cold (pin : Bool) : State := { State.reset with
      pending := s.pending
      supply := { State.reset.supply with cellLow := s.supply.cellBelow, cellBelow := s.supply.cellBelow, pinLow := pin }
      port := { State.reset.port with
        strapHigh0 := s.port.strapHigh0
        strapHigh1 := s.port.strapHigh1
        rate := rateOf s.port.strapHigh1 s.port.strapHigh0 }
      choices := s.choices }
    (s.part = .retention → s.supply.pinLow = false → exec .supplyRestore s = .next (cold false)) ∧
    (s.part = .held ∨ s.part = .retention ∧ s.supply.restoreWaiting = true →
      exec .resetPinRelease s = .next (cold false)) ∧
    (∀ f, s.port.sending = some f → f.isReply = true → s.port.service.any (·.restarts) = true →
      exec .frameSent s = .next (cold s.supply.pinLow))

/-- LOAD_COMPLETE in LOADING with both banks judged bad enters UNCONFIGURED with the first bank's judgement as the
cause, and leaves retention memory as the start found it. The bank taken is the one GOOD bank, or of two the one whose
store count is newer, the first when the counts are equal; at a distance of exactly 2^31 the model takes the first
(log 30). The bank copies shown during loading and the free-choice counter are the model's (log 6, log 14). A memory
that does not answer is judged NO_MEMORY; a bank whose identifier, version or body length is not that of Table 10.14,
or whose body ends inside a value, the keys or an enrolment record, is judged FORMAT, ahead of CHECK (log 28 DEDUCED);
so is one of fewer than 16 bytes or whose body is not all there, a judgement that is the model's choice (log 26 DESIGN
CHOICE); any other whose header check or body check is not that of its bytes is judged CHECK. Of the rest, one with an
enrolment record that Table 2.2 refuses, with two records naming one address or one point, or with a SUITE_INNER or
MINIBAR record whose entry point is no ROOM_ENTRY record of the image is judged CHECK, and every other is GOOD: it
gives each value clamped into its range of Table 11.2 at both ends, the default of each that the body ends before,
zero keys where it ends before them, and its records as enrolments in ascending address, clamped saying that a value
lay outside its range. Every 16 bytes or more are an image's fields, and every body that ends well is some values,
keys and records. Rests on 11_supply_retention_and_start_up.md, section 11.3, 10_the_desk_link.md, Tables 10.14, 10.15
and 10.17, 02_lock_nodes_and_their_life_on_the_line.md, Table 2.2. -/
def Obligations.UnusableBanksLeaveThePartUnconfigured : Prop :=
  (∀ (b1 b2 : Option (List Byte)) (c1 c2 : Cause) (s : State), s.part = .loading → judgeBank b1 = .error c1 →
    judgeBank b2 = .error c2 →
    exec (.loadComplete b1 b2) s = .next { s with
      part := .unconfigured
      loader := { s.loader with bank1 := b1, bank2 := b2, recent := none, cause := c1 }
      choices := s.choices + 1 }) ∧
  (∀ (b1 b2 : Option (List Byte)) (l1 l2 : Loaded) (c : Cause), judgeBank b1 = .ok l1 →
    (judgeBank b2 = .error c →
      chooseBank b1 b2 = some (⟨.first, bankCount b1⟩, l1) ∧ chooseBank b2 b1 = some (⟨.second, bankCount b1⟩, l1)) ∧
    (judgeBank b2 = .ok l2 → sub32 (bankCount b2) (bankCount b1) = 0 →
      chooseBank b1 b2 = some (⟨.first, bankCount b1⟩, l1)) ∧
    (judgeBank b2 = .ok l2 → 1 ≤ sub32 (bankCount b2) (bankCount b1) →
      sub32 (bankCount b2) (bankCount b1) < 2147483648 → chooseBank b1 b2 = some (⟨.second, bankCount b2⟩, l2)) ∧
    (judgeBank b2 = .ok l2 → 2147483648 ≤ sub32 (bankCount b2) (bankCount b1) →
      chooseBank b1 b2 = some (⟨.first, bankCount b1⟩, l1))) ∧
  judgeBank none = .error .noMemory ∧ (∀ img : List Byte, img.length < 16 → judgeBank (some img) = .error .format) ∧
  (∀ img : List Byte, 16 ≤ img.length → ∃ i : RawImage, i.bytes = img) ∧
  (∀ body : List Byte, bodyEndsWell body.length → ∃ b : RawBody, b.cutTo body) ∧
  ∀ i : RawImage,
    let v := judgeBank (some i.bytes)
    let whole := i.FormatOk ∧ i.length.toNat ≤ i.rest.length ∧ bodyEndsWell i.length.toNat
    (¬ whole → v = .error .format) ∧
    (whole → ¬ (i.HeaderOk ∧ i.BodyOk) → v = .error .check) ∧
    ∀ b : RawBody, whole → i.HeaderOk → i.BodyOk → b.cutTo i.body →
      (¬ b.Good → v = .error .check) ∧ (b.Good → ∃ l, v = .ok l ∧ b.Gives i.length.toNat l)

/-- From LOADING, with lines OFF, no round, every node ABSENT and addresses ascending, LOAD_COMPLETE with a bank taken
reaches RUNNING, whatever order the blocks act in: the settings are those loaded and the node table enrols exactly the
image's addresses with their fields, every node ABSENT. An address whose enrolment copy holds the image's point,
class, entry point and compartment count keeps all but its enrolment fields, its session ending only with a folio that
is discarded; any other gets the values of enrolment, nothing latched (log 24), a ROOM_ENTRY node with a fresh room
record and CLOSED folio. A room whose node is not so retained loses its record, its folio and its pending guest
encodings. Every credential stands but those encodings and the lapsed ones, whose numbers go to the end of the free
list; so do the retired order, the list, its generation and changes; every other room record and folio stands but for
its lines that are due or of a minibar that leaves, committed to it; these and the lines of the rooms that leave go
from the pool, no other. The journal takes LINE_STATE TRAINING for each line, CARD_LAPSED for each encoding returned,
MINIBAR_CHARGE for each line committed, DECISION_LATE at most where a directive was queued, in an order the model
leaves open (log 14), and nothing else, so no NODE_STATE. Both lines are TRAINING with retrain count 4 and their
changes make LINE_CHANGE ready once, with the states at the first that comes after the entry into RUNNING, or not at
all where it is disarmed or both come before (an order the model leaves open, log 14); the mark stands one round
length ahead; STARTED with the start kind is among the outgoing frames; all else stands. Rests on
11_supply_retention_and_start_up.md, section 11.3, 02_lock_nodes_and_their_life_on_the_line.md, section 2.7,
03_wing_time_and_node_clocks.md, section 3.1, 01_the_lock_line.md, sections 1.1 and 1.7,
05_stays_floors_and_revocation.md, sections 5.1 and 5.6, 08_minibars_and_folios.md, sections 8.1 and 8.4 to 8.6,
04_credentials_and_card_issue.md, section 4.9, 10_the_desk_link.md, section 10.5. -/
def Obligations.LoadedPartReachesRunning : Prop :=
  ∀ (b1 b2 : Option (List Byte)) (recent : Recent) (l : Loaded) (s : State), s.part = .loading →
    s.lines.lineA.st = .off → s.lines.lineB.st = .off → s.lines.round = none →
    s.nodes.Pairwise (fun m n => m.addr < n.addr) → (∀ n ∈ s.nodes, n.st = .absent) →
    chooseBank b1 b2 = some (recent, l) →
    ∃ t : State, exec (.loadComplete b1 b2) s = .next t ∧ ReachedRunning l s t ∧
      t.loader = { s.loader with
        settings := l.settings, recent := some recent, bank1 := b1, bank2 := b2, cause := .none }


/-- With a store in flight, STORE_COMPLETE with the written bank reading back the image makes the last store result
OK, updates that bank's copy and makes that image the one most recently stored; otherwise the result is FAILED, and
both bank copies and the image most recently stored stand (the model's choice, log 48). The store-in-progress flag
clears either way. With none in flight nothing changes (the model's choice for a row whose event cannot arise, log
12). The comparison on the image's length is the model's reading (log 26). Rests on
11_supply_retention_and_start_up.md, section 11.5. -/
def Obligations.StoreCompletionReadsTheBankBack : Prop :=
  ∀ (readBack : Option (List Byte)) (s : State),
    (s.loader.store = none → exec (.storeComplete readBack) s = .next s) ∧
    (∀ (j : StoreJob) (b : List Byte), s.loader.store = some j → readBack = some b → b.take j.image.length = j.image →
      (j.bank = .first → exec (.storeComplete readBack) s = .next { s with loader := { s.loader with
        store := none, lastStore := .ok, bank1 := some j.image, recent := some ⟨.first, j.count⟩ } }) ∧
      (j.bank = .second → exec (.storeComplete readBack) s = .next { s with loader := { s.loader with
        store := none, lastStore := .ok, bank2 := some j.image, recent := some ⟨.second, j.count⟩ } })) ∧
    (∀ j : StoreJob, s.loader.store = some j → (∀ b, readBack = some b → b.take j.image.length ≠ j.image) →
      exec (.storeComplete readBack) s
        = .next { s with loader := { s.loader with store := none, lastStore := .failed } })

/-- In RUNNING and UNCONFIGURED: an offset that is neither 0 nor the fill count, or an image judged bad, is refused
with BAD_FIELD and the staging image stands; an incomplete image is held and answered OK with the fill count. In
RUNNING a complete one whose implied withdrawals are refused is refused with WRONG_STATE; otherwise the settings take
its values (the old current key becoming previous when the key changes), the staging image is emptied and the
enrolment becomes the image's: an address enrolled alike before and after keeps its record but for its enrolment
fields and a session that ends with a folio withdrawn, with FALLBACK_PARAMS latched where hours, flag or local offset
differ, and its room record; any other is created as by ENROLL_NODE, a ROOM_ENTRY node with a CLOSED folio at the new
default ceiling (the model's choice, log 43); NODE_STATE records stand first for the withdrawals, then for the
enrolments, ROOM_ENTRY nodes first, each in ascending address, and either raises NODE_CHANGE. In UNCONFIGURED a
complete image, from any segment that completes it, brings the part to RUNNING with the start work of a load done,
nothing latched by an enrolment taken up so (log 24). Of fewer than 16 bytes an image is incomplete; with a header of
another identifier, version or length, a header check that is not its own, or more bytes than its length it is refused
as soon as 16 are held; short of its length it is incomplete; complete with a body check that is not its own, a body
that ends inside a value, the keys or a record, or records that fail 11:R195 it is refused, and otherwise gives the
clamped values and enrolments. An implied withdrawal is refused exactly for a ROOM_ENTRY node not enrolled alike whose
point another address of the image names as entry point, whose folio is OPEN or which a live GUEST credential names.
Rests on 11_supply_retention_and_start_up.md, sections 11.3 and 11.5, 02_lock_nodes_and_their_life_on_the_line.md,
sections 2.2 and 2.7, 05_stays_floors_and_revocation.md, section 5.1, 08_minibars_and_folios.md, section 8.5,
03_wing_time_and_node_clocks.md, section 3.1, 10_the_desk_link.md, Tables 10.14, 10.15 and 10.17. -/
def Obligations.LoadSettingsStagesAndApplies : Prop :=
  (∀ (tag : Byte) (body : List Byte) (s : State), 4 ≤ body.length → body.length ≤ 1024 → s.port.service = none →
    s.part = .running ∨ s.part = .unconfigured →
    (u32At body 0 ≠ 0 → u32At body 0 ≠ s.loader.staging.length →
      exec (.loadSettings tag body) s = .next (s.answer 0x03 tag false (.plain .badField))) ∧
    (∀ img, img = (if u32At body 0 = 0 then body.drop 4 else s.loader.staging ++ body.drop 4) →
      (u32At body 0 = 0 ∨ u32At body 0 = s.loader.staging.length) →
      (judgeStaged img = .refused →
        exec (.loadSettings tag body) s = .next (s.answer 0x03 tag false (.plain .badField))) ∧
      (judgeStaged img = .incomplete → exec (.loadSettings tag body) s
        = .next ({ s with loader := { s.loader with staging := img } }.answer 0x03 tag false
            ⟨.ok, le16 img.length⟩)) ∧
      (∀ l, s.part = .running → judgeStaged img = .complete l → s.loadRefused l.enrolments = true →
        exec (.loadSettings tag body) s = .next (s.answer 0x03 tag false (.plain .wrongState))) ∧
      (∀ l, s.part = .running → judgeStaged img = .complete l → s.loadRefused l.enrolments = false →
        ∃ u : State, exec (.loadSettings tag body) s
            = .next (u.answer 0x03 tag false ⟨if l.clamped then .clamped else .ok, le16 0⟩) ∧
          u.loader = { s.loader with
            staging := []
            settings := { l.settings with
              previousKey := if l.settings.currentKey = s.settings.currentKey then s.settings.previousKey
                             else s.settings.currentKey } } ∧
          (s.nodes.Pairwise (fun m n => m.addr < n.addr) → (∀ n ∈ s.nodes, n.copy = n.enrol.copy) →
            u.enrolled = l.enrolments ∧
            (∀ r ∈ l.enrolments, ∀ n ∈ s.nodes, n.enrolledAlike r →
              (∃ m, u.node? r.addr = some m ∧ n.keepsSession l.enrolments s m ∧ m = { n with
                enrol := r.enrol
                latchFallback := n.latchFallback || decide (n.enrol.oos ≠ r.enrol.oos ∨ n.enrol.hours ≠ r.enrol.hours ∨
                  l.settings.localOffset ≠ s.settings.localOffset)
                session := m.session }) ∧
              (s.EnrolmentLaw → r.enrol.cls = .roomEntry → u.room? r.enrol.point = s.room? r.enrol.point)) ∧
            (∀ r ∈ l.enrolments, (∀ n ∈ s.nodes, ¬ n.enrolledAlike r) →
              u.node? r.addr = some (enrolledNode r s.revoc.gen true) ∧
              (r.enrol.cls = .roomEntry →
                u.room? r.enrol.point = some ⟨r.enrol.point, 0, 1, [⟨1, s.now⟩], true⟩ ∧
                u.folio? r.enrol.point = some ⟨r.enrol.point, false, 0, l.settings.defaultCeiling, 0, none⟩)) ∧
            (let alike (n : Node) (r : EnrolReq) : Bool := r.addr == n.addr && r.enrol.copy == n.copy
             let left := s.nodes.filter (fun n => !l.enrolments.any (alike n))
             let fresh := l.enrolments.filter (fun r => !s.nodes.any (fun n => alike n r))
             let ordered := fresh.filter (fun r => r.enrol.cls == .roomEntry)
               ++ fresh.filter (fun r => r.enrol.cls != .roomEntry)
             let moved (a p : Nat) (d : Detail) : Nat × Entry :=
               (s.now, { kind := .nodeState, node := some a, point := some p, detail1 := some d })
             (∃ es, u.journal = s.journal.pushAll es ∧
               es.filter (fun e => e.2.kind == .nodeState) = left.map (fun n => moved n.addr n.enrol.point .withdrawn)
                 ++ ordered.map (fun r => moved r.addr r.enrol.point (.nodeState .absent)) ∧
               ∀ e ∈ es, e.2.kind = .nodeState ∨ e.2.kind = .decisionLate ∨ e.2.kind = .minibarCharge) ∧
             (left ≠ [] ∨ fresh ≠ [] → u.port.arm.nodeChange = false) ∧
             (left = [] → fresh = [] → u.port = s.port ∧ u.lines = s.lines))) ∧
          Port.noticesOnly s.port u.port ∧
          u = { s with loader := u.loader, lines := u.lines, nodes := u.nodes, revoc := u.revoc,
                       minibar := u.minibar, journal := u.journal, port := u.port }) ∧
      (∀ l, s.part = .unconfigured → judgeStaged img = .complete l →
        ∃ u : State, exec (.loadSettings tag body) s
            = .next (u.answer 0x03 tag false ⟨if l.clamped then .clamped else .ok, le16 0⟩) ∧
          u.part = .running ∧ u.settings = l.settings ∧ u.loader.staging = [] ∧
          OutFrame.notice 0x60 [byteOf s.supply.startKind.code] ∈ u.port.frames ∧
          (s.lines.lineA.st = .off → s.lines.lineB.st = .off → s.lines.round = none →
            s.nodes.Pairwise (fun m n => m.addr < n.addr) → (∀ n ∈ s.nodes, n.st = .absent) →
            ReachedRunning l s u)))) ∧
  (∀ img : List Byte, img.length < 16 → judgeStaged img = .incomplete) ∧
  (∀ i : RawImage,
    let v := judgeStaged i.bytes
    let header := i.FormatOk ∧ i.HeaderOk ∧ i.rest.length ≤ i.length.toNat
    (¬ header → v = .refused) ∧
    (header → i.rest.length < i.length.toNat → v = .incomplete) ∧
    (header → i.rest.length = i.length.toNat →
      (¬ (i.BodyOk ∧ bodyEndsWell i.length.toNat) → v = .refused) ∧
      (i.BodyOk → bodyEndsWell i.length.toNat → ∀ b : RawBody, b.cutTo i.rest →
        (¬ b.Good → v = .refused) ∧ (b.Good → ∃ l, v = .complete l ∧ b.Gives i.length.toNat l)))) ∧
  ∀ (es : List EnrolReq) (s : State), s.loadRefused es = true ↔ ∃ n ∈ s.nodes, (∀ r ∈ es, ¬ n.enrolledAlike r) ∧
    n.enrol.cls = .roomEntry ∧
    ((∃ r ∈ es, r.addr ≠ n.addr ∧ r.enrol.entry = some n.enrol.point) ∨
     (∃ f, s.folio? n.enrol.point = some f ∧ f.isOpen = true) ∨
     ∃ c ∈ s.store.recs, c.st.live = true ∧ c.guestOf n.enrol.point = true)

/-- PING with at most 16 body bytes, in LOADING, UNCONFIGURED or RUNNING and with no command in service, is answered
OK with the body followed by the part state byte 0, 1 or 2, and changes and re-arms nothing; with more bytes it is
refused with BAD_LENGTH; in RETENTION and HELD it is not served. Rests on R190. -/
def Obligations.PingEchoesItsBody : Prop :=
  ∀ (tag : Byte) (body : List Byte) (s : State),
    (s.part = .retention ∨ s.part = .held → exec (.ping tag body) s = .next s) ∧
    (s.port.service = none →
      (body.length ≤ 16 →
        (s.part = .loading → exec (.ping tag body) s = .next (s.answer 0x01 tag false ⟨.ok, body ++ [0]⟩)) ∧
        (s.part = .unconfigured → exec (.ping tag body) s = .next (s.answer 0x01 tag false ⟨.ok, body ++ [1]⟩)) ∧
        (s.part = .running → exec (.ping tag body) s = .next (s.answer 0x01 tag false ⟨.ok, body ++ [2]⟩))) ∧
      (16 < body.length → s.part ≠ .retention → s.part ≠ .held →
        exec (.ping tag body) s = .next (s.answer 0x01 tag false (.plain .badLength))))

/-- With no command in service: GET_STATUS in LOADING, UNCONFIGURED and RUNNING replies the fields of Table 10.16 (the
store count's bytes zero where there is none, the model's choice, log 40) and changes nothing; READ_SETTINGS in
RUNNING and UNCONFIGURED returns the bytes asked for of the running image, in RUNNING, or of the image in a bank copy
(the whole copy where its bytes give no whole image, the model's choice, log 44) and changes nothing; in UNCONFIGURED
the running image is refused with WRONG_STATE (ahead of BAD_FIELD for an offset beyond it, the model's choice of the
order, log 46 DESIGN CHOICE), an empty bank with NOT_FOUND and another source with BAD_FIELD; STORE_SETTINGS in
RUNNING starts one store, count raised by 1, in the bank not most recently stored, and is BUSY during one; RESTART is
answered OK and takes effect when that reply has been sent. The order of the enrolment records in the running image is
the model's choice (log 49). Rests on 11_supply_retention_and_start_up.md, sections 11.4 to 11.6, 10_the_desk_link.md,
Table 10.16. -/
def Obligations.SettingsCommandsReadAndStore : Prop :=
  ∀ (tag : Byte) (s : State), s.port.service = none →
    (s.lineOff = false → exec (.getStatus tag []) s = .next (s.answer 0x02 tag false ⟨.ok,
      [byteOf s.part.code, byteOf s.supply.startKind.code, byteOf s.loader.cause.code, flagByte s.loader.store.isSome,
       byteOf s.loader.lastStore.code, flagByte s.loader.recent.isSome]
        ++ le32 ((s.loader.recent.map (·.count)).getD 0) ++ [flagByte s.time.isSet] ++ le32 s.time.secs
        ++ le16 s.time.epoch ++ [flagByte s.supply.cellLow] ++ le16 s.revoc.rekeys⟩)) ∧
    (∀ (source count : Byte) (offset : Nat) (img : List Byte), s.part = .running ∨ s.part = .unconfigured → count ≠ 0 → offset < 65536 →
      offset < img.length →
      (source = 0 ∧ s.part = .running ∧ img = s.runningImage ∨ ∃ copy, (source = 1 ∧ s.loader.bank1 = some copy
          ∨ source = 2 ∧ s.loader.bank2 = some copy) ∧
        (headerFormatOk copy = true ∧ 16 + headerLength copy ≤ copy.length ∧ img = copy.take (16 + headerLength copy)
          ∨ ¬ (headerFormatOk copy = true ∧ 16 + headerLength copy ≤ copy.length) ∧ img = copy)) →
      exec (.readSettings tag (source :: le16 offset ++ [count])) s
        = .next (s.answer 0x04 tag false ⟨.ok, le16 img.length ++ (img.drop offset).take count.toNat⟩)) ∧
    (∀ (count : Byte) (offset : Nat), s.part = .running ∨ s.part = .unconfigured → count ≠ 0 → offset < 65536 →
      let reads (source : Byte) (st : Status) : Prop :=
        exec (.readSettings tag (source :: le16 offset ++ [count])) s = .next (s.answer 0x04 tag false (.plain st))
      (s.part = .unconfigured → reads 0 .wrongState) ∧
      (s.loader.bank1 = none → reads 1 .notFound) ∧ (s.loader.bank2 = none → reads 2 .notFound) ∧
      (∀ source : Byte, 2 < source.toNat → reads source .badField)) ∧
    (s.part = .running → s.loader.store = none →
      let job : StoreJob := ⟨match s.loader.recent with | some ⟨.first, _⟩ => .second | _ => .first, s.runningImage,
        match s.loader.recent with | some r => (r.count + 1) % 4294967296 | none => 1⟩
      exec (.storeSettings tag []) s
        = .next ({ s with loader := { s.loader with store := some job } }.answer 0x05 tag false (.plain .ok))) ∧
    (s.part = .running → s.loader.store ≠ none →
      exec (.storeSettings tag []) s = .next (s.answer 0x05 tag false (.plain .busy))) ∧
    (s.lineOff = false → exec (.restart tag []) s = .next (s.answer 0x06 tag true (.plain .ok)))

/-- SET_TIME in RUNNING is answered OK: wing seconds take the value carried, the epoch rises by 1 modulo 65,536, the
time-set flag is set, TIME_STEP is journaled EXACT at the new value with the old value, and FALLBACK_PARAMS is latched
for every enrolled node. The tick counter, the mark, every drift span and anchor and all other state are unaffected,
so a value already held is a step too. A round start taken after it gives a header with the new wing seconds and no
time-unset flag; one taken before it a header with the old value and the flag as it was. An anchor of the old epoch
then fails the upload check, and a record of that upload is UNRELIABLE. Rests on R48. -/
def Obligations.SetTimeStepsWingTime : Prop :=
  ∀ (tag : Byte) (v : Nat) (s : State), s.takes → v < 4294967296 →
    let header (w : State) (secs : Nat) (unset : Bool) : Prop := ∃ (t : State) (r : Round), exec .roundStart w = .next t ∧
      t.lines.round = some r ∧ r.secs = secs ∧ r.timeUnset = unset
    header s s.time.secs (!s.time.isSet) ∧
    ∃ u : State, header (u.answer 0x08 tag false (.plain .ok)) v false ∧
      exec (.setTime tag (le32 v)) s = .next (u.answer 0x08 tag false (.plain .ok)) ∧
      u.time = { s.time with secs := v, epoch := (s.time.epoch + 1) % 65536, isSet := true } ∧
      u.journal = s.journal.push v { kind := .timeStep, quality := .exact, secs := some v, value1 := some s.time.secs } ∧
      u.nodes = s.nodes.map (fun n => { n with latchFallback := true }) ∧
      (∀ n ∈ u.nodes, ∀ (x : Anchor) (s1 w1 : Nat), n.clock.anchor = some x → x.epoch = s.time.epoch →
        s.time.epoch < 65536 → (n.clock.takeMark s1 w1 u.time.epoch).disc = true ∧
        ∀ stamp : Nat, (n.clock.takeMark s1 w1 u.time.epoch).timeOf n.clock stamp = .unreliable w1) ∧
      Port.noticesOnly s.port u.port ∧
      u = { s with time := u.time, journal := u.journal, nodes := u.nodes, port := u.port }

/-- SECOND_EVENT raises wing seconds by 1 at the next multiple of 32,768 ticks, or where the tick counter stands when
a round start has reached the boundary first. In RUNNING, from partitioned slots and no two charge lines naming one
compartment, exactly the encodings whose lapse time is reached are returned to the tail of the free list, in ascending
number (the model's choice, log 22), and exactly the charge lines whose deadline is reached are committed, in pool
order, each folio's balance rising and its pending total falling; their CARD_LAPSED and MINIBAR_CHARGE records stand
the ones before the others, either first (log 14). When the time is set and the new value is a multiple of 60, exactly
the ISSUED, ACTIVE and SUSPENDED credentials whose valid end has passed become EXPIRED and enter the retired order,
and exactly the list entries whose retire_at has passed are removed, each with its REMOVE change; of the node table
only what removed entries do to caches changes. Otherwise neither unit acts. Outside RUNNING only the time and the
port's receive timeout, measured over the ticks passed, change. The row's move of the tick counter to the boundary,
and the count of boundaries owed, are the model's (log 9). Rests on 03_wing_time_and_node_clocks.md, section 3.1,
04_credentials_and_card_issue.md, sections 4.5 and 4.7, 05_stays_floors_and_revocation.md, section 5.2,
08_minibars_and_folios.md, section 8.4, 10_the_desk_link.md, section 10.2, 05_stays_floors_and_revocation.md, section
5.3. -/
def Obligations.SecondEventLeavesNothingDue : Prop :=
  ∀ s : State, s.time.begun = false →
    let time : TimeBase := { s.time with
      tick := if s.time.owed = 0 then (s.time.tick / 32768 + 1) * 32768 % 281474976710656 else s.time.tick
      secs := (s.time.secs + 1) % 4294967296
      owed := s.time.owed - 1 }
    let quiet (u : State) : State := if s.time.owed = 0 then u.quietFor (32768 - s.time.tick % 32768) else u
    (s.part ≠ .running → exec .secondEvent s = .next (quiet { s with time := time })) ∧
    (s.part = .running → ∃ v t : State, exec .secondEvent s = .next t ∧
      (s.store.Law → s.minibar.pool.Pairwise (fun l m => ¬ (l.node = m.node ∧ l.comp = m.comp)) →
        let lapsed := s.store.recs.filter (fun c => c.lapsed time.secs)
        let due := s.minibar.pool.filter (fun l => l.deadline ≤ time.secs)
        let lapses : List (Nat × Entry) := lapsed.map (fun c => (time.secs,
          { kind := .cardLapsed, cred := some c.number, serial := some c.serial, detail1 := some (.cause .lapsed) }))
        let charges : List (Nat × Entry) := due.map (fun l => (time.secs,
          { kind := .minibarCharge, node := some l.node, point := s.pointOf l.node, amount := some l.amount,
            value1 := some l.comp, value2 := some l.count }))
        v.store = { s.store with
          recs := s.store.recs.filter (fun c => !c.lapsed time.secs), free := s.store.free ++ lapsed.map Cred.number } ∧
        v.minibar.pool = s.minibar.pool.filter (fun l => !decide (l.deadline ≤ time.secs)) ∧
        (∀ p, v.folio? p = (s.folio? p).map (fun f => (due.filter (fun l => l.folio == p)).foldl (fun g l =>
          { g with balance := min 9999999 (g.balance + l.amount), pendingTotal := g.pendingTotal - l.amount }) f)) ∧
        (v.journal = s.journal.pushAll (lapses ++ charges) ∨ v.journal = s.journal.pushAll (charges ++ lapses))) ∧
      Port.noticesOnly (quiet s).port v.port ∧
      v = { s with time := time, store := v.store, minibar := v.minibar, journal := v.journal, port := v.port
                   choices := v.choices } ∧
      (¬ (s.time.isSet = true ∧ time.secs % 60 = 0) → t = v) ∧
      (s.time.isSet = true → time.secs % 60 = 0 →
        (s.store.Law → CredsExpired time.secs v t) ∧ EntriesRetired time.secs v t ∧
        CachesTouched (fun _ => false) v t ∧
        (∀ c ∈ t.store.recs, c.st.current = true → time.secs ≤ c.validEnd) ∧
        (∀ e ∈ t.revoc.entries, time.secs ≤ e.retireAt) ∧
        t = { v with nodes := t.nodes, store := t.store, revoc := t.revoc }) ∧
      (∀ c ∈ t.store.recs, c.lapsed time.secs = false) ∧ (∀ l ∈ t.minibar.pool, time.secs < l.deadline))


/-- In RUNNING with no second event begun, let u be the state with the coming second boundary reached, the receive
timeout measured on the way (one that a round start has reached first, where the counter stands, log 9).
ENCODING_LAPSE of an encoding whose lapse time is reached makes its slot VACANT at the tail of the free list and
journals CARD_LAPSED with LAPSED; CHARGE_DEADLINE of a line whose deadline is reached commits the due lines ahead of
it in the pool, in pool order, and then it; MINUTE_SWEEP with the time set and the new wing seconds a multiple of 60
makes, from partitioned slots, exactly the ISSUED, ACTIVE and SUSPENDED credentials whose valid end lies below them
EXPIRED, with retired_at equal to the valid end, entering the retired order, every other slot and the free list
standing, and removes exactly the list entries whose retire_at lies below them, each with its REMOVE change; it writes
no record, and of the node table changes only what removed entries do to caches. That each row takes its part of the
coming event alone is the model's choice (log 11). Rests on 03_wing_time_and_node_clocks.md, section 3.1,
04_credentials_and_card_issue.md, sections 4.5 and 4.7, 08_minibars_and_folios.md, section 8.4,
05_stays_floors_and_revocation.md, sections 5.2 and 5.3. -/
def Obligations.SecondEventPartsActAlone : Prop :=
  ∀ s : State, s.part = .running → s.time.begun = false →
    let u₀ : State := { s with time := { s.time with
      tick := if s.time.owed = 0 then (s.time.tick / 32768 + 1) * 32768 % 281474976710656 else s.time.tick
      secs := (s.time.secs + 1) % 4294967296
      owed := s.time.owed - 1
      begun := true } }
    let u : State := if s.time.owed = 0 then u₀.quietFor (32768 - s.time.tick % 32768) else u₀
    (∀ (k : U16) (c : Cred) (lapse : Nat), s.cred? k.toNat = some c → c.st = .encoding lapse → lapse ≤ u.now →
      ∃ t : State, exec (.encodingLapse k) s = .next t ∧ t.cred? k.toNat = none ∧
        (∀ j, j ≠ k.toNat → t.cred? j = s.cred? j) ∧ t.store.free = s.store.free ++ [k.toNat] ∧
        t.store.retired = s.store.retired ∧
        t.journal = s.journal.push u.now { kind := .cardLapsed, cred := some k.toNat, serial := some c.serial,
                                           detail1 := some (.cause .lapsed) } ∧
        Port.noticesOnly u.port t.port ∧ t = { u with store := t.store, journal := t.journal, port := t.port }) ∧
    (∀ (node comp : Byte) (l : ChargeLine) (ahead behind : List ChargeLine), s.minibar.pool = ahead ++ l :: behind →
      (∀ x ∈ ahead, ¬ (x.node = node.toNat ∧ x.comp = comp.toNat)) → l.node = node.toNat → l.comp = comp.toNat →
      l.deadline ≤ u.now →
      exec (.chargeDeadline node comp) s
        = .next ((ahead.filter (fun x => x.deadline ≤ u.now) ++ [l]).foldl (fun t x => t.commitLine x) u)) ∧
    (s.time.isSet = true → u.now % 60 = 0 → ∃ t : State, exec .minuteSweep s = .next t ∧
      (s.store.Law → CredsExpired u.now u t) ∧ EntriesRetired u.now u t ∧
      (∀ c ∈ t.store.recs, c.st.current = true → t.now ≤ c.validEnd) ∧
      (∀ e ∈ t.revoc.entries, t.now ≤ e.retireAt) ∧
      CachesTouched (fun _ => false) u t ∧ t = { u with nodes := t.nodes, store := t.store, revoc := t.revoc })

/-- At the commit of a line the pool loses that compartment's line alone, the folio's balance rises by the amount,
stopping at 9,999,999, its pending total falls by it, and MINIBAR_CHARGE is journaled. A REMOVED item of a MINIBAR
node, compartment in its count, lowers the stock to no less than 0 and charges the GUEST session's folio, or outside a
session the entry point's OPEN folio after UNATTENDED_REMOVAL: the compartment's line rises to at most 15 items, or a
new line joins the tail, a full pool first committing its head, or with a return window of 0 the balance rises at
once; FOLIO_HELD is journaled when the folio becomes held. A RETURNED item raises the stock to at most the capacity
and lowers or cancels the line, or without one journals RETURN_AFTER_COMMIT. Each clamp of stock journals
STOCK_ANOMALY. In a RESTOCK session only stock moves. MINIBAR_CLOSED ends the session. Other items, counts of 0 and
compartments outside the count change nothing. A session opens with its mode, and in mode GUEST only with an OPEN
folio. Rests on 08_minibars_and_folios.md, sections 8.2 to 8.5, 02_lock_nodes_and_their_life_on_the_line.md, section
2.4. -/
def Obligations.MinibarItemsAndCommitsMoveStockAndLines : Prop :=
  (∀ (l : ChargeLine) (f : Folio) (s : State), s.folio? l.folio = some f →
    let t := s.commitLine l
    t.minibar.pool = s.minibar.pool.filter (fun m => !(m.node == l.node && m.comp == l.comp)) ∧
    t.folio? l.folio = some { f with balance := min 9999999 (f.balance + l.amount),
                                     pendingTotal := f.pendingTotal - l.amount } ∧
    (∀ p, p ≠ l.folio → t.folio? p = s.folio? p) ∧
    t.journal = s.journal.push s.now
      { kind := .minibarCharge, node := some l.node, point := s.pointOf l.node, amount := some l.amount,
        value1 := some l.comp, value2 := some l.count } ∧
    Port.noticesOnly s.port t.port ∧
    t = { s with minibar := t.minibar, journal := t.journal, port := t.port }) ∧
  (∀ (a : Nat) (c k : Byte) (n : Node) (s : State), s.node? a = some n →
    (n.enrol.cls ≠ .minibar →
      s.item a (.removed c k) = s ∧ s.item a (.returned c k) = s ∧ s.item a .minibarClosed = s) ∧
    (c.toNat = 0 ∨ n.enrol.comps.getD 0 < c.toNat ∨ k.toNat = 0 →
      s.item a (.removed c k) = s ∧ s.item a (.returned c k) = s) ∧
    (n.enrol.cls = .minibar → (s.item a .minibarClosed).node? a = some { n with session := none } ∧
      (∀ b, b ≠ a → (s.item a .minibarClosed).node? b = s.node? b) ∧
      s.item a .minibarClosed = { s with nodes := (s.item a .minibarClosed).nodes })) ∧
  (∀ (a : Nat) (c k : Byte) (n : Node) (box : Compartment) (s : State), s.node? a = some n →
    n.enrol.cls = .minibar → n.enrol.comps = some n.comps.length → 1 ≤ c.toNat → n.comps[c.toNat - 1]? = some box →
    k.toNat ≠ 0 →
    let entry (kind : RecKind) : Nat × Entry :=
      (s.now, { kind := kind, node := some a, point := some n.enrol.point, value1 := some c.toNat })
    let counted (kind : RecKind) : Nat × Entry :=
      (s.now, { (entry kind).2 with value2 := some k.toNat })
    let anomaly (clamped : Bool) : List (Nat × Entry) := if clamped then [entry .stockAnomaly] else []
    let stocked (u : State) (stock : Nat) : Prop :=
      u.node? a = some { n with comps := n.comps.set (c.toNat - 1) { box with stock := stock } } ∧
      (∀ b, b ≠ a → u.node? b = s.node? b) ∧ Port.noticesOnly s.port u.port ∧
      u = { s with nodes := u.nodes, minibar := u.minibar, journal := u.journal, port := u.port }
    let held (p : Nat) (u : State) : List (Nat × Entry) :=
      match s.folio? p, u.folio? p with
      | some f, some g =>
        if (f.isOpen = true → f.balance + f.pendingTotal < f.ceiling) ∧ g.isOpen = true
            ∧ g.ceiling ≤ g.balance + g.pendingTotal then
          [(s.now, { kind := .folioHeld, point := some p, node := (s.roomNode? p).map Node.addr,
                     amount := some (min 9999999 (g.balance + g.pendingTotal)) })]
        else []
      | _, _ => []
    (let u := s.item a (.removed c k)
      let es := anomaly (decide (box.stock < k.toNat))
        ++ (if n.session.isNone then [counted .unattendedRemoval] else [])
      let entryFolio : Option Nat := n.enrol.entry.bind (fun p =>
        if (s.folio? p).any (fun f => f.isOpen) then some p else none)
      let payer : Option Nat := match n.session with
        | some x => if x.mode = .guest then x.folio else none
        | none => entryFolio
      let fresh (p : Nat) : ChargeLine := ⟨p, a, c.toNat, box.item, min 15 k.toNat, box.price * min 15 k.toNat, s.now,
        s.now + s.settings.returnWindow⟩
      stocked u (box.stock - k.toNat) ∧
      (payer = none → u.minibar = s.minibar ∧ u.journal = s.journal.pushAll es) ∧
      (∀ p f, payer = some p → s.folio? p = some f →
        (∀ l, s.lineFor? a c.toNat = some l → l.folio = p →
          let m : ChargeLine := { l with count := min 15 (l.count + k.toNat), amount := box.price * min 15 (l.count + k.toNat) }
          u.minibar.pool = s.minibar.pool.map (fun x => if x.node = a ∧ x.comp = c.toNat then m else x) ∧
          u.folio? p = some { f with pendingTotal := f.pendingTotal + m.amount - l.amount } ∧
          (∀ q, q ≠ p → u.folio? q = s.folio? q) ∧ u.journal = s.journal.pushAll (es ++ held p u)) ∧
        (s.lineFor? a c.toNat = none → s.settings.returnWindow = 0 →
          u.minibar.pool = s.minibar.pool ∧
          u.folio? p = some { f with balance := min 9999999 (f.balance + (fresh p).amount) } ∧
          (∀ q, q ≠ p → u.folio? q = s.folio? q) ∧
          u.journal = s.journal.pushAll (es
            ++ [(s.now,
              { (entry .minibarCharge).2 with amount := some (fresh p).amount, value2 := some (fresh p).count })]
            ++ held p u)) ∧
        (s.lineFor? a c.toNat = none → s.settings.returnWindow ≠ 0 → s.minibar.pool.length < 64 →
          u.minibar.pool = s.minibar.pool ++ [fresh p] ∧
          u.folio? p = some { f with pendingTotal := f.pendingTotal + (fresh p).amount } ∧
          (∀ q, q ≠ p → u.folio? q = s.folio? q) ∧ u.journal = s.journal.pushAll (es ++ held p u)) ∧
        (∀ h, s.lineFor? a c.toNat = none → s.settings.returnWindow ≠ 0 → 64 ≤ s.minibar.pool.length →
          s.minibar.pool.head? = some h →
          u.minibar.pool = (s.commitLine h).minibar.pool ++ [fresh p] ∧
          u.folio? p = ((s.commitLine h).folio? p).map (fun g =>
            { g with pendingTotal := g.pendingTotal + (fresh p).amount }) ∧
          (∀ q, q ≠ p → u.folio? q = (s.commitLine h).folio? q) ∧
          u.journal = s.journal.pushAll (es
            ++ [(s.now,
              { kind := .minibarCharge, node := some h.node, point := s.pointOf h.node, amount := some h.amount,
                value1 := some h.comp, value2 := some h.count })]
            ++ held p u)))) ∧
    (let u := s.item a (.returned c k)
      let es := anomaly (decide (box.capacity < box.stock + k.toNat))
      stocked u (min box.capacity (box.stock + k.toNat)) ∧
      (∀ x, n.session = some x → x.mode = .restock → u.minibar = s.minibar ∧ u.journal = s.journal.pushAll es) ∧
      ((∀ x, n.session = some x → x.mode = .guest) →
        (s.lineFor? a c.toNat = none → u.minibar = s.minibar ∧ u.journal = s.journal.pushAll (es
          ++ [(s.now, { (counted .returnAfterCommit).2 with cred := n.session.map (·.cred) })])) ∧
        (∀ l f, s.lineFor? a c.toNat = some l → s.folio? l.folio = some f →
          u.journal = s.journal.pushAll es ∧ (∀ q, q ≠ l.folio → u.folio? q = s.folio? q) ∧
          (l.count ≤ k.toNat →
            u.minibar.pool = s.minibar.pool.filter (fun x => !(x.node == a && x.comp == c.toNat)) ∧
            u.folio? l.folio = some { f with pendingTotal := f.pendingTotal - l.amount }) ∧
          (k.toNat < l.count →
            let m : ChargeLine := { l with count := l.count - k.toNat, amount := box.price * (l.count - k.toNat) }
            u.minibar.pool = s.minibar.pool.map (fun x => if x.node = a ∧ x.comp = c.toNat then m else x) ∧
            u.folio? l.folio = some { f with pendingTotal := f.pendingTotal + m.amount - l.amount }))))) ∧
  (∀ (a cred : Nat) (n : Node) (s : State), s.node? a = some n →
    let opens (mode : SessionMode) (x : Option Session) : Prop :=
      let u := s.openSession a mode cred
      u.node? a = some { n with session := x } ∧ (∀ b, b ≠ a → u.node? b = s.node? b) ∧ u = { s with nodes := u.nodes }
    opens .restock (some ⟨.restock, cred, none, s.now⟩) ∧
    (∀ p, n.enrol.entry = some p → (s.folio? p).any (fun f => f.isOpen) = true →
      opens .guest (some ⟨.guest, cred, some p, s.now⟩)) ∧
    ((∀ p, n.enrol.entry = some p → (s.folio? p).any (fun f => f.isOpen) = false) → opens .guest none))

/-- In RUNNING: RETRAIN of a TRAINING line sets its counts afresh and writes nothing; of a line in service takes it to
TRAINING with retrain count 4 and running count 0; of a DISABLED line is refused with WRONG_STATE. DISABLE of a
DISABLED line changes nothing; of any other takes it to DISABLED. ENABLE takes a DISABLED line to TRAINING and is
refused otherwise. Each change journals LINE_STATE, raises LINE_CHANGE with the new line states, and leaves the other
line and, while service lasts, the nodes unchanged. Where the change takes the last line out of service, every ONLINE
and PROBATION node enters SILENT with its counts 0 and its upload dropped, with one NODE_STATE each, in ascending
address by the model's choice (log 22), and every other node stays. The retrain count of a line taken to DISABLED
stands by the model's choice (log 38). Rests on 01_the_lock_line.md, sections 1.1 and 1.6,
02_lock_nodes_and_their_life_on_the_line.md, section 2.3.3, 10_the_desk_link.md, section 10.5. -/
def Obligations.LineControlFollowsItsTable : Prop :=
  ∀ (l : LineId) (tag : Byte) (s : State), s.takes →
    (s.line l).st ≠ .off →
    let head : List Byte := [byteOf (lineCode l)]
    let ok (i : Instr) (u : State) : Prop := exec i s = .next (u.answer 0x10 tag false (.plain .ok))
    let wrong (i : Instr) : Prop := exec i s = .next (s.answer 0x10 tag false (.plain .wrongState))
    let silences (u : State) : Prop := s.service = true → u.service = false →
      s.nodes.Pairwise (fun m n => m.addr < n.addr) →
      u.addrs = s.addrs ∧ (∀ n ∈ s.nodes, n.st.answering = false → u.node? n.addr = some n) ∧
      (∀ n ∈ s.nodes, n.st.answering = true → ∃ m, u.node? n.addr = some m ∧ m.st = .silent ∧ m.good = 0 ∧
        m.missed = 0 ∧ m.silent = 0 ∧ m.upload = none ∧ m.enrol = n.enrol ∧ m.joins = n.joins ∧ m.clock = n.clock ∧
        m.cursor = n.cursor ∧ m.comps = n.comps ∧ m.session = n.session) ∧
      ∃ e, u.journal = (s.journal.push s.now e).pushAll ((s.nodes.filter (fun n => n.st.answering)).map (fun n =>
        (s.now, { kind := .nodeState, node := some n.addr, point := some n.enrol.point,
                  detail1 := some (.nodeState .silent) })))
    ((s.line l).st = .training → ok (.lineRetrain tag (head ++ [0]))
      (s.modLine l (fun x => { x with retrain := 4, running := 0 }))) ∧
    ((s.line l).st.inService = true → ∃ u : State, ok (.lineRetrain tag (head ++ [0])) u ∧ LineMoved l .training s u ∧ silences u ∧
      u.line l = { s.line l with st := .training, retrain := 4, running := 0 }) ∧
    ((s.line l).st = .disabled → wrong (.lineRetrain tag (head ++ [0])) ∧ ok (.lineDisable tag head) s) ∧
    ((s.line l).st ≠ .disabled → ∃ u : State, ok (.lineDisable tag head) u ∧ LineMoved l .disabled s u ∧ silences u ∧
      u.line l = { s.line l with st := .disabled }) ∧
    ((s.line l).st = .disabled → ∃ u : State, ok (.lineEnable tag head) u ∧ LineMoved l .training s u ∧
      u.line l = { s.line l with st := .training, retrain := 4, running := 0 }) ∧
    ((s.line l).st ≠ .disabled → wrong (.lineEnable tag head))

/-- LINE_STATUS in RUNNING replies the line states, counts, tallies, flags, the first-fault record, the round in
progress and the threshold as they stood, laid out field by field as Table 10.16 gives; with the clear option it then
clears the accrued flags of both lines and the valid field, and nothing else; it re-arms LINE_CHANGE. The round byte
with no round in progress is a free value (log 18), and the threshold is that of the running settings (log 39). Rests
on 01_the_lock_line.md, section 1.6, 10_the_desk_link.md, Table 10.16, 10_the_desk_link.md, Table 10.11. -/
def Obligations.LineStatusReportsAndClears : Prop :=
  ∀ (tag : Byte) (s : State), s.takes →
    let content := fields (lineFields s.lines.lineA ++ lineFields s.lines.lineB ++ firstFaultFields s.lines.first)
      ++ [match s.lines.round with
          | some r => BitVec.ofNat 8 r.number
          | none => Config.roundNumberUnstarted, BitVec.ofNat 8 s.settings.degradeThreshold]
    let port := { s.port with arm := { s.port.arm with lineChange := true } }
    exec (.lineStatus tag [0]) s = .next ({ s with port := port }.answer 0x11 tag false ⟨.ok, content⟩) ∧
    exec (.lineStatus tag [1]) s = .next ({ s with
      port := port
      lines := { s.lines with
        lineA := { s.lines.lineA with flags := ⟨false, false, false, false, false⟩ }
        lineB := { s.lines.lineB with flags := ⟨false, false, false, false, false⟩ }
        first := { s.lines.first with valid := false } } }.answer 0x11 tag false ⟨.ok, content⟩)

/-- For any lines in service and judgements of the two copies (a line out of service supplying none): a copy is used
exactly when one is good, and then a good one; a faulty copy is charged its kind to its line, correctable exactly when
the other copy is good; an absent copy of a line in service beside a good one is charged NO_ANSWER, correctable;
nothing else is charged. With two good copies the one whose reception completed first is used. Rests on
01_the_lock_line.md, section 1.3, Table 1.2. -/
def Obligations.WindowResolutionChargesTheWeakCopy : Prop :=
  ∀ (serveA serveB : Bool) (first : Completion) (a b : CopyJudgement),
    let r := resolve serveA serveB first a b
    (r.1 = .none ↔ a ≠ .good ∧ b ≠ .good) ∧ (r.1 = .lineA → a = .good) ∧ (r.1 = .lineB → b = .good) ∧
    (r.1 = .either → a = .good ∧ b = .good ∧ first = .together) ∧
    (a = .good → b = .good → (first = .aFirst → r.1 = .lineA) ∧ (first = .bFirst → r.1 = .lineB)) ∧
    (∀ c : Charge, c ∈ r.2 ↔
      (c.line = .a ∧ (a = .faulty c.kind ∨ a = .absent ∧ serveA = true ∧ b = .good ∧ c.kind = .noAnswer)
        ∨ c.line = .b ∧ (b = .faulty c.kind ∨ b = .absent ∧ serveB = true ∧ a = .good ∧ c.kind = .noAnswer)) ∧
      (c.cls = .correctable ↔ (match c.line with | .a => b = .good | .b => a = .good)))

/-- WINDOW_CLOSE with no good copy on either line, for a node whose open window is not dead: PROBATION counts a miss
and at the third enters ABSENT with 16 join attempts; ONLINE counts a miss and at the sixth enters SILENT with its
counts 0; SILENT raises the silent round count and at 64 enters ABSENT with 16 join attempts and the count 0. On
ABSENT the last presentation number and the session go; a node that leaves ONLINE or PROBATION loses its upload, and
its reload under way becomes MARKED; a permit PLACED or OPEN closes and is judged anew; that the state moves first and
the permit closes after, which fixes whether UPLOAD_PERMIT is latched for a node that leaves, is the model's choice
(log 22); every other field stands. A change of state is journaled as NODE_STATE and raises NODE_CHANGE. It holds with
or without a line in service. A faulty copy is charged uncorrectable: its flag is set, no running count rises, and an
empty first-fault record takes it, of two either. No fault is charged for an absent copy, and no other node changes.
Rests on 02_lock_nodes_and_their_life_on_the_line.md, sections 2.3 and 2.3.2, 01_the_lock_line.md, sections 1.3 and
1.4, 05_stays_floors_and_revocation.md, section 5.5, 07_offline_records_and_audit.md, sections 7.1 and 7.2,
08_minibars_and_folios.md, section 8.2. -/
def Obligations.MissesMoveANodeByItsState : Prop :=
  ∀ (a : Byte) (copyA copyB : Option Copy) (first : Completion) (r : Round) (n : Node) (s : State), s.part = .running →
    s.lines.round = some r → r.windows.find? (fun w => w.addr == a.toNat) = some ⟨a.toNat, false⟩ →
    s.node? a.toNat = some n →
    (n.st = .probation ∨ n.st = .online ∨ n.st = .silent) →
    let jA := judgeCopy a.toNat r.number s.lines.lineA.st.inService copyA
    let jB := judgeCopy a.toNat r.number s.lines.lineB.st.inService copyB
    jA ≠ .good → jB ≠ .good →
    let fault (j : CopyJudgement) : Option FaultKind := match j with
      | .faulty k => some k
      | .good => none
      | .absent => none
    let lineAfter (l : LineId) (j : CopyJudgement) : Line := match fault j with
      | none => s.line l
      | some k => { s.line l with flags := (s.line l).flags.mark k }
    let captures (l : LineId) (j : CopyJudgement) (f : FirstFault) : Prop := match fault j with
      | none => False
      | some k => f = if s.lines.first.valid then s.lines.first
          else ⟨true, l, r.number, a.toNat, k, .uncorrectable, s.now⟩
    let moved (st : NodeState) : Entry :=
      { kind := .nodeState, node := some a.toNat, point := some n.enrol.point, detail1 := some (.nodeState st) }
    ∃ (t : State) (m : Node), exec (.windowClose a copyA copyB first) s = .next t ∧ t.node? a.toNat = some m ∧
      (n.st = .probation → n.missed + 1 < 3 →
        m.st = .probation ∧ m.good = 0 ∧ m.missed = n.missed + 1 ∧ m.silent = n.silent) ∧
      (n.st = .probation → 3 ≤ n.missed + 1 → m.st = .absent ∧ m.joins = 16 ∧ m.good = 0 ∧ m.missed = 0) ∧
      (n.st = .online → n.missed + 1 < 6 →
        m.st = .online ∧ m.good = 0 ∧ m.missed = n.missed + 1 ∧ m.silent = n.silent) ∧
      (n.st = .online → 6 ≤ n.missed + 1 → m.st = .silent ∧ m.good = 0 ∧ m.missed = 0 ∧ m.silent = 0) ∧
      (n.st = .silent → n.silent + 1 < 64 → m.st = .silent ∧ m.silent = n.silent + 1) ∧
      (n.st = .silent → 64 ≤ n.silent + 1 → m.st = .absent ∧ m.joins = 16 ∧ m.silent = 0) ∧
      (m.st = .absent → m.lastPres = none ∧ m.session = none) ∧
      (n.st ≠ .silent → m.st ≠ n.st → m.upload = none ∧ m.reload.underWay = false) ∧
      m = n.afterMiss (2048 - (t.journal.recs.length - t.journal.acked)) ∧
      t.journal = (if m.st = n.st then s.journal else s.journal.push s.now (moved m.st)) ∧
      t.port.arm.nodeChange = (s.port.arm.nodeChange && decide (m.st = n.st)) ∧
      (∀ b, b ≠ a.toNat → t.node? b = s.node? b) ∧
      t.lines.lineA = lineAfter .a jA ∧ t.lines.lineB = lineAfter .b jB ∧
      (captures .a jA t.lines.first ∨ captures .b jB t.lines.first ∨
        fault jA = none ∧ fault jB = none ∧ t.lines.first = s.lines.first) ∧
      t.lines = { s.lines with
        lineA := t.lines.lineA, lineB := t.lines.lineB, first := t.lines.first
        round := some { r with windows := r.windows.filter (fun w => w.addr != a.toNat) } } ∧
      (fault jA = none ∨ fault jB = none → t.choices = s.choices) ∧
      Port.noticesOnly s.port t.port ∧
      t = { s with lines := t.lines, nodes := t.nodes, journal := t.journal, port := t.port, choices := t.choices }

/-- WINDOW_CLOSE with a good copy on line A, B or both, for a node whose open window is not dead: the copy that
completed first is used, either when both completed together. PROBATION and ONLINE raise the good rounds, saturating
at 255, and clear the missed rounds; SILENT enters PROBATION with counts 1, 0 and 0; PROBATION becomes ONLINE exactly
with 8 good rounds, no upload and the cache current (this answer ends its reload, or none is marked or under way and
every deliverable change lies at or below sent_upto). The status bits are stored, cache lost newly set marks the
reload. A drift span is opened where none is open, stands below k = 64, and at 64 to 72 is closed, its sample judged,
and reopened. FALLBACK_PARAMS is latched by the return from SILENT and a change of grace or fallback mode,
COMPARTMENT_SET by the return of a MINIBAR node. NODE_CHANGE is raised by a change of state, fallback mode, battery
low or fallback active, by cache lost or CLOCK_SUSPECT newly set, and by nothing else. With no reload under way an
acknowledged generation above acked_upto and not above the current one moves the cursor, which marks a RESTRICTED node
whose cache count so falls to 256 or less; one under way ends, moving it, at an answer with G and cache lost clear
after a round start in AWAITING. A set pending flag takes a mark where none is held, a clear one drains the upload
held; the anchor is refreshed only with neither. With the flag set an OPEN permit falls by each record taken, closes
at an answer with none or at its last, and a new one is judged. A new presentation is decided on this answer's status
and clock, a repeated one leaves store, urgent queue and memory alone, the reported flags aside; then the items act in
order and the journal takes their records. A line with a good copy shows VALID_SEEN; one without is charged its fault,
NO_ANSWER when in service, correctable. Rests on 02_lock_nodes_and_their_life_on_the_line.md, sections 2.3 to 2.6,
01_the_lock_line.md, section 1.3, 05_stays_floors_and_revocation.md, sections 5.3 to 5.5,
07_offline_records_and_audit.md, sections 7.1 and 7.2, 03_wing_time_and_node_clocks.md, sections 3.3.1 to 3.3.3,
06_admission.md, section 6.3, 08_minibars_and_folios.md, section 8.1. -/
def Obligations.GoodAnswersMoveANodeByItsState : Prop :=
  ∀ (a : Byte) (copyA copyB : Option Copy) (first : Completion) (r : Round) (n : Node) (s : State),
    s.part = .running → s.lines.round = some r →
    r.windows.find? (fun w => w.addr == a.toNat) = some ⟨a.toNat, false⟩ → s.node? a.toNat = some n →
    (n.st = .probation ∨ n.st = .online ∨ n.st = .silent) →
    let judged (l : LineId) (copy : Option Copy) : CopyJudgement := judgeCopy a.toNat r.number (s.line l).st.inService copy
    let jA := judged .a copyA
    let jB := judged .b copyB
    (jA = .good ∨ jB = .good) →
    let fault (l : LineId) (j : CopyJudgement) : Option FaultKind := match j with
      | .good => none
      | .faulty k => some k
      | .absent => if (s.line l).st.inService then some .noAnswer else none
    let lineAfter (l : LineId) (j : CopyJudgement) : Line := match j, fault l j with
      | .good, _ => { s.line l with flags := { (s.line l).flags with validSeen := true } }
      | _, none => s.line l
      | _, some k => { s.line l with flags := (s.line l).flags.mark k, running := min 65535 ((s.line l).running + 1) }
    let captured (l : LineId) (k : FaultKind) : FirstFault := if s.lines.first.valid then s.lines.first
      else ⟨true, l, r.number, a.toNat, k, .correctable, s.now⟩
    ∃ (t : State) (m : Node) (x : Answer), exec (.windowClose a copyA copyB first) s = .next t ∧
      t.node? a.toNat = some m ∧
      (jA = .good ∧ copyA.map (·.answer) = some x ∨ jB = .good ∧ copyB.map (·.answer) = some x) ∧
      (jA = .good → jB = .good → (first = .aFirst → copyA.map (·.answer) = some x) ∧
        (first = .bFirst → copyB.map (·.answer) = some x)) ∧
      (let lost := x.status.cacheLost && !(n.status.any (fun b => b.cacheLost))
        let under := n.reload.underWay && !lost
        let ack := x.ack.toNat
        let held := n.status.getD ⟨false, false, false, false, false⟩
        let clock := n.clock.sample r.number r.tick x.ticks.toNat
        let spanned (c : Clock) : Prop := m.clock = { c with
          span := some ⟨r.number, r.tick, x.ticks.toNat, 0⟩, anchor := m.clock.anchor }
        let opened : Permit := if n.st = .silent then .none else n.permit
        let room := decide (64 ≤ 2048 - (t.journal.recs.length - t.journal.acked))
        (n.clock.span = none → spanned n.clock) ∧
        (∀ sp, n.clock.span = some sp →
          (sp.k < 64 → m.clock = { n.clock with anchor := m.clock.anchor }) ∧
          (64 ≤ sp.k → sp.k ≤ 72 → ∀ dw dn, dw < 281474976710656 → dn < 4294967296 →
            r.tick = (sp.w0 + dw) % 281474976710656 → x.ticks.toNat = (sp.n0 + dn) % 4294967296 →
            spanned (n.clock.judge (rawSample dw dn)))) ∧
        m.status = some x.status ∧ m.missed = 0 ∧ m.enrol = n.enrol ∧ m.addr = n.addr ∧ m.joins = n.joins ∧ m.copy = n.copy ∧
        m.silent = (if n.st = .silent then 0 else n.silent) ∧
        m.latchFallback = (n.latchFallback || decide (n.st = .silent ∨ clock.grace ≠ n.clock.grace ∨
          m.fallback ≠ n.fallback)) ∧
        m.latchComp = (n.latchComp || decide (n.st = .silent ∧ n.enrol.cls = .minibar)) ∧
        t.port.arm.nodeChange = (s.port.arm.nodeChange && !decide (m.st ≠ n.st ∨ m.fallback ≠ n.fallback ∨
          held.batteryLow ≠ x.status.batteryLow ∨ held.fallbackActive ≠ x.status.fallbackActive ∨ lost = true ∨
          clock.suspect = true ∧ n.clock.suspect = false)) ∧
        (n.st = .online → m.st = .online ∧ m.good = min 255 (n.good + 1)) ∧
        (n.st = .probation → m.good = min 255 (n.good + 1) ∧
          (m.st = .probation ∨ m.st = .online) ∧
          (m.st = .online ↔ 8 ≤ m.good ∧ m.upload = none ∧
            ((∃ g w, under = true ∧ n.reload = .awaiting g w ∧ 1 ≤ w ∧ ack = g ∧ x.status.cacheLost = false) ∨
              m.reload = .none ∧ ∀ c ∈ s.revoc.changes, s.Delivers c m → genBelow m.cursor.sent c.gen = false))) ∧
        (n.st = .silent → m.st = .probation ∧ m.good = 1) ∧
        (∀ p, x.pres = some p → m.lastPres = some p.number.toNat) ∧
        (lost = true → m.reload = .marked) ∧
        (under = false → genBelow n.cursor.acked ack = true → genBelow s.revoc.gen ack = false →
          m.cursor = { acked := ack, sent := if genBelow n.cursor.sent ack then ack else n.cursor.sent, stall := 0 }) ∧
        (under = false → genBelow n.cursor.acked ack = false ∨ genBelow s.revoc.gen ack = true → m.cursor = n.cursor) ∧
        (∀ g w, under = true → n.reload = .awaiting g w → 1 ≤ w → ack = g → x.status.cacheLost = false →
          m.cursor = ⟨g, g, 0⟩ ∧ m.reload = .none ∧
          m.fallback = (if n.fallback = .restricted ∧ s.cacheCount { n with cursor := ⟨g, g, 0⟩ } ≤ 256 then .full
            else n.fallback)) ∧
        (under = true → (∀ g w, n.reload = .awaiting g w → w = 0 ∨ ack ≠ g ∨ x.status.cacheLost = true) →
          m.cursor = n.cursor ∧ m.reload = n.reload ∧ m.fallback = n.fallback) ∧
        (under = false → m.fallback = n.fallback) ∧
        (under = false → lost = false → ∃ j k, s.Caches n j ∧ s.Caches { n with cursor := m.cursor } k ∧
          m.reload = (if n.fallback = .restricted ∧ n.reload = .none ∧ k ≤ 256 ∧ k < j then .marked else n.reload)) ∧
        (n.upload = none → x.pending = true →
          m.upload = some ((n.clock.sample r.number r.tick x.ticks.toNat).takeMark x.seconds.toNat r.secs s.time.epoch) ∧
          m.received = 0 ∧ m.clock.anchor = n.clock.anchor ∧
          m.permit = (if room then .latched else .none) ∧ m.latchPermit = (n.latchPermit || room)) ∧
        (n.upload = none → x.pending = false →
          m.upload = none ∧ m.permit = opened ∧ m.latchPermit = n.latchPermit ∧ m.clock.anchor = some ⟨x.seconds.toNat, r.secs, s.time.epoch⟩) ∧
        (∀ up, n.upload = some up → x.pending = true → m.upload = some up ∧ m.clock.anchor = n.clock.anchor) ∧
        (∀ up, n.upload = some up → x.pending = false → m.upload = none ∧ m.permit = .none ∧
          m.clock.anchor = (if s.time.epoch = up.epoch then some ⟨up.s1, up.w1, s.time.epoch⟩ else n.clock.anchor)) ∧
        (let moved (st : NodeState) : Entry :=
           { kind := .nodeState, node := some a.toNat, point := some n.enrol.point,
             detail1 := some (.nodeState st) }
         let u₀ : State := s.modNode a.toNat (fun k => { k with
           status := some x.status
           permit := if n.st = .silent then .none else k.permit
           received := if n.st = .silent then 0 else k.received
           clock := if x.pending || n.upload.isSome then clock
             else { clock with anchor := some ⟨x.seconds.toNat, r.secs, s.time.epoch⟩ } })
         let u₁ : State := { u₀ with
           journal := if n.st = .silent then s.journal.push s.now (moved .probation) else s.journal }
         let u : State := match x.pres with
           | some p => if n.lastPres = some p.number.toNat then u₁ else u₁.decideAdmission a.toNat p r.number
           | none => u₁
         let w := x.items.foldl (State.item a.toNat) u
         t.minibar = w.minibar ∧ t.store = w.store ∧ t.lines.urgent = w.lines.urgent ∧
         (w.node? a.toNat).map (fun k => (k.comps, k.session, k.memory)) = some (m.comps, m.session, m.memory) ∧
         (∀ up, n.upload = some up → x.pending = true → (w.node? a.toNat).map (·.received) = some m.received ∧
           (let taken := (x.items.filter isOfflineRecord).length
            (∀ k, opened = .opened (k + 1) →
              (taken = 0 → m.permit = (if room then .latched else .none) ∧ m.latchPermit = (n.latchPermit || room)) ∧
              (1 ≤ taken → taken ≤ k → m.permit = .opened (k + 1 - taken) ∧ m.latchPermit = n.latchPermit) ∧
              (k < taken → (m.permit = .none ∨ m.permit = .latched) ∧
                (w.node? a.toNat).map (fun q => (q.permit, q.latchPermit)) = some (m.permit, m.latchPermit))) ∧
            ((∀ k, opened ≠ .opened k) → m.permit = opened ∧ m.latchPermit = n.latchPermit))) ∧
         t.journal = (if n.st ≠ .online ∧ m.st = .online then w.journal.push s.now (moved .online) else w.journal) ∧
         ((∀ p, x.pres = some p → n.lastPres = some p.number.toNat) →
           m.lastPres = n.lastPres ∧ t.store = s.store ∧ t.lines.urgent = s.lines.urgent ∧
           m.memory.map (fun e => { e with reported := false })
             = n.memory.map (fun e => { e with reported := false })))) ∧
      (∀ b, b ≠ a.toNat → t.node? b = s.node? b) ∧
      t.lines.lineA = lineAfter .a jA ∧ t.lines.lineB = lineAfter .b jB ∧
      t.lines.first = (match fault .a jA, fault .b jB with
        | some k, _ => captured .a k
        | none, some k => captured .b k
        | none, none => s.lines.first) ∧
      t.lines = { s.lines with
        lineA := t.lines.lineA, lineB := t.lines.lineB, first := t.lines.first, urgent := t.lines.urgent
        round := some { r with windows := r.windows.filter (fun w => w.addr != a.toNat) } } ∧
      Port.noticesOnly s.port t.port ∧
      t = { s with lines := t.lines, nodes := t.nodes, store := t.store, minibar := t.minibar,
                   journal := t.journal, port := t.port, choices := t.choices }

/-- INVITATION_CLOSE with the window open, of an invited node: an answered ABSENT or DORMANT node enters PROBATION
with counts 0, a DORMANT one with 16 join attempts, its permit NONE, FALLBACK_PARAMS latched, and COMPARTMENT_SET for
a MINIBAR; an unanswered ABSENT node loses a join attempt and at 0 enters DORMANT; each change of state journals one
NODE_STATE and raises NODE_CHANGE. An unanswered DORMANT node, a node in another state and a node withdrawn or
disabled since the round start are left alone. Nothing of the answer is handed on and no fault is charged: a line with
a good copy shows VALID_SEEN, also where the node was withdrawn or disabled (the model's reading, log 37), no other
flag, tally, first-fault record, queue or pointer changes, and the window is closed. A window with no invited node is
closed alone. Rests on 02_lock_nodes_and_their_life_on_the_line.md, sections 2.3 and 2.3.1, 01_the_lock_line.md,
section 1.3, 07_offline_records_and_audit.md, section 7.1, 08_minibars_and_folios.md, section 8.1. -/
def Obligations.InvitationsMoveANodeByItsState : Prop :=
  ∀ (copyA copyB : Option Copy) (r : Round) (s : State), s.part = .running → s.lines.round = some r → r.inviteOpen = true →
    (r.invited = none → exec (.invitationClose copyA copyB) s
      = .next { s with lines := { s.lines with round := some { r with inviteOpen := false } } }) ∧
    ∀ a, r.invited = some a →
    let good (l : LineId) (copy : Option Copy) : Prop := judgeCopy a r.number (s.line l).st.inService copy = .good
    let answered := good .a copyA ∨ good .b copyB
    let shows (l : LineId) (copy : Option Copy) (x : Line) : Prop :=
      (good l copy → x = { s.line l with flags := { (s.line l).flags with validSeen := true } }) ∧
      (¬ good l copy → x = s.line l)
    ∃ t : State, exec (.invitationClose copyA copyB) s = .next t ∧
      (let alone : Prop := t.nodes = s.nodes ∧ t.journal = s.journal ∧ t.port = s.port
       let enters (m : Node) : Prop := t.node? a = some m ∧ t.port.arm.nodeChange = false ∧
         t.journal = s.journal.push s.now
           { kind := .nodeState, node := some a, point := some m.enrol.point, detail1 := some (.nodeState m.st) }
       (r.inviteDead = true ∨ s.node? a = none → alone) ∧
       ∀ n, s.node? a = some n → r.inviteDead = false →
         (n.st = .absent ∨ n.st = .dormant → answered → enters { n with
           st := .probation, good := 0, missed := 0, joins := if n.st = .dormant then 16 else n.joins
           permit := .none, received := 0, latchFallback := true
           latchComp := n.latchComp || n.enrol.cls == .minibar }) ∧
         (n.st = .absent → ¬ answered → n.joins ≤ 1 → enters { n with st := .dormant, joins := 0, session := none }) ∧
         (n.st = .absent → ¬ answered → 2 ≤ n.joins →
           t.node? a = some { n with joins := n.joins - 1 } ∧ t.journal = s.journal ∧ t.port = s.port) ∧
         (n.st = .dormant → ¬ answered → alone) ∧ (n.st ≠ .absent → n.st ≠ .dormant → alone)) ∧
      (∀ b, b ≠ a → t.node? b = s.node? b) ∧
      shows .a copyA t.lines.lineA ∧ shows .b copyB t.lines.lineB ∧
      t.lines = { s.lines with
        lineA := t.lines.lineA, lineB := t.lines.lineB, round := some { r with inviteOpen := false } } ∧
      Port.noticesOnly s.port t.port ∧
      t = { s with lines := t.lines, nodes := t.nodes, journal := t.journal, port := t.port }

/-- ROUND_START in RUNNING, addresses of nodes and windows listed in ascending order, with the mark at most one
longest round ahead: the new round has the next number (0 first, then + 1 modulo 64), its header the wing seconds, the
tick of the mark, the current generation and the time-unset flag; its windows are those of the nodes ONLINE, in
PROBATION or SILENT in ascending listing, all open; its segment holds at most 8 directives, none without a line in
service; no DECISION in the queue has stood three round starts. With a line in service the node invited is the DORMANT
node of the round's address class, of two the one the turn picks, the turn changing at round 0, else the first ABSENT
node after the pointer, which then takes its address; without one no node is invited and pointer and turn stand, at
round 0 too by the model's reading (log 25). The segment, urgent queue, repeat list, pointer, nodes and journal are
those of the composition, with the settings, credentials, change journal and list as they stand, from the aged queue
and the nodes as the event leaves them before it: a window still open counts as a miss and an open invitation as
unanswered (the model's reading, log 13), a permit of such a node closing after its state rule (the model's choice,
log 22) and judged on the places the journal has free once the NODE_STATE records of these misses up to its address
stand, the stall and wait counts rise or end, a PLACED permit opens, drift spans aside. The receive timeout is
measured over the ticks passed, and the next mark stands one round length on. The row's move of the tick counter to
the mark, with a second boundary reached on the way still owed, is the model's (log 9). Rests on 01_the_lock_line.md,
sections 1.2 and 1.5, 03_wing_time_and_node_clocks.md, section 3.1, 02_lock_nodes_and_their_life_on_the_line.md,
section 2.3.1, 10_the_desk_link.md, section 10.2, 02_lock_nodes_and_their_life_on_the_line.md, section 2.3.2,
05_stays_floors_and_revocation.md, sections 5.4 and 5.5, 07_offline_records_and_audit.md, section 7.2,
01_the_lock_line.md, section 1.3. -/
def Obligations.RoundStartFixesTheRound : Prop :=
  ∀ (mark : Nat) (s : State), s.part = .running → s.time.mark = some mark → sub48 mark s.time.tick ≤ 16384 →
    s.lines.repeats.length ≤ 8 → s.nodes.Pairwise (fun m n => m.addr < n.addr) →
    (∀ old, s.lines.round = some old → old.windows.Pairwise (fun v w => v.addr < w.addr)) →
    ∃ (t : State) (r : Round), exec .roundStart s = .next t ∧ t.lines.round = some r ∧
      r.number = (match s.lines.round with | none => 0 | some old => (old.number + 1) % 64) ∧
      r.secs = s.time.secs ∧ r.tick = mark ∧ r.gen = s.revoc.gen ∧ r.timeUnset = !s.time.isSet ∧
      r.length = s.settings.roundLength ∧
      t.time = { s.time with
        tick := mark, mark := some ((mark + s.settings.roundLength) % 281474976710656)
        owed := s.time.owed + if mark / 32768 = s.time.tick / 32768 then 0 else 1 } ∧
      r.windows = (t.nodes.filter (fun n => n.st == .probation || n.st == .online || n.st == .silent)).map
        (fun n => ⟨n.addr, false⟩) ∧
      r.segment.length ≤ 8 ∧
      (t.service = false → r.segment = [] ∧ t.lines.repeats = []) ∧
      (∀ d, Urgent.decision d ∈ t.lines.urgent → d.age < 3) ∧
      (let dormant (a : Nat) : Prop := ∃ n ∈ t.nodes, n.addr = a ∧ n.st = .dormant ∧ a % 64 = r.number
       let absent (a : Nat) : Prop := ∃ n ∈ t.nodes, n.addr = a ∧ n.st = .absent
       let p := s.inviter.pointer
       (t.service = false → r.invited = none ∧ t.inviter = s.inviter) ∧
       (t.service = true →
         t.inviter.turn = (if r.number = 0 then !s.inviter.turn else s.inviter.turn) ∧
         (∀ a, dormant a → (∀ b, dormant b → b = a) → r.invited = some a ∧ t.inviter.pointer = p) ∧
         (∀ a b, dormant a → dormant b → a < b → (∀ c, dormant c → c = a ∨ c = b) →
           r.invited = some (if t.inviter.turn then b else a) ∧ t.inviter.pointer = p) ∧
         (∀ a, (∀ b, ¬ dormant b) → absent a →
           (∀ b, absent b → p < a ∧ (p < b → a ≤ b) ∨ a ≤ p ∧ b ≤ p ∧ a ≤ b) →
           r.invited = some a ∧ t.inviter.pointer = a) ∧
         ((∀ b, ¬ dormant b) → (∀ b, ¬ absent b) → r.invited = none ∧ t.inviter.pointer = p))) ∧
      (let aged := (s.lines.urgent.map (fun x => match x with
         | .decision d => .decision { d with age := d.age + 1 }
         | .remoteOpen b => .remoteOpen b)).filter (fun x => match x with
         | .decision d => decide (d.age < 3)
         | .remoteOpen _ => true)
       let open_ (a : Nat) : Bool := s.lines.round.any (fun old => old.windows.any (fun w => w.addr == a && !w.dead))
       let asked (a : Nat) : Bool :=
         s.lines.round.any (fun old => old.inviteOpen && !old.inviteDead && old.invited == some a)
       let missed (b : Nat) : Journal := s.journal.pushAll ((s.nodes.filter (fun k =>
         decide (k.addr ≤ b) && open_ k.addr && (k.afterMiss 0).st != k.st)).map (fun k =>
           (s.now, { kind := .nodeState, node := some k.addr, point := some k.enrol.point
                     detail1 := some (.nodeState (k.afterMiss 0).st) })))
       ∃ v : State, v.lines.urgent = aged ∧ v.lines.repeats = s.lines.repeats ∧ v.lines.pointer = s.lines.pointer ∧
         (∀ l, (v.line l).st = (t.line l).st) ∧ v.addrs = s.addrs ∧
         (∃ es, v.journal = s.journal.pushAll es ∧
           ∀ e ∈ es, e.2.kind = .nodeState ∨ e.2.kind = .lineState ∨ e.2.kind = .decisionLate) ∧
         Port.noticesOnly (s.quietFor (sub48 mark s.time.tick)).port v.port ∧
         v = { s with
           time := { t.time with mark := s.time.mark }, lines := v.lines, nodes := v.nodes, journal := v.journal
           port := v.port, choices := v.choices } ∧
         (∀ n ∈ s.nodes, ∃ k : Node, v.node? n.addr = some k ∧
           let free := 2048 - ((missed n.addr).recs.length - (missed n.addr).acked)
           let m := if open_ n.addr then n.afterMiss free else n
           let i := if asked n.addr then m.afterUnanswered else m
           k = { i with
             clock := { i.clock with span := k.clock.span, failed := k.clock.failed, suspect := k.clock.suspect }
             cursor := k.cursor
             reload := match i.reload with
               | .awaiting g w => if 8 ≤ w + 1 then .marked else .awaiting g (w + 1)
               | x => x
             permit := match i.permit with
               | .placed q => .opened q
               | x => x } ∧
           (i.reload.underWay = true → k.cursor = i.cursor) ∧
           (i.reload.underWay = false →
             (∀ c ∈ s.revoc.changes, s.Unacked i c → genBelow i.cursor.sent c.gen = true) →
             k.cursor = { i.cursor with stall := 0 }) ∧
           (i.reload.underWay = false → (∃ c ∈ s.revoc.changes, s.Unacked i c ∧ genBelow i.cursor.sent c.gen = false) →
             k.cursor = if 8 ≤ i.cursor.stall + 1 then { i.cursor with sent := i.cursor.acked, stall := 0 }
               else { i.cursor with stall := i.cursor.stall + 1 })) ∧
         (t.service = false → t.lines.urgent = aged ∧ t.lines.pointer = s.lines.pointer ∧ t.nodes = v.nodes ∧
           t.journal = v.journal ∧ t.port = v.port) ∧
         (t.service = true → r.segment = v.compose.2 ∧ t.lines.urgent = v.compose.1.lines.urgent ∧
           t.lines.repeats = v.compose.1.lines.repeats ∧ t.lines.pointer = v.compose.1.lines.pointer ∧
           t.nodes = v.compose.1.nodes ∧ t.journal = v.compose.1.journal ∧ t.port = v.compose.1.port)) ∧
      Port.noticesOnly (s.quietFor (sub48 mark s.time.tick)).port t.port ∧
      t.part = .running ∧ t.loader = s.loader ∧ t.store = s.store ∧ t.minibar = s.minibar ∧ t.revoc = s.revoc ∧ t.supply = s.supply ∧
      t.pending = s.pending

/-- ROUND_START lowers the retrain count of a TRAINING line by 1 while it is above 0 and leaves it TRAINING; at 0 the
line changes to UP, journals LINE_STATE, raises LINE_CHANGE and carries that round in full. TRAINING_END makes that
change of the coming round start alone (the model's row, log 10): the line is UP, LINE_STATE is journaled, LINE_CHANGE
raised, and nothing else beyond the ending round changes. When the coming round start gives round 0 and its tally
period has not been completed yet, TALLY_PERIOD_END makes each running count the completed tally and clears it; a line
UP with a tally at or above the threshold becomes DEGRADED, a line DEGRADED with a tally of 4 or less becomes UP, any
other line keeps its state; each change journals LINE_STATE and raises LINE_CHANGE, line A before line B by the
model's choice (log 22), nothing else is journaled. The row's taking of this part alone is the model's (log 10 too).
ROUND_START makes the same tallies and judges the lines that are not TRAINING alike. Rests on 01_the_lock_line.md,
sections 1.1, 1.2 and 1.4, 10_the_desk_link.md, section 10.5. -/
def Obligations.TrainingAndTallyPeriodsMoveTheLines : Prop :=
  (∀ (l : LineId) (s : State), s.part = .running → (s.line l).st = .training →
    (∀ k, (s.line l).retrain = k + 1 → ∃ t : State, exec .roundStart s = .next t ∧
      (t.line l).st = .training ∧ (t.line l).retrain = k ∧
      t.lines.round.map (fun r => match l with | .a => r.carriedA | .b => r.carriedB) = some .training) ∧
    ((s.line l).retrain = 0 →
      (∃ t : State, exec .roundStart s = .next t ∧ (t.line l).st = .up ∧ t.port.arm.lineChange = false ∧
        (∃ es, t.journal = s.journal.pushAll es ∧ (s.now, lineStateEntry l .up) ∈ es) ∧
        t.lines.round.map (fun r => match l with | .a => r.carriedA | .b => r.carriedB) = some .full) ∧
      (∃ t : State, exec (.trainingEnd l) s = .next t ∧ t.line l = { s.line l with st := .up } ∧
        LineMoved l .up s.beginRoundStart t ∧ t.nodes = s.beginRoundStart.nodes))) ∧
  (∀ s : State, s.part = .running → s.beginRoundStart.nextNumber = 0 → s.lines.tallyDone = false →
    let b := s.beginRoundStart
    let judged (l : LineId) : LineState :=
      if (s.line l).st = .up ∧ s.settings.degradeThreshold ≤ (s.line l).running then .degraded
      else if (s.line l).st = .degraded ∧ (s.line l).running ≤ 4 then .up else (s.line l).st
    let moves (l : LineId) : Prop := judged l ≠ (s.line l).st
    (∃ t : State, exec .tallyPeriodEnd s = .next t ∧ t.lines.tallyDone = true ∧
      (∀ l, t.line l = { s.line l with tally := (s.line l).running, running := 0, st := judged l }) ∧
      t.journal = b.journal.pushAll (([LineId.a, .b].filter (fun l => judged l != (s.line l).st)).map (fun l =>
        (s.now, lineStateEntry l (judged l)))) ∧
      (moves .a ∨ moves .b → t.port.arm.lineChange = false ∧ (b.port.arm.lineChange = true →
        lineChangeNotice (judged .a) (if moves .a then (s.line .b).st else judged .b) ∈ t.port.frames)) ∧
      (¬ moves .a → ¬ moves .b → t.port = b.port) ∧
      Port.noticesOnly b.port t.port ∧
      t.nodes = b.nodes ∧
      t = { b with lines := t.lines, journal := t.journal, port := t.port } ∧
      t.lines = { b.lines with lineA := t.lines.lineA, lineB := t.lines.lineB, tallyDone := true }) ∧
    (∃ t : State, exec .roundStart s = .next t ∧
      (∀ l, (t.line l).tally = (s.line l).running ∧ (t.line l).running = 0 ∧
        ((s.line l).st ≠ .training → (t.line l).st = judged l)) ∧
      (∃ es, t.journal = s.journal.pushAll es ∧ ∀ l, moves l → (s.now, lineStateEntry l (judged l)) ∈ es) ∧
      (moves .a ∨ moves .b → t.port.arm.lineChange = false)))


/-- In RUNNING, let u be the state at the opening of the coming round start. DECISION_AGE_OUT removes the node's
decisions of that number standing at their third round start and journals DECISION_LATE for each; STALL_REWIND of a
node whose stall count reaches 8 sets sent_upto to acked_upto and the count to 0; RELOAD_WAIT_EXPIRY of a reload whose
wait count reaches 8 marks it; SPAN_FAILED of a span whose round count reaches 73 discards it and counts a failure.
Other nodes stay. Taking these parts alone is the model's choice (log 10). Rests on 01_the_lock_line.md, section
1.5.1, 05_stays_floors_and_revocation.md, sections 5.4 and 5.5, 03_wing_time_and_node_clocks.md, section 3.3.2. -/
def Obligations.RoundStartPartsActAlone : Prop :=
  ∀ s : State, s.part = .running →
    let u := s.beginRoundStart
    (∀ (a p : Byte) (d : Decision), Urgent.decision d ∈ u.lines.urgent → d.node = a.toNat → d.pres = p.toNat →
      3 ≤ d.age + 1 →
      let late : Urgent → Bool := fun x => match x with
        | .decision e => e.node == a.toNat && e.pres == p.toNat && decide (3 ≤ e.age + 1)
        | .remoteOpen _ => false
      ∃ t : State, exec (.decisionAgeOut a p) s = .next t ∧
        t.lines = { u.lines with urgent := u.lines.urgent.filter (fun x => !late x) } ∧
        t.journal = u.journal.pushAll ((u.lines.urgent.filter late).filterMap (fun x => match x with
          | .decision e => some (e.arrival, e.entry .decisionLate)
          | .remoteOpen _ => none)) ∧
        t = { u with lines := t.lines, journal := t.journal, port := t.port }) ∧
    (∀ (a : Byte) (n : Node), u.node? a.toNat = some n →
      (n.reload.underWay = false → u.outstanding n ≠ 0 → 8 ≤ n.cursor.stall + 1 →
        ∃ t : State, exec (.stallRewind a) s = .next t ∧
          t.node? a.toNat = some { n with cursor := ⟨n.cursor.acked, n.cursor.acked, 0⟩ } ∧
          (∀ b, b ≠ a.toNat → t.node? b = u.node? b) ∧ t = { u with nodes := t.nodes }) ∧
      (∀ g w, n.reload = .awaiting g w → 8 ≤ w + 1 →
        ∃ t : State, exec (.reloadWaitExpiry a) s = .next t ∧ t.node? a.toNat = some { n with reload := .marked } ∧
          (∀ b, b ≠ a.toNat → t.node? b = u.node? b) ∧ t = { u with nodes := t.nodes }) ∧
      (∀ sp, n.clock.span = some sp → 73 ≤ sp.k + 1 →
        ∃ t : State, exec (.spanFailed a) s = .next t ∧
          t.node? a.toNat = some { n with clock := { n.clock with
            span := none
            failed := min 255 (n.clock.failed + 1)
            suspect := n.clock.suspect || decide (4 ≤ min 255 (n.clock.failed + 1)) } } ∧
          (∀ b, b ≠ a.toNat → t.node? b = u.node? b) ∧ Port.noticesOnly u.port t.port ∧
          t = { u with nodes := t.nodes, port := t.port }))

/-- In a composed segment every directive that is no DECISION and no REMOTE_OPEN names a node that is ONLINE or in
PROBATION, and at most 2 change or reload directives name any one node, addresses being listed once. The segment holds
at most 8 directives when the repeat list does. It begins with the repeat list and then the head of the urgent queue,
as many entries as slots are left, which the queue loses and which become the repeat list exactly while a line is
DEGRADED; for each entry placed first one ADMIT or REMOTE_OPEN record is appended in order, and a GRANT with a mode
opens its session. Then come latched items, walking up from the node after the delivery pointer, each node's in the
order FALLBACK_PARAMS, UPLOAD_PERMIT, COMPARTMENT_SET with their content at this moment, unlatched as they are placed
and all placed while slots are left, and change and reload items by the same walk: at most two of each node, none left
out while slots are left, each the item that 05:R105 or R109 offers next, a CHANGE of the oldest deliverable change
above sent_upto with its link and at most 4 outstanding, or of a reload RELOAD_BEGIN, the floor, the list entries and
RELOAD_END with its count, which moves the cursor and the reload state as it is placed; a node with no item placed
keeps both, a MARKED one reached with no slot free among them (the model's reading, log 41); the pointer parks at the
node of the last item of these, or keeps its value. Rests on 01_the_lock_line.md, sections 1.5.1 and 1.5.2,
06_admission.md, sections 6.3 and 6.6, 05_stays_floors_and_revocation.md, sections 5.3 to 5.5,
07_offline_records_and_audit.md, section 7.2, 03_wing_time_and_node_clocks.md, sections 3.1 and 3.2,
02_lock_nodes_and_their_life_on_the_line.md, section 2.5, 08_minibars_and_folios.md, sections 8.1 and 8.2. -/
def Obligations.SegmentsServeAnsweringNodesOnly : Prop :=
  ∀ s : State, s.addrs.Nodup →
    let item : Directive → Option Nat := fun d => match d with
      | .change a _ _ _ => some a
      | .reloadBegin a _ => some a
      | .reloadFloor a _ => some a
      | .reloadSerial a _ => some a
      | .reloadEnd a _ _ => some a
      | _ => none
    let latched : Directive → Option Nat := fun d => match d with
      | .fallbackParams a _ _ _ _ => some a
      | .uploadPermit a _ _ => some a
      | .compartmentSet a _ => some a
      | _ => none
    (∀ d ∈ s.compose.2, ∀ a, item d = some a ∨ latched d = some a →
      ∃ n ∈ s.nodes, n.addr = a ∧ (n.st = .online ∨ n.st = .probation)) ∧
    (∀ a, (s.compose.2.filter (fun d => item d == some a)).length ≤ 2) ∧
    (s.lines.repeats.length ≤ 8 → s.compose.2.length ≤ 8) ∧
    (s.lines.repeats.length ≤ 8 → s.addrs.Pairwise (fun a b => a < b) →
      let u := s.compose.1
      let copies := s.lines.repeats
      let sent := s.lines.urgent.take (8 - copies.length)
      let directive : Urgent → Directive := fun x => match x with
        | .decision d => .decision d.node d.pres d.granted d.reason d.mode
        | .remoteOpen a => .remoteOpen a
      let report : Urgent → Nat × Entry := fun x => match x with
        | .decision d => (d.arrival,
          { kind := .admission, secs := some d.arrival, node := some d.node, point := some d.point, cred := d.cred,
            serial := some d.serial, outcome := some (if d.granted then .grant else .deny), reason := some d.reason })
        | .remoteOpen a => (s.now, { kind := .remoteOpen, node := some a, point := s.pointOf a })
      let opened : State := sent.foldl (fun v x => match x with
        | .decision d => (match d.granted, d.mode, d.cred with
          | true, some mode, some k => v.openSession d.node mode k
          | _, _, _ => v)
        | .remoteOpen _ => v) s
      let before (a b : Nat) : Prop :=
        s.lines.pointer < a ∧ (b ≤ s.lines.pointer ∨ a ≤ b) ∨ a ≤ s.lines.pointer ∧ b ≤ s.lines.pointer ∧ a ≤ b
      let rank : Directive → Nat := fun d => match d with
        | .fallbackParams _ _ _ _ _ => 0
        | .uploadPermit _ _ _ => 1
        | _ => 2
      ∃ ls ds : List Directive, s.compose.2 = (copies ++ sent).map directive ++ ls ++ ds ∧
        (∀ d ∈ ls, (latched d).isSome = true) ∧ (∀ d ∈ ds, (item d).isSome = true) ∧
        ls.Pairwise (fun d e => ∀ a b, latched d = some a → latched e = some b →
          before a b ∧ (a = b → rank d < rank e)) ∧
        ds.Pairwise (fun d e => ∀ a b, item d = some a → item e = some b → before a b) ∧
        u.lines = { s.lines with
          urgent := s.lines.urgent.drop (8 - copies.length)
          repeats := if s.lines.lineA.st = .degraded ∨ s.lines.lineB.st = .degraded then sent else []
          pointer := ((ds.getLast?.bind item).orElse (fun _ => ls.getLast?.bind latched)).getD s.lines.pointer } ∧
        u.journal = s.journal.pushAll (sent.map report) ∧
        (∀ n ∈ s.nodes, ∃ m, u.node? n.addr = some m ∧
          (opened.node? n.addr).map (·.session) = some m.session ∧
          m = { n with session := m.session, latchFallback := m.latchFallback, latchPermit := m.latchPermit
                       latchComp := m.latchComp, permit := m.permit, cursor := m.cursor, reload := m.reload } ∧
          (let mine := ds.filter (fun d => item d == some n.addr)
           let now : Node := { n with cursor := m.cursor, reload := m.reload }
           (mine = [] ∧ m.cursor = n.cursor ∧ m.reload = n.reload ∨
             (∃ d, mine = [d] ∧ s.NextItem n d m.cursor m.reload) ∨
             ∃ d e c q, mine = [d, e] ∧ s.NextItem n d c q ∧
               s.NextItem { n with cursor := c, reload := q } e m.cursor m.reload) ∧
           (s.compose.2.length < 8 → n.st.answering = true →
             mine.length = 2 ∨ ∀ d c q, ¬ s.NextItem now d c q)) ∧
          (∀ grace mode oos hours, .fallbackParams n.addr grace mode oos hours ∈ ls →
            n.latchFallback = true ∧ m.latchFallback = false ∧ grace = n.clock.grace ∧ mode = n.fallback ∧
            oos = n.enrol.oos ∧ hours = n.enrol.hours.map (Hours.forNode s.settings.localOffset)) ∧
          (∀ base count, .uploadPermit n.addr base count ∈ ls → n.latchPermit = true ∧ m.latchPermit = false ∧
            (n.permit = .latched → base = n.received ∧ count = 16 ∧ m.permit = .placed 16) ∧
            (n.permit ≠ .latched → base = 0 ∧ count = 0 ∧ m.permit = n.permit)) ∧
          (∀ comps, .compartmentSet n.addr comps ∈ ls → n.latchComp = true ∧ m.latchComp = false ∧ comps = n.comps) ∧
          ((∀ d ∈ ls, latched d ≠ some n.addr) → m.latchFallback = n.latchFallback ∧ m.latchPermit = n.latchPermit ∧
            m.latchComp = n.latchComp ∧ m.permit = n.permit) ∧
          (s.compose.2.length < 8 → n.st.answering = true →
            m.latchFallback = false ∧ m.latchPermit = false ∧ m.latchComp = false)) ∧
        u.addrs = s.addrs ∧ Port.noticesOnly s.port u.port ∧
        u = { s with lines := u.lines, nodes := u.nodes, journal := u.journal, port := u.port })

/-- In RUNNING an ENROLL_NODE whose fields pass and whose address and point are free, a SUITE_INNER or MINIBAR node
naming an enrolled ROOM_ENTRY point: the node is enrolled ABSENT with 16 join attempts, initial clock, cursor at the
current generation, reload marked, fallback mode FULL, its enrolment copy, initial compartments, every count 0, all
else empty, and the items latched that 02:R25 latches; NODE_STATE ABSENT is journaled and NODE_CHANGE raised; a
ROOM_ENTRY node also gets its room record with stay sequence 0 and floor 1 and its CLOSED folio. An enrolled address
is refused with WRONG_STATE, a point in use with BAD_FIELD, an entry point that is no enrolled ROOM_ENTRY node with
NOT_FOUND, bad fields with BAD_FIELD. The 15 body bytes read as the fields of Table 10.15 (the number bytes of an
absent part are not looked at, log 15), and they are refused exactly where an address lies outside 1..96, a point
above 4095, a class above 4, a flag or presence byte above 1 (of an absent part too, and ahead of WRONG_STATE for an
enrolled address, the model's reading of the order, log 27 DEDUCED), opening hours above 1439 or equal, a compartment
count outside 1..8 or with another class than MINIBAR, an entry point absent from a class that names one, present in
one that does not, or not its own point in a ROOM_ENTRY node. Rests on 02_lock_nodes_and_their_life_on_the_line.md,
section 2.2, Table 2.2, 05_stays_floors_and_revocation.md, section 5.1, 08_minibars_and_folios.md, sections 8.1 and
8.5, 03_wing_time_and_node_clocks.md, Table 3.4, 05_stays_floors_and_revocation.md, sections 5.4 and 5.5,
02_lock_nodes_and_their_life_on_the_line.md, section 2.3, 10_the_desk_link.md, Tables 10.11 and 10.15. -/
def Obligations.EnrollNodeCreatesItsRecords : Prop :=
  (∀ (tag : Byte) (body : List Byte) (s : State), s.takes → body.length = 15 →
    let refused (st : Status) : Prop := exec (.enrollNode tag body) s = .next (s.answer 0x14 tag false (.plain st))
    (enrolAt body 0 = none → refused .badField) ∧
    ∀ r, enrolAt body 0 = some r →
      let p := r.enrol.point
      let entryMissing : Prop := (r.enrol.cls = .suiteInner ∨ r.enrol.cls = .minibar) ∧
        ∀ e, r.enrol.entry = some e → s.roomNode? e = none
      (s.node? r.addr ≠ none → refused .wrongState) ∧
      (s.node? r.addr = none → (∃ n ∈ s.nodes, n.enrol.point = p) → refused .badField) ∧
      (s.node? r.addr = none → (∀ n ∈ s.nodes, n.enrol.point ≠ p) → entryMissing → refused .notFound) ∧
      (s.node? r.addr = none → (∀ n ∈ s.nodes, n.enrol.point ≠ p) → ¬ entryMissing →
        ∃ u : State, exec (.enrollNode tag body) s = .next (u.answer 0x14 tag false (.plain .ok)) ∧
          u.node? r.addr = some ⟨r.addr, r.enrol, .absent, 16, 0, 0, 0, none, none,
            { d := 0, s := 4000, samples := 0, failed := 0, suspect := false, span := none, anchor := none, grace := 348 },
            { sent := s.revoc.gen, acked := s.revoc.gen, stall := 0 }, .marked, .full,
            ⟨p, r.enrol.cls, r.enrol.entry, r.enrol.comps⟩, true, false, (r.enrol.cls == .minibar), [], none, 0, .none,
            List.replicate (r.enrol.comps.getD 0) ⟨0, 0, 15, 0⟩, none⟩ ∧
          (∀ b, b ≠ r.addr → u.node? b = s.node? b) ∧
          u.journal = s.journal.push s.now
            { kind := .nodeState, node := some r.addr, point := some p, detail1 := some (.nodeState .absent) } ∧
          (r.enrol.cls ≠ .roomEntry → u.revoc = s.revoc ∧ u.minibar = s.minibar) ∧
          (r.enrol.cls = .roomEntry → u.room? p = some ⟨p, 0, 1, [⟨1, s.now⟩], true⟩ ∧
            u.folio? p = some ⟨p, false, 0, s.settings.defaultCeiling, 0, none⟩) ∧
          (∀ q, q ≠ p → u.room? q = s.room? q ∧ u.folio? q = s.folio? q) ∧
          u.port.arm.nodeChange = false ∧ Port.noticesOnly s.port u.port ∧
          u = { s with nodes := u.nodes, revoc := { s.revoc with rooms := u.revoc.rooms },
                       minibar := { s.minibar with folios := u.minibar.folios }, journal := u.journal, port := u.port })) ∧
  (∀ body : List Byte, body.length = 15 → ∃ r : RawEnrol, r.bytes = body) ∧
  ∀ r : RawEnrol, (r.Good → enrolAt r.bytes 0 = some r.request) ∧ (¬ r.Good → enrolAt r.bytes 0 = none)

/-- In RUNNING, no two charge lines naming one compartment: a node that is no ROOM_ENTRY node, or one whose entry
point no other node names, whose folio is not OPEN and which no live GUEST credential names, is withdrawn: its record
is gone, its urgent directives and repeats are removed, the decisions among them journaled DECISION_LATE in queue
order (the model's choice, log 22), its window made dead, its pending charge lines are committed in pool order, each
raising its folio's balance, lowering its pending total and writing MINIBAR_CHARGE, while every other line stays,
NODE_STATE WITHDRAWN is the last record written, NODE_CHANGE is raised, and a ROOM_ENTRY node's room record and folio
are discarded. Otherwise it is refused with WRONG_STATE; an address not enrolled with NOT_FOUND. Rests on
02_lock_nodes_and_their_life_on_the_line.md, section 2.2, 01_the_lock_line.md, section 1.5.3,
08_minibars_and_folios.md, sections 8.1 and 8.4, 02_lock_nodes_and_their_life_on_the_line.md, section 2.3. -/
def Obligations.WithdrawNodeRemovesItsRecords : Prop :=
  ∀ (tag a : Byte) (s : State), s.takes → 1 ≤ a.toNat → a.toNat ≤ 96 →
    (s.node? a.toNat = none → exec (.withdrawNode tag [a]) s = .next (s.answer 0x15 tag false (.plain .notFound))) ∧
    ∀ n, s.node? a.toNat = some n →
      let free : Prop := n.enrol.cls = .roomEntry →
        (∀ m ∈ s.nodes, m.addr ≠ a.toNat → m.enrol.entry ≠ some n.enrol.point) ∧
        (∀ f, s.folio? n.enrol.point = some f → f.isOpen = false) ∧
        ∀ c ∈ s.store.recs, c.st.live = true → c.guestOf n.enrol.point = false
      (¬ free → exec (.withdrawNode tag [a]) s = .next (s.answer 0x15 tag false (.plain .wrongState))) ∧
      let leaves : ChargeLine → Bool := fun l => match n.enrol.cls with
        | .minibar => l.node == a.toNat
        | .roomEntry => l.folio == n.enrol.point
        | _ => false
      let due := s.minibar.pool.filter leaves
      (free → s.minibar.pool.Pairwise (fun l m => ¬ (l.node = m.node ∧ l.comp = m.comp)) →
        ∃ u : State, exec (.withdrawNode tag [a]) s = .next (u.answer 0x15 tag false (.plain .ok)) ∧
        u.node? a.toNat = none ∧
        (∀ b, b ≠ a.toNat → (u.node? b).map (fun m => { m with session := none })
          = (s.node? b).map (fun m => { m with session := none })) ∧
        u.lines = { s.lines with
          urgent := s.lines.urgent.filter (fun x => x.node != a.toNat)
          repeats := s.lines.repeats.filter (fun x => x.node != a.toNat)
          round := s.lines.round.map (fun q => { q with
            windows := q.windows.map (fun w => if w.addr = a.toNat then { w with dead := true } else w)
            inviteDead := q.inviteDead || q.invited == some a.toNat }) } ∧
        u.journal = ((s.journal.pushAll ((s.lines.urgent.filter (fun x => x.node == a.toNat)).filterMap (fun x =>
              match x with
              | .decision d => some (d.arrival, d.entry .decisionLate)
              | .remoteOpen _ => none))).pushAll
            (due.map (fun l => (s.now,
              { kind := .minibarCharge, node := some l.node, point := s.pointOf l.node, amount := some l.amount,
                value1 := some l.comp, value2 := some l.count })))).push s.now
          { kind := .nodeState, node := some a.toNat, point := some n.enrol.point, detail1 := some .withdrawn } ∧
        u.minibar.pool = s.minibar.pool.filter (fun l => !leaves l) ∧
        (∀ p, (n.enrol.cls = .roomEntry → p ≠ n.enrol.point) →
          u.folio? p = (s.folio? p).map (fun f => (due.filter (fun l => l.folio == p)).foldl (fun g l =>
            { g with balance := min 9999999 (g.balance + l.amount), pendingTotal := g.pendingTotal - l.amount }) f)) ∧
        (n.enrol.cls = .roomEntry → u.room? n.enrol.point = none ∧ u.folio? n.enrol.point = none) ∧
        (∀ q, q ≠ n.enrol.point → u.room? q = s.room? q) ∧
        (n.enrol.cls ≠ .roomEntry → u.revoc = s.revoc ∧ (n.enrol.cls ≠ .minibar → u.minibar = s.minibar)) ∧
        u.port.arm.nodeChange = false ∧ Port.noticesOnly s.port u.port ∧
        u = { s with lines := u.lines, nodes := u.nodes, revoc := { s.revoc with rooms := u.revoc.rooms },
                     minibar := u.minibar, journal := u.journal, port := u.port })

/-- In RUNNING, on any 11 bytes, laid out as Table 10.15 gives: a SET_NODE with the address out of range, or a
presence byte, flag or action outside its set, is refused with BAD_FIELD (that such a byte is refused also in an
absent part, and ahead of NOT_FOUND, is the model's reading, log 27); one of an address not enrolled with NOT_FOUND;
opening hours carried above 1439 or empty with BAD_FIELD. Otherwise the flag and hours parts replace the fields and
latch FALLBACK_PARAMS when a value differs; DISABLE takes a node to DISABLED with counts 0, no upload, permit, memory,
span or session, its latched items and urgent directives removed, a reload under way of a node in ONLINE or PROBATION
MARKED and every other field standing; DISABLE of a DISABLED node applies the parts alone; ENABLE takes a DISABLED
node to ABSENT with 16 join attempts, marked for reload, status and memory empty, FALLBACK_PARAMS latched; each change
of state journals NODE_STATE and raises NODE_CHANGE; ENABLE of any other is WRONG_STATE. A frame whose action is
DISABLE or ENABLE is the row of that name, and the number bytes of an absent part are not looked at (log 15). Rests on
02_lock_nodes_and_their_life_on_the_line.md, sections 2.2 and 2.3, 10_the_desk_link.md, section 10.4 and Tables 10.11
and 10.15, 01_the_lock_line.md, sections 1.3 and 1.5.3, 03_wing_time_and_node_clocks.md, section 3.3.4,
06_admission.md, section 6.3, 07_offline_records_and_audit.md, section 7.1, 08_minibars_and_folios.md, section 8.2,
05_stays_floors_and_revocation.md, section 5.5. -/
def Obligations.SetNodeActsOnFieldsAndState : Prop :=
  (∀ body : List Byte, body.length = 11 → ∃ x : RawSetNode, x.bytes = body) ∧
  ∀ (tag : Byte) (x : RawSetNode) (s : State), s.takes →
    let r := x.request
    let i := x.row tag
    let refused (st : Status) : Prop := exec i s = .next (s.answer 0x16 tag false (.plain st))
    let hoursOk : Prop := ∀ h, r.hours = some (some h) → h.start ≤ 1439 ∧ h.stop ≤ 1439 ∧ h.start ≠ h.stop
    (¬ x.Good → refused .badField) ∧ (x.Good → s.node? r.addr = none → refused .notFound) ∧
    ∀ n : Node, x.Good → s.node? r.addr = some n →
    (¬ hoursOk → refused .badField) ∧
    (hoursOk →
    let oos := r.oos.getD n.enrol.oos
    let hours := r.hours.getD n.enrol.hours
    let parts : Node := { n with
      enrol := { n.enrol with oos := oos, hours := hours }
      latchFallback := n.latchFallback || decide (oos ≠ n.enrol.oos ∨ hours ≠ n.enrol.hours) }
    let moved (st : NodeState) : Entry :=
      { kind := .nodeState, node := some n.addr, point := some n.enrol.point, detail1 := some (.nodeState st) }
    let sets (m : Node) : Prop := ∃ u : State, exec i s = .next (u.answer 0x16 tag false (.plain .ok)) ∧
      u.node? r.addr = some m ∧ (∀ b, b ≠ r.addr → u.node? b = s.node? b) ∧ u = { s with nodes := u.nodes }
    (r.action = none → sets parts) ∧
    (r.action = some .disable →
      (n.st = .disabled → sets parts) ∧
      (n.st ≠ .disabled → ∃ u : State, exec i s = .next (u.answer 0x16 tag false (.plain .ok)) ∧
        u.node? r.addr = some { parts with
          st := .disabled, good := 0, missed := 0, silent := 0, upload := none, received := 0, permit := .none
          memory := [], clock := { n.clock with span := none }, session := none
          latchFallback := false, latchPermit := false, latchComp := false
          reload := match n.st, n.reload with
            | .online, .sending _ _ => .marked
            | .online, .awaiting _ _ => .marked
            | .probation, .sending _ _ => .marked
            | .probation, .awaiting _ _ => .marked
            | _, q => q } ∧
        u.port.arm.nodeChange = false ∧
        (∀ b, b ≠ r.addr → u.node? b = s.node? b) ∧
        u.lines = { s.lines with
          urgent := s.lines.urgent.filter (fun x => x.node != r.addr)
          repeats := s.lines.repeats.filter (fun x => x.node != r.addr)
          round := s.lines.round.map (fun q => { q with
            windows := q.windows.map (fun w => if w.addr = r.addr then { w with dead := true } else w)
            inviteDead := q.inviteDead || q.invited == some r.addr }) } ∧
        (∃ es, u.journal = (s.journal.pushAll es).push s.now (moved .disabled) ∧
          ∀ e ∈ es, e.2.kind = .decisionLate) ∧
        Port.noticesOnly s.port u.port ∧
        u = { s with lines := u.lines, nodes := u.nodes, journal := u.journal, port := u.port })) ∧
    (r.action = some .enable →
      (n.st ≠ .disabled → refused .wrongState) ∧
      (n.st = .disabled → ∃ u : State, exec i s = .next (u.answer 0x16 tag false (.plain .ok)) ∧
        u.node? r.addr = some { parts with
          st := .absent, joins := 16, good := 0, missed := 0, lastPres := none, session := none, reload := .marked
          status := none, memory := [], latchFallback := true } ∧
        (∀ b, b ≠ r.addr → u.node? b = s.node? b) ∧
        u.journal = s.journal.push s.now (moved .absent) ∧ u.port.arm.nodeChange = false ∧ Port.noticesOnly s.port u.port ∧
        u = { s with nodes := u.nodes, journal := u.journal, port := u.port })))

/-- In RUNNING: NODE_STATUS of at most 16 addresses replies one 40-byte entry for each, laid out field by field as
Table 10.16 gives with the effective generation of 05:R104 (the bytes of an absent presentation number or of absent
status bits zero, the model's choice, log 40), zeros after the address of one not enrolled, re-arms NODE_CHANGE and
changes nothing else; RELOAD_NODE marks an enrolled node for reload; OPEN_POINT of a node ONLINE or in PROBATION
queues a REMOTE_OPEN, is OK with one already queued, BUSY with the queue full, and WRONG_STATE for another node. Rests
on 02_lock_nodes_and_their_life_on_the_line.md, section 2.6, 05_stays_floors_and_revocation.md, sections 5.4 and 5.5,
06_admission.md, section 6.6, 01_the_lock_line.md, section 1.5.1, 10_the_desk_link.md, Tables 10.11, 10.15 and 10.16.
-/
def Obligations.NodeStatusReloadAndOpenPoint : Prop :=
  ∀ (tag : Byte) (s : State), s.takes →
    (∀ first last : Byte, 1 ≤ first.toNat → first.toNat ≤ last.toNat → last.toNat ≤ 96 →
      last.toNat - first.toNat < 16 →
      let k := last.toNat - first.toNat + 1
      ∃ entries : List (List Byte),
        exec (.nodeStatus tag [first, last]) s
          = .next ({ s with port := { s.port with arm := { s.port.arm with nodeChange := true } } }.answer
              0x17 tag false ⟨.ok, byteOf k :: entries.flatten⟩) ∧
        entries.length = k ∧
        ∀ i, i < k → ∃ e, entries[i]? = some e ∧ e.length = 40 ∧
          (s.node? (first.toNat + i) = none → e = byteOf (first.toNat + i) :: List.replicate 39 0) ∧
          (∀ n, s.node? (first.toNat + i) = some n → ∃ g, s.Effective n g ∧ e = fields (nodeFields g n))) ∧
    (∀ (a : Byte) (n : Node), 1 ≤ a.toNat → a.toNat ≤ 96 → s.node? a.toNat = some n →
      (∃ u : State, exec (.reloadNode tag [a]) s = .next (u.answer 0x18 tag false (.plain .ok)) ∧
        u.node? a.toNat = some { n with reload := .marked } ∧ (∀ b, b ≠ a.toNat → u.node? b = s.node? b) ∧
        u = { s with nodes := u.nodes }) ∧
      (let gives (u : State) (st : Status) : Prop :=
          exec (.openPoint tag [a]) s = .next (u.answer 0x30 tag false (.plain st))
        let answering : Prop := n.st = .online ∨ n.st = .probation
        (¬ answering → gives s .wrongState) ∧
        (answering → .remoteOpen a.toNat ∈ s.lines.urgent → gives s .ok) ∧
        (answering → .remoteOpen a.toNat ∉ s.lines.urgent → 32 ≤ s.lines.urgent.length → gives s .busy) ∧
        (answering → .remoteOpen a.toNat ∉ s.lines.urgent → s.lines.urgent.length < 32 →
          gives { s with lines := { s.lines with urgent := s.lines.urgent ++ [.remoteOpen a.toNat] } } .ok)))

/-- In RUNNING an ISSUE_CARD, on any 33 bytes laid out as Table 10.15 gives, is refused by the first of its checks
that fails: fields (the kind, image 1 present, each image well formed, schedule, entry point and mode as the kind
asks, and each presence byte and the mode in its set, of an absent part too, log 27, its number bytes not looked at,
log 15; bits 5 to 7 of a mask name no class, log 21), entry point, time unset, window, pending issue, no stay, stay
sequence at its limit, schedule. One that passes takes the head of the free list, or with none free reclaims the head
of the retired order after its report to the revocation unit, which makes a list entry naming that number FOREIGN with
number NONE at the tail with a fresh ADD and takes the number out of the changes held, of the node table touching
caches alone, and is refused with NO_SLOT with neither: the slot holds an ENCODING record with lapse time the wing
seconds + the encoding lapse, the fields as carried, its valid end at most 400 days after its valid start, and the
check code of its body under the current key; CARD_ISSUED is journaled; the reply gives the number and the card image,
OK or CLAMPED. Rests on 04_credentials_and_card_issue.md, sections 4.2 to 4.4, 05_stays_floors_and_revocation.md,
sections 5.2 and 5.3, 10_the_desk_link.md, section 10.4 and Tables 10.11, 10.12 and 10.15. -/
def Obligations.IssueCardTakesASlot : Prop :=
  (∀ body : List Byte, body.length = 33 → ∃ x : RawIssue, x.bytes = body) ∧
  ∀ (tag : Byte) (x : RawIssue) (s : State), s.takes →
    let r := x.request
    let room : Option Room := r.entry.bind s.roomOf?
    let refused (st : Status) : Prop := exec (.issueCard tag x.bytes) s = .next (s.answer 0x20 tag false (.plain st))
    (¬ x.Good → refused .badField) ∧
    (∀ p, x.Good → r.entry = some p → (∀ n ∈ s.nodes, n.enrol.cls = .roomEntry → n.enrol.point ≠ p) →
      refused .notFound) ∧
    (x.Good → r.entry = none ∨ room ≠ none →
    let windowBad : Prop := r.validEnd ≤ r.validStart ∨ min r.validEnd (r.validStart + 34560000) ≤ s.now
    let pending : Prop := ∃ m, room = some m ∧ ∃ c ∈ s.store.recs, c.guestOf m.point = true ∧ c.st.isEncoding = true
    let noStay : Prop := r.mode = some .addCard ∧ ∃ m, room = some m ∧ m.stay < m.floor
    let exhausted : Prop := r.mode = some .newStay ∧ ∃ m, room = some m ∧ m.stay = 65535
    let scheduleBad : Prop := ∃ h, r.schedule = some h ∧ h.start = h.stop
    (s.time.isSet = false → refused .timeUnset) ∧
    (s.time.isSet = true → windowBad → refused .windowInvalid) ∧
    (s.time.isSet = true → ¬ windowBad → pending → refused .issuePending) ∧
    (s.time.isSet = true → ¬ windowBad → ¬ pending → noStay → refused .noStay) ∧
    (s.time.isSet = true → ¬ windowBad → ¬ pending → ¬ noStay → exhausted → refused .sequenceExhausted) ∧
    (s.time.isSet = true → ¬ windowBad → ¬ pending → ¬ noStay → ¬ exhausted → scheduleBad → refused .badField) ∧
    (s.time.isSet = true → ¬ windowBad → ¬ pending → ¬ noStay → ¬ exhausted → ¬ scheduleBad →
    let issues (k : Nat) (u : State) : Prop := ∃ c : Cred, u.cred? k = some c ∧
      c.number = k ∧ c.st = .encoding (s.now + s.settings.encodingLapse) ∧ c.kind = r.kind ∧ c.serial = r.serial ∧
      c.image1 = r.image1 ∧ c.image2 = r.image2 ∧ c.validStart = r.validStart ∧
      c.validEnd = min r.validEnd (r.validStart + 34560000) ∧ c.schedule = r.schedule ∧
      c.code = crc32 (fields (cardFields c) ++ s.settings.currentKey) ∧ c.issuedAt = s.now ∧ c.firstUse = none ∧ c.uses = 0 ∧
      (∀ m, room = some m → (r.mode = some .newStay → c.guest = some ⟨m.point, m.stay + 1, .newStay⟩) ∧
        (r.mode = some .addCard → c.guest = some ⟨m.point, m.stay, .addCard⟩)) ∧
      (room = none → c.guest = none) ∧
      exec (.issueCard tag x.bytes) s = .next (u.answer 0x20 tag false
        ⟨if r.validStart + 34560000 < r.validEnd then .clamped else .ok, fields ([(2, k)] ++ cardFields c ++ [(4, c.code)])⟩) ∧
      (∀ j, j ≠ k → u.cred? j = s.cred? j) ∧
      u.journal = s.journal.push s.now
        { kind := .cardIssued, point := c.guest.map (·.entry), cred := some k, serial := some c.serial,
          detail1 := some (.credKind c.kind) } ∧
      Port.noticesOnly s.port u.port
    (∀ k ks, s.store.free = k :: ks → ∃ u : State, issues k u ∧ u.store.free = ks ∧ u.store.retired = s.store.retired ∧
      u = { s with store := u.store, journal := u.journal, port := u.port }) ∧
    (∀ k ks, s.store.free = [] → s.store.retired = k :: ks → ∃ u : State, issues k u ∧ u.store.free = [] ∧
      u.store.retired = ks ∧
      (∀ h ∈ u.revoc.changes, ∀ x, h.body ≠ .add x (some k) ∧ h.body ≠ .remove x (some k)) ∧
      (∀ e, s.revoc.entries.find? (fun x => x.cred == some k) = some e →
        u.revoc.gen = (s.revoc.gen + 1) % 4294967296 ∧
        u.revoc.entries = s.revoc.entries.filter (fun x => x.serial != e.serial)
          ++ [⟨e.serial, none, .foreign, e.retireAt, u.revoc.gen⟩] ∧
        u.revoc.changes.getLast? = some ⟨u.revoc.gen, .add e.serial none⟩) ∧
      ((∀ e ∈ s.revoc.entries, e.cred ≠ some k) →
        u.revoc.gen = s.revoc.gen ∧ u.revoc.entries = s.revoc.entries ∧ u.nodes = s.nodes) ∧
      u.revoc.rooms = s.revoc.rooms ∧ CachesTouched (fun _ => false) s u ∧
      u = { s with store := u.store, revoc := u.revoc, nodes := u.nodes, journal := u.journal, port := u.port }) ∧
    (s.store.free = [] → s.store.retired = [] → refused .noSlot)))

/-- In RUNNING, from partitioned slots, CONFIRM_CARD of a credential in ENCODING is answered OK: it becomes ISSUED,
every other ISSUED, ACTIVE or SUSPENDED credential with its serial becomes REVOKED with RECYCLED, and no list entry
holds its serial. A NEW_STAY whose stay sequence is the room's + 1 makes that the room's stay sequence and floor,
which revokes exactly the room's other current cards below it with SUPERSEDED and, with none of these SUSPENDED and
the floor raised, emits a FLOOR change last, and reopens the folio: of one still OPEN exactly its pending lines are
first committed in pool order, the balance rising by each amount and stopping at 9,999,999 to the closing balance, and
its GUEST sessions end; the folio is then OPEN with balance 0, the default ceiling and opened_at now, every other
folio standing, under the laws of the folios every other line too and the pending total 0. Any other kind or mode
leaves rooms and folios alone. Every other card stands. The journal takes CARD_CONFIRMED, a CARD_REVOKED for each
RECYCLED and then for each SUPERSEDED in number order, a MINIBAR_CHARGE for each line, STAY_CHECKOUT with the closing
balance where the folio was OPEN, and FOLIO_HELD where the reopened folio is held and was not before (log 23), and no
other record. Of the node table only caches and those sessions change. A number above 767 is refused with BAD_FIELD, a
VACANT slot and a credential in any other state with WRONG_STATE. Rests on 04_credentials_and_card_issue.md, section
4.5, 05_stays_floors_and_revocation.md, section 5.1, 08_minibars_and_folios.md, section 8.5,
05_stays_floors_and_revocation.md, sections 5.2 and 5.3, 08_minibars_and_folios.md, section 8.2,
09_the_entry_journal.md, section 9.1. -/
def Obligations.ConfirmCardMakesTheCardCurrent : Prop :=
  ∀ (tag : Byte) (k : Nat) (s : State), s.takes →
    let refused (st : Status) : Prop := exec (.confirmCard tag (le16 k)) s = .next (s.answer 0x21 tag false (.plain st))
    (767 < k → k < 65536 → refused .badField) ∧ (k ≤ 767 → s.cred? k = none → refused .wrongState) ∧
    ∀ c : Cred, k ≤ 767 → s.cred? k = some c →
    ((∀ lapse, c.st ≠ .encoding lapse) → refused .wrongState) ∧
    (∀ lapse, c.st = .encoding lapse → s.store.Law →
      (∀ g, c.guest = some g → g.mode = .newStay →
        c.kind = .guest ∧ ∃ room, s.room? g.entry = some room ∧ g.stay = room.stay + 1) →
      let recycled := s.store.recs.filter (fun d => d.number != k && d.st.current && d.serial == c.serial)
      let ends (superseded : List Cred) (u : State) : Prop := ∀ j, u.cred? j = (s.cred? j).map (fun d =>
        { d with st := if j = k then .issued else if d ∈ recycled then .revoked s.now .recycled
                       else if d ∈ superseded then .revoked s.now .superseded else d.st })
      let written (es : List (Nat × Entry)) (u : State) : Prop := u.journal = (s.journal.push s.now
        { kind := .cardConfirmed, cred := some k, serial := some c.serial }).pushAll
          (s.revokedRecords recycled .recycled ++ es)
      let unlisted (u : State) : Prop := u.revoc.entries = s.revoc.entries.filter (fun e => e.serial != c.serial)
      ∃ u : State, exec (.confirmCard tag (le16 k)) s = .next (u.answer 0x21 tag false (.plain .ok)) ∧
        u.cred? k = some { c with st := .issued } ∧
        (∀ j d, j ≠ k → s.cred? j = some d → d.st.current = true → d.serial = c.serial →
          u.cred? j = some { d with st := .revoked s.now .recycled }) ∧
        (∀ d ∈ u.store.recs, d.st.current = true → d.serial = c.serial → d.number = k) ∧
        u.entry? c.serial = none ∧
        (∀ g room, c.guest = some g → g.mode = .newStay → s.room? g.entry = some room →
          let superseded := if room.floor = g.stay then []
            else (s.guestsOf g.entry (fun stay => decide (stay < g.stay))).filter (fun d => d.serial != c.serial)
          let advanced : Room := { room with stay := g.stay }
          u.room? g.entry = some (if room.floor = g.stay then advanced else
            { advanced with
              floor := g.stay
              history := (⟨g.stay, s.now⟩ :: room.history).take 4
              fromCreation := room.fromCreation && decide (room.history.length < 4) }) ∧
          (∀ q, q ≠ g.entry → u.room? q = s.room? q) ∧ ends superseded u ∧
          ((∀ d ∈ superseded, ∀ w t, d.st ≠ .suspended w t) → unlisted u ∧
            (room.floor ≠ g.stay → u.revoc.changes.getLast? = some ⟨u.revoc.gen, .floor g.entry g.stay⟩)) ∧
          FolioCheckedOut g.entry (fun f => { f with
            isOpen := true, balance := 0, ceiling := s.settings.defaultCeiling, openedAt := some s.now }) s u ∧
          written (s.revokedRecords superseded .superseded ++ s.chargeRecords (s.linesDue g.entry)
            ++ s.closingRecords g.entry ++ s.heldRecords u g.entry) u) ∧
        ((∀ g, c.guest = some g → g.mode = .addCard) →
          u.revoc.rooms = s.revoc.rooms ∧ u.minibar = s.minibar ∧ ends [] u ∧ unlisted u ∧ written [] u) ∧
        CachesTouched (fun n => c.guest.any (fun g => g.mode == .newStay && (s.folio? g.entry).any (·.isOpen) &&
          n.session.any (fun x => x.mode == .guest && x.folio == some g.entry))) s u ∧
        u.store.free = s.store.free ∧ Port.noticesOnly s.port u.port ∧
        u = { s with store := u.store, revoc := u.revoc, nodes := u.nodes, minibar := u.minibar, journal := u.journal,
                     port := u.port })

/-- In RUNNING: CANCEL_ISSUE of an ENCODING record makes its slot VACANT at the tail of the free list and journals
CARD_LAPSED with CANCELLED; SUSPEND_CARD of an ISSUED or ACTIVE one makes it SUSPENDED, adds its serial to the tail of
the list with a fresh ADD change and journals CARD_SUSPENDED, or is refused with LIST_FULL where the list is full
after the removals of 05:R94 (log 19), which take from a list of 256 entries exactly those whose retire_at has passed,
each with its REMOVE change, and from a shorter one none; RESUME_CARD restores the state before, takes the serial off
the list with a fresh REMOVE change, where it stands there, and journals CARD_RESUMED; each is refused with
WRONG_STATE in any other state and for a VACANT slot, and with BAD_FIELD for a number above 767. The last two touch of
the node table caches alone. Rests on 04_credentials_and_card_issue.md, sections 4.5 and 4.6,
05_stays_floors_and_revocation.md, section 5.2, 05_stays_floors_and_revocation.md, section 5.3. -/
def Obligations.CancelSuspendAndResumeACard : Prop :=
  ∀ (tag : Byte) (k : Nat) (s : State), s.takes →
    let refused (st : Status) (i : Instr) (kind : Byte) : Prop := exec i s = .next (s.answer kind tag false (.plain st))
    let each (st : Status) : Prop := refused st (.cancelIssue tag (le16 k)) 0x22 ∧
      refused st (.suspendCard tag (le16 k)) 0x23 ∧ refused st (.resumeCard tag (le16 k)) 0x24
    (767 < k → k < 65536 → each .badField) ∧ (k ≤ 767 → s.cred? k = none → each .wrongState) ∧
    ∀ c : Cred, k ≤ 767 → s.cred? k = some c →
    let entry (kind : RecKind) : Entry := { kind := kind, cred := some k, serial := some c.serial }
    let wrong : Instr → Byte → Prop := refused .wrongState
    ((∀ lapse, c.st ≠ .encoding lapse) → wrong (.cancelIssue tag (le16 k)) 0x22) ∧
    (∀ lapse, c.st = .encoding lapse →
      ∃ u : State, exec (.cancelIssue tag (le16 k)) s = .next (u.answer 0x22 tag false (.plain .ok)) ∧
        u.cred? k = none ∧ (∀ j, j ≠ k → u.cred? j = s.cred? j) ∧ u.store.free = s.store.free ++ [k] ∧
        u.store.retired = s.store.retired ∧
        u.journal = s.journal.push s.now { entry .cardLapsed with detail1 := some (.cause .cancelled) } ∧
        Port.noticesOnly s.port u.port ∧ u = { s with store := u.store, journal := u.journal, port := u.port }) ∧
    (c.st ≠ .issued → c.st ≠ .active → wrong (.suspendCard tag (le16 k)) 0x23) ∧
    RoomAsked s s.askRoom ∧
    (c.st = .issued ∨ c.st = .active →
      (256 ≤ s.askRoom.revoc.entries.length → exec (.suspendCard tag (le16 k)) s
        = .next (s.askRoom.answer 0x23 tag false (.plain .listFull))) ∧
      (s.askRoom.revoc.entries.length < 256 → ∃ u : State,
        exec (.suspendCard tag (le16 k)) s = .next (u.answer 0x23 tag false (.plain .ok)) ∧
        u.cred? k = some { c with st := .suspended (decide (c.st = .active)) s.now } ∧
        (∀ j, j ≠ k → u.cred? j = s.cred? j) ∧ u.store.free = s.store.free ∧ u.store.retired = s.store.retired ∧
        u.revoc.gen = (s.askRoom.revoc.gen + 1) % 4294967296 ∧
        u.revoc.entries = s.askRoom.revoc.entries ++ [⟨c.serial, some k, .suspended, c.validEnd, u.revoc.gen⟩] ∧
        u.revoc.changes.getLast? = some ⟨u.revoc.gen, .add c.serial (some k)⟩ ∧
        u.revoc.rooms = s.revoc.rooms ∧ CachesTouched (fun _ => false) s u ∧
        u.journal = s.journal.push s.now (entry .cardSuspended) ∧ Port.noticesOnly s.port u.port ∧
        u = { s with store := u.store, revoc := u.revoc, nodes := u.nodes, journal := u.journal, port := u.port })) ∧
    ((∀ w t, c.st ≠ .suspended w t) → wrong (.resumeCard tag (le16 k)) 0x24) ∧
    (∀ w t, c.st = .suspended w t →
      ∃ u : State, exec (.resumeCard tag (le16 k)) s = .next (u.answer 0x24 tag false (.plain .ok)) ∧
        u.cred? k = some { c with st := if w then .active else .issued } ∧ (∀ j, j ≠ k → u.cred? j = s.cred? j) ∧
        u.revoc.entries = s.revoc.entries.filter (fun e => e.serial != c.serial) ∧ u.revoc.rooms = s.revoc.rooms ∧
        (∀ e, s.entry? c.serial = some e → u.revoc.gen = (s.revoc.gen + 1) % 4294967296 ∧
          u.revoc.changes.getLast? = some ⟨u.revoc.gen, .remove c.serial e.cred⟩) ∧
        (s.entry? c.serial = none → u.revoc = s.revoc ∧ u.nodes = s.nodes) ∧
        CachesTouched (fun _ => false) s u ∧
        u.journal = s.journal.push s.now (entry .cardResumed) ∧ Port.noticesOnly s.port u.port ∧
        u = { s with store := u.store, revoc := u.revoc, nodes := u.nodes, journal := u.journal, port := u.port })

/-- In RUNNING, from partitioned slots, REVOKE_CARD of a number above 767 is refused with BAD_FIELD, of a VACANT slot
with WRONG_STATE, and for a credential c: SUSPENDED is revoked and its entry reformed to REVOKED; ISSUED or ACTIVE
past its valid end is revoked without an entry; with room in the list it is revoked with an entry until its valid end;
with the list full a GUEST card of an enrolled room is revoked by a rekey of the room, counted and answered REKEYED,
with SEQUENCE_EXHAUSTED at 65,535 and LIST_FULL for another card; any other state is WRONG_STATE. The rekey makes the
stay + 1 the room's stay sequence and floor, returns the room's encoding to VACANT, and revokes exactly its current
GUEST cards below the new floor with REKEYED, c among them from the floor to the stay before, every other card
standing; with none of these SUSPENDED the list stands and one FLOOR change tells the new floor; where the floor
stands there already it revokes no card, tells no change and c stays (the model's choice, log 42); the journal takes
CARD_LAPSED, a CARD_REVOKED for each in number order, then ROOM_REKEYED; other rooms and every folio stand.
REVOKE_SERIAL of a held serial does the same as REVOKE_CARD; of a listed serial it raises the entry's retire_at; of
another it adds a FOREIGN entry for 400 days, or is LIST_FULL. The removals of 05:R94 are those of the entries whose
retire_at has passed, in a list of 256 alone, each with its REMOVE change, and stand on a refusal (log 19). Of the
node table only caches change. Rests on 05_stays_floors_and_revocation.md, sections 5.1 to 5.3,
04_credentials_and_card_issue.md, sections 4.1 and 4.5, 09_the_entry_journal.md, section 9.1. -/
def Obligations.RevokeCardFollowsItsCases : Prop :=
  ∀ (tag : Byte) (s : State), s.takes → s.store.Law →
    let t := s.askRoom
    let rest (u : State) : Prop := Port.noticesOnly s.port u.port ∧ CachesTouched (fun _ => false) s u ∧
      u = { s with store := u.store, revoc := u.revoc, nodes := u.nodes, journal := u.journal, port := u.port }
    RoomAsked s t ∧
    (∀ (k : Nat) (st : Status), (767 < k ∧ k < 65536 ∧ st = .badField) ∨ (k ≤ 767 ∧ s.cred? k = none ∧ st = .wrongState) →
      exec (.revokeCard tag (le16 k)) s = .next (s.answer 0x25 tag false (.plain st))) ∧
    (∀ (k : Nat) (c : Cred), k ≤ 767 → s.cred? k = some c →
      let revEntry (r : RevReason) : Entry :=
        { kind := .cardRevoked, cred := some k, serial := some c.serial, detail1 := some (.revReason r) }
      let gives (u : State) (st : Status) : Prop :=
        exec (.revokeCard tag (le16 k)) s = .next (u.answer 0x25 tag false (.plain st))
      let revoked (u : State) : Prop := gives u .ok ∧ u.cred? k = some { c with st := .revoked s.now .revokedByDesk } ∧
        (∀ j, j ≠ k → u.cred? j = s.cred? j) ∧ k ∈ u.store.retired ∧ u.store.free = s.store.free ∧
        u.revoc.rooms = s.revoc.rooms ∧ u.journal = s.journal.push s.now (revEntry .revokedByDesk) ∧ rest u
      let current : Prop := c.st = .issued ∨ c.st = .active
      (∀ w at_, c.st = .suspended w at_ → ∃ u : State, revoked u ∧
        ∀ e, s.entry? c.serial = some e →
          u.entry? c.serial = some { e with reason := .revoked, gen := u.revoc.gen } ∧
          u.revoc.gen = (s.revoc.gen + 1) % 4294967296) ∧
      (current → c.validEnd ≤ s.now → ∃ u : State, revoked u ∧ u.revoc = s.revoc) ∧
      (current → s.now < c.validEnd → t.revoc.entries.length < 256 → ∃ u : State, revoked u ∧
        u.revoc.entries = t.revoc.entries ++ [⟨c.serial, some k, .revoked, c.validEnd, u.revoc.gen⟩] ∧
        u.revoc.gen = (t.revoc.gen + 1) % 4294967296) ∧
      (current → s.now < c.validEnd → 256 ≤ t.revoc.entries.length →
        (c.kind ≠ .guest → gives t .listFull) ∧
        (∀ g, c.kind = .guest → c.guest = some g → s.roomOf? g.entry = none → gives t .listFull) ∧
        (∀ g room, c.kind = .guest → c.guest = some g → s.roomOf? g.entry = some room →
          (room.stay = 65535 → gives t .sequenceExhausted) ∧
          (room.stay < 65535 → ∃ u : State,
            let v := room.stay + 1
            let ended : Nat → Bool := fun stay => decide (room.floor ≠ v ∧ stay < v)
            let cards := s.guestsOf g.entry ended
            let advanced : Room := { room with stay := v }
            gives u .rekeyed ∧ GuestsEnded g.entry ended .rekeyed s u ∧
            (room.floor ≤ g.stay → g.stay ≤ room.stay → u.cred? k = some { c with st := .revoked s.now .rekeyed }) ∧
            u.room? g.entry = some (if room.floor = v then advanced else
              { advanced with
                floor := v
                history := (⟨v, s.now⟩ :: room.history).take 4
                fromCreation := room.fromCreation && decide (room.history.length < 4) }) ∧
            (∀ q, q ≠ g.entry → u.room? q = s.room? q) ∧
            (room.floor ≠ v → FloorTold g.entry v cards t u) ∧
            (room.floor = v → u.revoc.gen = t.revoc.gen ∧ u.revoc.entries = t.revoc.entries ∧
              u.revoc.changes = t.revoc.changes) ∧
            u.journal = (s.journal.pushAll (s.lapsedRecords (s.encodingOf g.entry) .rekeyRoom
              ++ s.revokedRecords cards .rekeyed)).push s.now
                { kind := .roomRekeyed, point := some g.entry, value1 := some v, value2 := some v } ∧
            u.revoc.rekeys = min 65535 (s.revoc.rekeys + 1) ∧ u.minibar = s.minibar ∧ rest u))) ∧
      ((∀ w at_, c.st ≠ .suspended w at_) → ¬ current → gives s .wrongState) ∧
      (s.holder? c.serial = some c → c.serial < 4294967296 →
        exec (.revokeSerial tag (le32 c.serial)) s
          = .next ((serveRevoke c s).1.answer 0x26 tag false (serveRevoke c s).2) ∧
        exec (.revokeCard tag (le16 k)) s
          = .next ((serveRevoke c s).1.answer 0x25 tag false (serveRevoke c s).2))) ∧
    (∀ x, x < 4294967296 → s.holder? x = none →
      (∀ e, s.entry? x = some e → ∃ u : State,
        exec (.revokeSerial tag (le32 x)) s = .next (u.answer 0x26 tag false (.plain .ok)) ∧
        u.entry? x = some { e with retireAt := max e.retireAt (s.now + 34560000) } ∧
        (∀ y, y ≠ x → u.entry? y = s.entry? y) ∧
        u = { s with revoc := { s.revoc with entries := u.revoc.entries } }) ∧
      (s.entry? x = none → t.revoc.entries.length < 256 → ∃ u : State,
        exec (.revokeSerial tag (le32 x)) s = .next (u.answer 0x26 tag false (.plain .ok)) ∧
        u.revoc.entries = t.revoc.entries ++ [⟨x, none, .foreign, s.now + 34560000, u.revoc.gen⟩] ∧
        u.revoc.gen = (t.revoc.gen + 1) % 4294967296 ∧ u.store = s.store ∧ u.journal = s.journal ∧ rest u) ∧
      (s.entry? x = none → 256 ≤ t.revoc.entries.length →
        exec (.revokeSerial tag (le32 x)) s = .next (t.answer 0x26 tag false (.plain .listFull))))

/-- In RUNNING: CARD_STATUS by number replies 77 bytes, the slot's 71-byte entry, laid out field by field as Tables
10.12 and 10.16 give (the bytes of an absent field zero, the model's choice, log 40; state 0 and zeros for a VACANT
slot), and the lengths of the free list, the retired order and the live set, and by serial those of the current
holder, or NOT_FOUND; it changes nothing. PURGE_RETIRED makes VACANT the longest run at the head of the retired order
whose retired_at plus the age lies below the wing seconds, moves it to the tail of the free list in that order, and
replies its length; of the node table only caches change. Rests on 04_credentials_and_card_issue.md, sections 4.4, 4.7
and 4.8, 05_stays_floors_and_revocation.md, sections 5.2 and 5.3, 10_the_desk_link.md, Tables 10.11, 10.12 and 10.16.
-/
def Obligations.CardStatusReportsAndPurgeFrees : Prop :=
  ∀ (tag : Byte) (s : State), s.takes →
    let counts : List (Nat × Nat) := [(2, s.store.free.length), (2, s.store.retired.length), (2, s.liveCount)]
    let replies (body content : List Byte) : Prop := content.length = 77 ∧
      exec (.cardStatus tag body) s = .next (s.answer 0x27 tag false ⟨.ok, content⟩)
    (∀ k, k ≤ 767 →
      (s.cred? k = none →
        replies ([1] ++ le16 k ++ [0, 0, 0, 0, 0]) (le16 k ++ [0] ++ List.replicate 68 0 ++ fields counts)) ∧
      (∀ c, s.cred? k = some c → replies ([1] ++ le16 k ++ [0, 0, 0, 0, 0]) (fields (credFields c ++ counts)))) ∧
    (∀ x, x < 4294967296 →
      (∀ c, s.holder? x = some c → replies ([0, 0, 0, 1] ++ le32 x) (fields (credFields c ++ counts))) ∧
      (s.holder? x = none → exec (.cardStatus tag ([0, 0, 0, 1] ++ le32 x)) s
        = .next (s.answer 0x27 tag false (.plain .notFound)))) ∧
    (∀ age, age < 4294967296 → ∃ (ks rest : List Nat) (u : State), s.store.retired = ks ++ rest ∧
      (∀ k ∈ ks, s.retiredAt k + age < s.now) ∧ (∀ k, rest.head? = some k → s.now ≤ s.retiredAt k + age) ∧
      exec (.purgeRetired tag (le32 age)) s = .next (u.answer 0x28 tag false ⟨.ok, le16 ks.length⟩) ∧
      u.store.free = s.store.free ++ ks ∧ u.store.retired = rest ∧ (∀ k ∈ ks, u.cred? k = none) ∧
      (∀ k, k ∉ ks → u.cred? k = s.cred? k) ∧ u.revoc.rooms = s.revoc.rooms ∧
      CachesTouched (fun _ => false) s u ∧ Port.noticesOnly s.port u.port ∧
      u = { s with store := u.store, revoc := u.revoc, nodes := u.nodes, port := u.port })

/-- In RUNNING, from partitioned slots, for an enrolled room: REKEY_ROOM raises stay and floor by 1, leaving folios
alone; CHECKOUT makes the floor the stay + 1 (at 65,535 stay 0 and floor 1) and closes the folio: of an OPEN one
exactly its pending lines are committed in pool order, the balance rising by each amount and stopping at 9,999,999,
its GUEST sessions ended, every other folio standing, under the laws of the folios every other line too and the
pending total 0, and the final balance is replied; RESEQUENCE sets stay 0 and floor 1 and marks the room's nodes for
reload. Each returns the room's encoding to VACANT and revokes exactly its current GUEST cards below the new floor
(after RESEQUENCE, or CHECKOUT at 65,535, all), every other card standing; with none of these SUSPENDED the list
stands and one FLOOR change tells the new floor. The journal takes CARD_LAPSED, a CARD_REVOKED for each in number
order, a MINIBAR_CHARGE for each line, then STAY_CHECKOUT with the final balance, or ROOM_REKEYED, and no other
record. A point above 4095 is refused with BAD_FIELD and one of no enrolled ROOM_ENTRY node with NOT_FOUND. Without a
current stay the first two are refused with NO_STAY, REKEY_ROOM at 65,535 with SEQUENCE_EXHAUSTED. Of the node table
only caches and those sessions change. Rests on 05_stays_floors_and_revocation.md, section 5.1,
04_credentials_and_card_issue.md, section 4.5, 08_minibars_and_folios.md, section 8.5,
05_stays_floors_and_revocation.md, sections 5.2, 5.3 and 5.5, 08_minibars_and_folios.md, section 8.2,
09_the_entry_journal.md, section 9.1. -/
def Obligations.RoomCommandsMoveStayAndFloor : Prop :=
  ∀ (tag : Byte) (p : Nat) (s : State), s.takes →
    let refused (st : Status) : Prop :=
      exec (.rekeyRoom tag (le16 p)) s = .next (s.answer 0x2C tag false (.plain st)) ∧
      exec (.checkout tag (le16 p)) s = .next (s.answer 0x2D tag false (.plain st)) ∧
      exec (.resequence tag (le16 p)) s = .next (s.answer 0x2E tag false (.plain st))
    (4095 < p → p < 65536 → refused .badField) ∧
    (p ≤ 4095 → (∀ n ∈ s.nodes, n.enrol.cls = .roomEntry → n.enrol.point ≠ p) → refused .notFound) ∧
    ∀ room : Room, p ≤ 4095 → s.roomOf? p = some room → s.store.Law →
    let below (u : State) (v : Nat) : Prop :=
      ∀ c ∈ u.store.recs, c.guestOf p = true → c.st.current = true → ∀ g, c.guest = some g → v ≤ g.stay
    let noneCurrent (u : State) : Prop := ∀ c ∈ u.store.recs, c.guestOf p = true → c.st.current = false
    let others (u : State) : Prop := ∀ q, q ≠ p → u.room? q = s.room? q
    let records (cause : LapseCause) (test : Nat → Bool) (r : RevReason) : List (Nat × Entry) :=
      s.lapsedRecords (s.encodingOf p) cause ++ s.revokedRecords (s.guestsOf p test) r
    let written (u : State) (es : List (Nat × Entry)) (e : Entry) : Prop := u.journal = (s.journal.pushAll es).push s.now e
    let every : Nat → Bool := fun _ => true
    let next : Nat → Bool := fun stay => decide (stay < room.stay + 1)
    let raised : Room := { room with
      floor := room.stay + 1
      history := (⟨room.stay + 1, s.now⟩ :: room.history).take 4
      fromCreation := room.fromCreation && decide (room.history.length < 4) }
    let fresh : Room := ⟨p, 0, 1, [⟨1, s.now⟩], false⟩
    let marked (u : State) : Prop := ∀ n ∈ u.nodes, n.enrol.entry = some p → n.reload = .marked
    let rest (ended : Node → Bool) (u : State) : Prop := Port.noticesOnly s.port u.port ∧ CachesTouched ended s u ∧
      u = { s with store := u.store, revoc := u.revoc, nodes := u.nodes, minibar := u.minibar, journal := u.journal,
                   port := u.port }
    (room.floor ≠ room.stay →
      exec (.rekeyRoom tag (le16 p)) s = .next (s.answer 0x2C tag false (.plain .noStay)) ∧
      exec (.checkout tag (le16 p)) s = .next (s.answer 0x2D tag false (.plain .noStay))) ∧
    (room.floor = room.stay →
      (room.stay = 65535 →
        exec (.rekeyRoom tag (le16 p)) s = .next (s.answer 0x2C tag false (.plain .sequenceExhausted))) ∧
      (room.stay < 65535 → ∃ u : State, exec (.rekeyRoom tag (le16 p)) s
          = .next (u.answer 0x2C tag false ⟨.ok, le16 (room.stay + 1) ++ le16 (room.stay + 1)⟩) ∧
        u.room? p = some { raised with stay := room.stay + 1 } ∧ others u ∧ below u (room.stay + 1) ∧
        GuestsEnded p next .rekeyed s u ∧ FloorTold p (room.stay + 1) (s.guestsOf p next) s u ∧ u.minibar = s.minibar ∧
        written u (records .rekeyRoom next .rekeyed)
          { kind := .roomRekeyed, point := some p, value1 := some (room.stay + 1), value2 := some (room.stay + 1) } ∧
        rest (fun _ => false) u) ∧
      (∃ u : State,
        let m := if room.stay < 65535 then raised else fresh
        let test := if room.stay < 65535 then next else every
        exec (.checkout tag (le16 p)) s
          = .next (u.answer 0x2D tag false ⟨.ok, le32 (s.finalBalance p) ++ le16 m.stay ++ le16 m.floor⟩) ∧
        u.room? p = some m ∧ others u ∧ (room.stay < 65535 → below u (room.stay + 1)) ∧
        (room.stay = 65535 → noneCurrent u ∧ marked u) ∧
        GuestsEnded p test .superseded s u ∧ FloorTold p m.floor (s.guestsOf p test) s u ∧
        FolioCheckedOut p (fun f => { f with isOpen := false }) s u ∧
        (∀ f, s.folio? p = some f → f.isOpen = true →
          ∀ n ∈ u.nodes, ∀ x, n.session = some x → x.mode = .guest → x.folio ≠ some p) ∧
        written u (records .checkout test .superseded ++ s.chargeRecords (s.linesDue p))
          { kind := .stayCheckout, point := some p, amount := some (s.finalBalance p) } ∧
        rest (fun n => (s.folio? p).any (·.isOpen) &&
          n.session.any (fun x => x.mode == .guest && x.folio == some p)) u)) ∧
    (∃ u : State, exec (.resequence tag (le16 p)) s = .next (u.answer 0x2E tag false (.plain .ok)) ∧
      u.room? p = some fresh ∧ others u ∧ noneCurrent u ∧ GuestsEnded p every .superseded s u ∧
      FloorTold p 1 (s.guestsOf p every) s u ∧ u.minibar = s.minibar ∧ marked u ∧
      written u (records .resequence every .superseded)
        { kind := .roomRekeyed, point := some p, value1 := some 0, value2 := some 1 } ∧
      rest (fun _ => false) u)

/-- A change emitted takes the next generation and joins the tail of the change journal. With 512 held the oldest is
dropped first: each node that is not DISABLED and has no reload marked or under way is MARKED when its effective
generation lies below the dropped one, each whose reload is under way is MARKED when the dropped one lies above its
snapshot generation, and every other node stays. A list entry added emits its ADD, and then every node in FULL to
which it is relevant and whose cache count exceeds 256 is RESTRICTED with FALLBACK_PARAMS latched, NODE_CHANGE raised
once one is, and nothing else changes. A list entry removed emits its REMOVE, and then every RESTRICTED node with no
reload marked or under way whose cache count has fallen, to 256 or less, is MARKED. REVOKE_SERIAL of a serial that
neither card nor list holds, with room, adds an entry so, and RESUME_CARD removes one so. Rests on
05_stays_floors_and_revocation.md, sections 5.2 to 5.5, 02_lock_nodes_and_their_life_on_the_line.md, section 2.5,
04_credentials_and_card_issue.md, section 4.6. -/
def Obligations.EmittedChangesDropTheOldestAndLimitCaches : Prop :=
  (∀ (b : ChangeBody) (s : State),
    let g := (s.revoc.gen + 1) % 4294967296
    let u := s.emit b
    (s.revoc.changes.length < 512 →
      u = { s with revoc := { s.revoc with gen := g, changes := s.revoc.changes ++ [⟨g, b⟩] } }) ∧
    (∀ (c : Change) (cs : List Change), s.revoc.changes = c :: cs → 512 ≤ s.revoc.changes.length →
      u = { s with nodes := u.nodes, revoc := { s.revoc with gen := g, changes := cs ++ [⟨g, b⟩] } } ∧
      List.Forall₂ (fun n m : Node => (s.DropMarks c.gen n → m = { n with reload := .marked }) ∧
        (¬ s.DropMarks c.gen n → m = n)) s.nodes u.nodes)) ∧
  (∀ (serial : Nat) (cred : Option Nat) (reason : ListReason) (retireAt : Nat) (s : State), s.addrs.Nodup →
    let t := s.emit (.add serial cred)
    let w : State := { t with revoc := { t.revoc with
      entries := t.revoc.entries ++ [⟨serial, cred, reason, retireAt, t.revoc.gen⟩] } }
    let u := s.pushEntry serial cred reason retireAt
    let passes (n : Node) : Prop := n.fallback = .full ∧ w.Concerns cred n ∧ ∃ k, w.Caches n k ∧ 256 < k
    List.Forall₂ (fun n m : Node => (passes n → m = { n with fallback := .restricted, latchFallback := true }) ∧
      (¬ passes n → m = n)) w.nodes u.nodes ∧
    (s.part = .running → (∃ n ∈ w.nodes, passes n) → u.port.arm.nodeChange = false) ∧
    ((∀ n ∈ w.nodes, ¬ passes n) → u = w) ∧
    Port.noticesOnly s.port u.port ∧ u = { w with nodes := u.nodes, port := u.port }) ∧
  (∀ (e : ListEntry) (s : State), s.addrs.Nodup →
    let t := ({ s with revoc := { s.revoc with
      entries := s.revoc.entries.filter (fun x => x.serial != e.serial) } } : State).emit (.remove e.serial e.cred)
    let u := s.removeEntry e
    let falls (n : Node) : Prop := n.fallback = .restricted ∧ n.reload = .none ∧
      ∃ j k, s.Caches n j ∧ t.Caches n k ∧ k ≤ 256 ∧ k < j
    List.Forall₂ (fun n m : Node => (falls n → m = { n with reload := .marked }) ∧ (¬ falls n → m = n)) t.nodes u.nodes ∧
    u = { t with nodes := u.nodes }) ∧
  (∀ (tag : Byte) (x : Nat) (s : State), s.takes → x < 4294967296 → s.holder? x = none → s.entry? x = none →
    s.revoc.entries.length < 256 → exec (.revokeSerial tag (le32 x)) s
      = .next ((s.pushEntry x none .foreign (s.now + 34560000)).answer 0x26 tag false (.plain .ok))) ∧
  ∀ (tag : Byte) (k at_ : Nat) (wasActive : Bool) (c : Cred) (e : ListEntry) (s : State), s.takes → k ≤ 767 →
    s.cred? k = some c → c.st = .suspended wasActive at_ → s.entry? c.serial = some e →
    let v := s.modCred k (fun d => { d with st := if wasActive then .active else .issued })
    ∃ u : State, exec (.resumeCard tag (le16 k)) s = .next (u.answer 0x24 tag false (.plain .ok)) ∧
      u.nodes = (v.removeEntry e).nodes ∧ u.revoc = (v.removeEntry e).revoc

/-- In RUNNING: SET_COMPARTMENT replaces a compartment, its stock at most the capacity, and latches COMPARTMENT_SET,
or is WRONG_STATE while a charge line names it; SET_CEILING of an OPEN folio sets the ceiling, at most 9,999,999, and
journals FOLIO_HELD when the folio becomes held by it, of a CLOSED one is WRONG_STATE; SETTLE lowers the balance,
stopping at 0 with CLAMPED, and journals FOLIO_SETTLED with the amount settled, above 9,999,999 it is BAD_FIELD;
FOLIO_STATUS replies the folio with its held flag, its lines in pool order and its first 16 minibars with their
sessions, laid out field by field as Table 10.16 gives (the bytes of an absent opened_at or session zero, the model's
choice, log 40), and changes nothing. Rests on 08_minibars_and_folios.md, sections 8.1 and 8.5, 10_the_desk_link.md,
Tables 10.11 and 10.16. -/
def Obligations.MinibarCommandsActOnTheirFolio : Prop :=
  ∀ (tag : Byte) (s : State), s.takes →
    (∀ (a c cap stock : Byte) (item price : Nat) (n : Node), 1 ≤ a.toNat → a.toNat ≤ 96 → s.node? a.toNat = some n →
      n.enrol.cls = .minibar → 1 ≤ c.toNat → c.toNat ≤ n.comps.length → n.enrol.comps = some n.comps.length →
      item < 65536 → price ≤ 65535 → 1 ≤ cap.toNat → cap.toNat ≤ 15 →
      let i : Instr := .setCompartment tag ([a, c] ++ le16 item ++ le32 price ++ [cap, stock])
      (s.lineFor? a.toNat c.toNat ≠ none → exec i s = .next (s.answer 0x34 tag false (.plain .wrongState))) ∧
      (s.lineFor? a.toNat c.toNat = none → ∃ u : State,
        exec i s = .next (u.answer 0x34 tag false (.plain (if cap.toNat < stock.toNat then .clamped else .ok))) ∧
        u.node? a.toNat = some { n with
          comps := n.comps.set (c.toNat - 1) ⟨item, price, cap.toNat, min cap.toNat stock.toNat⟩
          latchComp := true } ∧
        (∀ b, b ≠ a.toNat → u.node? b = s.node? b) ∧ u = { s with nodes := u.nodes })) ∧
    (∀ (p v : Nat) (f : Folio), p ≤ 4095 → v < 4294967296 → s.folio? p = some f →
      let rest (u : State) : Prop := (∀ q, q ≠ p → u.folio? q = s.folio? q) ∧ u.minibar.pool = s.minibar.pool ∧
        Port.noticesOnly s.port u.port ∧ u = { s with minibar := u.minibar, journal := u.journal, port := u.port }
      (f.isOpen = false → exec (.setCeiling tag (le16 p ++ le32 v)) s
        = .next (s.answer 0x35 tag false (.plain .wrongState))) ∧
      (f.isOpen = true → ∃ u : State, exec (.setCeiling tag (le16 p ++ le32 v)) s
          = .next (u.answer 0x35 tag false (.plain (if 9999999 < v then .clamped else .ok))) ∧
        u.folio? p = some { f with ceiling := min 9999999 v } ∧
        u.journal = (if f.balance + f.pendingTotal < f.ceiling ∧ min 9999999 v ≤ f.balance + f.pendingTotal
          then s.journal.push s.now
            { kind := .folioHeld, point := some p, node := (s.roomNode? p).map Node.addr,
              amount := some (min 9999999 (f.balance + f.pendingTotal)) }
          else s.journal) ∧ rest u) ∧
      (9999999 < v → exec (.settle tag (le16 p ++ le32 v)) s = .next (s.answer 0x36 tag false (.plain .badField))) ∧
      (v ≤ 9999999 → ∃ u : State, exec (.settle tag (le16 p ++ le32 v)) s
          = .next (u.answer 0x36 tag false ⟨if f.balance < v then .clamped else .ok, le32 (f.balance - v)⟩) ∧
        u.folio? p = some { f with balance := f.balance - v } ∧
        u.journal = s.journal.push s.now
          { kind := .folioSettled, point := some p, amount := some (min v f.balance) } ∧ rest u) ∧
      (let lines := s.minibar.pool.filter (fun l => l.folio == p)
       let minibars := s.nodes.filter (fun n => n.enrol.cls == .minibar && n.enrol.entry == some p)
       let content := fields (folioFields f lines minibars)
       content.length = 21 + 13 * lines.length + 9 * min 16 minibars.length ∧
       exec (.folioStatus tag (le16 p)) s = .next (s.answer 0x37 tag false ⟨.ok, content⟩)))

/-- An append to a full journal drops its oldest record, an acknowledged one without trace, an unacknowledged one with
a gap count in the new record that takes in the dropped record's own. In RUNNING a record written with the
unacknowledged count then at or above the journal threshold raises JOURNAL_WAITING with that count and the next
number; below it, or outside RUNNING, nothing beside the journal changes. In RUNNING, with a law-abiding journal:
READ_JOURNAL from a number held returns up to max records from it; from one behind the oldest, from the oldest on with
SKIPPED; from another, none; each record in the 42 bytes of Table 10.13, behind the flag, the oldest number held (with
none held a free value, log 18), the next number and the counts; with none held it returns none, with SKIPPED for a
number behind; it re-arms JOURNAL_WAITING and ALARM. ACK_JOURNAL of a number held raises the count to take it in, of
one behind leaves it, of another takes in all with CLAMPED, and with none held is OK and leaves the journal; then each
upload waiting for room has its permit latched when 64 places are free. The replies are laid out field by field as
Tables 10.13 and 10.16 give. Rests on 09_the_entry_journal.md, sections 9.2 to 9.4, 07_offline_records_and_audit.md,
section 7.2, 10_the_desk_link.md, section 10.5 and Tables 10.11, 10.13 and 10.16. -/
def Obligations.JournalReadsAndAcknowledges : Prop :=
  (∀ (secs : Nat) (e : Entry) (j : Journal) (r : Rec) (rs : List Rec), j.recs = r :: rs → 2048 ≤ j.recs.length →
    j.push secs e = ⟨rs ++ [⟨j.next, secs, e, if j.acked = 0 then some (min 65535 (1 + r.gap.getD 0)) else none⟩],
      j.acked - 1, (j.next + 1) % 4294967296⟩) ∧
  (∀ (secs : Nat) (e : Entry) (j : Journal), j.recs.length < 2048 →
    j.push secs e = ⟨j.recs ++ [⟨j.next, secs, e, none⟩], j.acked, (j.next + 1) % 4294967296⟩) ∧
  (∀ (e : Entry) (s : State),
    let u := s.append e
    let unacked := u.journal.recs.length - u.journal.acked
    u.journal = s.journal.push (e.secs.getD s.now) e ∧ Port.noticesOnly s.port u.port ∧
    u = { s with journal := u.journal, port := u.port } ∧
    (s.part ≠ .running ∨ unacked < s.settings.journalThreshold → u.port = s.port) ∧
    (s.part = .running → s.settings.journalThreshold ≤ unacked →
      u.port.arm = { s.port.arm with journalWaiting := false } ∧
      (s.port.arm.journalWaiting = true →
        OutFrame.notice 0x61 (fields [(2, unacked), (4, u.journal.next)]) ∈ u.port.frames) ∧
      (s.port.arm.journalWaiting = false → u.port = s.port))) ∧
  ∀ (tag : Byte) (x : Nat) (s : State), s.takes → x < 4294967296 → s.journal.Law →
    let j := s.journal
    let k := sub32 j.next x
    let reads (max : Byte) (skipped : Bool) (oldest : Nat) (rs : List Rec) : Prop :=
      exec (.readJournal tag (le32 x ++ [max])) s = .next ({ s with port := { s.port with
        arm := { s.port.arm with journalWaiting := true, alarm := true } } }.answer 0x3A tag false
        ⟨.ok, fields ([(1, skipped.toNat), (4, oldest), (4, j.next), (2, j.acked), (2, j.recs.length - j.acked),
          (1, rs.length)] ++ rs.flatMap recFields)⟩) ∧
      ∀ q ∈ rs, (fields (recFields q)).length = 42
    let acks (st : Status) (acked : Nat) : Prop := ∃ u : State, exec (.ackJournal tag (le32 x)) s
        = .next (u.answer 0x3B tag false ⟨st, fields [(2, acked), (2, j.recs.length - acked),
          (2, 2048 - (j.recs.length - acked)), (4, j.next)]⟩) ∧
      (∀ a n, s.node? a = some n → u.node? a = some (
        if n.upload.isSome = true ∧ n.permit = .none ∧ 64 ≤ 2048 - (j.recs.length - acked)
        then { n with permit := .latched, latchPermit := true } else n)) ∧
      u = { s with journal := { j with acked := acked }, nodes := u.nodes }
    (∀ (max : Byte) (r : Rec), 1 ≤ max.toNat → max.toNat ≤ 16 → j.recs.head? = some r →
      (1 ≤ k → k ≤ j.recs.length → ∃ q rs, q.seq = x ∧ j.recs.drop (j.recs.length - k) = q :: rs ∧
        reads max false r.seq ((q :: rs).take max.toNat)) ∧
      (j.recs.length < k → k ≤ 2147483648 → reads max true r.seq (j.recs.take max.toNat)) ∧
      (k = 0 ∨ 2147483648 < k → reads max false r.seq [])) ∧
    (∀ max : Byte, 1 ≤ max.toNat → max.toNat ≤ 16 → j.recs = [] →
      reads max (decide (1 ≤ k ∧ k ≤ 2147483648)) Config.oldestSeqUnheld.toNat []) ∧
    (j.recs ≠ [] →
      (1 ≤ k → k ≤ j.recs.length → acks .ok (max j.acked (j.recs.length - k + 1))) ∧
      (j.recs.length < k → k ≤ 2147483648 → acks .ok j.acked) ∧
      (k = 0 ∨ 2147483648 < k → acks .clamped j.recs.length)) ∧
    (j.recs = [] → acks .ok j.acked)

/-- An evaluation grants exactly when the credential is found with its serial and check code, is ISSUED or ACTIVE, its
window holds the arrival time, its stay is not below the floor, its schedule and the node's hours hold the local
minute, it claims the point, no out-of-service flag or privacy latch stops its kind, and at a MINIBAR a guest's own
folio is OPEN and not held. A denial gives the reason of the first test that fails, in the order of Table 6.1, and no
mode. Then a grant is counted on the credential, the decision joins the front of a memory of two, and a DECISION joins
the urgent queue, or with the queue full or its number already there DECISION_LATE is journaled. Rests on
06_admission.md, sections 6.1 to 6.3, 04_credentials_and_card_issue.md, sections 4.4 and 4.7, 01_the_lock_line.md,
section 1.5.1. -/
def Obligations.GrantsPassEveryStage : Prop :=
  (∀ (n : Node) (p : Presentation) (now : Nat) (s : State),
    let v := s.evaluate n p now
    (v.granted = true ↔ ∃ c, s.cred? p.cred.toNat = some c ∧ p.cred.toNat ≤ 767 ∧ c.serial = p.serial.toNat ∧
      p.stay.toNat = (c.guest.map (·.stay)).getD 0 ∧
      (p.code.toNat = crc32 (c.body ++ s.settings.currentKey) ∨ p.code.toNat = crc32 (c.body ++ s.settings.previousKey)) ∧
      (c.st = .issued ∨ c.st = .active) ∧ c.validStart ≤ now ∧ now ≤ c.validEnd ∧
      (c.kind = .guest → ∀ g, c.guest = some g → ∃ room, s.room? g.entry = some room ∧ room.floor ≤ g.stay) ∧
      (∀ h, c.schedule = some h → h.inside (localMinute s.settings.localOffset now) = true) ∧
      (c.image1.covers n.enrol.point n.enrol.cls = true
        ∨ (∃ i, c.image2 = some i ∧ i.covers n.enrol.point n.enrol.cls = true) ∨ c.kind = .emergency) ∧
      (c.kind = .guest → n.enrol.oos = false ∧
        ∀ h, n.enrol.hours = some h → h.inside (localMinute s.settings.localOffset now) = true) ∧
      (c.kind ≠ .emergency → ∀ b, n.status = some b → b.privacy = false) ∧
      (n.enrol.cls = .minibar → c.kind = .guest → ∃ e f, n.enrol.entry = some e ∧ s.folio? e = some f ∧
        f.isOpen = true ∧ c.guest.map (·.entry) = some e ∧ f.balance + f.pendingTotal < f.ceiling)) ∧
    (let held (f : Cred → Prop) : Prop := ∃ c, s.cred? p.cred.toNat = some c ∧ f c
     let minute := localMinute s.settings.localOffset now
     let fails : List (Prop × Reason) :=
       [(767 < p.cred.toNat ∨ ¬ held (fun c => c.serial = p.serial.toNat), .unknownCard),
        (held (fun c => ¬ (p.stay.toNat = (c.guest.map (·.stay)).getD 0 ∧
           (p.code.toNat = crc32 (c.body ++ s.settings.currentKey)
             ∨ p.code.toNat = crc32 (c.body ++ s.settings.previousKey)))), .checkFailed),
        (held (fun c => ∃ lapse, c.st = .encoding lapse), .notConfirmed),
        (held (fun c => ∃ w at_, c.st = .suspended w at_), .suspended),
        (held (fun c => ∃ at_ why, c.st = .revoked at_ why), .revoked),
        (held (fun c => ∃ at_, c.st = .expired at_), .expired),
        (held (fun c => now < c.validStart), .notYetValid),
        (held (fun c => c.validEnd < now), .expired),
        (held (fun c => c.kind = .guest ∧ ∃ g, c.guest = some g ∧
           ∀ room, s.room? g.entry = some room → g.stay < room.floor), .superseded),
        (held (fun c => ∃ h, c.schedule = some h ∧ h.inside minute = false), .outsideSchedule),
        (held (fun c => c.image1.covers n.enrol.point n.enrol.cls = false ∧
           (∀ i, c.image2 = some i → i.covers n.enrol.point n.enrol.cls = false) ∧ c.kind ≠ .emergency), .noAccess),
        (held (fun c => c.kind = .guest ∧ n.enrol.oos = true), .outOfService),
        (held (fun c => c.kind = .guest ∧ ∃ h, n.enrol.hours = some h ∧ h.inside minute = false), .afterHours),
        (held (fun c => c.kind ≠ .emergency ∧ ∃ b, n.status = some b ∧ b.privacy = true), .privacy),
        (held (fun c => n.enrol.cls = .minibar ∧ c.kind = .guest ∧ ∀ e f, n.enrol.entry = some e → s.folio? e = some f →
           f.isOpen = false ∨ c.guest.map (·.entry) ≠ some e), .noFolio),
        (held (fun c => n.enrol.cls = .minibar ∧ c.kind = .guest ∧ ∃ e f, n.enrol.entry = some e ∧
           s.folio? e = some f ∧ f.ceiling ≤ f.balance + f.pendingTotal), .creditHeld)]
     ∀ passed stage rest, fails = passed ++ stage :: rest → (∀ q ∈ passed, ¬ q.1) → stage.1 →
       v = ⟨false, stage.2, none⟩) ∧
    (v.granted = true → v.reason = .none) ∧ (v.granted = false → v.reason ≠ .none ∧ v.mode = none) ∧
    (v.granted = true → ∀ c, s.cred? p.cred.toNat = some c → v.mode = (if n.enrol.cls = .minibar
      then some (if c.kind = .guest then .guest else .restock) else none))) ∧
  (∀ (a origin : Nat) (p : Presentation) (n : Node) (s : State), s.node? a = some n →
    let v := s.evaluate n p s.now
    let u := s.decideAdmission a p origin
    let carried := if p.cred.toNat ≤ 767 then some p.cred.toNat else none
    let d : Decision :=
      { node := a, pres := p.number.toNat, granted := v.granted, reason := v.reason, mode := v.mode, origin := origin,
        age := 0, point := n.enrol.point, cred := carried, serial := p.serial.toNat, arrival := s.now }
    let late : Prop := 32 ≤ s.lines.urgent.length ∨
      ∃ e, Urgent.decision e ∈ s.lines.urgent ∧ e.node = a ∧ e.pres = p.number.toNat
    u.node? a = some { n with memory :=
      ((⟨p.number.toNat, carried, p.serial.toNat, s.now, v.granted, v.reason, false⟩ : MemEntry) :: n.memory).take 2 } ∧
    (∀ b, b ≠ a → u.node? b = s.node? b) ∧
    (v.granted = false → u.store = s.store) ∧
    (∀ c, v.granted = true → s.cred? p.cred.toNat = some c → u.cred? p.cred.toNat = some { c with
      st := .active, uses := min 65535 (c.uses + 1), firstUse := some (c.firstUse.getD s.now) }) ∧
    (∀ k, k ≠ p.cred.toNat → u.cred? k = s.cred? k) ∧
    (late → u.lines = s.lines ∧ u.journal = s.journal.push s.now
      { kind := .decisionLate, secs := some s.now, node := some a, point := some n.enrol.point, cred := carried,
        serial := some p.serial.toNat, outcome := some (if v.granted then .grant else .deny),
        reason := some v.reason }) ∧
    (¬ late → u.lines = { s.lines with urgent := s.lines.urgent ++ [.decision d] } ∧ u.journal = s.journal) ∧
    Port.noticesOnly s.port u.port ∧
    u = { s with lines := u.lines, nodes := u.nodes, store := u.store, journal := u.journal, port := u.port })

/-- A LOCAL_DECISION item whose number no memory entry holds journals LOCAL_ADMIT, UNRELIABLE, AMBIGUOUS when the node
granted; one that the newest entry of that number holds unreported sets its flag and journals LOCAL_ADMIT at the
entry's arrival with its card and reason, marked OFFLINE_CONFLICT with ALARM raised where the node granted and the
part denied; a reported one changes nothing (matching the newest is the model's choice, log 22). FORCED_OPEN and
HELD_OPEN journal their record and raise ALARM. An OFFLINE_RECORD item is taken exactly when an upload is in progress
and the permit OPEN with a remainder above 0; otherwise nothing changes. One taken raises the received total, lowers
the remainder and journals one OFFLINE_ADMIT at its time; a remainder of 0 closes the permit, and a new one is judged
on the free space after the record (log 22 DESIGN CHOICE); no credential, room, list entry or folio changes. It is
marked only when the node granted: OFFLINE_CONFLICT, with ALARM raised, for a RECONSTRUCTED record denied at both band
ends, OFFLINE_AMBIGUOUS where the judgements are not two grants otherwise, and for an UNRELIABLE one not granted at
W1; its reason is then NONE for two grants, or a grant at W1, else that of the later end that denied, absent where
none did (of an UNRELIABLE record UNDECIDED at W1 too, log 29 DEDUCED). The judgement at a moment is DENY with the
reason of the first stage that fails: REVOKED for an unknown card whose serial the list holds, UNKNOWN_CARD,
CHECK_FAILED, NOT_CONFIRMED in ENCODING or before issued_at, SUSPENDED or REVOKED from suspended_at or retired_at on,
the window, the stay against the floor of the newest history item at or before the moment (1 before them all where the
history is from creation, unknown otherwise, SUPERSEDED with no room record), schedule, claim, out of service and
hours; a record with no failing stage is UNDECIDED where the floor is unknown and else GRANT, whatever the privacy
latch and the folios hold. Rests on 07_offline_records_and_audit.md, sections 7.2 and 7.3, 06_admission.md, sections
6.1, 6.4 and 6.5. -/
def Obligations.OfflineRecordsAreTakenAndMarked : Prop :=
  (∀ (a : Nat) (p : Byte) (granted : Bool) (n : Node) (s : State), s.node? a = some n →
    let u := s.item a (.localDecision p granted)
    let outcome : Option RecOutcome := some (if granted then .granted else .denied)
    ((∀ e ∈ n.memory, e.pres ≠ p.toNat) →
      u.journal = s.journal.push s.now
        { kind := .localAdmit, quality := .unreliable, node := some a, point := some n.enrol.point, outcome := outcome,
          mark := if granted then .ambiguous else .none } ∧
      u.port.arm.alarm = s.port.arm.alarm ∧ Port.noticesOnly s.port u.port ∧
      u = { s with journal := u.journal, port := u.port }) ∧
    (∀ newer e older, n.memory = newer ++ e :: older → (∀ x ∈ newer, x.pres ≠ p.toNat) → e.pres = p.toNat →
      let conflict := granted && !e.granted
      (e.reported = true → u = s) ∧
      (e.reported = false →
        u.node? a = some { n with memory := newer ++ { e with reported := true } :: older } ∧
        (∀ b, b ≠ a → u.node? b = s.node? b) ∧
        u.journal = s.journal.push e.arrival
          { kind := .localAdmit, secs := some e.arrival, node := some a, point := some n.enrol.point, cred := e.cred,
            serial := some e.serial, outcome := outcome, reason := some e.reason, mark := if conflict then .conflict else .none } ∧
        u.port.arm.alarm = (s.port.arm.alarm && !(conflict && decide (s.part = .running))) ∧
        ((s.port.sending = none → s.port.waiting = []) → s.part = .running → s.port.arm.alarm = true →
          conflict = true → .notice 0x64 [] ∈ u.port.frames) ∧
        Port.noticesOnly s.port u.port ∧
        u = { s with nodes := u.nodes, journal := u.journal, port := u.port }))) ∧
  (∀ (a : Nat) (n : Node) (i : Item) (kind : RecKind) (s : State), s.node? a = some n →
    i = .forcedOpen ∧ kind = .forcedOpen ∨ i = .heldOpen ∧ kind = .heldOpen →
    let u := s.item a i
    u.journal = s.journal.push s.now { kind := kind, node := some a, point := some n.enrol.point } ∧
    u.port.arm.alarm = (s.port.arm.alarm && !decide (s.part = .running)) ∧
    ((s.port.sending = none → s.port.waiting = []) → s.part = .running → s.port.arm.alarm = true →
      .notice 0x64 [] ∈ u.port.frames) ∧
    Port.noticesOnly s.port u.port ∧ u = { s with journal := u.journal, port := u.port }) ∧
  (∀ (a : Nat) (r : OfflineRecord) (n : Node) (s : State), s.node? a = some n →
    ((n.upload = none ∨ ∀ k, n.permit ≠ .opened (k + 1)) → s.offlineRecord a r = s) ∧
    (∀ up k, n.upload = some up → n.permit = .opened (k + 1) →
      let u := s.offlineRecord a r
      let v := s.audit n r (up.timeOf n.clock r.stamp.toNat)
      u.journal = s.journal.push (up.timeOf n.clock r.stamp.toNat).secs
        { kind := .offlineAdmit, secs := some (up.timeOf n.clock r.stamp.toNat).secs,
          quality := (up.timeOf n.clock r.stamp.toNat).quality, node := some a, point := some n.enrol.point,
          cred := if r.cred.toNat ≤ 767 then some r.cred.toNat else none, serial := some r.serial.toNat,
          outcome := some (if r.granted then .granted else .denied), reason := v.reason, mark := v.mark } ∧
      (1 ≤ k → u.node? a = some { n with received := min 65535 (n.received + 1), permit := .opened k }) ∧
      (k = 0 → ∃ m, u.node? a = some m ∧ m.received = min 65535 (n.received + 1) ∧
        m.permit = (if 64 ≤ 2048 - (u.journal.recs.length - u.journal.acked) then .latched else .none)) ∧
      u.port.arm.alarm = (s.port.arm.alarm && !(decide (v.mark = .conflict) && decide (s.part = .running))) ∧
      ((s.port.sending = none → s.port.waiting = []) → s.part = .running → s.port.arm.alarm = true →
        v.mark = .conflict → .notice 0x64 [] ∈ u.port.frames) ∧
      (∀ b, b ≠ a → u.node? b = s.node? b) ∧ Port.noticesOnly s.port u.port ∧
      u = { s with nodes := u.nodes, journal := u.journal, port := u.port }) ∧
    (∀ time : RecordTime,
      let v := s.audit n r time
      (r.granted = false → v = ⟨.none, some r.reason⟩) ∧
      (r.granted = true → match time with
        | .unreliable w1 =>
          (v.mark = .none ↔ s.judgeRecord n r w1 = .grant) ∧ v.mark ≠ .conflict ∧
          v.reason = (match s.judgeRecord n r w1 with
            | .grant => some .none | .deny x => some x | .undecided => none)
        | .reconstructed t u w1 =>
          (v.mark = .none ↔ s.judgeRecord n r (t - u) = .grant ∧ s.judgeRecord n r (min (t + u) w1) = .grant) ∧
          (v.mark = .conflict ↔ (∃ x, s.judgeRecord n r (t - u) = .deny x) ∧
            ∃ y, s.judgeRecord n r (min (t + u) w1) = .deny y ∧ v.reason = some y) ∧
          v.reason = (match s.judgeRecord n r (t - u), s.judgeRecord n r (min (t + u) w1) with
            | _, .deny y => some y | .deny x, _ => some x | .grant, .grant => some .none | _, _ => none)))) ∧
  ∀ (n : Node) (r : OfflineRecord) (t : Nat) (s : State),
    let held (f : Cred → Prop) : Prop := ∃ c, s.cred? r.cred.toNat = some c ∧ f c
    let minute := localMinute s.settings.localOffset t
    let unknown : Prop := 767 < r.cred.toNat ∨ ¬ held (fun c => c.serial = r.serial.toNat)
    let stands (room : Room) (f : Nat) : Prop :=
      (∃ newer i older, room.history = newer ++ i :: older ∧ (∀ x ∈ newer, t < x.at_) ∧ i.at_ ≤ t ∧ f = i.floor) ∨
      (∀ x ∈ room.history, t < x.at_) ∧ room.fromCreation = true ∧ f = 1
    let open_ : Prop := held (fun c => c.kind = .guest ∧ ∃ g room, c.guest = some g ∧ s.room? g.entry = some room ∧
      ∀ f, ¬ stands room f)
    let fails : List (Prop × Reason) :=
      [(unknown ∧ ∃ e ∈ s.revoc.entries, e.serial = r.serial.toNat, .revoked), (unknown, .unknownCard),
       (held (fun c => ¬ (r.stay.toNat = (c.guest.map (·.stay)).getD 0 ∧
           (r.code.toNat = crc32 (c.body ++ s.settings.currentKey)
             ∨ r.code.toNat = crc32 (c.body ++ s.settings.previousKey)))), .checkFailed),
       (held (fun c => (∃ lapse, c.st = .encoding lapse) ∨ t < c.issuedAt), .notConfirmed),
       (held (fun c => ∃ w at_, c.st = .suspended w at_ ∧ at_ ≤ t), .suspended),
       (held (fun c => ∃ at_ why, c.st = .revoked at_ why ∧ at_ ≤ t), .revoked),
       (held (fun c => t < c.validStart), .notYetValid), (held (fun c => c.validEnd < t), .expired),
       (held (fun c => c.kind = .guest ∧ ∃ g, c.guest = some g ∧
         ∀ room, s.room? g.entry = some room → ∃ f, stands room f ∧ r.stay.toNat < f), .superseded),
       (held (fun c => ∃ h, c.schedule = some h ∧ h.inside minute = false), .outsideSchedule),
       (held (fun c => c.image1.covers n.enrol.point n.enrol.cls = false ∧
         (∀ i, c.image2 = some i → i.covers n.enrol.point n.enrol.cls = false) ∧ c.kind ≠ .emergency), .noAccess),
       (held (fun c => c.kind = .guest ∧ n.enrol.oos = true), .outOfService),
       (held (fun c => c.kind = .guest ∧ ∃ h, n.enrol.hours = some h ∧ h.inside minute = false), .afterHours)]
    let v := s.judgeRecord n r t
    (∀ passed stage rest, fails = passed ++ stage :: rest → (∀ q ∈ passed, ¬ q.1) → stage.1 → v = .deny stage.2) ∧
    ((∀ q ∈ fails, ¬ q.1) → (open_ → v = .undecided) ∧ (¬ open_ → v = .grant)) ∧
    ∀ b m, ({ s with minibar := m } : State).judgeRecord { n with status := b } r t = v

/-- A raw sample truncates toward zero. A sample beyond 2,000 ppm counts a failure and sets CLOCK_SUSPECT at 4; an
accepted one clears both, the first giving d the sample and s 200, a later one the quarter of 3d + sample and of 3s +
|sample - d| rounded half away from zero, s at least 2; the grace is the ceiling of (|d| + s + 20) x 86,400 /
1,000,000 within 1..600. Elapsed wing time is n x 1,000,000 / (1,000,000 + d) rounded half up; the allowance is the
ceiling of n x (s + 20) / 1,000,000, plus 2. A stamp n after S0 of an upload with anchor, N and E lies at W0 + the
elapsed time of n, at most W1, with the allowance as its uncertainty, stopping at 65,535; one with n above N is
UNRELIABLE at W1, and so is every stamp of an upload with the discontinuity flag. The upload check fails without an
anchor and otherwise exactly when the anchor's epoch is another, E exceeds 7,776,000, CLOCK_SUSPECT is set, or the
elapsed time of N differs from E by more than the allowance + 60; a mark taken keeps S1, W1, the epoch, the anchor's
values, N, E and the failure as its discontinuity flag. Rests on 03_wing_time_and_node_clocks.md, sections 3.3.2,
3.3.3 and 3.4, 07_offline_records_and_audit.md, sections 7.1 and 7.3. -/
def Obligations.ClockArithmeticRoundsAsStated : Prop :=
  let rounded (d : Int) (n p : Nat) : Prop := 2 * ((n : Int) * 1000000) < (2 * (p : Int) + 1) * (1000000 + d) ∧
    (2 * (p : Int) - 1) * (1000000 + d) ≤ 2 * ((n : Int) * 1000000)
  let ceiling (s n q : Nat) : Prop := n * (s + 20) ≤ q * 1000000 ∧ q * 1000000 < n * (s + 20) + 1000000
  (∀ dw dn : Nat, 0 < dw →
    let x : Int := ((dn : Int) - dw) * 1000000
    let q := rawSample dw dn
    q.natAbs * dw ≤ x.natAbs ∧ x.natAbs < (q.natAbs + 1) * dw ∧ (0 < q → 0 < x) ∧ (q < 0 → x < 0)) ∧
  (∀ (raw : Int) (c : Clock), 2 ≤ c.s → c.failed ≤ 255 → c.samples ≤ 255 →
    let t := c.judge raw
    let quarter (q x : Int) : Prop := 2 * (4 * q - x).natAbs ≤ 4 ∧ (2 * (4 * q - x).natAbs = 4 → x.natAbs < (4 * q).natAbs)
    (2000 < raw.natAbs → t = { c with
      failed := min 255 (c.failed + 1), suspect := c.suspect || decide (4 ≤ c.failed + 1) }) ∧
    (raw.natAbs ≤ 2000 → t.failed = 0 ∧ t.suspect = false ∧ t.samples = min 255 (c.samples + 1) ∧
      t.span = c.span ∧ t.anchor = c.anchor ∧
      (c.samples = 0 → t.d = raw ∧ t.s = 200) ∧
      (c.samples ≠ 0 → quarter t.d (3 * c.d + raw) ∧
        ∃ q : Nat, quarter q (3 * (c.s : Int) + (raw - c.d).natAbs) ∧ t.s = max 2 q) ∧
      ∃ g : Nat, (t.d.natAbs + t.s + 20) * 86400 ≤ g * 1000000 ∧ g * 1000000 < (t.d.natAbs + t.s + 20) * 86400 + 1000000 ∧
        t.grace = min 600 (max 1 g))) ∧
  (∀ (d : Int) (n : Nat), -2000 ≤ d → d ≤ 2000 → rounded d n (wingElapsed d n)) ∧
  (∀ s n : Nat, ∃ q : Nat, ceiling s n q ∧ allowance s n = q + 2) ∧
  (∀ (d : Int) (s w1 n p q : Nat) (a : UploadAnchor), -2000 ≤ d → d ≤ 2000 → n < 4294967296 →
    rounded d n p → ceiling s n q →
    let t := reconstruct d s w1 a ((a.s0 + n) % 4294967296)
    (a.n < n → t = .unreliable w1) ∧
    (n ≤ a.n → p ≤ a.e → t = .reconstructed ((a.w0 + p) % 4294967296) (min 65535 (q + 2)) w1) ∧
    (n ≤ a.n → a.e < p → t = .reconstructed w1 (min 65535 (q + 2)) w1)) ∧
  (∀ (c : Clock) (s1 w1 epoch : Nat), c.anchor = none →
    c.uploadFails s1 w1 epoch = true ∧ c.takeMark s1 w1 epoch = ⟨s1, w1, epoch, none, true⟩) ∧
  (∀ (c : Clock) (x : Anchor) (n e epoch p q : Nat), c.anchor = some x →
    n < 4294967296 → e < 4294967296 → -2000 ≤ c.d → c.d ≤ 2000 → rounded c.d n p → ceiling c.s n q →
    let s1 := (x.s0 + n) % 4294967296
    let w1 := (x.w0 + e) % 4294967296
    (c.uploadFails s1 w1 epoch = true ↔
      x.epoch ≠ epoch ∨ 7776000 < e ∨ c.suspect = true ∨ q + 2 + 60 < ((p : Int) - (e : Int)).natAbs) ∧
    c.takeMark s1 w1 epoch = ⟨s1, w1, epoch, some ⟨x.s0, x.w0, n, e⟩, c.uploadFails s1 w1 epoch⟩) ∧
  ∀ (c : Clock) (u : Upload) (stamp : Nat),
    (u.disc = true ∨ u.anchor = none → u.timeOf c stamp = .unreliable u.w1) ∧
    ∀ a, u.disc = false → u.anchor = some a → u.timeOf c stamp = reconstruct c.d c.s u.w1 a stamp
end

