-- ==== Sys2Proof/Laws/State.lean ====
section
/-! SUPPORT. For each named update of the state, the fields it leaves as they are, true by unfolding. -/

namespace Sys2Proof.Machine

open Sys2Proof

/-! ### State.rejection changes `port` alone -/

@[simp] theorem State.rejection_pending (s : State) (r : RejectReason) (k : KindTag) : (s.rejection r k).pending = s.pending := rfl
@[simp] theorem State.rejection_part (s : State) (r : RejectReason) (k : KindTag) : (s.rejection r k).part = s.part := rfl
@[simp] theorem State.rejection_supply (s : State) (r : RejectReason) (k : KindTag) : (s.rejection r k).supply = s.supply := rfl
@[simp] theorem State.rejection_loader (s : State) (r : RejectReason) (k : KindTag) : (s.rejection r k).loader = s.loader := rfl
@[simp] theorem State.rejection_time (s : State) (r : RejectReason) (k : KindTag) : (s.rejection r k).time = s.time := rfl
@[simp] theorem State.rejection_lines (s : State) (r : RejectReason) (k : KindTag) : (s.rejection r k).lines = s.lines := rfl
@[simp] theorem State.rejection_inviter (s : State) (r : RejectReason) (k : KindTag) : (s.rejection r k).inviter = s.inviter := rfl
@[simp] theorem State.rejection_nodes (s : State) (r : RejectReason) (k : KindTag) : (s.rejection r k).nodes = s.nodes := rfl
@[simp] theorem State.rejection_store (s : State) (r : RejectReason) (k : KindTag) : (s.rejection r k).store = s.store := rfl
@[simp] theorem State.rejection_revoc (s : State) (r : RejectReason) (k : KindTag) : (s.rejection r k).revoc = s.revoc := rfl
@[simp] theorem State.rejection_minibar (s : State) (r : RejectReason) (k : KindTag) : (s.rejection r k).minibar = s.minibar := rfl
@[simp] theorem State.rejection_journal (s : State) (r : RejectReason) (k : KindTag) : (s.rejection r k).journal = s.journal := rfl
@[simp] theorem State.rejection_choices (s : State) (r : RejectReason) (k : KindTag) : (s.rejection r k).choices = s.choices := rfl

/-! ### State.rearm changes `port` alone -/

@[simp] theorem State.rearm_pending (s : State) (k : NoticeKind) : (s.rearm k).pending = s.pending := rfl
@[simp] theorem State.rearm_part (s : State) (k : NoticeKind) : (s.rearm k).part = s.part := rfl
@[simp] theorem State.rearm_supply (s : State) (k : NoticeKind) : (s.rearm k).supply = s.supply := rfl
@[simp] theorem State.rearm_loader (s : State) (k : NoticeKind) : (s.rearm k).loader = s.loader := rfl
@[simp] theorem State.rearm_time (s : State) (k : NoticeKind) : (s.rearm k).time = s.time := rfl
@[simp] theorem State.rearm_lines (s : State) (k : NoticeKind) : (s.rearm k).lines = s.lines := rfl
@[simp] theorem State.rearm_inviter (s : State) (k : NoticeKind) : (s.rearm k).inviter = s.inviter := rfl
@[simp] theorem State.rearm_nodes (s : State) (k : NoticeKind) : (s.rearm k).nodes = s.nodes := rfl
@[simp] theorem State.rearm_store (s : State) (k : NoticeKind) : (s.rearm k).store = s.store := rfl
@[simp] theorem State.rearm_revoc (s : State) (k : NoticeKind) : (s.rearm k).revoc = s.revoc := rfl
@[simp] theorem State.rearm_minibar (s : State) (k : NoticeKind) : (s.rearm k).minibar = s.minibar := rfl
@[simp] theorem State.rearm_journal (s : State) (k : NoticeKind) : (s.rearm k).journal = s.journal := rfl
@[simp] theorem State.rearm_choices (s : State) (k : NoticeKind) : (s.rearm k).choices = s.choices := rfl

/-! ### State.chose changes `choices` alone -/

@[simp] theorem State.chose_pending (s : State) : s.chose.pending = s.pending := rfl
@[simp] theorem State.chose_part (s : State) : s.chose.part = s.part := rfl
@[simp] theorem State.chose_supply (s : State) : s.chose.supply = s.supply := rfl
@[simp] theorem State.chose_loader (s : State) : s.chose.loader = s.loader := rfl
@[simp] theorem State.chose_time (s : State) : s.chose.time = s.time := rfl
@[simp] theorem State.chose_lines (s : State) : s.chose.lines = s.lines := rfl
@[simp] theorem State.chose_inviter (s : State) : s.chose.inviter = s.inviter := rfl
@[simp] theorem State.chose_nodes (s : State) : s.chose.nodes = s.nodes := rfl
@[simp] theorem State.chose_store (s : State) : s.chose.store = s.store := rfl
@[simp] theorem State.chose_revoc (s : State) : s.chose.revoc = s.revoc := rfl
@[simp] theorem State.chose_minibar (s : State) : s.chose.minibar = s.minibar := rfl
@[simp] theorem State.chose_journal (s : State) : s.chose.journal = s.journal := rfl
@[simp] theorem State.chose_port (s : State) : s.chose.port = s.port := rfl

/-! ### State.modNode changes `nodes` alone -/

@[simp] theorem State.modNode_pending (s : State) (a : Nat) (f : Node → Node) : (s.modNode a f).pending = s.pending := rfl
@[simp] theorem State.modNode_part (s : State) (a : Nat) (f : Node → Node) : (s.modNode a f).part = s.part := rfl
@[simp] theorem State.modNode_supply (s : State) (a : Nat) (f : Node → Node) : (s.modNode a f).supply = s.supply := rfl
@[simp] theorem State.modNode_loader (s : State) (a : Nat) (f : Node → Node) : (s.modNode a f).loader = s.loader := rfl
@[simp] theorem State.modNode_time (s : State) (a : Nat) (f : Node → Node) : (s.modNode a f).time = s.time := rfl
@[simp] theorem State.modNode_lines (s : State) (a : Nat) (f : Node → Node) : (s.modNode a f).lines = s.lines := rfl
@[simp] theorem State.modNode_inviter (s : State) (a : Nat) (f : Node → Node) : (s.modNode a f).inviter = s.inviter := rfl
@[simp] theorem State.modNode_store (s : State) (a : Nat) (f : Node → Node) : (s.modNode a f).store = s.store := rfl
@[simp] theorem State.modNode_revoc (s : State) (a : Nat) (f : Node → Node) : (s.modNode a f).revoc = s.revoc := rfl
@[simp] theorem State.modNode_minibar (s : State) (a : Nat) (f : Node → Node) : (s.modNode a f).minibar = s.minibar := rfl
@[simp] theorem State.modNode_journal (s : State) (a : Nat) (f : Node → Node) : (s.modNode a f).journal = s.journal := rfl
@[simp] theorem State.modNode_port (s : State) (a : Nat) (f : Node → Node) : (s.modNode a f).port = s.port := rfl
@[simp] theorem State.modNode_choices (s : State) (a : Nat) (f : Node → Node) : (s.modNode a f).choices = s.choices := rfl

/-! ### State.latchFallback changes `nodes` alone -/

@[simp] theorem State.latchFallback_pending (s : State) (a : Nat) : (s.latchFallback a).pending = s.pending := rfl
@[simp] theorem State.latchFallback_part (s : State) (a : Nat) : (s.latchFallback a).part = s.part := rfl
@[simp] theorem State.latchFallback_supply (s : State) (a : Nat) : (s.latchFallback a).supply = s.supply := rfl
@[simp] theorem State.latchFallback_loader (s : State) (a : Nat) : (s.latchFallback a).loader = s.loader := rfl
@[simp] theorem State.latchFallback_time (s : State) (a : Nat) : (s.latchFallback a).time = s.time := rfl
@[simp] theorem State.latchFallback_lines (s : State) (a : Nat) : (s.latchFallback a).lines = s.lines := rfl
@[simp] theorem State.latchFallback_inviter (s : State) (a : Nat) : (s.latchFallback a).inviter = s.inviter := rfl
@[simp] theorem State.latchFallback_store (s : State) (a : Nat) : (s.latchFallback a).store = s.store := rfl
@[simp] theorem State.latchFallback_revoc (s : State) (a : Nat) : (s.latchFallback a).revoc = s.revoc := rfl
@[simp] theorem State.latchFallback_minibar (s : State) (a : Nat) : (s.latchFallback a).minibar = s.minibar := rfl
@[simp] theorem State.latchFallback_journal (s : State) (a : Nat) : (s.latchFallback a).journal = s.journal := rfl
@[simp] theorem State.latchFallback_port (s : State) (a : Nat) : (s.latchFallback a).port = s.port := rfl
@[simp] theorem State.latchFallback_choices (s : State) (a : Nat) : (s.latchFallback a).choices = s.choices := rfl

/-! ### State.latchFallbackAll changes `nodes` alone -/

@[simp] theorem State.latchFallbackAll_pending (s : State) : s.latchFallbackAll.pending = s.pending := rfl
@[simp] theorem State.latchFallbackAll_part (s : State) : s.latchFallbackAll.part = s.part := rfl
@[simp] theorem State.latchFallbackAll_supply (s : State) : s.latchFallbackAll.supply = s.supply := rfl
@[simp] theorem State.latchFallbackAll_loader (s : State) : s.latchFallbackAll.loader = s.loader := rfl
@[simp] theorem State.latchFallbackAll_time (s : State) : s.latchFallbackAll.time = s.time := rfl
@[simp] theorem State.latchFallbackAll_lines (s : State) : s.latchFallbackAll.lines = s.lines := rfl
@[simp] theorem State.latchFallbackAll_inviter (s : State) : s.latchFallbackAll.inviter = s.inviter := rfl
@[simp] theorem State.latchFallbackAll_store (s : State) : s.latchFallbackAll.store = s.store := rfl
@[simp] theorem State.latchFallbackAll_revoc (s : State) : s.latchFallbackAll.revoc = s.revoc := rfl
@[simp] theorem State.latchFallbackAll_minibar (s : State) : s.latchFallbackAll.minibar = s.minibar := rfl
@[simp] theorem State.latchFallbackAll_journal (s : State) : s.latchFallbackAll.journal = s.journal := rfl
@[simp] theorem State.latchFallbackAll_port (s : State) : s.latchFallbackAll.port = s.port := rfl
@[simp] theorem State.latchFallbackAll_choices (s : State) : s.latchFallbackAll.choices = s.choices := rfl

/-! ### State.markReload changes `nodes` alone -/

@[simp] theorem State.markReload_pending (s : State) (a : Nat) : (s.markReload a).pending = s.pending := rfl
@[simp] theorem State.markReload_part (s : State) (a : Nat) : (s.markReload a).part = s.part := rfl
@[simp] theorem State.markReload_supply (s : State) (a : Nat) : (s.markReload a).supply = s.supply := rfl
@[simp] theorem State.markReload_loader (s : State) (a : Nat) : (s.markReload a).loader = s.loader := rfl
@[simp] theorem State.markReload_time (s : State) (a : Nat) : (s.markReload a).time = s.time := rfl
@[simp] theorem State.markReload_lines (s : State) (a : Nat) : (s.markReload a).lines = s.lines := rfl
@[simp] theorem State.markReload_inviter (s : State) (a : Nat) : (s.markReload a).inviter = s.inviter := rfl
@[simp] theorem State.markReload_store (s : State) (a : Nat) : (s.markReload a).store = s.store := rfl
@[simp] theorem State.markReload_revoc (s : State) (a : Nat) : (s.markReload a).revoc = s.revoc := rfl
@[simp] theorem State.markReload_minibar (s : State) (a : Nat) : (s.markReload a).minibar = s.minibar := rfl
@[simp] theorem State.markReload_journal (s : State) (a : Nat) : (s.markReload a).journal = s.journal := rfl
@[simp] theorem State.markReload_port (s : State) (a : Nat) : (s.markReload a).port = s.port := rfl
@[simp] theorem State.markReload_choices (s : State) (a : Nat) : (s.markReload a).choices = s.choices := rfl

/-! ### State.markRoomNodes changes `nodes` alone -/

@[simp] theorem State.markRoomNodes_pending (s : State) (p : Nat) : (s.markRoomNodes p).pending = s.pending := rfl
@[simp] theorem State.markRoomNodes_part (s : State) (p : Nat) : (s.markRoomNodes p).part = s.part := rfl
@[simp] theorem State.markRoomNodes_supply (s : State) (p : Nat) : (s.markRoomNodes p).supply = s.supply := rfl
@[simp] theorem State.markRoomNodes_loader (s : State) (p : Nat) : (s.markRoomNodes p).loader = s.loader := rfl
@[simp] theorem State.markRoomNodes_time (s : State) (p : Nat) : (s.markRoomNodes p).time = s.time := rfl
@[simp] theorem State.markRoomNodes_lines (s : State) (p : Nat) : (s.markRoomNodes p).lines = s.lines := rfl
@[simp] theorem State.markRoomNodes_inviter (s : State) (p : Nat) : (s.markRoomNodes p).inviter = s.inviter := rfl
@[simp] theorem State.markRoomNodes_store (s : State) (p : Nat) : (s.markRoomNodes p).store = s.store := rfl
@[simp] theorem State.markRoomNodes_revoc (s : State) (p : Nat) : (s.markRoomNodes p).revoc = s.revoc := rfl
@[simp] theorem State.markRoomNodes_minibar (s : State) (p : Nat) : (s.markRoomNodes p).minibar = s.minibar := rfl
@[simp] theorem State.markRoomNodes_journal (s : State) (p : Nat) : (s.markRoomNodes p).journal = s.journal := rfl
@[simp] theorem State.markRoomNodes_port (s : State) (p : Nat) : (s.markRoomNodes p).port = s.port := rfl
@[simp] theorem State.markRoomNodes_choices (s : State) (p : Nat) : (s.markRoomNodes p).choices = s.choices := rfl

/-! ### State.endSessionsOf changes `nodes` alone -/

@[simp] theorem State.endSessionsOf_pending (s : State) (p : Nat) : (s.endSessionsOf p).pending = s.pending := rfl
@[simp] theorem State.endSessionsOf_part (s : State) (p : Nat) : (s.endSessionsOf p).part = s.part := rfl
@[simp] theorem State.endSessionsOf_supply (s : State) (p : Nat) : (s.endSessionsOf p).supply = s.supply := rfl
@[simp] theorem State.endSessionsOf_loader (s : State) (p : Nat) : (s.endSessionsOf p).loader = s.loader := rfl
@[simp] theorem State.endSessionsOf_time (s : State) (p : Nat) : (s.endSessionsOf p).time = s.time := rfl
@[simp] theorem State.endSessionsOf_lines (s : State) (p : Nat) : (s.endSessionsOf p).lines = s.lines := rfl
@[simp] theorem State.endSessionsOf_inviter (s : State) (p : Nat) : (s.endSessionsOf p).inviter = s.inviter := rfl
@[simp] theorem State.endSessionsOf_store (s : State) (p : Nat) : (s.endSessionsOf p).store = s.store := rfl
@[simp] theorem State.endSessionsOf_revoc (s : State) (p : Nat) : (s.endSessionsOf p).revoc = s.revoc := rfl
@[simp] theorem State.endSessionsOf_minibar (s : State) (p : Nat) : (s.endSessionsOf p).minibar = s.minibar := rfl
@[simp] theorem State.endSessionsOf_journal (s : State) (p : Nat) : (s.endSessionsOf p).journal = s.journal := rfl
@[simp] theorem State.endSessionsOf_port (s : State) (p : Nat) : (s.endSessionsOf p).port = s.port := rfl
@[simp] theorem State.endSessionsOf_choices (s : State) (p : Nat) : (s.endSessionsOf p).choices = s.choices := rfl

/-! ### State.setNodeFields changes `nodes` alone -/

@[simp] theorem State.setNodeFields_pending (s : State) (a : Nat) (b : Bool) (h : Option Hours) : (s.setNodeFields a b h).pending = s.pending := rfl
@[simp] theorem State.setNodeFields_part (s : State) (a : Nat) (b : Bool) (h : Option Hours) : (s.setNodeFields a b h).part = s.part := rfl
@[simp] theorem State.setNodeFields_supply (s : State) (a : Nat) (b : Bool) (h : Option Hours) : (s.setNodeFields a b h).supply = s.supply := rfl
@[simp] theorem State.setNodeFields_loader (s : State) (a : Nat) (b : Bool) (h : Option Hours) : (s.setNodeFields a b h).loader = s.loader := rfl
@[simp] theorem State.setNodeFields_time (s : State) (a : Nat) (b : Bool) (h : Option Hours) : (s.setNodeFields a b h).time = s.time := rfl
@[simp] theorem State.setNodeFields_lines (s : State) (a : Nat) (b : Bool) (h : Option Hours) : (s.setNodeFields a b h).lines = s.lines := rfl
@[simp] theorem State.setNodeFields_inviter (s : State) (a : Nat) (b : Bool) (h : Option Hours) : (s.setNodeFields a b h).inviter = s.inviter := rfl
@[simp] theorem State.setNodeFields_store (s : State) (a : Nat) (b : Bool) (h : Option Hours) : (s.setNodeFields a b h).store = s.store := rfl
@[simp] theorem State.setNodeFields_revoc (s : State) (a : Nat) (b : Bool) (h : Option Hours) : (s.setNodeFields a b h).revoc = s.revoc := rfl
@[simp] theorem State.setNodeFields_minibar (s : State) (a : Nat) (b : Bool) (h : Option Hours) : (s.setNodeFields a b h).minibar = s.minibar := rfl
@[simp] theorem State.setNodeFields_journal (s : State) (a : Nat) (b : Bool) (h : Option Hours) : (s.setNodeFields a b h).journal = s.journal := rfl
@[simp] theorem State.setNodeFields_port (s : State) (a : Nat) (b : Bool) (h : Option Hours) : (s.setNodeFields a b h).port = s.port := rfl
@[simp] theorem State.setNodeFields_choices (s : State) (a : Nat) (b : Bool) (h : Option Hours) : (s.setNodeFields a b h).choices = s.choices := rfl

/-! ### State.forgetNode changes `nodes` alone -/

@[simp] theorem State.forgetNode_pending (s : State) (a : Nat) : (s.forgetNode a).pending = s.pending := rfl
@[simp] theorem State.forgetNode_part (s : State) (a : Nat) : (s.forgetNode a).part = s.part := rfl
@[simp] theorem State.forgetNode_supply (s : State) (a : Nat) : (s.forgetNode a).supply = s.supply := rfl
@[simp] theorem State.forgetNode_loader (s : State) (a : Nat) : (s.forgetNode a).loader = s.loader := rfl
@[simp] theorem State.forgetNode_time (s : State) (a : Nat) : (s.forgetNode a).time = s.time := rfl
@[simp] theorem State.forgetNode_lines (s : State) (a : Nat) : (s.forgetNode a).lines = s.lines := rfl
@[simp] theorem State.forgetNode_inviter (s : State) (a : Nat) : (s.forgetNode a).inviter = s.inviter := rfl
@[simp] theorem State.forgetNode_store (s : State) (a : Nat) : (s.forgetNode a).store = s.store := rfl
@[simp] theorem State.forgetNode_revoc (s : State) (a : Nat) : (s.forgetNode a).revoc = s.revoc := rfl
@[simp] theorem State.forgetNode_minibar (s : State) (a : Nat) : (s.forgetNode a).minibar = s.minibar := rfl
@[simp] theorem State.forgetNode_journal (s : State) (a : Nat) : (s.forgetNode a).journal = s.journal := rfl
@[simp] theorem State.forgetNode_port (s : State) (a : Nat) : (s.forgetNode a).port = s.port := rfl
@[simp] theorem State.forgetNode_choices (s : State) (a : Nat) : (s.forgetNode a).choices = s.choices := rfl

/-! ### State.nodesStep changes `nodes` alone -/

@[simp] theorem State.nodesStep_pending (s : State) : s.nodesStep.pending = s.pending := rfl
@[simp] theorem State.nodesStep_part (s : State) : s.nodesStep.part = s.part := rfl
@[simp] theorem State.nodesStep_supply (s : State) : s.nodesStep.supply = s.supply := rfl
@[simp] theorem State.nodesStep_loader (s : State) : s.nodesStep.loader = s.loader := rfl
@[simp] theorem State.nodesStep_time (s : State) : s.nodesStep.time = s.time := rfl
@[simp] theorem State.nodesStep_lines (s : State) : s.nodesStep.lines = s.lines := rfl
@[simp] theorem State.nodesStep_inviter (s : State) : s.nodesStep.inviter = s.inviter := rfl
@[simp] theorem State.nodesStep_store (s : State) : s.nodesStep.store = s.store := rfl
@[simp] theorem State.nodesStep_revoc (s : State) : s.nodesStep.revoc = s.revoc := rfl
@[simp] theorem State.nodesStep_minibar (s : State) : s.nodesStep.minibar = s.minibar := rfl
@[simp] theorem State.nodesStep_journal (s : State) : s.nodesStep.journal = s.journal := rfl
@[simp] theorem State.nodesStep_port (s : State) : s.nodesStep.port = s.port := rfl
@[simp] theorem State.nodesStep_choices (s : State) : s.nodesStep.choices = s.choices := rfl

/-! ### State.putCred changes `store` alone -/

@[simp] theorem State.putCred_pending (s : State) (c : Cred) : (s.putCred c).pending = s.pending := rfl
@[simp] theorem State.putCred_part (s : State) (c : Cred) : (s.putCred c).part = s.part := rfl
@[simp] theorem State.putCred_supply (s : State) (c : Cred) : (s.putCred c).supply = s.supply := rfl
@[simp] theorem State.putCred_loader (s : State) (c : Cred) : (s.putCred c).loader = s.loader := rfl
@[simp] theorem State.putCred_time (s : State) (c : Cred) : (s.putCred c).time = s.time := rfl
@[simp] theorem State.putCred_lines (s : State) (c : Cred) : (s.putCred c).lines = s.lines := rfl
@[simp] theorem State.putCred_inviter (s : State) (c : Cred) : (s.putCred c).inviter = s.inviter := rfl
@[simp] theorem State.putCred_nodes (s : State) (c : Cred) : (s.putCred c).nodes = s.nodes := rfl
@[simp] theorem State.putCred_revoc (s : State) (c : Cred) : (s.putCred c).revoc = s.revoc := rfl
@[simp] theorem State.putCred_minibar (s : State) (c : Cred) : (s.putCred c).minibar = s.minibar := rfl
@[simp] theorem State.putCred_journal (s : State) (c : Cred) : (s.putCred c).journal = s.journal := rfl
@[simp] theorem State.putCred_port (s : State) (c : Cred) : (s.putCred c).port = s.port := rfl
@[simp] theorem State.putCred_choices (s : State) (c : Cred) : (s.putCred c).choices = s.choices := rfl

/-! ### State.modCred changes `store` alone -/

@[simp] theorem State.modCred_pending (s : State) (k : Nat) (f : Cred → Cred) : (s.modCred k f).pending = s.pending := rfl
@[simp] theorem State.modCred_part (s : State) (k : Nat) (f : Cred → Cred) : (s.modCred k f).part = s.part := rfl
@[simp] theorem State.modCred_supply (s : State) (k : Nat) (f : Cred → Cred) : (s.modCred k f).supply = s.supply := rfl
@[simp] theorem State.modCred_loader (s : State) (k : Nat) (f : Cred → Cred) : (s.modCred k f).loader = s.loader := rfl
@[simp] theorem State.modCred_time (s : State) (k : Nat) (f : Cred → Cred) : (s.modCred k f).time = s.time := rfl
@[simp] theorem State.modCred_lines (s : State) (k : Nat) (f : Cred → Cred) : (s.modCred k f).lines = s.lines := rfl
@[simp] theorem State.modCred_inviter (s : State) (k : Nat) (f : Cred → Cred) : (s.modCred k f).inviter = s.inviter := rfl
@[simp] theorem State.modCred_nodes (s : State) (k : Nat) (f : Cred → Cred) : (s.modCred k f).nodes = s.nodes := rfl
@[simp] theorem State.modCred_revoc (s : State) (k : Nat) (f : Cred → Cred) : (s.modCred k f).revoc = s.revoc := rfl
@[simp] theorem State.modCred_minibar (s : State) (k : Nat) (f : Cred → Cred) : (s.modCred k f).minibar = s.minibar := rfl
@[simp] theorem State.modCred_journal (s : State) (k : Nat) (f : Cred → Cred) : (s.modCred k f).journal = s.journal := rfl
@[simp] theorem State.modCred_port (s : State) (k : Nat) (f : Cred → Cred) : (s.modCred k f).port = s.port := rfl
@[simp] theorem State.modCred_choices (s : State) (k : Nat) (f : Cred → Cred) : (s.modCred k f).choices = s.choices := rfl

/-! ### State.setCredState changes `store` alone -/

@[simp] theorem State.setCredState_pending (s : State) (k : Nat) (st : CredState) : (s.setCredState k st).pending = s.pending := rfl
@[simp] theorem State.setCredState_part (s : State) (k : Nat) (st : CredState) : (s.setCredState k st).part = s.part := rfl
@[simp] theorem State.setCredState_supply (s : State) (k : Nat) (st : CredState) : (s.setCredState k st).supply = s.supply := rfl
@[simp] theorem State.setCredState_loader (s : State) (k : Nat) (st : CredState) : (s.setCredState k st).loader = s.loader := rfl
@[simp] theorem State.setCredState_time (s : State) (k : Nat) (st : CredState) : (s.setCredState k st).time = s.time := rfl
@[simp] theorem State.setCredState_lines (s : State) (k : Nat) (st : CredState) : (s.setCredState k st).lines = s.lines := rfl
@[simp] theorem State.setCredState_inviter (s : State) (k : Nat) (st : CredState) : (s.setCredState k st).inviter = s.inviter := rfl
@[simp] theorem State.setCredState_nodes (s : State) (k : Nat) (st : CredState) : (s.setCredState k st).nodes = s.nodes := rfl
@[simp] theorem State.setCredState_revoc (s : State) (k : Nat) (st : CredState) : (s.setCredState k st).revoc = s.revoc := rfl
@[simp] theorem State.setCredState_minibar (s : State) (k : Nat) (st : CredState) : (s.setCredState k st).minibar = s.minibar := rfl
@[simp] theorem State.setCredState_journal (s : State) (k : Nat) (st : CredState) : (s.setCredState k st).journal = s.journal := rfl
@[simp] theorem State.setCredState_port (s : State) (k : Nat) (st : CredState) : (s.setCredState k st).port = s.port := rfl
@[simp] theorem State.setCredState_choices (s : State) (k : Nat) (st : CredState) : (s.setCredState k st).choices = s.choices := rfl

/-! ### State.modRoom changes `revoc` alone -/

@[simp] theorem State.modRoom_pending (s : State) (p : Nat) (f : Room → Room) : (s.modRoom p f).pending = s.pending := rfl
@[simp] theorem State.modRoom_part (s : State) (p : Nat) (f : Room → Room) : (s.modRoom p f).part = s.part := rfl
@[simp] theorem State.modRoom_supply (s : State) (p : Nat) (f : Room → Room) : (s.modRoom p f).supply = s.supply := rfl
@[simp] theorem State.modRoom_loader (s : State) (p : Nat) (f : Room → Room) : (s.modRoom p f).loader = s.loader := rfl
@[simp] theorem State.modRoom_time (s : State) (p : Nat) (f : Room → Room) : (s.modRoom p f).time = s.time := rfl
@[simp] theorem State.modRoom_lines (s : State) (p : Nat) (f : Room → Room) : (s.modRoom p f).lines = s.lines := rfl
@[simp] theorem State.modRoom_inviter (s : State) (p : Nat) (f : Room → Room) : (s.modRoom p f).inviter = s.inviter := rfl
@[simp] theorem State.modRoom_nodes (s : State) (p : Nat) (f : Room → Room) : (s.modRoom p f).nodes = s.nodes := rfl
@[simp] theorem State.modRoom_store (s : State) (p : Nat) (f : Room → Room) : (s.modRoom p f).store = s.store := rfl
@[simp] theorem State.modRoom_minibar (s : State) (p : Nat) (f : Room → Room) : (s.modRoom p f).minibar = s.minibar := rfl
@[simp] theorem State.modRoom_journal (s : State) (p : Nat) (f : Room → Room) : (s.modRoom p f).journal = s.journal := rfl
@[simp] theorem State.modRoom_port (s : State) (p : Nat) (f : Room → Room) : (s.modRoom p f).port = s.port := rfl
@[simp] theorem State.modRoom_choices (s : State) (p : Nat) (f : Room → Room) : (s.modRoom p f).choices = s.choices := rfl

/-! ### State.setEntries changes `revoc` alone -/

@[simp] theorem State.setEntries_pending (s : State) (es : List ListEntry) : (s.setEntries es).pending = s.pending := rfl
@[simp] theorem State.setEntries_part (s : State) (es : List ListEntry) : (s.setEntries es).part = s.part := rfl
@[simp] theorem State.setEntries_supply (s : State) (es : List ListEntry) : (s.setEntries es).supply = s.supply := rfl
@[simp] theorem State.setEntries_loader (s : State) (es : List ListEntry) : (s.setEntries es).loader = s.loader := rfl
@[simp] theorem State.setEntries_time (s : State) (es : List ListEntry) : (s.setEntries es).time = s.time := rfl
@[simp] theorem State.setEntries_lines (s : State) (es : List ListEntry) : (s.setEntries es).lines = s.lines := rfl
@[simp] theorem State.setEntries_inviter (s : State) (es : List ListEntry) : (s.setEntries es).inviter = s.inviter := rfl
@[simp] theorem State.setEntries_nodes (s : State) (es : List ListEntry) : (s.setEntries es).nodes = s.nodes := rfl
@[simp] theorem State.setEntries_store (s : State) (es : List ListEntry) : (s.setEntries es).store = s.store := rfl
@[simp] theorem State.setEntries_minibar (s : State) (es : List ListEntry) : (s.setEntries es).minibar = s.minibar := rfl
@[simp] theorem State.setEntries_journal (s : State) (es : List ListEntry) : (s.setEntries es).journal = s.journal := rfl
@[simp] theorem State.setEntries_port (s : State) (es : List ListEntry) : (s.setEntries es).port = s.port := rfl
@[simp] theorem State.setEntries_choices (s : State) (es : List ListEntry) : (s.setEntries es).choices = s.choices := rfl

/-! ### State.countRekey changes `revoc` alone -/

@[simp] theorem State.countRekey_pending (s : State) : s.countRekey.pending = s.pending := rfl
@[simp] theorem State.countRekey_part (s : State) : s.countRekey.part = s.part := rfl
@[simp] theorem State.countRekey_supply (s : State) : s.countRekey.supply = s.supply := rfl
@[simp] theorem State.countRekey_loader (s : State) : s.countRekey.loader = s.loader := rfl
@[simp] theorem State.countRekey_time (s : State) : s.countRekey.time = s.time := rfl
@[simp] theorem State.countRekey_lines (s : State) : s.countRekey.lines = s.lines := rfl
@[simp] theorem State.countRekey_inviter (s : State) : s.countRekey.inviter = s.inviter := rfl
@[simp] theorem State.countRekey_nodes (s : State) : s.countRekey.nodes = s.nodes := rfl
@[simp] theorem State.countRekey_store (s : State) : s.countRekey.store = s.store := rfl
@[simp] theorem State.countRekey_minibar (s : State) : s.countRekey.minibar = s.minibar := rfl
@[simp] theorem State.countRekey_journal (s : State) : s.countRekey.journal = s.journal := rfl
@[simp] theorem State.countRekey_port (s : State) : s.countRekey.port = s.port := rfl
@[simp] theorem State.countRekey_choices (s : State) : s.countRekey.choices = s.choices := rfl

/-! ### State.extendEntry changes `revoc` alone -/

@[simp] theorem State.extendEntry_pending (s : State) (x t : Nat) : (s.extendEntry x t).pending = s.pending := rfl
@[simp] theorem State.extendEntry_part (s : State) (x t : Nat) : (s.extendEntry x t).part = s.part := rfl
@[simp] theorem State.extendEntry_supply (s : State) (x t : Nat) : (s.extendEntry x t).supply = s.supply := rfl
@[simp] theorem State.extendEntry_loader (s : State) (x t : Nat) : (s.extendEntry x t).loader = s.loader := rfl
@[simp] theorem State.extendEntry_time (s : State) (x t : Nat) : (s.extendEntry x t).time = s.time := rfl
@[simp] theorem State.extendEntry_lines (s : State) (x t : Nat) : (s.extendEntry x t).lines = s.lines := rfl
@[simp] theorem State.extendEntry_inviter (s : State) (x t : Nat) : (s.extendEntry x t).inviter = s.inviter := rfl
@[simp] theorem State.extendEntry_nodes (s : State) (x t : Nat) : (s.extendEntry x t).nodes = s.nodes := rfl
@[simp] theorem State.extendEntry_store (s : State) (x t : Nat) : (s.extendEntry x t).store = s.store := rfl
@[simp] theorem State.extendEntry_minibar (s : State) (x t : Nat) : (s.extendEntry x t).minibar = s.minibar := rfl
@[simp] theorem State.extendEntry_journal (s : State) (x t : Nat) : (s.extendEntry x t).journal = s.journal := rfl
@[simp] theorem State.extendEntry_port (s : State) (x t : Nat) : (s.extendEntry x t).port = s.port := rfl
@[simp] theorem State.extendEntry_choices (s : State) (x t : Nat) : (s.extendEntry x t).choices = s.choices := rfl

/-! ### State.modFolio changes `minibar` alone -/

@[simp] theorem State.modFolio_pending (s : State) (p : Nat) (f : Folio → Folio) : (s.modFolio p f).pending = s.pending := rfl
@[simp] theorem State.modFolio_part (s : State) (p : Nat) (f : Folio → Folio) : (s.modFolio p f).part = s.part := rfl
@[simp] theorem State.modFolio_supply (s : State) (p : Nat) (f : Folio → Folio) : (s.modFolio p f).supply = s.supply := rfl
@[simp] theorem State.modFolio_loader (s : State) (p : Nat) (f : Folio → Folio) : (s.modFolio p f).loader = s.loader := rfl
@[simp] theorem State.modFolio_time (s : State) (p : Nat) (f : Folio → Folio) : (s.modFolio p f).time = s.time := rfl
@[simp] theorem State.modFolio_lines (s : State) (p : Nat) (f : Folio → Folio) : (s.modFolio p f).lines = s.lines := rfl
@[simp] theorem State.modFolio_inviter (s : State) (p : Nat) (f : Folio → Folio) : (s.modFolio p f).inviter = s.inviter := rfl
@[simp] theorem State.modFolio_nodes (s : State) (p : Nat) (f : Folio → Folio) : (s.modFolio p f).nodes = s.nodes := rfl
@[simp] theorem State.modFolio_store (s : State) (p : Nat) (f : Folio → Folio) : (s.modFolio p f).store = s.store := rfl
@[simp] theorem State.modFolio_revoc (s : State) (p : Nat) (f : Folio → Folio) : (s.modFolio p f).revoc = s.revoc := rfl
@[simp] theorem State.modFolio_journal (s : State) (p : Nat) (f : Folio → Folio) : (s.modFolio p f).journal = s.journal := rfl
@[simp] theorem State.modFolio_port (s : State) (p : Nat) (f : Folio → Folio) : (s.modFolio p f).port = s.port := rfl
@[simp] theorem State.modFolio_choices (s : State) (p : Nat) (f : Folio → Folio) : (s.modFolio p f).choices = s.choices := rfl

/-! ### State.setPool changes `minibar` alone -/

@[simp] theorem State.setPool_pending (s : State) (p : List ChargeLine) : (s.setPool p).pending = s.pending := rfl
@[simp] theorem State.setPool_part (s : State) (p : List ChargeLine) : (s.setPool p).part = s.part := rfl
@[simp] theorem State.setPool_supply (s : State) (p : List ChargeLine) : (s.setPool p).supply = s.supply := rfl
@[simp] theorem State.setPool_loader (s : State) (p : List ChargeLine) : (s.setPool p).loader = s.loader := rfl
@[simp] theorem State.setPool_time (s : State) (p : List ChargeLine) : (s.setPool p).time = s.time := rfl
@[simp] theorem State.setPool_lines (s : State) (p : List ChargeLine) : (s.setPool p).lines = s.lines := rfl
@[simp] theorem State.setPool_inviter (s : State) (p : List ChargeLine) : (s.setPool p).inviter = s.inviter := rfl
@[simp] theorem State.setPool_nodes (s : State) (p : List ChargeLine) : (s.setPool p).nodes = s.nodes := rfl
@[simp] theorem State.setPool_store (s : State) (p : List ChargeLine) : (s.setPool p).store = s.store := rfl
@[simp] theorem State.setPool_revoc (s : State) (p : List ChargeLine) : (s.setPool p).revoc = s.revoc := rfl
@[simp] theorem State.setPool_journal (s : State) (p : List ChargeLine) : (s.setPool p).journal = s.journal := rfl
@[simp] theorem State.setPool_port (s : State) (p : List ChargeLine) : (s.setPool p).port = s.port := rfl
@[simp] theorem State.setPool_choices (s : State) (p : List ChargeLine) : (s.setPool p).choices = s.choices := rfl

/-! ### State.setRx changes `port` alone -/

@[simp] theorem State.setRx_pending (s : State) (r : Rx) : (s.setRx r).pending = s.pending := rfl
@[simp] theorem State.setRx_part (s : State) (r : Rx) : (s.setRx r).part = s.part := rfl
@[simp] theorem State.setRx_supply (s : State) (r : Rx) : (s.setRx r).supply = s.supply := rfl
@[simp] theorem State.setRx_loader (s : State) (r : Rx) : (s.setRx r).loader = s.loader := rfl
@[simp] theorem State.setRx_time (s : State) (r : Rx) : (s.setRx r).time = s.time := rfl
@[simp] theorem State.setRx_lines (s : State) (r : Rx) : (s.setRx r).lines = s.lines := rfl
@[simp] theorem State.setRx_inviter (s : State) (r : Rx) : (s.setRx r).inviter = s.inviter := rfl
@[simp] theorem State.setRx_nodes (s : State) (r : Rx) : (s.setRx r).nodes = s.nodes := rfl
@[simp] theorem State.setRx_store (s : State) (r : Rx) : (s.setRx r).store = s.store := rfl
@[simp] theorem State.setRx_revoc (s : State) (r : Rx) : (s.setRx r).revoc = s.revoc := rfl
@[simp] theorem State.setRx_minibar (s : State) (r : Rx) : (s.setRx r).minibar = s.minibar := rfl
@[simp] theorem State.setRx_journal (s : State) (r : Rx) : (s.setRx r).journal = s.journal := rfl
@[simp] theorem State.setRx_choices (s : State) (r : Rx) : (s.setRx r).choices = s.choices := rfl

/-! ### State.overlap and State.quietFor change `port` alone -/

@[simp] theorem State.overlap_pending (s : State) (k t : Byte) : (s.overlap k t).pending = s.pending := rfl
@[simp] theorem State.overlap_part (s : State) (k t : Byte) : (s.overlap k t).part = s.part := rfl
@[simp] theorem State.overlap_supply (s : State) (k t : Byte) : (s.overlap k t).supply = s.supply := rfl
@[simp] theorem State.overlap_loader (s : State) (k t : Byte) : (s.overlap k t).loader = s.loader := rfl
@[simp] theorem State.overlap_time (s : State) (k t : Byte) : (s.overlap k t).time = s.time := rfl
@[simp] theorem State.overlap_lines (s : State) (k t : Byte) : (s.overlap k t).lines = s.lines := rfl
@[simp] theorem State.overlap_inviter (s : State) (k t : Byte) : (s.overlap k t).inviter = s.inviter := rfl
@[simp] theorem State.overlap_nodes (s : State) (k t : Byte) : (s.overlap k t).nodes = s.nodes := rfl
@[simp] theorem State.overlap_store (s : State) (k t : Byte) : (s.overlap k t).store = s.store := rfl
@[simp] theorem State.overlap_revoc (s : State) (k t : Byte) : (s.overlap k t).revoc = s.revoc := rfl
@[simp] theorem State.overlap_minibar (s : State) (k t : Byte) : (s.overlap k t).minibar = s.minibar := rfl
@[simp] theorem State.overlap_journal (s : State) (k t : Byte) : (s.overlap k t).journal = s.journal := rfl
@[simp] theorem State.overlap_choices (s : State) (k t : Byte) : (s.overlap k t).choices = s.choices := rfl

/-- 10:R182: nothing while HUNTING or with the line off; else the measure rises, or the frame is discarded. -/
theorem State.quietFor_cases (k : Nat) (s : State) :
    ((s.port.rx.isHunting = true ∨ s.lineOff = true) ∧ s.quietFor k = s) ∨
    (s.port.rx.isHunting = false ∧ s.lineOff = false ∧ s.port.silence + k < 1639 ∧
      s.quietFor k = { s with port := { s.port with silence := s.port.silence + k } }) ∨
    (s.port.rx.isHunting = false ∧ s.lineOff = false ∧ 1639 ≤ s.port.silence + k ∧
      s.quietFor k = (s.setRx .hunting).rejection .timeout s.port.rx.about) := by
  unfold State.quietFor State.rxTimeout
  cases hr : s.port.rx.isHunting <;> cases hl : s.lineOff <;> simp
  by_cases hk : 1639 ≤ s.port.silence + k
  · simp [hk]
  · simp [hk]; omega

theorem State.quietFor_frame {α : Type} (f : State → α) (h : ∀ (s : State) (p : Port), f { s with port := p } = f s)
    (k : Nat) (s : State) : f (s.quietFor k) = f s := by
  obtain ⟨-, e⟩ | ⟨-, -, -, e⟩ | ⟨-, -, -, e⟩ := s.quietFor_cases k
  · rw [e]
  · rw [e]; exact h _ _
  · rw [e]; exact (h _ _).trans (h _ _)

@[simp] theorem State.quietFor_pending (s : State) (k : Nat) : (s.quietFor k).pending = s.pending := State.quietFor_frame (·.pending) (fun _ _ => rfl) k s
@[simp] theorem State.quietFor_part (s : State) (k : Nat) : (s.quietFor k).part = s.part := State.quietFor_frame (·.part) (fun _ _ => rfl) k s
@[simp] theorem State.quietFor_supply (s : State) (k : Nat) : (s.quietFor k).supply = s.supply := State.quietFor_frame (·.supply) (fun _ _ => rfl) k s
@[simp] theorem State.quietFor_loader (s : State) (k : Nat) : (s.quietFor k).loader = s.loader := State.quietFor_frame (·.loader) (fun _ _ => rfl) k s
@[simp] theorem State.quietFor_time (s : State) (k : Nat) : (s.quietFor k).time = s.time := State.quietFor_frame (·.time) (fun _ _ => rfl) k s
@[simp] theorem State.quietFor_lines (s : State) (k : Nat) : (s.quietFor k).lines = s.lines := State.quietFor_frame (·.lines) (fun _ _ => rfl) k s
@[simp] theorem State.quietFor_inviter (s : State) (k : Nat) : (s.quietFor k).inviter = s.inviter := State.quietFor_frame (·.inviter) (fun _ _ => rfl) k s
@[simp] theorem State.quietFor_nodes (s : State) (k : Nat) : (s.quietFor k).nodes = s.nodes := State.quietFor_frame (·.nodes) (fun _ _ => rfl) k s
@[simp] theorem State.quietFor_store (s : State) (k : Nat) : (s.quietFor k).store = s.store := State.quietFor_frame (·.store) (fun _ _ => rfl) k s
@[simp] theorem State.quietFor_revoc (s : State) (k : Nat) : (s.quietFor k).revoc = s.revoc := State.quietFor_frame (·.revoc) (fun _ _ => rfl) k s
@[simp] theorem State.quietFor_minibar (s : State) (k : Nat) : (s.quietFor k).minibar = s.minibar := State.quietFor_frame (·.minibar) (fun _ _ => rfl) k s
@[simp] theorem State.quietFor_journal (s : State) (k : Nat) : (s.quietFor k).journal = s.journal := State.quietFor_frame (·.journal) (fun _ _ => rfl) k s
@[simp] theorem State.quietFor_choices (s : State) (k : Nat) : (s.quietFor k).choices = s.choices := State.quietFor_frame (·.choices) (fun _ _ => rfl) k s

/-! ### State.answer changes `port` alone -/

@[simp] theorem State.answer_pending (s : State) (k t : Byte) (b : Bool) (r : Reply) : (s.answer k t b r).pending = s.pending := rfl
@[simp] theorem State.answer_part (s : State) (k t : Byte) (b : Bool) (r : Reply) : (s.answer k t b r).part = s.part := rfl
@[simp] theorem State.answer_supply (s : State) (k t : Byte) (b : Bool) (r : Reply) : (s.answer k t b r).supply = s.supply := rfl
@[simp] theorem State.answer_loader (s : State) (k t : Byte) (b : Bool) (r : Reply) : (s.answer k t b r).loader = s.loader := rfl
@[simp] theorem State.answer_time (s : State) (k t : Byte) (b : Bool) (r : Reply) : (s.answer k t b r).time = s.time := rfl
@[simp] theorem State.answer_lines (s : State) (k t : Byte) (b : Bool) (r : Reply) : (s.answer k t b r).lines = s.lines := rfl
@[simp] theorem State.answer_inviter (s : State) (k t : Byte) (b : Bool) (r : Reply) : (s.answer k t b r).inviter = s.inviter := rfl
@[simp] theorem State.answer_nodes (s : State) (k t : Byte) (b : Bool) (r : Reply) : (s.answer k t b r).nodes = s.nodes := rfl
@[simp] theorem State.answer_store (s : State) (k t : Byte) (b : Bool) (r : Reply) : (s.answer k t b r).store = s.store := rfl
@[simp] theorem State.answer_revoc (s : State) (k t : Byte) (b : Bool) (r : Reply) : (s.answer k t b r).revoc = s.revoc := rfl
@[simp] theorem State.answer_minibar (s : State) (k t : Byte) (b : Bool) (r : Reply) : (s.answer k t b r).minibar = s.minibar := rfl
@[simp] theorem State.answer_journal (s : State) (k t : Byte) (b : Bool) (r : Reply) : (s.answer k t b r).journal = s.journal := rfl
@[simp] theorem State.answer_choices (s : State) (k t : Byte) (b : Bool) (r : Reply) : (s.answer k t b r).choices = s.choices := rfl

/-! ### State.pushUrgent changes `lines` alone -/

@[simp] theorem State.pushUrgent_pending (s : State) (u : Urgent) : (s.pushUrgent u).pending = s.pending := rfl
@[simp] theorem State.pushUrgent_part (s : State) (u : Urgent) : (s.pushUrgent u).part = s.part := rfl
@[simp] theorem State.pushUrgent_supply (s : State) (u : Urgent) : (s.pushUrgent u).supply = s.supply := rfl
@[simp] theorem State.pushUrgent_loader (s : State) (u : Urgent) : (s.pushUrgent u).loader = s.loader := rfl
@[simp] theorem State.pushUrgent_time (s : State) (u : Urgent) : (s.pushUrgent u).time = s.time := rfl
@[simp] theorem State.pushUrgent_inviter (s : State) (u : Urgent) : (s.pushUrgent u).inviter = s.inviter := rfl
@[simp] theorem State.pushUrgent_nodes (s : State) (u : Urgent) : (s.pushUrgent u).nodes = s.nodes := rfl
@[simp] theorem State.pushUrgent_store (s : State) (u : Urgent) : (s.pushUrgent u).store = s.store := rfl
@[simp] theorem State.pushUrgent_revoc (s : State) (u : Urgent) : (s.pushUrgent u).revoc = s.revoc := rfl
@[simp] theorem State.pushUrgent_minibar (s : State) (u : Urgent) : (s.pushUrgent u).minibar = s.minibar := rfl
@[simp] theorem State.pushUrgent_journal (s : State) (u : Urgent) : (s.pushUrgent u).journal = s.journal := rfl
@[simp] theorem State.pushUrgent_port (s : State) (u : Urgent) : (s.pushUrgent u).port = s.port := rfl
@[simp] theorem State.pushUrgent_choices (s : State) (u : Urgent) : (s.pushUrgent u).choices = s.choices := rfl

/-! ### State.parkPointer changes `lines` alone -/

@[simp] theorem State.parkPointer_pending (s : State) (p : Nat) : (s.parkPointer p).pending = s.pending := rfl
@[simp] theorem State.parkPointer_part (s : State) (p : Nat) : (s.parkPointer p).part = s.part := rfl
@[simp] theorem State.parkPointer_supply (s : State) (p : Nat) : (s.parkPointer p).supply = s.supply := rfl
@[simp] theorem State.parkPointer_loader (s : State) (p : Nat) : (s.parkPointer p).loader = s.loader := rfl
@[simp] theorem State.parkPointer_time (s : State) (p : Nat) : (s.parkPointer p).time = s.time := rfl
@[simp] theorem State.parkPointer_inviter (s : State) (p : Nat) : (s.parkPointer p).inviter = s.inviter := rfl
@[simp] theorem State.parkPointer_nodes (s : State) (p : Nat) : (s.parkPointer p).nodes = s.nodes := rfl
@[simp] theorem State.parkPointer_store (s : State) (p : Nat) : (s.parkPointer p).store = s.store := rfl
@[simp] theorem State.parkPointer_revoc (s : State) (p : Nat) : (s.parkPointer p).revoc = s.revoc := rfl
@[simp] theorem State.parkPointer_minibar (s : State) (p : Nat) : (s.parkPointer p).minibar = s.minibar := rfl
@[simp] theorem State.parkPointer_journal (s : State) (p : Nat) : (s.parkPointer p).journal = s.journal := rfl
@[simp] theorem State.parkPointer_port (s : State) (p : Nat) : (s.parkPointer p).port = s.port := rfl
@[simp] theorem State.parkPointer_choices (s : State) (p : Nat) : (s.parkPointer p).choices = s.choices := rfl

/-! ### State.dropWindow changes `lines` alone -/

@[simp] theorem State.dropWindow_pending (s : State) (a : Nat) : (s.dropWindow a).pending = s.pending := rfl
@[simp] theorem State.dropWindow_part (s : State) (a : Nat) : (s.dropWindow a).part = s.part := rfl
@[simp] theorem State.dropWindow_supply (s : State) (a : Nat) : (s.dropWindow a).supply = s.supply := rfl
@[simp] theorem State.dropWindow_loader (s : State) (a : Nat) : (s.dropWindow a).loader = s.loader := rfl
@[simp] theorem State.dropWindow_time (s : State) (a : Nat) : (s.dropWindow a).time = s.time := rfl
@[simp] theorem State.dropWindow_inviter (s : State) (a : Nat) : (s.dropWindow a).inviter = s.inviter := rfl
@[simp] theorem State.dropWindow_nodes (s : State) (a : Nat) : (s.dropWindow a).nodes = s.nodes := rfl
@[simp] theorem State.dropWindow_store (s : State) (a : Nat) : (s.dropWindow a).store = s.store := rfl
@[simp] theorem State.dropWindow_revoc (s : State) (a : Nat) : (s.dropWindow a).revoc = s.revoc := rfl
@[simp] theorem State.dropWindow_minibar (s : State) (a : Nat) : (s.dropWindow a).minibar = s.minibar := rfl
@[simp] theorem State.dropWindow_journal (s : State) (a : Nat) : (s.dropWindow a).journal = s.journal := rfl
@[simp] theorem State.dropWindow_port (s : State) (a : Nat) : (s.dropWindow a).port = s.port := rfl
@[simp] theorem State.dropWindow_choices (s : State) (a : Nat) : (s.dropWindow a).choices = s.choices := rfl

/-! ### State.endInvitation changes `lines` alone -/

@[simp] theorem State.endInvitation_pending (s : State) : s.endInvitation.pending = s.pending := rfl
@[simp] theorem State.endInvitation_part (s : State) : s.endInvitation.part = s.part := rfl
@[simp] theorem State.endInvitation_supply (s : State) : s.endInvitation.supply = s.supply := rfl
@[simp] theorem State.endInvitation_loader (s : State) : s.endInvitation.loader = s.loader := rfl
@[simp] theorem State.endInvitation_time (s : State) : s.endInvitation.time = s.time := rfl
@[simp] theorem State.endInvitation_inviter (s : State) : s.endInvitation.inviter = s.inviter := rfl
@[simp] theorem State.endInvitation_nodes (s : State) : s.endInvitation.nodes = s.nodes := rfl
@[simp] theorem State.endInvitation_store (s : State) : s.endInvitation.store = s.store := rfl
@[simp] theorem State.endInvitation_revoc (s : State) : s.endInvitation.revoc = s.revoc := rfl
@[simp] theorem State.endInvitation_minibar (s : State) : s.endInvitation.minibar = s.minibar := rfl
@[simp] theorem State.endInvitation_journal (s : State) : s.endInvitation.journal = s.journal := rfl
@[simp] theorem State.endInvitation_port (s : State) : s.endInvitation.port = s.port := rfl
@[simp] theorem State.endInvitation_choices (s : State) : s.endInvitation.choices = s.choices := rfl

/-! ### State.cutRound changes `lines` alone -/

@[simp] theorem State.cutRound_pending (s : State) (l : LineId) : (s.cutRound l).pending = s.pending := rfl
@[simp] theorem State.cutRound_part (s : State) (l : LineId) : (s.cutRound l).part = s.part := rfl
@[simp] theorem State.cutRound_supply (s : State) (l : LineId) : (s.cutRound l).supply = s.supply := rfl
@[simp] theorem State.cutRound_loader (s : State) (l : LineId) : (s.cutRound l).loader = s.loader := rfl
@[simp] theorem State.cutRound_time (s : State) (l : LineId) : (s.cutRound l).time = s.time := rfl
@[simp] theorem State.cutRound_inviter (s : State) (l : LineId) : (s.cutRound l).inviter = s.inviter := rfl
@[simp] theorem State.cutRound_nodes (s : State) (l : LineId) : (s.cutRound l).nodes = s.nodes := rfl
@[simp] theorem State.cutRound_store (s : State) (l : LineId) : (s.cutRound l).store = s.store := rfl
@[simp] theorem State.cutRound_revoc (s : State) (l : LineId) : (s.cutRound l).revoc = s.revoc := rfl
@[simp] theorem State.cutRound_minibar (s : State) (l : LineId) : (s.cutRound l).minibar = s.minibar := rfl
@[simp] theorem State.cutRound_journal (s : State) (l : LineId) : (s.cutRound l).journal = s.journal := rfl
@[simp] theorem State.cutRound_port (s : State) (l : LineId) : (s.cutRound l).port = s.port := rfl
@[simp] theorem State.cutRound_choices (s : State) (l : LineId) : (s.cutRound l).choices = s.choices := rfl

/-! ### State.clearFaults changes `lines` alone -/

@[simp] theorem State.clearFaults_pending (s : State) : s.clearFaults.pending = s.pending := rfl
@[simp] theorem State.clearFaults_part (s : State) : s.clearFaults.part = s.part := rfl
@[simp] theorem State.clearFaults_supply (s : State) : s.clearFaults.supply = s.supply := rfl
@[simp] theorem State.clearFaults_loader (s : State) : s.clearFaults.loader = s.loader := rfl
@[simp] theorem State.clearFaults_time (s : State) : s.clearFaults.time = s.time := rfl
@[simp] theorem State.clearFaults_inviter (s : State) : s.clearFaults.inviter = s.inviter := rfl
@[simp] theorem State.clearFaults_nodes (s : State) : s.clearFaults.nodes = s.nodes := rfl
@[simp] theorem State.clearFaults_store (s : State) : s.clearFaults.store = s.store := rfl
@[simp] theorem State.clearFaults_revoc (s : State) : s.clearFaults.revoc = s.revoc := rfl
@[simp] theorem State.clearFaults_minibar (s : State) : s.clearFaults.minibar = s.minibar := rfl
@[simp] theorem State.clearFaults_journal (s : State) : s.clearFaults.journal = s.journal := rfl
@[simp] theorem State.clearFaults_port (s : State) : s.clearFaults.port = s.port := rfl
@[simp] theorem State.clearFaults_choices (s : State) : s.clearFaults.choices = s.choices := rfl

/-! ### State.secondRise changes `time` alone -/

@[simp] theorem State.secondRise_pending (s : State) : s.secondRise.pending = s.pending := rfl
@[simp] theorem State.secondRise_part (s : State) : s.secondRise.part = s.part := rfl
@[simp] theorem State.secondRise_supply (s : State) : s.secondRise.supply = s.supply := rfl
@[simp] theorem State.secondRise_loader (s : State) : s.secondRise.loader = s.loader := rfl
@[simp] theorem State.secondRise_lines (s : State) : s.secondRise.lines = s.lines := rfl
@[simp] theorem State.secondRise_inviter (s : State) : s.secondRise.inviter = s.inviter := rfl
@[simp] theorem State.secondRise_nodes (s : State) : s.secondRise.nodes = s.nodes := rfl
@[simp] theorem State.secondRise_store (s : State) : s.secondRise.store = s.store := rfl
@[simp] theorem State.secondRise_revoc (s : State) : s.secondRise.revoc = s.revoc := rfl
@[simp] theorem State.secondRise_minibar (s : State) : s.secondRise.minibar = s.minibar := rfl
@[simp] theorem State.secondRise_journal (s : State) : s.secondRise.journal = s.journal := rfl
@[simp] theorem State.secondRise_port (s : State) : s.secondRise.port = s.port := rfl
@[simp] theorem State.secondRise_choices (s : State) : s.secondRise.choices = s.choices := rfl

/-! ### State.endSecond changes `time` alone -/

@[simp] theorem State.endSecond_pending (s : State) : s.endSecond.pending = s.pending := rfl
@[simp] theorem State.endSecond_part (s : State) : s.endSecond.part = s.part := rfl
@[simp] theorem State.endSecond_supply (s : State) : s.endSecond.supply = s.supply := rfl
@[simp] theorem State.endSecond_loader (s : State) : s.endSecond.loader = s.loader := rfl
@[simp] theorem State.endSecond_lines (s : State) : s.endSecond.lines = s.lines := rfl
@[simp] theorem State.endSecond_inviter (s : State) : s.endSecond.inviter = s.inviter := rfl
@[simp] theorem State.endSecond_nodes (s : State) : s.endSecond.nodes = s.nodes := rfl
@[simp] theorem State.endSecond_store (s : State) : s.endSecond.store = s.store := rfl
@[simp] theorem State.endSecond_revoc (s : State) : s.endSecond.revoc = s.revoc := rfl
@[simp] theorem State.endSecond_minibar (s : State) : s.endSecond.minibar = s.minibar := rfl
@[simp] theorem State.endSecond_journal (s : State) : s.endSecond.journal = s.journal := rfl
@[simp] theorem State.endSecond_port (s : State) : s.endSecond.port = s.port := rfl
@[simp] theorem State.endSecond_choices (s : State) : s.endSecond.choices = s.choices := rfl

/-! ### State.firstMark changes `time` alone -/

@[simp] theorem State.firstMark_pending (s : State) : s.firstMark.pending = s.pending := rfl
@[simp] theorem State.firstMark_part (s : State) : s.firstMark.part = s.part := rfl
@[simp] theorem State.firstMark_supply (s : State) : s.firstMark.supply = s.supply := rfl
@[simp] theorem State.firstMark_loader (s : State) : s.firstMark.loader = s.loader := rfl
@[simp] theorem State.firstMark_lines (s : State) : s.firstMark.lines = s.lines := rfl
@[simp] theorem State.firstMark_inviter (s : State) : s.firstMark.inviter = s.inviter := rfl
@[simp] theorem State.firstMark_nodes (s : State) : s.firstMark.nodes = s.nodes := rfl
@[simp] theorem State.firstMark_store (s : State) : s.firstMark.store = s.store := rfl
@[simp] theorem State.firstMark_revoc (s : State) : s.firstMark.revoc = s.revoc := rfl
@[simp] theorem State.firstMark_minibar (s : State) : s.firstMark.minibar = s.minibar := rfl
@[simp] theorem State.firstMark_journal (s : State) : s.firstMark.journal = s.journal := rfl
@[simp] theorem State.firstMark_port (s : State) : s.firstMark.port = s.port := rfl
@[simp] theorem State.firstMark_choices (s : State) : s.firstMark.choices = s.choices := rfl

/-! ### State.stage changes `loader` alone -/

@[simp] theorem State.stage_pending (s : State) (b : List Byte) : (s.stage b).pending = s.pending := rfl
@[simp] theorem State.stage_part (s : State) (b : List Byte) : (s.stage b).part = s.part := rfl
@[simp] theorem State.stage_supply (s : State) (b : List Byte) : (s.stage b).supply = s.supply := rfl
@[simp] theorem State.stage_time (s : State) (b : List Byte) : (s.stage b).time = s.time := rfl
@[simp] theorem State.stage_lines (s : State) (b : List Byte) : (s.stage b).lines = s.lines := rfl
@[simp] theorem State.stage_inviter (s : State) (b : List Byte) : (s.stage b).inviter = s.inviter := rfl
@[simp] theorem State.stage_nodes (s : State) (b : List Byte) : (s.stage b).nodes = s.nodes := rfl
@[simp] theorem State.stage_store (s : State) (b : List Byte) : (s.stage b).store = s.store := rfl
@[simp] theorem State.stage_revoc (s : State) (b : List Byte) : (s.stage b).revoc = s.revoc := rfl
@[simp] theorem State.stage_minibar (s : State) (b : List Byte) : (s.stage b).minibar = s.minibar := rfl
@[simp] theorem State.stage_journal (s : State) (b : List Byte) : (s.stage b).journal = s.journal := rfl
@[simp] theorem State.stage_port (s : State) (b : List Byte) : (s.stage b).port = s.port := rfl
@[simp] theorem State.stage_choices (s : State) (b : List Byte) : (s.stage b).choices = s.choices := rfl

/-! ### State.ackJournal changes `journal` alone -/

@[simp] theorem State.ackJournal_pending (s : State) (x : Nat) : (s.ackJournal x).pending = s.pending := rfl
@[simp] theorem State.ackJournal_part (s : State) (x : Nat) : (s.ackJournal x).part = s.part := rfl
@[simp] theorem State.ackJournal_supply (s : State) (x : Nat) : (s.ackJournal x).supply = s.supply := rfl
@[simp] theorem State.ackJournal_loader (s : State) (x : Nat) : (s.ackJournal x).loader = s.loader := rfl
@[simp] theorem State.ackJournal_time (s : State) (x : Nat) : (s.ackJournal x).time = s.time := rfl
@[simp] theorem State.ackJournal_lines (s : State) (x : Nat) : (s.ackJournal x).lines = s.lines := rfl
@[simp] theorem State.ackJournal_inviter (s : State) (x : Nat) : (s.ackJournal x).inviter = s.inviter := rfl
@[simp] theorem State.ackJournal_nodes (s : State) (x : Nat) : (s.ackJournal x).nodes = s.nodes := rfl
@[simp] theorem State.ackJournal_store (s : State) (x : Nat) : (s.ackJournal x).store = s.store := rfl
@[simp] theorem State.ackJournal_revoc (s : State) (x : Nat) : (s.ackJournal x).revoc = s.revoc := rfl
@[simp] theorem State.ackJournal_minibar (s : State) (x : Nat) : (s.ackJournal x).minibar = s.minibar := rfl
@[simp] theorem State.ackJournal_port (s : State) (x : Nat) : (s.ackJournal x).port = s.port := rfl
@[simp] theorem State.ackJournal_choices (s : State) (x : Nat) : (s.ackJournal x).choices = s.choices := rfl

/-! ### State.withPending changes `pending` alone -/

@[simp] theorem State.withPending_part (s : State) (q : List Instr) : (s.withPending q).part = s.part := rfl
@[simp] theorem State.withPending_supply (s : State) (q : List Instr) : (s.withPending q).supply = s.supply := rfl
@[simp] theorem State.withPending_loader (s : State) (q : List Instr) : (s.withPending q).loader = s.loader := rfl
@[simp] theorem State.withPending_time (s : State) (q : List Instr) : (s.withPending q).time = s.time := rfl
@[simp] theorem State.withPending_lines (s : State) (q : List Instr) : (s.withPending q).lines = s.lines := rfl
@[simp] theorem State.withPending_inviter (s : State) (q : List Instr) : (s.withPending q).inviter = s.inviter := rfl
@[simp] theorem State.withPending_nodes (s : State) (q : List Instr) : (s.withPending q).nodes = s.nodes := rfl
@[simp] theorem State.withPending_store (s : State) (q : List Instr) : (s.withPending q).store = s.store := rfl
@[simp] theorem State.withPending_revoc (s : State) (q : List Instr) : (s.withPending q).revoc = s.revoc := rfl
@[simp] theorem State.withPending_minibar (s : State) (q : List Instr) : (s.withPending q).minibar = s.minibar := rfl
@[simp] theorem State.withPending_journal (s : State) (q : List Instr) : (s.withPending q).journal = s.journal := rfl
@[simp] theorem State.withPending_port (s : State) (q : List Instr) : (s.withPending q).port = s.port := rfl
@[simp] theorem State.withPending_choices (s : State) (q : List Instr) : (s.withPending q).choices = s.choices := rfl

/-! ### What each changes -/

@[simp] theorem State.withPending_pending (s : State) (q : List Instr) : (s.withPending q).pending = q := rfl
@[simp] theorem State.modNode_nodes (s : State) (a : Nat) (f : Node → Node) :
    (s.modNode a f).nodes = modKey Node.addr a f s.nodes := rfl
@[simp] theorem State.modCred_store (s : State) (k : Nat) (f : Cred → Cred) :
    (s.modCred k f).store = { s.store with recs := modKey Cred.number k f s.store.recs } := rfl
@[simp] theorem State.modFolio_minibar (s : State) (p : Nat) (f : Folio → Folio) :
    (s.modFolio p f).minibar = { s.minibar with folios := modKey Folio.point p f s.minibar.folios } := rfl
@[simp] theorem State.modRoom_revoc (s : State) (p : Nat) (f : Room → Room) :
    (s.modRoom p f).revoc = { s.revoc with rooms := modKey Room.point p f s.revoc.rooms } := rfl
@[simp] theorem State.chose_choices (s : State) : s.chose.choices = s.choices + 1 := rfl

/-! ### A line changed -/

@[simp] theorem State.modLine_pending (s : State) (l : LineId) (f : Line → Line) : (s.modLine l f).pending = s.pending := by cases l <;> rfl
@[simp] theorem State.modLine_part (s : State) (l : LineId) (f : Line → Line) : (s.modLine l f).part = s.part := by cases l <;> rfl
@[simp] theorem State.modLine_supply (s : State) (l : LineId) (f : Line → Line) : (s.modLine l f).supply = s.supply := by cases l <;> rfl
@[simp] theorem State.modLine_loader (s : State) (l : LineId) (f : Line → Line) : (s.modLine l f).loader = s.loader := by cases l <;> rfl
@[simp] theorem State.modLine_time (s : State) (l : LineId) (f : Line → Line) : (s.modLine l f).time = s.time := by cases l <;> rfl
@[simp] theorem State.modLine_inviter (s : State) (l : LineId) (f : Line → Line) : (s.modLine l f).inviter = s.inviter := by cases l <;> rfl
@[simp] theorem State.modLine_nodes (s : State) (l : LineId) (f : Line → Line) : (s.modLine l f).nodes = s.nodes := by cases l <;> rfl
@[simp] theorem State.modLine_store (s : State) (l : LineId) (f : Line → Line) : (s.modLine l f).store = s.store := by cases l <;> rfl
@[simp] theorem State.modLine_revoc (s : State) (l : LineId) (f : Line → Line) : (s.modLine l f).revoc = s.revoc := by cases l <;> rfl
@[simp] theorem State.modLine_minibar (s : State) (l : LineId) (f : Line → Line) : (s.modLine l f).minibar = s.minibar := by cases l <;> rfl
@[simp] theorem State.modLine_journal (s : State) (l : LineId) (f : Line → Line) : (s.modLine l f).journal = s.journal := by cases l <;> rfl
@[simp] theorem State.modLine_port (s : State) (l : LineId) (f : Line → Line) : (s.modLine l f).port = s.port := by cases l <;> rfl
@[simp] theorem State.modLine_choices (s : State) (l : LineId) (f : Line → Line) : (s.modLine l f).choices = s.choices := by cases l <;> rfl

@[simp] theorem State.modLine_line (s : State) (l : LineId) (f : Line → Line) : (s.modLine l f).line l = f (s.line l) := by
  cases l <;> rfl

theorem State.modLine_line_ne (s : State) (l m : LineId) (f : Line → Line) (h : m ≠ l) :
    (s.modLine l f).line m = s.line m := by
  cases l <;> cases m <;> first | rfl | exact absurd rfl h

/-! ### A condition raised changes the port alone -/

@[simp] theorem State.raise_pending (s : State) (k : NoticeKind) : (s.raise k).pending = s.pending := by unfold State.raise; split <;> rfl
@[simp] theorem State.raise_part (s : State) (k : NoticeKind) : (s.raise k).part = s.part := by unfold State.raise; split <;> rfl
@[simp] theorem State.raise_supply (s : State) (k : NoticeKind) : (s.raise k).supply = s.supply := by unfold State.raise; split <;> rfl
@[simp] theorem State.raise_loader (s : State) (k : NoticeKind) : (s.raise k).loader = s.loader := by unfold State.raise; split <;> rfl
@[simp] theorem State.raise_time (s : State) (k : NoticeKind) : (s.raise k).time = s.time := by unfold State.raise; split <;> rfl
@[simp] theorem State.raise_lines (s : State) (k : NoticeKind) : (s.raise k).lines = s.lines := by unfold State.raise; split <;> rfl
@[simp] theorem State.raise_inviter (s : State) (k : NoticeKind) : (s.raise k).inviter = s.inviter := by unfold State.raise; split <;> rfl
@[simp] theorem State.raise_nodes (s : State) (k : NoticeKind) : (s.raise k).nodes = s.nodes := by unfold State.raise; split <;> rfl
@[simp] theorem State.raise_store (s : State) (k : NoticeKind) : (s.raise k).store = s.store := by unfold State.raise; split <;> rfl
@[simp] theorem State.raise_revoc (s : State) (k : NoticeKind) : (s.raise k).revoc = s.revoc := by unfold State.raise; split <;> rfl
@[simp] theorem State.raise_minibar (s : State) (k : NoticeKind) : (s.raise k).minibar = s.minibar := by unfold State.raise; split <;> rfl
@[simp] theorem State.raise_journal (s : State) (k : NoticeKind) : (s.raise k).journal = s.journal := by unfold State.raise; split <;> rfl
@[simp] theorem State.raise_choices (s : State) (k : NoticeKind) : (s.raise k).choices = s.choices := by unfold State.raise; split <;> rfl

/-! ### A record written changes the journal and the port alone -/

@[simp] theorem State.append_pending (s : State) (e : Entry) : (s.append e).pending = s.pending := by unfold State.append; dsimp only; split <;> simp
@[simp] theorem State.append_part (s : State) (e : Entry) : (s.append e).part = s.part := by unfold State.append; dsimp only; split <;> simp
@[simp] theorem State.append_supply (s : State) (e : Entry) : (s.append e).supply = s.supply := by unfold State.append; dsimp only; split <;> simp
@[simp] theorem State.append_loader (s : State) (e : Entry) : (s.append e).loader = s.loader := by unfold State.append; dsimp only; split <;> simp
@[simp] theorem State.append_time (s : State) (e : Entry) : (s.append e).time = s.time := by unfold State.append; dsimp only; split <;> simp
@[simp] theorem State.append_lines (s : State) (e : Entry) : (s.append e).lines = s.lines := by unfold State.append; dsimp only; split <;> simp
@[simp] theorem State.append_inviter (s : State) (e : Entry) : (s.append e).inviter = s.inviter := by unfold State.append; dsimp only; split <;> simp
@[simp] theorem State.append_nodes (s : State) (e : Entry) : (s.append e).nodes = s.nodes := by unfold State.append; dsimp only; split <;> simp
@[simp] theorem State.append_store (s : State) (e : Entry) : (s.append e).store = s.store := by unfold State.append; dsimp only; split <;> simp
@[simp] theorem State.append_revoc (s : State) (e : Entry) : (s.append e).revoc = s.revoc := by unfold State.append; dsimp only; split <;> simp
@[simp] theorem State.append_minibar (s : State) (e : Entry) : (s.append e).minibar = s.minibar := by unfold State.append; dsimp only; split <;> simp
@[simp] theorem State.append_choices (s : State) (e : Entry) : (s.append e).choices = s.choices := by unfold State.append; dsimp only; split <;> simp

@[simp] theorem State.append_journal (s : State) (e : Entry) :
    (s.append e).journal = s.journal.push (e.secs.getD s.now) e := by
  unfold State.append; dsimp only; split <;> simp

end Sys2Proof.Machine
end

