-- ==== Sys2Proof/Laws/Frames.lean ====
section
/-! SUPPORT. For each shared operation, the fields of the state it leaves as they are, whatever it does. -/

namespace Sys2Proof.Machine

open Sys2Proof

set_option linter.unusedTactic false
set_option linter.unreachableTactic false

/-- A reading of the state that every act of a fold keeps is kept by the fold. -/
theorem State.foldl_frame {α β : Type} (g : State → β) (f : State → α → State) (h : ∀ s a, g (f s a) = g s) (l : List α)
    (s : State) : g (l.foldl f s) = g s := by
  induction l generalizing s with
  | nil => rfl
  | cons x xs ih => rw [List.foldl_cons, ih, h]

/-! ### State.dropOldest -/

@[simp] theorem State.dropOldest_pending (s : State) : s.dropOldest.pending = s.pending := by
  unfold State.dropOldest; (try dsimp only); (repeat' split) <;> simp
@[simp] theorem State.dropOldest_part (s : State) : s.dropOldest.part = s.part := by
  unfold State.dropOldest; (try dsimp only); (repeat' split) <;> simp
@[simp] theorem State.dropOldest_supply (s : State) : s.dropOldest.supply = s.supply := by
  unfold State.dropOldest; (try dsimp only); (repeat' split) <;> simp
@[simp] theorem State.dropOldest_loader (s : State) : s.dropOldest.loader = s.loader := by
  unfold State.dropOldest; (try dsimp only); (repeat' split) <;> simp
@[simp] theorem State.dropOldest_time (s : State) : s.dropOldest.time = s.time := by
  unfold State.dropOldest; (try dsimp only); (repeat' split) <;> simp
@[simp] theorem State.dropOldest_lines (s : State) : s.dropOldest.lines = s.lines := by
  unfold State.dropOldest; (try dsimp only); (repeat' split) <;> simp
@[simp] theorem State.dropOldest_inviter (s : State) : s.dropOldest.inviter = s.inviter := by
  unfold State.dropOldest; (try dsimp only); (repeat' split) <;> simp
@[simp] theorem State.dropOldest_store (s : State) : s.dropOldest.store = s.store := by
  unfold State.dropOldest; (try dsimp only); (repeat' split) <;> simp
@[simp] theorem State.dropOldest_minibar (s : State) : s.dropOldest.minibar = s.minibar := by
  unfold State.dropOldest; (try dsimp only); (repeat' split) <;> simp
@[simp] theorem State.dropOldest_journal (s : State) : s.dropOldest.journal = s.journal := by
  unfold State.dropOldest; (try dsimp only); (repeat' split) <;> simp
@[simp] theorem State.dropOldest_port (s : State) : s.dropOldest.port = s.port := by
  unfold State.dropOldest; (try dsimp only); (repeat' split) <;> simp
@[simp] theorem State.dropOldest_choices (s : State) : s.dropOldest.choices = s.choices := by
  unfold State.dropOldest; (try dsimp only); (repeat' split) <;> simp

/-! ### State.emit -/

@[simp] theorem State.emit_pending (s : State) (b : ChangeBody) : (s.emit b).pending = s.pending := by simp [State.emit]
@[simp] theorem State.emit_part (s : State) (b : ChangeBody) : (s.emit b).part = s.part := by simp [State.emit]
@[simp] theorem State.emit_supply (s : State) (b : ChangeBody) : (s.emit b).supply = s.supply := by simp [State.emit]
@[simp] theorem State.emit_loader (s : State) (b : ChangeBody) : (s.emit b).loader = s.loader := by simp [State.emit]
@[simp] theorem State.emit_time (s : State) (b : ChangeBody) : (s.emit b).time = s.time := by simp [State.emit]
@[simp] theorem State.emit_lines (s : State) (b : ChangeBody) : (s.emit b).lines = s.lines := by simp [State.emit]
@[simp] theorem State.emit_inviter (s : State) (b : ChangeBody) : (s.emit b).inviter = s.inviter := by simp [State.emit]
@[simp] theorem State.emit_store (s : State) (b : ChangeBody) : (s.emit b).store = s.store := by simp [State.emit]
@[simp] theorem State.emit_minibar (s : State) (b : ChangeBody) : (s.emit b).minibar = s.minibar := by simp [State.emit]
@[simp] theorem State.emit_journal (s : State) (b : ChangeBody) : (s.emit b).journal = s.journal := by simp [State.emit]
@[simp] theorem State.emit_port (s : State) (b : ChangeBody) : (s.emit b).port = s.port := by simp [State.emit]
@[simp] theorem State.emit_choices (s : State) (b : ChangeBody) : (s.emit b).choices = s.choices := by simp [State.emit]

/-! ### State.setFallback -/

@[simp] theorem State.setFallback_pending (s : State) (a : Nat) (m : FallbackMode) : (s.setFallback a m).pending = s.pending := by simp [State.setFallback]
@[simp] theorem State.setFallback_part (s : State) (a : Nat) (m : FallbackMode) : (s.setFallback a m).part = s.part := by simp [State.setFallback]
@[simp] theorem State.setFallback_supply (s : State) (a : Nat) (m : FallbackMode) : (s.setFallback a m).supply = s.supply := by simp [State.setFallback]
@[simp] theorem State.setFallback_loader (s : State) (a : Nat) (m : FallbackMode) : (s.setFallback a m).loader = s.loader := by simp [State.setFallback]
@[simp] theorem State.setFallback_time (s : State) (a : Nat) (m : FallbackMode) : (s.setFallback a m).time = s.time := by simp [State.setFallback]
@[simp] theorem State.setFallback_lines (s : State) (a : Nat) (m : FallbackMode) : (s.setFallback a m).lines = s.lines := by simp [State.setFallback]
@[simp] theorem State.setFallback_inviter (s : State) (a : Nat) (m : FallbackMode) : (s.setFallback a m).inviter = s.inviter := by simp [State.setFallback]
@[simp] theorem State.setFallback_store (s : State) (a : Nat) (m : FallbackMode) : (s.setFallback a m).store = s.store := by simp [State.setFallback]
@[simp] theorem State.setFallback_revoc (s : State) (a : Nat) (m : FallbackMode) : (s.setFallback a m).revoc = s.revoc := by simp [State.setFallback]
@[simp] theorem State.setFallback_minibar (s : State) (a : Nat) (m : FallbackMode) : (s.setFallback a m).minibar = s.minibar := by simp [State.setFallback]
@[simp] theorem State.setFallback_journal (s : State) (a : Nat) (m : FallbackMode) : (s.setFallback a m).journal = s.journal := by simp [State.setFallback]
@[simp] theorem State.setFallback_choices (s : State) (a : Nat) (m : FallbackMode) : (s.setFallback a m).choices = s.choices := by simp [State.setFallback]

/-! ### State.restrictCheck -/

@[simp] theorem State.restrictCheck_pending (s : State) (c : Option Nat) : (s.restrictCheck c).pending = s.pending := by
  unfold State.restrictCheck State.forEach
  exact State.foldl_frame (·.pending) _ (fun _ _ => by dsimp only; (repeat' split) <;> simp) _ _
@[simp] theorem State.restrictCheck_part (s : State) (c : Option Nat) : (s.restrictCheck c).part = s.part := by
  unfold State.restrictCheck State.forEach
  exact State.foldl_frame (·.part) _ (fun _ _ => by dsimp only; (repeat' split) <;> simp) _ _
@[simp] theorem State.restrictCheck_supply (s : State) (c : Option Nat) : (s.restrictCheck c).supply = s.supply := by
  unfold State.restrictCheck State.forEach
  exact State.foldl_frame (·.supply) _ (fun _ _ => by dsimp only; (repeat' split) <;> simp) _ _
@[simp] theorem State.restrictCheck_loader (s : State) (c : Option Nat) : (s.restrictCheck c).loader = s.loader := by
  unfold State.restrictCheck State.forEach
  exact State.foldl_frame (·.loader) _ (fun _ _ => by dsimp only; (repeat' split) <;> simp) _ _
@[simp] theorem State.restrictCheck_time (s : State) (c : Option Nat) : (s.restrictCheck c).time = s.time := by
  unfold State.restrictCheck State.forEach
  exact State.foldl_frame (·.time) _ (fun _ _ => by dsimp only; (repeat' split) <;> simp) _ _
@[simp] theorem State.restrictCheck_lines (s : State) (c : Option Nat) : (s.restrictCheck c).lines = s.lines := by
  unfold State.restrictCheck State.forEach
  exact State.foldl_frame (·.lines) _ (fun _ _ => by dsimp only; (repeat' split) <;> simp) _ _
@[simp] theorem State.restrictCheck_inviter (s : State) (c : Option Nat) : (s.restrictCheck c).inviter = s.inviter := by
  unfold State.restrictCheck State.forEach
  exact State.foldl_frame (·.inviter) _ (fun _ _ => by dsimp only; (repeat' split) <;> simp) _ _
@[simp] theorem State.restrictCheck_store (s : State) (c : Option Nat) : (s.restrictCheck c).store = s.store := by
  unfold State.restrictCheck State.forEach
  exact State.foldl_frame (·.store) _ (fun _ _ => by dsimp only; (repeat' split) <;> simp) _ _
@[simp] theorem State.restrictCheck_revoc (s : State) (c : Option Nat) : (s.restrictCheck c).revoc = s.revoc := by
  unfold State.restrictCheck State.forEach
  exact State.foldl_frame (·.revoc) _ (fun _ _ => by dsimp only; (repeat' split) <;> simp) _ _
@[simp] theorem State.restrictCheck_minibar (s : State) (c : Option Nat) : (s.restrictCheck c).minibar = s.minibar := by
  unfold State.restrictCheck State.forEach
  exact State.foldl_frame (·.minibar) _ (fun _ _ => by dsimp only; (repeat' split) <;> simp) _ _
@[simp] theorem State.restrictCheck_journal (s : State) (c : Option Nat) : (s.restrictCheck c).journal = s.journal := by
  unfold State.restrictCheck State.forEach
  exact State.foldl_frame (·.journal) _ (fun _ _ => by dsimp only; (repeat' split) <;> simp) _ _
@[simp] theorem State.restrictCheck_choices (s : State) (c : Option Nat) : (s.restrictCheck c).choices = s.choices := by
  unfold State.restrictCheck State.forEach
  exact State.foldl_frame (·.choices) _ (fun _ _ => by dsimp only; (repeat' split) <;> simp) _ _

/-! ### State.relaxCheck -/

@[simp] theorem State.relaxCheck_pending (s : State) (b : State) : (s.relaxCheck b).pending = s.pending := rfl
@[simp] theorem State.relaxCheck_part (s : State) (b : State) : (s.relaxCheck b).part = s.part := rfl
@[simp] theorem State.relaxCheck_supply (s : State) (b : State) : (s.relaxCheck b).supply = s.supply := rfl
@[simp] theorem State.relaxCheck_loader (s : State) (b : State) : (s.relaxCheck b).loader = s.loader := rfl
@[simp] theorem State.relaxCheck_time (s : State) (b : State) : (s.relaxCheck b).time = s.time := rfl
@[simp] theorem State.relaxCheck_lines (s : State) (b : State) : (s.relaxCheck b).lines = s.lines := rfl
@[simp] theorem State.relaxCheck_inviter (s : State) (b : State) : (s.relaxCheck b).inviter = s.inviter := rfl
@[simp] theorem State.relaxCheck_store (s : State) (b : State) : (s.relaxCheck b).store = s.store := rfl
@[simp] theorem State.relaxCheck_revoc (s : State) (b : State) : (s.relaxCheck b).revoc = s.revoc := rfl
@[simp] theorem State.relaxCheck_minibar (s : State) (b : State) : (s.relaxCheck b).minibar = s.minibar := rfl
@[simp] theorem State.relaxCheck_journal (s : State) (b : State) : (s.relaxCheck b).journal = s.journal := rfl
@[simp] theorem State.relaxCheck_port (s : State) (b : State) : (s.relaxCheck b).port = s.port := rfl
@[simp] theorem State.relaxCheck_choices (s : State) (b : State) : (s.relaxCheck b).choices = s.choices := rfl

/-! ### State.removeEntry -/

@[simp] theorem State.removeEntry_pending (s : State) (e : ListEntry) : (s.removeEntry e).pending = s.pending := by simp [State.removeEntry]
@[simp] theorem State.removeEntry_part (s : State) (e : ListEntry) : (s.removeEntry e).part = s.part := by simp [State.removeEntry]
@[simp] theorem State.removeEntry_supply (s : State) (e : ListEntry) : (s.removeEntry e).supply = s.supply := by simp [State.removeEntry]
@[simp] theorem State.removeEntry_loader (s : State) (e : ListEntry) : (s.removeEntry e).loader = s.loader := by simp [State.removeEntry]
@[simp] theorem State.removeEntry_time (s : State) (e : ListEntry) : (s.removeEntry e).time = s.time := by simp [State.removeEntry]
@[simp] theorem State.removeEntry_lines (s : State) (e : ListEntry) : (s.removeEntry e).lines = s.lines := by simp [State.removeEntry]
@[simp] theorem State.removeEntry_inviter (s : State) (e : ListEntry) : (s.removeEntry e).inviter = s.inviter := by simp [State.removeEntry]
@[simp] theorem State.removeEntry_store (s : State) (e : ListEntry) : (s.removeEntry e).store = s.store := by simp [State.removeEntry]
@[simp] theorem State.removeEntry_minibar (s : State) (e : ListEntry) : (s.removeEntry e).minibar = s.minibar := by simp [State.removeEntry]
@[simp] theorem State.removeEntry_journal (s : State) (e : ListEntry) : (s.removeEntry e).journal = s.journal := by simp [State.removeEntry]
@[simp] theorem State.removeEntry_port (s : State) (e : ListEntry) : (s.removeEntry e).port = s.port := by simp [State.removeEntry]
@[simp] theorem State.removeEntry_choices (s : State) (e : ListEntry) : (s.removeEntry e).choices = s.choices := by simp [State.removeEntry]

/-! ### State.pushEntry -/

@[simp] theorem State.pushEntry_pending (s : State) (x : Nat) (c : Option Nat) (r : ListReason) (t : Nat) : (s.pushEntry x c r t).pending = s.pending := by simp [State.pushEntry]
@[simp] theorem State.pushEntry_part (s : State) (x : Nat) (c : Option Nat) (r : ListReason) (t : Nat) : (s.pushEntry x c r t).part = s.part := by simp [State.pushEntry]
@[simp] theorem State.pushEntry_supply (s : State) (x : Nat) (c : Option Nat) (r : ListReason) (t : Nat) : (s.pushEntry x c r t).supply = s.supply := by simp [State.pushEntry]
@[simp] theorem State.pushEntry_loader (s : State) (x : Nat) (c : Option Nat) (r : ListReason) (t : Nat) : (s.pushEntry x c r t).loader = s.loader := by simp [State.pushEntry]
@[simp] theorem State.pushEntry_time (s : State) (x : Nat) (c : Option Nat) (r : ListReason) (t : Nat) : (s.pushEntry x c r t).time = s.time := by simp [State.pushEntry]
@[simp] theorem State.pushEntry_lines (s : State) (x : Nat) (c : Option Nat) (r : ListReason) (t : Nat) : (s.pushEntry x c r t).lines = s.lines := by simp [State.pushEntry]
@[simp] theorem State.pushEntry_inviter (s : State) (x : Nat) (c : Option Nat) (r : ListReason) (t : Nat) : (s.pushEntry x c r t).inviter = s.inviter := by simp [State.pushEntry]
@[simp] theorem State.pushEntry_store (s : State) (x : Nat) (c : Option Nat) (r : ListReason) (t : Nat) : (s.pushEntry x c r t).store = s.store := by simp [State.pushEntry]
@[simp] theorem State.pushEntry_minibar (s : State) (x : Nat) (c : Option Nat) (r : ListReason) (t : Nat) : (s.pushEntry x c r t).minibar = s.minibar := by simp [State.pushEntry]
@[simp] theorem State.pushEntry_journal (s : State) (x : Nat) (c : Option Nat) (r : ListReason) (t : Nat) : (s.pushEntry x c r t).journal = s.journal := by simp [State.pushEntry]
@[simp] theorem State.pushEntry_choices (s : State) (x : Nat) (c : Option Nat) (r : ListReason) (t : Nat) : (s.pushEntry x c r t).choices = s.choices := by simp [State.pushEntry]

/-! ### State.reformEntry -/

@[simp] theorem State.reformEntry_pending (s : State) (e : ListEntry) (c : Option Nat) (r : ListReason) : (s.reformEntry e c r).pending = s.pending := by simp [State.reformEntry]
@[simp] theorem State.reformEntry_part (s : State) (e : ListEntry) (c : Option Nat) (r : ListReason) : (s.reformEntry e c r).part = s.part := by simp [State.reformEntry]
@[simp] theorem State.reformEntry_supply (s : State) (e : ListEntry) (c : Option Nat) (r : ListReason) : (s.reformEntry e c r).supply = s.supply := by simp [State.reformEntry]
@[simp] theorem State.reformEntry_loader (s : State) (e : ListEntry) (c : Option Nat) (r : ListReason) : (s.reformEntry e c r).loader = s.loader := by simp [State.reformEntry]
@[simp] theorem State.reformEntry_time (s : State) (e : ListEntry) (c : Option Nat) (r : ListReason) : (s.reformEntry e c r).time = s.time := by simp [State.reformEntry]
@[simp] theorem State.reformEntry_lines (s : State) (e : ListEntry) (c : Option Nat) (r : ListReason) : (s.reformEntry e c r).lines = s.lines := by simp [State.reformEntry]
@[simp] theorem State.reformEntry_inviter (s : State) (e : ListEntry) (c : Option Nat) (r : ListReason) : (s.reformEntry e c r).inviter = s.inviter := by simp [State.reformEntry]
@[simp] theorem State.reformEntry_store (s : State) (e : ListEntry) (c : Option Nat) (r : ListReason) : (s.reformEntry e c r).store = s.store := by simp [State.reformEntry]
@[simp] theorem State.reformEntry_minibar (s : State) (e : ListEntry) (c : Option Nat) (r : ListReason) : (s.reformEntry e c r).minibar = s.minibar := by simp [State.reformEntry]
@[simp] theorem State.reformEntry_journal (s : State) (e : ListEntry) (c : Option Nat) (r : ListReason) : (s.reformEntry e c r).journal = s.journal := by simp [State.reformEntry]
@[simp] theorem State.reformEntry_choices (s : State) (e : ListEntry) (c : Option Nat) (r : ListReason) : (s.reformEntry e c r).choices = s.choices := by simp [State.reformEntry]

/-! ### State.retireEntries -/

@[simp] theorem State.retireEntries_pending (s : State) : s.retireEntries.pending = s.pending := by
  unfold State.retireEntries; exact State.foldl_frame (·.pending) _ (fun _ _ => by simp) _ _
@[simp] theorem State.retireEntries_part (s : State) : s.retireEntries.part = s.part := by
  unfold State.retireEntries; exact State.foldl_frame (·.part) _ (fun _ _ => by simp) _ _
@[simp] theorem State.retireEntries_supply (s : State) : s.retireEntries.supply = s.supply := by
  unfold State.retireEntries; exact State.foldl_frame (·.supply) _ (fun _ _ => by simp) _ _
@[simp] theorem State.retireEntries_loader (s : State) : s.retireEntries.loader = s.loader := by
  unfold State.retireEntries; exact State.foldl_frame (·.loader) _ (fun _ _ => by simp) _ _
@[simp] theorem State.retireEntries_time (s : State) : s.retireEntries.time = s.time := by
  unfold State.retireEntries; exact State.foldl_frame (·.time) _ (fun _ _ => by simp) _ _
@[simp] theorem State.retireEntries_lines (s : State) : s.retireEntries.lines = s.lines := by
  unfold State.retireEntries; exact State.foldl_frame (·.lines) _ (fun _ _ => by simp) _ _
@[simp] theorem State.retireEntries_inviter (s : State) : s.retireEntries.inviter = s.inviter := by
  unfold State.retireEntries; exact State.foldl_frame (·.inviter) _ (fun _ _ => by simp) _ _
@[simp] theorem State.retireEntries_store (s : State) : s.retireEntries.store = s.store := by
  unfold State.retireEntries; exact State.foldl_frame (·.store) _ (fun _ _ => by simp) _ _
@[simp] theorem State.retireEntries_minibar (s : State) : s.retireEntries.minibar = s.minibar := by
  unfold State.retireEntries; exact State.foldl_frame (·.minibar) _ (fun _ _ => by simp) _ _
@[simp] theorem State.retireEntries_journal (s : State) : s.retireEntries.journal = s.journal := by
  unfold State.retireEntries; exact State.foldl_frame (·.journal) _ (fun _ _ => by simp) _ _
@[simp] theorem State.retireEntries_port (s : State) : s.retireEntries.port = s.port := by
  unfold State.retireEntries; exact State.foldl_frame (·.port) _ (fun _ _ => by simp) _ _
@[simp] theorem State.retireEntries_choices (s : State) : s.retireEntries.choices = s.choices := by
  unfold State.retireEntries; exact State.foldl_frame (·.choices) _ (fun _ _ => by simp) _ _

/-! ### State.askRoom -/

@[simp] theorem State.askRoom_pending (s : State) : s.askRoom.pending = s.pending := by
  unfold State.askRoom; (try dsimp only); (repeat' split) <;> simp
@[simp] theorem State.askRoom_part (s : State) : s.askRoom.part = s.part := by
  unfold State.askRoom; (try dsimp only); (repeat' split) <;> simp
@[simp] theorem State.askRoom_supply (s : State) : s.askRoom.supply = s.supply := by
  unfold State.askRoom; (try dsimp only); (repeat' split) <;> simp
@[simp] theorem State.askRoom_loader (s : State) : s.askRoom.loader = s.loader := by
  unfold State.askRoom; (try dsimp only); (repeat' split) <;> simp
@[simp] theorem State.askRoom_time (s : State) : s.askRoom.time = s.time := by
  unfold State.askRoom; (try dsimp only); (repeat' split) <;> simp
@[simp] theorem State.askRoom_lines (s : State) : s.askRoom.lines = s.lines := by
  unfold State.askRoom; (try dsimp only); (repeat' split) <;> simp
@[simp] theorem State.askRoom_inviter (s : State) : s.askRoom.inviter = s.inviter := by
  unfold State.askRoom; (try dsimp only); (repeat' split) <;> simp
@[simp] theorem State.askRoom_store (s : State) : s.askRoom.store = s.store := by
  unfold State.askRoom; (try dsimp only); (repeat' split) <;> simp
@[simp] theorem State.askRoom_minibar (s : State) : s.askRoom.minibar = s.minibar := by
  unfold State.askRoom; (try dsimp only); (repeat' split) <;> simp
@[simp] theorem State.askRoom_journal (s : State) : s.askRoom.journal = s.journal := by
  unfold State.askRoom; (try dsimp only); (repeat' split) <;> simp
@[simp] theorem State.askRoom_port (s : State) : s.askRoom.port = s.port := by
  unfold State.askRoom; (try dsimp only); (repeat' split) <;> simp
@[simp] theorem State.askRoom_choices (s : State) : s.askRoom.choices = s.choices := by
  unfold State.askRoom; (try dsimp only); (repeat' split) <;> simp

/-! ### State.reportReuse -/

@[simp] theorem State.reportReuse_pending (s : State) (k : Nat) : (s.reportReuse k).pending = s.pending := by
  unfold State.reportReuse; (try dsimp only); (repeat' split) <;> simp
@[simp] theorem State.reportReuse_part (s : State) (k : Nat) : (s.reportReuse k).part = s.part := by
  unfold State.reportReuse; (try dsimp only); (repeat' split) <;> simp
@[simp] theorem State.reportReuse_supply (s : State) (k : Nat) : (s.reportReuse k).supply = s.supply := by
  unfold State.reportReuse; (try dsimp only); (repeat' split) <;> simp
@[simp] theorem State.reportReuse_loader (s : State) (k : Nat) : (s.reportReuse k).loader = s.loader := by
  unfold State.reportReuse; (try dsimp only); (repeat' split) <;> simp
@[simp] theorem State.reportReuse_time (s : State) (k : Nat) : (s.reportReuse k).time = s.time := by
  unfold State.reportReuse; (try dsimp only); (repeat' split) <;> simp
@[simp] theorem State.reportReuse_lines (s : State) (k : Nat) : (s.reportReuse k).lines = s.lines := by
  unfold State.reportReuse; (try dsimp only); (repeat' split) <;> simp
@[simp] theorem State.reportReuse_inviter (s : State) (k : Nat) : (s.reportReuse k).inviter = s.inviter := by
  unfold State.reportReuse; (try dsimp only); (repeat' split) <;> simp
@[simp] theorem State.reportReuse_store (s : State) (k : Nat) : (s.reportReuse k).store = s.store := by
  unfold State.reportReuse; (try dsimp only); (repeat' split) <;> simp
@[simp] theorem State.reportReuse_minibar (s : State) (k : Nat) : (s.reportReuse k).minibar = s.minibar := by
  unfold State.reportReuse; (try dsimp only); (repeat' split) <;> simp
@[simp] theorem State.reportReuse_journal (s : State) (k : Nat) : (s.reportReuse k).journal = s.journal := by
  unfold State.reportReuse; (try dsimp only); (repeat' split) <;> simp
@[simp] theorem State.reportReuse_choices (s : State) (k : Nat) : (s.reportReuse k).choices = s.choices := by
  unfold State.reportReuse; (try dsimp only); (repeat' split) <;> simp

/-! ### State.acknowledge -/

@[simp] theorem State.acknowledge_pending (s : State) (a g : Nat) (b : Bool) : (s.acknowledge a g b).pending = s.pending := by
  unfold State.acknowledge; (try dsimp only); (repeat' split) <;> simp
@[simp] theorem State.acknowledge_part (s : State) (a g : Nat) (b : Bool) : (s.acknowledge a g b).part = s.part := by
  unfold State.acknowledge; (try dsimp only); (repeat' split) <;> simp
@[simp] theorem State.acknowledge_supply (s : State) (a g : Nat) (b : Bool) : (s.acknowledge a g b).supply = s.supply := by
  unfold State.acknowledge; (try dsimp only); (repeat' split) <;> simp
@[simp] theorem State.acknowledge_loader (s : State) (a g : Nat) (b : Bool) : (s.acknowledge a g b).loader = s.loader := by
  unfold State.acknowledge; (try dsimp only); (repeat' split) <;> simp
@[simp] theorem State.acknowledge_time (s : State) (a g : Nat) (b : Bool) : (s.acknowledge a g b).time = s.time := by
  unfold State.acknowledge; (try dsimp only); (repeat' split) <;> simp
@[simp] theorem State.acknowledge_lines (s : State) (a g : Nat) (b : Bool) : (s.acknowledge a g b).lines = s.lines := by
  unfold State.acknowledge; (try dsimp only); (repeat' split) <;> simp
@[simp] theorem State.acknowledge_inviter (s : State) (a g : Nat) (b : Bool) : (s.acknowledge a g b).inviter = s.inviter := by
  unfold State.acknowledge; (try dsimp only); (repeat' split) <;> simp
@[simp] theorem State.acknowledge_store (s : State) (a g : Nat) (b : Bool) : (s.acknowledge a g b).store = s.store := by
  unfold State.acknowledge; (try dsimp only); (repeat' split) <;> simp
@[simp] theorem State.acknowledge_revoc (s : State) (a g : Nat) (b : Bool) : (s.acknowledge a g b).revoc = s.revoc := by
  unfold State.acknowledge; (try dsimp only); (repeat' split) <;> simp
@[simp] theorem State.acknowledge_minibar (s : State) (a g : Nat) (b : Bool) : (s.acknowledge a g b).minibar = s.minibar := by
  unfold State.acknowledge; (try dsimp only); (repeat' split) <;> simp
@[simp] theorem State.acknowledge_journal (s : State) (a g : Nat) (b : Bool) : (s.acknowledge a g b).journal = s.journal := by
  unfold State.acknowledge; (try dsimp only); (repeat' split) <;> simp
@[simp] theorem State.acknowledge_choices (s : State) (a g : Nat) (b : Bool) : (s.acknowledge a g b).choices = s.choices := by
  unfold State.acknowledge; (try dsimp only); (repeat' split) <;> simp

/-! ### State.judgeHeld -/

@[simp] theorem State.judgeHeld_pending (s : State) (p : Nat) (b : Bool) : (s.judgeHeld p b).pending = s.pending := by
  unfold State.judgeHeld; (try dsimp only); (repeat' split) <;> simp
@[simp] theorem State.judgeHeld_part (s : State) (p : Nat) (b : Bool) : (s.judgeHeld p b).part = s.part := by
  unfold State.judgeHeld; (try dsimp only); (repeat' split) <;> simp
@[simp] theorem State.judgeHeld_supply (s : State) (p : Nat) (b : Bool) : (s.judgeHeld p b).supply = s.supply := by
  unfold State.judgeHeld; (try dsimp only); (repeat' split) <;> simp
@[simp] theorem State.judgeHeld_loader (s : State) (p : Nat) (b : Bool) : (s.judgeHeld p b).loader = s.loader := by
  unfold State.judgeHeld; (try dsimp only); (repeat' split) <;> simp
@[simp] theorem State.judgeHeld_time (s : State) (p : Nat) (b : Bool) : (s.judgeHeld p b).time = s.time := by
  unfold State.judgeHeld; (try dsimp only); (repeat' split) <;> simp
@[simp] theorem State.judgeHeld_lines (s : State) (p : Nat) (b : Bool) : (s.judgeHeld p b).lines = s.lines := by
  unfold State.judgeHeld; (try dsimp only); (repeat' split) <;> simp
@[simp] theorem State.judgeHeld_inviter (s : State) (p : Nat) (b : Bool) : (s.judgeHeld p b).inviter = s.inviter := by
  unfold State.judgeHeld; (try dsimp only); (repeat' split) <;> simp
@[simp] theorem State.judgeHeld_nodes (s : State) (p : Nat) (b : Bool) : (s.judgeHeld p b).nodes = s.nodes := by
  unfold State.judgeHeld; (try dsimp only); (repeat' split) <;> simp
@[simp] theorem State.judgeHeld_store (s : State) (p : Nat) (b : Bool) : (s.judgeHeld p b).store = s.store := by
  unfold State.judgeHeld; (try dsimp only); (repeat' split) <;> simp
@[simp] theorem State.judgeHeld_revoc (s : State) (p : Nat) (b : Bool) : (s.judgeHeld p b).revoc = s.revoc := by
  unfold State.judgeHeld; (try dsimp only); (repeat' split) <;> simp
@[simp] theorem State.judgeHeld_minibar (s : State) (p : Nat) (b : Bool) : (s.judgeHeld p b).minibar = s.minibar := by
  unfold State.judgeHeld; (try dsimp only); (repeat' split) <;> simp
@[simp] theorem State.judgeHeld_choices (s : State) (p : Nat) (b : Bool) : (s.judgeHeld p b).choices = s.choices := by
  unfold State.judgeHeld; (try dsimp only); (repeat' split) <;> simp

/-! ### State.chargeNow -/

@[simp] theorem State.chargeNow_pending (s : State) (l : ChargeLine) : (s.chargeNow l).pending = s.pending := by simp [State.chargeNow]
@[simp] theorem State.chargeNow_part (s : State) (l : ChargeLine) : (s.chargeNow l).part = s.part := by simp [State.chargeNow]
@[simp] theorem State.chargeNow_supply (s : State) (l : ChargeLine) : (s.chargeNow l).supply = s.supply := by simp [State.chargeNow]
@[simp] theorem State.chargeNow_loader (s : State) (l : ChargeLine) : (s.chargeNow l).loader = s.loader := by simp [State.chargeNow]
@[simp] theorem State.chargeNow_time (s : State) (l : ChargeLine) : (s.chargeNow l).time = s.time := by simp [State.chargeNow]
@[simp] theorem State.chargeNow_lines (s : State) (l : ChargeLine) : (s.chargeNow l).lines = s.lines := by simp [State.chargeNow]
@[simp] theorem State.chargeNow_inviter (s : State) (l : ChargeLine) : (s.chargeNow l).inviter = s.inviter := by simp [State.chargeNow]
@[simp] theorem State.chargeNow_nodes (s : State) (l : ChargeLine) : (s.chargeNow l).nodes = s.nodes := by simp [State.chargeNow]
@[simp] theorem State.chargeNow_store (s : State) (l : ChargeLine) : (s.chargeNow l).store = s.store := by simp [State.chargeNow]
@[simp] theorem State.chargeNow_revoc (s : State) (l : ChargeLine) : (s.chargeNow l).revoc = s.revoc := by simp [State.chargeNow]
@[simp] theorem State.chargeNow_choices (s : State) (l : ChargeLine) : (s.chargeNow l).choices = s.choices := by simp [State.chargeNow]

/-! ### State.commitLine -/

@[simp] theorem State.commitLine_pending (s : State) (l : ChargeLine) : (s.commitLine l).pending = s.pending := by simp [State.commitLine]
@[simp] theorem State.commitLine_part (s : State) (l : ChargeLine) : (s.commitLine l).part = s.part := by simp [State.commitLine]
@[simp] theorem State.commitLine_supply (s : State) (l : ChargeLine) : (s.commitLine l).supply = s.supply := by simp [State.commitLine]
@[simp] theorem State.commitLine_loader (s : State) (l : ChargeLine) : (s.commitLine l).loader = s.loader := by simp [State.commitLine]
@[simp] theorem State.commitLine_time (s : State) (l : ChargeLine) : (s.commitLine l).time = s.time := by simp [State.commitLine]
@[simp] theorem State.commitLine_lines (s : State) (l : ChargeLine) : (s.commitLine l).lines = s.lines := by simp [State.commitLine]
@[simp] theorem State.commitLine_inviter (s : State) (l : ChargeLine) : (s.commitLine l).inviter = s.inviter := by simp [State.commitLine]
@[simp] theorem State.commitLine_nodes (s : State) (l : ChargeLine) : (s.commitLine l).nodes = s.nodes := by simp [State.commitLine]
@[simp] theorem State.commitLine_store (s : State) (l : ChargeLine) : (s.commitLine l).store = s.store := by simp [State.commitLine]
@[simp] theorem State.commitLine_revoc (s : State) (l : ChargeLine) : (s.commitLine l).revoc = s.revoc := by simp [State.commitLine]
@[simp] theorem State.commitLine_choices (s : State) (l : ChargeLine) : (s.commitLine l).choices = s.choices := by simp [State.commitLine]

/-! ### State.commitWhere -/

@[simp] theorem State.commitWhere_pending (s : State) (p : ChargeLine → Bool) : (s.commitWhere p).pending = s.pending := by
  unfold State.commitWhere; exact State.foldl_frame (·.pending) _ (fun _ _ => by simp) _ _
@[simp] theorem State.commitWhere_part (s : State) (p : ChargeLine → Bool) : (s.commitWhere p).part = s.part := by
  unfold State.commitWhere; exact State.foldl_frame (·.part) _ (fun _ _ => by simp) _ _
@[simp] theorem State.commitWhere_supply (s : State) (p : ChargeLine → Bool) : (s.commitWhere p).supply = s.supply := by
  unfold State.commitWhere; exact State.foldl_frame (·.supply) _ (fun _ _ => by simp) _ _
@[simp] theorem State.commitWhere_loader (s : State) (p : ChargeLine → Bool) : (s.commitWhere p).loader = s.loader := by
  unfold State.commitWhere; exact State.foldl_frame (·.loader) _ (fun _ _ => by simp) _ _
@[simp] theorem State.commitWhere_time (s : State) (p : ChargeLine → Bool) : (s.commitWhere p).time = s.time := by
  unfold State.commitWhere; exact State.foldl_frame (·.time) _ (fun _ _ => by simp) _ _
@[simp] theorem State.commitWhere_lines (s : State) (p : ChargeLine → Bool) : (s.commitWhere p).lines = s.lines := by
  unfold State.commitWhere; exact State.foldl_frame (·.lines) _ (fun _ _ => by simp) _ _
@[simp] theorem State.commitWhere_inviter (s : State) (p : ChargeLine → Bool) : (s.commitWhere p).inviter = s.inviter := by
  unfold State.commitWhere; exact State.foldl_frame (·.inviter) _ (fun _ _ => by simp) _ _
@[simp] theorem State.commitWhere_nodes (s : State) (p : ChargeLine → Bool) : (s.commitWhere p).nodes = s.nodes := by
  unfold State.commitWhere; exact State.foldl_frame (·.nodes) _ (fun _ _ => by simp) _ _
@[simp] theorem State.commitWhere_store (s : State) (p : ChargeLine → Bool) : (s.commitWhere p).store = s.store := by
  unfold State.commitWhere; exact State.foldl_frame (·.store) _ (fun _ _ => by simp) _ _
@[simp] theorem State.commitWhere_revoc (s : State) (p : ChargeLine → Bool) : (s.commitWhere p).revoc = s.revoc := by
  unfold State.commitWhere; exact State.foldl_frame (·.revoc) _ (fun _ _ => by simp) _ _
@[simp] theorem State.commitWhere_choices (s : State) (p : ChargeLine → Bool) : (s.commitWhere p).choices = s.choices := by
  unfold State.commitWhere; exact State.foldl_frame (·.choices) _ (fun _ _ => by simp) _ _

/-! ### State.setLine -/

@[simp] theorem State.setLine_pending (s : State) (a b : ChargeLine) : (s.setLine a b).pending = s.pending := rfl
@[simp] theorem State.setLine_part (s : State) (a b : ChargeLine) : (s.setLine a b).part = s.part := rfl
@[simp] theorem State.setLine_supply (s : State) (a b : ChargeLine) : (s.setLine a b).supply = s.supply := rfl
@[simp] theorem State.setLine_loader (s : State) (a b : ChargeLine) : (s.setLine a b).loader = s.loader := rfl
@[simp] theorem State.setLine_time (s : State) (a b : ChargeLine) : (s.setLine a b).time = s.time := rfl
@[simp] theorem State.setLine_lines (s : State) (a b : ChargeLine) : (s.setLine a b).lines = s.lines := rfl
@[simp] theorem State.setLine_inviter (s : State) (a b : ChargeLine) : (s.setLine a b).inviter = s.inviter := rfl
@[simp] theorem State.setLine_nodes (s : State) (a b : ChargeLine) : (s.setLine a b).nodes = s.nodes := rfl
@[simp] theorem State.setLine_store (s : State) (a b : ChargeLine) : (s.setLine a b).store = s.store := rfl
@[simp] theorem State.setLine_revoc (s : State) (a b : ChargeLine) : (s.setLine a b).revoc = s.revoc := rfl
@[simp] theorem State.setLine_journal (s : State) (a b : ChargeLine) : (s.setLine a b).journal = s.journal := rfl
@[simp] theorem State.setLine_port (s : State) (a b : ChargeLine) : (s.setLine a b).port = s.port := rfl
@[simp] theorem State.setLine_choices (s : State) (a b : ChargeLine) : (s.setLine a b).choices = s.choices := rfl

/-! ### State.cancelLine -/

@[simp] theorem State.cancelLine_pending (s : State) (l : ChargeLine) : (s.cancelLine l).pending = s.pending := rfl
@[simp] theorem State.cancelLine_part (s : State) (l : ChargeLine) : (s.cancelLine l).part = s.part := rfl
@[simp] theorem State.cancelLine_supply (s : State) (l : ChargeLine) : (s.cancelLine l).supply = s.supply := rfl
@[simp] theorem State.cancelLine_loader (s : State) (l : ChargeLine) : (s.cancelLine l).loader = s.loader := rfl
@[simp] theorem State.cancelLine_time (s : State) (l : ChargeLine) : (s.cancelLine l).time = s.time := rfl
@[simp] theorem State.cancelLine_lines (s : State) (l : ChargeLine) : (s.cancelLine l).lines = s.lines := rfl
@[simp] theorem State.cancelLine_inviter (s : State) (l : ChargeLine) : (s.cancelLine l).inviter = s.inviter := rfl
@[simp] theorem State.cancelLine_nodes (s : State) (l : ChargeLine) : (s.cancelLine l).nodes = s.nodes := rfl
@[simp] theorem State.cancelLine_store (s : State) (l : ChargeLine) : (s.cancelLine l).store = s.store := rfl
@[simp] theorem State.cancelLine_revoc (s : State) (l : ChargeLine) : (s.cancelLine l).revoc = s.revoc := rfl
@[simp] theorem State.cancelLine_journal (s : State) (l : ChargeLine) : (s.cancelLine l).journal = s.journal := rfl
@[simp] theorem State.cancelLine_port (s : State) (l : ChargeLine) : (s.cancelLine l).port = s.port := rfl
@[simp] theorem State.cancelLine_choices (s : State) (l : ChargeLine) : (s.cancelLine l).choices = s.choices := rfl

/-! ### State.charge -/

@[simp] theorem State.charge_pending (s : State) (f a c n p i : Nat) : (s.charge f a c n p i).pending = s.pending := by
  unfold State.charge; (try dsimp only); (repeat' split) <;> simp
@[simp] theorem State.charge_part (s : State) (f a c n p i : Nat) : (s.charge f a c n p i).part = s.part := by
  unfold State.charge; (try dsimp only); (repeat' split) <;> simp
@[simp] theorem State.charge_supply (s : State) (f a c n p i : Nat) : (s.charge f a c n p i).supply = s.supply := by
  unfold State.charge; (try dsimp only); (repeat' split) <;> simp
@[simp] theorem State.charge_loader (s : State) (f a c n p i : Nat) : (s.charge f a c n p i).loader = s.loader := by
  unfold State.charge; (try dsimp only); (repeat' split) <;> simp
@[simp] theorem State.charge_time (s : State) (f a c n p i : Nat) : (s.charge f a c n p i).time = s.time := by
  unfold State.charge; (try dsimp only); (repeat' split) <;> simp
@[simp] theorem State.charge_lines (s : State) (f a c n p i : Nat) : (s.charge f a c n p i).lines = s.lines := by
  unfold State.charge; (try dsimp only); (repeat' split) <;> simp
@[simp] theorem State.charge_inviter (s : State) (f a c n p i : Nat) : (s.charge f a c n p i).inviter = s.inviter := by
  unfold State.charge; (try dsimp only); (repeat' split) <;> simp
@[simp] theorem State.charge_nodes (s : State) (f a c n p i : Nat) : (s.charge f a c n p i).nodes = s.nodes := by
  unfold State.charge; (try dsimp only); (repeat' split) <;> simp
@[simp] theorem State.charge_store (s : State) (f a c n p i : Nat) : (s.charge f a c n p i).store = s.store := by
  unfold State.charge; (try dsimp only); (repeat' split) <;> simp
@[simp] theorem State.charge_revoc (s : State) (f a c n p i : Nat) : (s.charge f a c n p i).revoc = s.revoc := by
  unfold State.charge; (try dsimp only); (repeat' split) <;> simp
@[simp] theorem State.charge_choices (s : State) (f a c n p i : Nat) : (s.charge f a c n p i).choices = s.choices := by
  unfold State.charge; (try dsimp only); (repeat' split) <;> simp

/-! ### State.giveBack -/

@[simp] theorem State.giveBack_pending (s : State) (a c n p : Nat) (k : Option Nat) : (s.giveBack a c n p k).pending = s.pending := by
  unfold State.giveBack; (try dsimp only); (repeat' split) <;> simp
@[simp] theorem State.giveBack_part (s : State) (a c n p : Nat) (k : Option Nat) : (s.giveBack a c n p k).part = s.part := by
  unfold State.giveBack; (try dsimp only); (repeat' split) <;> simp
@[simp] theorem State.giveBack_supply (s : State) (a c n p : Nat) (k : Option Nat) : (s.giveBack a c n p k).supply = s.supply := by
  unfold State.giveBack; (try dsimp only); (repeat' split) <;> simp
@[simp] theorem State.giveBack_loader (s : State) (a c n p : Nat) (k : Option Nat) : (s.giveBack a c n p k).loader = s.loader := by
  unfold State.giveBack; (try dsimp only); (repeat' split) <;> simp
@[simp] theorem State.giveBack_time (s : State) (a c n p : Nat) (k : Option Nat) : (s.giveBack a c n p k).time = s.time := by
  unfold State.giveBack; (try dsimp only); (repeat' split) <;> simp
@[simp] theorem State.giveBack_lines (s : State) (a c n p : Nat) (k : Option Nat) : (s.giveBack a c n p k).lines = s.lines := by
  unfold State.giveBack; (try dsimp only); (repeat' split) <;> simp
@[simp] theorem State.giveBack_inviter (s : State) (a c n p : Nat) (k : Option Nat) : (s.giveBack a c n p k).inviter = s.inviter := by
  unfold State.giveBack; (try dsimp only); (repeat' split) <;> simp
@[simp] theorem State.giveBack_nodes (s : State) (a c n p : Nat) (k : Option Nat) : (s.giveBack a c n p k).nodes = s.nodes := by
  unfold State.giveBack; (try dsimp only); (repeat' split) <;> simp
@[simp] theorem State.giveBack_store (s : State) (a c n p : Nat) (k : Option Nat) : (s.giveBack a c n p k).store = s.store := by
  unfold State.giveBack; (try dsimp only); (repeat' split) <;> simp
@[simp] theorem State.giveBack_revoc (s : State) (a c n p : Nat) (k : Option Nat) : (s.giveBack a c n p k).revoc = s.revoc := by
  unfold State.giveBack; (try dsimp only); (repeat' split) <;> simp
@[simp] theorem State.giveBack_choices (s : State) (a c n p : Nat) (k : Option Nat) : (s.giveBack a c n p k).choices = s.choices := by
  unfold State.giveBack; (try dsimp only); (repeat' split) <;> simp

/-! ### State.stockAnomaly -/

@[simp] theorem State.stockAnomaly_pending (s : State) (a c : Nat) : (s.stockAnomaly a c).pending = s.pending := by simp [State.stockAnomaly]
@[simp] theorem State.stockAnomaly_part (s : State) (a c : Nat) : (s.stockAnomaly a c).part = s.part := by simp [State.stockAnomaly]
@[simp] theorem State.stockAnomaly_supply (s : State) (a c : Nat) : (s.stockAnomaly a c).supply = s.supply := by simp [State.stockAnomaly]
@[simp] theorem State.stockAnomaly_loader (s : State) (a c : Nat) : (s.stockAnomaly a c).loader = s.loader := by simp [State.stockAnomaly]
@[simp] theorem State.stockAnomaly_time (s : State) (a c : Nat) : (s.stockAnomaly a c).time = s.time := by simp [State.stockAnomaly]
@[simp] theorem State.stockAnomaly_lines (s : State) (a c : Nat) : (s.stockAnomaly a c).lines = s.lines := by simp [State.stockAnomaly]
@[simp] theorem State.stockAnomaly_inviter (s : State) (a c : Nat) : (s.stockAnomaly a c).inviter = s.inviter := by simp [State.stockAnomaly]
@[simp] theorem State.stockAnomaly_nodes (s : State) (a c : Nat) : (s.stockAnomaly a c).nodes = s.nodes := by simp [State.stockAnomaly]
@[simp] theorem State.stockAnomaly_store (s : State) (a c : Nat) : (s.stockAnomaly a c).store = s.store := by simp [State.stockAnomaly]
@[simp] theorem State.stockAnomaly_revoc (s : State) (a c : Nat) : (s.stockAnomaly a c).revoc = s.revoc := by simp [State.stockAnomaly]
@[simp] theorem State.stockAnomaly_minibar (s : State) (a c : Nat) : (s.stockAnomaly a c).minibar = s.minibar := by simp [State.stockAnomaly]
@[simp] theorem State.stockAnomaly_choices (s : State) (a c : Nat) : (s.stockAnomaly a c).choices = s.choices := by simp [State.stockAnomaly]

/-! ### State.stockFall -/

@[simp] theorem State.stockFall_pending (s : State) (m : Node) (c n : Nat) : (s.stockFall m c n).pending = s.pending := by
  unfold State.stockFall; (try dsimp only); (repeat' split) <;> simp
@[simp] theorem State.stockFall_part (s : State) (m : Node) (c n : Nat) : (s.stockFall m c n).part = s.part := by
  unfold State.stockFall; (try dsimp only); (repeat' split) <;> simp
@[simp] theorem State.stockFall_supply (s : State) (m : Node) (c n : Nat) : (s.stockFall m c n).supply = s.supply := by
  unfold State.stockFall; (try dsimp only); (repeat' split) <;> simp
@[simp] theorem State.stockFall_loader (s : State) (m : Node) (c n : Nat) : (s.stockFall m c n).loader = s.loader := by
  unfold State.stockFall; (try dsimp only); (repeat' split) <;> simp
@[simp] theorem State.stockFall_time (s : State) (m : Node) (c n : Nat) : (s.stockFall m c n).time = s.time := by
  unfold State.stockFall; (try dsimp only); (repeat' split) <;> simp
@[simp] theorem State.stockFall_lines (s : State) (m : Node) (c n : Nat) : (s.stockFall m c n).lines = s.lines := by
  unfold State.stockFall; (try dsimp only); (repeat' split) <;> simp
@[simp] theorem State.stockFall_inviter (s : State) (m : Node) (c n : Nat) : (s.stockFall m c n).inviter = s.inviter := by
  unfold State.stockFall; (try dsimp only); (repeat' split) <;> simp
@[simp] theorem State.stockFall_store (s : State) (m : Node) (c n : Nat) : (s.stockFall m c n).store = s.store := by
  unfold State.stockFall; (try dsimp only); (repeat' split) <;> simp
@[simp] theorem State.stockFall_revoc (s : State) (m : Node) (c n : Nat) : (s.stockFall m c n).revoc = s.revoc := by
  unfold State.stockFall; (try dsimp only); (repeat' split) <;> simp
@[simp] theorem State.stockFall_minibar (s : State) (m : Node) (c n : Nat) : (s.stockFall m c n).minibar = s.minibar := by
  unfold State.stockFall; (try dsimp only); (repeat' split) <;> simp
@[simp] theorem State.stockFall_choices (s : State) (m : Node) (c n : Nat) : (s.stockFall m c n).choices = s.choices := by
  unfold State.stockFall; (try dsimp only); (repeat' split) <;> simp

/-! ### State.stockRise -/

@[simp] theorem State.stockRise_pending (s : State) (m : Node) (c n : Nat) : (s.stockRise m c n).pending = s.pending := by
  unfold State.stockRise; (try dsimp only); (repeat' split) <;> simp
@[simp] theorem State.stockRise_part (s : State) (m : Node) (c n : Nat) : (s.stockRise m c n).part = s.part := by
  unfold State.stockRise; (try dsimp only); (repeat' split) <;> simp
@[simp] theorem State.stockRise_supply (s : State) (m : Node) (c n : Nat) : (s.stockRise m c n).supply = s.supply := by
  unfold State.stockRise; (try dsimp only); (repeat' split) <;> simp
@[simp] theorem State.stockRise_loader (s : State) (m : Node) (c n : Nat) : (s.stockRise m c n).loader = s.loader := by
  unfold State.stockRise; (try dsimp only); (repeat' split) <;> simp
@[simp] theorem State.stockRise_time (s : State) (m : Node) (c n : Nat) : (s.stockRise m c n).time = s.time := by
  unfold State.stockRise; (try dsimp only); (repeat' split) <;> simp
@[simp] theorem State.stockRise_lines (s : State) (m : Node) (c n : Nat) : (s.stockRise m c n).lines = s.lines := by
  unfold State.stockRise; (try dsimp only); (repeat' split) <;> simp
@[simp] theorem State.stockRise_inviter (s : State) (m : Node) (c n : Nat) : (s.stockRise m c n).inviter = s.inviter := by
  unfold State.stockRise; (try dsimp only); (repeat' split) <;> simp
@[simp] theorem State.stockRise_store (s : State) (m : Node) (c n : Nat) : (s.stockRise m c n).store = s.store := by
  unfold State.stockRise; (try dsimp only); (repeat' split) <;> simp
@[simp] theorem State.stockRise_revoc (s : State) (m : Node) (c n : Nat) : (s.stockRise m c n).revoc = s.revoc := by
  unfold State.stockRise; (try dsimp only); (repeat' split) <;> simp
@[simp] theorem State.stockRise_minibar (s : State) (m : Node) (c n : Nat) : (s.stockRise m c n).minibar = s.minibar := by
  unfold State.stockRise; (try dsimp only); (repeat' split) <;> simp
@[simp] theorem State.stockRise_choices (s : State) (m : Node) (c n : Nat) : (s.stockRise m c n).choices = s.choices := by
  unfold State.stockRise; (try dsimp only); (repeat' split) <;> simp

/-! ### State.removedItem -/

@[simp] theorem State.removedItem_pending (s : State) (m : Node) (c n : Nat) : (s.removedItem m c n).pending = s.pending := by
  unfold State.removedItem; (try dsimp only); (repeat' split) <;> simp
@[simp] theorem State.removedItem_part (s : State) (m : Node) (c n : Nat) : (s.removedItem m c n).part = s.part := by
  unfold State.removedItem; (try dsimp only); (repeat' split) <;> simp
@[simp] theorem State.removedItem_supply (s : State) (m : Node) (c n : Nat) : (s.removedItem m c n).supply = s.supply := by
  unfold State.removedItem; (try dsimp only); (repeat' split) <;> simp
@[simp] theorem State.removedItem_loader (s : State) (m : Node) (c n : Nat) : (s.removedItem m c n).loader = s.loader := by
  unfold State.removedItem; (try dsimp only); (repeat' split) <;> simp
@[simp] theorem State.removedItem_time (s : State) (m : Node) (c n : Nat) : (s.removedItem m c n).time = s.time := by
  unfold State.removedItem; (try dsimp only); (repeat' split) <;> simp
@[simp] theorem State.removedItem_lines (s : State) (m : Node) (c n : Nat) : (s.removedItem m c n).lines = s.lines := by
  unfold State.removedItem; (try dsimp only); (repeat' split) <;> simp
@[simp] theorem State.removedItem_inviter (s : State) (m : Node) (c n : Nat) : (s.removedItem m c n).inviter = s.inviter := by
  unfold State.removedItem; (try dsimp only); (repeat' split) <;> simp
@[simp] theorem State.removedItem_store (s : State) (m : Node) (c n : Nat) : (s.removedItem m c n).store = s.store := by
  unfold State.removedItem; (try dsimp only); (repeat' split) <;> simp
@[simp] theorem State.removedItem_revoc (s : State) (m : Node) (c n : Nat) : (s.removedItem m c n).revoc = s.revoc := by
  unfold State.removedItem; (try dsimp only); (repeat' split) <;> simp
@[simp] theorem State.removedItem_choices (s : State) (m : Node) (c n : Nat) : (s.removedItem m c n).choices = s.choices := by
  unfold State.removedItem; (try dsimp only); (repeat' split) <;> simp

/-! ### State.returnedItem -/

@[simp] theorem State.returnedItem_pending (s : State) (m : Node) (c n : Nat) : (s.returnedItem m c n).pending = s.pending := by
  unfold State.returnedItem; (try dsimp only); (repeat' split) <;> simp
@[simp] theorem State.returnedItem_part (s : State) (m : Node) (c n : Nat) : (s.returnedItem m c n).part = s.part := by
  unfold State.returnedItem; (try dsimp only); (repeat' split) <;> simp
@[simp] theorem State.returnedItem_supply (s : State) (m : Node) (c n : Nat) : (s.returnedItem m c n).supply = s.supply := by
  unfold State.returnedItem; (try dsimp only); (repeat' split) <;> simp
@[simp] theorem State.returnedItem_loader (s : State) (m : Node) (c n : Nat) : (s.returnedItem m c n).loader = s.loader := by
  unfold State.returnedItem; (try dsimp only); (repeat' split) <;> simp
@[simp] theorem State.returnedItem_time (s : State) (m : Node) (c n : Nat) : (s.returnedItem m c n).time = s.time := by
  unfold State.returnedItem; (try dsimp only); (repeat' split) <;> simp
@[simp] theorem State.returnedItem_lines (s : State) (m : Node) (c n : Nat) : (s.returnedItem m c n).lines = s.lines := by
  unfold State.returnedItem; (try dsimp only); (repeat' split) <;> simp
@[simp] theorem State.returnedItem_inviter (s : State) (m : Node) (c n : Nat) : (s.returnedItem m c n).inviter = s.inviter := by
  unfold State.returnedItem; (try dsimp only); (repeat' split) <;> simp
@[simp] theorem State.returnedItem_store (s : State) (m : Node) (c n : Nat) : (s.returnedItem m c n).store = s.store := by
  unfold State.returnedItem; (try dsimp only); (repeat' split) <;> simp
@[simp] theorem State.returnedItem_revoc (s : State) (m : Node) (c n : Nat) : (s.returnedItem m c n).revoc = s.revoc := by
  unfold State.returnedItem; (try dsimp only); (repeat' split) <;> simp
@[simp] theorem State.returnedItem_choices (s : State) (m : Node) (c n : Nat) : (s.returnedItem m c n).choices = s.choices := by
  unfold State.returnedItem; (try dsimp only); (repeat' split) <;> simp

/-! ### State.openSession -/

@[simp] theorem State.openSession_pending (s : State) (a : Nat) (m : SessionMode) (k : Nat) : (s.openSession a m k).pending = s.pending := by
  unfold State.openSession; (try dsimp only); (repeat' split) <;> simp
@[simp] theorem State.openSession_part (s : State) (a : Nat) (m : SessionMode) (k : Nat) : (s.openSession a m k).part = s.part := by
  unfold State.openSession; (try dsimp only); (repeat' split) <;> simp
@[simp] theorem State.openSession_supply (s : State) (a : Nat) (m : SessionMode) (k : Nat) : (s.openSession a m k).supply = s.supply := by
  unfold State.openSession; (try dsimp only); (repeat' split) <;> simp
@[simp] theorem State.openSession_loader (s : State) (a : Nat) (m : SessionMode) (k : Nat) : (s.openSession a m k).loader = s.loader := by
  unfold State.openSession; (try dsimp only); (repeat' split) <;> simp
@[simp] theorem State.openSession_time (s : State) (a : Nat) (m : SessionMode) (k : Nat) : (s.openSession a m k).time = s.time := by
  unfold State.openSession; (try dsimp only); (repeat' split) <;> simp
@[simp] theorem State.openSession_lines (s : State) (a : Nat) (m : SessionMode) (k : Nat) : (s.openSession a m k).lines = s.lines := by
  unfold State.openSession; (try dsimp only); (repeat' split) <;> simp
@[simp] theorem State.openSession_inviter (s : State) (a : Nat) (m : SessionMode) (k : Nat) : (s.openSession a m k).inviter = s.inviter := by
  unfold State.openSession; (try dsimp only); (repeat' split) <;> simp
@[simp] theorem State.openSession_store (s : State) (a : Nat) (m : SessionMode) (k : Nat) : (s.openSession a m k).store = s.store := by
  unfold State.openSession; (try dsimp only); (repeat' split) <;> simp
@[simp] theorem State.openSession_revoc (s : State) (a : Nat) (m : SessionMode) (k : Nat) : (s.openSession a m k).revoc = s.revoc := by
  unfold State.openSession; (try dsimp only); (repeat' split) <;> simp
@[simp] theorem State.openSession_minibar (s : State) (a : Nat) (m : SessionMode) (k : Nat) : (s.openSession a m k).minibar = s.minibar := by
  unfold State.openSession; (try dsimp only); (repeat' split) <;> simp
@[simp] theorem State.openSession_journal (s : State) (a : Nat) (m : SessionMode) (k : Nat) : (s.openSession a m k).journal = s.journal := by
  unfold State.openSession; (try dsimp only); (repeat' split) <;> simp
@[simp] theorem State.openSession_port (s : State) (a : Nat) (m : SessionMode) (k : Nat) : (s.openSession a m k).port = s.port := by
  unfold State.openSession; (try dsimp only); (repeat' split) <;> simp
@[simp] theorem State.openSession_choices (s : State) (a : Nat) (m : SessionMode) (k : Nat) : (s.openSession a m k).choices = s.choices := by
  unfold State.openSession; (try dsimp only); (repeat' split) <;> simp

/-! ### State.checkoutFolio -/

@[simp] theorem State.checkoutFolio_pending (s : State) (p : Nat) : (s.checkoutFolio p).pending = s.pending := by
  unfold State.checkoutFolio; (try dsimp only); (repeat' split) <;> simp
@[simp] theorem State.checkoutFolio_part (s : State) (p : Nat) : (s.checkoutFolio p).part = s.part := by
  unfold State.checkoutFolio; (try dsimp only); (repeat' split) <;> simp
@[simp] theorem State.checkoutFolio_supply (s : State) (p : Nat) : (s.checkoutFolio p).supply = s.supply := by
  unfold State.checkoutFolio; (try dsimp only); (repeat' split) <;> simp
@[simp] theorem State.checkoutFolio_loader (s : State) (p : Nat) : (s.checkoutFolio p).loader = s.loader := by
  unfold State.checkoutFolio; (try dsimp only); (repeat' split) <;> simp
@[simp] theorem State.checkoutFolio_time (s : State) (p : Nat) : (s.checkoutFolio p).time = s.time := by
  unfold State.checkoutFolio; (try dsimp only); (repeat' split) <;> simp
@[simp] theorem State.checkoutFolio_lines (s : State) (p : Nat) : (s.checkoutFolio p).lines = s.lines := by
  unfold State.checkoutFolio; (try dsimp only); (repeat' split) <;> simp
@[simp] theorem State.checkoutFolio_inviter (s : State) (p : Nat) : (s.checkoutFolio p).inviter = s.inviter := by
  unfold State.checkoutFolio; (try dsimp only); (repeat' split) <;> simp
@[simp] theorem State.checkoutFolio_store (s : State) (p : Nat) : (s.checkoutFolio p).store = s.store := by
  unfold State.checkoutFolio; (try dsimp only); (repeat' split) <;> simp
@[simp] theorem State.checkoutFolio_revoc (s : State) (p : Nat) : (s.checkoutFolio p).revoc = s.revoc := by
  unfold State.checkoutFolio; (try dsimp only); (repeat' split) <;> simp
@[simp] theorem State.checkoutFolio_choices (s : State) (p : Nat) : (s.checkoutFolio p).choices = s.choices := by
  unfold State.checkoutFolio; (try dsimp only); (repeat' split) <;> simp

/-! ### State.reopenFolio -/

@[simp] theorem State.reopenFolio_pending (s : State) (p : Nat) : (s.reopenFolio p).pending = s.pending := by
  unfold State.reopenFolio; (try dsimp only); (repeat' split) <;> simp
@[simp] theorem State.reopenFolio_part (s : State) (p : Nat) : (s.reopenFolio p).part = s.part := by
  unfold State.reopenFolio; (try dsimp only); (repeat' split) <;> simp
@[simp] theorem State.reopenFolio_supply (s : State) (p : Nat) : (s.reopenFolio p).supply = s.supply := by
  unfold State.reopenFolio; (try dsimp only); (repeat' split) <;> simp
@[simp] theorem State.reopenFolio_loader (s : State) (p : Nat) : (s.reopenFolio p).loader = s.loader := by
  unfold State.reopenFolio; (try dsimp only); (repeat' split) <;> simp
@[simp] theorem State.reopenFolio_time (s : State) (p : Nat) : (s.reopenFolio p).time = s.time := by
  unfold State.reopenFolio; (try dsimp only); (repeat' split) <;> simp
@[simp] theorem State.reopenFolio_lines (s : State) (p : Nat) : (s.reopenFolio p).lines = s.lines := by
  unfold State.reopenFolio; (try dsimp only); (repeat' split) <;> simp
@[simp] theorem State.reopenFolio_inviter (s : State) (p : Nat) : (s.reopenFolio p).inviter = s.inviter := by
  unfold State.reopenFolio; (try dsimp only); (repeat' split) <;> simp
@[simp] theorem State.reopenFolio_store (s : State) (p : Nat) : (s.reopenFolio p).store = s.store := by
  unfold State.reopenFolio; (try dsimp only); (repeat' split) <;> simp
@[simp] theorem State.reopenFolio_revoc (s : State) (p : Nat) : (s.reopenFolio p).revoc = s.revoc := by
  unfold State.reopenFolio; (try dsimp only); (repeat' split) <;> simp
@[simp] theorem State.reopenFolio_choices (s : State) (p : Nat) : (s.reopenFolio p).choices = s.choices := by
  unfold State.reopenFolio; (try dsimp only); (repeat' split) <;> simp

/-! ### State.minibarLeaves -/

@[simp] theorem State.minibarLeaves_pending (s : State) (a : Nat) : (s.minibarLeaves a).pending = s.pending := by simp [State.minibarLeaves]
@[simp] theorem State.minibarLeaves_part (s : State) (a : Nat) : (s.minibarLeaves a).part = s.part := by simp [State.minibarLeaves]
@[simp] theorem State.minibarLeaves_supply (s : State) (a : Nat) : (s.minibarLeaves a).supply = s.supply := by simp [State.minibarLeaves]
@[simp] theorem State.minibarLeaves_loader (s : State) (a : Nat) : (s.minibarLeaves a).loader = s.loader := by simp [State.minibarLeaves]
@[simp] theorem State.minibarLeaves_time (s : State) (a : Nat) : (s.minibarLeaves a).time = s.time := by simp [State.minibarLeaves]
@[simp] theorem State.minibarLeaves_lines (s : State) (a : Nat) : (s.minibarLeaves a).lines = s.lines := by simp [State.minibarLeaves]
@[simp] theorem State.minibarLeaves_inviter (s : State) (a : Nat) : (s.minibarLeaves a).inviter = s.inviter := by simp [State.minibarLeaves]
@[simp] theorem State.minibarLeaves_store (s : State) (a : Nat) : (s.minibarLeaves a).store = s.store := by simp [State.minibarLeaves]
@[simp] theorem State.minibarLeaves_revoc (s : State) (a : Nat) : (s.minibarLeaves a).revoc = s.revoc := by simp [State.minibarLeaves]
@[simp] theorem State.minibarLeaves_choices (s : State) (a : Nat) : (s.minibarLeaves a).choices = s.choices := by simp [State.minibarLeaves]

/-! ### State.discardFolio -/

@[simp] theorem State.discardFolio_pending (s : State) (p : Nat) : (s.discardFolio p).pending = s.pending := by simp [State.discardFolio]
@[simp] theorem State.discardFolio_part (s : State) (p : Nat) : (s.discardFolio p).part = s.part := by simp [State.discardFolio]
@[simp] theorem State.discardFolio_supply (s : State) (p : Nat) : (s.discardFolio p).supply = s.supply := by simp [State.discardFolio]
@[simp] theorem State.discardFolio_loader (s : State) (p : Nat) : (s.discardFolio p).loader = s.loader := by simp [State.discardFolio]
@[simp] theorem State.discardFolio_time (s : State) (p : Nat) : (s.discardFolio p).time = s.time := by simp [State.discardFolio]
@[simp] theorem State.discardFolio_lines (s : State) (p : Nat) : (s.discardFolio p).lines = s.lines := by simp [State.discardFolio]
@[simp] theorem State.discardFolio_inviter (s : State) (p : Nat) : (s.discardFolio p).inviter = s.inviter := by simp [State.discardFolio]
@[simp] theorem State.discardFolio_store (s : State) (p : Nat) : (s.discardFolio p).store = s.store := by simp [State.discardFolio]
@[simp] theorem State.discardFolio_revoc (s : State) (p : Nat) : (s.discardFolio p).revoc = s.revoc := by simp [State.discardFolio]
@[simp] theorem State.discardFolio_choices (s : State) (p : Nat) : (s.discardFolio p).choices = s.choices := by simp [State.discardFolio]

/-! ### State.retireSlot -/

@[simp] theorem State.retireSlot_pending (s : State) (k t : Nat) (st : CredState) : (s.retireSlot k t st).pending = s.pending := rfl
@[simp] theorem State.retireSlot_part (s : State) (k t : Nat) (st : CredState) : (s.retireSlot k t st).part = s.part := rfl
@[simp] theorem State.retireSlot_supply (s : State) (k t : Nat) (st : CredState) : (s.retireSlot k t st).supply = s.supply := rfl
@[simp] theorem State.retireSlot_loader (s : State) (k t : Nat) (st : CredState) : (s.retireSlot k t st).loader = s.loader := rfl
@[simp] theorem State.retireSlot_time (s : State) (k t : Nat) (st : CredState) : (s.retireSlot k t st).time = s.time := rfl
@[simp] theorem State.retireSlot_lines (s : State) (k t : Nat) (st : CredState) : (s.retireSlot k t st).lines = s.lines := rfl
@[simp] theorem State.retireSlot_inviter (s : State) (k t : Nat) (st : CredState) : (s.retireSlot k t st).inviter = s.inviter := rfl
@[simp] theorem State.retireSlot_nodes (s : State) (k t : Nat) (st : CredState) : (s.retireSlot k t st).nodes = s.nodes := rfl
@[simp] theorem State.retireSlot_revoc (s : State) (k t : Nat) (st : CredState) : (s.retireSlot k t st).revoc = s.revoc := rfl
@[simp] theorem State.retireSlot_minibar (s : State) (k t : Nat) (st : CredState) : (s.retireSlot k t st).minibar = s.minibar := rfl
@[simp] theorem State.retireSlot_journal (s : State) (k t : Nat) (st : CredState) : (s.retireSlot k t st).journal = s.journal := rfl
@[simp] theorem State.retireSlot_port (s : State) (k t : Nat) (st : CredState) : (s.retireSlot k t st).port = s.port := rfl
@[simp] theorem State.retireSlot_choices (s : State) (k t : Nat) (st : CredState) : (s.retireSlot k t st).choices = s.choices := rfl

/-! ### State.revoke -/

@[simp] theorem State.revoke_pending (s : State) (k : Nat) (r : RevReason) : (s.revoke k r).pending = s.pending := by
  unfold State.revoke; (try dsimp only); (repeat' split) <;> simp
@[simp] theorem State.revoke_part (s : State) (k : Nat) (r : RevReason) : (s.revoke k r).part = s.part := by
  unfold State.revoke; (try dsimp only); (repeat' split) <;> simp
@[simp] theorem State.revoke_supply (s : State) (k : Nat) (r : RevReason) : (s.revoke k r).supply = s.supply := by
  unfold State.revoke; (try dsimp only); (repeat' split) <;> simp
@[simp] theorem State.revoke_loader (s : State) (k : Nat) (r : RevReason) : (s.revoke k r).loader = s.loader := by
  unfold State.revoke; (try dsimp only); (repeat' split) <;> simp
@[simp] theorem State.revoke_time (s : State) (k : Nat) (r : RevReason) : (s.revoke k r).time = s.time := by
  unfold State.revoke; (try dsimp only); (repeat' split) <;> simp
@[simp] theorem State.revoke_lines (s : State) (k : Nat) (r : RevReason) : (s.revoke k r).lines = s.lines := by
  unfold State.revoke; (try dsimp only); (repeat' split) <;> simp
@[simp] theorem State.revoke_inviter (s : State) (k : Nat) (r : RevReason) : (s.revoke k r).inviter = s.inviter := by
  unfold State.revoke; (try dsimp only); (repeat' split) <;> simp
@[simp] theorem State.revoke_minibar (s : State) (k : Nat) (r : RevReason) : (s.revoke k r).minibar = s.minibar := by
  unfold State.revoke; (try dsimp only); (repeat' split) <;> simp
@[simp] theorem State.revoke_choices (s : State) (k : Nat) (r : RevReason) : (s.revoke k r).choices = s.choices := by
  unfold State.revoke; (try dsimp only); (repeat' split) <;> simp

/-! ### State.revokeAll -/

@[simp] theorem State.revokeAll_pending (s : State) (ks : List Nat) (r : RevReason) : (s.revokeAll ks r).pending = s.pending := by
  unfold State.revokeAll; exact State.foldl_frame (·.pending) _ (fun _ _ => by simp) _ _
@[simp] theorem State.revokeAll_part (s : State) (ks : List Nat) (r : RevReason) : (s.revokeAll ks r).part = s.part := by
  unfold State.revokeAll; exact State.foldl_frame (·.part) _ (fun _ _ => by simp) _ _
@[simp] theorem State.revokeAll_supply (s : State) (ks : List Nat) (r : RevReason) : (s.revokeAll ks r).supply = s.supply := by
  unfold State.revokeAll; exact State.foldl_frame (·.supply) _ (fun _ _ => by simp) _ _
@[simp] theorem State.revokeAll_loader (s : State) (ks : List Nat) (r : RevReason) : (s.revokeAll ks r).loader = s.loader := by
  unfold State.revokeAll; exact State.foldl_frame (·.loader) _ (fun _ _ => by simp) _ _
@[simp] theorem State.revokeAll_time (s : State) (ks : List Nat) (r : RevReason) : (s.revokeAll ks r).time = s.time := by
  unfold State.revokeAll; exact State.foldl_frame (·.time) _ (fun _ _ => by simp) _ _
@[simp] theorem State.revokeAll_lines (s : State) (ks : List Nat) (r : RevReason) : (s.revokeAll ks r).lines = s.lines := by
  unfold State.revokeAll; exact State.foldl_frame (·.lines) _ (fun _ _ => by simp) _ _
@[simp] theorem State.revokeAll_inviter (s : State) (ks : List Nat) (r : RevReason) : (s.revokeAll ks r).inviter = s.inviter := by
  unfold State.revokeAll; exact State.foldl_frame (·.inviter) _ (fun _ _ => by simp) _ _
@[simp] theorem State.revokeAll_minibar (s : State) (ks : List Nat) (r : RevReason) : (s.revokeAll ks r).minibar = s.minibar := by
  unfold State.revokeAll; exact State.foldl_frame (·.minibar) _ (fun _ _ => by simp) _ _
@[simp] theorem State.revokeAll_choices (s : State) (ks : List Nat) (r : RevReason) : (s.revokeAll ks r).choices = s.choices := by
  unfold State.revokeAll; exact State.foldl_frame (·.choices) _ (fun _ _ => by simp) _ _

/-! ### State.returnEncoding -/

@[simp] theorem State.returnEncoding_pending (s : State) (k : Nat) (c : LapseCause) : (s.returnEncoding k c).pending = s.pending := by
  unfold State.returnEncoding; (try dsimp only); (repeat' split) <;> simp
@[simp] theorem State.returnEncoding_part (s : State) (k : Nat) (c : LapseCause) : (s.returnEncoding k c).part = s.part := by
  unfold State.returnEncoding; (try dsimp only); (repeat' split) <;> simp
@[simp] theorem State.returnEncoding_supply (s : State) (k : Nat) (c : LapseCause) : (s.returnEncoding k c).supply = s.supply := by
  unfold State.returnEncoding; (try dsimp only); (repeat' split) <;> simp
@[simp] theorem State.returnEncoding_loader (s : State) (k : Nat) (c : LapseCause) : (s.returnEncoding k c).loader = s.loader := by
  unfold State.returnEncoding; (try dsimp only); (repeat' split) <;> simp
@[simp] theorem State.returnEncoding_time (s : State) (k : Nat) (c : LapseCause) : (s.returnEncoding k c).time = s.time := by
  unfold State.returnEncoding; (try dsimp only); (repeat' split) <;> simp
@[simp] theorem State.returnEncoding_lines (s : State) (k : Nat) (c : LapseCause) : (s.returnEncoding k c).lines = s.lines := by
  unfold State.returnEncoding; (try dsimp only); (repeat' split) <;> simp
@[simp] theorem State.returnEncoding_inviter (s : State) (k : Nat) (c : LapseCause) : (s.returnEncoding k c).inviter = s.inviter := by
  unfold State.returnEncoding; (try dsimp only); (repeat' split) <;> simp
@[simp] theorem State.returnEncoding_nodes (s : State) (k : Nat) (c : LapseCause) : (s.returnEncoding k c).nodes = s.nodes := by
  unfold State.returnEncoding; (try dsimp only); (repeat' split) <;> simp
@[simp] theorem State.returnEncoding_revoc (s : State) (k : Nat) (c : LapseCause) : (s.returnEncoding k c).revoc = s.revoc := by
  unfold State.returnEncoding; (try dsimp only); (repeat' split) <;> simp
@[simp] theorem State.returnEncoding_minibar (s : State) (k : Nat) (c : LapseCause) : (s.returnEncoding k c).minibar = s.minibar := by
  unfold State.returnEncoding; (try dsimp only); (repeat' split) <;> simp
@[simp] theorem State.returnEncoding_choices (s : State) (k : Nat) (c : LapseCause) : (s.returnEncoding k c).choices = s.choices := by
  unfold State.returnEncoding; (try dsimp only); (repeat' split) <;> simp

/-! ### State.cancelPending -/

@[simp] theorem State.cancelPending_pending (s : State) (p : Nat) (c : LapseCause) : (s.cancelPending p c).pending = s.pending := by
  unfold State.cancelPending; (try dsimp only); (repeat' split) <;> simp
@[simp] theorem State.cancelPending_part (s : State) (p : Nat) (c : LapseCause) : (s.cancelPending p c).part = s.part := by
  unfold State.cancelPending; (try dsimp only); (repeat' split) <;> simp
@[simp] theorem State.cancelPending_supply (s : State) (p : Nat) (c : LapseCause) : (s.cancelPending p c).supply = s.supply := by
  unfold State.cancelPending; (try dsimp only); (repeat' split) <;> simp
@[simp] theorem State.cancelPending_loader (s : State) (p : Nat) (c : LapseCause) : (s.cancelPending p c).loader = s.loader := by
  unfold State.cancelPending; (try dsimp only); (repeat' split) <;> simp
@[simp] theorem State.cancelPending_time (s : State) (p : Nat) (c : LapseCause) : (s.cancelPending p c).time = s.time := by
  unfold State.cancelPending; (try dsimp only); (repeat' split) <;> simp
@[simp] theorem State.cancelPending_lines (s : State) (p : Nat) (c : LapseCause) : (s.cancelPending p c).lines = s.lines := by
  unfold State.cancelPending; (try dsimp only); (repeat' split) <;> simp
@[simp] theorem State.cancelPending_inviter (s : State) (p : Nat) (c : LapseCause) : (s.cancelPending p c).inviter = s.inviter := by
  unfold State.cancelPending; (try dsimp only); (repeat' split) <;> simp
@[simp] theorem State.cancelPending_nodes (s : State) (p : Nat) (c : LapseCause) : (s.cancelPending p c).nodes = s.nodes := by
  unfold State.cancelPending; (try dsimp only); (repeat' split) <;> simp
@[simp] theorem State.cancelPending_revoc (s : State) (p : Nat) (c : LapseCause) : (s.cancelPending p c).revoc = s.revoc := by
  unfold State.cancelPending; (try dsimp only); (repeat' split) <;> simp
@[simp] theorem State.cancelPending_minibar (s : State) (p : Nat) (c : LapseCause) : (s.cancelPending p c).minibar = s.minibar := by
  unfold State.cancelPending; (try dsimp only); (repeat' split) <;> simp
@[simp] theorem State.cancelPending_choices (s : State) (p : Nat) (c : LapseCause) : (s.cancelPending p c).choices = s.choices := by
  unfold State.cancelPending; (try dsimp only); (repeat' split) <;> simp

/-! ### State.lapseEncodings -/

@[simp] theorem State.lapseEncodings_pending (s : State) : s.lapseEncodings.pending = s.pending := by
  unfold State.lapseEncodings; exact State.foldl_frame (·.pending) _ (fun _ _ => by simp) _ _
@[simp] theorem State.lapseEncodings_part (s : State) : s.lapseEncodings.part = s.part := by
  unfold State.lapseEncodings; exact State.foldl_frame (·.part) _ (fun _ _ => by simp) _ _
@[simp] theorem State.lapseEncodings_supply (s : State) : s.lapseEncodings.supply = s.supply := by
  unfold State.lapseEncodings; exact State.foldl_frame (·.supply) _ (fun _ _ => by simp) _ _
@[simp] theorem State.lapseEncodings_loader (s : State) : s.lapseEncodings.loader = s.loader := by
  unfold State.lapseEncodings; exact State.foldl_frame (·.loader) _ (fun _ _ => by simp) _ _
@[simp] theorem State.lapseEncodings_time (s : State) : s.lapseEncodings.time = s.time := by
  unfold State.lapseEncodings; exact State.foldl_frame (·.time) _ (fun _ _ => by simp) _ _
@[simp] theorem State.lapseEncodings_lines (s : State) : s.lapseEncodings.lines = s.lines := by
  unfold State.lapseEncodings; exact State.foldl_frame (·.lines) _ (fun _ _ => by simp) _ _
@[simp] theorem State.lapseEncodings_inviter (s : State) : s.lapseEncodings.inviter = s.inviter := by
  unfold State.lapseEncodings; exact State.foldl_frame (·.inviter) _ (fun _ _ => by simp) _ _
@[simp] theorem State.lapseEncodings_nodes (s : State) : s.lapseEncodings.nodes = s.nodes := by
  unfold State.lapseEncodings; exact State.foldl_frame (·.nodes) _ (fun _ _ => by simp) _ _
@[simp] theorem State.lapseEncodings_revoc (s : State) : s.lapseEncodings.revoc = s.revoc := by
  unfold State.lapseEncodings; exact State.foldl_frame (·.revoc) _ (fun _ _ => by simp) _ _
@[simp] theorem State.lapseEncodings_minibar (s : State) : s.lapseEncodings.minibar = s.minibar := by
  unfold State.lapseEncodings; exact State.foldl_frame (·.minibar) _ (fun _ _ => by simp) _ _
@[simp] theorem State.lapseEncodings_choices (s : State) : s.lapseEncodings.choices = s.choices := by
  unfold State.lapseEncodings; exact State.foldl_frame (·.choices) _ (fun _ _ => by simp) _ _

/-! ### State.takeSlot -/

@[simp] theorem State.takeSlot_pending (s : State) : s.takeSlot.pending = s.pending := by
  unfold State.takeSlot; (try dsimp only); (repeat' split) <;> simp
@[simp] theorem State.takeSlot_part (s : State) : s.takeSlot.part = s.part := by
  unfold State.takeSlot; (try dsimp only); (repeat' split) <;> simp
@[simp] theorem State.takeSlot_supply (s : State) : s.takeSlot.supply = s.supply := by
  unfold State.takeSlot; (try dsimp only); (repeat' split) <;> simp
@[simp] theorem State.takeSlot_loader (s : State) : s.takeSlot.loader = s.loader := by
  unfold State.takeSlot; (try dsimp only); (repeat' split) <;> simp
@[simp] theorem State.takeSlot_time (s : State) : s.takeSlot.time = s.time := by
  unfold State.takeSlot; (try dsimp only); (repeat' split) <;> simp
@[simp] theorem State.takeSlot_lines (s : State) : s.takeSlot.lines = s.lines := by
  unfold State.takeSlot; (try dsimp only); (repeat' split) <;> simp
@[simp] theorem State.takeSlot_inviter (s : State) : s.takeSlot.inviter = s.inviter := by
  unfold State.takeSlot; (try dsimp only); (repeat' split) <;> simp
@[simp] theorem State.takeSlot_minibar (s : State) : s.takeSlot.minibar = s.minibar := by
  unfold State.takeSlot; (try dsimp only); (repeat' split) <;> simp
@[simp] theorem State.takeSlot_journal (s : State) : s.takeSlot.journal = s.journal := by
  unfold State.takeSlot; (try dsimp only); (repeat' split) <;> simp
@[simp] theorem State.takeSlot_choices (s : State) : s.takeSlot.choices = s.choices := by
  unfold State.takeSlot; (try dsimp only); (repeat' split) <;> simp

/-! ### State.purgeHead -/

@[simp] theorem State.purgeHead_pending (s : State) (k : Nat) : (s.purgeHead k).pending = s.pending := by simp [State.purgeHead]
@[simp] theorem State.purgeHead_part (s : State) (k : Nat) : (s.purgeHead k).part = s.part := by simp [State.purgeHead]
@[simp] theorem State.purgeHead_supply (s : State) (k : Nat) : (s.purgeHead k).supply = s.supply := by simp [State.purgeHead]
@[simp] theorem State.purgeHead_loader (s : State) (k : Nat) : (s.purgeHead k).loader = s.loader := by simp [State.purgeHead]
@[simp] theorem State.purgeHead_time (s : State) (k : Nat) : (s.purgeHead k).time = s.time := by simp [State.purgeHead]
@[simp] theorem State.purgeHead_lines (s : State) (k : Nat) : (s.purgeHead k).lines = s.lines := by simp [State.purgeHead]
@[simp] theorem State.purgeHead_inviter (s : State) (k : Nat) : (s.purgeHead k).inviter = s.inviter := by simp [State.purgeHead]
@[simp] theorem State.purgeHead_minibar (s : State) (k : Nat) : (s.purgeHead k).minibar = s.minibar := by simp [State.purgeHead]
@[simp] theorem State.purgeHead_journal (s : State) (k : Nat) : (s.purgeHead k).journal = s.journal := by simp [State.purgeHead]
@[simp] theorem State.purgeHead_choices (s : State) (k : Nat) : (s.purgeHead k).choices = s.choices := by simp [State.purgeHead]

/-! ### State.expire -/

@[simp] theorem State.expire_pending (s : State) (k : Nat) : (s.expire k).pending = s.pending := by
  unfold State.expire; (try dsimp only); (repeat' split) <;> simp
@[simp] theorem State.expire_part (s : State) (k : Nat) : (s.expire k).part = s.part := by
  unfold State.expire; (try dsimp only); (repeat' split) <;> simp
@[simp] theorem State.expire_supply (s : State) (k : Nat) : (s.expire k).supply = s.supply := by
  unfold State.expire; (try dsimp only); (repeat' split) <;> simp
@[simp] theorem State.expire_loader (s : State) (k : Nat) : (s.expire k).loader = s.loader := by
  unfold State.expire; (try dsimp only); (repeat' split) <;> simp
@[simp] theorem State.expire_time (s : State) (k : Nat) : (s.expire k).time = s.time := by
  unfold State.expire; (try dsimp only); (repeat' split) <;> simp
@[simp] theorem State.expire_lines (s : State) (k : Nat) : (s.expire k).lines = s.lines := by
  unfold State.expire; (try dsimp only); (repeat' split) <;> simp
@[simp] theorem State.expire_inviter (s : State) (k : Nat) : (s.expire k).inviter = s.inviter := by
  unfold State.expire; (try dsimp only); (repeat' split) <;> simp
@[simp] theorem State.expire_nodes (s : State) (k : Nat) : (s.expire k).nodes = s.nodes := by
  unfold State.expire; (try dsimp only); (repeat' split) <;> simp
@[simp] theorem State.expire_revoc (s : State) (k : Nat) : (s.expire k).revoc = s.revoc := by
  unfold State.expire; (try dsimp only); (repeat' split) <;> simp
@[simp] theorem State.expire_minibar (s : State) (k : Nat) : (s.expire k).minibar = s.minibar := by
  unfold State.expire; (try dsimp only); (repeat' split) <;> simp
@[simp] theorem State.expire_journal (s : State) (k : Nat) : (s.expire k).journal = s.journal := by
  unfold State.expire; (try dsimp only); (repeat' split) <;> simp
@[simp] theorem State.expire_port (s : State) (k : Nat) : (s.expire k).port = s.port := by
  unfold State.expire; (try dsimp only); (repeat' split) <;> simp
@[simp] theorem State.expire_choices (s : State) (k : Nat) : (s.expire k).choices = s.choices := by
  unfold State.expire; (try dsimp only); (repeat' split) <;> simp

/-! ### State.expirySweep -/

@[simp] theorem State.expirySweep_pending (s : State) : s.expirySweep.pending = s.pending := by
  unfold State.expirySweep; exact State.foldl_frame (·.pending) _ (fun _ _ => by simp) _ _
@[simp] theorem State.expirySweep_part (s : State) : s.expirySweep.part = s.part := by
  unfold State.expirySweep; exact State.foldl_frame (·.part) _ (fun _ _ => by simp) _ _
@[simp] theorem State.expirySweep_supply (s : State) : s.expirySweep.supply = s.supply := by
  unfold State.expirySweep; exact State.foldl_frame (·.supply) _ (fun _ _ => by simp) _ _
@[simp] theorem State.expirySweep_loader (s : State) : s.expirySweep.loader = s.loader := by
  unfold State.expirySweep; exact State.foldl_frame (·.loader) _ (fun _ _ => by simp) _ _
@[simp] theorem State.expirySweep_time (s : State) : s.expirySweep.time = s.time := by
  unfold State.expirySweep; exact State.foldl_frame (·.time) _ (fun _ _ => by simp) _ _
@[simp] theorem State.expirySweep_lines (s : State) : s.expirySweep.lines = s.lines := by
  unfold State.expirySweep; exact State.foldl_frame (·.lines) _ (fun _ _ => by simp) _ _
@[simp] theorem State.expirySweep_inviter (s : State) : s.expirySweep.inviter = s.inviter := by
  unfold State.expirySweep; exact State.foldl_frame (·.inviter) _ (fun _ _ => by simp) _ _
@[simp] theorem State.expirySweep_nodes (s : State) : s.expirySweep.nodes = s.nodes := by
  unfold State.expirySweep; exact State.foldl_frame (·.nodes) _ (fun _ _ => by simp) _ _
@[simp] theorem State.expirySweep_revoc (s : State) : s.expirySweep.revoc = s.revoc := by
  unfold State.expirySweep; exact State.foldl_frame (·.revoc) _ (fun _ _ => by simp) _ _
@[simp] theorem State.expirySweep_minibar (s : State) : s.expirySweep.minibar = s.minibar := by
  unfold State.expirySweep; exact State.foldl_frame (·.minibar) _ (fun _ _ => by simp) _ _
@[simp] theorem State.expirySweep_journal (s : State) : s.expirySweep.journal = s.journal := by
  unfold State.expirySweep; exact State.foldl_frame (·.journal) _ (fun _ _ => by simp) _ _
@[simp] theorem State.expirySweep_port (s : State) : s.expirySweep.port = s.port := by
  unfold State.expirySweep; exact State.foldl_frame (·.port) _ (fun _ _ => by simp) _ _
@[simp] theorem State.expirySweep_choices (s : State) : s.expirySweep.choices = s.choices := by
  unfold State.expirySweep; exact State.foldl_frame (·.choices) _ (fun _ _ => by simp) _ _

/-! ### State.setFloor -/

@[simp] theorem State.setFloor_pending (s : State) (p v : Nat) (r : RevReason) : (s.setFloor p v r).pending = s.pending := by
  unfold State.setFloor; (try dsimp only); (repeat' split) <;> simp
@[simp] theorem State.setFloor_part (s : State) (p v : Nat) (r : RevReason) : (s.setFloor p v r).part = s.part := by
  unfold State.setFloor; (try dsimp only); (repeat' split) <;> simp
@[simp] theorem State.setFloor_supply (s : State) (p v : Nat) (r : RevReason) : (s.setFloor p v r).supply = s.supply := by
  unfold State.setFloor; (try dsimp only); (repeat' split) <;> simp
@[simp] theorem State.setFloor_loader (s : State) (p v : Nat) (r : RevReason) : (s.setFloor p v r).loader = s.loader := by
  unfold State.setFloor; (try dsimp only); (repeat' split) <;> simp
@[simp] theorem State.setFloor_time (s : State) (p v : Nat) (r : RevReason) : (s.setFloor p v r).time = s.time := by
  unfold State.setFloor; (try dsimp only); (repeat' split) <;> simp
@[simp] theorem State.setFloor_lines (s : State) (p v : Nat) (r : RevReason) : (s.setFloor p v r).lines = s.lines := by
  unfold State.setFloor; (try dsimp only); (repeat' split) <;> simp
@[simp] theorem State.setFloor_inviter (s : State) (p v : Nat) (r : RevReason) : (s.setFloor p v r).inviter = s.inviter := by
  unfold State.setFloor; (try dsimp only); (repeat' split) <;> simp
@[simp] theorem State.setFloor_minibar (s : State) (p v : Nat) (r : RevReason) : (s.setFloor p v r).minibar = s.minibar := by
  unfold State.setFloor; (try dsimp only); (repeat' split) <;> simp
@[simp] theorem State.setFloor_choices (s : State) (p v : Nat) (r : RevReason) : (s.setFloor p v r).choices = s.choices := by
  unfold State.setFloor; (try dsimp only); (repeat' split) <;> simp

/-! ### State.advanceStay -/

@[simp] theorem State.advanceStay_pending (s : State) (p : Nat) : (s.advanceStay p).pending = s.pending := by
  unfold State.advanceStay; (try dsimp only); (repeat' split) <;> simp
@[simp] theorem State.advanceStay_part (s : State) (p : Nat) : (s.advanceStay p).part = s.part := by
  unfold State.advanceStay; (try dsimp only); (repeat' split) <;> simp
@[simp] theorem State.advanceStay_supply (s : State) (p : Nat) : (s.advanceStay p).supply = s.supply := by
  unfold State.advanceStay; (try dsimp only); (repeat' split) <;> simp
@[simp] theorem State.advanceStay_loader (s : State) (p : Nat) : (s.advanceStay p).loader = s.loader := by
  unfold State.advanceStay; (try dsimp only); (repeat' split) <;> simp
@[simp] theorem State.advanceStay_time (s : State) (p : Nat) : (s.advanceStay p).time = s.time := by
  unfold State.advanceStay; (try dsimp only); (repeat' split) <;> simp
@[simp] theorem State.advanceStay_lines (s : State) (p : Nat) : (s.advanceStay p).lines = s.lines := by
  unfold State.advanceStay; (try dsimp only); (repeat' split) <;> simp
@[simp] theorem State.advanceStay_inviter (s : State) (p : Nat) : (s.advanceStay p).inviter = s.inviter := by
  unfold State.advanceStay; (try dsimp only); (repeat' split) <;> simp
@[simp] theorem State.advanceStay_minibar (s : State) (p : Nat) : (s.advanceStay p).minibar = s.minibar := by
  unfold State.advanceStay; (try dsimp only); (repeat' split) <;> simp
@[simp] theorem State.advanceStay_choices (s : State) (p : Nat) : (s.advanceStay p).choices = s.choices := by
  unfold State.advanceStay; (try dsimp only); (repeat' split) <;> simp

/-! ### State.rekey -/

@[simp] theorem State.rekey_pending (s : State) (p : Nat) : (s.rekey p).pending = s.pending := by
  unfold State.rekey; (try dsimp only); (repeat' split) <;> simp
@[simp] theorem State.rekey_part (s : State) (p : Nat) : (s.rekey p).part = s.part := by
  unfold State.rekey; (try dsimp only); (repeat' split) <;> simp
@[simp] theorem State.rekey_supply (s : State) (p : Nat) : (s.rekey p).supply = s.supply := by
  unfold State.rekey; (try dsimp only); (repeat' split) <;> simp
@[simp] theorem State.rekey_loader (s : State) (p : Nat) : (s.rekey p).loader = s.loader := by
  unfold State.rekey; (try dsimp only); (repeat' split) <;> simp
@[simp] theorem State.rekey_time (s : State) (p : Nat) : (s.rekey p).time = s.time := by
  unfold State.rekey; (try dsimp only); (repeat' split) <;> simp
@[simp] theorem State.rekey_lines (s : State) (p : Nat) : (s.rekey p).lines = s.lines := by
  unfold State.rekey; (try dsimp only); (repeat' split) <;> simp
@[simp] theorem State.rekey_inviter (s : State) (p : Nat) : (s.rekey p).inviter = s.inviter := by
  unfold State.rekey; (try dsimp only); (repeat' split) <;> simp
@[simp] theorem State.rekey_minibar (s : State) (p : Nat) : (s.rekey p).minibar = s.minibar := by
  unfold State.rekey; (try dsimp only); (repeat' split) <;> simp
@[simp] theorem State.rekey_choices (s : State) (p : Nat) : (s.rekey p).choices = s.choices := by
  unfold State.rekey; (try dsimp only); (repeat' split) <;> simp

/-! ### State.resetRoom -/

@[simp] theorem State.resetRoom_pending (s : State) (p : Nat) : (s.resetRoom p).pending = s.pending := by simp [State.resetRoom]
@[simp] theorem State.resetRoom_part (s : State) (p : Nat) : (s.resetRoom p).part = s.part := by simp [State.resetRoom]
@[simp] theorem State.resetRoom_supply (s : State) (p : Nat) : (s.resetRoom p).supply = s.supply := by simp [State.resetRoom]
@[simp] theorem State.resetRoom_loader (s : State) (p : Nat) : (s.resetRoom p).loader = s.loader := by simp [State.resetRoom]
@[simp] theorem State.resetRoom_time (s : State) (p : Nat) : (s.resetRoom p).time = s.time := by simp [State.resetRoom]
@[simp] theorem State.resetRoom_lines (s : State) (p : Nat) : (s.resetRoom p).lines = s.lines := by simp [State.resetRoom]
@[simp] theorem State.resetRoom_inviter (s : State) (p : Nat) : (s.resetRoom p).inviter = s.inviter := by simp [State.resetRoom]
@[simp] theorem State.resetRoom_minibar (s : State) (p : Nat) : (s.resetRoom p).minibar = s.minibar := by simp [State.resetRoom]
@[simp] theorem State.resetRoom_choices (s : State) (p : Nat) : (s.resetRoom p).choices = s.choices := by simp [State.resetRoom]

/-! ### State.setClock -/

@[simp] theorem State.setClock_pending (s : State) (a : Nat) (f : Clock → Clock) : (s.setClock a f).pending = s.pending := by
  unfold State.setClock; (try dsimp only); (repeat' split) <;> simp
@[simp] theorem State.setClock_part (s : State) (a : Nat) (f : Clock → Clock) : (s.setClock a f).part = s.part := by
  unfold State.setClock; (try dsimp only); (repeat' split) <;> simp
@[simp] theorem State.setClock_supply (s : State) (a : Nat) (f : Clock → Clock) : (s.setClock a f).supply = s.supply := by
  unfold State.setClock; (try dsimp only); (repeat' split) <;> simp
@[simp] theorem State.setClock_loader (s : State) (a : Nat) (f : Clock → Clock) : (s.setClock a f).loader = s.loader := by
  unfold State.setClock; (try dsimp only); (repeat' split) <;> simp
@[simp] theorem State.setClock_time (s : State) (a : Nat) (f : Clock → Clock) : (s.setClock a f).time = s.time := by
  unfold State.setClock; (try dsimp only); (repeat' split) <;> simp
@[simp] theorem State.setClock_lines (s : State) (a : Nat) (f : Clock → Clock) : (s.setClock a f).lines = s.lines := by
  unfold State.setClock; (try dsimp only); (repeat' split) <;> simp
@[simp] theorem State.setClock_inviter (s : State) (a : Nat) (f : Clock → Clock) : (s.setClock a f).inviter = s.inviter := by
  unfold State.setClock; (try dsimp only); (repeat' split) <;> simp
@[simp] theorem State.setClock_store (s : State) (a : Nat) (f : Clock → Clock) : (s.setClock a f).store = s.store := by
  unfold State.setClock; (try dsimp only); (repeat' split) <;> simp
@[simp] theorem State.setClock_revoc (s : State) (a : Nat) (f : Clock → Clock) : (s.setClock a f).revoc = s.revoc := by
  unfold State.setClock; (try dsimp only); (repeat' split) <;> simp
@[simp] theorem State.setClock_minibar (s : State) (a : Nat) (f : Clock → Clock) : (s.setClock a f).minibar = s.minibar := by
  unfold State.setClock; (try dsimp only); (repeat' split) <;> simp
@[simp] theorem State.setClock_journal (s : State) (a : Nat) (f : Clock → Clock) : (s.setClock a f).journal = s.journal := by
  unfold State.setClock; (try dsimp only); (repeat' split) <;> simp
@[simp] theorem State.setClock_choices (s : State) (a : Nat) (f : Clock → Clock) : (s.setClock a f).choices = s.choices := by
  unfold State.setClock; (try dsimp only); (repeat' split) <;> simp

/-! ### State.decisionLate -/

@[simp] theorem State.decisionLate_pending (s : State) (d : Decision) : (s.decisionLate d).pending = s.pending := by simp [State.decisionLate]
@[simp] theorem State.decisionLate_part (s : State) (d : Decision) : (s.decisionLate d).part = s.part := by simp [State.decisionLate]
@[simp] theorem State.decisionLate_supply (s : State) (d : Decision) : (s.decisionLate d).supply = s.supply := by simp [State.decisionLate]
@[simp] theorem State.decisionLate_loader (s : State) (d : Decision) : (s.decisionLate d).loader = s.loader := by simp [State.decisionLate]
@[simp] theorem State.decisionLate_time (s : State) (d : Decision) : (s.decisionLate d).time = s.time := by simp [State.decisionLate]
@[simp] theorem State.decisionLate_lines (s : State) (d : Decision) : (s.decisionLate d).lines = s.lines := by simp [State.decisionLate]
@[simp] theorem State.decisionLate_inviter (s : State) (d : Decision) : (s.decisionLate d).inviter = s.inviter := by simp [State.decisionLate]
@[simp] theorem State.decisionLate_nodes (s : State) (d : Decision) : (s.decisionLate d).nodes = s.nodes := by simp [State.decisionLate]
@[simp] theorem State.decisionLate_store (s : State) (d : Decision) : (s.decisionLate d).store = s.store := by simp [State.decisionLate]
@[simp] theorem State.decisionLate_revoc (s : State) (d : Decision) : (s.decisionLate d).revoc = s.revoc := by simp [State.decisionLate]
@[simp] theorem State.decisionLate_minibar (s : State) (d : Decision) : (s.decisionLate d).minibar = s.minibar := by simp [State.decisionLate]
@[simp] theorem State.decisionLate_choices (s : State) (d : Decision) : (s.decisionLate d).choices = s.choices := by simp [State.decisionLate]

/-! ### State.discardUrgent -/

@[simp] theorem State.discardUrgent_pending (s : State) (u : Urgent) : (s.discardUrgent u).pending = s.pending := by
  unfold State.discardUrgent; (try dsimp only); (repeat' split) <;> simp
@[simp] theorem State.discardUrgent_part (s : State) (u : Urgent) : (s.discardUrgent u).part = s.part := by
  unfold State.discardUrgent; (try dsimp only); (repeat' split) <;> simp
@[simp] theorem State.discardUrgent_supply (s : State) (u : Urgent) : (s.discardUrgent u).supply = s.supply := by
  unfold State.discardUrgent; (try dsimp only); (repeat' split) <;> simp
@[simp] theorem State.discardUrgent_loader (s : State) (u : Urgent) : (s.discardUrgent u).loader = s.loader := by
  unfold State.discardUrgent; (try dsimp only); (repeat' split) <;> simp
@[simp] theorem State.discardUrgent_time (s : State) (u : Urgent) : (s.discardUrgent u).time = s.time := by
  unfold State.discardUrgent; (try dsimp only); (repeat' split) <;> simp
@[simp] theorem State.discardUrgent_lines (s : State) (u : Urgent) : (s.discardUrgent u).lines = s.lines := by
  unfold State.discardUrgent; (try dsimp only); (repeat' split) <;> simp
@[simp] theorem State.discardUrgent_inviter (s : State) (u : Urgent) : (s.discardUrgent u).inviter = s.inviter := by
  unfold State.discardUrgent; (try dsimp only); (repeat' split) <;> simp
@[simp] theorem State.discardUrgent_nodes (s : State) (u : Urgent) : (s.discardUrgent u).nodes = s.nodes := by
  unfold State.discardUrgent; (try dsimp only); (repeat' split) <;> simp
@[simp] theorem State.discardUrgent_store (s : State) (u : Urgent) : (s.discardUrgent u).store = s.store := by
  unfold State.discardUrgent; (try dsimp only); (repeat' split) <;> simp
@[simp] theorem State.discardUrgent_revoc (s : State) (u : Urgent) : (s.discardUrgent u).revoc = s.revoc := by
  unfold State.discardUrgent; (try dsimp only); (repeat' split) <;> simp
@[simp] theorem State.discardUrgent_minibar (s : State) (u : Urgent) : (s.discardUrgent u).minibar = s.minibar := by
  unfold State.discardUrgent; (try dsimp only); (repeat' split) <;> simp
@[simp] theorem State.discardUrgent_choices (s : State) (u : Urgent) : (s.discardUrgent u).choices = s.choices := by
  unfold State.discardUrgent; (try dsimp only); (repeat' split) <;> simp

/-! ### State.removeUrgent -/

@[simp] theorem State.removeUrgent_pending (s : State) (p : Urgent → Bool) : (s.removeUrgent p).pending = s.pending := by
  unfold State.removeUrgent; exact State.foldl_frame (·.pending) _ (fun _ _ => by simp) _ _
@[simp] theorem State.removeUrgent_part (s : State) (p : Urgent → Bool) : (s.removeUrgent p).part = s.part := by
  unfold State.removeUrgent; exact State.foldl_frame (·.part) _ (fun _ _ => by simp) _ _
@[simp] theorem State.removeUrgent_supply (s : State) (p : Urgent → Bool) : (s.removeUrgent p).supply = s.supply := by
  unfold State.removeUrgent; exact State.foldl_frame (·.supply) _ (fun _ _ => by simp) _ _
@[simp] theorem State.removeUrgent_loader (s : State) (p : Urgent → Bool) : (s.removeUrgent p).loader = s.loader := by
  unfold State.removeUrgent; exact State.foldl_frame (·.loader) _ (fun _ _ => by simp) _ _
@[simp] theorem State.removeUrgent_time (s : State) (p : Urgent → Bool) : (s.removeUrgent p).time = s.time := by
  unfold State.removeUrgent; exact State.foldl_frame (·.time) _ (fun _ _ => by simp) _ _
@[simp] theorem State.removeUrgent_inviter (s : State) (p : Urgent → Bool) : (s.removeUrgent p).inviter = s.inviter := by
  unfold State.removeUrgent; exact State.foldl_frame (·.inviter) _ (fun _ _ => by simp) _ _
@[simp] theorem State.removeUrgent_nodes (s : State) (p : Urgent → Bool) : (s.removeUrgent p).nodes = s.nodes := by
  unfold State.removeUrgent; exact State.foldl_frame (·.nodes) _ (fun _ _ => by simp) _ _
@[simp] theorem State.removeUrgent_store (s : State) (p : Urgent → Bool) : (s.removeUrgent p).store = s.store := by
  unfold State.removeUrgent; exact State.foldl_frame (·.store) _ (fun _ _ => by simp) _ _
@[simp] theorem State.removeUrgent_revoc (s : State) (p : Urgent → Bool) : (s.removeUrgent p).revoc = s.revoc := by
  unfold State.removeUrgent; exact State.foldl_frame (·.revoc) _ (fun _ _ => by simp) _ _
@[simp] theorem State.removeUrgent_minibar (s : State) (p : Urgent → Bool) : (s.removeUrgent p).minibar = s.minibar := by
  unfold State.removeUrgent; exact State.foldl_frame (·.minibar) _ (fun _ _ => by simp) _ _
@[simp] theorem State.removeUrgent_choices (s : State) (p : Urgent → Bool) : (s.removeUrgent p).choices = s.choices := by
  unfold State.removeUrgent; exact State.foldl_frame (·.choices) _ (fun _ _ => by simp) _ _

/-! ### State.leaveLine -/

@[simp] theorem State.leaveLine_pending (s : State) (a : Nat) : (s.leaveLine a).pending = s.pending := by simp [State.leaveLine]
@[simp] theorem State.leaveLine_part (s : State) (a : Nat) : (s.leaveLine a).part = s.part := by simp [State.leaveLine]
@[simp] theorem State.leaveLine_supply (s : State) (a : Nat) : (s.leaveLine a).supply = s.supply := by simp [State.leaveLine]
@[simp] theorem State.leaveLine_loader (s : State) (a : Nat) : (s.leaveLine a).loader = s.loader := by simp [State.leaveLine]
@[simp] theorem State.leaveLine_time (s : State) (a : Nat) : (s.leaveLine a).time = s.time := by simp [State.leaveLine]
@[simp] theorem State.leaveLine_inviter (s : State) (a : Nat) : (s.leaveLine a).inviter = s.inviter := by simp [State.leaveLine]
@[simp] theorem State.leaveLine_store (s : State) (a : Nat) : (s.leaveLine a).store = s.store := by simp [State.leaveLine]
@[simp] theorem State.leaveLine_revoc (s : State) (a : Nat) : (s.leaveLine a).revoc = s.revoc := by simp [State.leaveLine]
@[simp] theorem State.leaveLine_minibar (s : State) (a : Nat) : (s.leaveLine a).minibar = s.minibar := by simp [State.leaveLine]
@[simp] theorem State.leaveLine_choices (s : State) (a : Nat) : (s.leaveLine a).choices = s.choices := by simp [State.leaveLine]

/-! ### State.changeNode -/

@[simp] theorem State.changeNode_pending (s : State) (a : Nat) (st : NodeState) : (s.changeNode a st).pending = s.pending := by
  unfold State.changeNode; (try dsimp only); (repeat' split) <;> simp
@[simp] theorem State.changeNode_part (s : State) (a : Nat) (st : NodeState) : (s.changeNode a st).part = s.part := by
  unfold State.changeNode; (try dsimp only); (repeat' split) <;> simp
@[simp] theorem State.changeNode_supply (s : State) (a : Nat) (st : NodeState) : (s.changeNode a st).supply = s.supply := by
  unfold State.changeNode; (try dsimp only); (repeat' split) <;> simp
@[simp] theorem State.changeNode_loader (s : State) (a : Nat) (st : NodeState) : (s.changeNode a st).loader = s.loader := by
  unfold State.changeNode; (try dsimp only); (repeat' split) <;> simp
@[simp] theorem State.changeNode_time (s : State) (a : Nat) (st : NodeState) : (s.changeNode a st).time = s.time := by
  unfold State.changeNode; (try dsimp only); (repeat' split) <;> simp
@[simp] theorem State.changeNode_lines (s : State) (a : Nat) (st : NodeState) : (s.changeNode a st).lines = s.lines := by
  unfold State.changeNode; (try dsimp only); (repeat' split) <;> simp
@[simp] theorem State.changeNode_inviter (s : State) (a : Nat) (st : NodeState) : (s.changeNode a st).inviter = s.inviter := by
  unfold State.changeNode; (try dsimp only); (repeat' split) <;> simp
@[simp] theorem State.changeNode_store (s : State) (a : Nat) (st : NodeState) : (s.changeNode a st).store = s.store := by
  unfold State.changeNode; (try dsimp only); (repeat' split) <;> simp
@[simp] theorem State.changeNode_revoc (s : State) (a : Nat) (st : NodeState) : (s.changeNode a st).revoc = s.revoc := by
  unfold State.changeNode; (try dsimp only); (repeat' split) <;> simp
@[simp] theorem State.changeNode_minibar (s : State) (a : Nat) (st : NodeState) : (s.changeNode a st).minibar = s.minibar := by
  unfold State.changeNode; (try dsimp only); (repeat' split) <;> simp
@[simp] theorem State.changeNode_choices (s : State) (a : Nat) (st : NodeState) : (s.changeNode a st).choices = s.choices := by
  unfold State.changeNode; (try dsimp only); (repeat' split) <;> simp

/-! ### State.serviceLost -/

@[simp] theorem State.serviceLost_pending (s : State) : s.serviceLost.pending = s.pending := by
  unfold State.serviceLost State.forEach
  exact State.foldl_frame (·.pending) _ (fun _ _ => by dsimp only; (repeat' split) <;> simp) _ _
@[simp] theorem State.serviceLost_part (s : State) : s.serviceLost.part = s.part := by
  unfold State.serviceLost State.forEach
  exact State.foldl_frame (·.part) _ (fun _ _ => by dsimp only; (repeat' split) <;> simp) _ _
@[simp] theorem State.serviceLost_supply (s : State) : s.serviceLost.supply = s.supply := by
  unfold State.serviceLost State.forEach
  exact State.foldl_frame (·.supply) _ (fun _ _ => by dsimp only; (repeat' split) <;> simp) _ _
@[simp] theorem State.serviceLost_loader (s : State) : s.serviceLost.loader = s.loader := by
  unfold State.serviceLost State.forEach
  exact State.foldl_frame (·.loader) _ (fun _ _ => by dsimp only; (repeat' split) <;> simp) _ _
@[simp] theorem State.serviceLost_time (s : State) : s.serviceLost.time = s.time := by
  unfold State.serviceLost State.forEach
  exact State.foldl_frame (·.time) _ (fun _ _ => by dsimp only; (repeat' split) <;> simp) _ _
@[simp] theorem State.serviceLost_lines (s : State) : s.serviceLost.lines = s.lines := by
  unfold State.serviceLost State.forEach
  exact State.foldl_frame (·.lines) _ (fun _ _ => by dsimp only; (repeat' split) <;> simp) _ _
@[simp] theorem State.serviceLost_inviter (s : State) : s.serviceLost.inviter = s.inviter := by
  unfold State.serviceLost State.forEach
  exact State.foldl_frame (·.inviter) _ (fun _ _ => by dsimp only; (repeat' split) <;> simp) _ _
@[simp] theorem State.serviceLost_store (s : State) : s.serviceLost.store = s.store := by
  unfold State.serviceLost State.forEach
  exact State.foldl_frame (·.store) _ (fun _ _ => by dsimp only; (repeat' split) <;> simp) _ _
@[simp] theorem State.serviceLost_revoc (s : State) : s.serviceLost.revoc = s.revoc := by
  unfold State.serviceLost State.forEach
  exact State.foldl_frame (·.revoc) _ (fun _ _ => by dsimp only; (repeat' split) <;> simp) _ _
@[simp] theorem State.serviceLost_minibar (s : State) : s.serviceLost.minibar = s.minibar := by
  unfold State.serviceLost State.forEach
  exact State.foldl_frame (·.minibar) _ (fun _ _ => by dsimp only; (repeat' split) <;> simp) _ _
@[simp] theorem State.serviceLost_choices (s : State) : s.serviceLost.choices = s.choices := by
  unfold State.serviceLost State.forEach
  exact State.foldl_frame (·.choices) _ (fun _ _ => by dsimp only; (repeat' split) <;> simp) _ _

/-! ### State.setLineState -/

@[simp] theorem State.setLineState_pending (s : State) (l : LineId) (st : LineState) : (s.setLineState l st).pending = s.pending := by
  unfold State.setLineState; (try dsimp only); (repeat' split) <;> simp
@[simp] theorem State.setLineState_part (s : State) (l : LineId) (st : LineState) : (s.setLineState l st).part = s.part := by
  unfold State.setLineState; (try dsimp only); (repeat' split) <;> simp
@[simp] theorem State.setLineState_supply (s : State) (l : LineId) (st : LineState) : (s.setLineState l st).supply = s.supply := by
  unfold State.setLineState; (try dsimp only); (repeat' split) <;> simp
@[simp] theorem State.setLineState_loader (s : State) (l : LineId) (st : LineState) : (s.setLineState l st).loader = s.loader := by
  unfold State.setLineState; (try dsimp only); (repeat' split) <;> simp
@[simp] theorem State.setLineState_time (s : State) (l : LineId) (st : LineState) : (s.setLineState l st).time = s.time := by
  unfold State.setLineState; (try dsimp only); (repeat' split) <;> simp
@[simp] theorem State.setLineState_inviter (s : State) (l : LineId) (st : LineState) : (s.setLineState l st).inviter = s.inviter := by
  unfold State.setLineState; (try dsimp only); (repeat' split) <;> simp
@[simp] theorem State.setLineState_store (s : State) (l : LineId) (st : LineState) : (s.setLineState l st).store = s.store := by
  unfold State.setLineState; (try dsimp only); (repeat' split) <;> simp
@[simp] theorem State.setLineState_revoc (s : State) (l : LineId) (st : LineState) : (s.setLineState l st).revoc = s.revoc := by
  unfold State.setLineState; (try dsimp only); (repeat' split) <;> simp
@[simp] theorem State.setLineState_minibar (s : State) (l : LineId) (st : LineState) : (s.setLineState l st).minibar = s.minibar := by
  unfold State.setLineState; (try dsimp only); (repeat' split) <;> simp
@[simp] theorem State.setLineState_choices (s : State) (l : LineId) (st : LineState) : (s.setLineState l st).choices = s.choices := by
  unfold State.setLineState; (try dsimp only); (repeat' split) <;> simp

/-! ### State.enterTraining -/

@[simp] theorem State.enterTraining_pending (s : State) (l : LineId) : (s.enterTraining l).pending = s.pending := by simp [State.enterTraining]
@[simp] theorem State.enterTraining_part (s : State) (l : LineId) : (s.enterTraining l).part = s.part := by simp [State.enterTraining]
@[simp] theorem State.enterTraining_supply (s : State) (l : LineId) : (s.enterTraining l).supply = s.supply := by simp [State.enterTraining]
@[simp] theorem State.enterTraining_loader (s : State) (l : LineId) : (s.enterTraining l).loader = s.loader := by simp [State.enterTraining]
@[simp] theorem State.enterTraining_time (s : State) (l : LineId) : (s.enterTraining l).time = s.time := by simp [State.enterTraining]
@[simp] theorem State.enterTraining_inviter (s : State) (l : LineId) : (s.enterTraining l).inviter = s.inviter := by simp [State.enterTraining]
@[simp] theorem State.enterTraining_store (s : State) (l : LineId) : (s.enterTraining l).store = s.store := by simp [State.enterTraining]
@[simp] theorem State.enterTraining_revoc (s : State) (l : LineId) : (s.enterTraining l).revoc = s.revoc := by simp [State.enterTraining]
@[simp] theorem State.enterTraining_minibar (s : State) (l : LineId) : (s.enterTraining l).minibar = s.minibar := by simp [State.enterTraining]
@[simp] theorem State.enterTraining_choices (s : State) (l : LineId) : (s.enterTraining l).choices = s.choices := by simp [State.enterTraining]

/-! ### State.createNode -/

@[simp] theorem State.createNode_pending (s : State) (r : EnrolReq) (t : Nat) : (s.createNode r t).pending = s.pending := by
  unfold State.createNode; (try dsimp only); (repeat' split) <;> simp
@[simp] theorem State.createNode_part (s : State) (r : EnrolReq) (t : Nat) : (s.createNode r t).part = s.part := by
  unfold State.createNode; (try dsimp only); (repeat' split) <;> simp
@[simp] theorem State.createNode_supply (s : State) (r : EnrolReq) (t : Nat) : (s.createNode r t).supply = s.supply := by
  unfold State.createNode; (try dsimp only); (repeat' split) <;> simp
@[simp] theorem State.createNode_loader (s : State) (r : EnrolReq) (t : Nat) : (s.createNode r t).loader = s.loader := by
  unfold State.createNode; (try dsimp only); (repeat' split) <;> simp
@[simp] theorem State.createNode_time (s : State) (r : EnrolReq) (t : Nat) : (s.createNode r t).time = s.time := by
  unfold State.createNode; (try dsimp only); (repeat' split) <;> simp
@[simp] theorem State.createNode_lines (s : State) (r : EnrolReq) (t : Nat) : (s.createNode r t).lines = s.lines := by
  unfold State.createNode; (try dsimp only); (repeat' split) <;> simp
@[simp] theorem State.createNode_inviter (s : State) (r : EnrolReq) (t : Nat) : (s.createNode r t).inviter = s.inviter := by
  unfold State.createNode; (try dsimp only); (repeat' split) <;> simp
@[simp] theorem State.createNode_store (s : State) (r : EnrolReq) (t : Nat) : (s.createNode r t).store = s.store := by
  unfold State.createNode; (try dsimp only); (repeat' split) <;> simp
@[simp] theorem State.createNode_journal (s : State) (r : EnrolReq) (t : Nat) : (s.createNode r t).journal = s.journal := by
  unfold State.createNode; (try dsimp only); (repeat' split) <;> simp
@[simp] theorem State.createNode_port (s : State) (r : EnrolReq) (t : Nat) : (s.createNode r t).port = s.port := by
  unfold State.createNode; (try dsimp only); (repeat' split) <;> simp
@[simp] theorem State.createNode_choices (s : State) (r : EnrolReq) (t : Nat) : (s.createNode r t).choices = s.choices := by
  unfold State.createNode; (try dsimp only); (repeat' split) <;> simp

/-! ### State.enrol -/

@[simp] theorem State.enrol_pending (s : State) (r : EnrolReq) : (s.enrol r).pending = s.pending := by simp [State.enrol]
@[simp] theorem State.enrol_part (s : State) (r : EnrolReq) : (s.enrol r).part = s.part := by simp [State.enrol]
@[simp] theorem State.enrol_supply (s : State) (r : EnrolReq) : (s.enrol r).supply = s.supply := by simp [State.enrol]
@[simp] theorem State.enrol_loader (s : State) (r : EnrolReq) : (s.enrol r).loader = s.loader := by simp [State.enrol]
@[simp] theorem State.enrol_time (s : State) (r : EnrolReq) : (s.enrol r).time = s.time := by simp [State.enrol]
@[simp] theorem State.enrol_lines (s : State) (r : EnrolReq) : (s.enrol r).lines = s.lines := by simp [State.enrol]
@[simp] theorem State.enrol_inviter (s : State) (r : EnrolReq) : (s.enrol r).inviter = s.inviter := by simp [State.enrol]
@[simp] theorem State.enrol_store (s : State) (r : EnrolReq) : (s.enrol r).store = s.store := by simp [State.enrol]
@[simp] theorem State.enrol_choices (s : State) (r : EnrolReq) : (s.enrol r).choices = s.choices := by simp [State.enrol]

/-! ### State.releaseNode -/

@[simp] theorem State.releaseNode_pending (s : State) (n : Node) : (s.releaseNode n).pending = s.pending := by
  unfold State.releaseNode; (try dsimp only); (repeat' split) <;> simp
@[simp] theorem State.releaseNode_part (s : State) (n : Node) : (s.releaseNode n).part = s.part := by
  unfold State.releaseNode; (try dsimp only); (repeat' split) <;> simp
@[simp] theorem State.releaseNode_supply (s : State) (n : Node) : (s.releaseNode n).supply = s.supply := by
  unfold State.releaseNode; (try dsimp only); (repeat' split) <;> simp
@[simp] theorem State.releaseNode_loader (s : State) (n : Node) : (s.releaseNode n).loader = s.loader := by
  unfold State.releaseNode; (try dsimp only); (repeat' split) <;> simp
@[simp] theorem State.releaseNode_time (s : State) (n : Node) : (s.releaseNode n).time = s.time := by
  unfold State.releaseNode; (try dsimp only); (repeat' split) <;> simp
@[simp] theorem State.releaseNode_inviter (s : State) (n : Node) : (s.releaseNode n).inviter = s.inviter := by
  unfold State.releaseNode; (try dsimp only); (repeat' split) <;> simp
@[simp] theorem State.releaseNode_store (s : State) (n : Node) : (s.releaseNode n).store = s.store := by
  unfold State.releaseNode; (try dsimp only); (repeat' split) <;> simp
@[simp] theorem State.releaseNode_choices (s : State) (n : Node) : (s.releaseNode n).choices = s.choices := by
  unfold State.releaseNode; (try dsimp only); (repeat' split) <;> simp

/-! ### State.withdraw -/

@[simp] theorem State.withdraw_pending (s : State) (n : Node) : (s.withdraw n).pending = s.pending := by simp [State.withdraw]
@[simp] theorem State.withdraw_part (s : State) (n : Node) : (s.withdraw n).part = s.part := by simp [State.withdraw]
@[simp] theorem State.withdraw_supply (s : State) (n : Node) : (s.withdraw n).supply = s.supply := by simp [State.withdraw]
@[simp] theorem State.withdraw_loader (s : State) (n : Node) : (s.withdraw n).loader = s.loader := by simp [State.withdraw]
@[simp] theorem State.withdraw_time (s : State) (n : Node) : (s.withdraw n).time = s.time := by simp [State.withdraw]
@[simp] theorem State.withdraw_inviter (s : State) (n : Node) : (s.withdraw n).inviter = s.inviter := by simp [State.withdraw]
@[simp] theorem State.withdraw_store (s : State) (n : Node) : (s.withdraw n).store = s.store := by simp [State.withdraw]
@[simp] theorem State.withdraw_choices (s : State) (n : Node) : (s.withdraw n).choices = s.choices := by simp [State.withdraw]

/-! ### State.disableNode -/

@[simp] theorem State.disableNode_pending (s : State) (a : Nat) : (s.disableNode a).pending = s.pending := by simp [State.disableNode]
@[simp] theorem State.disableNode_part (s : State) (a : Nat) : (s.disableNode a).part = s.part := by simp [State.disableNode]
@[simp] theorem State.disableNode_supply (s : State) (a : Nat) : (s.disableNode a).supply = s.supply := by simp [State.disableNode]
@[simp] theorem State.disableNode_loader (s : State) (a : Nat) : (s.disableNode a).loader = s.loader := by simp [State.disableNode]
@[simp] theorem State.disableNode_time (s : State) (a : Nat) : (s.disableNode a).time = s.time := by simp [State.disableNode]
@[simp] theorem State.disableNode_inviter (s : State) (a : Nat) : (s.disableNode a).inviter = s.inviter := by simp [State.disableNode]
@[simp] theorem State.disableNode_store (s : State) (a : Nat) : (s.disableNode a).store = s.store := by simp [State.disableNode]
@[simp] theorem State.disableNode_revoc (s : State) (a : Nat) : (s.disableNode a).revoc = s.revoc := by simp [State.disableNode]
@[simp] theorem State.disableNode_minibar (s : State) (a : Nat) : (s.disableNode a).minibar = s.minibar := by simp [State.disableNode]
@[simp] theorem State.disableNode_choices (s : State) (a : Nat) : (s.disableNode a).choices = s.choices := by simp [State.disableNode]

/-! ### State.enableNode -/

@[simp] theorem State.enableNode_pending (s : State) (a : Nat) : (s.enableNode a).pending = s.pending := by simp [State.enableNode]
@[simp] theorem State.enableNode_part (s : State) (a : Nat) : (s.enableNode a).part = s.part := by simp [State.enableNode]
@[simp] theorem State.enableNode_supply (s : State) (a : Nat) : (s.enableNode a).supply = s.supply := by simp [State.enableNode]
@[simp] theorem State.enableNode_loader (s : State) (a : Nat) : (s.enableNode a).loader = s.loader := by simp [State.enableNode]
@[simp] theorem State.enableNode_time (s : State) (a : Nat) : (s.enableNode a).time = s.time := by simp [State.enableNode]
@[simp] theorem State.enableNode_lines (s : State) (a : Nat) : (s.enableNode a).lines = s.lines := by simp [State.enableNode]
@[simp] theorem State.enableNode_inviter (s : State) (a : Nat) : (s.enableNode a).inviter = s.inviter := by simp [State.enableNode]
@[simp] theorem State.enableNode_store (s : State) (a : Nat) : (s.enableNode a).store = s.store := by simp [State.enableNode]
@[simp] theorem State.enableNode_revoc (s : State) (a : Nat) : (s.enableNode a).revoc = s.revoc := by simp [State.enableNode]
@[simp] theorem State.enableNode_minibar (s : State) (a : Nat) : (s.enableNode a).minibar = s.minibar := by simp [State.enableNode]
@[simp] theorem State.enableNode_choices (s : State) (a : Nat) : (s.enableNode a).choices = s.choices := by simp [State.enableNode]

/-! ### State.offerDecision -/

@[simp] theorem State.offerDecision_pending (s : State) (d : Decision) : (s.offerDecision d).pending = s.pending := by
  unfold State.offerDecision; (try dsimp only); (repeat' split) <;> simp
@[simp] theorem State.offerDecision_part (s : State) (d : Decision) : (s.offerDecision d).part = s.part := by
  unfold State.offerDecision; (try dsimp only); (repeat' split) <;> simp
@[simp] theorem State.offerDecision_supply (s : State) (d : Decision) : (s.offerDecision d).supply = s.supply := by
  unfold State.offerDecision; (try dsimp only); (repeat' split) <;> simp
@[simp] theorem State.offerDecision_loader (s : State) (d : Decision) : (s.offerDecision d).loader = s.loader := by
  unfold State.offerDecision; (try dsimp only); (repeat' split) <;> simp
@[simp] theorem State.offerDecision_time (s : State) (d : Decision) : (s.offerDecision d).time = s.time := by
  unfold State.offerDecision; (try dsimp only); (repeat' split) <;> simp
@[simp] theorem State.offerDecision_inviter (s : State) (d : Decision) : (s.offerDecision d).inviter = s.inviter := by
  unfold State.offerDecision; (try dsimp only); (repeat' split) <;> simp
@[simp] theorem State.offerDecision_nodes (s : State) (d : Decision) : (s.offerDecision d).nodes = s.nodes := by
  unfold State.offerDecision; (try dsimp only); (repeat' split) <;> simp
@[simp] theorem State.offerDecision_store (s : State) (d : Decision) : (s.offerDecision d).store = s.store := by
  unfold State.offerDecision; (try dsimp only); (repeat' split) <;> simp
@[simp] theorem State.offerDecision_revoc (s : State) (d : Decision) : (s.offerDecision d).revoc = s.revoc := by
  unfold State.offerDecision; (try dsimp only); (repeat' split) <;> simp
@[simp] theorem State.offerDecision_minibar (s : State) (d : Decision) : (s.offerDecision d).minibar = s.minibar := by
  unfold State.offerDecision; (try dsimp only); (repeat' split) <;> simp
@[simp] theorem State.offerDecision_choices (s : State) (d : Decision) : (s.offerDecision d).choices = s.choices := by
  unfold State.offerDecision; (try dsimp only); (repeat' split) <;> simp

/-! ### State.decideAdmission -/

@[simp] theorem State.decideAdmission_pending (s : State) (a : Nat) (p : Presentation) (o : Nat) : (s.decideAdmission a p o).pending = s.pending := by
  unfold State.decideAdmission; (try dsimp only); (repeat' split) <;> simp
@[simp] theorem State.decideAdmission_part (s : State) (a : Nat) (p : Presentation) (o : Nat) : (s.decideAdmission a p o).part = s.part := by
  unfold State.decideAdmission; (try dsimp only); (repeat' split) <;> simp
@[simp] theorem State.decideAdmission_supply (s : State) (a : Nat) (p : Presentation) (o : Nat) : (s.decideAdmission a p o).supply = s.supply := by
  unfold State.decideAdmission; (try dsimp only); (repeat' split) <;> simp
@[simp] theorem State.decideAdmission_loader (s : State) (a : Nat) (p : Presentation) (o : Nat) : (s.decideAdmission a p o).loader = s.loader := by
  unfold State.decideAdmission; (try dsimp only); (repeat' split) <;> simp
@[simp] theorem State.decideAdmission_time (s : State) (a : Nat) (p : Presentation) (o : Nat) : (s.decideAdmission a p o).time = s.time := by
  unfold State.decideAdmission; (try dsimp only); (repeat' split) <;> simp
@[simp] theorem State.decideAdmission_inviter (s : State) (a : Nat) (p : Presentation) (o : Nat) : (s.decideAdmission a p o).inviter = s.inviter := by
  unfold State.decideAdmission; (try dsimp only); (repeat' split) <;> simp
@[simp] theorem State.decideAdmission_revoc (s : State) (a : Nat) (p : Presentation) (o : Nat) : (s.decideAdmission a p o).revoc = s.revoc := by
  unfold State.decideAdmission; (try dsimp only); (repeat' split) <;> simp
@[simp] theorem State.decideAdmission_minibar (s : State) (a : Nat) (p : Presentation) (o : Nat) : (s.decideAdmission a p o).minibar = s.minibar := by
  unfold State.decideAdmission; (try dsimp only); (repeat' split) <;> simp
@[simp] theorem State.decideAdmission_choices (s : State) (a : Nat) (p : Presentation) (o : Nat) : (s.decideAdmission a p o).choices = s.choices := by
  unfold State.decideAdmission; (try dsimp only); (repeat' split) <;> simp

/-! ### State.decisionSent -/

@[simp] theorem State.decisionSent_pending (s : State) (d : Decision) : (s.decisionSent d).pending = s.pending := by
  unfold State.decisionSent; (try dsimp only); (repeat' split) <;> simp
@[simp] theorem State.decisionSent_part (s : State) (d : Decision) : (s.decisionSent d).part = s.part := by
  unfold State.decisionSent; (try dsimp only); (repeat' split) <;> simp
@[simp] theorem State.decisionSent_supply (s : State) (d : Decision) : (s.decisionSent d).supply = s.supply := by
  unfold State.decisionSent; (try dsimp only); (repeat' split) <;> simp
@[simp] theorem State.decisionSent_loader (s : State) (d : Decision) : (s.decisionSent d).loader = s.loader := by
  unfold State.decisionSent; (try dsimp only); (repeat' split) <;> simp
@[simp] theorem State.decisionSent_time (s : State) (d : Decision) : (s.decisionSent d).time = s.time := by
  unfold State.decisionSent; (try dsimp only); (repeat' split) <;> simp
@[simp] theorem State.decisionSent_lines (s : State) (d : Decision) : (s.decisionSent d).lines = s.lines := by
  unfold State.decisionSent; (try dsimp only); (repeat' split) <;> simp
@[simp] theorem State.decisionSent_inviter (s : State) (d : Decision) : (s.decisionSent d).inviter = s.inviter := by
  unfold State.decisionSent; (try dsimp only); (repeat' split) <;> simp
@[simp] theorem State.decisionSent_store (s : State) (d : Decision) : (s.decisionSent d).store = s.store := by
  unfold State.decisionSent; (try dsimp only); (repeat' split) <;> simp
@[simp] theorem State.decisionSent_revoc (s : State) (d : Decision) : (s.decisionSent d).revoc = s.revoc := by
  unfold State.decisionSent; (try dsimp only); (repeat' split) <;> simp
@[simp] theorem State.decisionSent_minibar (s : State) (d : Decision) : (s.decisionSent d).minibar = s.minibar := by
  unfold State.decisionSent; (try dsimp only); (repeat' split) <;> simp
@[simp] theorem State.decisionSent_choices (s : State) (d : Decision) : (s.decisionSent d).choices = s.choices := by
  unfold State.decisionSent; (try dsimp only); (repeat' split) <;> simp

/-! ### State.remoteOpenSent -/

@[simp] theorem State.remoteOpenSent_pending (s : State) (a : Nat) : (s.remoteOpenSent a).pending = s.pending := by simp [State.remoteOpenSent]
@[simp] theorem State.remoteOpenSent_part (s : State) (a : Nat) : (s.remoteOpenSent a).part = s.part := by simp [State.remoteOpenSent]
@[simp] theorem State.remoteOpenSent_supply (s : State) (a : Nat) : (s.remoteOpenSent a).supply = s.supply := by simp [State.remoteOpenSent]
@[simp] theorem State.remoteOpenSent_loader (s : State) (a : Nat) : (s.remoteOpenSent a).loader = s.loader := by simp [State.remoteOpenSent]
@[simp] theorem State.remoteOpenSent_time (s : State) (a : Nat) : (s.remoteOpenSent a).time = s.time := by simp [State.remoteOpenSent]
@[simp] theorem State.remoteOpenSent_lines (s : State) (a : Nat) : (s.remoteOpenSent a).lines = s.lines := by simp [State.remoteOpenSent]
@[simp] theorem State.remoteOpenSent_inviter (s : State) (a : Nat) : (s.remoteOpenSent a).inviter = s.inviter := by simp [State.remoteOpenSent]
@[simp] theorem State.remoteOpenSent_nodes (s : State) (a : Nat) : (s.remoteOpenSent a).nodes = s.nodes := by simp [State.remoteOpenSent]
@[simp] theorem State.remoteOpenSent_store (s : State) (a : Nat) : (s.remoteOpenSent a).store = s.store := by simp [State.remoteOpenSent]
@[simp] theorem State.remoteOpenSent_revoc (s : State) (a : Nat) : (s.remoteOpenSent a).revoc = s.revoc := by simp [State.remoteOpenSent]
@[simp] theorem State.remoteOpenSent_minibar (s : State) (a : Nat) : (s.remoteOpenSent a).minibar = s.minibar := by simp [State.remoteOpenSent]
@[simp] theorem State.remoteOpenSent_choices (s : State) (a : Nat) : (s.remoteOpenSent a).choices = s.choices := by simp [State.remoteOpenSent]

/-! ### State.urgentSent -/

@[simp] theorem State.urgentSent_pending (s : State) (u : Urgent) : (s.urgentSent u).pending = s.pending := by
  unfold State.urgentSent; (try dsimp only); (repeat' split) <;> simp
@[simp] theorem State.urgentSent_part (s : State) (u : Urgent) : (s.urgentSent u).part = s.part := by
  unfold State.urgentSent; (try dsimp only); (repeat' split) <;> simp
@[simp] theorem State.urgentSent_supply (s : State) (u : Urgent) : (s.urgentSent u).supply = s.supply := by
  unfold State.urgentSent; (try dsimp only); (repeat' split) <;> simp
@[simp] theorem State.urgentSent_loader (s : State) (u : Urgent) : (s.urgentSent u).loader = s.loader := by
  unfold State.urgentSent; (try dsimp only); (repeat' split) <;> simp
@[simp] theorem State.urgentSent_time (s : State) (u : Urgent) : (s.urgentSent u).time = s.time := by
  unfold State.urgentSent; (try dsimp only); (repeat' split) <;> simp
@[simp] theorem State.urgentSent_lines (s : State) (u : Urgent) : (s.urgentSent u).lines = s.lines := by
  unfold State.urgentSent; (try dsimp only); (repeat' split) <;> simp
@[simp] theorem State.urgentSent_inviter (s : State) (u : Urgent) : (s.urgentSent u).inviter = s.inviter := by
  unfold State.urgentSent; (try dsimp only); (repeat' split) <;> simp
@[simp] theorem State.urgentSent_store (s : State) (u : Urgent) : (s.urgentSent u).store = s.store := by
  unfold State.urgentSent; (try dsimp only); (repeat' split) <;> simp
@[simp] theorem State.urgentSent_revoc (s : State) (u : Urgent) : (s.urgentSent u).revoc = s.revoc := by
  unfold State.urgentSent; (try dsimp only); (repeat' split) <;> simp
@[simp] theorem State.urgentSent_minibar (s : State) (u : Urgent) : (s.urgentSent u).minibar = s.minibar := by
  unfold State.urgentSent; (try dsimp only); (repeat' split) <;> simp
@[simp] theorem State.urgentSent_choices (s : State) (u : Urgent) : (s.urgentSent u).choices = s.choices := by
  unfold State.urgentSent; (try dsimp only); (repeat' split) <;> simp

/-! ### State.alarmIf -/

@[simp] theorem State.alarmIf_pending (s : State) (b : Bool) : (s.alarmIf b).pending = s.pending := by
  unfold State.alarmIf; (try dsimp only); (repeat' split) <;> simp
@[simp] theorem State.alarmIf_part (s : State) (b : Bool) : (s.alarmIf b).part = s.part := by
  unfold State.alarmIf; (try dsimp only); (repeat' split) <;> simp
@[simp] theorem State.alarmIf_supply (s : State) (b : Bool) : (s.alarmIf b).supply = s.supply := by
  unfold State.alarmIf; (try dsimp only); (repeat' split) <;> simp
@[simp] theorem State.alarmIf_loader (s : State) (b : Bool) : (s.alarmIf b).loader = s.loader := by
  unfold State.alarmIf; (try dsimp only); (repeat' split) <;> simp
@[simp] theorem State.alarmIf_time (s : State) (b : Bool) : (s.alarmIf b).time = s.time := by
  unfold State.alarmIf; (try dsimp only); (repeat' split) <;> simp
@[simp] theorem State.alarmIf_lines (s : State) (b : Bool) : (s.alarmIf b).lines = s.lines := by
  unfold State.alarmIf; (try dsimp only); (repeat' split) <;> simp
@[simp] theorem State.alarmIf_inviter (s : State) (b : Bool) : (s.alarmIf b).inviter = s.inviter := by
  unfold State.alarmIf; (try dsimp only); (repeat' split) <;> simp
@[simp] theorem State.alarmIf_nodes (s : State) (b : Bool) : (s.alarmIf b).nodes = s.nodes := by
  unfold State.alarmIf; (try dsimp only); (repeat' split) <;> simp
@[simp] theorem State.alarmIf_store (s : State) (b : Bool) : (s.alarmIf b).store = s.store := by
  unfold State.alarmIf; (try dsimp only); (repeat' split) <;> simp
@[simp] theorem State.alarmIf_revoc (s : State) (b : Bool) : (s.alarmIf b).revoc = s.revoc := by
  unfold State.alarmIf; (try dsimp only); (repeat' split) <;> simp
@[simp] theorem State.alarmIf_minibar (s : State) (b : Bool) : (s.alarmIf b).minibar = s.minibar := by
  unfold State.alarmIf; (try dsimp only); (repeat' split) <;> simp
@[simp] theorem State.alarmIf_journal (s : State) (b : Bool) : (s.alarmIf b).journal = s.journal := by
  unfold State.alarmIf; (try dsimp only); (repeat' split) <;> simp
@[simp] theorem State.alarmIf_choices (s : State) (b : Bool) : (s.alarmIf b).choices = s.choices := by
  unfold State.alarmIf; (try dsimp only); (repeat' split) <;> simp

/-! ### State.localDecision -/

@[simp] theorem State.localDecision_pending (s : State) (a p : Nat) (g : Bool) : (s.localDecision a p g).pending = s.pending := by
  unfold State.localDecision; (try dsimp only); (repeat' split) <;> simp
@[simp] theorem State.localDecision_part (s : State) (a p : Nat) (g : Bool) : (s.localDecision a p g).part = s.part := by
  unfold State.localDecision; (try dsimp only); (repeat' split) <;> simp
@[simp] theorem State.localDecision_supply (s : State) (a p : Nat) (g : Bool) : (s.localDecision a p g).supply = s.supply := by
  unfold State.localDecision; (try dsimp only); (repeat' split) <;> simp
@[simp] theorem State.localDecision_loader (s : State) (a p : Nat) (g : Bool) : (s.localDecision a p g).loader = s.loader := by
  unfold State.localDecision; (try dsimp only); (repeat' split) <;> simp
@[simp] theorem State.localDecision_time (s : State) (a p : Nat) (g : Bool) : (s.localDecision a p g).time = s.time := by
  unfold State.localDecision; (try dsimp only); (repeat' split) <;> simp
@[simp] theorem State.localDecision_lines (s : State) (a p : Nat) (g : Bool) : (s.localDecision a p g).lines = s.lines := by
  unfold State.localDecision; (try dsimp only); (repeat' split) <;> simp
@[simp] theorem State.localDecision_inviter (s : State) (a p : Nat) (g : Bool) : (s.localDecision a p g).inviter = s.inviter := by
  unfold State.localDecision; (try dsimp only); (repeat' split) <;> simp
@[simp] theorem State.localDecision_store (s : State) (a p : Nat) (g : Bool) : (s.localDecision a p g).store = s.store := by
  unfold State.localDecision; (try dsimp only); (repeat' split) <;> simp
@[simp] theorem State.localDecision_revoc (s : State) (a p : Nat) (g : Bool) : (s.localDecision a p g).revoc = s.revoc := by
  unfold State.localDecision; (try dsimp only); (repeat' split) <;> simp
@[simp] theorem State.localDecision_minibar (s : State) (a p : Nat) (g : Bool) : (s.localDecision a p g).minibar = s.minibar := by
  unfold State.localDecision; (try dsimp only); (repeat' split) <;> simp
@[simp] theorem State.localDecision_choices (s : State) (a p : Nat) (g : Bool) : (s.localDecision a p g).choices = s.choices := by
  unfold State.localDecision; (try dsimp only); (repeat' split) <;> simp

/-! ### State.doorAlarm -/

@[simp] theorem State.doorAlarm_pending (s : State) (k : RecKind) (a : Nat) : (s.doorAlarm k a).pending = s.pending := by simp [State.doorAlarm]
@[simp] theorem State.doorAlarm_part (s : State) (k : RecKind) (a : Nat) : (s.doorAlarm k a).part = s.part := by simp [State.doorAlarm]
@[simp] theorem State.doorAlarm_supply (s : State) (k : RecKind) (a : Nat) : (s.doorAlarm k a).supply = s.supply := by simp [State.doorAlarm]
@[simp] theorem State.doorAlarm_loader (s : State) (k : RecKind) (a : Nat) : (s.doorAlarm k a).loader = s.loader := by simp [State.doorAlarm]
@[simp] theorem State.doorAlarm_time (s : State) (k : RecKind) (a : Nat) : (s.doorAlarm k a).time = s.time := by simp [State.doorAlarm]
@[simp] theorem State.doorAlarm_lines (s : State) (k : RecKind) (a : Nat) : (s.doorAlarm k a).lines = s.lines := by simp [State.doorAlarm]
@[simp] theorem State.doorAlarm_inviter (s : State) (k : RecKind) (a : Nat) : (s.doorAlarm k a).inviter = s.inviter := by simp [State.doorAlarm]
@[simp] theorem State.doorAlarm_nodes (s : State) (k : RecKind) (a : Nat) : (s.doorAlarm k a).nodes = s.nodes := by simp [State.doorAlarm]
@[simp] theorem State.doorAlarm_store (s : State) (k : RecKind) (a : Nat) : (s.doorAlarm k a).store = s.store := by simp [State.doorAlarm]
@[simp] theorem State.doorAlarm_revoc (s : State) (k : RecKind) (a : Nat) : (s.doorAlarm k a).revoc = s.revoc := by simp [State.doorAlarm]
@[simp] theorem State.doorAlarm_minibar (s : State) (k : RecKind) (a : Nat) : (s.doorAlarm k a).minibar = s.minibar := by simp [State.doorAlarm]
@[simp] theorem State.doorAlarm_choices (s : State) (k : RecKind) (a : Nat) : (s.doorAlarm k a).choices = s.choices := by simp [State.doorAlarm]

/-! ### State.judgePermit -/

@[simp] theorem State.judgePermit_pending (s : State) (a : Nat) : (s.judgePermit a).pending = s.pending := by
  unfold State.judgePermit; (try dsimp only); (repeat' split) <;> simp
@[simp] theorem State.judgePermit_part (s : State) (a : Nat) : (s.judgePermit a).part = s.part := by
  unfold State.judgePermit; (try dsimp only); (repeat' split) <;> simp
@[simp] theorem State.judgePermit_supply (s : State) (a : Nat) : (s.judgePermit a).supply = s.supply := by
  unfold State.judgePermit; (try dsimp only); (repeat' split) <;> simp
@[simp] theorem State.judgePermit_loader (s : State) (a : Nat) : (s.judgePermit a).loader = s.loader := by
  unfold State.judgePermit; (try dsimp only); (repeat' split) <;> simp
@[simp] theorem State.judgePermit_time (s : State) (a : Nat) : (s.judgePermit a).time = s.time := by
  unfold State.judgePermit; (try dsimp only); (repeat' split) <;> simp
@[simp] theorem State.judgePermit_lines (s : State) (a : Nat) : (s.judgePermit a).lines = s.lines := by
  unfold State.judgePermit; (try dsimp only); (repeat' split) <;> simp
@[simp] theorem State.judgePermit_inviter (s : State) (a : Nat) : (s.judgePermit a).inviter = s.inviter := by
  unfold State.judgePermit; (try dsimp only); (repeat' split) <;> simp
@[simp] theorem State.judgePermit_store (s : State) (a : Nat) : (s.judgePermit a).store = s.store := by
  unfold State.judgePermit; (try dsimp only); (repeat' split) <;> simp
@[simp] theorem State.judgePermit_revoc (s : State) (a : Nat) : (s.judgePermit a).revoc = s.revoc := by
  unfold State.judgePermit; (try dsimp only); (repeat' split) <;> simp
@[simp] theorem State.judgePermit_minibar (s : State) (a : Nat) : (s.judgePermit a).minibar = s.minibar := by
  unfold State.judgePermit; (try dsimp only); (repeat' split) <;> simp
@[simp] theorem State.judgePermit_journal (s : State) (a : Nat) : (s.judgePermit a).journal = s.journal := by
  unfold State.judgePermit; (try dsimp only); (repeat' split) <;> simp
@[simp] theorem State.judgePermit_port (s : State) (a : Nat) : (s.judgePermit a).port = s.port := by
  unfold State.judgePermit; (try dsimp only); (repeat' split) <;> simp
@[simp] theorem State.judgePermit_choices (s : State) (a : Nat) : (s.judgePermit a).choices = s.choices := by
  unfold State.judgePermit; (try dsimp only); (repeat' split) <;> simp

/-! ### State.closePermit -/

@[simp] theorem State.closePermit_pending (s : State) (a : Nat) : (s.closePermit a).pending = s.pending := by simp [State.closePermit]
@[simp] theorem State.closePermit_part (s : State) (a : Nat) : (s.closePermit a).part = s.part := by simp [State.closePermit]
@[simp] theorem State.closePermit_supply (s : State) (a : Nat) : (s.closePermit a).supply = s.supply := by simp [State.closePermit]
@[simp] theorem State.closePermit_loader (s : State) (a : Nat) : (s.closePermit a).loader = s.loader := by simp [State.closePermit]
@[simp] theorem State.closePermit_time (s : State) (a : Nat) : (s.closePermit a).time = s.time := by simp [State.closePermit]
@[simp] theorem State.closePermit_lines (s : State) (a : Nat) : (s.closePermit a).lines = s.lines := by simp [State.closePermit]
@[simp] theorem State.closePermit_inviter (s : State) (a : Nat) : (s.closePermit a).inviter = s.inviter := by simp [State.closePermit]
@[simp] theorem State.closePermit_store (s : State) (a : Nat) : (s.closePermit a).store = s.store := by simp [State.closePermit]
@[simp] theorem State.closePermit_revoc (s : State) (a : Nat) : (s.closePermit a).revoc = s.revoc := by simp [State.closePermit]
@[simp] theorem State.closePermit_minibar (s : State) (a : Nat) : (s.closePermit a).minibar = s.minibar := by simp [State.closePermit]
@[simp] theorem State.closePermit_journal (s : State) (a : Nat) : (s.closePermit a).journal = s.journal := by simp [State.closePermit]
@[simp] theorem State.closePermit_port (s : State) (a : Nat) : (s.closePermit a).port = s.port := by simp [State.closePermit]
@[simp] theorem State.closePermit_choices (s : State) (a : Nat) : (s.closePermit a).choices = s.choices := by simp [State.closePermit]

/-! ### State.permitMissed -/

@[simp] theorem State.permitMissed_pending (s : State) (a : Nat) : (s.permitMissed a).pending = s.pending := by
  unfold State.permitMissed; (try dsimp only); (repeat' split) <;> simp
@[simp] theorem State.permitMissed_part (s : State) (a : Nat) : (s.permitMissed a).part = s.part := by
  unfold State.permitMissed; (try dsimp only); (repeat' split) <;> simp
@[simp] theorem State.permitMissed_supply (s : State) (a : Nat) : (s.permitMissed a).supply = s.supply := by
  unfold State.permitMissed; (try dsimp only); (repeat' split) <;> simp
@[simp] theorem State.permitMissed_loader (s : State) (a : Nat) : (s.permitMissed a).loader = s.loader := by
  unfold State.permitMissed; (try dsimp only); (repeat' split) <;> simp
@[simp] theorem State.permitMissed_time (s : State) (a : Nat) : (s.permitMissed a).time = s.time := by
  unfold State.permitMissed; (try dsimp only); (repeat' split) <;> simp
@[simp] theorem State.permitMissed_lines (s : State) (a : Nat) : (s.permitMissed a).lines = s.lines := by
  unfold State.permitMissed; (try dsimp only); (repeat' split) <;> simp
@[simp] theorem State.permitMissed_inviter (s : State) (a : Nat) : (s.permitMissed a).inviter = s.inviter := by
  unfold State.permitMissed; (try dsimp only); (repeat' split) <;> simp
@[simp] theorem State.permitMissed_store (s : State) (a : Nat) : (s.permitMissed a).store = s.store := by
  unfold State.permitMissed; (try dsimp only); (repeat' split) <;> simp
@[simp] theorem State.permitMissed_revoc (s : State) (a : Nat) : (s.permitMissed a).revoc = s.revoc := by
  unfold State.permitMissed; (try dsimp only); (repeat' split) <;> simp
@[simp] theorem State.permitMissed_minibar (s : State) (a : Nat) : (s.permitMissed a).minibar = s.minibar := by
  unfold State.permitMissed; (try dsimp only); (repeat' split) <;> simp
@[simp] theorem State.permitMissed_journal (s : State) (a : Nat) : (s.permitMissed a).journal = s.journal := by
  unfold State.permitMissed; (try dsimp only); (repeat' split) <;> simp
@[simp] theorem State.permitMissed_port (s : State) (a : Nat) : (s.permitMissed a).port = s.port := by
  unfold State.permitMissed; (try dsimp only); (repeat' split) <;> simp
@[simp] theorem State.permitMissed_choices (s : State) (a : Nat) : (s.permitMissed a).choices = s.choices := by
  unfold State.permitMissed; (try dsimp only); (repeat' split) <;> simp

/-! ### State.takeMark -/

@[simp] theorem State.takeMark_pending (s : State) (a x w : Nat) : (s.takeMark a x w).pending = s.pending := by simp [State.takeMark]
@[simp] theorem State.takeMark_part (s : State) (a x w : Nat) : (s.takeMark a x w).part = s.part := by simp [State.takeMark]
@[simp] theorem State.takeMark_supply (s : State) (a x w : Nat) : (s.takeMark a x w).supply = s.supply := by simp [State.takeMark]
@[simp] theorem State.takeMark_loader (s : State) (a x w : Nat) : (s.takeMark a x w).loader = s.loader := by simp [State.takeMark]
@[simp] theorem State.takeMark_time (s : State) (a x w : Nat) : (s.takeMark a x w).time = s.time := by simp [State.takeMark]
@[simp] theorem State.takeMark_lines (s : State) (a x w : Nat) : (s.takeMark a x w).lines = s.lines := by simp [State.takeMark]
@[simp] theorem State.takeMark_inviter (s : State) (a x w : Nat) : (s.takeMark a x w).inviter = s.inviter := by simp [State.takeMark]
@[simp] theorem State.takeMark_store (s : State) (a x w : Nat) : (s.takeMark a x w).store = s.store := by simp [State.takeMark]
@[simp] theorem State.takeMark_revoc (s : State) (a x w : Nat) : (s.takeMark a x w).revoc = s.revoc := by simp [State.takeMark]
@[simp] theorem State.takeMark_minibar (s : State) (a x w : Nat) : (s.takeMark a x w).minibar = s.minibar := by simp [State.takeMark]
@[simp] theorem State.takeMark_journal (s : State) (a x w : Nat) : (s.takeMark a x w).journal = s.journal := by simp [State.takeMark]
@[simp] theorem State.takeMark_port (s : State) (a x w : Nat) : (s.takeMark a x w).port = s.port := by simp [State.takeMark]
@[simp] theorem State.takeMark_choices (s : State) (a x w : Nat) : (s.takeMark a x w).choices = s.choices := by simp [State.takeMark]

/-! ### State.drain -/

@[simp] theorem State.drain_pending (s : State) (a : Nat) (u : Upload) : (s.drain a u).pending = s.pending := by simp [State.drain]
@[simp] theorem State.drain_part (s : State) (a : Nat) (u : Upload) : (s.drain a u).part = s.part := by simp [State.drain]
@[simp] theorem State.drain_supply (s : State) (a : Nat) (u : Upload) : (s.drain a u).supply = s.supply := by simp [State.drain]
@[simp] theorem State.drain_loader (s : State) (a : Nat) (u : Upload) : (s.drain a u).loader = s.loader := by simp [State.drain]
@[simp] theorem State.drain_time (s : State) (a : Nat) (u : Upload) : (s.drain a u).time = s.time := by simp [State.drain]
@[simp] theorem State.drain_lines (s : State) (a : Nat) (u : Upload) : (s.drain a u).lines = s.lines := by simp [State.drain]
@[simp] theorem State.drain_inviter (s : State) (a : Nat) (u : Upload) : (s.drain a u).inviter = s.inviter := by simp [State.drain]
@[simp] theorem State.drain_store (s : State) (a : Nat) (u : Upload) : (s.drain a u).store = s.store := by simp [State.drain]
@[simp] theorem State.drain_revoc (s : State) (a : Nat) (u : Upload) : (s.drain a u).revoc = s.revoc := by simp [State.drain]
@[simp] theorem State.drain_minibar (s : State) (a : Nat) (u : Upload) : (s.drain a u).minibar = s.minibar := by simp [State.drain]
@[simp] theorem State.drain_journal (s : State) (a : Nat) (u : Upload) : (s.drain a u).journal = s.journal := by simp [State.drain]
@[simp] theorem State.drain_port (s : State) (a : Nat) (u : Upload) : (s.drain a u).port = s.port := by simp [State.drain]
@[simp] theorem State.drain_choices (s : State) (a : Nat) (u : Upload) : (s.drain a u).choices = s.choices := by simp [State.drain]

/-! ### State.pendingFlag -/

@[simp] theorem State.pendingFlag_pending (s : State) (a : Nat) (b : Bool) (x w : Nat) (p : Permit) : (s.pendingFlag a b x w p).pending = s.pending := by
  unfold State.pendingFlag; (try dsimp only); (repeat' split) <;> simp
@[simp] theorem State.pendingFlag_part (s : State) (a : Nat) (b : Bool) (x w : Nat) (p : Permit) : (s.pendingFlag a b x w p).part = s.part := by
  unfold State.pendingFlag; (try dsimp only); (repeat' split) <;> simp
@[simp] theorem State.pendingFlag_supply (s : State) (a : Nat) (b : Bool) (x w : Nat) (p : Permit) : (s.pendingFlag a b x w p).supply = s.supply := by
  unfold State.pendingFlag; (try dsimp only); (repeat' split) <;> simp
@[simp] theorem State.pendingFlag_loader (s : State) (a : Nat) (b : Bool) (x w : Nat) (p : Permit) : (s.pendingFlag a b x w p).loader = s.loader := by
  unfold State.pendingFlag; (try dsimp only); (repeat' split) <;> simp
@[simp] theorem State.pendingFlag_time (s : State) (a : Nat) (b : Bool) (x w : Nat) (p : Permit) : (s.pendingFlag a b x w p).time = s.time := by
  unfold State.pendingFlag; (try dsimp only); (repeat' split) <;> simp
@[simp] theorem State.pendingFlag_lines (s : State) (a : Nat) (b : Bool) (x w : Nat) (p : Permit) : (s.pendingFlag a b x w p).lines = s.lines := by
  unfold State.pendingFlag; (try dsimp only); (repeat' split) <;> simp
@[simp] theorem State.pendingFlag_inviter (s : State) (a : Nat) (b : Bool) (x w : Nat) (p : Permit) : (s.pendingFlag a b x w p).inviter = s.inviter := by
  unfold State.pendingFlag; (try dsimp only); (repeat' split) <;> simp
@[simp] theorem State.pendingFlag_store (s : State) (a : Nat) (b : Bool) (x w : Nat) (p : Permit) : (s.pendingFlag a b x w p).store = s.store := by
  unfold State.pendingFlag; (try dsimp only); (repeat' split) <;> simp
@[simp] theorem State.pendingFlag_revoc (s : State) (a : Nat) (b : Bool) (x w : Nat) (p : Permit) : (s.pendingFlag a b x w p).revoc = s.revoc := by
  unfold State.pendingFlag; (try dsimp only); (repeat' split) <;> simp
@[simp] theorem State.pendingFlag_minibar (s : State) (a : Nat) (b : Bool) (x w : Nat) (p : Permit) : (s.pendingFlag a b x w p).minibar = s.minibar := by
  unfold State.pendingFlag; (try dsimp only); (repeat' split) <;> simp
@[simp] theorem State.pendingFlag_journal (s : State) (a : Nat) (b : Bool) (x w : Nat) (p : Permit) : (s.pendingFlag a b x w p).journal = s.journal := by
  unfold State.pendingFlag; (try dsimp only); (repeat' split) <;> simp
@[simp] theorem State.pendingFlag_port (s : State) (a : Nat) (b : Bool) (x w : Nat) (p : Permit) : (s.pendingFlag a b x w p).port = s.port := by
  unfold State.pendingFlag; (try dsimp only); (repeat' split) <;> simp
@[simp] theorem State.pendingFlag_choices (s : State) (a : Nat) (b : Bool) (x w : Nat) (p : Permit) : (s.pendingFlag a b x w p).choices = s.choices := by
  unfold State.pendingFlag; (try dsimp only); (repeat' split) <;> simp

/-! ### State.journalOffline -/

@[simp] theorem State.journalOffline_pending (s : State) (n : Node) (r : OfflineRecord) (t : RecordTime) : (s.journalOffline n r t).pending = s.pending := by simp [State.journalOffline]
@[simp] theorem State.journalOffline_part (s : State) (n : Node) (r : OfflineRecord) (t : RecordTime) : (s.journalOffline n r t).part = s.part := by simp [State.journalOffline]
@[simp] theorem State.journalOffline_supply (s : State) (n : Node) (r : OfflineRecord) (t : RecordTime) : (s.journalOffline n r t).supply = s.supply := by simp [State.journalOffline]
@[simp] theorem State.journalOffline_loader (s : State) (n : Node) (r : OfflineRecord) (t : RecordTime) : (s.journalOffline n r t).loader = s.loader := by simp [State.journalOffline]
@[simp] theorem State.journalOffline_time (s : State) (n : Node) (r : OfflineRecord) (t : RecordTime) : (s.journalOffline n r t).time = s.time := by simp [State.journalOffline]
@[simp] theorem State.journalOffline_lines (s : State) (n : Node) (r : OfflineRecord) (t : RecordTime) : (s.journalOffline n r t).lines = s.lines := by simp [State.journalOffline]
@[simp] theorem State.journalOffline_inviter (s : State) (n : Node) (r : OfflineRecord) (t : RecordTime) : (s.journalOffline n r t).inviter = s.inviter := by simp [State.journalOffline]
@[simp] theorem State.journalOffline_nodes (s : State) (n : Node) (r : OfflineRecord) (t : RecordTime) : (s.journalOffline n r t).nodes = s.nodes := by simp [State.journalOffline]
@[simp] theorem State.journalOffline_store (s : State) (n : Node) (r : OfflineRecord) (t : RecordTime) : (s.journalOffline n r t).store = s.store := by simp [State.journalOffline]
@[simp] theorem State.journalOffline_revoc (s : State) (n : Node) (r : OfflineRecord) (t : RecordTime) : (s.journalOffline n r t).revoc = s.revoc := by simp [State.journalOffline]
@[simp] theorem State.journalOffline_minibar (s : State) (n : Node) (r : OfflineRecord) (t : RecordTime) : (s.journalOffline n r t).minibar = s.minibar := by simp [State.journalOffline]
@[simp] theorem State.journalOffline_choices (s : State) (n : Node) (r : OfflineRecord) (t : RecordTime) : (s.journalOffline n r t).choices = s.choices := by simp [State.journalOffline]

/-! ### State.offlineRecord -/

@[simp] theorem State.offlineRecord_pending (s : State) (a : Nat) (r : OfflineRecord) : (s.offlineRecord a r).pending = s.pending := by
  unfold State.offlineRecord; (try dsimp only); (repeat' split) <;> simp
@[simp] theorem State.offlineRecord_part (s : State) (a : Nat) (r : OfflineRecord) : (s.offlineRecord a r).part = s.part := by
  unfold State.offlineRecord; (try dsimp only); (repeat' split) <;> simp
@[simp] theorem State.offlineRecord_supply (s : State) (a : Nat) (r : OfflineRecord) : (s.offlineRecord a r).supply = s.supply := by
  unfold State.offlineRecord; (try dsimp only); (repeat' split) <;> simp
@[simp] theorem State.offlineRecord_loader (s : State) (a : Nat) (r : OfflineRecord) : (s.offlineRecord a r).loader = s.loader := by
  unfold State.offlineRecord; (try dsimp only); (repeat' split) <;> simp
@[simp] theorem State.offlineRecord_time (s : State) (a : Nat) (r : OfflineRecord) : (s.offlineRecord a r).time = s.time := by
  unfold State.offlineRecord; (try dsimp only); (repeat' split) <;> simp
@[simp] theorem State.offlineRecord_lines (s : State) (a : Nat) (r : OfflineRecord) : (s.offlineRecord a r).lines = s.lines := by
  unfold State.offlineRecord; (try dsimp only); (repeat' split) <;> simp
@[simp] theorem State.offlineRecord_inviter (s : State) (a : Nat) (r : OfflineRecord) : (s.offlineRecord a r).inviter = s.inviter := by
  unfold State.offlineRecord; (try dsimp only); (repeat' split) <;> simp
@[simp] theorem State.offlineRecord_store (s : State) (a : Nat) (r : OfflineRecord) : (s.offlineRecord a r).store = s.store := by
  unfold State.offlineRecord; (try dsimp only); (repeat' split) <;> simp
@[simp] theorem State.offlineRecord_revoc (s : State) (a : Nat) (r : OfflineRecord) : (s.offlineRecord a r).revoc = s.revoc := by
  unfold State.offlineRecord; (try dsimp only); (repeat' split) <;> simp
@[simp] theorem State.offlineRecord_minibar (s : State) (a : Nat) (r : OfflineRecord) : (s.offlineRecord a r).minibar = s.minibar := by
  unfold State.offlineRecord; (try dsimp only); (repeat' split) <;> simp
@[simp] theorem State.offlineRecord_choices (s : State) (a : Nat) (r : OfflineRecord) : (s.offlineRecord a r).choices = s.choices := by
  unfold State.offlineRecord; (try dsimp only); (repeat' split) <;> simp

/-! ### State.chargeFault -/

@[simp] theorem State.chargeFault_pending (s : State) (m a : Nat) (c : Charge) : (State.chargeFault m a s c).pending = s.pending := by simp [State.chargeFault]
@[simp] theorem State.chargeFault_part (s : State) (m a : Nat) (c : Charge) : (State.chargeFault m a s c).part = s.part := by simp [State.chargeFault]
@[simp] theorem State.chargeFault_supply (s : State) (m a : Nat) (c : Charge) : (State.chargeFault m a s c).supply = s.supply := by simp [State.chargeFault]
@[simp] theorem State.chargeFault_loader (s : State) (m a : Nat) (c : Charge) : (State.chargeFault m a s c).loader = s.loader := by simp [State.chargeFault]
@[simp] theorem State.chargeFault_time (s : State) (m a : Nat) (c : Charge) : (State.chargeFault m a s c).time = s.time := by simp [State.chargeFault]
@[simp] theorem State.chargeFault_inviter (s : State) (m a : Nat) (c : Charge) : (State.chargeFault m a s c).inviter = s.inviter := by simp [State.chargeFault]
@[simp] theorem State.chargeFault_nodes (s : State) (m a : Nat) (c : Charge) : (State.chargeFault m a s c).nodes = s.nodes := by simp [State.chargeFault]
@[simp] theorem State.chargeFault_store (s : State) (m a : Nat) (c : Charge) : (State.chargeFault m a s c).store = s.store := by simp [State.chargeFault]
@[simp] theorem State.chargeFault_revoc (s : State) (m a : Nat) (c : Charge) : (State.chargeFault m a s c).revoc = s.revoc := by simp [State.chargeFault]
@[simp] theorem State.chargeFault_minibar (s : State) (m a : Nat) (c : Charge) : (State.chargeFault m a s c).minibar = s.minibar := by simp [State.chargeFault]
@[simp] theorem State.chargeFault_journal (s : State) (m a : Nat) (c : Charge) : (State.chargeFault m a s c).journal = s.journal := by simp [State.chargeFault]
@[simp] theorem State.chargeFault_port (s : State) (m a : Nat) (c : Charge) : (State.chargeFault m a s c).port = s.port := by simp [State.chargeFault]
@[simp] theorem State.chargeFault_choices (s : State) (m a : Nat) (c : Charge) : (State.chargeFault m a s c).choices = s.choices := by simp [State.chargeFault]

/-! ### State.chargeFaults -/

@[simp] theorem State.chargeFaults_pending (s : State) (m a : Nat) (cs : List Charge) : (s.chargeFaults m a cs).pending = s.pending := by
  unfold State.chargeFaults; (repeat' split) <;>
    exact State.foldl_frame (·.pending) _ (fun _ _ => by simp) _ _
@[simp] theorem State.chargeFaults_part (s : State) (m a : Nat) (cs : List Charge) : (s.chargeFaults m a cs).part = s.part := by
  unfold State.chargeFaults; (repeat' split) <;>
    exact State.foldl_frame (·.part) _ (fun _ _ => by simp) _ _
@[simp] theorem State.chargeFaults_supply (s : State) (m a : Nat) (cs : List Charge) : (s.chargeFaults m a cs).supply = s.supply := by
  unfold State.chargeFaults; (repeat' split) <;>
    exact State.foldl_frame (·.supply) _ (fun _ _ => by simp) _ _
@[simp] theorem State.chargeFaults_loader (s : State) (m a : Nat) (cs : List Charge) : (s.chargeFaults m a cs).loader = s.loader := by
  unfold State.chargeFaults; (repeat' split) <;>
    exact State.foldl_frame (·.loader) _ (fun _ _ => by simp) _ _
@[simp] theorem State.chargeFaults_time (s : State) (m a : Nat) (cs : List Charge) : (s.chargeFaults m a cs).time = s.time := by
  unfold State.chargeFaults; (repeat' split) <;>
    exact State.foldl_frame (·.time) _ (fun _ _ => by simp) _ _
@[simp] theorem State.chargeFaults_inviter (s : State) (m a : Nat) (cs : List Charge) : (s.chargeFaults m a cs).inviter = s.inviter := by
  unfold State.chargeFaults; (repeat' split) <;>
    exact State.foldl_frame (·.inviter) _ (fun _ _ => by simp) _ _
@[simp] theorem State.chargeFaults_nodes (s : State) (m a : Nat) (cs : List Charge) : (s.chargeFaults m a cs).nodes = s.nodes := by
  unfold State.chargeFaults; (repeat' split) <;>
    exact State.foldl_frame (·.nodes) _ (fun _ _ => by simp) _ _
@[simp] theorem State.chargeFaults_store (s : State) (m a : Nat) (cs : List Charge) : (s.chargeFaults m a cs).store = s.store := by
  unfold State.chargeFaults; (repeat' split) <;>
    exact State.foldl_frame (·.store) _ (fun _ _ => by simp) _ _
@[simp] theorem State.chargeFaults_revoc (s : State) (m a : Nat) (cs : List Charge) : (s.chargeFaults m a cs).revoc = s.revoc := by
  unfold State.chargeFaults; (repeat' split) <;>
    exact State.foldl_frame (·.revoc) _ (fun _ _ => by simp) _ _
@[simp] theorem State.chargeFaults_minibar (s : State) (m a : Nat) (cs : List Charge) : (s.chargeFaults m a cs).minibar = s.minibar := by
  unfold State.chargeFaults; (repeat' split) <;>
    exact State.foldl_frame (·.minibar) _ (fun _ _ => by simp) _ _
@[simp] theorem State.chargeFaults_journal (s : State) (m a : Nat) (cs : List Charge) : (s.chargeFaults m a cs).journal = s.journal := by
  unfold State.chargeFaults; (repeat' split) <;>
    exact State.foldl_frame (·.journal) _ (fun _ _ => by simp) _ _
@[simp] theorem State.chargeFaults_port (s : State) (m a : Nat) (cs : List Charge) : (s.chargeFaults m a cs).port = s.port := by
  unfold State.chargeFaults; (repeat' split) <;>
    exact State.foldl_frame (·.port) _ (fun _ _ => by simp) _ _

/-! ### State.seenIf -/

@[simp] theorem State.seenIf_pending (s : State) (l : LineId) (j : CopyJudgement) : (s.seenIf l j).pending = s.pending := by
  unfold State.seenIf; (try dsimp only); (repeat' split) <;> simp
@[simp] theorem State.seenIf_part (s : State) (l : LineId) (j : CopyJudgement) : (s.seenIf l j).part = s.part := by
  unfold State.seenIf; (try dsimp only); (repeat' split) <;> simp
@[simp] theorem State.seenIf_supply (s : State) (l : LineId) (j : CopyJudgement) : (s.seenIf l j).supply = s.supply := by
  unfold State.seenIf; (try dsimp only); (repeat' split) <;> simp
@[simp] theorem State.seenIf_loader (s : State) (l : LineId) (j : CopyJudgement) : (s.seenIf l j).loader = s.loader := by
  unfold State.seenIf; (try dsimp only); (repeat' split) <;> simp
@[simp] theorem State.seenIf_time (s : State) (l : LineId) (j : CopyJudgement) : (s.seenIf l j).time = s.time := by
  unfold State.seenIf; (try dsimp only); (repeat' split) <;> simp
@[simp] theorem State.seenIf_inviter (s : State) (l : LineId) (j : CopyJudgement) : (s.seenIf l j).inviter = s.inviter := by
  unfold State.seenIf; (try dsimp only); (repeat' split) <;> simp
@[simp] theorem State.seenIf_nodes (s : State) (l : LineId) (j : CopyJudgement) : (s.seenIf l j).nodes = s.nodes := by
  unfold State.seenIf; (try dsimp only); (repeat' split) <;> simp
@[simp] theorem State.seenIf_store (s : State) (l : LineId) (j : CopyJudgement) : (s.seenIf l j).store = s.store := by
  unfold State.seenIf; (try dsimp only); (repeat' split) <;> simp
@[simp] theorem State.seenIf_revoc (s : State) (l : LineId) (j : CopyJudgement) : (s.seenIf l j).revoc = s.revoc := by
  unfold State.seenIf; (try dsimp only); (repeat' split) <;> simp
@[simp] theorem State.seenIf_minibar (s : State) (l : LineId) (j : CopyJudgement) : (s.seenIf l j).minibar = s.minibar := by
  unfold State.seenIf; (try dsimp only); (repeat' split) <;> simp
@[simp] theorem State.seenIf_journal (s : State) (l : LineId) (j : CopyJudgement) : (s.seenIf l j).journal = s.journal := by
  unfold State.seenIf; (try dsimp only); (repeat' split) <;> simp
@[simp] theorem State.seenIf_port (s : State) (l : LineId) (j : CopyJudgement) : (s.seenIf l j).port = s.port := by
  unfold State.seenIf; (try dsimp only); (repeat' split) <;> simp
@[simp] theorem State.seenIf_choices (s : State) (l : LineId) (j : CopyJudgement) : (s.seenIf l j).choices = s.choices := by
  unfold State.seenIf; (try dsimp only); (repeat' split) <;> simp

/-! ### State.goodAnswerState -/

@[simp] theorem State.goodAnswerState_pending (s : State) (n : Node) : (s.goodAnswerState n).pending = s.pending := by
  unfold State.goodAnswerState; (try dsimp only); (repeat' split) <;> simp
@[simp] theorem State.goodAnswerState_part (s : State) (n : Node) : (s.goodAnswerState n).part = s.part := by
  unfold State.goodAnswerState; (try dsimp only); (repeat' split) <;> simp
@[simp] theorem State.goodAnswerState_supply (s : State) (n : Node) : (s.goodAnswerState n).supply = s.supply := by
  unfold State.goodAnswerState; (try dsimp only); (repeat' split) <;> simp
@[simp] theorem State.goodAnswerState_loader (s : State) (n : Node) : (s.goodAnswerState n).loader = s.loader := by
  unfold State.goodAnswerState; (try dsimp only); (repeat' split) <;> simp
@[simp] theorem State.goodAnswerState_time (s : State) (n : Node) : (s.goodAnswerState n).time = s.time := by
  unfold State.goodAnswerState; (try dsimp only); (repeat' split) <;> simp
@[simp] theorem State.goodAnswerState_lines (s : State) (n : Node) : (s.goodAnswerState n).lines = s.lines := by
  unfold State.goodAnswerState; (try dsimp only); (repeat' split) <;> simp
@[simp] theorem State.goodAnswerState_inviter (s : State) (n : Node) : (s.goodAnswerState n).inviter = s.inviter := by
  unfold State.goodAnswerState; (try dsimp only); (repeat' split) <;> simp
@[simp] theorem State.goodAnswerState_store (s : State) (n : Node) : (s.goodAnswerState n).store = s.store := by
  unfold State.goodAnswerState; (try dsimp only); (repeat' split) <;> simp
@[simp] theorem State.goodAnswerState_revoc (s : State) (n : Node) : (s.goodAnswerState n).revoc = s.revoc := by
  unfold State.goodAnswerState; (try dsimp only); (repeat' split) <;> simp
@[simp] theorem State.goodAnswerState_minibar (s : State) (n : Node) : (s.goodAnswerState n).minibar = s.minibar := by
  unfold State.goodAnswerState; (try dsimp only); (repeat' split) <;> simp
@[simp] theorem State.goodAnswerState_choices (s : State) (n : Node) : (s.goodAnswerState n).choices = s.choices := by
  unfold State.goodAnswerState; (try dsimp only); (repeat' split) <;> simp

/-! ### State.nodeChangeIf -/

@[simp] theorem State.nodeChangeIf_pending (s : State) (b : Bool) : (s.nodeChangeIf b).pending = s.pending := by
  unfold State.nodeChangeIf; (try dsimp only); (repeat' split) <;> simp
@[simp] theorem State.nodeChangeIf_part (s : State) (b : Bool) : (s.nodeChangeIf b).part = s.part := by
  unfold State.nodeChangeIf; (try dsimp only); (repeat' split) <;> simp
@[simp] theorem State.nodeChangeIf_supply (s : State) (b : Bool) : (s.nodeChangeIf b).supply = s.supply := by
  unfold State.nodeChangeIf; (try dsimp only); (repeat' split) <;> simp
@[simp] theorem State.nodeChangeIf_loader (s : State) (b : Bool) : (s.nodeChangeIf b).loader = s.loader := by
  unfold State.nodeChangeIf; (try dsimp only); (repeat' split) <;> simp
@[simp] theorem State.nodeChangeIf_time (s : State) (b : Bool) : (s.nodeChangeIf b).time = s.time := by
  unfold State.nodeChangeIf; (try dsimp only); (repeat' split) <;> simp
@[simp] theorem State.nodeChangeIf_lines (s : State) (b : Bool) : (s.nodeChangeIf b).lines = s.lines := by
  unfold State.nodeChangeIf; (try dsimp only); (repeat' split) <;> simp
@[simp] theorem State.nodeChangeIf_inviter (s : State) (b : Bool) : (s.nodeChangeIf b).inviter = s.inviter := by
  unfold State.nodeChangeIf; (try dsimp only); (repeat' split) <;> simp
@[simp] theorem State.nodeChangeIf_nodes (s : State) (b : Bool) : (s.nodeChangeIf b).nodes = s.nodes := by
  unfold State.nodeChangeIf; (try dsimp only); (repeat' split) <;> simp
@[simp] theorem State.nodeChangeIf_store (s : State) (b : Bool) : (s.nodeChangeIf b).store = s.store := by
  unfold State.nodeChangeIf; (try dsimp only); (repeat' split) <;> simp
@[simp] theorem State.nodeChangeIf_revoc (s : State) (b : Bool) : (s.nodeChangeIf b).revoc = s.revoc := by
  unfold State.nodeChangeIf; (try dsimp only); (repeat' split) <;> simp
@[simp] theorem State.nodeChangeIf_minibar (s : State) (b : Bool) : (s.nodeChangeIf b).minibar = s.minibar := by
  unfold State.nodeChangeIf; (try dsimp only); (repeat' split) <;> simp
@[simp] theorem State.nodeChangeIf_journal (s : State) (b : Bool) : (s.nodeChangeIf b).journal = s.journal := by
  unfold State.nodeChangeIf; (try dsimp only); (repeat' split) <;> simp
@[simp] theorem State.nodeChangeIf_choices (s : State) (b : Bool) : (s.nodeChangeIf b).choices = s.choices := by
  unfold State.nodeChangeIf; (try dsimp only); (repeat' split) <;> simp

/-! ### State.storeStatus -/

@[simp] theorem State.storeStatus_pending (s : State) (a : Nat) (b : StatusBits) : (s.storeStatus a b).pending = s.pending := by
  unfold State.storeStatus; (try dsimp only); (repeat' split) <;> simp
@[simp] theorem State.storeStatus_part (s : State) (a : Nat) (b : StatusBits) : (s.storeStatus a b).part = s.part := by
  unfold State.storeStatus; (try dsimp only); (repeat' split) <;> simp
@[simp] theorem State.storeStatus_supply (s : State) (a : Nat) (b : StatusBits) : (s.storeStatus a b).supply = s.supply := by
  unfold State.storeStatus; (try dsimp only); (repeat' split) <;> simp
@[simp] theorem State.storeStatus_loader (s : State) (a : Nat) (b : StatusBits) : (s.storeStatus a b).loader = s.loader := by
  unfold State.storeStatus; (try dsimp only); (repeat' split) <;> simp
@[simp] theorem State.storeStatus_time (s : State) (a : Nat) (b : StatusBits) : (s.storeStatus a b).time = s.time := by
  unfold State.storeStatus; (try dsimp only); (repeat' split) <;> simp
@[simp] theorem State.storeStatus_lines (s : State) (a : Nat) (b : StatusBits) : (s.storeStatus a b).lines = s.lines := by
  unfold State.storeStatus; (try dsimp only); (repeat' split) <;> simp
@[simp] theorem State.storeStatus_inviter (s : State) (a : Nat) (b : StatusBits) : (s.storeStatus a b).inviter = s.inviter := by
  unfold State.storeStatus; (try dsimp only); (repeat' split) <;> simp
@[simp] theorem State.storeStatus_store (s : State) (a : Nat) (b : StatusBits) : (s.storeStatus a b).store = s.store := by
  unfold State.storeStatus; (try dsimp only); (repeat' split) <;> simp
@[simp] theorem State.storeStatus_revoc (s : State) (a : Nat) (b : StatusBits) : (s.storeStatus a b).revoc = s.revoc := by
  unfold State.storeStatus; (try dsimp only); (repeat' split) <;> simp
@[simp] theorem State.storeStatus_minibar (s : State) (a : Nat) (b : StatusBits) : (s.storeStatus a b).minibar = s.minibar := by
  unfold State.storeStatus; (try dsimp only); (repeat' split) <;> simp
@[simp] theorem State.storeStatus_journal (s : State) (a : Nat) (b : StatusBits) : (s.storeStatus a b).journal = s.journal := by
  unfold State.storeStatus; (try dsimp only); (repeat' split) <;> simp
@[simp] theorem State.storeStatus_choices (s : State) (a : Nat) (b : StatusBits) : (s.storeStatus a b).choices = s.choices := by
  unfold State.storeStatus; (try dsimp only); (repeat' split) <;> simp

/-! ### State.clockReading -/

@[simp] theorem State.clockReading_pending (s : State) (a : Nat) (r : Round) (x : Answer) : (s.clockReading a r x).pending = s.pending := by simp [State.clockReading]
@[simp] theorem State.clockReading_part (s : State) (a : Nat) (r : Round) (x : Answer) : (s.clockReading a r x).part = s.part := by simp [State.clockReading]
@[simp] theorem State.clockReading_supply (s : State) (a : Nat) (r : Round) (x : Answer) : (s.clockReading a r x).supply = s.supply := by simp [State.clockReading]
@[simp] theorem State.clockReading_loader (s : State) (a : Nat) (r : Round) (x : Answer) : (s.clockReading a r x).loader = s.loader := by simp [State.clockReading]
@[simp] theorem State.clockReading_time (s : State) (a : Nat) (r : Round) (x : Answer) : (s.clockReading a r x).time = s.time := by simp [State.clockReading]
@[simp] theorem State.clockReading_lines (s : State) (a : Nat) (r : Round) (x : Answer) : (s.clockReading a r x).lines = s.lines := by simp [State.clockReading]
@[simp] theorem State.clockReading_inviter (s : State) (a : Nat) (r : Round) (x : Answer) : (s.clockReading a r x).inviter = s.inviter := by simp [State.clockReading]
@[simp] theorem State.clockReading_store (s : State) (a : Nat) (r : Round) (x : Answer) : (s.clockReading a r x).store = s.store := by simp [State.clockReading]
@[simp] theorem State.clockReading_revoc (s : State) (a : Nat) (r : Round) (x : Answer) : (s.clockReading a r x).revoc = s.revoc := by simp [State.clockReading]
@[simp] theorem State.clockReading_minibar (s : State) (a : Nat) (r : Round) (x : Answer) : (s.clockReading a r x).minibar = s.minibar := by simp [State.clockReading]
@[simp] theorem State.clockReading_journal (s : State) (a : Nat) (r : Round) (x : Answer) : (s.clockReading a r x).journal = s.journal := by simp [State.clockReading]
@[simp] theorem State.clockReading_choices (s : State) (a : Nat) (r : Round) (x : Answer) : (s.clockReading a r x).choices = s.choices := by simp [State.clockReading]

/-! ### State.presentation -/

@[simp] theorem State.presentation_pending (s : State) (a : Nat) (r : Round) (p : Option Presentation) : (s.presentation a r p).pending = s.pending := by
  unfold State.presentation; (try dsimp only); (repeat' split) <;> simp
@[simp] theorem State.presentation_part (s : State) (a : Nat) (r : Round) (p : Option Presentation) : (s.presentation a r p).part = s.part := by
  unfold State.presentation; (try dsimp only); (repeat' split) <;> simp
@[simp] theorem State.presentation_supply (s : State) (a : Nat) (r : Round) (p : Option Presentation) : (s.presentation a r p).supply = s.supply := by
  unfold State.presentation; (try dsimp only); (repeat' split) <;> simp
@[simp] theorem State.presentation_loader (s : State) (a : Nat) (r : Round) (p : Option Presentation) : (s.presentation a r p).loader = s.loader := by
  unfold State.presentation; (try dsimp only); (repeat' split) <;> simp
@[simp] theorem State.presentation_time (s : State) (a : Nat) (r : Round) (p : Option Presentation) : (s.presentation a r p).time = s.time := by
  unfold State.presentation; (try dsimp only); (repeat' split) <;> simp
@[simp] theorem State.presentation_inviter (s : State) (a : Nat) (r : Round) (p : Option Presentation) : (s.presentation a r p).inviter = s.inviter := by
  unfold State.presentation; (try dsimp only); (repeat' split) <;> simp
@[simp] theorem State.presentation_revoc (s : State) (a : Nat) (r : Round) (p : Option Presentation) : (s.presentation a r p).revoc = s.revoc := by
  unfold State.presentation; (try dsimp only); (repeat' split) <;> simp
@[simp] theorem State.presentation_minibar (s : State) (a : Nat) (r : Round) (p : Option Presentation) : (s.presentation a r p).minibar = s.minibar := by
  unfold State.presentation; (try dsimp only); (repeat' split) <;> simp
@[simp] theorem State.presentation_choices (s : State) (a : Nat) (r : Round) (p : Option Presentation) : (s.presentation a r p).choices = s.choices := by
  unfold State.presentation; (try dsimp only); (repeat' split) <;> simp

/-! ### State.item -/

@[simp] theorem State.item_pending (s : State) (a : Nat) (i : Item) : (State.item a s i).pending = s.pending := by
  unfold State.item; (try dsimp only); (repeat' split) <;> simp
@[simp] theorem State.item_part (s : State) (a : Nat) (i : Item) : (State.item a s i).part = s.part := by
  unfold State.item; (try dsimp only); (repeat' split) <;> simp
@[simp] theorem State.item_supply (s : State) (a : Nat) (i : Item) : (State.item a s i).supply = s.supply := by
  unfold State.item; (try dsimp only); (repeat' split) <;> simp
@[simp] theorem State.item_loader (s : State) (a : Nat) (i : Item) : (State.item a s i).loader = s.loader := by
  unfold State.item; (try dsimp only); (repeat' split) <;> simp
@[simp] theorem State.item_time (s : State) (a : Nat) (i : Item) : (State.item a s i).time = s.time := by
  unfold State.item; (try dsimp only); (repeat' split) <;> simp
@[simp] theorem State.item_lines (s : State) (a : Nat) (i : Item) : (State.item a s i).lines = s.lines := by
  unfold State.item; (try dsimp only); (repeat' split) <;> simp
@[simp] theorem State.item_inviter (s : State) (a : Nat) (i : Item) : (State.item a s i).inviter = s.inviter := by
  unfold State.item; (try dsimp only); (repeat' split) <;> simp
@[simp] theorem State.item_store (s : State) (a : Nat) (i : Item) : (State.item a s i).store = s.store := by
  unfold State.item; (try dsimp only); (repeat' split) <;> simp
@[simp] theorem State.item_revoc (s : State) (a : Nat) (i : Item) : (State.item a s i).revoc = s.revoc := by
  unfold State.item; (try dsimp only); (repeat' split) <;> simp
@[simp] theorem State.item_choices (s : State) (a : Nat) (i : Item) : (State.item a s i).choices = s.choices := by
  unfold State.item; (try dsimp only); (repeat' split) <;> simp

/-! ### State.probationTest -/

@[simp] theorem State.probationTest_pending (s : State) (a : Nat) (b : Bool) : (s.probationTest a b).pending = s.pending := by
  unfold State.probationTest; (try dsimp only); (repeat' split) <;> simp
@[simp] theorem State.probationTest_part (s : State) (a : Nat) (b : Bool) : (s.probationTest a b).part = s.part := by
  unfold State.probationTest; (try dsimp only); (repeat' split) <;> simp
@[simp] theorem State.probationTest_supply (s : State) (a : Nat) (b : Bool) : (s.probationTest a b).supply = s.supply := by
  unfold State.probationTest; (try dsimp only); (repeat' split) <;> simp
@[simp] theorem State.probationTest_loader (s : State) (a : Nat) (b : Bool) : (s.probationTest a b).loader = s.loader := by
  unfold State.probationTest; (try dsimp only); (repeat' split) <;> simp
@[simp] theorem State.probationTest_time (s : State) (a : Nat) (b : Bool) : (s.probationTest a b).time = s.time := by
  unfold State.probationTest; (try dsimp only); (repeat' split) <;> simp
@[simp] theorem State.probationTest_lines (s : State) (a : Nat) (b : Bool) : (s.probationTest a b).lines = s.lines := by
  unfold State.probationTest; (try dsimp only); (repeat' split) <;> simp
@[simp] theorem State.probationTest_inviter (s : State) (a : Nat) (b : Bool) : (s.probationTest a b).inviter = s.inviter := by
  unfold State.probationTest; (try dsimp only); (repeat' split) <;> simp
@[simp] theorem State.probationTest_store (s : State) (a : Nat) (b : Bool) : (s.probationTest a b).store = s.store := by
  unfold State.probationTest; (try dsimp only); (repeat' split) <;> simp
@[simp] theorem State.probationTest_revoc (s : State) (a : Nat) (b : Bool) : (s.probationTest a b).revoc = s.revoc := by
  unfold State.probationTest; (try dsimp only); (repeat' split) <;> simp
@[simp] theorem State.probationTest_minibar (s : State) (a : Nat) (b : Bool) : (s.probationTest a b).minibar = s.minibar := by
  unfold State.probationTest; (try dsimp only); (repeat' split) <;> simp
@[simp] theorem State.probationTest_choices (s : State) (a : Nat) (b : Bool) : (s.probationTest a b).choices = s.choices := by
  unfold State.probationTest; (try dsimp only); (repeat' split) <;> simp

/-! ### State.distributeRest -/

@[simp] theorem State.distributeRest_pending (s : State) (a : Nat) (r : Round) (x : Answer) : (s.distributeRest a r x).pending = s.pending := by
  unfold State.distributeRest; dsimp only; rw [State.pendingFlag_pending]
  exact (State.foldl_frame (·.pending) _ (fun _ _ => by simp) _ _).trans (by simp)
@[simp] theorem State.distributeRest_part (s : State) (a : Nat) (r : Round) (x : Answer) : (s.distributeRest a r x).part = s.part := by
  unfold State.distributeRest; dsimp only; rw [State.pendingFlag_part]
  exact (State.foldl_frame (·.part) _ (fun _ _ => by simp) _ _).trans (by simp)
@[simp] theorem State.distributeRest_supply (s : State) (a : Nat) (r : Round) (x : Answer) : (s.distributeRest a r x).supply = s.supply := by
  unfold State.distributeRest; dsimp only; rw [State.pendingFlag_supply]
  exact (State.foldl_frame (·.supply) _ (fun _ _ => by simp) _ _).trans (by simp)
@[simp] theorem State.distributeRest_loader (s : State) (a : Nat) (r : Round) (x : Answer) : (s.distributeRest a r x).loader = s.loader := by
  unfold State.distributeRest; dsimp only; rw [State.pendingFlag_loader]
  exact (State.foldl_frame (·.loader) _ (fun _ _ => by simp) _ _).trans (by simp)
@[simp] theorem State.distributeRest_time (s : State) (a : Nat) (r : Round) (x : Answer) : (s.distributeRest a r x).time = s.time := by
  unfold State.distributeRest; dsimp only; rw [State.pendingFlag_time]
  exact (State.foldl_frame (·.time) _ (fun _ _ => by simp) _ _).trans (by simp)
@[simp] theorem State.distributeRest_inviter (s : State) (a : Nat) (r : Round) (x : Answer) : (s.distributeRest a r x).inviter = s.inviter := by
  unfold State.distributeRest; dsimp only; rw [State.pendingFlag_inviter]
  exact (State.foldl_frame (·.inviter) _ (fun _ _ => by simp) _ _).trans (by simp)
@[simp] theorem State.distributeRest_revoc (s : State) (a : Nat) (r : Round) (x : Answer) : (s.distributeRest a r x).revoc = s.revoc := by
  unfold State.distributeRest; dsimp only; rw [State.pendingFlag_revoc]
  exact (State.foldl_frame (·.revoc) _ (fun _ _ => by simp) _ _).trans (by simp)
@[simp] theorem State.distributeRest_choices (s : State) (a : Nat) (r : Round) (x : Answer) : (s.distributeRest a r x).choices = s.choices := by
  unfold State.distributeRest; dsimp only; rw [State.pendingFlag_choices]
  exact (State.foldl_frame (·.choices) _ (fun _ _ => by simp) _ _).trans (by simp)

/-! ### State.goodAnswer -/

@[simp] theorem State.goodAnswer_pending (s : State) (n : Node) (r : Round) (x : Answer) : (s.goodAnswer n r x).pending = s.pending := by simp [State.goodAnswer]
@[simp] theorem State.goodAnswer_part (s : State) (n : Node) (r : Round) (x : Answer) : (s.goodAnswer n r x).part = s.part := by simp [State.goodAnswer]
@[simp] theorem State.goodAnswer_supply (s : State) (n : Node) (r : Round) (x : Answer) : (s.goodAnswer n r x).supply = s.supply := by simp [State.goodAnswer]
@[simp] theorem State.goodAnswer_loader (s : State) (n : Node) (r : Round) (x : Answer) : (s.goodAnswer n r x).loader = s.loader := by simp [State.goodAnswer]
@[simp] theorem State.goodAnswer_time (s : State) (n : Node) (r : Round) (x : Answer) : (s.goodAnswer n r x).time = s.time := by simp [State.goodAnswer]
@[simp] theorem State.goodAnswer_inviter (s : State) (n : Node) (r : Round) (x : Answer) : (s.goodAnswer n r x).inviter = s.inviter := by simp [State.goodAnswer]
@[simp] theorem State.goodAnswer_revoc (s : State) (n : Node) (r : Round) (x : Answer) : (s.goodAnswer n r x).revoc = s.revoc := by simp [State.goodAnswer]
@[simp] theorem State.goodAnswer_choices (s : State) (n : Node) (r : Round) (x : Answer) : (s.goodAnswer n r x).choices = s.choices := by simp [State.goodAnswer]

/-! ### State.missState -/

@[simp] theorem State.missState_pending (s : State) (n : Node) : (s.missState n).pending = s.pending := by
  unfold State.missState; (try dsimp only); (repeat' split) <;> simp
@[simp] theorem State.missState_part (s : State) (n : Node) : (s.missState n).part = s.part := by
  unfold State.missState; (try dsimp only); (repeat' split) <;> simp
@[simp] theorem State.missState_supply (s : State) (n : Node) : (s.missState n).supply = s.supply := by
  unfold State.missState; (try dsimp only); (repeat' split) <;> simp
@[simp] theorem State.missState_loader (s : State) (n : Node) : (s.missState n).loader = s.loader := by
  unfold State.missState; (try dsimp only); (repeat' split) <;> simp
@[simp] theorem State.missState_time (s : State) (n : Node) : (s.missState n).time = s.time := by
  unfold State.missState; (try dsimp only); (repeat' split) <;> simp
@[simp] theorem State.missState_lines (s : State) (n : Node) : (s.missState n).lines = s.lines := by
  unfold State.missState; (try dsimp only); (repeat' split) <;> simp
@[simp] theorem State.missState_inviter (s : State) (n : Node) : (s.missState n).inviter = s.inviter := by
  unfold State.missState; (try dsimp only); (repeat' split) <;> simp
@[simp] theorem State.missState_store (s : State) (n : Node) : (s.missState n).store = s.store := by
  unfold State.missState; (try dsimp only); (repeat' split) <;> simp
@[simp] theorem State.missState_revoc (s : State) (n : Node) : (s.missState n).revoc = s.revoc := by
  unfold State.missState; (try dsimp only); (repeat' split) <;> simp
@[simp] theorem State.missState_minibar (s : State) (n : Node) : (s.missState n).minibar = s.minibar := by
  unfold State.missState; (try dsimp only); (repeat' split) <;> simp
@[simp] theorem State.missState_choices (s : State) (n : Node) : (s.missState n).choices = s.choices := by
  unfold State.missState; (try dsimp only); (repeat' split) <;> simp

/-! ### State.miss -/

@[simp] theorem State.miss_pending (s : State) (n : Node) : (s.miss n).pending = s.pending := by simp [State.miss]
@[simp] theorem State.miss_part (s : State) (n : Node) : (s.miss n).part = s.part := by simp [State.miss]
@[simp] theorem State.miss_supply (s : State) (n : Node) : (s.miss n).supply = s.supply := by simp [State.miss]
@[simp] theorem State.miss_loader (s : State) (n : Node) : (s.miss n).loader = s.loader := by simp [State.miss]
@[simp] theorem State.miss_time (s : State) (n : Node) : (s.miss n).time = s.time := by simp [State.miss]
@[simp] theorem State.miss_lines (s : State) (n : Node) : (s.miss n).lines = s.lines := by simp [State.miss]
@[simp] theorem State.miss_inviter (s : State) (n : Node) : (s.miss n).inviter = s.inviter := by simp [State.miss]
@[simp] theorem State.miss_store (s : State) (n : Node) : (s.miss n).store = s.store := by simp [State.miss]
@[simp] theorem State.miss_revoc (s : State) (n : Node) : (s.miss n).revoc = s.revoc := by simp [State.miss]
@[simp] theorem State.miss_minibar (s : State) (n : Node) : (s.miss n).minibar = s.minibar := by simp [State.miss]
@[simp] theorem State.miss_choices (s : State) (n : Node) : (s.miss n).choices = s.choices := by simp [State.miss]

/-! ### State.windowResult -/

@[simp] theorem State.windowResult_pending (s : State) (a : Nat) (r : Round) (x : Option Answer) : (s.windowResult a r x).pending = s.pending := by
  unfold State.windowResult; (try dsimp only); (repeat' split) <;> simp
@[simp] theorem State.windowResult_part (s : State) (a : Nat) (r : Round) (x : Option Answer) : (s.windowResult a r x).part = s.part := by
  unfold State.windowResult; (try dsimp only); (repeat' split) <;> simp
@[simp] theorem State.windowResult_supply (s : State) (a : Nat) (r : Round) (x : Option Answer) : (s.windowResult a r x).supply = s.supply := by
  unfold State.windowResult; (try dsimp only); (repeat' split) <;> simp
@[simp] theorem State.windowResult_loader (s : State) (a : Nat) (r : Round) (x : Option Answer) : (s.windowResult a r x).loader = s.loader := by
  unfold State.windowResult; (try dsimp only); (repeat' split) <;> simp
@[simp] theorem State.windowResult_time (s : State) (a : Nat) (r : Round) (x : Option Answer) : (s.windowResult a r x).time = s.time := by
  unfold State.windowResult; (try dsimp only); (repeat' split) <;> simp
@[simp] theorem State.windowResult_inviter (s : State) (a : Nat) (r : Round) (x : Option Answer) : (s.windowResult a r x).inviter = s.inviter := by
  unfold State.windowResult; (try dsimp only); (repeat' split) <;> simp
@[simp] theorem State.windowResult_revoc (s : State) (a : Nat) (r : Round) (x : Option Answer) : (s.windowResult a r x).revoc = s.revoc := by
  unfold State.windowResult; (try dsimp only); (repeat' split) <;> simp
@[simp] theorem State.windowResult_choices (s : State) (a : Nat) (r : Round) (x : Option Answer) : (s.windowResult a r x).choices = s.choices := by
  unfold State.windowResult; (try dsimp only); (repeat' split) <;> simp

/-! ### State.choseIf -/

@[simp] theorem State.choseIf_pending (s : State) (b : Bool) : (s.choseIf b).pending = s.pending := by
  unfold State.choseIf; (try dsimp only); (repeat' split) <;> simp
@[simp] theorem State.choseIf_part (s : State) (b : Bool) : (s.choseIf b).part = s.part := by
  unfold State.choseIf; (try dsimp only); (repeat' split) <;> simp
@[simp] theorem State.choseIf_supply (s : State) (b : Bool) : (s.choseIf b).supply = s.supply := by
  unfold State.choseIf; (try dsimp only); (repeat' split) <;> simp
@[simp] theorem State.choseIf_loader (s : State) (b : Bool) : (s.choseIf b).loader = s.loader := by
  unfold State.choseIf; (try dsimp only); (repeat' split) <;> simp
@[simp] theorem State.choseIf_time (s : State) (b : Bool) : (s.choseIf b).time = s.time := by
  unfold State.choseIf; (try dsimp only); (repeat' split) <;> simp
@[simp] theorem State.choseIf_lines (s : State) (b : Bool) : (s.choseIf b).lines = s.lines := by
  unfold State.choseIf; (try dsimp only); (repeat' split) <;> simp
@[simp] theorem State.choseIf_inviter (s : State) (b : Bool) : (s.choseIf b).inviter = s.inviter := by
  unfold State.choseIf; (try dsimp only); (repeat' split) <;> simp
@[simp] theorem State.choseIf_nodes (s : State) (b : Bool) : (s.choseIf b).nodes = s.nodes := by
  unfold State.choseIf; (try dsimp only); (repeat' split) <;> simp
@[simp] theorem State.choseIf_store (s : State) (b : Bool) : (s.choseIf b).store = s.store := by
  unfold State.choseIf; (try dsimp only); (repeat' split) <;> simp
@[simp] theorem State.choseIf_revoc (s : State) (b : Bool) : (s.choseIf b).revoc = s.revoc := by
  unfold State.choseIf; (try dsimp only); (repeat' split) <;> simp
@[simp] theorem State.choseIf_minibar (s : State) (b : Bool) : (s.choseIf b).minibar = s.minibar := by
  unfold State.choseIf; (try dsimp only); (repeat' split) <;> simp
@[simp] theorem State.choseIf_journal (s : State) (b : Bool) : (s.choseIf b).journal = s.journal := by
  unfold State.choseIf; (try dsimp only); (repeat' split) <;> simp
@[simp] theorem State.choseIf_port (s : State) (b : Bool) : (s.choseIf b).port = s.port := by
  unfold State.choseIf; (try dsimp only); (repeat' split) <;> simp

/-! ### State.resolveWindow -/

@[simp] theorem State.resolveWindow_pending (s : State) (r : Round) (w : Window) (a b : Option Copy) (c : Completion) : (s.resolveWindow r w a b c).pending = s.pending := by
  unfold State.resolveWindow; (try dsimp only); (repeat' split) <;> simp
@[simp] theorem State.resolveWindow_part (s : State) (r : Round) (w : Window) (a b : Option Copy) (c : Completion) : (s.resolveWindow r w a b c).part = s.part := by
  unfold State.resolveWindow; (try dsimp only); (repeat' split) <;> simp
@[simp] theorem State.resolveWindow_supply (s : State) (r : Round) (w : Window) (a b : Option Copy) (c : Completion) : (s.resolveWindow r w a b c).supply = s.supply := by
  unfold State.resolveWindow; (try dsimp only); (repeat' split) <;> simp
@[simp] theorem State.resolveWindow_loader (s : State) (r : Round) (w : Window) (a b : Option Copy) (c : Completion) : (s.resolveWindow r w a b c).loader = s.loader := by
  unfold State.resolveWindow; (try dsimp only); (repeat' split) <;> simp
@[simp] theorem State.resolveWindow_time (s : State) (r : Round) (w : Window) (a b : Option Copy) (c : Completion) : (s.resolveWindow r w a b c).time = s.time := by
  unfold State.resolveWindow; (try dsimp only); (repeat' split) <;> simp
@[simp] theorem State.resolveWindow_inviter (s : State) (r : Round) (w : Window) (a b : Option Copy) (c : Completion) : (s.resolveWindow r w a b c).inviter = s.inviter := by
  unfold State.resolveWindow; (try dsimp only); (repeat' split) <;> simp
@[simp] theorem State.resolveWindow_revoc (s : State) (r : Round) (w : Window) (a b : Option Copy) (c : Completion) : (s.resolveWindow r w a b c).revoc = s.revoc := by
  unfold State.resolveWindow; (try dsimp only); (repeat' split) <;> simp

/-! ### State.invitationReport -/

@[simp] theorem State.invitationReport_pending (s : State) (a : Nat) (b : Bool) : (s.invitationReport a b).pending = s.pending := by
  unfold State.invitationReport; (try dsimp only); (repeat' split) <;> simp
@[simp] theorem State.invitationReport_part (s : State) (a : Nat) (b : Bool) : (s.invitationReport a b).part = s.part := by
  unfold State.invitationReport; (try dsimp only); (repeat' split) <;> simp
@[simp] theorem State.invitationReport_supply (s : State) (a : Nat) (b : Bool) : (s.invitationReport a b).supply = s.supply := by
  unfold State.invitationReport; (try dsimp only); (repeat' split) <;> simp
@[simp] theorem State.invitationReport_loader (s : State) (a : Nat) (b : Bool) : (s.invitationReport a b).loader = s.loader := by
  unfold State.invitationReport; (try dsimp only); (repeat' split) <;> simp
@[simp] theorem State.invitationReport_time (s : State) (a : Nat) (b : Bool) : (s.invitationReport a b).time = s.time := by
  unfold State.invitationReport; (try dsimp only); (repeat' split) <;> simp
@[simp] theorem State.invitationReport_lines (s : State) (a : Nat) (b : Bool) : (s.invitationReport a b).lines = s.lines := by
  unfold State.invitationReport; (try dsimp only); (repeat' split) <;> simp
@[simp] theorem State.invitationReport_inviter (s : State) (a : Nat) (b : Bool) : (s.invitationReport a b).inviter = s.inviter := by
  unfold State.invitationReport; (try dsimp only); (repeat' split) <;> simp
@[simp] theorem State.invitationReport_store (s : State) (a : Nat) (b : Bool) : (s.invitationReport a b).store = s.store := by
  unfold State.invitationReport; (try dsimp only); (repeat' split) <;> simp
@[simp] theorem State.invitationReport_revoc (s : State) (a : Nat) (b : Bool) : (s.invitationReport a b).revoc = s.revoc := by
  unfold State.invitationReport; (try dsimp only); (repeat' split) <;> simp
@[simp] theorem State.invitationReport_minibar (s : State) (a : Nat) (b : Bool) : (s.invitationReport a b).minibar = s.minibar := by
  unfold State.invitationReport; (try dsimp only); (repeat' split) <;> simp
@[simp] theorem State.invitationReport_choices (s : State) (a : Nat) (b : Bool) : (s.invitationReport a b).choices = s.choices := by
  unfold State.invitationReport; (try dsimp only); (repeat' split) <;> simp

/-! ### State.resolveInvitation -/

@[simp] theorem State.resolveInvitation_pending (s : State) (r : Round) (a b : Option Copy) : (s.resolveInvitation r a b).pending = s.pending := by
  unfold State.resolveInvitation; (try dsimp only); (repeat' split) <;> simp
@[simp] theorem State.resolveInvitation_part (s : State) (r : Round) (a b : Option Copy) : (s.resolveInvitation r a b).part = s.part := by
  unfold State.resolveInvitation; (try dsimp only); (repeat' split) <;> simp
@[simp] theorem State.resolveInvitation_supply (s : State) (r : Round) (a b : Option Copy) : (s.resolveInvitation r a b).supply = s.supply := by
  unfold State.resolveInvitation; (try dsimp only); (repeat' split) <;> simp
@[simp] theorem State.resolveInvitation_loader (s : State) (r : Round) (a b : Option Copy) : (s.resolveInvitation r a b).loader = s.loader := by
  unfold State.resolveInvitation; (try dsimp only); (repeat' split) <;> simp
@[simp] theorem State.resolveInvitation_time (s : State) (r : Round) (a b : Option Copy) : (s.resolveInvitation r a b).time = s.time := by
  unfold State.resolveInvitation; (try dsimp only); (repeat' split) <;> simp
@[simp] theorem State.resolveInvitation_inviter (s : State) (r : Round) (a b : Option Copy) : (s.resolveInvitation r a b).inviter = s.inviter := by
  unfold State.resolveInvitation; (try dsimp only); (repeat' split) <;> simp
@[simp] theorem State.resolveInvitation_store (s : State) (r : Round) (a b : Option Copy) : (s.resolveInvitation r a b).store = s.store := by
  unfold State.resolveInvitation; (try dsimp only); (repeat' split) <;> simp
@[simp] theorem State.resolveInvitation_revoc (s : State) (r : Round) (a b : Option Copy) : (s.resolveInvitation r a b).revoc = s.revoc := by
  unfold State.resolveInvitation; (try dsimp only); (repeat' split) <;> simp
@[simp] theorem State.resolveInvitation_minibar (s : State) (r : Round) (a b : Option Copy) : (s.resolveInvitation r a b).minibar = s.minibar := by
  unfold State.resolveInvitation; (try dsimp only); (repeat' split) <;> simp
@[simp] theorem State.resolveInvitation_choices (s : State) (r : Round) (a b : Option Copy) : (s.resolveInvitation r a b).choices = s.choices := by
  unfold State.resolveInvitation; (try dsimp only); (repeat' split) <;> simp

/-! ### State.commitDue -/

@[simp] theorem State.commitDue_pending (s : State) : s.commitDue.pending = s.pending := by simp [State.commitDue]
@[simp] theorem State.commitDue_part (s : State) : s.commitDue.part = s.part := by simp [State.commitDue]
@[simp] theorem State.commitDue_supply (s : State) : s.commitDue.supply = s.supply := by simp [State.commitDue]
@[simp] theorem State.commitDue_loader (s : State) : s.commitDue.loader = s.loader := by simp [State.commitDue]
@[simp] theorem State.commitDue_time (s : State) : s.commitDue.time = s.time := by simp [State.commitDue]
@[simp] theorem State.commitDue_lines (s : State) : s.commitDue.lines = s.lines := by simp [State.commitDue]
@[simp] theorem State.commitDue_inviter (s : State) : s.commitDue.inviter = s.inviter := by simp [State.commitDue]
@[simp] theorem State.commitDue_nodes (s : State) : s.commitDue.nodes = s.nodes := by simp [State.commitDue]
@[simp] theorem State.commitDue_store (s : State) : s.commitDue.store = s.store := by simp [State.commitDue]
@[simp] theorem State.commitDue_revoc (s : State) : s.commitDue.revoc = s.revoc := by simp [State.commitDue]
@[simp] theorem State.commitDue_choices (s : State) : s.commitDue.choices = s.choices := by simp [State.commitDue]

/-! ### State.minuteSweep -/

@[simp] theorem State.minuteSweep_pending (s : State) : s.minuteSweep.pending = s.pending := by simp [State.minuteSweep]
@[simp] theorem State.minuteSweep_part (s : State) : s.minuteSweep.part = s.part := by simp [State.minuteSweep]
@[simp] theorem State.minuteSweep_supply (s : State) : s.minuteSweep.supply = s.supply := by simp [State.minuteSweep]
@[simp] theorem State.minuteSweep_loader (s : State) : s.minuteSweep.loader = s.loader := by simp [State.minuteSweep]
@[simp] theorem State.minuteSweep_time (s : State) : s.minuteSweep.time = s.time := by simp [State.minuteSweep]
@[simp] theorem State.minuteSweep_lines (s : State) : s.minuteSweep.lines = s.lines := by simp [State.minuteSweep]
@[simp] theorem State.minuteSweep_inviter (s : State) : s.minuteSweep.inviter = s.inviter := by simp [State.minuteSweep]
@[simp] theorem State.minuteSweep_minibar (s : State) : s.minuteSweep.minibar = s.minibar := by simp [State.minuteSweep]
@[simp] theorem State.minuteSweep_journal (s : State) : s.minuteSweep.journal = s.journal := by simp [State.minuteSweep]
@[simp] theorem State.minuteSweep_port (s : State) : s.minuteSweep.port = s.port := by simp [State.minuteSweep]
@[simp] theorem State.minuteSweep_choices (s : State) : s.minuteSweep.choices = s.choices := by simp [State.minuteSweep]

/-! ### State.deadlines -/

@[simp] theorem State.deadlines_pending (s : State) : s.deadlines.pending = s.pending := by
  unfold State.deadlines; (try dsimp only); (repeat' split) <;> simp
@[simp] theorem State.deadlines_part (s : State) : s.deadlines.part = s.part := by
  unfold State.deadlines; (try dsimp only); (repeat' split) <;> simp
@[simp] theorem State.deadlines_supply (s : State) : s.deadlines.supply = s.supply := by
  unfold State.deadlines; (try dsimp only); (repeat' split) <;> simp
@[simp] theorem State.deadlines_loader (s : State) : s.deadlines.loader = s.loader := by
  unfold State.deadlines; (try dsimp only); (repeat' split) <;> simp
@[simp] theorem State.deadlines_time (s : State) : s.deadlines.time = s.time := by
  unfold State.deadlines; (try dsimp only); (repeat' split) <;> simp
@[simp] theorem State.deadlines_lines (s : State) : s.deadlines.lines = s.lines := by
  unfold State.deadlines; (try dsimp only); (repeat' split) <;> simp
@[simp] theorem State.deadlines_inviter (s : State) : s.deadlines.inviter = s.inviter := by
  unfold State.deadlines; (try dsimp only); (repeat' split) <;> simp
@[simp] theorem State.deadlines_nodes (s : State) : s.deadlines.nodes = s.nodes := by
  unfold State.deadlines; (try dsimp only); (repeat' split) <;> simp
@[simp] theorem State.deadlines_revoc (s : State) : s.deadlines.revoc = s.revoc := by
  unfold State.deadlines; (try dsimp only); (repeat' split) <;> simp

/-! ### State.secondWork -/

@[simp] theorem State.secondWork_pending (s : State) : s.secondWork.pending = s.pending := by
  unfold State.secondWork; (try dsimp only); (repeat' split) <;> simp
@[simp] theorem State.secondWork_part (s : State) : s.secondWork.part = s.part := by
  unfold State.secondWork; (try dsimp only); (repeat' split) <;> simp
@[simp] theorem State.secondWork_supply (s : State) : s.secondWork.supply = s.supply := by
  unfold State.secondWork; (try dsimp only); (repeat' split) <;> simp
@[simp] theorem State.secondWork_loader (s : State) : s.secondWork.loader = s.loader := by
  unfold State.secondWork; (try dsimp only); (repeat' split) <;> simp
@[simp] theorem State.secondWork_time (s : State) : s.secondWork.time = s.time := by
  unfold State.secondWork; (try dsimp only); (repeat' split) <;> simp
@[simp] theorem State.secondWork_lines (s : State) : s.secondWork.lines = s.lines := by
  unfold State.secondWork; (try dsimp only); (repeat' split) <;> simp
@[simp] theorem State.secondWork_inviter (s : State) : s.secondWork.inviter = s.inviter := by
  unfold State.secondWork; (try dsimp only); (repeat' split) <;> simp

/-! ### State.beginSecond -/

@[simp] theorem State.beginSecond_pending (s : State) : s.beginSecond.pending = s.pending := by
  unfold State.beginSecond; (try dsimp only); (repeat' split) <;> simp
@[simp] theorem State.beginSecond_part (s : State) : s.beginSecond.part = s.part := by
  unfold State.beginSecond; (try dsimp only); (repeat' split) <;> simp
@[simp] theorem State.beginSecond_supply (s : State) : s.beginSecond.supply = s.supply := by
  unfold State.beginSecond; (try dsimp only); (repeat' split) <;> simp
@[simp] theorem State.beginSecond_loader (s : State) : s.beginSecond.loader = s.loader := by
  unfold State.beginSecond; (try dsimp only); (repeat' split) <;> simp
@[simp] theorem State.beginSecond_lines (s : State) : s.beginSecond.lines = s.lines := by
  unfold State.beginSecond; (try dsimp only); (repeat' split) <;> simp
@[simp] theorem State.beginSecond_inviter (s : State) : s.beginSecond.inviter = s.inviter := by
  unfold State.beginSecond; (try dsimp only); (repeat' split) <;> simp
@[simp] theorem State.beginSecond_nodes (s : State) : s.beginSecond.nodes = s.nodes := by
  unfold State.beginSecond; (try dsimp only); (repeat' split) <;> simp
@[simp] theorem State.beginSecond_store (s : State) : s.beginSecond.store = s.store := by
  unfold State.beginSecond; (try dsimp only); (repeat' split) <;> simp
@[simp] theorem State.beginSecond_revoc (s : State) : s.beginSecond.revoc = s.revoc := by
  unfold State.beginSecond; (try dsimp only); (repeat' split) <;> simp
@[simp] theorem State.beginSecond_minibar (s : State) : s.beginSecond.minibar = s.minibar := by
  unfold State.beginSecond; (try dsimp only); (repeat' split) <;> simp
@[simp] theorem State.beginSecond_journal (s : State) : s.beginSecond.journal = s.journal := by
  unfold State.beginSecond; (try dsimp only); (repeat' split) <;> simp
@[simp] theorem State.beginSecond_choices (s : State) : s.beginSecond.choices = s.choices := by
  unfold State.beginSecond; (try dsimp only); (repeat' split) <;> simp

end Sys2Proof.Machine
end

