-- ==== Sys2Proof/Laws/RoundFrames.lean ====
section
/-! SUPPORT. The fields of the state that the parts of a round start leave as they are. -/

namespace Sys2Proof.Machine

open Sys2Proof

set_option linter.unusedTactic false
set_option linter.unreachableTactic false

/-! ### State.toMark -/

@[simp] theorem State.toMark_pending (s : State) : s.toMark.pending = s.pending := by
  unfold State.toMark; (try dsimp only); (repeat' split) <;> simp
@[simp] theorem State.toMark_part (s : State) : s.toMark.part = s.part := by
  unfold State.toMark; (try dsimp only); (repeat' split) <;> simp
@[simp] theorem State.toMark_supply (s : State) : s.toMark.supply = s.supply := by
  unfold State.toMark; (try dsimp only); (repeat' split) <;> simp
@[simp] theorem State.toMark_loader (s : State) : s.toMark.loader = s.loader := by
  unfold State.toMark; (try dsimp only); (repeat' split) <;> simp
@[simp] theorem State.toMark_lines (s : State) : s.toMark.lines = s.lines := by
  unfold State.toMark; (try dsimp only); (repeat' split) <;> simp
@[simp] theorem State.toMark_inviter (s : State) : s.toMark.inviter = s.inviter := by
  unfold State.toMark; (try dsimp only); (repeat' split) <;> simp
@[simp] theorem State.toMark_nodes (s : State) : s.toMark.nodes = s.nodes := by
  unfold State.toMark; (try dsimp only); (repeat' split) <;> simp
@[simp] theorem State.toMark_store (s : State) : s.toMark.store = s.store := by
  unfold State.toMark; (try dsimp only); (repeat' split) <;> simp
@[simp] theorem State.toMark_revoc (s : State) : s.toMark.revoc = s.revoc := by
  unfold State.toMark; (try dsimp only); (repeat' split) <;> simp
@[simp] theorem State.toMark_minibar (s : State) : s.toMark.minibar = s.minibar := by
  unfold State.toMark; (try dsimp only); (repeat' split) <;> simp
@[simp] theorem State.toMark_journal (s : State) : s.toMark.journal = s.journal := by
  unfold State.toMark; (try dsimp only); (repeat' split) <;> simp
@[simp] theorem State.toMark_choices (s : State) : s.toMark.choices = s.choices := by
  unfold State.toMark; (try dsimp only); (repeat' split) <;> simp

/-! ### State.endRound -/

@[simp] theorem State.endRound_pending (s : State) : s.endRound.pending = s.pending := by
  unfold State.endRound; dsimp only; (repeat' split) <;> simp [State.foldl_frame (·.pending)]
@[simp] theorem State.endRound_part (s : State) : s.endRound.part = s.part := by
  unfold State.endRound; dsimp only; (repeat' split) <;> simp [State.foldl_frame (·.part)]
@[simp] theorem State.endRound_supply (s : State) : s.endRound.supply = s.supply := by
  unfold State.endRound; dsimp only; (repeat' split) <;> simp [State.foldl_frame (·.supply)]
@[simp] theorem State.endRound_loader (s : State) : s.endRound.loader = s.loader := by
  unfold State.endRound; dsimp only; (repeat' split) <;> simp [State.foldl_frame (·.loader)]
@[simp] theorem State.endRound_time (s : State) : s.endRound.time = s.time := by
  unfold State.endRound; dsimp only; (repeat' split) <;> simp [State.foldl_frame (·.time)]
@[simp] theorem State.endRound_inviter (s : State) : s.endRound.inviter = s.inviter := by
  unfold State.endRound; dsimp only; (repeat' split) <;> simp [State.foldl_frame (·.inviter)]
@[simp] theorem State.endRound_revoc (s : State) : s.endRound.revoc = s.revoc := by
  unfold State.endRound; dsimp only; (repeat' split) <;> simp [State.foldl_frame (·.revoc)]

/-! ### State.beginRoundStart -/

@[simp] theorem State.beginRoundStart_pending (s : State) : s.beginRoundStart.pending = s.pending := by simp [State.beginRoundStart]
@[simp] theorem State.beginRoundStart_part (s : State) : s.beginRoundStart.part = s.part := by simp [State.beginRoundStart]
@[simp] theorem State.beginRoundStart_supply (s : State) : s.beginRoundStart.supply = s.supply := by simp [State.beginRoundStart]
@[simp] theorem State.beginRoundStart_loader (s : State) : s.beginRoundStart.loader = s.loader := by simp [State.beginRoundStart]
@[simp] theorem State.beginRoundStart_inviter (s : State) : s.beginRoundStart.inviter = s.inviter := by simp [State.beginRoundStart]
@[simp] theorem State.beginRoundStart_revoc (s : State) : s.beginRoundStart.revoc = s.revoc := by simp [State.beginRoundStart]

/-! ### State.tallyLine -/

@[simp] theorem State.tallyLine_pending (s : State) (l : LineId) : (s.tallyLine l).pending = s.pending := by simp [State.tallyLine]
@[simp] theorem State.tallyLine_part (s : State) (l : LineId) : (s.tallyLine l).part = s.part := by simp [State.tallyLine]
@[simp] theorem State.tallyLine_supply (s : State) (l : LineId) : (s.tallyLine l).supply = s.supply := by simp [State.tallyLine]
@[simp] theorem State.tallyLine_loader (s : State) (l : LineId) : (s.tallyLine l).loader = s.loader := by simp [State.tallyLine]
@[simp] theorem State.tallyLine_time (s : State) (l : LineId) : (s.tallyLine l).time = s.time := by simp [State.tallyLine]
@[simp] theorem State.tallyLine_inviter (s : State) (l : LineId) : (s.tallyLine l).inviter = s.inviter := by simp [State.tallyLine]
@[simp] theorem State.tallyLine_store (s : State) (l : LineId) : (s.tallyLine l).store = s.store := by simp [State.tallyLine]
@[simp] theorem State.tallyLine_revoc (s : State) (l : LineId) : (s.tallyLine l).revoc = s.revoc := by simp [State.tallyLine]
@[simp] theorem State.tallyLine_minibar (s : State) (l : LineId) : (s.tallyLine l).minibar = s.minibar := by simp [State.tallyLine]
@[simp] theorem State.tallyLine_choices (s : State) (l : LineId) : (s.tallyLine l).choices = s.choices := by simp [State.tallyLine]

/-! ### State.tallyEnd -/

@[simp] theorem State.tallyEnd_pending (s : State) : s.tallyEnd.pending = s.pending := by
  unfold State.tallyEnd; (try dsimp only); (repeat' split) <;> simp
@[simp] theorem State.tallyEnd_part (s : State) : s.tallyEnd.part = s.part := by
  unfold State.tallyEnd; (try dsimp only); (repeat' split) <;> simp
@[simp] theorem State.tallyEnd_supply (s : State) : s.tallyEnd.supply = s.supply := by
  unfold State.tallyEnd; (try dsimp only); (repeat' split) <;> simp
@[simp] theorem State.tallyEnd_loader (s : State) : s.tallyEnd.loader = s.loader := by
  unfold State.tallyEnd; (try dsimp only); (repeat' split) <;> simp
@[simp] theorem State.tallyEnd_time (s : State) : s.tallyEnd.time = s.time := by
  unfold State.tallyEnd; (try dsimp only); (repeat' split) <;> simp
@[simp] theorem State.tallyEnd_inviter (s : State) : s.tallyEnd.inviter = s.inviter := by
  unfold State.tallyEnd; (try dsimp only); (repeat' split) <;> simp
@[simp] theorem State.tallyEnd_store (s : State) : s.tallyEnd.store = s.store := by
  unfold State.tallyEnd; (try dsimp only); (repeat' split) <;> simp
@[simp] theorem State.tallyEnd_revoc (s : State) : s.tallyEnd.revoc = s.revoc := by
  unfold State.tallyEnd; (try dsimp only); (repeat' split) <;> simp
@[simp] theorem State.tallyEnd_minibar (s : State) : s.tallyEnd.minibar = s.minibar := by
  unfold State.tallyEnd; (try dsimp only); (repeat' split) <;> simp
@[simp] theorem State.tallyEnd_choices (s : State) : s.tallyEnd.choices = s.choices := by
  unfold State.tallyEnd; (try dsimp only); (repeat' split) <;> simp

/-! ### State.trainingEnd -/

@[simp] theorem State.trainingEnd_pending (s : State) (l : LineId) : (s.trainingEnd l).pending = s.pending := by
  unfold State.trainingEnd; (try dsimp only); (repeat' split) <;> simp
@[simp] theorem State.trainingEnd_part (s : State) (l : LineId) : (s.trainingEnd l).part = s.part := by
  unfold State.trainingEnd; (try dsimp only); (repeat' split) <;> simp
@[simp] theorem State.trainingEnd_supply (s : State) (l : LineId) : (s.trainingEnd l).supply = s.supply := by
  unfold State.trainingEnd; (try dsimp only); (repeat' split) <;> simp
@[simp] theorem State.trainingEnd_loader (s : State) (l : LineId) : (s.trainingEnd l).loader = s.loader := by
  unfold State.trainingEnd; (try dsimp only); (repeat' split) <;> simp
@[simp] theorem State.trainingEnd_time (s : State) (l : LineId) : (s.trainingEnd l).time = s.time := by
  unfold State.trainingEnd; (try dsimp only); (repeat' split) <;> simp
@[simp] theorem State.trainingEnd_inviter (s : State) (l : LineId) : (s.trainingEnd l).inviter = s.inviter := by
  unfold State.trainingEnd; (try dsimp only); (repeat' split) <;> simp
@[simp] theorem State.trainingEnd_store (s : State) (l : LineId) : (s.trainingEnd l).store = s.store := by
  unfold State.trainingEnd; (try dsimp only); (repeat' split) <;> simp
@[simp] theorem State.trainingEnd_revoc (s : State) (l : LineId) : (s.trainingEnd l).revoc = s.revoc := by
  unfold State.trainingEnd; (try dsimp only); (repeat' split) <;> simp
@[simp] theorem State.trainingEnd_minibar (s : State) (l : LineId) : (s.trainingEnd l).minibar = s.minibar := by
  unfold State.trainingEnd; (try dsimp only); (repeat' split) <;> simp
@[simp] theorem State.trainingEnd_choices (s : State) (l : LineId) : (s.trainingEnd l).choices = s.choices := by
  unfold State.trainingEnd; (try dsimp only); (repeat' split) <;> simp

/-! ### State.spanStep -/

@[simp] theorem State.spanStep_pending (s : State) (b : Bool) (a : Nat) : (s.spanStep b a).pending = s.pending := by
  unfold State.spanStep; (try dsimp only); (repeat' split) <;> simp
@[simp] theorem State.spanStep_part (s : State) (b : Bool) (a : Nat) : (s.spanStep b a).part = s.part := by
  unfold State.spanStep; (try dsimp only); (repeat' split) <;> simp
@[simp] theorem State.spanStep_supply (s : State) (b : Bool) (a : Nat) : (s.spanStep b a).supply = s.supply := by
  unfold State.spanStep; (try dsimp only); (repeat' split) <;> simp
@[simp] theorem State.spanStep_loader (s : State) (b : Bool) (a : Nat) : (s.spanStep b a).loader = s.loader := by
  unfold State.spanStep; (try dsimp only); (repeat' split) <;> simp
@[simp] theorem State.spanStep_time (s : State) (b : Bool) (a : Nat) : (s.spanStep b a).time = s.time := by
  unfold State.spanStep; (try dsimp only); (repeat' split) <;> simp
@[simp] theorem State.spanStep_lines (s : State) (b : Bool) (a : Nat) : (s.spanStep b a).lines = s.lines := by
  unfold State.spanStep; (try dsimp only); (repeat' split) <;> simp
@[simp] theorem State.spanStep_inviter (s : State) (b : Bool) (a : Nat) : (s.spanStep b a).inviter = s.inviter := by
  unfold State.spanStep; (try dsimp only); (repeat' split) <;> simp
@[simp] theorem State.spanStep_store (s : State) (b : Bool) (a : Nat) : (s.spanStep b a).store = s.store := by
  unfold State.spanStep; (try dsimp only); (repeat' split) <;> simp
@[simp] theorem State.spanStep_revoc (s : State) (b : Bool) (a : Nat) : (s.spanStep b a).revoc = s.revoc := by
  unfold State.spanStep; (try dsimp only); (repeat' split) <;> simp
@[simp] theorem State.spanStep_minibar (s : State) (b : Bool) (a : Nat) : (s.spanStep b a).minibar = s.minibar := by
  unfold State.spanStep; (try dsimp only); (repeat' split) <;> simp
@[simp] theorem State.spanStep_journal (s : State) (b : Bool) (a : Nat) : (s.spanStep b a).journal = s.journal := by
  unfold State.spanStep; (try dsimp only); (repeat' split) <;> simp

/-! ### State.ageOut -/

@[simp] theorem State.ageOut_pending (s : State) : s.ageOut.pending = s.pending := by simp [State.ageOut]
@[simp] theorem State.ageOut_part (s : State) : s.ageOut.part = s.part := by simp [State.ageOut]
@[simp] theorem State.ageOut_supply (s : State) : s.ageOut.supply = s.supply := by simp [State.ageOut]
@[simp] theorem State.ageOut_loader (s : State) : s.ageOut.loader = s.loader := by simp [State.ageOut]
@[simp] theorem State.ageOut_time (s : State) : s.ageOut.time = s.time := by simp [State.ageOut]
@[simp] theorem State.ageOut_inviter (s : State) : s.ageOut.inviter = s.inviter := by simp [State.ageOut]
@[simp] theorem State.ageOut_nodes (s : State) : s.ageOut.nodes = s.nodes := by simp [State.ageOut]
@[simp] theorem State.ageOut_store (s : State) : s.ageOut.store = s.store := by simp [State.ageOut]
@[simp] theorem State.ageOut_revoc (s : State) : s.ageOut.revoc = s.revoc := by simp [State.ageOut]
@[simp] theorem State.ageOut_minibar (s : State) : s.ageOut.minibar = s.minibar := by simp [State.ageOut]
@[simp] theorem State.ageOut_choices (s : State) : s.ageOut.choices = s.choices := by simp [State.ageOut]

/-! ### Composition -/

/-- A reading of the composed state that every act of a fold keeps is kept by the fold. -/
theorem Compose.foldl_frame {α β : Type} (g : Compose → β) (f : Compose → α → Compose) (h : ∀ c a, g (f c a) = g c)
    (l : List α) (c : Compose) : g (l.foldl f c) = g c := by
  induction l generalizing c with
  | nil => rfl
  | cons x xs ih => rw [List.foldl_cons, ih, h]

@[simp] theorem State.composeUrgent_pending (s : State) : s.composeUrgent.state.pending = s.pending := by
  unfold State.composeUrgent; dsimp only; rw [State.foldl_frame (·.pending) _ (fun _ _ => by simp)]
@[simp] theorem State.composeUrgent_part (s : State) : s.composeUrgent.state.part = s.part := by
  unfold State.composeUrgent; dsimp only; rw [State.foldl_frame (·.part) _ (fun _ _ => by simp)]
@[simp] theorem State.composeUrgent_supply (s : State) : s.composeUrgent.state.supply = s.supply := by
  unfold State.composeUrgent; dsimp only; rw [State.foldl_frame (·.supply) _ (fun _ _ => by simp)]
@[simp] theorem State.composeUrgent_loader (s : State) : s.composeUrgent.state.loader = s.loader := by
  unfold State.composeUrgent; dsimp only; rw [State.foldl_frame (·.loader) _ (fun _ _ => by simp)]
@[simp] theorem State.composeUrgent_time (s : State) : s.composeUrgent.state.time = s.time := by
  unfold State.composeUrgent; dsimp only; rw [State.foldl_frame (·.time) _ (fun _ _ => by simp)]
@[simp] theorem State.composeUrgent_inviter (s : State) : s.composeUrgent.state.inviter = s.inviter := by
  unfold State.composeUrgent; dsimp only; rw [State.foldl_frame (·.inviter) _ (fun _ _ => by simp)]
@[simp] theorem State.composeUrgent_store (s : State) : s.composeUrgent.state.store = s.store := by
  unfold State.composeUrgent; dsimp only; rw [State.foldl_frame (·.store) _ (fun _ _ => by simp)]
@[simp] theorem State.composeUrgent_revoc (s : State) : s.composeUrgent.state.revoc = s.revoc := by
  unfold State.composeUrgent; dsimp only; rw [State.foldl_frame (·.revoc) _ (fun _ _ => by simp)]
@[simp] theorem State.composeUrgent_minibar (s : State) : s.composeUrgent.state.minibar = s.minibar := by
  unfold State.composeUrgent; dsimp only; rw [State.foldl_frame (·.minibar) _ (fun _ _ => by simp)]
@[simp] theorem State.composeUrgent_choices (s : State) : s.composeUrgent.state.choices = s.choices := by
  unfold State.composeUrgent; dsimp only; rw [State.foldl_frame (·.choices) _ (fun _ _ => by simp)]
@[simp] theorem Compose.latched_pending (c : Compose) (a : Nat) (p : Node → Bool) (d : State → Node → Directive) (q : Node → Node) : (c.latched a p d q).state.pending = c.state.pending := by
  unfold Compose.latched; (repeat' split) <;> simp [Compose.place]
@[simp] theorem Compose.latched_part (c : Compose) (a : Nat) (p : Node → Bool) (d : State → Node → Directive) (q : Node → Node) : (c.latched a p d q).state.part = c.state.part := by
  unfold Compose.latched; (repeat' split) <;> simp [Compose.place]
@[simp] theorem Compose.latched_supply (c : Compose) (a : Nat) (p : Node → Bool) (d : State → Node → Directive) (q : Node → Node) : (c.latched a p d q).state.supply = c.state.supply := by
  unfold Compose.latched; (repeat' split) <;> simp [Compose.place]
@[simp] theorem Compose.latched_loader (c : Compose) (a : Nat) (p : Node → Bool) (d : State → Node → Directive) (q : Node → Node) : (c.latched a p d q).state.loader = c.state.loader := by
  unfold Compose.latched; (repeat' split) <;> simp [Compose.place]
@[simp] theorem Compose.latched_time (c : Compose) (a : Nat) (p : Node → Bool) (d : State → Node → Directive) (q : Node → Node) : (c.latched a p d q).state.time = c.state.time := by
  unfold Compose.latched; (repeat' split) <;> simp [Compose.place]
@[simp] theorem Compose.latched_lines (c : Compose) (a : Nat) (p : Node → Bool) (d : State → Node → Directive) (q : Node → Node) : (c.latched a p d q).state.lines = c.state.lines := by
  unfold Compose.latched; (repeat' split) <;> simp [Compose.place]
@[simp] theorem Compose.latched_inviter (c : Compose) (a : Nat) (p : Node → Bool) (d : State → Node → Directive) (q : Node → Node) : (c.latched a p d q).state.inviter = c.state.inviter := by
  unfold Compose.latched; (repeat' split) <;> simp [Compose.place]
@[simp] theorem Compose.latched_store (c : Compose) (a : Nat) (p : Node → Bool) (d : State → Node → Directive) (q : Node → Node) : (c.latched a p d q).state.store = c.state.store := by
  unfold Compose.latched; (repeat' split) <;> simp [Compose.place]
@[simp] theorem Compose.latched_revoc (c : Compose) (a : Nat) (p : Node → Bool) (d : State → Node → Directive) (q : Node → Node) : (c.latched a p d q).state.revoc = c.state.revoc := by
  unfold Compose.latched; (repeat' split) <;> simp [Compose.place]
@[simp] theorem Compose.latched_minibar (c : Compose) (a : Nat) (p : Node → Bool) (d : State → Node → Directive) (q : Node → Node) : (c.latched a p d q).state.minibar = c.state.minibar := by
  unfold Compose.latched; (repeat' split) <;> simp [Compose.place]
@[simp] theorem Compose.latched_journal (c : Compose) (a : Nat) (p : Node → Bool) (d : State → Node → Directive) (q : Node → Node) : (c.latched a p d q).state.journal = c.state.journal := by
  unfold Compose.latched; (repeat' split) <;> simp [Compose.place]
@[simp] theorem Compose.latched_port (c : Compose) (a : Nat) (p : Node → Bool) (d : State → Node → Directive) (q : Node → Node) : (c.latched a p d q).state.port = c.state.port := by
  unfold Compose.latched; (repeat' split) <;> simp [Compose.place]
@[simp] theorem Compose.latched_choices (c : Compose) (a : Nat) (p : Node → Bool) (d : State → Node → Directive) (q : Node → Node) : (c.latched a p d q).state.choices = c.state.choices := by
  unfold Compose.latched; (repeat' split) <;> simp [Compose.place]
@[simp] theorem Compose.latchedItems_pending (c : Compose) (a : Nat) : (c.latchedItems a).state.pending = c.state.pending := by simp [Compose.latchedItems]
@[simp] theorem Compose.latchedItems_part (c : Compose) (a : Nat) : (c.latchedItems a).state.part = c.state.part := by simp [Compose.latchedItems]
@[simp] theorem Compose.latchedItems_supply (c : Compose) (a : Nat) : (c.latchedItems a).state.supply = c.state.supply := by simp [Compose.latchedItems]
@[simp] theorem Compose.latchedItems_loader (c : Compose) (a : Nat) : (c.latchedItems a).state.loader = c.state.loader := by simp [Compose.latchedItems]
@[simp] theorem Compose.latchedItems_time (c : Compose) (a : Nat) : (c.latchedItems a).state.time = c.state.time := by simp [Compose.latchedItems]
@[simp] theorem Compose.latchedItems_lines (c : Compose) (a : Nat) : (c.latchedItems a).state.lines = c.state.lines := by simp [Compose.latchedItems]
@[simp] theorem Compose.latchedItems_inviter (c : Compose) (a : Nat) : (c.latchedItems a).state.inviter = c.state.inviter := by simp [Compose.latchedItems]
@[simp] theorem Compose.latchedItems_store (c : Compose) (a : Nat) : (c.latchedItems a).state.store = c.state.store := by simp [Compose.latchedItems]
@[simp] theorem Compose.latchedItems_revoc (c : Compose) (a : Nat) : (c.latchedItems a).state.revoc = c.state.revoc := by simp [Compose.latchedItems]
@[simp] theorem Compose.latchedItems_minibar (c : Compose) (a : Nat) : (c.latchedItems a).state.minibar = c.state.minibar := by simp [Compose.latchedItems]
@[simp] theorem Compose.latchedItems_journal (c : Compose) (a : Nat) : (c.latchedItems a).state.journal = c.state.journal := by simp [Compose.latchedItems]
@[simp] theorem Compose.latchedItems_port (c : Compose) (a : Nat) : (c.latchedItems a).state.port = c.state.port := by simp [Compose.latchedItems]
@[simp] theorem Compose.latchedItems_choices (c : Compose) (a : Nat) : (c.latchedItems a).state.choices = c.state.choices := by simp [Compose.latchedItems]
@[simp] theorem Compose.deliver_pending (c : Compose) (a : Nat) : (c.deliver a).state.pending = c.state.pending := by
  unfold Compose.deliver; (repeat' split) <;> simp [Compose.place]
@[simp] theorem Compose.deliver_part (c : Compose) (a : Nat) : (c.deliver a).state.part = c.state.part := by
  unfold Compose.deliver; (repeat' split) <;> simp [Compose.place]
@[simp] theorem Compose.deliver_supply (c : Compose) (a : Nat) : (c.deliver a).state.supply = c.state.supply := by
  unfold Compose.deliver; (repeat' split) <;> simp [Compose.place]
@[simp] theorem Compose.deliver_loader (c : Compose) (a : Nat) : (c.deliver a).state.loader = c.state.loader := by
  unfold Compose.deliver; (repeat' split) <;> simp [Compose.place]
@[simp] theorem Compose.deliver_time (c : Compose) (a : Nat) : (c.deliver a).state.time = c.state.time := by
  unfold Compose.deliver; (repeat' split) <;> simp [Compose.place]
@[simp] theorem Compose.deliver_lines (c : Compose) (a : Nat) : (c.deliver a).state.lines = c.state.lines := by
  unfold Compose.deliver; (repeat' split) <;> simp [Compose.place]
@[simp] theorem Compose.deliver_inviter (c : Compose) (a : Nat) : (c.deliver a).state.inviter = c.state.inviter := by
  unfold Compose.deliver; (repeat' split) <;> simp [Compose.place]
@[simp] theorem Compose.deliver_store (c : Compose) (a : Nat) : (c.deliver a).state.store = c.state.store := by
  unfold Compose.deliver; (repeat' split) <;> simp [Compose.place]
@[simp] theorem Compose.deliver_revoc (c : Compose) (a : Nat) : (c.deliver a).state.revoc = c.state.revoc := by
  unfold Compose.deliver; (repeat' split) <;> simp [Compose.place]
@[simp] theorem Compose.deliver_minibar (c : Compose) (a : Nat) : (c.deliver a).state.minibar = c.state.minibar := by
  unfold Compose.deliver; (repeat' split) <;> simp [Compose.place]
@[simp] theorem Compose.deliver_journal (c : Compose) (a : Nat) : (c.deliver a).state.journal = c.state.journal := by
  unfold Compose.deliver; (repeat' split) <;> simp [Compose.place]
@[simp] theorem Compose.deliver_port (c : Compose) (a : Nat) : (c.deliver a).state.port = c.state.port := by
  unfold Compose.deliver; (repeat' split) <;> simp [Compose.place]
@[simp] theorem Compose.deliver_choices (c : Compose) (a : Nat) : (c.deliver a).state.choices = c.state.choices := by
  unfold Compose.deliver; (repeat' split) <;> simp [Compose.place]
@[simp] theorem Compose.deliveries_pending (c : Compose) (a : Nat) : (c.deliveries a).state.pending = c.state.pending := by simp [Compose.deliveries]
@[simp] theorem Compose.deliveries_part (c : Compose) (a : Nat) : (c.deliveries a).state.part = c.state.part := by simp [Compose.deliveries]
@[simp] theorem Compose.deliveries_supply (c : Compose) (a : Nat) : (c.deliveries a).state.supply = c.state.supply := by simp [Compose.deliveries]
@[simp] theorem Compose.deliveries_loader (c : Compose) (a : Nat) : (c.deliveries a).state.loader = c.state.loader := by simp [Compose.deliveries]
@[simp] theorem Compose.deliveries_time (c : Compose) (a : Nat) : (c.deliveries a).state.time = c.state.time := by simp [Compose.deliveries]
@[simp] theorem Compose.deliveries_lines (c : Compose) (a : Nat) : (c.deliveries a).state.lines = c.state.lines := by simp [Compose.deliveries]
@[simp] theorem Compose.deliveries_inviter (c : Compose) (a : Nat) : (c.deliveries a).state.inviter = c.state.inviter := by simp [Compose.deliveries]
@[simp] theorem Compose.deliveries_store (c : Compose) (a : Nat) : (c.deliveries a).state.store = c.state.store := by simp [Compose.deliveries]
@[simp] theorem Compose.deliveries_revoc (c : Compose) (a : Nat) : (c.deliveries a).state.revoc = c.state.revoc := by simp [Compose.deliveries]
@[simp] theorem Compose.deliveries_minibar (c : Compose) (a : Nat) : (c.deliveries a).state.minibar = c.state.minibar := by simp [Compose.deliveries]
@[simp] theorem Compose.deliveries_journal (c : Compose) (a : Nat) : (c.deliveries a).state.journal = c.state.journal := by simp [Compose.deliveries]
@[simp] theorem Compose.deliveries_port (c : Compose) (a : Nat) : (c.deliveries a).state.port = c.state.port := by simp [Compose.deliveries]
@[simp] theorem Compose.deliveries_choices (c : Compose) (a : Nat) : (c.deliveries a).state.choices = c.state.choices := by simp [Compose.deliveries]
@[simp] theorem State.compose_pending (s : State) : s.compose.1.pending = s.pending := by
  unfold State.compose; simp [Compose.foldl_frame (·.state.pending)]
@[simp] theorem State.compose_part (s : State) : s.compose.1.part = s.part := by
  unfold State.compose; simp [Compose.foldl_frame (·.state.part)]
@[simp] theorem State.compose_supply (s : State) : s.compose.1.supply = s.supply := by
  unfold State.compose; simp [Compose.foldl_frame (·.state.supply)]
@[simp] theorem State.compose_loader (s : State) : s.compose.1.loader = s.loader := by
  unfold State.compose; simp [Compose.foldl_frame (·.state.loader)]
@[simp] theorem State.compose_time (s : State) : s.compose.1.time = s.time := by
  unfold State.compose; simp [Compose.foldl_frame (·.state.time)]
@[simp] theorem State.compose_inviter (s : State) : s.compose.1.inviter = s.inviter := by
  unfold State.compose; simp [Compose.foldl_frame (·.state.inviter)]
@[simp] theorem State.compose_store (s : State) : s.compose.1.store = s.store := by
  unfold State.compose; simp [Compose.foldl_frame (·.state.store)]
@[simp] theorem State.compose_revoc (s : State) : s.compose.1.revoc = s.revoc := by
  unfold State.compose; simp [Compose.foldl_frame (·.state.revoc)]
@[simp] theorem State.compose_minibar (s : State) : s.compose.1.minibar = s.minibar := by
  unfold State.compose; simp [Compose.foldl_frame (·.state.minibar)]
@[simp] theorem State.compose_choices (s : State) : s.compose.1.choices = s.choices := by
  unfold State.compose; simp [Compose.foldl_frame (·.state.choices)]

/-! ### The new round -/

@[simp] theorem State.segmentFor_pending (s : State) : s.segmentFor.1.pending = s.pending := by
  unfold State.segmentFor; split <;> simp
@[simp] theorem State.segmentFor_part (s : State) : s.segmentFor.1.part = s.part := by
  unfold State.segmentFor; split <;> simp
@[simp] theorem State.segmentFor_supply (s : State) : s.segmentFor.1.supply = s.supply := by
  unfold State.segmentFor; split <;> simp
@[simp] theorem State.segmentFor_loader (s : State) : s.segmentFor.1.loader = s.loader := by
  unfold State.segmentFor; split <;> simp
@[simp] theorem State.segmentFor_time (s : State) : s.segmentFor.1.time = s.time := by
  unfold State.segmentFor; split <;> simp
@[simp] theorem State.segmentFor_inviter (s : State) : s.segmentFor.1.inviter = s.inviter := by
  unfold State.segmentFor; split <;> simp
@[simp] theorem State.segmentFor_store (s : State) : s.segmentFor.1.store = s.store := by
  unfold State.segmentFor; split <;> simp
@[simp] theorem State.segmentFor_revoc (s : State) : s.segmentFor.1.revoc = s.revoc := by
  unfold State.segmentFor; split <;> simp
@[simp] theorem State.segmentFor_minibar (s : State) : s.segmentFor.1.minibar = s.minibar := by
  unfold State.segmentFor; split <;> simp
@[simp] theorem State.segmentFor_choices (s : State) : s.segmentFor.1.choices = s.choices := by
  unfold State.segmentFor; split <;> simp
@[simp] theorem State.newRound_pending (s : State) : s.newRound.pending = s.pending := by simp [State.newRound]
@[simp] theorem State.newRound_part (s : State) : s.newRound.part = s.part := by simp [State.newRound]
@[simp] theorem State.newRound_supply (s : State) : s.newRound.supply = s.supply := by simp [State.newRound]
@[simp] theorem State.newRound_loader (s : State) : s.newRound.loader = s.loader := by simp [State.newRound]
@[simp] theorem State.newRound_store (s : State) : s.newRound.store = s.store := by simp [State.newRound]
@[simp] theorem State.newRound_revoc (s : State) : s.newRound.revoc = s.revoc := by simp [State.newRound]
@[simp] theorem State.newRound_minibar (s : State) : s.newRound.minibar = s.minibar := by simp [State.newRound]
@[simp] theorem State.newRound_choices (s : State) : s.newRound.choices = s.choices := by simp [State.newRound]

/-! ### State.roundStart -/

@[simp] theorem State.roundStart_pending (s : State) : s.roundStart.pending = s.pending := by
  unfold State.roundStart; simp [State.forEach, State.foldl_frame (·.pending)]
@[simp] theorem State.roundStart_part (s : State) : s.roundStart.part = s.part := by
  unfold State.roundStart; simp [State.forEach, State.foldl_frame (·.part)]
@[simp] theorem State.roundStart_supply (s : State) : s.roundStart.supply = s.supply := by
  unfold State.roundStart; simp [State.forEach, State.foldl_frame (·.supply)]
@[simp] theorem State.roundStart_loader (s : State) : s.roundStart.loader = s.loader := by
  unfold State.roundStart; simp [State.forEach, State.foldl_frame (·.loader)]
@[simp] theorem State.roundStart_revoc (s : State) : s.roundStart.revoc = s.revoc := by
  unfold State.roundStart; simp [State.forEach, State.foldl_frame (·.revoc)]

end Sys2Proof.Machine
end

