-- ==== Sys2Proof/Laws/Ops.lean ====
section
/-! SUPPORT. What the shared operations do, said once: keyed lists, the journal's append, the frames made ready, and the
dispatch of a command. -/

namespace Sys2Proof.Machine

open Sys2Proof

/-! ### Keyed lists -/

section Keyed
variable {α : Type} (key : α → Nat)

theorem findKey_some {k : Nat} {l : List α} {x : α} (h : findKey key k l = some x) : key x = k ∧ x ∈ l := by
  unfold findKey at h
  exact ⟨by simpa using List.find?_some h, List.mem_of_find?_eq_some h⟩

theorem findKey_none {k : Nat} {l : List α} : findKey key k l = none ↔ ∀ x ∈ l, key x ≠ k := by
  simp [findKey, List.find?_eq_none]

theorem findKey_dropKey (k : Nat) (l : List α) : findKey key k (dropKey key k l) = none := by
  rw [findKey_none]; intro x hx; simpa [dropKey] using (List.mem_filter.mp hx).2

theorem findKey_dropKey_ne {j k : Nat} (h : j ≠ k) (l : List α) : findKey key j (dropKey key k l) = findKey key j l := by
  induction l with
  | nil => rfl
  | cons x xs ih =>
    unfold findKey dropKey at *
    by_cases hx : key x = k
    · simp [hx, Ne.symm h, ih]
    · simp [List.find?_cons, hx, ih]

theorem findKey_modKey (f : α → α) (hf : ∀ x, key (f x) = key x) (k : Nat) (l : List α) :
    findKey key k (modKey key k f l) = (findKey key k l).map f := by
  induction l with
  | nil => rfl
  | cons x xs ih =>
    unfold findKey modKey at *
    by_cases hx : key x = k
    · simp [hx, hf]
    · simp [hx, ih]

theorem findKey_modKey_ne (f : α → α) (hf : ∀ x, key (f x) = key x) {j k : Nat} (h : j ≠ k) (l : List α) :
    findKey key j (modKey key k f l) = findKey key j l := by
  induction l with
  | nil => rfl
  | cons x xs ih =>
    unfold findKey modKey at *
    by_cases hx : key x = k
    · simp [hx, hf, Ne.symm h, ih]
    · simp [List.find?_cons, hx, ih]

theorem findKey_putKey (x : α) (l : List α) : findKey key (key x) (putKey key x l) = some x := by
  induction l with
  | nil => simp [findKey, putKey]
  | cons y ys ih =>
    unfold putKey
    split
    · simp [findKey]
    · split
      · simp [findKey]
      · rename_i h1 h2
        have : ¬ key y = key x := fun h => h2 h.symm
        unfold findKey at *; simp [this, ih]

theorem modKey_map_key (f : α → α) (hf : ∀ x, key (f x) = key x) (k : Nat) (l : List α) :
    (modKey key k f l).map key = l.map key := by
  unfold modKey; simp only [List.map_map]; apply List.map_congr_left; intro x _; simp; split <;> simp [hf]

end Keyed

/-! ### Lookups after the named updates -/

theorem State.modNode_node? (s : State) (a : Nat) (f : Node → Node) (hf : ∀ n, (f n).addr = n.addr) :
    (s.modNode a f).node? a = (s.node? a).map f := findKey_modKey Node.addr f hf a s.nodes

theorem State.modNode_node?_ne (s : State) {a b : Nat} (f : Node → Node) (hf : ∀ n, (f n).addr = n.addr) (h : b ≠ a) :
    (s.modNode a f).node? b = s.node? b := findKey_modKey_ne Node.addr f hf h s.nodes

theorem State.modCred_cred? (s : State) (k : Nat) (f : Cred → Cred) (hf : ∀ c, (f c).number = c.number) :
    (s.modCred k f).cred? k = (s.cred? k).map f := findKey_modKey Cred.number f hf k s.store.recs

theorem State.modFolio_folio? (s : State) (p : Nat) (f : Folio → Folio) (hf : ∀ x, (f x).point = x.point) :
    (s.modFolio p f).folio? p = (s.folio? p).map f := findKey_modKey Folio.point f hf p s.minibar.folios

theorem State.modRoom_room? (s : State) (p : Nat) (f : Room → Room) (hf : ∀ r, (f r).point = r.point) :
    (s.modRoom p f).room? p = (s.room? p).map f := findKey_modKey Room.point f hf p s.revoc.rooms

/-! ### The journal (09:R170, R171) -/

theorem Journal.makeRoom_next (j : Journal) : j.makeRoom.1.next = j.next := by
  unfold Journal.makeRoom; (repeat' split) <;> rfl

theorem Journal.makeRoom_length (j : Journal) (h : j.recs.length ≤ 2048) : j.makeRoom.1.recs.length < 2048 := by
  unfold Journal.makeRoom; (repeat' split) <;> simp_all <;> omega

/-- The append gives the new record the next number, at the end. -/
theorem Journal.push_recs (secs : Nat) (e : Entry) (j : Journal) :
    (j.push secs e).recs = j.makeRoom.1.recs ++ [⟨j.next, secs, e, j.makeRoom.2⟩] := rfl

theorem Journal.push_next (secs : Nat) (e : Entry) (j : Journal) : (j.push secs e).next = wrap32 (j.next + 1) := rfl

theorem Journal.push_length_le (secs : Nat) (e : Entry) (j : Journal) (h : j.recs.length ≤ 2048) :
    (j.push secs e).recs.length ≤ 2048 := by
  have := j.makeRoom_length h
  simp [Journal.push_recs]; omega

/-! ### Frames made ready -/

theorem Port.ready_service (p : Port) (f : OutFrame) : (p.ready f).service = p.service := by
  unfold Port.ready; split <;> rfl

theorem State.raise_service (s : State) (k : NoticeKind) : (s.raise k).port.service = s.port.service := by
  unfold State.raise; split
  · simp [Port.ready_service]
  · rfl

theorem State.answer_service (s : State) (k t : Byte) (b : Bool) (r : Reply) :
    (s.answer k t b r).port.service = some ⟨k, t, b⟩ := rfl

/-! ### The dispatch of a command (10:R183, R185) -/

/-- A command of the right length, taken in RUNNING, is served by its block. -/
theorem State.command_served (s : State) (kind tag : Byte) (len : Nat) (lenOk : Nat → Bool)
    (serve : State → State × Reply) (rearms : List NoticeKind) (h : s.takes) (hl : lenOk len = true) :
    s.command kind tag len lenOk serve rearms
      = ((serve s).1.rearmIf (serve s).2.status.success rearms).answer kind tag
          (kind == 0x06 && (serve s).2.status.success) (serve s).2 := by
  obtain ⟨hp, hs⟩ := h
  simp [State.command, State.lineOff, hp, hs, servedIn, hl]

/-- A command of a wrong length is refused with BAD_LENGTH. -/
theorem State.command_badLength (s : State) (kind tag : Byte) (len : Nat) (lenOk : Nat → Bool)
    (serve : State → State × Reply) (rearms : List NoticeKind) (h : s.takes) (hl : lenOk len = false) :
    s.command kind tag len lenOk serve rearms = s.answer kind tag false (.plain .badLength) := by
  obtain ⟨hp, hs⟩ := h
  simp [State.command, State.lineOff, hp, hs, servedIn, hl]

/-- While a command is in service a good frame is rejected with OVERLAP. -/
theorem State.command_overlap (s : State) (kind tag : Byte) (len : Nat) (lenOk : Nat → Bool)
    (serve : State → State × Reply) (rearms : List NoticeKind) (h : s.lineOff = false)
    (hs : s.port.service.isSome = true) :
    s.command kind tag len lenOk serve rearms = s.overlap kind tag := by
  simp [State.command, h, hs]

/-! ### Optional parts of a command body (10:R186) -/

/-- A part is taken when its presence byte is a flag and its value is legal, present or absent. -/
theorem optionalPart_eq_some {α : Type} {present : Option Bool} {value : Option α} {r : Option α} :
    optionalPart present value = some r ↔ ∃ p v, present = some p ∧ value = some v ∧ r = if p then some v else none := by
  cases present <;> cases value <;> simp [optionalPart, eq_comm]

/-! ### The image in a bank copy (11:R199) -/

/-- A copy that begins with a whole image gives that image. -/
theorem bankImage_whole {copy : List Byte} (h : headerFormatOk copy = true) (h' : 16 + headerLength copy ≤ copy.length) :
    bankImage copy = copy.take (16 + headerLength copy) := by simp [bankImage, h, h']

/-! ### Uploads dropped (07:R133) -/

theorem Node.dropInProgress_none {n : Node} (h : n.upload = none) : n.dropInProgress = n := by
  simp [Node.dropInProgress, h]

@[simp] theorem Node.dropInProgress_upload (n : Node) : n.dropInProgress.upload = none := by
  unfold Node.dropInProgress Node.dropUpload
  cases h : n.upload <;> simp [h]

/-! ### Second boundaries (03:R43, R45) -/

/-- A part of the event was taken, an owed boundary is taken where the counter stands, or the next one is reached. -/
theorem State.beginSecond_cases (s : State) :
    (s.time.begun = true ∧ s.beginSecond = s) ∨
    (s.time.begun = false ∧ s.time.owed = 0 ∧ s.beginSecond = { s with time := { s.time with
      tick := nextBoundary s.time.tick, secs := wrap32 (s.time.secs + 1), begun := true } }.quietFor
        (32768 - s.time.tick % 32768)) ∨
    (∃ k, s.time.begun = false ∧ s.time.owed = k + 1 ∧ s.beginSecond = { s with time := { s.time with
      secs := wrap32 (s.time.secs + 1), owed := k, begun := true } }) := by
  unfold State.beginSecond
  cases hb : s.time.begun
  · cases ho : s.time.owed with
    | zero => simp [State.secondRise, ho]
    | succ k => simp [State.secondRise, ho]
  · simp

/-- What one boundary keeps, any number of them keeps. -/
theorem State.boundaries_keeps {P : State → Prop} (h : ∀ s, P s → P s.boundary) :
    ∀ (k : Nat) (s : State), P s → P (State.boundaries k s)
  | 0, _, hs => hs
  | k + 1, _, hs => State.boundaries_keeps h k _ (h _ hs)

/-- Owed boundaries leave a field that one boundary leaves. -/
theorem State.boundaries_frame {α : Type} (f : State → α) (h : ∀ s, f s.boundary = f s) :
    ∀ (k : Nat) (s : State), f (State.boundaries k s) = f s
  | 0, _ => rfl
  | k + 1, s => (State.boundaries_frame f h k s.boundary).trans (h s)

@[simp] theorem State.boundaries_pending (k : Nat) (s : State) : (State.boundaries k s).pending = s.pending :=
  State.boundaries_frame (·.pending) (fun s => by simp [State.boundary, State.secondRise]) k s
@[simp] theorem State.boundaries_part (k : Nat) (s : State) : (State.boundaries k s).part = s.part :=
  State.boundaries_frame (·.part) (fun s => by simp [State.boundary, State.secondRise]) k s
@[simp] theorem State.boundaries_supply (k : Nat) (s : State) : (State.boundaries k s).supply = s.supply :=
  State.boundaries_frame (·.supply) (fun s => by simp [State.boundary, State.secondRise]) k s
@[simp] theorem State.boundaries_loader (k : Nat) (s : State) : (State.boundaries k s).loader = s.loader :=
  State.boundaries_frame (·.loader) (fun s => by simp [State.boundary, State.secondRise]) k s
@[simp] theorem State.boundaries_tick (k : Nat) (s : State) : (State.boundaries k s).time.tick = s.time.tick :=
  State.boundaries_frame (·.time.tick) (fun s => by simp [State.boundary, State.secondRise]) k s
@[simp] theorem State.boundaries_owed (k : Nat) (s : State) : (State.boundaries k s).time.owed = s.time.owed :=
  State.boundaries_frame (·.time.owed) (fun s => by simp [State.boundary, State.secondRise]) k s

/-- Each boundary raises wing seconds by 1. -/
theorem State.boundaries_secs : ∀ (k : Nat) (s : State), s.time.secs < 4294967296 →
    (State.boundaries k s).time.secs = (s.time.secs + k) % 4294967296
  | 0, s, h => by simp [State.boundaries, Nat.mod_eq_of_lt h]
  | k + 1, s, _ => by
    have hs : s.boundary.time.secs = (s.time.secs + 1) % 4294967296 := by
      simp [State.boundary, State.secondRise, wrap32]
    rw [State.boundaries, State.boundaries_secs k _ (by omega), hs]
    omega

/-- After the owed boundaries are taken none is owed. -/
@[simp] theorem State.takeOwed_owed (s : State) : s.takeOwed.time.owed = 0 := by simp [State.takeOwed]
@[simp] theorem State.takeOwed_tick (s : State) : s.takeOwed.time.tick = s.time.tick := by simp [State.takeOwed]
@[simp] theorem State.takeOwed_part (s : State) : s.takeOwed.part = s.part := by simp [State.takeOwed]
@[simp] theorem State.takeOwed_pending (s : State) : s.takeOwed.pending = s.pending := by simp [State.takeOwed]

/-- With none owed there is nothing to take. -/
theorem State.takeOwed_none {s : State} (h : s.time.owed = 0) : s.takeOwed = s := by
  obtain ⟨_, _, _, _, ⟨_, _, _, _, _, _, _⟩⟩ := s
  simp only at h; subst h; rfl

/-! ### Charge lines committed in pool order (08:R157) -/

/-- The lines ahead of a compartment's line are those before the first that names it. -/
theorem linesAhead_append {a c : Nat} {ahead behind : List ChargeLine} {l : ChargeLine}
    (h : ∀ x ∈ ahead, x.names a c = false) (hl : l.names a c = true) :
    linesAhead a c (ahead ++ l :: behind) = ahead := by
  have h' : ∀ x ∈ ahead, (!x.names a c) = true := fun x hx => by simp [h x hx]
  simp [linesAhead, List.takeWhile_append_of_pos h', hl]

/-- With no due line ahead of it, the line is committed alone. -/
theorem State.commitThrough_first {s : State} {l : ChargeLine}
    (h : ∀ x ∈ linesAhead l.node l.comp s.minibar.pool, x.due s.now = false) : s.commitThrough l = s.commitLine l := by
  have : (linesAhead l.node l.comp s.minibar.pool).filter (ChargeLine.due s.now) = [] :=
    List.filter_eq_nil_iff.mpr (fun x hx => by simp [h x hx])
  simp [State.commitThrough, this]

@[simp] theorem State.commitThrough_pending (s : State) (l : ChargeLine) : (s.commitThrough l).pending = s.pending :=
  State.foldl_frame (·.pending) _ (fun _ _ => by simp) _ s
@[simp] theorem State.commitThrough_part (s : State) (l : ChargeLine) : (s.commitThrough l).part = s.part :=
  State.foldl_frame (·.part) _ (fun _ _ => by simp) _ s
@[simp] theorem State.commitThrough_supply (s : State) (l : ChargeLine) : (s.commitThrough l).supply = s.supply :=
  State.foldl_frame (·.supply) _ (fun _ _ => by simp) _ s
@[simp] theorem State.commitThrough_loader (s : State) (l : ChargeLine) : (s.commitThrough l).loader = s.loader :=
  State.foldl_frame (·.loader) _ (fun _ _ => by simp) _ s
@[simp] theorem State.commitThrough_time (s : State) (l : ChargeLine) : (s.commitThrough l).time = s.time :=
  State.foldl_frame (·.time) _ (fun _ _ => by simp) _ s
@[simp] theorem State.commitThrough_lines (s : State) (l : ChargeLine) : (s.commitThrough l).lines = s.lines :=
  State.foldl_frame (·.lines) _ (fun _ _ => by simp) _ s
@[simp] theorem State.commitThrough_inviter (s : State) (l : ChargeLine) : (s.commitThrough l).inviter = s.inviter :=
  State.foldl_frame (·.inviter) _ (fun _ _ => by simp) _ s
@[simp] theorem State.commitThrough_nodes (s : State) (l : ChargeLine) : (s.commitThrough l).nodes = s.nodes :=
  State.foldl_frame (·.nodes) _ (fun _ _ => by simp) _ s
@[simp] theorem State.commitThrough_store (s : State) (l : ChargeLine) : (s.commitThrough l).store = s.store :=
  State.foldl_frame (·.store) _ (fun _ _ => by simp) _ s
@[simp] theorem State.commitThrough_revoc (s : State) (l : ChargeLine) : (s.commitThrough l).revoc = s.revoc :=
  State.foldl_frame (·.revoc) _ (fun _ _ => by simp) _ s
@[simp] theorem State.commitThrough_choices (s : State) (l : ChargeLine) : (s.commitThrough l).choices = s.choices :=
  State.foldl_frame (·.choices) _ (fun _ _ => by simp) _ s

/-! ### Relevance and delivery (05:R103, R104) -/

theorem State.credRelevant_iff (s : State) (cred : Option Nat) (n : Node) :
    s.credRelevant cred n = true ↔ s.Concerns cred n := by
  cases cred with
  | none => simp [State.credRelevant, State.Concerns]
  | some k =>
    cases h : s.cred? k with
    | none => simp [State.credRelevant, State.Concerns, h]
    | some c =>
      cases hi : c.image2 <;> simp [State.credRelevant, State.Concerns, h, Cred.claims, hi] <;> tauto

theorem State.deliverable_iff (s : State) (c : Change) (n : Node) : s.deliverable c n = true ↔ s.Delivers c n := by
  cases h : c.body <;> simp [State.deliverable, State.relevant, State.Delivers, h, State.credRelevant_iff, and_comm]

/-- The deliverable changes above acked_upto are the unacknowledged ones of the journal, in its order. -/
theorem State.mem_deliverables (s : State) (n : Node) (c : Change) :
    c ∈ s.deliverables n ↔ c ∈ s.revoc.changes ∧ s.Unacked n c := by
  simp [State.deliverables, State.Unacked, State.deliverable_iff]

end Sys2Proof.Machine
end

