-- ==== Sys2Proof/Laws/Images.lean ====
section
/-! SUPPORT. Enrolment records, image bodies and image headers read back from their fields as they lie: what the readings of
the model answer on them, good and bad (10 Tables 10.14, 10.15 and 10.17, 11:R194, R195). -/

namespace Sys2Proof.Machine

open Sys2Proof

/-! ### Words of two and four bytes -/

theorem u16_parts (v : BitVec 16) : (byteOf v.toNat).toNat + 256 * (byteOf (v.toNat / 256)).toNat = v.toNat := by
  have := v.isLt
  simp only [byteOf, BitVec.toNat_ofNat]; omega

theorem u32_parts (v : BitVec 32) :
    (byteOf v.toNat).toNat + 256 * (byteOf (v.toNat / 256)).toNat
      + 65536 * ((byteOf (v.toNat / 65536)).toNat + 256 * (byteOf (v.toNat / 16777216)).toNat) = v.toNat := by
  have := v.isLt
  simp only [byteOf, BitVec.toNat_ofNat]; omega

theorem i16_parts (v : BitVec 16) :
    (if v.toNat < 32768 then (v.toNat : Int) else (v.toNat : Int) - 65536) = v.toInt := by
  rw [BitVec.toInt_eq_toNat_cond]; split <;> split <;> omega

theorem two_bytes (a b : Byte) :
    byteOf (BitVec.ofNat 16 (a.toNat + 256 * b.toNat)).toNat = a
      ∧ byteOf ((BitVec.ofNat 16 (a.toNat + 256 * b.toNat)).toNat / 256) = b := by
  have := a.isLt; have := b.isLt
  constructor <;> (apply BitVec.eq_of_toNat_eq; simp only [byteOf, BitVec.toNat_ofNat]; omega)

theorem four_bytes (a b c d : Byte) :
    let v := (BitVec.ofNat 32 (a.toNat + 256 * b.toNat + 65536 * (c.toNat + 256 * d.toNat))).toNat
    byteOf v = a ∧ byteOf (v / 256) = b ∧ byteOf (v / 65536) = c ∧ byteOf (v / 16777216) = d := by
  have := a.isLt; have := b.isLt; have := c.isLt; have := d.isLt
  refine ⟨?_, ?_, ?_, ?_⟩ <;> (apply BitVec.eq_of_toNat_eq; simp only [byteOf, BitVec.toNat_ofNat]; omega)

theorem byteAt_append (p b : List Byte) (i : Nat) : byteAt (p ++ b) (p.length + i) = byteAt b i := by
  simp [byteAt, List.getD, List.getElem?_append_right (Nat.le_add_right _ _)]

theorem byteAt_take (b : List Byte) (i n : Nat) (h : i < n) : byteAt (b.take n) i = byteAt b i := by
  simp [byteAt, List.getD, h]

/-! ### One enrolment record (10 Table 10.15, 02 Table 2.2) -/

theorem RawEnrol.bytes_eq (r : RawEnrol) :
    r.bytes = [r.addr, byteOf r.point.toNat, byteOf (r.point.toNat / 256), r.cls, r.hasEntry,
      byteOf r.entry.toNat, byteOf (r.entry.toNat / 256), r.hasHours, byteOf r.start.toNat, byteOf (r.start.toNat / 256),
      byteOf r.stop.toNat, byteOf (r.stop.toNat / 256), r.oos, r.hasComps, r.comps] := by
  simp [RawEnrol.bytes, fields, List.range_succ, byteOf]

@[simp] theorem RawEnrol.bytes_length (r : RawEnrol) : r.bytes.length = 15 := by rw [RawEnrol.bytes_eq]; rfl

/-- Every 15 bytes are some record's. -/
theorem RawEnrol.of_bytes (l : List Byte) (h : l.length = 15) : ∃ r : RawEnrol, r.bytes = l := by
  match l, h with
  | [a, b, c, d, e, f, g, i, j, k, m, n, o, p, q], _ =>
    refine ⟨⟨a, BitVec.ofNat 16 (b.toNat + 256 * c.toNat), d, e, BitVec.ofNat 16 (f.toNat + 256 * g.toNat), i,
      BitVec.ofNat 16 (j.toNat + 256 * k.toNat), BitVec.ofNat 16 (m.toNat + 256 * n.toNat), o, p, q⟩, ?_⟩
    rw [RawEnrol.bytes_eq]
    simp only [two_bytes]

theorem flagAt_eq (b : List Byte) (i : Nat) : flagAt b i = if byteAt b i ≤ 1 then some (byteAt b i == 1) else none := by
  unfold flagAt
  generalize byteAt b i = x
  rcases x with _ | _ | x <;> simp

/-- A record behind other bytes reads as it does alone. -/
theorem enrolAt_append (p b : List Byte) (i : Nat) : enrolAt (p ++ b) (p.length + i) = enrolAt b i := by
  simp only [enrolAt, flagAt_eq, u16At, hoursAt, Nat.add_assoc, byteAt_append]

theorem byte_flag (b : Byte) (h : b.toNat ≤ 1) : b = 0 ∨ b = 1 := by
  have : b.toNat = 0 ∨ b.toNat = 1 := by omega
  exact this.imp (fun h => BitVec.eq_of_toNat_eq (by simpa using h)) (fun h => BitVec.eq_of_toNat_eq (by simpa using h))

theorem byte_class (b : Byte) (h : b.toNat ≤ 4) : b = 0 ∨ b = 1 ∨ b = 2 ∨ b = 3 ∨ b = 4 := by bv_omega

/-- The reading of a record is its request exactly where the checks of 02 Table 2.2 pass. -/
theorem enrolAt_raw (r : RawEnrol) (rest : List Byte) :
    enrolAt (r.bytes ++ rest) 0 = if r.Good then some r.request else none := by
  rw [RawEnrol.bytes_eq]
  simp only [enrolAt, flagAt_eq, u16At, hoursAt, byteAt, List.getD, List.cons_append, List.nil_append,
    List.getElem?_cons_succ, List.getElem?_cons_zero, Option.getD_some, Nat.zero_add, u16_parts]
  by_cases flags : r.hasEntry.toNat ≤ 1 ∧ r.hasHours.toNat ≤ 1 ∧ r.oos.toNat ≤ 1 ∧ r.hasComps.toNat ≤ 1
  swap
  · rw [if_neg (fun h : r.Good => flags h.2.2.2.1)]
    simp only [not_and_or] at flags
    rcases flags with h | h | h | h <;> simp only [h, if_false] <;> split <;> first | rfl | simp_all
  by_cases cls : r.cls.toNat ≤ 4
  swap
  · rw [if_neg (fun h : r.Good => cls h.2.2.1)]
    have : pointClassOf r.cls.toNat = none := by
      unfold pointClassOf; split <;> first | omega | rfl
    simp [this]
  obtain ⟨f1, f2, f3, f4⟩ := flags
  simp only [f1, f2, f3, f4, if_true]
  rcases byte_flag _ f1 with e1 | e1 <;> rcases byte_flag _ f2 with e2 | e2 <;> rcases byte_flag _ f4 with e4 | e4 <;>
    rcases byte_flag _ f3 with e3 | e3 <;> rcases byte_class _ cls with e5 | e5 | e5 | e5 | e5 <;>
    simp +decide [e1, e2, e3, e4, e5, pointClassOf, EnrolReq.fieldsOk, addressOk, Hours.wellFormed, RawEnrol.Good,
      RawEnrol.request, ← BitVec.toNat_inj, and_assoc]

/-! ### The records of a body -/

theorem records_length (rs : List RawEnrol) : (rs.flatMap RawEnrol.bytes).length = 15 * rs.length := by
  induction rs with
  | nil => rfl
  | cons r rs ih => rw [List.flatMap_cons, List.length_append, ih, RawEnrol.bytes_length, List.length_cons]; omega

theorem records_read : ∀ (rs : List RawEnrol) (p : List Byte),
    (List.range rs.length).map (fun i => enrolAt (p ++ rs.flatMap RawEnrol.bytes) (p.length + 15 * i))
      = rs.map (fun r => if r.Good then some r.request else none)
  | [], _ => rfl
  | r :: rs, p => by
    rw [List.length_cons, List.range_succ_eq_map, List.map_cons, List.map_map, List.map_cons, List.flatMap_cons]
    congr 1
    · rw [Nat.mul_zero, enrolAt_append, enrolAt_raw]
    · rw [← records_read rs (p ++ r.bytes)]
      apply List.map_congr_left
      intro i _
      simp only [Function.comp, List.append_assoc, List.length_append, RawEnrol.bytes_length]
      congr 1; omega

theorem distinct_iff (key : EnrolReq → Nat) (l : List EnrolReq) :
    distinct key l = true ↔ l.Pairwise (fun a b => key b ≠ key a) := by
  induction l with
  | nil => simp [distinct]
  | cons a l ih => simp [distinct, ih]

/-- Placing a new key in a list in ascending key keeps the order and adds the one member. -/
theorem putKey_sorted {α : Type} (key : α → Nat) (x : α) : ∀ l : List α, l.Pairwise (fun a b => key a < key b) →
    (∀ y ∈ l, key y ≠ key x) →
    (putKey key x l).Pairwise (fun a b => key a < key b) ∧ ∀ y, y ∈ putKey key x l ↔ y = x ∨ y ∈ l
  | [], _, _ => by simp [putKey]
  | a :: l, hp, hn => by
    rw [List.pairwise_cons] at hp
    unfold putKey
    split
    · next h =>
      refine ⟨List.pairwise_cons.mpr ⟨fun y hy => ?_, List.pairwise_cons.mpr hp⟩, by simp⟩
      rcases List.mem_cons.mp hy with rfl | hy
      · exact h
      · exact Nat.lt_trans h (hp.1 y hy)
    · split
      · next h => exact absurd h.symm (hn a (by simp))
      · obtain ⟨sorted, mem⟩ := putKey_sorted key x l hp.2 (fun y hy => hn y (by simp [hy]))
        refine ⟨List.pairwise_cons.mpr ⟨fun y hy => ?_, sorted⟩, fun y => ?_⟩
        · rcases (mem y).mp hy with rfl | hy
          · omega
          · exact hp.1 y hy
        · simp only [List.mem_cons, mem]; exact or_left_comm

/-- Placing requests of new keys one after the other. -/
theorem foldl_putKey (key : EnrolReq → Nat) : ∀ (rs l : List EnrolReq), l.Pairwise (fun a b => key a < key b) →
    rs.Pairwise (fun a b => key b ≠ key a) → (∀ r ∈ rs, ∀ y ∈ l, key y ≠ key r) →
    (rs.foldl (fun l r => putKey key r l) l).Pairwise (fun a b => key a < key b) ∧
      ∀ y, y ∈ rs.foldl (fun l r => putKey key r l) l ↔ y ∈ rs ∨ y ∈ l
  | [], l, h, _, _ => by simpa using h
  | r :: rs, l, h, hr, hd => by
    obtain ⟨sorted, mem⟩ := putKey_sorted key r l h (hd r (by simp))
    rw [List.pairwise_cons] at hr
    obtain ⟨all, mems⟩ := foldl_putKey key rs (putKey key r l) sorted hr.2 (fun q hq y hy => by
      rcases (mem y).mp hy with rfl | hy
      · exact fun e => hr.1 q hq e.symm
      · exact hd q (by simp [hq]) y hy)
    refine ⟨all, fun y => ?_⟩
    rw [List.foldl_cons, mems, mem, List.mem_cons, or_assoc, or_left_comm]

/-- What the readings of a body's records hold. -/
theorem requests_of (rs : List RawEnrol) :
    ((rs.map (fun r => if r.Good then some r.request else none)).all Option.isSome = true ↔ ∀ r ∈ rs, r.Good) ∧
    ((∀ r ∈ rs, r.Good) →
      (rs.map (fun r => if r.Good then some r.request else none)).filterMap id = rs.map RawEnrol.request) := by
  refine ⟨by
    simp only [List.all_map, List.all_eq_true, Function.comp]
    exact forall₂_congr fun r _ => by by_cases h : r.Good <;> simp [h], fun h => ?_⟩
  rw [List.filterMap_map]
  induction rs with
  | nil => rfl
  | cons r rs ih =>
    rw [List.filterMap_cons, List.map_cons, ← ih (fun x hx => h x (by simp [hx]))]
    simp only [Function.comp, if_pos (h r (by simp)), id]

theorem RawEnrol.request_cls (r : RawEnrol) (h : r.Good) :
    (r.request.enrol.cls = .roomEntry ↔ r.cls = 0) ∧ (r.request.enrol.cls = .suiteInner ↔ r.cls = 1) ∧
      (r.request.enrol.cls = .minibar ↔ r.cls = 2) := by
  rcases byte_class _ h.2.2.1 with e | e | e | e | e <;> simp [RawEnrol.request, e]

theorem RawEnrol.request_entry (r : RawEnrol) (h : r.Good) (hc : r.cls = 1 ∨ r.cls = 2) :
    r.request.enrol.entry = some r.entry.toNat := by
  have he : r.hasEntry = 1 := by
    have := h.2.2.2.2.2.2.2.2.1
    apply this <;> rcases hc with e | e <;> simp [e]
  simp [RawEnrol.request, he]

/-- A suite door or minibar of good records names the room of a ROOM_ENTRY record among them. -/
theorem entry_named (rs : List RawEnrol) (h : ∀ r ∈ rs, r.Good) (r : RawEnrol) (hr : r ∈ rs) (hc : r.cls = 1 ∨ r.cls = 2) :
    (rs.any fun x => x.request.enrol.cls == .roomEntry && r.request.enrol.entry == some x.request.enrol.point) = true
      ↔ ∃ x ∈ rs, x.cls = 0 ∧ x.point = r.entry := by
  simp only [List.any_eq_true, Bool.and_eq_true, beq_iff_eq, r.request_entry (h r hr) hc, Option.some.injEq]
  refine exists_congr fun x => and_congr_right fun hx => and_congr (x.request_cls (h x hx)).1 ?_
  exact ⟨fun e => (BitVec.eq_of_toNat_eq e).symm, fun e => by rw [← e]; rfl⟩

/-- The checks of the image as a whole on good records. -/
theorem whole_good (b : RawBody) (h : ∀ r ∈ b.records, r.Good) :
    enrolmentOk (b.records.map RawEnrol.request) = true ↔ b.Good := by
  have named := entry_named b.records h
  simp only [enrolmentOk, Bool.and_eq_true, distinct_iff, List.pairwise_map, List.all_map, List.all_eq_true, List.any_map,
    Function.comp_def, RawBody.Good]
  constructor
  · rintro ⟨⟨addrs, points⟩, entries⟩
    refine ⟨h, (addrs.and points).imp ?_, fun r hr hc => (named r hr hc).mp ?_⟩
    · rintro r x ⟨a, c⟩
      exact ⟨fun e => a (by simp [RawEnrol.request, e]), fun e => c (by simp [RawEnrol.request, e])⟩
    · have := entries r hr
      rcases hc with e | e
      · simpa only [(r.request_cls (h r hr)).2.1.mpr e] using this
      · simpa only [(r.request_cls (h r hr)).2.2.mpr e] using this
  · rintro ⟨-, pairs, entries⟩
    refine ⟨⟨pairs.imp ?_, pairs.imp ?_⟩, fun r hr => ?_⟩
    · rintro r x ⟨a, -⟩ e; exact a (BitVec.eq_of_toNat_eq e.symm)
    · rintro r x ⟨-, c⟩ e; exact c (BitVec.eq_of_toNat_eq e.symm)
    · cases e : r.request.enrol.cls <;> simp only
      · have hc : r.cls = 1 ∨ r.cls = 2 := .inl ((r.request_cls (h r hr)).2.1.mp e)
        exact (named r hr hc).mpr (entries r hr hc)
      · have hc : r.cls = 1 ∨ r.cls = 2 := .inr ((r.request_cls (h r hr)).2.2.mp e)
        exact (named r hr hc).mpr (entries r hr hc)

/-! ### The body (10 Table 10.17, 11:R195) -/

theorem RawBody.bytes_eq (b : RawBody) :
    b.bytes = [byteOf b.roundLength.toNat, byteOf (b.roundLength.toNat / 256), b.degradeThreshold,
      byteOf b.localOffset.toNat, byteOf (b.localOffset.toNat / 256), byteOf b.encodingLapse.toNat,
      byteOf (b.encodingLapse.toNat / 256), byteOf b.returnWindow.toNat, byteOf (b.returnWindow.toNat / 256),
      byteOf b.defaultCeiling.toNat, byteOf (b.defaultCeiling.toNat / 256), byteOf (b.defaultCeiling.toNat / 65536),
      byteOf (b.defaultCeiling.toNat / 16777216), byteOf b.journalThreshold.toNat, byteOf (b.journalThreshold.toNat / 256)]
      ++ b.currentKey.toList ++ b.previousKey.toList ++ b.records.flatMap RawEnrol.bytes := by
  simp [RawBody.bytes, fields, List.range_succ, byteOf]

theorem RawBody.bytes_length (b : RawBody) : b.bytes.length = 31 + 15 * b.records.length := by
  rw [RawBody.bytes_eq]; simp only [List.length_append, records_length]; simp

/-- The scalar lengths at which a body may end lie below the keys. -/
theorem short_end {n : Nat} (h : n ∈ [0, 2, 3, 5, 7, 9, 13, 15]) : n ≤ 15 := by
  simp only [List.mem_cons, List.not_mem_nil, or_false] at h; omega

theorem bodyRecords_of (b : RawBody) (body : List Byte) (h : b.cutTo body) :
    bodyRecords body = b.records.map (fun r => if r.Good then some r.request else none) := by
  obtain ⟨held, whole | ⟨none_, short⟩⟩ := h
  · obtain rfl : body = b.bytes := by rw [held, whole, List.take_length]
    obtain ⟨p, hp, hl⟩ : ∃ p, b.bytes = p ++ b.records.flatMap RawEnrol.bytes ∧ p.length = 31 :=
      ⟨_, b.bytes_eq, by simp⟩
    unfold bodyRecords
    rw [b.bytes_length, show (31 + 15 * b.records.length - 31) / 15 = b.records.length by omega,
      ← records_read b.records p, hp, hl]
  · have : (body.length - 31) / 15 = 0 := by have := short_end short; omega
    simp [bodyRecords, this, none_]

theorem bodyEnrolments_of (b : RawBody) (body : List Byte) (h : b.cutTo body) :
    bodyEnrolments body = if b.Good then
      some ((b.records.map RawEnrol.request).foldl (fun l r => putKey EnrolReq.addr r l) []) else none := by
  simp only [bodyEnrolments, bodyRecords_of b body h]
  by_cases each : ∀ r ∈ b.records, r.Good
  · rw [(requests_of b.records).2 each, (requests_of b.records).1.mpr each]
    by_cases whole : b.Good
    · simp only [(whole_good b each).mpr whole, Bool.and_self, if_true]; rw [if_pos whole]
    · have : enrolmentOk (b.records.map RawEnrol.request) = false := by
        rw [Bool.eq_false_iff]; exact fun e => whole ((whole_good b each).mp e)
      simp [this, whole]
  · have none_ : (b.records.map (fun r => if r.Good then some r.request else none)).all Option.isSome = false := by
      rw [Bool.eq_false_iff]; exact fun e => each ((requests_of b.records).1.mp e)
    rw [none_, if_neg (fun e : b.Good => each e.1)]; rfl

theorem keys_of (b : RawBody) (body : List Byte) (h : b.cutTo body) (hl : 31 ≤ body.length) :
    (body.drop 15).take 8 = b.currentKey.toList ∧ (body.drop 23).take 8 = b.previousKey.toList := by
  obtain rfl : body = b.bytes := by
    rcases h.2 with e | ⟨-, e⟩
    · rw [h.1, e, List.take_length]
    · have := short_end e; omega
  rw [b.bytes_eq]
  constructor
  · change ((b.currentKey.toList ++ b.previousKey.toList) ++ b.records.flatMap RawEnrol.bytes).take 8 = _
    rw [List.append_assoc, List.take_append_of_le_length (by simp), List.take_of_length_le (by simp)]
  · change (((b.currentKey.toList ++ b.previousKey.toList) ++ b.records.flatMap RawEnrol.bytes).drop 8).take 8 = _
    rw [List.append_assoc, List.drop_append_of_le_length (by simp), List.drop_of_length_le (by simp), List.nil_append,
      List.take_append_of_le_length (by simp), List.take_of_length_le (by simp)]

/-- The values of a body before they are clamped. -/
theorem rawSettings_of (b : RawBody) (body : List Byte) (h : b.cutTo body) :
    rawSettings body =
      { roundLength := if 2 ≤ body.length then b.roundLength.toNat else 6144
        degradeThreshold := if 3 ≤ body.length then b.degradeThreshold.toNat else 32
        localOffset := if 5 ≤ body.length then b.localOffset.toInt else 0
        encodingLapse := if 7 ≤ body.length then b.encodingLapse.toNat else 120
        returnWindow := if 9 ≤ body.length then b.returnWindow.toNat else 120
        defaultCeiling := if 13 ≤ body.length then b.defaultCeiling.toNat else 20000
        journalThreshold := if 15 ≤ body.length then b.journalThreshold.toNat else 64
        currentKey := if 31 ≤ body.length then b.currentKey.toList else List.replicate 8 0
        previousKey := if 31 ≤ body.length then b.previousKey.toList else List.replicate 8 0 } := by
  have f : ∀ i, i < body.length → byteAt body i = byteAt b.bytes i := fun i hi => by
    rw [h.1, byteAt_take _ _ _ hi]
  simp only [rawSettings, scalarOr, Settings.mk.injEq]
  refine ⟨?_, ?_, ?_, ?_, ?_, ?_, ?_, ?_, ?_⟩ <;> refine if_ctx_congr Iff.rfl (fun hl => ?_) (fun _ => rfl)
  · simp only [u16At, f 0 (by omega), f 1 (by omega)]; rw [b.bytes_eq]; exact u16_parts _
  · simp only [f 2 (by omega)]; rw [b.bytes_eq]; rfl
  · have e : byteAt b.bytes 3 + 256 * byteAt b.bytes (3 + 1) = b.localOffset.toNat := by
      rw [b.bytes_eq]; exact u16_parts _
    simp only [i16At, u16At, f 3 (by omega), f 4 (by omega)]; rw [← i16_parts]; simp only [e]
  · simp only [u16At, f 5 (by omega), f 6 (by omega)]; rw [b.bytes_eq]; exact u16_parts _
  · simp only [u16At, f 7 (by omega), f 8 (by omega)]; rw [b.bytes_eq]; exact u16_parts _
  · simp only [u32At, u16At, f 9 (by omega), f 10 (by omega), f 11 (by omega), f 12 (by omega)]
    rw [b.bytes_eq]; exact u32_parts _
  · simp only [u16At, f 13 (by omega), f 14 (by omega)]; rw [b.bytes_eq]; exact u16_parts _
  · exact (keys_of b body h hl).1
  · exact (keys_of b body h hl).2

/-- What a body gives: its values clamped and its enrolments where they pass the checks, nothing otherwise (11:R195). -/
theorem loadBody_of (b : RawBody) (body : List Byte) (h : b.cutTo body) :
    (¬ b.Good → loadBody body = none) ∧ (b.Good → ∃ l, loadBody body = some l ∧ b.Gives body.length l) := by
  have hen := bodyEnrolments_of b body h
  have raw := rawSettings_of b body h
  refine ⟨fun hb => by simp [loadBody, hen, hb], fun hb =>
    ⟨_, by simp only [loadBody, hen, if_pos hb, Option.map_some]; rfl, ?_⟩⟩
  have order := foldl_putKey EnrolReq.addr (b.records.map RawEnrol.request) [] .nil
    (by rw [List.pairwise_map]; exact hb.2.1.imp (fun hx e => hx.1 (BitVec.eq_of_toNat_eq e.symm))) (by simp)
  refine ⟨?_, ?_, order.1, fun q => by rw [order.2]; simp⟩
  · rw [raw]
    simp only [Settings.clamped, clampNat, clampOffset, Settings.mk.injEq]
    refine ⟨?_, ?_, ?_, ?_, ?_, ?_, ?_, trivial, trivial⟩ <;> split <;> simp
  · intro outside
    rw [raw]
    simp only [Settings.clamped, decide_eq_true_eq, ne_eq, Settings.mk.injEq, not_and_or, clampNat, clampOffset, outside]
    constructor
    · rintro (e | e | e | e | e | e | e | e | e)
      · left; split at e <;> omega
      · right; left; split at e <;> omega
      · right; right; left; split at e <;> omega
      · right; right; right; left; split at e <;> omega
      · right; right; right; right; left; split at e <;> omega
      · right; right; right; right; right; left; split at e <;> omega
      · right; right; right; right; right; right; split at e <;> omega
      · exact absurd trivial e
      · exact absurd trivial e
    · rintro (⟨e, _⟩ | ⟨e, _⟩ | ⟨e, _⟩ | ⟨e, _⟩ | ⟨e, _⟩ | ⟨e, _⟩ | ⟨e, _⟩) <;> simp only [e, if_true] <;> omega

theorem records_of_bytes : ∀ (k : Nat) (l : List Byte), l.length = 15 * k →
    ∃ rs : List RawEnrol, rs.length = k ∧ rs.flatMap RawEnrol.bytes = l
  | 0, l, h => ⟨[], rfl, (List.length_eq_zero_iff.mp (by omega)).symm⟩
  | k + 1, l, h => by
    obtain ⟨r, hr⟩ := RawEnrol.of_bytes (l.take 15) (by simp; omega)
    obtain ⟨rs, h1, h2⟩ := records_of_bytes k (l.drop 15) (by simp; omega)
    exact ⟨r :: rs, by simp [h1], by rw [List.flatMap_cons, hr, h2, List.take_append_drop]⟩

theorem body_of_parts (p l : List Byte) (k : Nat) (hp : p.length = 31) (hl : l.length = 15 * k) :
    ∃ b : RawBody, b.records.length = k ∧ b.bytes = p ++ l := by
  obtain ⟨rs, h1, h2⟩ := records_of_bytes k l hl
  match p, hp with
  | [a, b, c, d, e, f, g, i, j, k, m, n, o, p, q, x1, x2, x3, x4, x5, x6, x7, x8, y1, y2, y3, y4, y5, y6, y7, y8], _ =>
    refine ⟨⟨BitVec.ofNat 16 (a.toNat + 256 * b.toNat), c, BitVec.ofNat 16 (d.toNat + 256 * e.toNat),
      BitVec.ofNat 16 (f.toNat + 256 * g.toNat), BitVec.ofNat 16 (i.toNat + 256 * j.toNat),
      BitVec.ofNat 32 (k.toNat + 256 * m.toNat + 65536 * (n.toNat + 256 * o.toNat)),
      BitVec.ofNat 16 (p.toNat + 256 * q.toNat), #v[x1, x2, x3, x4, x5, x6, x7, x8], #v[y1, y2, y3, y4, y5, y6, y7, y8],
      rs⟩, h1, ?_⟩
    rw [RawBody.bytes_eq]
    simp only [two_bytes, four_bytes, h2]
    rfl

/-- Every body that ends where one may is some fields' body. -/
theorem cutTo_exists (body : List Byte) (h : bodyEndsWell body.length) : ∃ b : RawBody, b.cutTo body := by
  rcases h with h | ⟨k, h⟩
  · have hl := short_end h
    obtain ⟨b, h1, h2⟩ := body_of_parts (body ++ List.replicate (31 - body.length) 0) [] 0 (by simp; omega) rfl
    refine ⟨b, ?_, .inr ⟨List.length_eq_zero_iff.mp h1, h⟩⟩
    rw [h2]; simp
  · obtain ⟨b, h1, h2⟩ := body_of_parts (body.take 31) (body.drop 31) k (by simp; omega) (by simp; omega)
    rw [List.take_append_drop] at h2
    exact ⟨b, by rw [h2, List.take_length], .inl (by rw [h2])⟩

theorem layout_iff (n : Nat) : layoutOk n = true ↔ bodyEndsWell n := by
  simp only [layoutOk, bodyEndsWell, Bool.or_eq_true, List.contains_iff_mem, Bool.and_eq_true, decide_eq_true_eq,
    beq_iff_eq]
  exact or_congr_right ⟨fun h => ⟨(n - 31) / 15, by omega⟩, fun ⟨k, h⟩ => by omega⟩

/-! ### The header (10 Table 10.14, 11:R194) -/

theorem RawImage.start_eq (i : RawImage) :
    i.start = [byteOf i.ident.toNat, byteOf (i.ident.toNat / 256), byteOf i.version.toNat, byteOf (i.version.toNat / 256),
      byteOf i.length.toNat, byteOf (i.length.toNat / 256), byteOf i.count.toNat, byteOf (i.count.toNat / 256),
      byteOf (i.count.toNat / 65536), byteOf (i.count.toNat / 16777216), byteOf i.bodyCheck.toNat,
      byteOf (i.bodyCheck.toNat / 256), byteOf (i.bodyCheck.toNat / 65536), byteOf (i.bodyCheck.toNat / 16777216)] := by
  simp [RawImage.start, fields, List.range_succ, byteOf]

theorem RawImage.bytes_eq (i : RawImage) :
    i.bytes = i.start ++ ([byteOf i.headerCheck.toNat, byteOf (i.headerCheck.toNat / 256)] ++ i.rest) := by
  simp [RawImage.bytes, fields, List.range_succ, byteOf]

theorem RawImage.read (i : RawImage) :
    i.bytes.length = 16 + i.rest.length ∧ u16At i.bytes 0 = i.ident.toNat ∧ u16At i.bytes 2 = i.version.toNat ∧
    headerLength i.bytes = i.length.toNat ∧ u32At i.bytes 10 = i.bodyCheck.toNat ∧ u16At i.bytes 14 = i.headerCheck.toNat ∧
    i.bytes.take 14 = i.start ∧ i.bytes.drop 16 = i.rest := by
  rw [i.bytes_eq, i.start_eq]
  exact ⟨by simp; omega, u16_parts _, u16_parts _, u16_parts _, u32_parts _, u16_parts _, rfl, rfl⟩

/-- The judgements of the header and of the body check on an image whose fields are given. -/
theorem RawImage.judged (i : RawImage) :
    (headerFormatOk i.bytes = true ↔ i.FormatOk) ∧ (headerCheckOk i.bytes = true ↔ i.HeaderOk) ∧
    bodyOf i.bytes = i.body ∧ (bodyCheckOk i.bytes = true ↔ i.BodyOk) := by
  obtain ⟨len, ident, version, length, bodyCheck, headerCheck, start, rest⟩ := i.read
  refine ⟨?_, by simp [headerCheckOk, RawImage.HeaderOk, headerCheck, start], ?_, ?_⟩
  · simp [headerFormatOk, RawImage.FormatOk, len, ident, version, length, ← BitVec.toNat_inj, and_assoc]
  · simp only [bodyOf, length, rest, RawImage.body]
  · simp [bodyCheckOk, RawImage.BodyOk, bodyCheck, bodyOf, length, rest, RawImage.body]

end Sys2Proof.Machine
end

