-- ==== Sys2Proof/Laws/Bodies.lean ====
section
/-! SUPPORT. The bodies of SET_NODE and ISSUE_CARD read back from their fields as they lie: what the readings of the model
answer on them, good and bad (10 Tables 10.12 and 10.15, 02:R27, 04:R66, R68). -/

namespace Sys2Proof.Machine

open Sys2Proof

/-! ### Optional parts (10:R186) -/

@[simp] theorem optionalPart_no_presence {α : Type} (v : Option α) : optionalPart none v = none := rfl
@[simp] theorem optionalPart_no_value {α : Type} (p : Option Bool) : optionalPart p (none : Option α) = none := by
  cases p <;> rfl
@[simp] theorem optionalPart_read {α : Type} (p : Bool) (v : α) :
    optionalPart (some p) (some v) = some (if p then some v else none) := rfl

theorem nodeActionOf_eq (k : Nat) :
    nodeActionOf k = if k ≤ 1 then some (if k = 0 then .disable else .enable) else none := by
  rcases k with _ | _ | k <;> rfl

theorem stayModeOf_eq (k : Nat) : stayModeOf k = if k ≤ 1 then some (if k = 0 then .newStay else .addCard) else none := by
  rcases k with _ | _ | k <;> rfl

theorem credKindOf_eq (k : Nat) :
    credKindOf k = if k ≤ 3 then some ([CredKind.guest, .staff, .maintenance].getD k .emergency) else none := by
  rcases k with _ | _ | _ | _ | k <;> rfl

/-! ### SET_NODE (02:R27) -/

theorem RawSetNode.bytes_eq (r : RawSetNode) :
    r.bytes = [r.addr, r.hasOos, r.oos, r.hasHoursPart, r.hasHours, byteOf r.start.toNat, byteOf (r.start.toNat / 256),
      byteOf r.stop.toNat, byteOf (r.stop.toNat / 256), r.hasAction, r.action] := by
  simp [RawSetNode.bytes, fields, List.range_succ, byteOf]

@[simp] theorem RawSetNode.bytes_length (r : RawSetNode) : r.bytes.length = 11 := by rw [RawSetNode.bytes_eq]; rfl

/-- Every 11 bytes are some body's. -/
theorem RawSetNode.of_bytes (l : List Byte) (h : l.length = 11) : ∃ r : RawSetNode, r.bytes = l := by
  match l, h with
  | [a, b, c, d, e, f, g, i, j, k, m], _ =>
    refine ⟨⟨a, b, c, d, e, BitVec.ofNat 16 (f.toNat + 256 * g.toNat), BitVec.ofNat 16 (i.toNat + 256 * j.toNat), k, m⟩, ?_⟩
    rw [RawSetNode.bytes_eq]
    simp only [two_bytes]

/-- The bytes before the action part. -/
theorem RawSetNode.take_append (r : RawSetNode) : r.bytes.take 9 ++ [r.hasAction, r.action] = r.bytes := by
  rw [RawSetNode.bytes_eq]; rfl

/-- The reading of a body is its request exactly where the fields are good. -/
theorem setNodeReq_raw (r : RawSetNode) : setNodeReq r.bytes = if r.Good then some r.request else none := by
  obtain ⟨b, hb⟩ : ∃ b, b = r.bytes := ⟨_, rfl⟩
  have h0 : byteAt b 0 = r.addr.toNat := by rw [hb, RawSetNode.bytes_eq]; rfl
  have h1 : byteAt b 1 = r.hasOos.toNat := by rw [hb, RawSetNode.bytes_eq]; rfl
  have h2 : byteAt b 2 = r.oos.toNat := by rw [hb, RawSetNode.bytes_eq]; rfl
  have h3 : byteAt b 3 = r.hasHoursPart.toNat := by rw [hb, RawSetNode.bytes_eq]; rfl
  have h4 : byteAt b 4 = r.hasHours.toNat := by rw [hb, RawSetNode.bytes_eq]; rfl
  have h5 : u16At b 5 = r.start.toNat := by rw [hb, RawSetNode.bytes_eq]; exact u16_parts _
  have h7 : u16At b 7 = r.stop.toNat := by rw [hb, RawSetNode.bytes_eq]; exact u16_parts _
  have h9 : byteAt b 9 = r.hasAction.toNat := by rw [hb, RawSetNode.bytes_eq]; rfl
  have h10 : byteAt b 10 = r.action.toNat := by rw [hb, RawSetNode.bytes_eq]; rfl
  rw [← hb]
  simp only [setNodeReq, flagPartAt, hoursPartAt, actionPartAt, optHoursAt, flagAt_eq, hoursAt, nodeActionOf_eq,
    h0, h1, h2, h3, h4, h5, h7, h9, h10, Nat.reduceAdd]
  by_cases flags : r.hasOos.toNat ≤ 1 ∧ r.oos.toNat ≤ 1 ∧ r.hasHoursPart.toNat ≤ 1 ∧ r.hasHours.toNat ≤ 1 ∧
      r.hasAction.toNat ≤ 1 ∧ r.action.toNat ≤ 1
  swap
  · rw [if_neg (fun h : r.Good => flags h.2)]
    simp only [not_and_or] at flags
    rcases flags with h | h | h | h | h | h <;>
      simp only [h, if_false, optionalPart_no_presence, optionalPart_no_value] <;> split <;> simp_all
  obtain ⟨f1, f2, f3, f4, f5, f6⟩ := flags
  simp only [f1, f2, f3, f4, f5, f6, if_true, optionalPart_read]
  rcases byte_flag _ f1 with e1 | e1 <;> rcases byte_flag _ f2 with e2 | e2 <;> rcases byte_flag _ f3 with e3 | e3 <;>
    rcases byte_flag _ f4 with e4 | e4 <;> rcases byte_flag _ f5 with e5 | e5 <;> rcases byte_flag _ f6 with e6 | e6 <;>
    simp +decide [e1, e2, e3, e4, e5, e6, addressOk, RawSetNode.Good, RawSetNode.request]

/-! ### Access images (04:R66) -/

/-- An image read from its fields is well formed exactly where they are good. -/
theorem RawAccess.wellFormed (a : RawAccess) :
    (Image.wellFormed ⟨a.base.toNat, a.span.toNat, a.mask⟩ = true) ↔ a.Good := by
  have mask : ([PointClass.roomEntry, .suiteInner, .minibar, .amenityGate, .service].any (maskNames a.mask) = true)
      ↔ a.mask.toNat % 32 ≠ 0 := by
    have : ∀ m : Byte, ([PointClass.roomEntry, .suiteInner, .minibar, .amenityGate, .service].any (maskNames m) = true)
      ↔ m.toNat % 32 ≠ 0 := by decide +kernel
    exact this a.mask
  simp only [Image.wellFormed, Bool.and_eq_true, mask, decide_eq_true_eq, beq_iff_eq, and_assoc]

/-! ### ISSUE_CARD (04:R68) -/

theorem RawIssue.bytes_eq (r : RawIssue) :
    r.bytes = [r.kind, byteOf r.serial.toNat, byteOf (r.serial.toNat / 256), byteOf (r.serial.toNat / 65536),
      byteOf (r.serial.toNat / 16777216), r.hasFirst, byteOf r.first.base.toNat, byteOf (r.first.base.toNat / 256),
      r.first.span, r.first.mask, r.hasSecond, byteOf r.second.base.toNat, byteOf (r.second.base.toNat / 256),
      r.second.span, r.second.mask, byteOf r.validStart.toNat, byteOf (r.validStart.toNat / 256),
      byteOf (r.validStart.toNat / 65536), byteOf (r.validStart.toNat / 16777216), byteOf r.validEnd.toNat,
      byteOf (r.validEnd.toNat / 256), byteOf (r.validEnd.toNat / 65536), byteOf (r.validEnd.toNat / 16777216),
      r.hasSchedule, byteOf r.start.toNat, byteOf (r.start.toNat / 256), byteOf r.stop.toNat,
      byteOf (r.stop.toNat / 256), r.hasEntry, byteOf r.entry.toNat, byteOf (r.entry.toNat / 256), r.hasMode, r.mode] := by
  simp [RawIssue.bytes, fields, List.range_succ, byteOf]

@[simp] theorem RawIssue.bytes_length (r : RawIssue) : r.bytes.length = 33 := by rw [RawIssue.bytes_eq]; rfl

/-- Every 33 bytes are some body's. -/
theorem RawIssue.of_bytes (l : List Byte) (h : l.length = 33) : ∃ r : RawIssue, r.bytes = l := by
  refine ⟨⟨l.getD 0 0, BitVec.ofNat 32 (u32At l 1), l.getD 5 0, ⟨BitVec.ofNat 16 (u16At l 6), l.getD 8 0, l.getD 9 0⟩,
    l.getD 10 0, ⟨BitVec.ofNat 16 (u16At l 11), l.getD 13 0, l.getD 14 0⟩, BitVec.ofNat 32 (u32At l 15),
    BitVec.ofNat 32 (u32At l 19), l.getD 23 0, BitVec.ofNat 16 (u16At l 24), BitVec.ofNat 16 (u16At l 26), l.getD 28 0,
    BitVec.ofNat 16 (u16At l 29), l.getD 31 0, l.getD 32 0⟩, ?_⟩
  rw [RawIssue.bytes_eq]
  simp only [u32At, u16At, byteAt, Nat.reduceAdd, two_bytes]
  have four := fun x y z w : Byte => four_bytes x y z w
  simp only at four
  simp only [four]
  apply List.ext_getElem (by simp [h])
  intro i hi hl
  rw [show l[i] = l.getD i 0 by simp [List.getD, hl]]
  simp only [List.length_cons, List.length_nil] at hi
  interval_cases i <;> rfl

theorem byte_kind (b : Byte) (h : b.toNat ≤ 3) : b = 0 ∨ b = 1 ∨ b = 2 ∨ b = 3 := by bv_omega

/-- The reading of a body is its request exactly where the fields are good. -/
theorem issueReq_raw (r : RawIssue) : issueReq r.bytes = if r.Good then some r.request else none := by
  obtain ⟨b, hb⟩ : ∃ b, b = r.bytes := ⟨_, rfl⟩
  have h0 : byteAt b 0 = r.kind.toNat := by rw [hb, RawIssue.bytes_eq]; rfl
  have h1 : u32At b 1 = r.serial.toNat := by rw [hb, RawIssue.bytes_eq]; exact u32_parts _
  have h5 : byteAt b 5 = r.hasFirst.toNat := by rw [hb, RawIssue.bytes_eq]; rfl
  have h6 : imageAt b 6 = ⟨r.first.base.toNat, r.first.span.toNat, r.first.mask⟩ := by
    rw [hb, RawIssue.bytes_eq]; exact congrArg (Image.mk · _ _) (u16_parts _)
  have h10 : byteAt b 10 = r.hasSecond.toNat := by rw [hb, RawIssue.bytes_eq]; rfl
  have h11 : imageAt b 11 = ⟨r.second.base.toNat, r.second.span.toNat, r.second.mask⟩ := by
    rw [hb, RawIssue.bytes_eq]; exact congrArg (Image.mk · _ _) (u16_parts _)
  have h15 : u32At b 15 = r.validStart.toNat := by rw [hb, RawIssue.bytes_eq]; exact u32_parts _
  have h19 : u32At b 19 = r.validEnd.toNat := by rw [hb, RawIssue.bytes_eq]; exact u32_parts _
  have h23 : byteAt b 23 = r.hasSchedule.toNat := by rw [hb, RawIssue.bytes_eq]; rfl
  have h24 : u16At b 24 = r.start.toNat := by rw [hb, RawIssue.bytes_eq]; exact u16_parts _
  have h26 : u16At b 26 = r.stop.toNat := by rw [hb, RawIssue.bytes_eq]; exact u16_parts _
  have h28 : byteAt b 28 = r.hasEntry.toNat := by rw [hb, RawIssue.bytes_eq]; rfl
  have h29 : u16At b 29 = r.entry.toNat := by rw [hb, RawIssue.bytes_eq]; exact u16_parts _
  have h31 : byteAt b 31 = r.hasMode.toNat := by rw [hb, RawIssue.bytes_eq]; rfl
  have h32 : byteAt b 32 = r.mode.toNat := by rw [hb, RawIssue.bytes_eq]; rfl
  rw [← hb]
  simp only [issueReq, modePartAt, flagAt_eq, hoursAt, stayModeOf_eq, credKindOf_eq, h0, h1, h5, h6, h10, h11, h15, h19,
    h23, h24, h26, h28, h29, h31, h32, Nat.reduceAdd]
  by_cases flags : r.kind.toNat ≤ 3 ∧ r.hasFirst = 1 ∧ r.hasSecond.toNat ≤ 1 ∧ r.hasSchedule.toNat ≤ 1 ∧
      r.hasEntry.toNat ≤ 1 ∧ r.hasMode.toNat ≤ 1 ∧ r.mode.toNat ≤ 1
  swap
  · rw [if_neg (fun h : r.Good => flags ⟨h.1, h.2.1, h.2.2.1, h.2.2.2.1, h.2.2.2.2.1, h.2.2.2.2.2.1, h.2.2.2.2.2.2.1⟩)]
    simp only [not_and_or] at flags
    rcases flags with h | h | h | h | h | h | h
    · simp only [h, if_false]
    · have : r.hasFirst.toNat ≠ 1 := fun e => h (BitVec.eq_of_toNat_eq e)
      by_cases l : r.hasFirst.toNat ≤ 1
      · simp only [l, if_true, beq_eq_false_iff_ne.mpr this]; split <;> simp_all
      · simp only [l, if_false]; split <;> simp_all
    all_goals
      simp only [h, if_false, optionalPart_no_presence, optionalPart_no_value]; split <;> simp_all
  obtain ⟨f0, f1, f2, f3, f4, f5, f6⟩ := flags
  have e0 := byte_kind _ f0
  simp only [f0, f1, f2, f3, f4, f5, f6, if_true, optionalPart_read]
  have w1 := RawAccess.wellFormed r.first
  have w2 := RawAccess.wellFormed r.second
  rcases e0 with e0 | e0 | e0 | e0 <;> rcases byte_flag _ f2 with e2 | e2 <;> rcases byte_flag _ f3 with e3 | e3 <;>
    rcases byte_flag _ f4 with e4 | e4 <;> rcases byte_flag _ f5 with e5 | e5 <;> rcases byte_flag _ f6 with e6 | e6 <;>
    simp +decide [e0, f1, e2, e3, e4, e5, e6, IssueReq.fieldsOk, RawIssue.Good, RawIssue.request, w1, w2, and_assoc]

end Sys2Proof.Machine
end

