-- ==== Sys2Proof/Laws/Rooms.lean ====
section
/-! SUPPORT. What the room commands' shared operations do, said once: the commit of charge lines and the checkout and
reopening of a folio, the revocation of some credentials, the return of an encoding, and the change of a floor. -/

namespace Sys2Proof.Machine

open Sys2Proof

/-! ### A list in ascending key order -/

/-- With ascending keys an item is found by its key. -/
theorem findKey_of_mem {α : Type} (key : α → Nat) {l : List α} {x : α} (h : l.Pairwise (fun a b => key a < key b))
    (hx : x ∈ l) : findKey key (key x) l = some x := by
  induction l with
  | nil => simp at hx
  | cons y ys ih =>
    rw [List.pairwise_cons] at h
    rcases List.mem_cons.mp hx with rfl | hx
    · simp [findKey]
    · have hne : key y ≠ key x := Nat.ne_of_lt (h.1 x hx)
      have := ih h.2 hx
      simp only [findKey, List.find?_cons, beq_eq_false_iff_ne.mpr hne] at this ⊢
      exact this

/-- Items taken out of an ascending list are no longer found, every other still is. -/
theorem findKey_filter {α : Type} (key : α → Nat) {l : List α} (h : l.Pairwise (fun a b => key a < key b)) (k : Nat)
    (q : α → Bool) : findKey key k (l.filter q) = (findKey key k l).filter q := by
  cases hx : findKey key k l with
  | none =>
    rw [findKey_none] at hx
    exact (findKey_none key).mpr (fun x hm => hx x (List.mem_filter.mp hm).1)
  | some x =>
    obtain ⟨hk, hm⟩ := findKey_some key hx
    cases hq : q x with
    | true =>
      have := findKey_of_mem key (h.filter q) (List.mem_filter.mpr ⟨hm, hq⟩)
      rw [hk] at this
      simp [this, Option.filter, hq]
    | false =>
      rw [show Option.filter q (some x) = none by simp [Option.filter, hq], findKey_none]
      intro y hy hyk
      obtain ⟨hy, hqy⟩ := List.mem_filter.mp hy
      have := findKey_of_mem key h hy
      rw [hyk, hx] at this
      rw [Option.some.inj this, hqy] at hq
      exact absurd hq (by simp)

/-! ### Records appended one after another -/

@[simp] theorem Journal.pushAll_nil (j : Journal) : j.pushAll [] = j := rfl
@[simp] theorem Journal.pushAll_cons (j : Journal) (e : Nat × Entry) (es : List (Nat × Entry)) :
    j.pushAll (e :: es) = (j.push e.1 e.2).pushAll es := rfl
theorem Journal.pushAll_append (j : Journal) (a b : List (Nat × Entry)) :
    j.pushAll (a ++ b) = (j.pushAll a).pushAll b := by simp [Journal.pushAll]

/-! ### Lookups that follow a table alone -/

theorem State.now_eq {s t : State} (h : t.time = s.time) : t.now = s.now := by simp [State.now, h]

/-- The point of an address, and the ROOM_ENTRY node of a point, follow the addresses and enrolments alone. -/
theorem State.pointOf_enrolled (s : State) (a : Nat) :
    s.pointOf a = (s.enrolled.find? (fun r => r.addr == a)).map (·.enrol.point) := by
  simp only [State.pointOf, State.node?, findKey, State.enrolled, List.find?_map, Option.map_map]; rfl

theorem State.roomNode_enrolled (s : State) (p : Nat) : (s.roomNode? p).map Node.addr
    = (s.enrolled.find? (fun r => r.enrol.point == p && r.enrol.cls == .roomEntry)).map (·.addr) := by
  simp only [State.roomNode?, State.enrolled, List.find?_map, Option.map_map]; rfl

theorem State.pointOf_congr {s t : State} (h : t.enrolled = s.enrolled) (a : Nat) : t.pointOf a = s.pointOf a := by
  rw [State.pointOf_enrolled, State.pointOf_enrolled, h]

theorem State.roomNode_congr {s t : State} (h : t.enrolled = s.enrolled) (p : Nat) :
    (t.roomNode? p).map Node.addr = (s.roomNode? p).map Node.addr := by
  rw [State.roomNode_enrolled, State.roomNode_enrolled, h]

theorem State.chargeRecords_congr {s t : State} (hn : t.now = s.now) (h : t.enrolled = s.enrolled) (due : List ChargeLine) :
    t.chargeRecords due = s.chargeRecords due := by
  simp [State.chargeRecords, hn, State.pointOf_congr h]

/-! ### Charge lines committed (08:R157, R158) -/

/-- A line committed leaves the pool without the lines that name its compartment. -/
theorem State.commitLine_pool (s : State) (l : ChargeLine) :
    (s.commitLine l).minibar.pool = s.minibar.pool.filter (fun x => !x.names l.node l.comp) := by
  simp [State.commitLine, State.setPool]

/-- It raises the balance of its folio, stopping at 9,999,999, lowers its pending total, and leaves every other folio. -/
theorem State.commitLine_folio? (s : State) (l : ChargeLine) (q : Nat) :
    (s.commitLine l).folio? q = if q = l.folio then (s.folio? q).map (Folio.committed [l]) else s.folio? q := by
  have hk : ∀ x : Folio, ({ x with balance := satAdd 9999999 x.balance l.amount, pendingTotal := x.pendingTotal - l.amount } : Folio).point = x.point :=
    fun _ => rfl
  split
  · next h =>
    subst h
    simp only [State.commitLine, State.folio?, State.append_minibar, State.modFolio_minibar, State.setPool]
    rw [findKey_modKey _ _ hk]
    rfl
  · next h =>
    simp only [State.commitLine, State.folio?, State.append_minibar, State.modFolio_minibar, State.setPool]
    exact findKey_modKey_ne _ _ hk h _

/-- It writes MINIBAR_CHARGE. -/
theorem State.commitLine_journal (s : State) (l : ChargeLine) :
    (s.commitLine l).journal = s.journal.pushAll (s.chargeRecords [l]) := by
  simp [State.commitLine, State.setPool, State.chargeRecords, State.now]

theorem State.commitLine_points (s : State) (l : ChargeLine) :
    (s.commitLine l).minibar.folios.map Folio.point = s.minibar.folios.map Folio.point := by
  simp only [State.commitLine, State.append_minibar, State.modFolio_minibar, State.setPool]
  exact modKey_map_key Folio.point (fun f => { f with balance := satAdd 9999999 f.balance l.amount, pendingTotal := f.pendingTotal - l.amount }) (fun _ => rfl) _ _

theorem Folio.committed_cons (l : ChargeLine) (due : List ChargeLine) (f : Folio) :
    f.committed (l :: due) = (f.committed [l]).committed due := rfl

/-- Lines committed in their order: what they do to the pool, each folio, and the journal. -/
theorem State.commitLines (due : List ChargeLine) : ∀ s : State,
    let u := due.foldl (fun t l => t.commitLine l) s
    u.minibar.pool = s.minibar.pool.filter (fun x => !due.any (fun l => x.names l.node l.comp)) ∧
    (∀ q, u.folio? q = (s.folio? q).map (Folio.committed (due.filter (fun l => l.folio == q)))) ∧
    u.minibar.folios.map Folio.point = s.minibar.folios.map Folio.point ∧
    u.journal = s.journal.pushAll (s.chargeRecords due) := by
  induction due with
  | nil =>
    intro s
    refine ⟨by simp, fun q => ?_, rfl, rfl⟩
    show s.folio? q = _
    cases s.folio? q <;> rfl
  | cons l due ih =>
    intro s
    obtain ⟨i1, i2, i3, i4⟩ := ih (s.commitLine l)
    have hn : (s.commitLine l).now = s.now := State.now_eq (by simp)
    have he : (s.commitLine l).enrolled = s.enrolled := by simp [State.enrolled]
    refine ⟨?_, fun q => ?_, ?_, ?_⟩
    · rw [List.foldl_cons, i1, State.commitLine_pool, List.filter_filter]
      congr 1; funext x; simp [Bool.and_comm]
    · rw [List.foldl_cons, i2, State.commitLine_folio?]
      by_cases h : q = l.folio
      · subst h; simp only [if_true, Option.map_map, List.filter_cons, beq_self_eq_true]; rfl
      · have : (l.folio == q) = false := by simpa using Ne.symm h
        simp [h, this]
    · rw [List.foldl_cons, i3, State.commitLine_points]
    · rw [List.foldl_cons, i4, State.commitLine_journal, State.chargeRecords_congr hn he, ← Journal.pushAll_append]
      simp [State.chargeRecords]

/-! ### The checkout of a folio (08:R162) -/

/-- With no two lines naming one compartment, lines that name one are one. -/
theorem line_once {pool : List ChargeLine} (h : pool.Pairwise (fun l m => ¬ (l.node = m.node ∧ l.comp = m.comp)))
    {x y : ChargeLine} (hx : x ∈ pool) (hy : y ∈ pool) (hs : x.node = y.node ∧ x.comp = y.comp) : x = y := by
  induction pool with
  | nil => simp at hx
  | cons a l ih =>
    rw [List.pairwise_cons] at h
    rcases List.mem_cons.mp hx with rfl | hx' <;> rcases List.mem_cons.mp hy with rfl | hy'
    · rfl
    · exact absurd hs (h.1 y hy')
    · exact absurd ⟨hs.1.symm, hs.2.symm⟩ (h.1 x hx')
    · exact ih h.2 hx' hy'

/-- Committed lines leave a folio its point number, ceiling, openness and opening time. -/
theorem Folio.committed_rest (due : List ChargeLine) : ∀ f : Folio,
    f.committed due = { f with balance := (f.committed due).balance, pendingTotal := (f.committed due).pendingTotal } := by
  induction due with
  | nil => intro f; rfl
  | cons l due ih => intro f; rw [Folio.committed_cons, ih]; rfl

theorem Folio.committed_pendingTotal (due : List ChargeLine) : ∀ f : Folio,
    (f.committed due).pendingTotal = f.pendingTotal - (due.map (·.amount)).sum := by
  induction due with
  | nil => intro f; simp [Folio.committed]
  | cons l due ih => intro f; rw [Folio.committed_cons, ih]; simp [Folio.committed]; omega

theorem State.folio?_mem {s : State} {p : Nat} {f : Folio} (h : s.folio? p = some f) :
    f.point = p ∧ f ∈ s.minibar.folios := findKey_some Folio.point h

/-- The due lines of a folio leave it with nothing pending. -/
theorem State.linesDue_total {s : State} {p : Nat} {f : Folio} (hl : s.FolioLaw) (h : s.folio? p = some f) :
    (f.committed (s.linesDue p)).pendingTotal = 0 := by
  obtain ⟨hp, hm⟩ := State.folio?_mem h
  rw [Folio.committed_pendingTotal, hl.total f hm, State.linesDue, hp, h]
  by_cases ho : f.isOpen = true
  · simp [ho, State.linesOf]
  · have : s.linesOf p = [] := by
      rw [State.linesOf, List.filter_eq_nil_iff]
      intro l hl' hlp
      obtain ⟨g, hg, hg', hgo⟩ := hl.lines l hl'
      have : g = f := by
        have h1 := findKey_of_mem Folio.point hl.foliosAscending hg
        rw [show g.point = p by rw [hg']; simpa using hlp, show findKey Folio.point p s.minibar.folios = some f from h] at h1
        exact (Option.some.inj h1).symm
      exact ho (this ▸ hgo)
    simp [this]

/-- What a checkout of a folio leaves: the lines due committed and the folio CLOSED, every other folio and line standing,
one MINIBAR_CHARGE for each line, the final balance its balance. -/
theorem State.checkoutFolio_spec {s t : State} (hm : t.minibar = s.minibar) (hn : t.now = s.now)
    (he : t.enrolled = s.enrolled) (p : Nat) :
    FolioCheckedOut p (fun f => { f with isOpen := false }) s (t.checkoutFolio p) ∧
    (t.checkoutFolio p).journal = t.journal.pushAll (s.chargeRecords (s.linesDue p)) ∧
    (t.checkoutFolio p).balanceOf p = s.finalBalance p := by
  have hf : ∀ q, t.folio? q = s.folio? q := fun q => by simp [State.folio?, hm]
  have hcomm : ∀ q, (t.commitWhere (fun l => l.folio == p)).folio? q =
      (t.folio? q).map (Folio.committed ((t.minibar.pool.filter (fun l => l.folio == p)).filter (fun l => l.folio == q))) :=
    (State.commitLines _ t).2.1
  have hstay : (s.folio? p).any (·.isOpen) = false → t.checkoutFolio p = t := by
    intro h
    simp only [State.checkoutFolio, hf]
    cases hs : s.folio? p with
    | none => rfl
    | some f => simp only [hs, Option.any_some] at h; simp [h]
  by_cases ho : (s.folio? p).any (·.isOpen) = true
  · obtain ⟨f, hs, hfo⟩ : ∃ f, s.folio? p = some f ∧ f.isOpen = true := by
      cases hs : s.folio? p with
      | none => simp [hs] at ho
      | some f => exact ⟨f, rfl, by simpa [hs] using ho⟩
    have hdue : s.linesDue p = t.minibar.pool.filter (fun l => l.folio == p) := by simp [State.linesDue, ho, hm]
    obtain ⟨c1, c2, c3, c4⟩ := State.commitLines (s.linesDue p) t
    have hu : t.checkoutFolio p = (((s.linesDue p).foldl (fun t l => t.commitLine l) t).endSessionsOf p).modFolio p (fun f => { f with isOpen := false }) := by
      simp only [State.checkoutFolio, hf, hs, hfo, if_true, State.commitWhere, hdue]
    have hk : ∀ x : Folio, ({ x with isOpen := false } : Folio).point = x.point := fun _ => rfl
    have hfil : ∀ q, (s.linesDue p).filter (fun l => l.folio == q) = if q = p then s.linesDue p else [] := by
      intro q
      rw [hdue, List.filter_filter]
      by_cases hq : q = p
      · subst hq; simp
      · rw [if_neg hq, List.filter_eq_nil_iff]
        intro l _ h
        simp only [Bool.and_eq_true, beq_iff_eq] at h
        exact hq (h.1.symm.trans h.2)
    have hp : (t.checkoutFolio p).folio? p = (s.folio? p).map (fun f => { f.committed (s.linesDue p) with isOpen := false }) := by
      rw [hu, State.modFolio_folio? _ _ _ hk]
      show Option.map _ (((s.linesDue p).foldl (fun t l => t.commitLine l) t).folio? p) = _
      rw [c2, hf, hfil, if_pos rfl, Option.map_map]; rfl
    have hq : ∀ q, q ≠ p → (t.checkoutFolio p).folio? q = s.folio? q := by
      intro q hne
      rw [hu]
      show findKey Folio.point q (modKey Folio.point p _ _) = _
      rw [findKey_modKey_ne _ _ hk hne]
      show State.folio? ((s.linesDue p).foldl (fun t l => t.commitLine l) t) q = _
      rw [c2, hf, hfil, if_neg hne]
      cases s.folio? q <;> rfl
    have hpool : (t.checkoutFolio p).minibar.pool = s.minibar.pool.filter (fun x => !(s.linesDue p).any (fun l => x.names l.node l.comp)) := by
      rw [hu]; show ((s.linesDue p).foldl (fun t l => t.commitLine l) t).minibar.pool = _
      rw [c1, hm]
    refine ⟨⟨hp, fun hl g hg => ?_, hq, ?_, fun _ l hl hlp => ?_, fun hd => ?_⟩, ?_, ?_⟩
    · rw [hp, hs] at hg
      simp only [Option.map_some, Option.some.injEq] at hg
      rw [← hg]; exact State.linesDue_total hl hs
    · rw [hu]
      show (modKey Folio.point p _ _).map Folio.point = _
      rw [modKey_map_key Folio.point _ hk]
      show ((s.linesDue p).foldl (fun t l => t.commitLine l) t).minibar.folios.map Folio.point = _
      rw [c3, hm]
    · rw [hpool, List.mem_filter] at hl
      have : l ∈ s.linesDue p := by rw [hdue, hm]; exact List.mem_filter.mpr ⟨hl.1, by simpa using hlp⟩
      have h2 : (s.linesDue p).any (fun m => l.names m.node m.comp) = true :=
        List.any_eq_true.mpr ⟨l, this, by simp [ChargeLine.names]⟩
      simp [h2] at hl
    · rw [hpool]
      apply List.filter_congr
      intro x hx
      congr 1
      rw [Bool.eq_iff_iff]
      simp only [List.any_eq_true, Bool.and_eq_true, beq_iff_eq, ho, true_and, ChargeLine.names]
      constructor
      · rintro ⟨l, hl, hl1, hl2⟩
        rw [hdue, hm, List.mem_filter] at hl
        have : x = l := line_once hd hx hl.1 ⟨hl1, hl2⟩
        rw [this]; simpa using hl.2
      · intro h
        exact ⟨x, by rw [hdue, hm]; exact List.mem_filter.mpr ⟨hx, by simpa using h⟩, rfl, rfl⟩
    · rw [hu]
      show ((s.linesDue p).foldl (fun t l => t.commitLine l) t).journal = _
      rw [c4, State.chargeRecords_congr hn he]
    · rw [State.balanceOf, hp, State.finalBalance, Option.map_map]; rfl
  · have ho' : (s.folio? p).any (·.isOpen) = false := by simpa using ho
    have hd : s.linesDue p = [] := by simp [State.linesDue, ho']
    rw [hstay ho', hd]
    refine ⟨⟨?_, fun hl g hg => ?_, fun q _ => hf q, by rw [hm], fun h => absurd h ho, fun _ => ?_⟩, by simp [State.chargeRecords], ?_⟩
    · rw [hf, hd]
      cases hs : s.folio? p with
      | none => rfl
      | some f =>
        simp only [hs, Option.any_some] at ho'
        simp only [Option.map_some, Folio.committed, List.foldl_nil, ← ho']
    · rw [hf] at hg
      have := State.linesDue_total hl hg
      rwa [hd] at this
    · rw [hm, List.filter_eq_self.mpr]; intro l _; simp [ho']
    · simp only [State.balanceOf, State.finalBalance, hf, hd]; rfl

/-! ### Revocations (04:R65, 05:R95) -/

/-- What holds of a state before, and of its slot retired with the record written, and is kept when a list entry takes a
new form, holds after a revocation. -/
theorem State.revoke_frame {α : Type} (f : State → α) (s : State) (k : Nat) (r : RevReason)
    (h1 : ∀ e, f ((s.retireSlot k s.now (.revoked s.now r)).append e) = f s)
    (h2 : ∀ t e c x, f (State.reformEntry e c x t) = f t) : f (s.revoke k r) = f s := by
  unfold State.revoke
  split
  · rfl
  · split
    · dsimp only
      split
      · split
        · exact h1 _
        · cases State.entry? _ _ with
          | none => exact h1 _
          | some e => exact (h2 _ _ _ _).trans (h1 _)
      · exact h1 _
    · rfl

/-- A revocation retires the slot of a current credential, and leaves the store otherwise. -/
theorem State.revoke_store (s : State) (k : Nat) (r : RevReason) : (s.revoke k r).store =
    if (s.cred? k).any (fun c => c.st.current) then (s.retireSlot k s.now (.revoked s.now r)).store else s.store := by
  unfold State.revoke
  cases h : s.cred? k with
  | none => rfl
  | some c =>
    dsimp only
    (repeat' split) <;> simp_all

/-- It makes a current credential REVOKED and leaves every other. -/
theorem State.revoke_cred? (s : State) (k : Nat) (r : RevReason) (j : Nat) : (s.revoke k r).cred? j
    = (s.cred? j).map (fun c => if j = k ∧ c.st.current = true then { c with st := .revoked s.now r } else c) := by
  have hj : (s.revoke k r).cred? j = findKey Cred.number j (s.revoke k r).store.recs := rfl
  rw [hj, State.revoke_store]
  cases h : s.cred? k with
  | none =>
    show s.cred? j = _
    by_cases hjk : j = k
    · subst hjk; simp [h]
    · simp [hjk]
  | some c =>
    by_cases hc : c.st.current = true
    · simp only [Option.any_some, hc, if_true]
      show findKey Cred.number j (modKey Cred.number k (fun c => { c with st := .revoked s.now r }) s.store.recs) = _
      have hk : ∀ x : Cred, ({ x with st := .revoked s.now r } : Cred).number = x.number := fun _ => rfl
      by_cases hjk : j = k
      · subst hjk
        rw [findKey_modKey _ _ hk, show findKey Cred.number j s.store.recs = some c from h, h]
        simp [hc]
      · rw [findKey_modKey_ne _ _ hk hjk]
        show s.cred? j = _
        simp [hjk]
    · simp only [Option.any_some, hc]
      show s.cred? j = _
      by_cases hjk : j = k
      · subst hjk; simp [h, hc]
      · simp [hjk]

/-- It writes CARD_REVOKED for a current credential, and nothing for another. -/
theorem State.revoke_journal (s : State) (k : Nat) (r : RevReason) : (s.revoke k r).journal
    = s.journal.pushAll (s.revokedRecords (((s.cred? k).filter (fun c => c.st.current)).toList) r) := by
  have hnum : ∀ c, s.cred? k = some c → c.number = k := fun c h => (findKey_some Cred.number h).1
  unfold State.revoke
  cases h : s.cred? k with
  | none => rfl
  | some c =>
    dsimp only
    have hk := hnum c h
    (repeat' split) <;> simp_all [State.revokedRecords, Option.filter, State.now]

/-- A revocation leaves the free list. -/
@[simp] theorem State.revoke_free (s : State) (k : Nat) (r : RevReason) : (s.revoke k r).store.free = s.store.free := by
  rw [State.revoke_store]; split <;> rfl

/-- Of a credential that is not SUSPENDED, or for RECYCLED, it leaves the revocation list and the room records. -/
theorem State.revoke_revoc (s : State) (k : Nat) (r : RevReason)
    (h : r = .recycled ∨ ∀ c, s.cred? k = some c → ∀ w t, c.st ≠ .suspended w t) : (s.revoke k r).revoc = s.revoc := by
  unfold State.revoke
  cases hc : s.cred? k with
  | none => rfl
  | some c =>
    dsimp only
    split
    · split
      · next w t hst =>
        rcases h with rfl | h
        · simp
        · exact absurd hst (h c hc w t)
      · simp
    · rfl

/-! ### Operations that leave every address and enrolment -/

theorem State.enrolled_map (s : State) (f : Node → Node) (hf : ∀ n, (f n).addr = n.addr ∧ (f n).enrol = n.enrol) :
    ({ s with nodes := s.nodes.map f } : State).enrolled = s.enrolled := by
  simp only [State.enrolled, List.map_map]
  exact List.map_congr_left (fun n _ => by simp [hf n])

theorem State.enrolled_modNode (s : State) (a : Nat) (f : Node → Node) (hf : ∀ n, (f n).addr = n.addr ∧ (f n).enrol = n.enrol) :
    (s.modNode a f).enrolled = s.enrolled := by
  refine State.enrolled_map s (fun n => if n.addr = a then f n else n) (fun n => ?_)
  split <;> simp [hf n]

theorem State.enrolled_of_nodes {s t : State} (h : t.nodes = s.nodes) : t.enrolled = s.enrolled := by
  simp [State.enrolled, h]

theorem State.afterDrop_enrol (s : State) (d : Nat) (n : Node) :
    (s.afterDrop d n).addr = n.addr ∧ (s.afterDrop d n).enrol = n.enrol := by
  unfold State.afterDrop Node.marked
  (repeat' split) <;> exact ⟨rfl, rfl⟩

@[simp] theorem State.emit_enrolled (s : State) (b : ChangeBody) : (s.emit b).enrolled = s.enrolled := by
  show s.dropOldest.enrolled = _
  unfold State.dropOldest
  split
  · rfl
  · split
    · rfl
    · exact State.enrolled_map s _ (State.afterDrop_enrol s _)

@[simp] theorem State.setFallback_enrolled (s : State) (a : Nat) (m : FallbackMode) :
    (s.setFallback a m).enrolled = s.enrolled := by
  rw [State.setFallback, State.enrolled_of_nodes (State.raise_nodes _ _)]
  exact State.enrolled_modNode s a _ (fun _ => ⟨rfl, rfl⟩)

@[simp] theorem State.restrictCheck_enrolled (s : State) (c : Option Nat) : (s.restrictCheck c).enrolled = s.enrolled :=
  State.foldl_frame (·.enrolled) _ (fun t a => by dsimp only; (repeat' split) <;> simp) _ s

@[simp] theorem State.relaxCheck_enrolled (s b : State) : (s.relaxCheck b).enrolled = s.enrolled :=
  State.enrolled_map s _ (fun n => by split <;> exact ⟨rfl, rfl⟩)

@[simp] theorem State.setEntries_enrolled (s : State) (es : List ListEntry) : (s.setEntries es).enrolled = s.enrolled := rfl

@[simp] theorem State.pushEntry_enrolled (s : State) (x : Nat) (c : Option Nat) (r : ListReason) (t : Nat) :
    (s.pushEntry x c r t).enrolled = s.enrolled := by simp [State.pushEntry]

@[simp] theorem State.reformEntry_enrolled (s : State) (e : ListEntry) (c : Option Nat) (r : ListReason) :
    (s.reformEntry e c r).enrolled = s.enrolled := by simp [State.reformEntry]

@[simp] theorem State.removeEntry_enrolled (s : State) (e : ListEntry) : (s.removeEntry e).enrolled = s.enrolled := by
  simp [State.removeEntry]

@[simp] theorem State.removeSerial_enrolled (s : State) (x : Nat) : (s.removeSerial x).enrolled = s.enrolled := by
  unfold State.removeSerial; split <;> simp

@[simp] theorem State.append_enrolled (s : State) (e : Entry) : (s.append e).enrolled = s.enrolled :=
  State.enrolled_of_nodes (by simp)

@[simp] theorem State.revoke_enrolled (s : State) (k : Nat) (r : RevReason) : (s.revoke k r).enrolled = s.enrolled := by
  exact State.revoke_frame (·.enrolled) s k r (fun e => State.enrolled_of_nodes (by simp)) (fun _ _ _ _ => by simp)

@[simp] theorem State.revokeAll_enrolled (s : State) (ks : List Nat) (r : RevReason) :
    (s.revokeAll ks r).enrolled = s.enrolled := State.foldl_frame (·.enrolled) _ (fun _ _ => by simp) ks s

/-! ### Operations that leave the room records -/

@[simp] theorem State.emit_rooms (s : State) (b : ChangeBody) : (s.emit b).revoc.rooms = s.revoc.rooms := by
  show s.dropOldest.revoc.rooms = _
  unfold State.dropOldest
  (repeat' split) <;> rfl

@[simp] theorem State.removeEntry_rooms (s : State) (e : ListEntry) : (s.removeEntry e).revoc.rooms = s.revoc.rooms := by
  simp [State.removeEntry, State.setEntries]

@[simp] theorem State.removeSerial_rooms (s : State) (x : Nat) : (s.removeSerial x).revoc.rooms = s.revoc.rooms := by
  unfold State.removeSerial; split <;> simp

@[simp] theorem State.reformEntry_rooms (s : State) (e : ListEntry) (c : Option Nat) (r : ListReason) :
    (s.reformEntry e c r).revoc.rooms = s.revoc.rooms := by
  simp [State.reformEntry, State.pushEntry, State.setEntries]

@[simp] theorem State.revoke_rooms (s : State) (k : Nat) (r : RevReason) : (s.revoke k r).revoc.rooms = s.revoc.rooms :=
  State.revoke_frame (·.revoc.rooms) s k r (fun e => by simp) (fun _ _ _ _ => by simp)

@[simp] theorem State.revokeAll_rooms (s : State) (ks : List Nat) (r : RevReason) :
    (s.revokeAll ks r).revoc.rooms = s.revoc.rooms := State.foldl_frame (·.revoc.rooms) _ (fun _ _ => by simp) ks s

/-! ### Revocations of several credentials -/

theorem State.revokeAll_cons (s : State) (k : Nat) (ks : List Nat) (r : RevReason) :
    s.revokeAll (k :: ks) r = (s.revoke k r).revokeAll ks r := rfl

/-- Revocations make the current credentials among some numbers REVOKED and leave every other. -/
theorem State.revokeAll_cred? (r : RevReason) (j : Nat) : ∀ (ks : List Nat) (s : State), (s.revokeAll ks r).cred? j
    = (s.cred? j).map (fun c => if j ∈ ks ∧ c.st.current = true then { c with st := .revoked s.now r } else c)
  | [], s => by simp [State.revokeAll]
  | k :: ks, s => by
    rw [State.revokeAll_cons, State.revokeAll_cred? r j ks, State.revoke_cred?, Option.map_map]
    have hn : (s.revoke k r).now = s.now := State.now_eq (by simp)
    congr 1; funext c
    simp only [Function.comp, hn, List.mem_cons]
    have hr : (CredState.revoked s.now r).current = false := rfl
    by_cases hc : c.st.current = true
    · by_cases hjk : j = k
      · simp [hjk, hc, hr]
      · simp [hjk, hc]
    · simp [hc]

@[simp] theorem State.revokeAll_free (s : State) (ks : List Nat) (r : RevReason) :
    (s.revokeAll ks r).store.free = s.store.free := State.foldl_frame (·.store.free) _ (fun _ _ => by simp) ks s

/-- One CARD_REVOKED is written for each current credential of an ascending list, in its order. -/
theorem State.revokeAll_journal (r : RevReason) : ∀ (cs : List Cred) (s : State),
    cs.Pairwise (fun c d => c.number < d.number) → (∀ c ∈ cs, s.cred? c.number = some c) →
    (s.revokeAll (cs.map Cred.number) r).journal
      = s.journal.pushAll (s.revokedRecords (cs.filter (fun c => c.st.current)) r)
  | [], s, _, _ => rfl
  | c :: cs, s, hp, hc => by
    rw [List.pairwise_cons] at hp
    have hn : (s.revoke c.number r).now = s.now := State.now_eq (by simp)
    rw [List.map_cons, State.revokeAll_cons, State.revokeAll_journal r cs _ hp.2, State.revoke_journal, hc c (by simp),
      ← Journal.pushAll_append]
    · congr 1
      by_cases h : c.st.current = true <;> simp [State.revokedRecords, hn, h, Option.filter]
    · intro d hd
      have hne : d.number ≠ c.number := Nat.ne_of_gt (hp.1 d hd)
      rw [State.revoke_cred?, hc d (by simp [hd])]
      simp [hne]

/-- Of credentials none of which is SUSPENDED, or for RECYCLED, revocations leave the revocation list and the rooms. -/
theorem State.revokeAll_revoc (r : RevReason) : ∀ (ks : List Nat) (s : State),
    (r = .recycled ∨ ∀ k ∈ ks, ∀ c, s.cred? k = some c → ∀ w t, c.st ≠ .suspended w t) →
    (s.revokeAll ks r).revoc = s.revoc
  | [], s, _ => rfl
  | k :: ks, s, h => by
    have hr := State.revoke_revoc s k r (h.imp id (fun h => h k (by simp)))
    rw [State.revokeAll_cons, State.revokeAll_revoc r ks, hr]
    refine h.imp id (fun h j hj c hc => ?_)
    rw [State.revoke_cred?] at hc
    cases hd : s.cred? j with
    | none => simp [hd] at hc
    | some d =>
      simp only [hd, Option.map_some, Option.some.injEq] at hc
      rw [← hc]
      split
      · simp
      · exact h j (by simp [hj]) d hd

/-- In an ascending store, the revocation of the credentials that pass a test: exactly the current ones among them become
REVOKED, each with its record, in ascending number. -/
theorem State.revokeAll_where {s : State} (hs : s.store.recs.Pairwise (fun c d => c.number < d.number)) (P : Cred → Bool)
    (r : RevReason) :
    let u := s.revokeAll ((s.store.recs.filter P).map Cred.number) r
    let gone := s.store.recs.filter (fun c => P c && c.st.current)
    (∀ k, u.cred? k = (s.cred? k).map (fun c => if c ∈ gone then { c with st := .revoked s.now r } else c)) ∧
    u.journal = s.journal.pushAll (s.revokedRecords gone r) ∧
    ((r = .recycled ∨ ∀ c ∈ gone, ∀ w t, c.st ≠ .suspended w t) → u.revoc = s.revoc) := by
  have hmem : ∀ c ∈ s.store.recs, s.cred? c.number = some c := fun c hc => findKey_of_mem Cred.number hs hc
  intro u gone
  refine ⟨fun k => ?_, ?_, fun h => ?_⟩
  · rw [State.revokeAll_cred?]
    cases hc : s.cred? k with
    | none => rfl
    | some c =>
      obtain ⟨hk, hcm⟩ := findKey_some Cred.number hc
      have : (k ∈ (s.store.recs.filter P).map Cred.number ∧ c.st.current = true) ↔ c ∈ gone := by
        simp only [gone, List.mem_map, List.mem_filter, Bool.and_eq_true]
        constructor
        · rintro ⟨⟨d, ⟨hd, hp⟩, hdk⟩, hcur⟩
          have := hmem d hd
          rw [hdk, hc] at this
          cases this
          exact ⟨hd, hp, hcur⟩
        · rintro ⟨-, hp, hcur⟩
          exact ⟨⟨c, ⟨hcm, hp⟩, hk⟩, hcur⟩
      simp only [Option.map_some, this]
  · rw [State.revokeAll_journal r _ s (hs.filter P) (fun c hc => hmem c (List.mem_filter.mp hc).1), List.filter_filter]
    simp only [gone, Bool.and_comm]
  · refine State.revokeAll_revoc r _ s (h.imp id (fun h k hk c hc w t hst => ?_))
    obtain ⟨d, hd, rfl⟩ := List.mem_map.mp hk
    obtain ⟨hd, hp⟩ := List.mem_filter.mp hd
    rw [hmem d hd] at hc
    cases hc
    exact h c (List.mem_filter.mpr ⟨hd, by rw [hp, hst]; rfl⟩) w t hst

/-! ### The return of an encoding (04:R77, R79) -/

/-- The pending guest issue of a room is returned: its slot VACANT at the tail of the free list, with CARD_LAPSED. -/
theorem State.cancelPending_spec {s : State} (hs : s.store.recs.Pairwise (fun c d => c.number < d.number)) (p : Nat)
    (cause : LapseCause) :
    let u := s.cancelPending p cause
    u.store.recs = s.store.recs.filter (fun c => !decide (c ∈ s.encodingOf p)) ∧
    u.store.free = s.store.free ++ (s.encodingOf p).map Cred.number ∧
    u.journal = s.journal.pushAll (s.lapsedRecords (s.encodingOf p) cause) := by
  have hfind : s.encodingOf p = (s.pendingIssue? p).toList := by
    simp only [State.encodingOf, State.pendingIssue?]
    induction s.store.recs with
    | nil => rfl
    | cons c cs ih =>
      simp only [List.filter_cons, List.find?_cons]
      cases c.guestOf p && c.st.isEncoding
      · simpa using ih
      · rfl
  rw [hfind]
  intro u
  simp only [u, State.cancelPending]
  cases h : s.pendingIssue? p with
  | none => exact ⟨by simp, by simp, rfl⟩
  | some c =>
    have hc : c ∈ s.store.recs := List.mem_of_find?_eq_some h
    have hmem := findKey_of_mem Cred.number hs hc
    simp only [State.returnEncoding, show s.cred? c.number = some c from hmem, State.append_store, Option.toList_some]
    refine ⟨List.filter_congr (fun d hd => ?_), rfl, by simp [State.lapsedRecords, State.now]⟩
    have : d.number = c.number ↔ d = c := by
      refine ⟨fun e => ?_, fun e => e ▸ rfl⟩
      have := findKey_of_mem Cred.number hs hd
      rw [e, hmem] at this
      exact (Option.some.inj this).symm
    by_cases e : d = c
    · simp [e]
    · simp [e, mt this.mp e]

/-! ### The guest cards that a room command ends (04:R65, R79, 05:R88, R92) -/

/-- After the pending issue of a room is returned, the revocation of its guests that pass a test ends exactly those and the
encoding, each revoked one with its record; with none of them SUSPENDED the revocation list stands. -/
theorem State.guests_ended {s t : State} (hs : s.store.recs.Pairwise (fun c d => c.number < d.number)) (p : Nat)
    (cause : LapseCause) (ht : t.store = (s.cancelPending p cause).store) (hn : t.now = s.now) (test : Nat → Bool)
    (r : RevReason) :
    let u := t.revokeAll (t.guestsWhere p test) r
    GuestsEnded p test r s u ∧ u.journal = t.journal.pushAll (s.revokedRecords (s.guestsOf p test) r) ∧
    ((∀ c ∈ s.guestsOf p test, ∀ w t, c.st ≠ .suspended w t) → u.revoc = t.revoc) := by
  obtain ⟨e1, e2, -⟩ := State.cancelPending_spec hs p cause
  have hts : t.store.recs.Pairwise (fun c d => c.number < d.number) := by rw [ht, e1]; exact hs.filter _
  obtain ⟨r1, r2, r3⟩ := State.revokeAll_where hts (fun c => c.guestOf p && c.guest.any (fun g => test g.stay)) r
  have hgone : t.store.recs.filter (fun c => (c.guestOf p && c.guest.any (fun g => test g.stay)) && c.st.current)
      = s.guestsOf p test := by
    rw [ht, e1, List.filter_filter]
    refine List.filter_congr (fun c _ => ?_)
    have : (c.st.current = true) → c ∉ s.encodingOf p := by
      intro h hm
      have := (List.mem_filter.mp (List.mem_of_mem_take hm)).2
      cases hst : c.st <;> simp_all [CredState.current, CredState.isEncoding]
    cases hcur : c.st.current
    · simp
    · simp [this hcur, Bool.and_comm]
  rw [hgone] at r1 r2 r3
  rw [show (t.store.recs.filter _).map Cred.number = t.guestsWhere p test from rfl] at r1 r2 r3
  refine ⟨⟨fun k => ?_, ?_⟩, ?_, fun h => r3 (.inr h)⟩
  · rw [r1]
    have hk : t.cred? k = (s.cred? k).filter (fun c => !decide (c ∈ s.encodingOf p)) := by
      show findKey Cred.number k t.store.recs = _
      rw [ht, e1, findKey_filter Cred.number hs]; rfl
    rw [hk, hn]
    cases hc : s.cred? k with
    | none => rfl
    | some c => by_cases h : c ∈ s.encodingOf p <;> simp [Option.filter, h]
  · rw [State.revokeAll_free, ht, e2]
  · rw [r2]
    simp [State.revokedRecords, hn]

/-! ### Floors changed and rooms reset (05:R88, R92) -/

/-- A change emitted takes the next generation at the tail of the change journal. -/
theorem State.emit_revoc (s : State) (b : ChangeBody) :
    (s.emit b).revoc.gen = (s.revoc.gen + 1) % 4294967296 ∧ (s.emit b).revoc.entries = s.revoc.entries ∧
    (s.emit b).revoc.changes.getLast? = some ⟨(s.emit b).revoc.gen, b⟩ := by
  have hg : s.dropOldest.revoc.gen = s.revoc.gen ∧ s.dropOldest.revoc.entries = s.revoc.entries := by
    unfold State.dropOldest
    (repeat' split) <;> exact ⟨rfl, rfl⟩
  simp only [State.emit, wrap32, hg.1, hg.2]
  exact ⟨trivial, trivial, List.getLast?_concat⟩

/-- The floor of a room that holds another value becomes `v`: a floor change, told to the nodes, and the guests below it
revoked. -/
theorem State.setFloor_change {s : State} {p v : Nat} {room : Room} (h : s.room? p = some room) (hv : room.floor ≠ v)
    (r : RevReason) : s.setFloor p v r
      = (((s.modRoom p (Room.pushFloor v s.now)).emit (.floor p v))).revokeAll
          ((((s.modRoom p (Room.pushFloor v s.now)).emit (.floor p v))).guestsWhere p (fun stay => stay < v)) r := by
  simp [State.setFloor, h, hv]

theorem State.room?_rooms {s t : State} (h : t.revoc.rooms = s.revoc.rooms) (q : Nat) : t.room? q = s.room? q := by
  simp [State.room?, h]

theorem State.modRoom_room?_ne (s : State) {p q : Nat} (f : Room → Room) (hf : ∀ r, (f r).point = r.point) (h : q ≠ p) :
    (s.modRoom p f).room? q = s.room? q := findKey_modKey_ne Room.point f hf h s.revoc.rooms

@[simp] theorem State.modRoom_enrolled (s : State) (p : Nat) (f : Room → Room) : (s.modRoom p f).enrolled = s.enrolled := rfl

/-- After the pending issue of a room is returned, a floor change of the room from a state that holds the same rooms but for
some change of this one's stay. -/
theorem State.floor_moved {s : State} (hs : s.store.recs.Pairwise (fun c d => c.number < d.number)) {p v : Nat} {room : Room}
    (hr : s.room? p = some room) (hv : room.floor ≠ v) (cause : LapseCause) (r : RevReason) (f : Room → Room)
    (hf : ∀ x, (f x).point = x.point ∧ (f x).floor = x.floor) :
    let test := fun stay => decide (stay < v)
    let u := ((s.cancelPending p cause).modRoom p f).setFloor p v r
    u.room? p = some ((f room).pushFloor v s.now) ∧ (∀ q, q ≠ p → u.room? q = s.room? q) ∧
    GuestsEnded p test r s u ∧ FloorTold p v (s.guestsOf p test) s u ∧
    u.journal = s.journal.pushAll (s.lapsedRecords (s.encodingOf p) cause ++ s.revokedRecords (s.guestsOf p test) r) ∧
    u.minibar = s.minibar ∧ u.now = s.now ∧ u.enrolled = s.enrolled := by
  have hm : ((s.cancelPending p cause).modRoom p f).room? p = some (f room) := by
    rw [State.modRoom_room? _ _ _ (fun x => (hf x).1), State.room?_rooms (s := s) (by simp), hr]; rfl
  have hnow : (s.cancelPending p cause).now = s.now := State.now_eq (by simp)
  intro test u
  have hu : u = _ := State.setFloor_change hm (by rw [(hf room).2]; exact hv) r
  obtain ⟨t, ht⟩ : ∃ t, t = ((((s.cancelPending p cause).modRoom p f).modRoom p (Room.pushFloor v s.now)).emit (.floor p v)) := ⟨_, rfl⟩
  have hnow' : ((s.cancelPending p cause).modRoom p f).now = s.now := hnow
  have hu' : u = t.revokeAll (t.guestsWhere p test) r := by rw [hu, ht, hnow']
  have htn : t.now = s.now := State.now_eq (by rw [ht]; simp)
  obtain ⟨g1, g2, g3⟩ := State.guests_ended (t := t) hs p cause (by rw [ht]; simp) htn test r
  have hpt : ∀ x : Room, (Room.pushFloor v s.now x).point = x.point := fun _ => rfl
  have hroom : t.room? p = some ((f room).pushFloor v s.now) := by
    rw [ht, State.room?_rooms (State.emit_rooms _ _), State.modRoom_room? _ _ _ hpt, hm]; rfl
  rw [hu']
  refine ⟨?_, fun q hq => ?_, g1, fun h => ?_, ?_, ?_, ?_, ?_⟩
  · rw [State.room?_rooms (State.revokeAll_rooms _ _ _), hroom]
  · rw [State.room?_rooms (State.revokeAll_rooms _ _ _), ht, State.room?_rooms (State.emit_rooms _ _),
      State.modRoom_room?_ne _ _ hpt hq, State.modRoom_room?_ne _ _ (fun x => (hf x).1) hq, State.room?_rooms (s := s) (by simp)]
  · rw [g3 h, ht]
    obtain ⟨a, b, c⟩ := State.emit_revoc (((s.cancelPending p cause).modRoom p f).modRoom p (Room.pushFloor v s.now)) (.floor p v)
    exact ⟨by rw [a]; simp, by rw [b]; simp, c⟩
  · rw [g2, ht, State.emit_journal, Journal.pushAll_append]
    simp only [State.modRoom_journal]
    rw [(State.cancelPending_spec hs p cause).2.2]
  · rw [State.revokeAll_minibar, ht]; simp
  · exact State.now_eq (by rw [State.revokeAll_time, ht]; simp)
  · rw [State.revokeAll_enrolled, ht, State.emit_enrolled, State.modRoom_enrolled, State.modRoom_enrolled]
    exact State.enrolled_of_nodes (by simp)

/-- After the pending issue of a room is returned, the room reset: stay 0 and floor 1, every guest revoked, and its nodes
marked for reload. -/
theorem State.room_reset {s : State} (hs : s.store.recs.Pairwise (fun c d => c.number < d.number)) {p : Nat} {room : Room}
    (hr : s.room? p = some room) (cause : LapseCause) :
    let test := fun _ : Nat => true
    let u := (s.cancelPending p cause).resetRoom p
    u.room? p = some ⟨room.point, 0, 1, [⟨1, s.now⟩], false⟩ ∧ (∀ q, q ≠ p → u.room? q = s.room? q) ∧
    GuestsEnded p test .superseded s u ∧ FloorTold p 1 (s.guestsOf p test) s u ∧
    u.journal = s.journal.pushAll (s.lapsedRecords (s.encodingOf p) cause ++ s.revokedRecords (s.guestsOf p test) .superseded) ∧
    (∀ n ∈ u.nodes, n.enrol.entry = some p → n.reload = .marked) ∧
    u.minibar = s.minibar ∧ u.now = s.now ∧ u.enrolled = s.enrolled := by
  intro test u
  obtain ⟨f, hfd⟩ : ∃ f : Room → Room, f = fun r => { r with stay := 0, floor := 1, history := [⟨1, s.now⟩], fromCreation := false } := ⟨_, rfl⟩
  have hf : ∀ x, (f x).point = x.point := fun x => by rw [hfd]
  obtain ⟨t, ht⟩ : ∃ t, t = (s.cancelPending p cause).modRoom p f := ⟨_, rfl⟩
  have hnow : (s.cancelPending p cause).now = s.now := State.now_eq (by simp)
  have hu : u = ((t.revokeAll (t.guestsWhere p test) .superseded).emit (.floor p 1)).markRoomNodes p := by
    rw [ht, hfd, ← hnow]; rfl
  have htn : t.now = s.now := State.now_eq (by rw [ht]; simp)
  obtain ⟨g1, g2, g3⟩ := State.guests_ended (t := t) hs p cause (by rw [ht]; simp) htn test .superseded
  have hrooms : ∀ q, u.room? q = t.room? q := fun q => by
    rw [hu]
    exact (State.room?_rooms (State.emit_rooms _ _) q).trans (State.room?_rooms (State.revokeAll_rooms _ _ _) q)
  have hstore : u.store = (t.revokeAll (t.guestsWhere p test) .superseded).store := by rw [hu]; simp
  refine ⟨?_, fun q hq => ?_, ⟨fun k => ?_, ?_⟩, fun h => ?_, ?_, fun n hn he => ?_, ?_, ?_, ?_⟩
  · rw [hrooms, ht, State.modRoom_room? _ _ _ hf, State.room?_rooms (s := s) (by simp), hr, hfd]; rfl
  · rw [hrooms, ht, State.modRoom_room?_ne _ _ hf hq, State.room?_rooms (s := s) (by simp)]
  · rw [← g1.creds k]; simp only [State.cred?, hstore]
  · rw [hstore, g1.free]
  · obtain ⟨a, b, c⟩ := State.emit_revoc (t.revokeAll (t.guestsWhere p test) .superseded) (.floor p 1)
    have g3' := g3 h
    rw [hu]
    refine ⟨?_, ?_, c⟩
    · show (State.emit _ _).revoc.gen = _
      rw [a, g3', ht]; simp
    · show (State.emit _ _).revoc.entries = _
      rw [b, g3', ht]; simp
  · rw [hu, State.markRoomNodes_journal, State.emit_journal, g2, ht, Journal.pushAll_append]
    simp only [State.modRoom_journal]
    rw [(State.cancelPending_spec hs p cause).2.2]
  · rw [hu] at hn
    obtain ⟨m, -, rfl⟩ := List.mem_map.mp hn
    by_cases h : m.enrol.entry = some p
    · rw [if_pos h]; rfl
    · rw [if_neg h] at he; exact absurd he h
  · rw [hu]; simp [ht]
  · exact State.now_eq (by rw [hu]; simp [ht])
  · rw [hu, show State.enrolled (State.markRoomNodes p _) = _ from State.enrolled_map _ _ (fun n => by split <;> exact ⟨rfl, rfl⟩)]
    rw [State.emit_enrolled, State.revokeAll_enrolled, ht, State.modRoom_enrolled]
    exact State.enrolled_of_nodes (by simp)

/-! ### The reopening of a folio (08:R161) -/

@[simp] theorem State.append_room? (s : State) (e : Entry) (q : Nat) : (s.append e).room? q = s.room? q := by
  simp [State.room?]
@[simp] theorem State.append_folio? (s : State) (e : Entry) (q : Nat) : (s.append e).folio? q = s.folio? q := by
  simp [State.folio?]

theorem State.checkoutFolio_enrolled (s : State) (p : Nat) : (s.checkoutFolio p).enrolled = s.enrolled := by
  unfold State.checkoutFolio
  split
  · split
    · show State.enrolled (State.endSessionsOf p _) = _
      rw [show State.enrolled (State.endSessionsOf p _) = _ from State.enrolled_map _ _ (fun n => by split <;> exact ⟨rfl, rfl⟩)]
      exact State.enrolled_of_nodes (by simp)
    · rfl
  · rfl

/-- FOLIO_HELD is written where the folio is held and was not. -/
theorem State.judgeHeld_journal (s t : State) (p : Nat) (hn : t.now = s.now) (he : t.enrolled = s.enrolled) :
    (t.judgeHeld p ((s.folio? p).any Folio.held)).journal = t.journal.pushAll (s.heldRecords t p) := by
  have hh : (fun f : Folio => f.isOpen && decide (f.ceiling ≤ f.balance + f.pendingTotal)) = Folio.held := rfl
  simp only [State.judgeHeld, State.heldRecords, hh]
  cases hf : t.folio? p with
  | none => rfl
  | some f =>
    dsimp only
    have : (f.isOpen && decide (f.ceiling ≤ f.balance + f.pendingTotal)) = f.held := rfl
    rw [this, Bool.and_comm]
    split
    · rw [State.append_journal]
      simp only [Option.getD_none, hn, State.roomNode_congr he]
      rfl
    · rfl

/-- What the reopening of a folio leaves: an OPEN one checked out first, with its STAY_CHECKOUT, then balance 0, the default
ceiling and the opening time; every other folio and line standing. -/
theorem State.reopenFolio_spec {s t : State} (hm : t.minibar = s.minibar) (hn : t.now = s.now)
    (he : t.enrolled = s.enrolled) (hset : t.settings = s.settings) (p : Nat) :
    let u := t.reopenFolio p
    FolioCheckedOut p (fun f => { f with
      isOpen := true, balance := 0, ceiling := s.settings.defaultCeiling, openedAt := some s.now }) s u ∧
    u.journal = t.journal.pushAll (s.chargeRecords (s.linesDue p) ++ s.closingRecords p ++ s.heldRecords u p) := by
  obtain ⟨⟨c1, c2, c3, c4, c5, c6⟩, c7, c8⟩ := State.checkoutFolio_spec hm hn he p
  have hf : t.folio? p = s.folio? p := by simp [State.folio?, hm]
  intro u
  cases hs : s.folio? p with
  | none =>
    have hu : u = t := by simp only [u, State.reopenFolio, hf, hs]
    have hco : t.checkoutFolio p = t := by simp only [State.checkoutFolio, hf, hs]
    rw [hco] at c1 c2 c3 c4 c5 c6
    have hd : s.linesDue p = [] := by simp [State.linesDue, hs]
    rw [hu]
    refine ⟨⟨by rw [hf, hs]; rfl, c2, c3, c4, c5, c6⟩, ?_⟩
    simp [hd, State.chargeRecords, State.closingRecords, State.heldRecords, hf, hs]
  | some f =>
    obtain ⟨g, hg⟩ : ∃ g : Folio → Folio, g = fun x => { x with isOpen := true, balance := 0, ceiling := s.settings.defaultCeiling, openedAt := some s.now } := ⟨_, rfl⟩
    obtain ⟨w, hw⟩ : ∃ w, w = (if f.isOpen then (t.checkoutFolio p).append { kind := .stayCheckout, point := some p, amount := some ((t.checkoutFolio p).balanceOf p) } else t) := ⟨_, rfl⟩
    have hu : u = (w.modFolio p g).judgeHeld p f.held := by
      simp only [u, State.reopenFolio, hf, hs, hw, hg, hset, hn]
    have hcl : f.isOpen = false → t.checkoutFolio p = t := fun h => by
      simp only [State.checkoutFolio, hf, hs, h]; rfl
    have hwm : w.minibar = (t.checkoutFolio p).minibar := by
      rw [hw]; split
      · simp
      · next h => rw [hcl (by simpa using h)]
    have hwj : w.journal = t.journal.pushAll (s.chargeRecords (s.linesDue p) ++ s.closingRecords p) := by
      rw [hw, Journal.pushAll_append, ← c7, State.closingRecords, hs, c8]
      have : (t.checkoutFolio p).now = s.now := (State.now_eq (by simp)).trans hn
      split
      · next h => simp [h, this]
      · next h => rw [hcl (by simpa using h)]; simp [h]
    have hwn : w.now = s.now := by
      rw [hw]; split
      · exact (State.now_eq (by simp)).trans hn
      · exact hn
    have hwe : w.enrolled = s.enrolled := by
      rw [hw]; split
      · rw [State.append_enrolled, State.checkoutFolio_enrolled, he]
      · exact he
    have hgp : ∀ x, (g x).point = x.point := fun x => by rw [hg]
    have hum : u.minibar = (w.modFolio p g).minibar := by rw [hu, State.judgeHeld_minibar]
    have huf : ∀ q, u.folio? q = (w.modFolio p g).folio? q := fun q => by simp only [State.folio?, hum]
    have hwf : ∀ q, w.folio? q = (t.checkoutFolio p).folio? q := fun q => by simp only [State.folio?, hwm]
    have hup : u.folio? p = (s.folio? p).map (fun f => g (f.committed (s.linesDue p))) := by
      rw [huf, State.modFolio_folio? _ _ _ hgp, hwf, c1, Option.map_map, hg]; rfl
    refine ⟨⟨?_, fun hl x hx => ?_, fun q hq => ?_, ?_, ?_, ?_⟩, ?_⟩
    · rw [hup, hg]
    · rw [hup, hs] at hx
      simp only [Option.map_some, Option.some.injEq] at hx
      rw [← hx, hg]; exact State.linesDue_total hl hs
    · rw [huf, ← c3 q hq, ← hwf]
      exact findKey_modKey_ne Folio.point g hgp hq _
    · rw [hum, State.modFolio_minibar, modKey_map_key Folio.point g hgp, hwm, c4]
    · rw [hum, State.modFolio_minibar]; dsimp only; rw [hwm]; exact c5
    · rw [hum, State.modFolio_minibar]; dsimp only; rw [hwm]; exact c6
    · have hjh := State.judgeHeld_journal s (w.modFolio p g) p hwn hwe
      rw [hs] at hjh
      have hheld : s.heldRecords u p = s.heldRecords (w.modFolio p g) p := by
        simp only [State.heldRecords, huf]
      rw [hheld, Journal.pushAll_append, ← hwj]
      rw [hu]; exact hjh

/-- In an ascending store, revocations change the current records among some numbers alone. -/
theorem State.revokeAll_recs (r : RevReason) : ∀ (ks : List Nat) (s : State),
    s.store.recs.Pairwise (fun c d => c.number < d.number) → (s.revokeAll ks r).store.recs
      = s.store.recs.map (fun c =>
          if c.number ∈ ks ∧ c.st.current = true then { c with st := .revoked s.now r } else c)
  | [], s, _ => by simp [State.revokeAll]
  | k :: ks, s, hs => by
    have hone : (s.revoke k r).store.recs = s.store.recs.map (fun c =>
        if c.number = k ∧ c.st.current = true then { c with st := .revoked s.now r } else c) := by
      rw [State.revoke_store]
      have hu : ∀ c ∈ s.store.recs, c.number = k → s.cred? k = some c := fun c hc e => e ▸ findKey_of_mem Cred.number hs hc
      split
      · next h =>
        show modKey Cred.number k _ s.store.recs = _
        unfold modKey
        refine List.map_congr_left (fun c hc => ?_)
        by_cases e : c.number = k
        · have : c.st.current = true := by simpa [hu c hc e] using h
          simp [e, this]
        · simp [e]
      · next h =>
        refine (List.map_id s.store.recs).symm.trans (List.map_congr_left (fun c hc => ?_))
        by_cases e : c.number = k
        · have : ¬ c.st.current = true := by simpa [hu c hc e] using h
          simp [this]
        · simp [e]
    have hn : (s.revoke k r).now = s.now := State.now_eq (by simp)
    have hs' : (s.revoke k r).store.recs.Pairwise (fun c d => c.number < d.number) := by
      rw [hone, List.pairwise_map]
      exact hs.imp (fun {a b} h => by split <;> split <;> exact h)
    rw [State.revokeAll_cons, State.revokeAll_recs r ks _ hs', hone, List.map_map, hn]
    refine List.map_congr_left (fun c _ => ?_)
    have hr : (CredState.revoked s.now r).current = false := rfl
    simp only [Function.comp, List.mem_cons]
    by_cases hc : c.st.current = true
    · by_cases e : c.number = k
      · simp [e, hc, hr]
      · simp [e, hc]
    · simp [hc]

/-- Removing the list entry of a serial leaves the entries of the others. -/
theorem State.removeSerial_entries (s : State) (x : Nat) :
    (s.removeSerial x).revoc.entries = s.revoc.entries.filter (fun e => e.serial != x) := by
  unfold State.removeSerial State.entry?
  cases h : s.revoc.entries.find? (fun e => e.serial == x) with
  | none =>
    refine (List.filter_eq_self.mpr fun e he => ?_).symm
    simpa using List.find?_eq_none.mp h e he
  | some e =>
    obtain rfl : e.serial = x := by simpa using List.find?_some h
    simp only [State.removeEntry, State.relaxCheck_revoc, (State.emit_revoc _ _).2.1, State.setEntries]
    rfl

/-! ### The endings carried over what does not touch them -/

theorem GuestsEnded.of_store {p : Nat} {test : Nat → Bool} {r : RevReason} {s u v : State}
    (h : GuestsEnded p test r s u) (hs : v.store = u.store) : GuestsEnded p test r s v :=
  ⟨fun k => by rw [← h.creds k]; simp only [State.cred?, hs], by rw [hs, h.free]⟩

theorem FloorTold.of_revoc {p v : Nat} {revoked : List Cred} {s u w : State}
    (h : FloorTold p v revoked s u) (hs : w.revoc = u.revoc) : FloorTold p v revoked s w := by
  unfold FloorTold at *; rw [hs]; exact h

theorem FolioCheckedOut.of_minibar {p : Nat} {g : Folio → Folio} {s u v : State}
    (h : FolioCheckedOut p g s u) (hs : v.minibar = u.minibar) : FolioCheckedOut p g s v := by
  have hf : ∀ q, v.folio? q = u.folio? q := fun q => by simp [State.folio?, hs]
  exact ⟨by rw [hf, h.folio], by rw [hf]; exact h.total, fun q hq => by rw [hf, h.others q hq], by rw [hs, h.points],
    by rw [hs]; exact h.none, by rw [hs]; exact h.pool⟩

/-- A checkout of a folio keeps each node's enrolment and reload state. -/
theorem State.checkoutFolio_node (p : Nat) (s : State) :
    ∀ n ∈ (s.checkoutFolio p).nodes, ∃ m ∈ s.nodes, n.enrol = m.enrol ∧ n.reload = m.reload := by
  intro n hn
  unfold State.checkoutFolio at hn
  split at hn
  · split at hn
    · simp only [State.modFolio_nodes, State.endSessionsOf, State.commitWhere_nodes] at hn
      obtain ⟨m, hm, rfl⟩ := List.mem_map.mp hn
      exact ⟨m, hm, by split <;> rfl, by split <;> rfl⟩
    · exact ⟨n, hn, rfl, rfl⟩
  · exact ⟨n, hn, rfl, rfl⟩

/-! ### A rekey (05:R90, R96) -/

/-- A room of an enrolled ROOM_ENTRY node is the record of its point. -/
theorem State.roomOf?_room {s : State} {p : Nat} {room : Room} (h : s.roomOf? p = some room) :
    s.room? p = some room ∧ room.point = p := by
  unfold State.roomOf? at h
  split at h
  · exact ⟨h, (findKey_some Room.point h).1⟩
  · cases h

/-- What a rekey does, where the floor differs from the new one (a floor change) and where it is that already (then the
stay alone moves and no card is revoked). -/
theorem State.rekey_spec {t : State} (hs : t.store.recs.Pairwise (fun c d => c.number < d.number)) {p : Nat} {room : Room}
    (hroom : t.room? p = some room) :
    let u := t.rekey p
    let v := room.stay + 1
    let ended : Nat → Bool := fun stay => decide (room.floor ≠ v ∧ stay < v)
    let cards := t.guestsOf p ended
    let advanced : Room := { room with stay := v }
    GuestsEnded p ended .rekeyed t u ∧
    u.room? p = some (if room.floor = v then advanced else
      { advanced with
        floor := v
        history := (⟨v, t.now⟩ :: room.history).take 4
        fromCreation := room.fromCreation && decide (room.history.length < 4) }) ∧
    (∀ q, q ≠ p → u.room? q = t.room? q) ∧
    (room.floor ≠ v → FloorTold p v cards t u) ∧
    (room.floor = v → u.revoc.gen = t.revoc.gen ∧ u.revoc.entries = t.revoc.entries ∧
      u.revoc.changes = t.revoc.changes) ∧
    u.journal = (t.journal.pushAll (t.lapsedRecords (t.encodingOf p) .rekeyRoom
      ++ t.revokedRecords cards .rekeyed)).push t.now
        { kind := .roomRekeyed, point := some p, value1 := some v, value2 := some v } := by
  have hcr : (t.cancelPending p .rekeyRoom).room? p = some room := by rw [State.room?_rooms (s := t) (by simp), hroom]
  intro u v ended cards advanced
  let stay (r : Room) : Room := { r with stay := room.stay + 1 }
  by_cases hv : room.floor = v
  · have hm : ((t.cancelPending p .rekeyRoom).modRoom p stay).room? p = some advanced := by
      rw [State.modRoom_room? _ _ stay (fun _ => rfl), hcr]; rfl
    have hu : u = ((t.cancelPending p .rekeyRoom).modRoom p stay).append
        { kind := .roomRekeyed, point := some p, value1 := some v, value2 := some v } := by
      have hv' : room.floor = room.stay + 1 := hv
      simp only [u, State.rekey, hcr, State.setFloor]
      rw [show ((t.cancelPending p .rekeyRoom).modRoom p (fun r => { r with stay := room.stay + 1 })).room? p
        = some advanced from hm]
      simp [advanced, hv', v, stay]
    have hc : cards = [] := by simp [cards, State.guestsOf, ended, hv]
    obtain ⟨e1, e2, e3⟩ := State.cancelPending_spec hs p .rekeyRoom
    have hst : u.store = (t.cancelPending p .rekeyRoom).store := by rw [hu]; simp
    refine ⟨⟨fun k => ?_, by rw [hst, e2]⟩, ?_, fun q hq => ?_, fun h => absurd hv h, fun _ => ?_, ?_⟩
    · show findKey Cred.number k u.store.recs = (findKey Cred.number k t.store.recs).bind _
      rw [hst, e1, findKey_filter Cred.number hs]
      cases hc' : findKey Cred.number k t.store.recs with
      | none => rfl
      | some c =>
        have : c ∉ t.guestsOf p ended := by show c ∉ cards; simp [hc]
        by_cases h : c ∈ t.encodingOf p <;> simp [Option.filter, h, this]
    · rw [hu, if_pos hv, State.room?_rooms (s := (t.cancelPending p .rekeyRoom).modRoom p stay) (by simp), hm]
    · rw [hu, State.room?_rooms (s := (t.cancelPending p .rekeyRoom).modRoom p stay) (by simp),
        State.modRoom_room?_ne _ stay (fun _ => rfl) hq, State.room?_rooms (s := t) (by simp)]
    · rw [hu]; simp [State.modRoom]
    · rw [hu, hc]; simp [State.revokedRecords, e3, State.now]
  · obtain ⟨a, b, c, d, e, -, g, -⟩ := State.floor_moved hs hroom hv .rekeyRoom .rekeyed stay (fun _ => ⟨rfl, rfl⟩)
    have hu : u = (((t.cancelPending p .rekeyRoom).modRoom p stay).setFloor p v .rekeyed).append
        { kind := .roomRekeyed, point := some p, value1 := some v, value2 := some v } := by
      simp only [u, State.rekey, hcr]; rfl
    have hended : ended = fun stay => decide (stay < v) := by funext x; simp [ended, hv]
    refine ⟨?_, ?_, fun q hq => ?_, fun _ => ?_, fun h => absurd h hv, ?_⟩
    · rw [hended, hu]; exact c.of_store (by simp)
    · rw [hu, if_neg hv, State.append_room?, a]; rfl
    · rw [hu, State.append_room?, b q hq]
    · simp only [cards, hended]; rw [hu]; exact d.of_revoc (by simp)
    · rw [hu]; simp only [cards, hended]; simp [e, g]

end Sys2Proof.Machine
end

