-- ==== Sys2Proof/Laws/Starts.lean ====
section
/-! SUPPORT. The start work of the blocks (11:R195, 02:R42): what each act of the start leaves, said once: the records it
appends, the frames it makes ready, and its effect on the store, the pool, the folios and the nodes. -/

namespace Sys2Proof.Machine

open Sys2Proof

/-! ### Frames made ready -/

theorem Port.ready_frames (f : OutFrame) (p : Port) : (p.ready f).frames.Perm (p.frames ++ [f]) := by
  unfold Port.ready Port.frames
  cases p.sending with
  | none => exact List.perm_append_comm (l₁ := [f])
  | some g => simp

/-- `q` is `p` with notices made ready, none of them LINE_CHANGE. -/
structure Port.Quiet (p q : Port) : Prop where
  only : Port.noticesOnly p q
  arm : q.arm.lineChange = p.arm.lineChange
  frames : ∃ fs, q.frames.Perm (p.frames ++ fs) ∧ ∀ f ∈ fs, f.isLineChange = false

theorem Port.Quiet.refl (p : Port) : Port.Quiet p p := ⟨rfl, rfl, [], by simp, by simp⟩

theorem Port.Quiet.trans {p q r : Port} (h : Port.Quiet p q) (g : Port.Quiet q r) : Port.Quiet p r := by
  obtain ⟨a, b, fs, c, d⟩ := h
  obtain ⟨a', b', gs, c', d'⟩ := g
  refine ⟨?_, b'.trans b, fs ++ gs, ?_, ?_⟩
  · unfold Port.noticesOnly at *; rw [a', a]
  · rw [← List.append_assoc]; exact c'.trans (c.append_right gs)
  · intro f hf; rcases List.mem_append.mp hf with h | h; exact d f h; exact d' f h

theorem State.raise_quiet (s : State) (k : NoticeKind) (h : k ≠ .lineChange) : Port.Quiet s.port (s.raise k).port := by
  unfold State.raise
  split
  · refine ⟨?_, ?_, [noticeFrame k s], ?_, ?_⟩
    · simp only [Port.noticesOnly, Port.ready]; cases s.port.sending <;> rfl
    · cases k <;> first | rfl | exact absurd rfl h
    · exact Port.ready_frames (noticeFrame k s) s.port
    · cases k <;> simp [noticeFrame, OutFrame.isLineChange] at h ⊢
  · exact .refl _

theorem State.append_quiet (s : State) (e : Entry) : Port.Quiet s.port (s.append e).port := by
  simp only [State.append]
  split
  · exact State.raise_quiet { s with journal := s.journal.push (e.secs.getD s.now) e } .journalWaiting (by simp)
  · exact .refl _

theorem State.append_quiet_of {p : Port} (s : State) (e : Entry) (h : s.port = p) : Port.Quiet p (s.append e).port :=
  h ▸ s.append_quiet e

/-- What an act that writes records `rs` and raises no LINE_CHANGE keeps of a state. -/
structure Records (s v : State) (rs : List (Nat × Entry)) : Prop where
  time : v.time = s.time
  journal : v.journal = s.journal.pushAll rs
  port : Port.Quiet s.port v.port

theorem Records.refl (s : State) : Records s s [] := ⟨rfl, rfl, .refl _⟩
theorem Records.trans {s v w : State} {rs ts} (h : Records s v rs) (g : Records v w ts) : Records s w (rs ++ ts) :=
  ⟨g.time.trans h.time, by rw [g.journal, h.journal, Journal.pushAll_append], h.port.trans g.port⟩
theorem Records.append (s : State) (e : Entry) (h : e.secs = none) : Records s (s.append e) [(s.now, e)] :=
  ⟨by simp, by simp [h], State.append_quiet s e⟩
theorem Records.of_eq {s v : State} (t : v.time = s.time) (j : v.journal = s.journal) (p : v.port = s.port) : Records s v [] :=
  ⟨t, j, by rw [p]; exact .refl _⟩

/-! ### Encodings returned (04:R77) -/

theorem State.returnEncoding_store (s : State) {k : Nat} {c : Cred} (cause : LapseCause) (h : s.cred? k = some c) :
    (s.returnEncoding k cause).store
      = { s.store with recs := dropKey Cred.number k s.store.recs, free := s.store.free ++ [k] } := by
  simp [State.returnEncoding, h]

theorem State.returnEncoding_records (s : State) (k : Nat) (cause : LapseCause) : ∃ rs,
    Records s (s.returnEncoding k cause) rs ∧ (∀ e ∈ rs, e.2.kind = .cardLapsed) ∧
    ∀ c, s.cred? k = some c → rs = s.lapsedRecords [c] cause := by
  cases h : s.cred? k with
  | none => exact ⟨[], by simp only [State.returnEncoding, h]; exact .refl _, by simp, by simp⟩
  | some c =>
    have hk := (findKey_some Cred.number h).1
    let t : State := { s with
      store := { s.store with recs := dropKey Cred.number k s.store.recs, free := s.store.free ++ [k] } }
    let e : Entry := { kind := .cardLapsed, cred := some k, serial := some c.serial, detail1 := some (.cause cause) }
    refine ⟨[(s.now, e)], ?_, by simp [e], fun d hd => ?_⟩
    · simp only [State.returnEncoding, h]
      exact (Records.of_eq (s := s) (v := t) rfl rfl rfl).trans (Records.append t e rfl)
    · cases hd; simp [State.lapsedRecords, hk, e]

/-- Encodings returned one after another. -/
theorem State.returnAll (cause : LapseCause) : ∀ (ks : List Nat) (s : State),
    let u := ks.foldl (fun t k => t.returnEncoding k cause) s
    (∃ rs, Records s u rs ∧ (∀ e ∈ rs, e.2.kind = .cardLapsed) ∧
      ∀ cs : List Cred, ks = cs.map Cred.number → s.store.recs.Pairwise (fun c d => c.number < d.number) →
        cs.Pairwise (fun c d => c.number < d.number) → (∀ c ∈ cs, c ∈ s.store.recs) → rs = s.lapsedRecords cs cause) ∧
    u.store.retired = s.store.retired ∧
    (ks.Nodup → (∀ k ∈ ks, s.cred? k ≠ none) →
      u.store.recs = s.store.recs.filter (fun d => !ks.contains d.number) ∧ u.store.free = s.store.free ++ ks) := by
  intro ks
  induction ks with
  | nil => 
    intro s
    refine ⟨⟨[], .refl _, by simp, fun cs h _ _ _ => ?_⟩, rfl, fun _ _ => ⟨by simp, by simp⟩⟩
    rw [List.map_eq_nil_iff.mp h.symm]; rfl
  | cons k ks ih =>
    intro s
    obtain ⟨⟨rs, i1, i2, i3⟩, i4, i5⟩ := ih (s.returnEncoding k cause)
    obtain ⟨r1, r2, r3, r4⟩ := s.returnEncoding_records k cause
    refine ⟨⟨r1 ++ rs, r2.trans i1, ?_, ?_⟩, ?_, ?_⟩
    · intro e he; rcases List.mem_append.mp he with h | h; exact r3 e h; exact i2 e h
    · intro cs hcs hs hc hm
      cases cs with
      | nil => simp at hcs
      | cons c cs =>
        simp only [List.map_cons, List.cons.injEq] at hcs
        obtain ⟨rfl, hcs⟩ := hcs
        rw [List.pairwise_cons] at hc
        have hcc : s.cred? c.number = some c := findKey_of_mem Cred.number hs (hm c (by simp))
        have hst := s.returnEncoding_store cause hcc
        rw [r4 c hcc, i3 cs hcs (by rw [hst]; exact hs.filter _) hc.2 (fun d hd => ?_)]
        · simp [State.lapsedRecords, State.now]
        · rw [hst]
          exact List.mem_filter.mpr ⟨hm d (by simp [hd]), by simpa using (Nat.ne_of_lt (hc.1 d hd)).symm⟩
    · show (ks.foldl _ (s.returnEncoding k cause)).store.retired = _
      rw [i4]; unfold State.returnEncoding; split <;> simp
    · intro hn hk
      rw [List.nodup_cons] at hn
      cases hc : s.cred? k with
      | none => exact absurd hc (hk k (by simp))
      | some c =>
        have hst := s.returnEncoding_store cause hc
        obtain ⟨j1, j2⟩ := i5 hn.2 (fun j hj => by
          show findKey Cred.number j (s.returnEncoding k cause).store.recs ≠ none
          have hne : j ≠ k := fun e => hn.1 (by rw [← e]; exact hj)
          simp only [hst]
          rw [findKey_dropKey_ne Cred.number hne]
          exact hk j (by simp [hj]))
        constructor
        · show (ks.foldl _ (s.returnEncoding k cause)).store.recs = _
          simp only [j1, hst, dropKey, List.filter_filter]
          apply List.filter_congr; intro d _
          rw [List.contains_cons]
          cases ks.contains d.number <;> cases h : d.number == k <;> simp_all
        · show (ks.foldl _ (s.returnEncoding k cause)).store.free = _
          simp only [j2, hst]; simp

/-- The return of the encodings that pass a test, in ascending number. -/
theorem State.returnWhere (P : Cred → Bool) (cause : LapseCause) (s : State) :
    let u := ((s.store.recs.filter P).map Cred.number).foldl (fun t k => t.returnEncoding k cause) s
    (∃ rs, Records s u rs ∧ (∀ e ∈ rs, e.2.kind = .cardLapsed) ∧
      (s.store.recs.Pairwise (fun c d => c.number < d.number) → rs = s.lapsedRecords (s.store.recs.filter P) cause)) ∧
    u.store.retired = s.store.retired ∧
    (s.store.recs.Pairwise (fun c d => c.number < d.number) →
      u.store.recs = s.store.recs.filter (fun c => !P c) ∧
      u.store.free = s.store.free ++ (s.store.recs.filter P).map Cred.number) := by
  obtain ⟨⟨rs, h1, h2, h3⟩, h4, h5⟩ := State.returnAll cause ((s.store.recs.filter P).map Cred.number) s
  refine ⟨⟨rs, h1, h2, fun hs => h3 _ rfl hs (hs.filter _) (fun c hc => (List.mem_filter.mp hc).1)⟩, h4, fun hs => ?_⟩
  have hnd : ((s.store.recs.filter P).map Cred.number).Nodup := by
    rw [List.nodup_iff_pairwise_ne, List.pairwise_map]
    exact (hs.filter P).imp Nat.ne_of_lt
  obtain ⟨j1, j2⟩ := h5 hnd (fun k hk => by
    obtain ⟨c, hc, rfl⟩ := List.mem_map.mp hk
    rw [State.cred?, findKey_of_mem Cred.number hs (List.mem_filter.mp hc).1]; simp)
  refine ⟨?_, j2⟩
  rw [j1]
  apply List.filter_congr
  intro d hd
  have : (List.map Cred.number (List.filter P s.store.recs)).contains d.number = P d := by
    cases hP : P d with
    | true => simpa using ⟨d, ⟨hd, hP⟩, rfl⟩
    | false =>
      simp only [List.contains_eq_mem, decide_eq_false_iff_not, List.mem_map, List.mem_filter, not_exists, not_and]
      rintro c ⟨hc, hPc⟩ e
      have a := findKey_of_mem Cred.number hs hc
      have b := findKey_of_mem Cred.number hs hd
      rw [e, b] at a
      rw [Option.some.inj a, hPc] at hP; exact absurd hP (by simp)
  rw [this]

/-! ### Charge lines committed (08:R158) -/

theorem filter_or_perm {α : Type} (p q : α → Bool) : ∀ l : List α,
    (l.filter p ++ (l.filter (fun x => !p x)).filter q).Perm (l.filter (fun x => p x || q x))
  | [] => .refl _
  | x :: l => by
    have ih := filter_or_perm p q l
    cases hp : p x <;> cases hq : q x <;> simp [hp, hq] at ih ⊢
    · exact ih
    · exact List.perm_middle.trans (ih.cons x)
    · exact ih
    · exact ih

/-- The order of the lines committed to a folio makes no difference. -/
theorem Folio.committed_perm {a b : List ChargeLine} (h : a.Perm b) (f : Folio) : f.committed a = f.committed b := by
  unfold Folio.committed
  refine List.Perm.foldl_eq' h (fun x _ y _ g => ?_) f
  dsimp only; congr 1 <;> omega

theorem Folio.committed_append (a b : List ChargeLine) (f : Folio) : f.committed (a ++ b) = (f.committed a).committed b := by
  simp [Folio.committed]

theorem State.chargeRecords_pointless (s : State) (due : List ChargeLine) : (s.chargeRecords due).map pointless
    = due.map (fun l => (s.now,
        { kind := .minibarCharge, node := some l.node, amount := some l.amount, value1 := some l.comp,
          value2 := some l.count })) := by
  simp [State.chargeRecords, pointless]

theorem State.commitLine_records (s : State) (l : ChargeLine) : Records s (s.commitLine l) (s.chargeRecords [l]) :=
  ⟨by simp, s.commitLine_journal l, State.append_quiet_of _ _ rfl⟩

/-- No two lines name one compartment (08:R156). -/
def Once (pool : List ChargeLine) : Prop := pool.Pairwise (fun l m => ¬ (l.node = m.node ∧ l.comp = m.comp))

/-- The lines that a test takes, committed: their records, the pool and each folio. -/
theorem State.commitWhere_spec (P : ChargeLine → Bool) (s : State) :
    let u := s.commitWhere P
    (∃ rs, Records s u rs ∧ (∀ e ∈ rs, e.2.kind = .minibarCharge) ∧
      rs.map pointless = (s.chargeRecords (s.minibar.pool.filter P)).map pointless) ∧
    (Once s.minibar.pool → u.minibar.pool = s.minibar.pool.filter (fun x => !P x)) ∧
    (∀ q, u.folio? q = (s.folio? q).map (Folio.committed ((s.minibar.pool.filter P).filter (fun l => l.folio == q)))) := by
  have step : ∀ (due : List ChargeLine) (t : State), t.now = s.now → t.enrolled = s.enrolled →
      Records t (due.foldl (fun t l => t.commitLine l) t) (s.chargeRecords due) := by
    intro due
    induction due with
    | nil => intro t _ _; exact .refl t
    | cons l due ih =>
      intro t hn he
      have h := t.commitLine_records l
      rw [State.chargeRecords_congr hn he] at h
      exact h.trans (ih (t.commitLine l) ((State.now_eq h.time).trans hn)
        ((show (t.commitLine l).enrolled = t.enrolled by simp [State.enrolled]).trans he))
  obtain ⟨c1, c2, -, -⟩ := State.commitLines (s.minibar.pool.filter P) s
  refine ⟨⟨_, step _ s rfl rfl, fun e he => by
    obtain ⟨l, -, rfl⟩ := List.mem_map.mp he; rfl, rfl⟩, fun h => ?_, c2⟩
  refine c1.trans ?_
  apply List.filter_congr
  intro x hx
  congr 1
  cases hP : P x with
  | true => exact List.any_eq_true.mpr ⟨x, List.mem_filter.mpr ⟨hx, hP⟩, by simp [ChargeLine.names]⟩
  | false =>
    rw [List.any_eq_false]
    intro y hy hn
    obtain ⟨hy, hPy⟩ := List.mem_filter.mp hy
    simp only [ChargeLine.names, Bool.and_eq_true, beq_iff_eq] at hn
    rw [line_once h hx hy hn, hPy] at hP; exact absurd hP (by simp)

/-! ### A node leaving the line (01:R20) -/

theorem State.discardUrgents (us : List Urgent) : ∀ s : State, ∃ rs,
    Records s (us.foldl (fun t u => t.discardUrgent u) s) rs ∧ ∀ e ∈ rs, e.2.kind = .decisionLate ∧ us ≠ [] := by
  induction us with
  | nil => exact fun s => ⟨[], .refl s, by simp⟩
  | cons u us ih =>
    intro s
    obtain ⟨rs, h1, h2⟩ := ih (s.discardUrgent u)
    cases u with
    | remoteOpen a => exact ⟨rs, h1, fun e he => ⟨(h2 e he).1, by simp⟩⟩
    | decision d =>
      have h : Records s (s.discardUrgent (.decision d)) [(d.arrival, d.entry .decisionLate)] :=
        ⟨by simp, by simp [State.discardUrgent, State.decisionLate, Decision.entry], State.append_quiet s _⟩
      refine ⟨_, h.trans h1, fun e he => ?_⟩
      rcases List.mem_append.mp he with he | he
      · simp only [List.mem_singleton] at he; subst he; exact ⟨rfl, by simp⟩
      · exact ⟨(h2 e he).1, by simp⟩

theorem State.removeUrgent_lines (s : State) (p : Urgent → Bool) :
    (s.removeUrgent p).lines = { s.lines with urgent := s.lines.urgent.filter (fun u => !p u) } := by
  unfold State.removeUrgent; rw [State.foldl_frame (·.lines) _ (fun _ _ => by simp)]

theorem State.leaveLine_lines (s : State) (a : Nat) : (s.leaveLine a).lines = { s.lines with
    urgent := s.lines.urgent.filter (fun u => !(u.node == a))
    repeats := s.lines.repeats.filter (fun u => !(u.node == a))
    round := s.lines.round.map (Round.killWindow a) } := by
  unfold State.leaveLine; simp only [State.removeUrgent_lines]; rfl

theorem State.removeUrgent_records (s : State) (p : Urgent → Bool) : ∃ rs, Records s (s.removeUrgent p) rs ∧
    ∀ e ∈ rs, e.2.kind = .decisionLate ∧ s.lines.urgent ≠ [] := by
  let t : State := { s with lines := { s.lines with urgent := s.lines.urgent.filter (fun u => !p u) } }
  obtain ⟨rs, h1, h2⟩ := State.discardUrgents (s.lines.urgent.filter p) t
  exact ⟨rs, (Records.of_eq (s := s) (v := t) rfl rfl rfl).trans h1, fun e he => ⟨(h2 e he).1, fun h => (h2 e he).2 (by simp [h])⟩⟩

theorem State.leaveLine_records (s : State) (a : Nat) : ∃ rs, Records s (s.leaveLine a) rs ∧
    ∀ e ∈ rs, e.2.kind = .decisionLate ∧ s.lines.urgent ≠ [] := by
  unfold State.leaveLine
  obtain ⟨rs, h1, h2⟩ := State.removeUrgent_records (({ s with lines := { s.lines with
      repeats := s.lines.repeats.filter (fun u => u.node != a)
      round := s.lines.round.map (Round.killWindow a) } } : State).modNode a Node.unlatched) (fun u => u.node == a)
  exact ⟨rs, ⟨h1.time, h1.journal, h1.port⟩, h2⟩

/-! ### Retained nodes withdrawn at a start (02:R42) -/

/-- The lines committed at the withdrawal of some nodes (08:R148, R166). -/
def leavesWith (ds : List Node) (x : ChargeLine) : Bool :=
  ds.any (fun n => n.enrol.cls == .minibar && n.addr == x.node)
    || ds.any (fun n => n.enrol.cls == .roomEntry && n.enrol.point == x.folio)

/-- The session of a node once the folios of some withdrawn rooms are discarded. -/
def Node.withoutFolios (ds : List Node) (n : Node) : Node := { n with session := n.session.filter (fun x =>
  !(x.mode == .guest && ds.any (fun d => d.enrol.cls == .roomEntry && x.folio == some d.enrol.point))) }

/-- `w` holds what the withdrawal of the nodes `ds` leaves of `v`. -/
structure Displaced (ds : List Node) (v w : State) : Prop where
  records : ∃ rs, Records v w rs ∧
    (∀ e ∈ rs, e.2.kind = .minibarCharge ∨ e.2.kind = .decisionLate ∧ v.lines.urgent ≠ []) ∧
    (Once v.minibar.pool → ((rs.filter (fun e => e.2.kind == .minibarCharge)).map pointless).Perm
      ((v.chargeRecords (v.minibar.pool.filter (leavesWith ds))).map pointless))
  pool : Once v.minibar.pool → w.minibar.pool = v.minibar.pool.filter (fun x => !leavesWith ds x)
  folios : Once v.minibar.pool → ∀ q, (∀ d ∈ ds, d.enrol.cls = .roomEntry → d.enrol.point ≠ q) →
    w.folio? q = (v.folio? q).map (Folio.committed ((v.minibar.pool.filter (leavesWith ds)).filter (fun x => x.folio == q)))
  rooms : ∀ q, (∀ d ∈ ds, d.enrol.cls = .roomEntry → d.enrol.point ≠ q) → w.room? q = v.room? q
  nodes : w.nodes = (v.nodes.filter (fun n => !ds.any (fun d => d.addr == n.addr))).map (Node.withoutFolios ds)
  lines : w.lines = { v.lines with
    urgent := v.lines.urgent.filter (fun u => !ds.any (fun d => u.node == d.addr))
    repeats := v.lines.repeats.filter (fun u => !ds.any (fun d => u.node == d.addr))
    round := w.lines.round }
  round : v.lines.round = none → w.lines.round = none
  rest : w = { v with lines := w.lines, nodes := w.nodes, revoc := { v.revoc with rooms := w.revoc.rooms },
                      minibar := w.minibar, journal := w.journal, port := w.port }

theorem leavesWith_append (a b : List Node) (x : ChargeLine) :
    leavesWith (a ++ b) x = (leavesWith a x || leavesWith b x) := by
  simp only [leavesWith, List.any_append]
  cases a.any _ <;> cases b.any _ <;> simp

theorem leavesWith_pool (a b : List Node) (pool : List ChargeLine) :
    (pool.filter (leavesWith a) ++ (pool.filter (fun x => !leavesWith a x)).filter (leavesWith b)).Perm
      (pool.filter (leavesWith (a ++ b))) := by
  have := filter_or_perm (leavesWith a) (leavesWith b) pool
  rwa [← show leavesWith (a ++ b) = fun x => leavesWith a x || leavesWith b x from funext (leavesWith_append a b)] at this

theorem Displaced.refl (v : State) : Displaced [] v v := by
  have h : ∀ pool : List ChargeLine, pool.filter (leavesWith []) = [] := fun pool => by simp [leavesWith]
  refine ⟨⟨[], .refl v, by simp, fun _ => by simp [h, State.chargeRecords]⟩, fun _ => by simp [leavesWith], fun _ q _ => ?_,
    fun _ _ => rfl, ?_, ?_, id, rfl⟩
  · rw [h]; cases v.folio? q <;> rfl
  · have : Node.withoutFolios [] = id := by
      funext n
      have : n.session.filter (fun _ => true) = n.session := by cases n.session <;> rfl
      simp [Node.withoutFolios, this]
    simp [this]
  · simp

theorem Displaced.trans {a b : List Node} {v w u : State} (h : Displaced a v w) (g : Displaced b w u) :
    Displaced (a ++ b) v u := by
  obtain ⟨rs, r1, r2, r3⟩ := h.records
  obtain ⟨ts, t1, t2, t3⟩ := g.records
  have hnow : w.now = v.now := State.now_eq r1.time
  have once : Once v.minibar.pool → Once w.minibar.pool := fun o => by rw [h.pool o]; exact o.filter _
  have hl := h.lines
  refine ⟨⟨rs ++ ts, r1.trans t1, ?_, fun o => ?_⟩, fun o => ?_, fun o q hq => ?_, fun q hq => ?_, ?_, ?_,
    fun hr => g.round (h.round hr), ?_⟩
  · intro e he
    rcases List.mem_append.mp he with he | he
    · exact r2 e he
    · refine (t2 e he).imp id (fun ⟨a, b⟩ => ⟨a, fun hv => b ?_⟩)
      rw [hl, hv]; rfl
  · rw [List.filter_append, List.map_append]
    refine ((r3 o).append (t3 (once o))).trans ?_
    rw [State.chargeRecords_pointless, State.chargeRecords_pointless, State.chargeRecords_pointless, hnow, ← List.map_append,
      h.pool o]
    exact (leavesWith_pool a b v.minibar.pool).map _
  · rw [g.pool (once o), h.pool o, List.filter_filter]
    apply List.filter_congr; intro x _
    rw [leavesWith_append]; cases leavesWith a x <;> cases leavesWith b x <;> rfl
  · rw [g.folios (once o) q (fun d hd => hq d (by simp [hd])), h.folios o q (fun d hd => hq d (by simp [hd])), Option.map_map,
      h.pool o]
    congr 1; funext f
    rw [Function.comp, ← Folio.committed_append, ← List.filter_append]
    exact Folio.committed_perm ((leavesWith_pool a b v.minibar.pool).filter _) f
  · rw [g.rooms q (fun d hd => hq d (by simp [hd])), h.rooms q (fun d hd => hq d (by simp [hd]))]
  · rw [g.nodes, h.nodes, List.filter_map, List.map_map, List.filter_filter]
    rw [show (Node.withoutFolios b ∘ Node.withoutFolios a) = Node.withoutFolios (a ++ b) by
      funext n
      simp only [Function.comp, Node.withoutFolios, Option.filter_filter, List.any_append]
      congr 2; funext x
      cases x.mode == .guest <;> simp]
    congr 1
    apply List.filter_congr; intro n _
    simp only [Function.comp, Node.withoutFolios, List.any_append]
    cases a.any _ <;> cases b.any _ <;> rfl
  · rw [g.lines, hl]
    simp only [List.filter_filter, List.any_append]
    congr 1 <;> (apply List.filter_congr; intro x _; cases a.any _ <;> cases b.any _ <;> rfl)
  · rw [g.rest, h.rest]

theorem dropKey_modKey {α : Type} (key : α → Nat) (f : α → α) (hf : ∀ x, key (f x) = key x) (k : Nat) (l : List α) :
    dropKey key k (modKey key k f l) = dropKey key k l := by
  induction l with
  | nil => rfl
  | cons x l ih =>
    simp only [dropKey, modKey, List.map_cons, List.filter_cons] at ih ⊢
    rw [ih]
    by_cases h : key x = k
    · simp [h, hf]
    · simp [h]

theorem State.rest_of {s t : State} (h1 : t.pending = s.pending) (h2 : t.part = s.part) (h3 : t.supply = s.supply)
    (h4 : t.loader = s.loader) (h5 : t.time = s.time) (h6 : t.inviter = s.inviter) (h7 : t.store = s.store)
    (h8 : t.choices = s.choices) (h9 : t.revoc = { s.revoc with rooms := t.revoc.rooms }) :
    t = { s with lines := t.lines, nodes := t.nodes, revoc := { s.revoc with rooms := t.revoc.rooms },
                 minibar := t.minibar, journal := t.journal, port := t.port } := by
  cases s; cases t
  cases h1; cases h2; cases h3; cases h4; cases h5; cases h6; cases h7; cases h8
  simp only [State.mk.injEq, true_and, and_true]
  exact h9

/-- A retained node withdrawn at a start. -/
theorem State.displace_spec (s : State) (n : Node) : Displaced [n] s (s.displace n) := by
  obtain ⟨rs, l1, l2⟩ := s.leaveLine_records n.addr
  obtain ⟨t, ht⟩ : ∃ t, t = s.leaveLine n.addr := ⟨_, rfl⟩
  rw [← ht] at l1
  have tl : t.lines = { s.lines with
      urgent := s.lines.urgent.filter (fun u => !(u.node == n.addr))
      repeats := s.lines.repeats.filter (fun u => !(u.node == n.addr))
      round := t.lines.round } := by
    rw [ht, s.leaveLine_lines]
  have tr : s.lines.round = none → t.lines.round = none := fun h => by rw [ht, s.leaveLine_lines, h]; rfl
  have tn : t.nodes = modKey Node.addr n.addr Node.unlatched s.nodes := by rw [ht]; simp [State.leaveLine]
  have tm : t.minibar = s.minibar := by rw [ht]; simp
  have tv : t.revoc = s.revoc := by rw [ht]; simp
  have drop : ∀ f : Node → Node, (∀ x, (f x).addr = x.addr) →
      dropKey Node.addr n.addr (modKey Node.addr n.addr f t.nodes) = s.nodes.filter (fun x => !(n.addr == x.addr)) := by
    intro f hf
    rw [dropKey_modKey _ _ hf, tn, dropKey_modKey Node.addr Node.unlatched (fun _ => rfl)]
    apply List.filter_congr; intro x _; simp [bne, Bool.beq_comm]
  -- the lines committed
  let P : ChargeLine → Bool := leavesWith [n]
  obtain ⟨⟨cs, c1, c2, c3⟩, c4, c5⟩ := State.commitWhere_spec P t
  rw [tm] at c3 c4 c5
  have build : ∀ w : State, Records (t.commitWhere P) w [] →
      w.minibar.pool = (t.commitWhere P).minibar.pool →
      (∀ q, (∀ d ∈ [n], d.enrol.cls = .roomEntry → d.enrol.point ≠ q) → w.folio? q = (t.commitWhere P).folio? q) →
      (∀ q, (∀ d ∈ [n], d.enrol.cls = .roomEntry → d.enrol.point ≠ q) → w.room? q = s.room? q) →
      w.nodes = (s.nodes.filter (fun x => !(n.addr == x.addr))).map (Node.withoutFolios [n]) →
      w.lines = t.lines →
      w = { s with lines := w.lines, nodes := w.nodes, revoc := { s.revoc with rooms := w.revoc.rooms },
                   minibar := w.minibar, journal := w.journal, port := w.port } →
      Displaced [n] s w := by
    intro w w1 w2 w3 w4 w5 w6 w7
    have tnow : t.now = s.now := State.now_eq l1.time
    refine ⟨⟨rs ++ (cs ++ []), l1.trans (c1.trans w1), ?_, fun o => ?_⟩, fun o => ?_, fun o q hq => ?_, w4, ?_, ?_,
      fun h => by rw [w6, tr h], w7⟩
    · intro e he
      rcases List.mem_append.mp he with he | he
      · exact .inr (l2 e he)
      · exact .inl (c2 e (by simpa using he))
    · have a1 : rs.filter (fun e => e.2.kind == .minibarCharge) = [] := by
        rw [List.filter_eq_nil_iff]; intro e he; rw [(l2 e he).1]; decide
      have a2 : cs.filter (fun e => e.2.kind == .minibarCharge) = cs := by
        rw [List.filter_eq_self]; intro e he; rw [c2 e he]; rfl
      rw [List.filter_append, a1, List.append_nil, List.nil_append, a2, c3, State.chargeRecords_pointless,
        State.chargeRecords_pointless, tnow]
    · rw [w2, c4 o]
    · rw [w3 q hq, c5, show t.folio? q = s.folio? q by simp [State.folio?, tm]]
    · rw [w5]; simp
    · rw [w6, tl]; simp
  have frame : ∀ w : State, w.pending = t.pending → w.part = t.part → w.supply = t.supply → w.loader = t.loader →
      w.time = t.time → w.inviter = t.inviter → w.store = t.store → w.choices = t.choices →
      w.revoc = { t.revoc with rooms := w.revoc.rooms } →
      w = { s with lines := w.lines, nodes := w.nodes, revoc := { s.revoc with rooms := w.revoc.rooms },
                   minibar := w.minibar, journal := w.journal, port := w.port } := by
    intro w h1 h2 h3 h4 h5 h6 h7 h8 h9
    refine State.rest_of ?_ ?_ ?_ ?_ ?_ ?_ ?_ ?_ ?_
    · rw [h1, ht]; simp
    · rw [h2, ht]; simp
    · rw [h3, ht]; simp
    · rw [h4, ht]; simp
    · rw [h5, ht]; simp
    · rw [h6, ht]; simp
    · rw [h7, ht]; simp
    · rw [h8, ht]; simp
    · rw [h9, tv]
  have room : ∀ q, t.room? q = s.room? q := State.room?_rooms (by rw [tv])
  have away : n.enrol.cls ≠ .roomEntry → Node.withoutFolios [n] = id := by
    intro h
    funext x
    have : x.session.filter (fun _ => true) = x.session := by cases x.session <;> rfl
    have hb : (n.enrol.cls == .roomEntry) = false := beq_eq_false_iff_ne.mpr h
    simp [Node.withoutFolios, hb, this]
  have other : n.enrol.cls ≠ .minibar → n.enrol.cls ≠ .roomEntry → Displaced [n] s (t.forgetNode n.addr) := by
    intro h1 h2
    have hP : t.commitWhere P = t := by
      have : t.minibar.pool.filter P = [] := by simp [P, leavesWith, h1, h2]
      unfold State.commitWhere; rw [this]; rfl
    refine build _ ?_ ?_ ?_ ?_ ?_ rfl (frame _ rfl rfl rfl rfl rfl rfl rfl rfl rfl)
    · rw [hP]; exact .of_eq rfl rfl rfl
    · rw [hP]; rfl
    · intro q _; rw [hP]; rfl
    · intro q _; exact room q
    · rw [away h2, List.map_id]
      have := drop id (fun _ => rfl)
      rw [show modKey Node.addr n.addr id t.nodes = t.nodes by simp [modKey]] at this
      exact this
  simp only [State.displace, State.releaseNode, ← ht]
  cases hc : n.enrol.cls with
  | minibar =>
    have hP : P = fun l => l.node == n.addr := by
      funext l; simp [P, leavesWith, hc, Bool.beq_comm (a := l.node)]
    refine build _ ?_ ?_ ?_ ?_ ?_ ?_ (frame _ ?_ ?_ ?_ ?_ ?_ ?_ ?_ ?_ ?_)
    all_goals try (simp [State.minibarLeaves, hP]; done)
    · simp only [State.minibarLeaves, ← hP]; exact .of_eq rfl rfl rfl
    · intro q _; simp only [State.minibarLeaves, ← hP]; rfl
    · intro q _; rw [← room q]; exact State.room?_rooms (by simp [State.minibarLeaves]) q
    · rw [away (by simp [hc]), List.map_id, ← drop Node.endSession (fun _ => rfl)]
      simp [State.minibarLeaves, State.forgetNode, State.modNode]
  | roomEntry =>
    have hP : P = fun l => l.folio == n.enrol.point := by
      funext l; simp [P, leavesWith, hc, Bool.beq_comm (a := l.folio)]
    have ne : ∀ q, (∀ d ∈ [n], d.enrol.cls = .roomEntry → d.enrol.point ≠ q) → q ≠ n.enrol.point :=
      fun q h e => h n (by simp) hc e.symm
    refine build _ ?_ ?_ ?_ ?_ ?_ ?_ (frame _ ?_ ?_ ?_ ?_ ?_ ?_ ?_ ?_ ?_)
    all_goals try (simp [State.discardFolio, State.endSessionsOf, hP]; done)
    · simp only [State.discardFolio, ← hP]; exact .of_eq rfl rfl rfl
    · intro q hq
      simp only [State.discardFolio, ← hP]
      exact findKey_dropKey_ne Folio.point (ne q hq) _
    · intro q hq
      rw [← room q]
      show findKey Room.point q (dropKey Room.point n.enrol.point (t.discardFolio n.enrol.point).revoc.rooms) = _
      rw [findKey_dropKey_ne Room.point (ne q hq)]
      exact State.room?_rooms (by simp) q
    · rw [← drop id (fun _ => rfl), show modKey Node.addr n.addr id t.nodes = t.nodes by simp [modKey]]
      have hf : Node.withoutFolios [n] = fun x =>
          if x.session.any (fun y => y.mode == .guest && y.folio == some n.enrol.point) then x.endSession else x := by
        funext x
        simp only [Node.withoutFolios, List.any_cons, List.any_nil, hc, beq_self_eq_true, Bool.true_and, Bool.or_false]
        cases hx : x.session with
        | none => cases x; cases hx; rfl
        | some y =>
          cases x; cases hx
          cases hy : (y.mode == .guest && y.folio == some n.enrol.point) <;>
            simp [Option.filter, hy, Node.endSession]
      rw [hf]
      simp only [State.forgetNode, State.discardFolio, State.endSessionsOf, State.commitWhere_nodes, dropKey, List.filter_map]
      congr 1
      apply List.filter_congr; intro x _
      simp only [Function.comp]; split <;> rfl
  | suiteInner => exact other (by simp [hc]) (by simp [hc])
  | amenityGate => exact other (by simp [hc]) (by simp [hc])
  | service => exact other (by simp [hc]) (by simp [hc])

/-! ### The orders of the blocks -/

theorem arrangeAux_perm {α : Type} : ∀ (fuel n : Nat) (l : List α), (arrangeAux fuel n l).Perm l
  | 0, _, _ => .refl _
  | fuel + 1, n, l => by
    unfold arrangeAux
    split
    · exact .refl _
    · next x after h =>
      have : (l.take (n % l.length) ++ x :: after).Perm l := by rw [← h, List.take_append_drop]
      exact ((arrangeAux_perm fuel _ _).cons x).trans (List.perm_middle.symm.trans this)

theorem startSequence_perm : ∀ l : List StartActor, (startSequence l).Perm l
  | [] => .refl _
  | .orphans :: l => by
    unfold startSequence
    split
    · exact List.perm_append_comm (l₂ := [StartActor.orphans])
    · exact .refl _
  | .tables :: l | .lapses :: l | .charges :: l | .lineA :: l | .lineB :: l | .entry :: l | .notice :: l =>
    (startSequence_perm l).cons _

/-! ### Enrolments taken up (02:R42) -/

theorem findKey_putKey_ne {α : Type} (key : α → Nat) (x : α) {j : Nat} (h : j ≠ key x) :
    ∀ l : List α, findKey key j (putKey key x l) = findKey key j l
  | [] => by simp [findKey, putKey, Ne.symm h]
  | y :: ys => by
    unfold putKey
    split
    · simp [findKey, Ne.symm h]
    · split
      · next e => simp [findKey, Ne.symm h, e ▸ Ne.symm h]
      · have ih := findKey_putKey_ne key x h ys
        unfold findKey at ih ⊢
        rw [List.find?_cons, List.find?_cons, ih]

/-- `w` holds what taking up the enrolments `es` leaves of `v`. -/
structure TakenUp (es : List EnrolReq) (v w : State) : Prop where
  rest : w = { v with
    nodes := w.nodes, revoc := { v.revoc with rooms := w.revoc.rooms }, minibar := { v.minibar with folios := w.minibar.folios } }
  rooms : ∀ p, (∀ r ∈ es, r.enrol.cls = .roomEntry → r.enrol.point = p → ∃ n, v.node? r.addr = some n) →
    w.room? p = v.room? p ∧ w.folio? p = v.folio? p
  retained : ∀ a n, v.node? a = some n → ∃ m, w.node? a = some m
  kept : es.Pairwise (fun q r => q.addr ≠ r.addr) → ∀ r ∈ es, ∀ n, v.node? r.addr = some n →
    w.node? r.addr = some { n with enrol := r.enrol }
  others : ∀ a, (∀ r ∈ es, r.addr ≠ a) → w.node? a = v.node? a

theorem State.takeUp_node_ne (s : State) (r : EnrolReq) {a : Nat} (h : a ≠ r.addr) : (s.takeUp r).node? a = s.node? a := by
  unfold State.takeUp
  split
  · exact findKey_modKey_ne Node.addr (fun n : Node => { n with enrol := r.enrol }) (fun _ => rfl) h s.nodes
  · unfold State.createNode
    dsimp only
    split <;> exact findKey_putKey_ne Node.addr (Node.fresh r s.revoc.gen) h _

theorem State.takeUp_node (s : State) (r : EnrolReq) {n : Node} (h : s.node? r.addr = some n) :
    (s.takeUp r).node? r.addr = some { n with enrol := r.enrol } := by
  have := findKey_modKey Node.addr (fun n : Node => { n with enrol := r.enrol }) (fun _ => rfl) r.addr s.nodes
  rw [show findKey Node.addr r.addr s.nodes = some n from h] at this
  unfold State.takeUp; rw [h]; exact this

theorem State.takeUp_rest (s : State) (r : EnrolReq) : s.takeUp r = { s with
    nodes := (s.takeUp r).nodes, revoc := { s.revoc with rooms := (s.takeUp r).revoc.rooms }
    minibar := { s.minibar with folios := (s.takeUp r).minibar.folios } } := by
  unfold State.takeUp
  split
  · rfl
  · unfold State.createNode; dsimp only; split <;> rfl

theorem State.takeUp_room (s : State) (r : EnrolReq) (p : Nat)
    (h : r.enrol.cls = .roomEntry → r.enrol.point = p → ∃ n, s.node? r.addr = some n) :
    (s.takeUp r).room? p = s.room? p ∧ (s.takeUp r).folio? p = s.folio? p := by
  unfold State.takeUp
  split
  · exact ⟨rfl, rfl⟩
  · next hn =>
    unfold State.createNode; dsimp only; split
    · next hc =>
      have hp : p ≠ r.enrol.point := fun e => by
        obtain ⟨n, hs⟩ := h hc e.symm
        rw [hn] at hs; exact absurd hs (by simp)
      exact ⟨findKey_putKey_ne Room.point (Room.initial r.enrol.point _) hp _,
        findKey_putKey_ne Folio.point (Folio.initial r.enrol.point _) hp _⟩
    · exact ⟨rfl, rfl⟩

theorem State.takeUp_retained (s : State) (r : EnrolReq) (a : Nat) (n : Node) (h : s.node? a = some n) :
    ∃ m, (s.takeUp r).node? a = some m := by
  by_cases e : a = r.addr
  · subst e; exact ⟨_, s.takeUp_node r h⟩
  · exact ⟨n, by rw [s.takeUp_node_ne r e, h]⟩

theorem State.takeUps (es : List EnrolReq) : ∀ s : State, TakenUp es s (es.foldl State.takeUp s) := by
  induction es with
  | nil => exact fun s => ⟨rfl, fun _ _ => ⟨rfl, rfl⟩, fun _ n h => ⟨n, h⟩, fun _ _ h => absurd h (by simp), fun _ _ => rfl⟩
  | cons r es ih =>
    intro s
    obtain ⟨i1, i2, i3, i4, i5⟩ := ih (s.takeUp r)
    refine ⟨?_, fun p hp => ?_, fun a n h => ?_, fun hd q hq n hn => ?_, fun a ha => ?_⟩
    · rw [List.foldl_cons, i1, s.takeUp_rest r]
    · have h1 := s.takeUp_room r p (hp r (by simp))
      have h2 := i2 p (fun q hq hc hqp => by
        obtain ⟨n, hn⟩ := hp q (by simp [hq]) hc hqp
        exact s.takeUp_retained r _ n hn)
      exact ⟨h2.1.trans h1.1, h2.2.trans h1.2⟩
    · obtain ⟨m, hm⟩ := s.takeUp_retained r a n h
      exact i3 a m hm
    · rw [List.pairwise_cons] at hd
      rcases List.mem_cons.mp hq with rfl | hq
      · rw [List.foldl_cons, i5 _ (fun x hx => (hd.1 x hx).symm), s.takeUp_node _ hn]
      · exact i4 hd.2 q hq n (by rw [s.takeUp_node_ne r (hd.1 q hq).symm, hn])
    · rw [List.foldl_cons, i5 a (fun q hq => ha q (by simp [hq])), s.takeUp_node_ne r (ha r (by simp)).symm]

theorem State.displaces (ds : List Node) : ∀ s : State, Displaced ds s (ds.foldl State.displace s) := by
  induction ds with
  | nil => exact .refl
  | cons d ds ih => exact fun s => (s.displace_spec d).trans (ih (s.displace d))

/-! ### The acts of a start -/

/-- The encodings that an act returns (04:R78, R86). -/
def StartActor.returned (lost : List Nat) (now : Nat) : StartActor → Cred → Bool
  | .orphans, c => c.st.isEncoding && lost.any (fun p => c.guestOf p)
  | .lapses, c => c.lapsed now
  | _, _ => false

/-- The charge lines that an act commits (08:R158, R166). -/
def StartActor.committed (ds : List Node) (now : Nat) : StartActor → ChargeLine → Bool
  | .tables, x => leavesWith ds x
  | .charges, x => x.due now
  | _, _ => false

/-- The LINE_STATE records of an act (01:R3). -/
def StartActor.changes (now : Nat) : StartActor → List (Nat × Entry)
  | .lineA => [(now, lineStateEntry .a .training)]
  | .lineB => [(now, lineStateEntry .b .training)]
  | _ => []

/-- A line that enters TRAINING (01:R2). -/
def Line.entered (l : Line) : Line := { l with st := .training, retrain := 4, running := 0 }

/-- `w` holds what the acts `as` leave of `v`, each done once: `ds` are the nodes that leave, `lost` the rooms that leave. -/
structure Acted (es : List EnrolReq) (lost : List Nat) (ds : List Node) (as : List StartActor) (v w : State) : Prop where
  part : w.part = if as.contains .entry then .running else v.part
  rest : w = { v with part := w.part, lines := w.lines, nodes := w.nodes, store := w.store, revoc := w.revoc
                      minibar := w.minibar, journal := w.journal, port := w.port }
  revoc : w.revoc = { v.revoc with rooms := w.revoc.rooms }
  lines : w.lines = { v.lines with
    lineA := if as.contains .lineA then v.lines.lineA.entered else v.lines.lineA
    lineB := if as.contains .lineB then v.lines.lineB.entered else v.lines.lineB
    urgent := v.lines.urgent.filter (fun u => !(as.contains .tables && ds.any (fun n => u.node == n.addr)))
    repeats := v.lines.repeats.filter (fun u => !(as.contains .tables && ds.any (fun n => u.node == n.addr)))
    round := w.lines.round }
  round : v.lines.round = none → w.lines.round = none
  records : ∃ rs, w.journal = v.journal.pushAll rs ∧
    (∀ e ∈ rs, e.2.kind = .lineState ∨ e.2.kind = .cardLapsed ∨ e.2.kind = .minibarCharge ∨
      e.2.kind = .decisionLate ∧ v.lines.urgent ≠ []) ∧
    (rs.filter (fun e => e.2.kind == .lineState)).Perm (as.flatMap (StartActor.changes v.now)) ∧
    (v.store.recs.Pairwise (fun c d => c.number < d.number) → (rs.filter (fun e => e.2.kind == .cardLapsed)).Perm
      (v.lapsedRecords (v.store.recs.filter (fun c => as.any (fun a => StartActor.returned lost v.now a c))) .lapsed)) ∧
    (Once v.minibar.pool → ((rs.filter (fun e => e.2.kind == .minibarCharge)).map pointless).Perm
      ((v.chargeRecords (v.minibar.pool.filter (fun x => as.any (fun a => StartActor.committed ds v.now a x)))).map pointless))
  recs : v.store.recs.Pairwise (fun c d => c.number < d.number) →
    w.store.recs = v.store.recs.filter (fun c => !as.any (fun a => StartActor.returned lost v.now a c)) ∧
    ∃ ks, w.store.free = v.store.free ++ ks ∧
      ks.Perm ((v.store.recs.filter (fun c => as.any (fun a => StartActor.returned lost v.now a c))).map Cred.number)
  retired : w.store.retired = v.store.retired
  pool : Once v.minibar.pool → w.minibar.pool = v.minibar.pool.filter (fun x => !as.any (fun a => StartActor.committed ds v.now a x))
  point : ∀ p, (∀ d ∈ ds, d.enrol.cls = .roomEntry → d.enrol.point ≠ p) → as.Nodup →
    (.tables ∈ as → v.displaced es = ds ∧ v.nodes.Pairwise (fun m n => m.addr < n.addr) ∧
      ∀ r ∈ es, r.enrol.cls = .roomEntry → r.enrol.point = p → ∃ n ∈ v.nodes, n.enrolledAlike r) →
    w.room? p = v.room? p ∧
    (Once v.minibar.pool → w.folio? p = (v.folio? p).map (Folio.committed
      ((v.minibar.pool.filter (fun x => as.any (fun a => StartActor.committed ds v.now a x))).filter (fun x => x.folio == p))))
  same : .tables ∉ as → w.nodes = v.nodes
  kept : v.displaced es = ds → .tables ∈ as → as.Nodup → v.nodes.Pairwise (fun m n => m.addr < n.addr) →
    es.Pairwise (fun q r => q.addr ≠ r.addr) → ∀ r ∈ es, ∀ n ∈ v.nodes, n.enrolledAlike r →
    w.node? r.addr = some { n.withoutFolios ds with enrol := r.enrol }
  port : Port.noticesOnly v.port w.port
  notified : TrainingNotified v.port w.port

theorem filter_not_or {α : Type} (P Q : α → Bool) (l : List α) :
    l.filter (fun x => !(P x || Q x)) = (l.filter (fun x => !P x)).filter (fun x => !Q x) := by
  rw [List.filter_filter]; apply List.filter_congr; intro x _; cases P x <;> cases Q x <;> rfl

theorem TrainingNotified.trans {p q r : Port} (h : TrainingNotified p q) (g : TrainingNotified q r) : TrainingNotified p r := by
  rcases h with ⟨a, b⟩ | ⟨a, b, x, y, c, d⟩ <;> rcases g with ⟨a', b'⟩ | ⟨a', b', x', y', c', d'⟩
  · exact .inl ⟨a'.trans a, b'.trans b⟩
  · exact .inr ⟨a ▸ a', b', x', y', c', d'.trans (b.append_right _)⟩
  · exact .inr ⟨a, a'.trans b, x, y, c, b'.trans d⟩
  · rw [b] at a'; exact absurd a' (by simp)

theorem Acted.trans {es lost ds as bs} {v w u : State} (h : Acted es lost ds as v w) (g : Acted es lost ds bs w u) :
    Acted es lost ds (as ++ bs) v u := by
  have time : w.time = v.time := by rw [h.rest]
  have now : w.now = v.now := State.now_eq time
  have once : Once v.minibar.pool → Once w.minibar.pool := fun o => by rw [h.pool o]; exact o.filter _
  have up : v.store.recs.Pairwise (fun c d => c.number < d.number) → w.store.recs.Pairwise (fun c d => c.number < d.number) :=
    fun o => by rw [(h.recs o).1]; exact o.filter _
  have hl := h.lines
  obtain ⟨rs, r1, r2, r3, r4, r5⟩ := h.records
  obtain ⟨ts, t1, t2, t3, t4, t5⟩ := g.records
  refine ⟨?_, ?_, ?_, ?_, fun o => g.round (h.round o), ⟨rs ++ ts, ?_, ?_, ?_, fun o => ?_, fun o => ?_⟩, fun o => ⟨?_, ?_⟩, ?_,
    fun o => ?_, ?_, ?_, ?_, ?_, h.notified.trans g.notified⟩
  · rw [g.part, h.part]; simp only [List.contains_append]; cases as.contains StartActor.entry <;> cases bs.contains StartActor.entry <;> rfl
  · rw [g.rest, h.rest]
  · rw [g.revoc, h.revoc]
  · rw [g.lines, hl]
    simp only [List.contains_append, List.filter_filter]
    congr 1
    · cases as.contains StartActor.lineA <;> cases bs.contains StartActor.lineA <;> rfl
    · cases as.contains StartActor.lineB <;> cases bs.contains StartActor.lineB <;> rfl
    · apply List.filter_congr; intro x _
      cases as.contains StartActor.tables <;> cases bs.contains StartActor.tables <;> simp
    · apply List.filter_congr; intro x _
      cases as.contains StartActor.tables <;> cases bs.contains StartActor.tables <;> simp
  · rw [t1, r1, Journal.pushAll_append]
  · intro e he
    rcases List.mem_append.mp he with he | he
    · exact r2 e he
    · refine (t2 e he).imp id (Or.imp id (Or.imp id (fun ⟨a, b⟩ => ⟨a, fun hv => b ?_⟩)))
      rw [hl, hv]; rfl
  · rw [List.filter_append, List.flatMap_append]; rw [now] at t3; exact r3.append t3
  · rw [List.filter_append]
    refine ((r4 o).append (t4 (up o))).trans ?_
    rw [(h.recs o).1, now]
    simp only [State.lapsedRecords, now, ← List.map_append, List.any_append]
    exact (filter_or_perm _ _ _).map _
  · rw [List.filter_append, List.map_append]
    refine ((r5 o).append (t5 (once o))).trans ?_
    rw [h.pool o]
    simp only [State.chargeRecords_pointless, now, ← List.map_append, List.any_append]
    exact (filter_or_perm _ _ _).map _
  · rw [(g.recs (up o)).1, (h.recs o).1, now]; simp only [List.any_append]; rw [filter_not_or]
  · obtain ⟨k1, k2, k3⟩ := (h.recs o).2
    obtain ⟨j1, j2, j3⟩ := (g.recs (up o)).2
    refine ⟨k1 ++ j1, by rw [j2, k2, List.append_assoc], (k3.append j3).trans ?_⟩
    rw [(h.recs o).1, now, ← List.map_append]; simp only [List.any_append]
    exact (filter_or_perm _ _ _).map _
  · rw [g.retired, h.retired]
  · rw [g.pool (once o), h.pool o, now]; simp only [List.any_append]; rw [filter_not_or]
  · intro p h1 h5 h2
    rw [List.nodup_append] at h5
    obtain ⟨h5, h6, h7⟩ := h5
    obtain ⟨x1, x2⟩ := h.point p h1 h5 (fun e => h2 (by simp [e]))
    obtain ⟨y1, y2⟩ := g.point p h1 h6 (fun e => by
      have hn := h.same (fun hb => h7 _ hb _ e rfl)
      obtain ⟨z1, z2, z3⟩ := h2 (by simp [e])
      exact ⟨by rw [← z1]; simp [State.displaced, hn], by rw [hn]; exact z2, by rw [hn]; exact z3⟩)
    refine ⟨y1.trans x1, fun o => ?_⟩
    rw [y2 (once o), x2 o, Option.map_map, h.pool o, now]
    congr 1; funext f
    rw [Function.comp, ← Folio.committed_append, ← List.filter_append]
    simp only [List.any_append]
    exact Folio.committed_perm ((filter_or_perm _ _ _).filter _) f
  · intro ht; rw [g.same (fun e => ht (by simp [e])), h.same (fun e => ht (by simp [e]))]
  · intro h1 h2 h3 h4 h5 r hr n hn ha
    rw [List.nodup_append] at h3
    obtain ⟨h3, h6, h7⟩ := h3
    by_cases ht : StartActor.tables ∈ as
    · have hb : StartActor.tables ∉ bs := fun hb => h7 _ ht _ hb rfl
      rw [State.node?, g.same hb]; exact h.kept h1 ht h3 h4 h5 r hr n hn ha
    · have hs := h.same ht
      exact g.kept (by rw [← h1]; simp [State.displaced, hs]) ((List.mem_append.mp h2).resolve_left ht) h6 (by rw [hs]; exact h4)
        h5 r hr n (by rw [hs]; exact hn) ha
  · have a := h.port; have b := g.port; unfold Port.noticesOnly at *; rw [b, a]

theorem Port.Quiet.notified {p q : Port} (h : Port.Quiet p q) : TrainingNotified p q := by
  obtain ⟨-, a, fs, f1, f2⟩ := h
  refine .inl ⟨a, ?_⟩
  dsimp only
  refine (f1.filter _).trans ?_
  rw [List.filter_append, show fs.filter OutFrame.isLineChange = [] from List.filter_eq_nil_iff.mpr (fun f hf => by simp [f2 f hf]),
    List.append_nil]

theorem State.start_rest {s t : State} (h1 : t.pending = s.pending) (h3 : t.supply = s.supply)
    (h4 : t.loader = s.loader) (h5 : t.time = s.time) (h6 : t.inviter = s.inviter) (h8 : t.choices = s.choices) :
    t = { s with part := t.part, lines := t.lines, nodes := t.nodes, store := t.store, revoc := t.revoc
                 minibar := t.minibar, journal := t.journal, port := t.port } := by
  cases s; cases t
  cases h1; cases h3; cases h4; cases h5; cases h6; cases h8; rfl

variable {es : List EnrolReq} {lost : List Nat} {ds : List Node}

theorem lines_kept (v : State) : v.lines = { v.lines with
    urgent := v.lines.urgent.filter (fun u => !(false && ds.any (fun n => u.node == n.addr)))
    repeats := v.lines.repeats.filter (fun u => !(false && ds.any (fun n => u.node == n.addr))) } := by simp

theorem store_kept (v : State) (R : Cred → Bool) (h : ∀ c, R c = false) :
    v.store.recs = v.store.recs.filter (fun c => !R c) ∧
    ∃ ks, v.store.free = v.store.free ++ ks ∧ ks.Perm ((v.store.recs.filter R).map Cred.number) := by
  have e : R = fun _ => false := funext h
  subst e; simp

theorem Folio.committed_none (o : Option Folio) : o = o.map (Folio.committed []) := by cases o <;> rfl

theorem acted_entry (v : State) : Acted es lost ds [.entry] v v.enterRunning where
  part := rfl
  rest := rfl
  revoc := rfl
  lines := lines_kept v
  round := id
  records := ⟨[], rfl, by simp, .refl _, fun _ => by simp [StartActor.returned, State.lapsedRecords], fun _ => by simp [StartActor.committed, State.chargeRecords]⟩
  recs := fun _ => store_kept v _ (fun _ => rfl)
  retired := rfl
  pool := fun _ => by simp [StartActor.committed, State.enterRunning]
  point := fun p _ _ _ => ⟨rfl, fun _ => by simpa [StartActor.committed, State.enterRunning, State.folio?] using Folio.committed_none (v.folio? p)⟩
  same := fun _ => rfl
  kept := by simp
  port := rfl
  notified := (Port.Quiet.refl v.port).notified

theorem acted_notice (v : State) : Acted es lost ds [.notice] v v.started where
  part := rfl
  rest := rfl
  revoc := rfl
  lines := lines_kept v
  round := id
  records := ⟨[], rfl, by simp, .refl _, fun _ => by simp [StartActor.returned, State.lapsedRecords], fun _ => by simp [StartActor.committed, State.chargeRecords]⟩
  recs := fun _ => store_kept v _ (fun _ => rfl)
  retired := rfl
  pool := fun _ => by simp [StartActor.committed, State.started]
  point := fun p _ _ _ => ⟨rfl, fun _ => by simpa [StartActor.committed, State.started, State.folio?] using Folio.committed_none (v.folio? p)⟩
  same := fun _ => rfl
  kept := by simp
  port := by simp only [Port.noticesOnly, State.started, Port.ready]; cases v.port.sending <;> rfl
  notified := Port.Quiet.notified (by
    refine ⟨?_, ?_, [_], Port.ready_frames (.notice 0x60 _) v.port, by simp [OutFrame.isLineChange]⟩
    · simp only [Port.noticesOnly, State.started, Port.ready]; cases v.port.sending <;> rfl
    · simp only [State.started, Port.ready]; cases v.port.sending <;> rfl)

theorem acted_return (v : State) (P : Cred → Bool) (a : StartActor) (ha : a = .orphans ∨ a = .lapses)
    (hP : ∀ c, StartActor.returned lost v.now a c = P c) :
    Acted es lost ds [a] v (((v.store.recs.filter P).map Cred.number).foldl (fun t k => t.returnEncoding k .lapsed) v) := by
  obtain ⟨⟨rs, r1, r2, r3⟩, r4, r5⟩ := State.returnWhere P .lapsed v
  have f {β : Type} (g : State → β) (hg : ∀ s k, g (s.returnEncoding k .lapsed) = g s) :
      g (((v.store.recs.filter P).map Cred.number).foldl (fun t k => t.returnEncoding k .lapsed) v) = g v :=
    State.foldl_frame g _ hg _ _
  have hm := f (·.minibar) (fun _ _ => by simp)
  have hl := f (·.lines) (fun _ _ => by simp)
  have hv := f (·.revoc) (fun _ _ => by simp)
  have hn := f (·.nodes) (fun _ _ => by simp)
  have hR : (fun c => [a].any (fun a => StartActor.returned lost v.now a c)) = P := funext fun c => by simp [hP]
  have hC : ∀ x, [a].any (fun a => StartActor.committed ds v.now a x) = false := fun x => by rcases ha with rfl | rfl <;> rfl
  have hC' : (fun x => [a].any (fun a => StartActor.committed ds v.now a x)) = fun _ => false := funext hC
  refine ⟨?_, ?_, by rw [hv], ?_, by rw [hl]; exact id, ⟨rs, r1.journal, ?_, ?_, ?_, ?_⟩, ?_, r4, ?_, ?_, fun _ => hn, ?_, r1.port.only,
    r1.port.notified⟩
  · rw [f (·.part) (fun _ _ => by simp)]; rcases ha with rfl | rfl <;> rfl
  · apply State.start_rest <;> apply f <;> intro _ _ <;> simp
  · rw [hl]; rcases ha with rfl | rfl <;> exact lines_kept v
  · intro e he; exact .inr (.inl (r2 e he))
  · rw [List.filter_eq_nil_iff.mpr (fun e he => by rw [r2 e he]; decide)]; rcases ha with rfl | rfl <;> exact .refl _
  · intro o; rw [List.filter_eq_self.mpr (fun e he => by rw [r2 e he]; rfl), hR, r3 o]
  · intro o; rw [List.filter_eq_nil_iff.mpr (fun e he => by rw [r2 e he]; decide), hC']; simp [State.chargeRecords]
  · intro o; rw [hR]; exact ⟨by rw [(r5 o).1]; simp [hP], _, (r5 o).2, .refl _⟩
  · intro _; rw [hm]; simp [hC]
  · intro p _ _ _
    refine ⟨State.room?_rooms (by rw [hv]) p, fun _ => ?_⟩
    rw [hC', f (fun s => s.folio? p) (fun _ _ => by simp [State.folio?])]
    simpa using Folio.committed_none (v.folio? p)
  · rcases ha with rfl | rfl <;> simp

theorem acted_charges (v : State) : Acted es lost ds [.charges] v v.commitDue := by
  obtain ⟨⟨rs, r1, r2, r3⟩, r4, r5⟩ := State.commitWhere_spec (ChargeLine.due v.now) v
  have hC : (fun x => [StartActor.charges].any (fun a => StartActor.committed ds v.now a x)) = ChargeLine.due v.now := funext fun x => by simp [StartActor.committed]
  have hR : (fun c => [StartActor.charges].any (fun a => StartActor.returned lost v.now a c)) = fun _ => false := funext fun x => by simp [StartActor.returned]
  refine ⟨?_, ?_, ?_, ?_, ?_, ⟨rs, r1.journal, ?_, ?_, ?_, ?_⟩, ?_, ?_, ?_, ?_, fun _ => ?_, ?_, r1.port.only,
    r1.port.notified⟩
  · simp [State.commitDue]
  · apply State.start_rest <;> simp [State.commitDue]
  · simp [State.commitDue]
  · simp [State.commitDue]
  · simp [State.commitDue]
  · intro e he; exact .inr (.inr (.inl (r2 e he)))
  · rw [List.filter_eq_nil_iff.mpr (fun e he => by rw [r2 e he]; decide)]; exact .refl _
  · intro o; rw [List.filter_eq_nil_iff.mpr (fun e he => by rw [r2 e he]; decide), hR]; simp [State.lapsedRecords]
  · intro o; rw [List.filter_eq_self.mpr (fun e he => by rw [r2 e he]; rfl), hC, r3]
  · intro o; rw [show v.commitDue.store = v.store by simp [State.commitDue]]; exact store_kept v _ (fun _ => rfl)
  · simp [State.commitDue]
  · intro o; rw [State.commitDue, r4 o]; simp [StartActor.committed]
  · intro p _ _ _
    refine ⟨State.room?_rooms (by simp [State.commitDue]) p, fun _ => ?_⟩
    rw [hC, State.commitDue, r5]
  · simp [State.commitDue]
  · simp

theorem acted_tables (v : State) : Acted es lost (v.displaced es) [.tables] v (v.reconcile es) := by
  obtain ⟨u, hu⟩ : ∃ u, u = (v.displaced es).foldl State.displace v := ⟨_, rfl⟩
  have hd := State.displaces (v.displaced es) v
  rw [← hu] at hd
  have ht := State.takeUps es u
  rw [show es.foldl State.takeUp u = v.reconcile es by rw [hu]; rfl] at ht
  obtain ⟨w, hw⟩ : ∃ w, w = v.reconcile es := ⟨_, rfl⟩
  rw [← hw] at ht ⊢
  have hC : (fun x => [StartActor.tables].any (fun a => StartActor.committed (v.displaced es) v.now a x)) = leavesWith (v.displaced es) :=
    funext fun x => by simp [StartActor.committed]
  have hR : (fun c => [StartActor.tables].any (fun a => StartActor.returned lost v.now a c)) = fun _ => false := funext fun x => by simp [StartActor.returned]
  obtain ⟨rs, r1, r2, r3⟩ := hd.records
  have hs : w.store = v.store := by rw [ht.rest, hd.rest]
  have hj : w.journal = u.journal := by rw [ht.rest]
  have hp : w.port = u.port := by rw [ht.rest]
  have hl : w.lines = u.lines := by rw [ht.rest]
  have hk : ∀ e ∈ rs, e.2.kind ≠ .lineState ∧ e.2.kind ≠ .cardLapsed := fun e he => by
    rcases r2 e he with h | h
    · simp [h]
    · simp [h.1]
  have node : ∀ n ∈ v.nodes, v.nodes.Pairwise (fun m n => m.addr < n.addr) → (∃ r ∈ es, n.enrolledAlike r) →
      u.node? n.addr = some (n.withoutFolios (v.displaced es)) := by
    intro n hn hp ⟨r, hr, ha⟩
    have keep : n ∈ v.nodes.filter (fun x => !(v.displaced es).any (fun d => d.addr == x.addr)) := by
      refine List.mem_filter.mpr ⟨hn, ?_⟩
      rw [Bool.not_eq_true', List.any_eq_false]
      intro d hd he
      obtain ⟨hd, hnone⟩ := List.mem_filter.mp hd
      have e : d = n := by
        have h1 := findKey_of_mem Node.addr hp hd
        rw [eq_of_beq he, findKey_of_mem Node.addr hp hn] at h1
        exact (Option.some.inj h1).symm
      subst e
      rw [Bool.not_eq_true', List.any_eq_false] at hnone
      exact hnone r hr (by simp [ha.1, ha.2, Enrolment.copy])
    rw [State.node?, hd.nodes]
    refine findKey_of_mem Node.addr (x := n.withoutFolios (v.displaced es)) ?_ (List.mem_map_of_mem keep)
    rw [List.pairwise_map]; exact hp.filter _
  refine ⟨?_, ?_, ?_, ?_, ?_, ⟨rs, ?_, ?_, ?_, ?_, ?_⟩, ?_, ?_, ?_, ?_, ?_, ?_, ?_, ?_⟩
  · rw [ht.rest, hd.rest]; rfl
  · rw [ht.rest, hd.rest]
  · rw [ht.rest, hd.rest]
  · rw [hl]; simpa using hd.lines
  · rw [hl]; exact hd.round
  · rw [hj, r1.journal]
  · intro e he; exact (r2 e he).elim (fun h => .inr (.inr (.inl h))) (fun h => .inr (.inr (.inr h)))
  · rw [List.filter_eq_nil_iff.mpr (fun e he => by simpa using (hk e he).1)]; exact .refl _
  · intro o; rw [List.filter_eq_nil_iff.mpr (fun e he => by simpa using (hk e he).2), hR]; simp [State.lapsedRecords]
  · intro o; rw [hC]; exact r3 o
  · intro o; rw [hs]; exact store_kept v _ (fun _ => rfl)
  · rw [hs]
  · intro o
    rw [show w.minibar.pool = u.minibar.pool by rw [ht.rest], hd.pool o]
    apply List.filter_congr; intro x _; simp [StartActor.committed]
  · intro p h1 _ h2
    obtain ⟨-, h3, h4⟩ := h2 (by simp)
    obtain ⟨a, b⟩ := ht.rooms p (fun r hr hc hp => by
      obtain ⟨n, hn, ha⟩ := h4 r hr hc hp
      exact ⟨_, by rw [← ha.1]; exact node n hn h3 ⟨r, hr, ha⟩⟩)
    refine ⟨a.trans (hd.rooms p h1), fun o => ?_⟩
    rw [b, hC]; exact hd.folios o p h1
  · simp
  · intro _ _ _ h3 h5 r hr n hn ha
    have := ht.kept h5 r hr _ (by rw [← ha.1]; exact node n hn h3 ⟨r, hr, ha⟩)
    exact this
  · have := r1.port.only; rw [hp]; exact this
  · rw [hp]; exact r1.port.notified


/-- The act of a line. -/
def LineId.actor : LineId → StartActor
  | .a => .lineA
  | .b => .lineB

theorem State.enterTraining_off (v : State) (l : LineId) (hl : (v.line l).st = .off)
    (ho : ∀ l, (v.line l).st = .off ∨ (v.line l).st = .training) :
    v.enterTraining l = ((v.modLine l Line.entered).append (lineStateEntry l .training)).raise .lineChange := by
  have hs : (v.modLine l (fun x => { x with retrain := 4, running := 0 })).service = false := by
    have ha := ho .a; have hb := ho .b
    simp only [State.line] at ha hb
    cases l <;> simp only [State.service, State.modLine] <;> rcases ha with h | h <;> rcases hb with g | g <;> simp [h, g, LineState.inService]
  unfold State.enterTraining State.setLineState
  rw [if_neg (by cases l <;> simp_all [State.line, State.modLine])]
  simp only [hs, Bool.false_and]
  rw [if_neg (by simp)]
  congr 2
  cases l <;> rfl


theorem acted_line (v : State) (l : LineId) (hl : (v.line l).st = .off)
    (ho : ∀ l, (v.line l).st = .off ∨ (v.line l).st = .training) :
    Acted es lost ds [LineId.actor l] v (v.enterTraining l) := by
  rw [State.enterTraining_off v l hl ho]
  obtain ⟨t, ht⟩ : ∃ t, t = (v.modLine l Line.entered).append (lineStateEntry l .training) := ⟨_, rfl⟩
  rw [← ht]
  have q : Port.Quiet v.port t.port := by rw [ht]; exact State.append_quiet_of _ _ (by simp)
  have tl : t.lines = (v.modLine l Line.entered).lines := by rw [ht]; simp
  have hn : v.now = (v.modLine l Line.entered).now := by cases l <;> rfl
  have hC : ∀ x, [LineId.actor l].any (fun a => StartActor.committed ds v.now a x) = false := fun x => by cases l <;> rfl
  have hC' := funext hC
  have hR : ∀ x, [LineId.actor l].any (fun a => StartActor.returned lost v.now a x) = false := fun x => by cases l <;> rfl
  have hR' := funext hR
  have pend : (t.raise .lineChange).pending = v.pending := by rw [ht]; simp
  refine ⟨?_, ?_, ?_, ?_, ?_, ⟨[(v.now, lineStateEntry l .training)], ?_, ?_, ?_, ?_, ?_⟩, ?_, ?_, ?_, ?_, fun _ => ?_, ?_, ?_, ?_⟩
  · rw [ht]; cases l <;> simp [LineId.actor]
  · apply State.start_rest <;> rw [ht] <;> simp
  · rw [ht]; simp
  · rw [State.raise_lines, tl]; cases l <;> simp [State.modLine, LineId.actor]
  · rw [State.raise_lines, tl]; cases l <;> exact id
  · rw [ht]; cases l <;> simp [lineStateEntry, State.modLine, State.now]
  · simp [lineStateEntry]
  · cases l <;> simp [StartActor.changes, lineStateEntry, LineId.actor]
  · intro _; rw [hR']; simp [State.lapsedRecords, lineStateEntry]
  · intro _; rw [hC']; simp [State.chargeRecords, lineStateEntry]
  · intro _
    have : (t.raise .lineChange).store = v.store := by rw [ht]; simp
    rw [this]; exact store_kept v _ hR
  · rw [ht]; simp
  · intro _
    have : (t.raise .lineChange).minibar = v.minibar := by rw [ht]; simp
    rw [this]; simp [hC]
  · intro p _ _ _
    have : (t.raise .lineChange).minibar = v.minibar := by rw [ht]; simp
    refine ⟨State.room?_rooms (by rw [ht]; simp) p, fun _ => ?_⟩
    rw [hC', show State.folio? (t.raise .lineChange) p = v.folio? p by simp only [State.folio?, this]]
    simpa using Folio.committed_none (v.folio? p)
  · rw [ht]; simp
  · cases l <;> simp [LineId.actor]
  · have h1 := q.only
    unfold State.raise
    split
    · unfold Port.noticesOnly at *
      simp only [Port.ready]; cases t.port.sending <;> simp <;> rw [h1] <;> exact ⟨rfl, rfl, rfl, rfl, rfl, rfl⟩
    · exact h1
  · refine q.notified.trans ?_
    unfold State.raise
    split
    · next h =>
      have hs : ∀ m, (t.line m).st = if m = l then .training else (v.line m).st := by
        intro m; cases l <;> cases m <;> simp [State.line, tl, State.modLine, Line.entered]
      have fr := Port.ready_frames (noticeFrame .lineChange t) t.port
      refine .inr ⟨h.2, rfl, t.lines.lineA.st, t.lines.lineB.st, ?_, ?_⟩
      · have ha := hs .a; have hb := hs .b
        have oa := ho .a; have ob := ho .b
        simp only [State.line] at ha hb oa ob
        rw [ha, hb]
        cases l
        · rcases ob with h | h <;> simp [h]
        · rcases oa with h | h <;> simp [h]
      · refine (List.Perm.filter _ (l₁ := ({ t.port.ready (noticeFrame .lineChange t) with arm := t.port.arm.put false .lineChange } : Port).frames) fr).trans ?_
        rw [List.filter_append]
        have e : noticeFrame .lineChange t = lineChangeNotice t.lines.lineA.st t.lines.lineB.st := by
          simp only [noticeFrame, lineChangeNotice]
          cases t.lines.lineA.st <;> cases t.lines.lineB.st <;> rfl
        rw [e]; exact .refl _
    · exact (Port.Quiet.refl _).notified

theorem acted_all (v : State) (hA : v.lines.lineA.st = .off) (hB : v.lines.lineB.st = .off) : ∀ (bs as : List StartActor) (w : State), (as ++ bs).Nodup →
    Acted es lost (v.displaced es) as v w → Acted es lost (v.displaced es) (as ++ bs) v (bs.foldl (State.startAct es lost) w) := by
  intro bs
  induction bs with
  | nil => intro as w _ h; simpa using h
  | cons a bs ih =>
    intro as w hn h
    have hna : a ∉ as := by
      rw [List.nodup_append] at hn; exact fun ha => hn.2.2 _ ha _ (by simp) rfl
    have now : w.now = v.now := State.now_eq (by rw [h.rest])
    have hs : ∀ l, (w.line l).st = .off ∨ (w.line l).st = .training := by
      intro l; cases l
      · have e := congrArg LineEngine.lineA h.lines
        show w.lines.lineA.st = _ ∨ w.lines.lineA.st = _
        rw [e]; dsimp only; split
        · exact .inr rfl
        · exact .inl hA
      · have e := congrArg LineEngine.lineB h.lines
        show w.lines.lineB.st = _ ∨ w.lines.lineB.st = _
        rw [e]; dsimp only; split
        · exact .inr rfl
        · exact .inl hB
    have step : Acted es lost (v.displaced es) [a] w (w.startAct es lost a) := by
      cases a with
      | tables =>
        have e : w.displaced es = v.displaced es := by simp [State.displaced, h.same hna]
        exact e ▸ acted_tables w
      | orphans => exact acted_return w _ _ (.inl rfl) (fun _ => rfl)
      | lapses => exact acted_return w _ _ (.inr rfl) (fun _ => rfl)
      | charges => exact acted_charges w
      | lineA =>
        refine acted_line w .a ?_ hs
        show w.lines.lineA.st = _
        rw [h.lines]; simp only [List.contains_eq_mem, hna, decide_false]; exact hA
      | lineB =>
        refine acted_line w .b ?_ hs
        show w.lines.lineB.st = _
        rw [h.lines]; simp only [List.contains_eq_mem, hna, decide_false]; exact hB
      | entry => exact acted_entry w
      | notice => exact acted_notice w
    have := ih (as ++ [a]) (w.startAct es lost a) (by simpa using hn) (h.trans step)
    simpa using this

theorem acted_nil (v : State) : Acted es lost ds [] v v where
  part := rfl
  rest := rfl
  revoc := rfl
  lines := lines_kept v
  round := id
  records := ⟨[], rfl, by simp, .refl _, fun _ => by simp [State.lapsedRecords], fun _ => by simp [State.chargeRecords]⟩
  recs := fun _ => store_kept v _ (fun _ => rfl)
  retired := rfl
  pool := fun _ => by simp
  point := fun p _ _ _ => ⟨rfl, fun _ => by simpa using Folio.committed_none (v.folio? p)⟩
  same := fun _ => rfl
  kept := by simp
  port := rfl
  notified := (Port.Quiet.refl v.port).notified

/-- The whole start work, in any order of the blocks. -/
theorem State.startActs (v : State) (hA : v.lines.lineA.st = .off) (hB : v.lines.lineB.st = .off) (seq : List StartActor) (h : seq.Perm startActors) :
    Acted es lost (v.displaced es) seq v (seq.foldl (State.startAct es lost) v) := by
  simpa using acted_all v hA hB seq [] v (by simpa using h.nodup_iff.mpr (by decide)) (acted_nil v)

end Sys2Proof.Machine
end

