-- ==== Sys2Proof/Tests/Slice0.lean ====
section
/-! SUPPORT. Tests: the refusals of WellFormed, one step of every command on a small state with results taken from the
spec's tables and worked sequences, and for every statement with hypotheses a state that meets them. -/

namespace Sys2Proof.Machine.Tests

open Sys2Proof Sys2Proof.Machine

set_option Elab.async false

/-! ### Well-formed commands: each check refuses an ill-formed term -/

theorem test_wf_body : (Instr.ping 1 (List.replicate 1025 0)).wf = false := by decide +kernel
theorem test_wf_head_line : (Instr.lineDisable 1 (List.replicate 1024 0)).wf = false := by decide +kernel
theorem test_wf_head_node : (Instr.setNodeEnable 1 (List.replicate 1023 0)).wf = false := by decide +kernel
theorem test_wf_retrain_is_no_disable : (Instr.lineRetrain 1 [0, 1]).wf = false := by decide +kernel
theorem test_wf_unknown_kind : (Instr.unknownCommand 0x14 1 []).wf = false := by decide +kernel
theorem test_wf_received : (Instr.linkRejectCrc [0x00, 0xA7]).wf = false := by decide +kernel
theorem test_wf_bank : (Instr.loadComplete none (some (List.replicate 4097 0))).wf = false := by decide +kernel
theorem test_wf_credential : (Instr.encodingLapse 768).wf = false := by decide +kernel
theorem test_wf_compartment : (Instr.chargeDeadline 1 9).wf = false := by decide +kernel
theorem test_wf_address : (Instr.windowClose 97 none none .aFirst).wf = false := by decide +kernel
theorem test_wf_accepts : (Instr.issueCard 1 (List.replicate 33 0)).wf = true := by decide +kernel

/-! ### Small states -/

/-- The state after a command. -/
def after (i : Instr) (s : State) : State :=
  match exec i s with
  | .next t => t
  | _ => s

/-- A line in a state, its counts 0. -/
def lineIn (st : LineState) : Line := ⟨st, 0, 0, 0, Flags.clear⟩

/-- RUNNING at wing seconds 812,500,000 (04 section 4.10), both lines UP, slots 412 and 413 free, nothing enrolled. -/
def base : State := { State.reset with
  part := .running
  time := ⟨0, 812500000, 0, true, some 6144, false, 0⟩
  lines := { LineEngine.initial with lineA := lineIn .up, lineB := lineIn .up }
  store := ⟨[], [412, 413], []⟩
  journal := ⟨[], 0, 0⟩ }

/-- A node in a state, with the enrolment of the request. -/
def nodeOf (addr point : Nat) (cls : PointClass) (entry comps : Option Nat) (st : NodeState) : Node :=
  { Node.fresh ⟨addr, point, cls, entry, none, false, comps⟩ 0 with st := st, reload := .none }

/-- The ROOM_ENTRY node of room 210. -/
def door : Node := nodeOf 12 210 .roomEntry (some 210) none .online

/-- The minibar of room 210 (08 section 8.7). -/
def bar : Node := { nodeOf 71 1210 .minibar (some 210) (some 3) .online with
  comps := [⟨401, 450, 6, 6⟩, ⟨702, 900, 4, 4⟩, ⟨815, 3800, 2, 2⟩] }

/-- A guest card of room 210. -/
def guest (k stay : Nat) (st : CredState) (serial : Nat) : Cred :=
  { number := k, st := st, kind := .guest, serial := serial, guest := some ⟨210, stay, .newStay⟩
    image1 := ⟨210, 0, 1⟩, image2 := some ⟨1210, 0, 4⟩, validStart := 812000000, validEnd := 812600000, schedule := none
    code := 0, issuedAt := 812000000, firstUse := none, uses := 0 }

/-- Room 210 with stay sequence 57 and its folio OPEN (04 section 4.10, 08 section 8.7). -/
def inHouse : State := { base with
  nodes := [door, bar]
  store := ⟨[guest 300 57 .active 0x3A11F040], [412, 413], []⟩
  revoc := { Revoc.initial with rooms := [⟨210, 57, 57, [⟨57, 812100000⟩], false⟩] }
  minibar := ⟨[⟨210, true, 1250, 6000, 0, some 812100000⟩], []⟩ }

/-- The round in progress, with open windows at the two nodes. -/
def round37 : Round :=
  ⟨37, 812500000, 0, 0, false, 6144, [⟨12, false⟩, ⟨71, false⟩], none, true, false, [], .full, .full⟩

/-- `inHouse` in round 37. -/
def inRound : State := { inHouse with lines := { inHouse.lines with round := some round37 } }

/-- Clear status bits. -/
def quiet : StatusBits := ⟨false, false, false, false, false⟩

/-- A good copy of an answer of a node in round 37. -/
def good (addr : Byte) (pres : Option Presentation) (items : List Item) : Copy :=
  ⟨addr, 37, true, false, false, ⟨quiet, 100, 0, 0, pres, items, false⟩⟩

/-- The status code of the reply being sent, where nothing was sent before. -/
def code (s : State) : Option Byte :=
  match s.port.sending with
  | some (.reply _ _ body) => body.head?
  | _ => none

/-! ### Checks (04:R73, 10:R180: the values of "123456789") -/

/-- The bytes of "123456789". -/
def digits : List Byte := [0x31, 0x32, 0x33, 0x34, 0x35, 0x36, 0x37, 0x38, 0x39]

theorem test_crc32_of_digits : crc32 digits = 0xCBF43926 := by decide +kernel
theorem test_crc16_of_digits : crc16 digits = 0x29B1 := by decide +kernel

/-! ### Settings commands and link events -/

theorem test_ping_echoes : (after (.ping 7 [1, 2]) base).port.sending = some (.reply 0x01 7 [0, 1, 2, 2]) := by decide +kernel
theorem test_ping_seventeen_bytes : code (after (.ping 7 (List.replicate 17 0)) base) = some 0x13 := by decide +kernel
theorem test_getStatus_at_reset : (after (.getStatus 1 []) State.reset).port.sending
    = some (.reply 0x02 1 (List.replicate 21 0)) := by decide +kernel
theorem test_loadSettings_first_segment : (after (.loadSettings 1 [0, 0, 0, 0, 0x42]) base).loader.staging = [0x42] := by
  decide +kernel
theorem test_loadSettings_wrong_offset : code (after (.loadSettings 1 [9, 0, 0, 0, 0x42]) base) = some 0x14 := by decide +kernel
theorem test_readSettings_identifier : (after (.readSettings 1 [0, 0, 0, 2]) base).port.sending
    = some (.reply 0x04 1 [0, 47, 0, 0x42, 0x5A]) := by decide +kernel
/-- A bank copy with 4,049 bytes beyond its image of 47 (11:R199). -/
theorem test_readSettings_of_a_padded_bank : (after (.readSettings 1 [1, 0, 0, 2]) { base with
    loader := { base.loader with bank1 := some (imageOf 7 Settings.default.bytes ++ List.replicate 4049 0) } }).port.sending
    = some (.reply 0x04 1 [0, 47, 0, 0x42, 0x5A]) := by decide +kernel
theorem test_storeSettings_first_bank : (after (.storeSettings 1 []) base).loader.store.map (fun j => (j.bank, j.count))
    = some (.first, 1) := by decide +kernel
theorem test_storeComplete_failed : (after (.storeComplete none) (after (.storeSettings 1 []) base)).loader.lastStore = .failed := by
  decide +kernel
theorem test_restart_answers_first : (after (.restart 1 []) base).part = .running := by decide +kernel
theorem test_restart_at_frame_sent : (after .frameSent (after (.restart 1 []) base)).part = .loading := by decide +kernel
theorem test_setTime_epoch : (after (.setTime 1 (le32 5)) base).time = ⟨0, 5, 1, true, some 6144, false, 0⟩ := by decide +kernel
theorem test_unknownCommand : code (after (.unknownCommand 0x55 1 []) base) = some 0x12 := by decide +kernel
theorem test_linkRejectCrc : (after (.linkRejectCrc [0xA7, 0, 0, 1, 9, 0, 0]) base).port.sending
    = some (.reject .crc (.unverified 1 9) 0) := by decide +kernel
theorem test_linkRejectOversize : (after (.linkRejectOversize [0xA7, 1, 4]) base).port.sending
    = some (.reject .oversize .unknown 0) := by decide +kernel
theorem test_length_1024_is_no_oversize : (after (.linkRejectOversize [0xA7, 0, 4]) base).port.sending = none := by decide +kernel
theorem test_linkRejectTimeout : (after (.linkRejectTimeout [0xA7, 0, 0, 1, 9]) base).port.sending
    = some (.reject .timeout (.unverified 1 9) 0) := by decide +kernel
theorem test_linkRejectOverlap : (after (.linkRejectOverlap 2 3) (after (.ping 1 []) base)).port.waiting
    = [.reject .overlap (.verified 2 3) 0] := by decide +kernel
/-- A frame's beginning stands in assembly between rows (10 Table 10.2). -/
theorem test_partial_frame_is_held : (after (.linkRejectCrc [0xA7, 2, 0, 1]) base).port.rx = .header 2 (some 1) := by
  decide +kernel
theorem test_bytes_go_on_with_the_frame :
    (after (.linkRejectCrc [1, 9, 0, 0]) (after (.linkRejectCrc [0xA7, 0, 0]) base)).port.sending
      = some (.reject .crc (.unverified 1 9) 0) := by decide +kernel
theorem test_frame_end_returns_to_hunting : (after (.ping 7 []) (after (.linkRejectCrc [0xA7, 0, 0, 1]) base)).port.rx
    = .hunting := by decide +kernel
/-- 10:R182 over the 6,144 ticks of a ROUND_START row: kind 1 and tag 9 had come. -/
theorem test_roundStart_times_a_frame_out : (after .roundStart (after (.linkRejectCrc [0xA7, 0, 0, 1, 9]) base)).port.frames
    = [.reject .timeout (.unverified 1 9) 0] := by decide +kernel

/-! ### Supply, pin and load events (11 section 11.7) -/

/-- RETENTION since wing seconds 812,345,001. -/
def outage : State := { base with
  part := .retention
  supply := { base.supply with outageStart := 812345001 }
  time := { base.time with secs := 812604200 } }

theorem test_supplyLoss_outage_start : (after .supplyLoss base).supply.outageStart = 812500000 := by decide +kernel
/-- 11:R192 in RETENTION: the supply falls again while a restore waits for the pin. -/
theorem test_supplyLoss_in_retention :
    let s := after .supplyLoss (after .supplyRestore (after .resetPinLow outage))
    (s.supply.outageStart, s.supply.restoreWaiting, s.part) = (812604200, false, .retention) := by decide +kernel
theorem test_supplyRestore_outage_length :
    (after .supplyRestore outage).journal.recs.map (fun r => r.entry.value1) = [some 259199] := by decide +kernel
theorem test_cellLow_in_retention : (after .cellLow outage).supply.checkValid = false := by decide +kernel
theorem test_cell_lost_is_a_cold_start : (after .supplyRestore (after .cellLow outage)).time.secs = 0 := by decide +kernel
theorem test_cellOk : (after .cellOk (after .cellLow base)).supply.cellLow = false := by decide +kernel
theorem test_resetPinLow : (after .resetPinLow base).part = .held := by decide +kernel
theorem test_resetPinRelease : (after .resetPinRelease (after .resetPinLow base)).journal.recs.map (fun r => r.entry.detail1)
    = [some .resetPin] := by decide +kernel

/-- A good image of the default settings with no enrolment, its store count given. -/
def image (count : Nat) : List Byte := imageOf count Settings.default.bytes

theorem test_loadComplete_without_banks : (after (.loadComplete none none) State.reset).loader.cause = .noMemory := by
  decide +kernel
theorem test_loadComplete_takes_the_newer : (chooseBank (some (image 41)) (some (image 42))).map (fun p => p.1.count)
    = some 42 := by decide +kernel

/-! ### Line and node commands -/

theorem test_lineRetrain : (after (.lineRetrain 1 [0, 0]) base).lines.lineA.retrain = 4 := by decide +kernel
theorem test_lineDisable : (after (.lineDisable 1 [1]) base).lines.lineB.st = .disabled := by decide +kernel
theorem test_lineEnable_of_up : code (after (.lineEnable 1 [0]) base) = some 0x16 := by decide +kernel
theorem test_lineStatus_clears :
    (after (.lineStatus 1 [1]) { base with lines := { base.lines with first := { FirstFault.initial with valid := true } } }).lines.first.valid
      = false := by decide +kernel

/-- The body of an ENROLL_NODE for node 33, an amenity gate at point 1,040 (06 section 6.7). -/
def gateBody : List Byte := [33] ++ le16 1040 ++ [3, 0, 0, 0, 1] ++ le16 420 ++ le16 1260 ++ [0, 0, 0]

theorem test_enrollNode : ((after (.enrollNode 1 gateBody) base).node? 33).map (fun n => (n.st, n.enrol.hours, n.reload))
    = some (.absent, some ⟨420, 1260⟩, .marked) := by decide +kernel
theorem test_enrollNode_point_in_use : code (after (.enrollNode 1 ([33] ++ le16 210 ++ gateBody.drop 3)) inHouse) = some 0x14 := by
  decide +kernel
theorem test_withdrawNode_of_a_room_in_use : code (after (.withdrawNode 1 [12]) inHouse) = some 0x16 := by decide +kernel
theorem test_withdrawNode_of_a_minibar : (after (.withdrawNode 1 [71]) inHouse).addrs = [12] := by decide +kernel
theorem test_setNode_flag : ((after (.setNode 1 [12, 1, 1, 0, 0, 0, 0, 0, 0, 0, 0]) inHouse).node? 12).map
    (fun n => (n.enrol.oos, n.latchFallback)) = some (true, true) := by decide +kernel
/-- 10:R186: a flag of 7 in a part that is absent. -/
theorem test_setNode_absent_flag : code (after (.setNode 1 [12, 0, 7, 0, 0, 0, 0, 0, 0, 0, 0]) inHouse) = some 0x14 := by
  decide +kernel
theorem test_setNodeDisable : ((after (.setNodeDisable 1 [12, 0, 0, 0, 0, 0, 0, 0, 0]) inHouse).node? 12).map (·.st)
    = some .disabled := by decide +kernel
theorem test_setNodeEnable_of_online : code (after (.setNodeEnable 1 [12, 0, 0, 0, 0, 0, 0, 0, 0]) inHouse) = some 0x16 := by
  decide +kernel
theorem test_nodeStatus_length : (after (.nodeStatus 1 [12, 13]) inHouse).port.sending.map (fun f =>
    match f with | .reply _ _ b => b.length | _ => 0) = some 82 := by decide +kernel
theorem test_nodeStatus_seventeen : code (after (.nodeStatus 1 [1, 17]) inHouse) = some 0x14 := by decide +kernel
theorem test_reloadNode : ((after (.reloadNode 1 [12]) inHouse).node? 12).map (·.reload) = some .marked := by decide +kernel
theorem test_openPoint : (after (.openPoint 1 [12]) inHouse).lines.urgent = [.remoteOpen 12] := by decide +kernel

/-! ### Card and room commands (04 section 4.10) -/

/-- ISSUE_CARD GUEST, NEW_STAY, entry 210, serial 0x3A11F0C7, window T..T + 259,200. -/
def issueBody : List Byte :=
  [0] ++ le32 0x3A11F0C7 ++ [1] ++ le16 210 ++ [0, 1] ++ [0, 0, 0, 0, 0] ++ le32 812500000 ++ le32 812759200
    ++ [0, 0, 0, 0, 0] ++ [1] ++ le16 210 ++ [1, 0]

/-- Room 210 with credential 412 in ENCODING. -/
def encodingState : State := { inHouse with
  store := ⟨[guest 300 57 .active 0x3A11F040, guest 412 58 (.encoding 812500120) 0x3A11F0C7], [413], []⟩ }

theorem test_issueCard_takes_412 : (after (.issueCard 1 issueBody) inHouse).store.recs.map (fun c => (c.number, c.st))
    = [(300, .active), (412, .encoding 812500120)] := by decide +kernel
theorem test_issueCard_pending : code (after (.issueCard 1 issueBody) encodingState) = some 0x18 := by decide +kernel
/-- 10:R186: a stay mode outside its set in a part that is absent. -/
theorem test_issueCard_absent_mode : code (after (.issueCard 1 ([1] ++ (issueBody.drop 1).take 27 ++ [0, 0, 0, 0, 9])) inHouse)
    = some 0x14 := by decide +kernel
theorem test_confirmCard_supersedes : (after (.confirmCard 1 (le16 412)) encodingState).store.recs.map (fun c => c.st)
    = [.revoked 812500000 .superseded, .issued] := by decide +kernel
theorem test_confirmCard_moves_the_room : ((after (.confirmCard 1 (le16 412)) encodingState).room? 210).map
    (fun r => (r.stay, r.floor)) = some (58, 58) := by decide +kernel
theorem test_cancelIssue : (after (.cancelIssue 1 (le16 412)) encodingState).store.free = [413, 412] := by decide +kernel
theorem test_encodingLapse : (after (.encodingLapse 412) { encodingState with time := { base.time with secs := 812500119 } }).store.free
    = [413, 412] := by decide +kernel
theorem test_suspendCard : ((after (.suspendCard 1 (le16 300)) inHouse).cred? 300).map (·.st)
    = some (.suspended true 812500000) := by decide +kernel
theorem test_resumeCard : ((after (.resumeCard 1 (le16 300)) { inHouse with
    store := ⟨[guest 300 57 (.suspended false 5) 7], [], []⟩ }).cred? 300).map (·.st) = some .issued := by decide +kernel
theorem test_resumeCard_emits_a_remove : ((after (.resumeCard 1 (le16 300)) { inHouse with
    store := ⟨[guest 300 57 (.suspended false 5) 7], [], []⟩
    revoc := { inHouse.revoc with entries := [⟨7, some 300, .suspended, 812600000, 4⟩], gen := 4 } }).revoc.changes)
    = [⟨5, .remove 7 (some 300)⟩] := by decide +kernel
theorem test_revokeCard_lists_it : (after (.revokeCard 1 (le16 300)) inHouse).revoc.entries
    = [⟨0x3A11F040, some 300, .revoked, 812600000, 1⟩] := by decide +kernel
theorem test_revokeSerial_foreign : (after (.revokeSerial 1 (le32 99)) inHouse).revoc.entries
    = [⟨99, none, .foreign, 847060000, 1⟩] := by decide +kernel
theorem test_cardStatus_vacant : (after (.cardStatus 1 [1, 0, 0, 0, 0, 0, 0, 0]) inHouse).port.sending
    = some (.reply 0x27 1 ([0, 0, 0, 0] ++ List.replicate 68 0 ++ [2, 0, 0, 0, 1, 0])) := by decide +kernel

/-- 04 section 4.11 at T + 50: 530 and 61 in the retired order. -/
def retiredState : State := { base with
  time := { base.time with secs := 812500050 }
  store := ⟨[guest 61 1 (.revoked 812480000 .revokedByDesk) 1, guest 530 1 (.revoked 812150400 .revokedByDesk) 2], [], [530, 61]⟩ }

theorem test_purgeRetired_moves_530 : ((after (.purgeRetired 1 (le32 86400)) retiredState).store.free,
    (after (.purgeRetired 1 (le32 86400)) retiredState).store.retired) = ([530], [61]) := by decide +kernel
theorem test_rekeyRoom : ((after (.rekeyRoom 1 (le16 210)) inHouse).room? 210).map (fun r => (r.stay, r.floor))
    = some (58, 58) := by decide +kernel
theorem test_rekeyRoom_revokes : ((after (.rekeyRoom 1 (le16 210)) inHouse).cred? 300).map (·.st)
    = some (.revoked 812500000 .rekeyed) := by decide +kernel
theorem test_checkout_floor : ((after (.checkout 1 (le16 210)) inHouse).room? 210).map (fun r => (r.stay, r.floor))
    = some (57, 58) := by decide +kernel
theorem test_checkout_closes : ((after (.checkout 1 (le16 210)) inHouse).folio? 210).map (fun f => (f.isOpen, f.balance))
    = some (false, 1250) := by decide +kernel
theorem test_resequence : ((after (.resequence 1 (le16 210)) inHouse).room? 210).map (fun r => (r.stay, r.floor))
    = some (0, 1) := by decide +kernel

/-! ### Minibar and journal commands (08 section 8.7, 09 sections 9.6 and 9.7) -/

/-- Node 71 with line L1 of 3 x 450 in the pool. -/
def charged : State := { inHouse with
  minibar := ⟨[⟨210, true, 1250, 6000, 1350, some 812100000⟩], [⟨210, 71, 1, 401, 3, 1350, 812499880, 812500001⟩]⟩ }

theorem test_setCompartment_clamps : ((after (.setCompartment 1 ([71, 1] ++ le16 401 ++ le32 450 ++ [6, 9])) inHouse).node? 71).map
    (fun n => n.comp 1) = some ⟨401, 450, 6, 6⟩ := by decide +kernel
theorem test_setCompartment_with_a_line : code (after (.setCompartment 1 ([71, 1] ++ le16 401 ++ le32 450 ++ [6, 6])) charged)
    = some 0x16 := by decide +kernel
theorem test_setCeiling_holds : (after (.setCeiling 1 (le16 210 ++ le32 2600)) charged).journal.recs.map
    (fun r => (r.entry.kind, r.entry.amount)) = [(.folioHeld, some 2600)] := by decide +kernel
theorem test_settle_clamps : ((after (.settle 1 (le16 210 ++ le32 3500)) inHouse).folio? 210).map (·.balance) = some 0 := by
  decide +kernel
theorem test_folioStatus_length : (after (.folioStatus 1 (le16 210)) charged).port.sending.map (fun f =>
    match f with | .reply _ _ b => b.length | _ => 0) = some 44 := by decide +kernel
theorem test_chargeDeadline_commits : (after (.chargeDeadline 71 1) charged).minibar
    = ⟨[⟨210, true, 2600, 6000, 0, some 812100000⟩], []⟩ := by decide +kernel

/-- Two due lines in the pool, that of compartment 2 ahead of that of compartment 1. -/
def twoDue : State := { inHouse with
  minibar := ⟨[⟨210, true, 1250, 6000, 2250, some 812100000⟩],
    [⟨210, 71, 2, 702, 1, 900, 812499870, 812499990⟩, ⟨210, 71, 1, 401, 3, 1350, 812499880, 812500001⟩]⟩ }

theorem test_chargeDeadline_keeps_pool_order : (after (.chargeDeadline 71 1) twoDue).journal.recs.map
    (fun r => (r.entry.kind, r.entry.value1)) = [(.minibarCharge, some 2), (.minibarCharge, some 1)] := by decide +kernel

/-- Two records held, numbers 4,294,967,295 and 0. -/
def wrapped : State := { base with journal := ⟨[⟨4294967295, 5, { kind := .coldStart }, none⟩, ⟨0, 6, { kind := .coldStart }, none⟩], 0, 1⟩ }

theorem test_readJournal_across_the_wrap : (after (.readJournal 1 (le32 4294967295 ++ [16])) wrapped).port.sending.map (fun f =>
    match f with | .reply _ _ b => (b.take 10, b.length) | _ => ([], 0))
    = some ([0, 0, 255, 255, 255, 255, 1, 0, 0, 0], 99) := by decide +kernel
theorem test_ackJournal_across_the_wrap : (after (.ackJournal 1 (le32 0)) wrapped).journal.acked = 2 := by decide +kernel

/-! ### Time and rounds -/

theorem test_secondEvent : (after .secondEvent base).time.secs = 812500001 := by decide +kernel
/-- A round start whose mark is a second boundary comes first (03:R45): the second event follows on the same tick. -/
theorem test_secondEvent_after_a_round_start_on_its_tick :
    let t := after .secondEvent (after .roundStart { base with time := { base.time with tick := 32767, mark := some 32768 } })
    (t.time.tick, t.time.secs, t.time.owed) = (32768, 812500001, 0) := by decide +kernel
theorem test_minuteSweep_expires : ((after .minuteSweep { inHouse with time := { base.time with secs := 812600039 } }).cred? 300).map
    (·.st) = some (.expired 812600000) := by decide +kernel
theorem test_roundStart_number : (after .roundStart inRound).lines.round.map (fun r => (r.number, r.tick)) = some (38, 6144) := by
  decide +kernel
theorem test_trainingEnd : (after (.trainingEnd .a) { base with lines := { base.lines with lineA := lineIn .training } }).lines.lineA.st
    = .up := by decide +kernel

/-- Line A with 32 correctable faults in the period that ends. -/
def periodEnd : State := { base with
  lines := { base.lines with lineA := { lineIn .up with running := 32 }, round := some { round37 with number := 63, windows := [] } } }

theorem test_tallyPeriodEnd_degrades : (after .tallyPeriodEnd periodEnd).lines.lineA = ⟨.degraded, 0, 0, 32, Flags.clear⟩ := by
  decide +kernel

/-- A DECISION of node 12 that has stood two round starts. -/
def late : Decision := ⟨12, 16, true, .none, none, 11, 2, 210, some 300, 5, 812500000⟩

theorem test_decisionAgeOut : (after (.decisionAgeOut 12 16) { inHouse with
    lines := { base.lines with urgent := [.decision late] } }).journal.recs.map (fun r => r.entry.kind) = [.decisionLate] := by
  decide +kernel

/-- Node 12 with a change outstanding for 7 round starts. -/
def stalled : State := { inHouse with
  nodes := [{ door with cursor := ⟨1, 0, 7⟩ }, bar]
  revoc := { inHouse.revoc with gen := 1, changes := [⟨1, .floor 210 57⟩] } }

theorem test_stallRewind : ((after (.stallRewind 12) stalled).node? 12).map (·.cursor) = some ⟨0, 0, 0⟩ := by decide +kernel
theorem test_reloadWaitExpiry : ((after (.reloadWaitExpiry 12) { inHouse with
    nodes := [{ door with reload := .awaiting 5 7 }] }).node? 12).map (·.reload) = some .marked := by decide +kernel
theorem test_spanFailed : ((after (.spanFailed 12) { inHouse with
    nodes := [{ door with clock := { Clock.initial with span := some ⟨0, 0, 0, 72⟩ } }] }).node? 12).map
    (fun n => (n.clock.failed, n.clock.span)) = some (1, none) := by decide +kernel

/-- 01 section 1.9: a second answer on line A, a good copy on line B. -/
theorem test_windowClose_extra : (after (.windowClose 12 (some { good 12 none [] with second := true }) (some (good 12 none []))
    .aFirst) inRound).lines.first = ⟨true, .a, 37, 12, .extra, .correctable, 812500000⟩ := by decide +kernel
theorem test_windowClose_miss : ((after (.windowClose 12 none none .aFirst) inRound).node? 12).map (·.missed) = some 1 := by
  decide +kernel

/-- 07:R133: a node that goes SILENT with no upload in progress keeps the total its last upload received. -/
theorem test_windowClose_keeps_the_received_total : ((after (.windowClose 12 none none .aFirst) { inRound with
    nodes := [{ door with missed := 5, received := 9 }, bar] }).node? 12).map (fun n => (n.st, n.received))
    = some (.silent, 9) := by decide +kernel

/-- 02 Table 2.6, round 18: node 5 with its last join attempt, unanswered. -/
theorem test_invitationClose_last_attempt : ((after (.invitationClose none none) { base with
    nodes := [{ nodeOf 5 1005 .service none none .absent with joins := 1 }]
    lines := { base.lines with round := some { round37 with invited := some 5 } } }).node? 5).map (fun n => (n.st, n.joins))
    = some (.dormant, 0) := by decide +kernel

/-! ### Arithmetic of the worked cases (03 section 3.5, 07 section 7.5) -/

theorem test_record_1_of_node_12 : reconstruct 143 15 812604770 ⟨5000000, 812345600, 259200, 259170⟩ 5086400
    = .reconstructed 812431988 6 812604770 := by decide +kernel
theorem test_record_5_of_node_12 : reconstruct 143 15 812604770 ⟨5000000, 812345600, 259200, 259170⟩ 4999000
    = .unreliable 812604770 := by decide +kernel

/-! ### Witnesses: for each statement with hypotheses, a state and operands that meet them -/

/-- A reply being sent. -/
def replying : Port := { Port.initial with service := some ⟨0x01, 1, false⟩, sending := some (.reply 0x01 1 [0]) }

/-- `inHouse` with all slots accounted for, credential 0 in ENCODING for the next stay, records in the journal and a round
start waiting. -/
def lawful : State := { inHouse with
  pending := [.roundStart]
  store := ⟨[guest 0 58 (.encoding 812500120) 7], List.range' 1 767, []⟩
  journal := ⟨[⟨4294967295, 5, { kind := .coldStart }, none⟩, ⟨0, 6, { kind := .coldStart }, none⟩], 1, 1⟩
  port := replying }

theorem witness_lawful_steps : ∃ t, step lawful = .next t := ⟨_, rfl⟩

theorem witness_EveryStepKeepsTheJournalNumbered : lawful.journal.Law where
  size := by decide +kernel
  acked := by decide +kernel
  next := by decide +kernel
  numbers := by simp [lawful, numbered, sub32]

theorem witness_EveryStepKeepsTheCapacities : lawful.Capacities := by
  constructor <;> decide +kernel

theorem witness_EveryStepKeepsNodesAndLinesInService : lawful.ServiceLaw where
  ascending := by decide +kernel
  runs := by decide +kernel
  stopped := fun h => absurd rfl h
  silent := by decide +kernel
  windows := by simp [lawful, inHouse, base, LineEngine.initial]

/-- Credential 0 a guest card in a state, every other slot VACANT. -/
def oneCard (stay : Nat) (st : CredState) : Store := ⟨[guest 0 stay st 7], List.range' 1 767, []⟩

theorem oneCard_law (stay : Nat) (st : CredState) (h : st.retiredAt = none) : (oneCard stay st).Law where
  ascending := by simp [oneCard]
  inRange := by simp [oneCard, guest]
  freeOnce := List.nodup_range'
  freeInRange := by simp only [oneCard, List.mem_range'_1]; omega
  vacant := by simp only [oneCard, guest, List.mem_range'_1, List.mem_singleton, forall_eq]; omega
  retiredOnce := by simp [oneCard]
  retired := by simp [oneCard, guest, h]
  sorted := by simp [oneCard]

theorem witness_EveryStepKeepsTheSlotPartition : lawful.store.Law := oneCard_law 58 _ rfl

theorem witness_EveryStepKeepsSerialsUnique : lawful.store.SerialLaw := by
  simp [Store.SerialLaw, lawful, guest]

/-- `lawful` with a list entry beside the cards. -/
theorem witness_EveryStepKeepsSerialsUnique_list :
    { lawful with revoc := { lawful.revoc with entries := [⟨8, none, .foreign, 812600000, 1⟩] } }.ListLaw := by
  constructor <;> simp [lawful, guest]

theorem witness_EveryStepKeepsClocksInRange : lawful.ClockLaw := by
  have : Clock.initial.InRange := by constructor <;> decide
  simp [State.ClockLaw, lawful, inHouse, door, bar, nodeOf, Node.fresh, this]

theorem witness_EveryStepKeepsFloorsBesideStays : lawful.revoc.RoomLaw := by
  constructor <;> decide +kernel

theorem witness_EveryStepKeepsFoliosBalanced : { charged with port := replying }.FolioLaw where
  nodesAscending := by decide +kernel
  foliosAscending := by decide +kernel
  copies := by decide +kernel
  owners := by decide +kernel
  total := by decide +kernel
  balance := by decide +kernel
  lines := by decide +kernel
  once := by decide +kernel
  sessions := by simp [charged, inHouse, door, bar, nodeOf, Node.fresh]

theorem witness_EveryStepKeepsOneReplyWaiting : replying.Law := by
  constructor <;> decide +kernel

theorem witness_SlotSetsHold768 : lawful.store.free.length + lawful.store.retired.length + lawful.liveCount = 768 := by
  decide +kernel

theorem witness_StepRunsTheFrontCommand : lawful.pending = .roundStart :: [] := rfl

theorem witness_EmptyQueuePassesOneTick :
    ([State.reset, { base with port := { Port.initial with rx := .header 0 none, silence := 1637 } },
      { base with port := { Port.initial with rx := .header 0 none, silence := 1638 } }, { base with time := { base.time with tick := 32767, mark := some 32768 } }].all fun s =>
      s.pending.isEmpty && !s.time.begun && s.time.owed == 0 && !s.roundOverdue) = true ∧ State.reset.part ≠ .running := by decide +kernel

theorem witness_FramesRoundTripThroughTheReceiver :
    (List.replicate 1024 (0 : Byte)).length ≤ 1024 ∧ 1024 < (List.replicate 1025 (0 : Byte)).length ∧
    (List.replicate 1025 (0 : Byte)).length < 65536 ∧ (0 : Byte).toNat + 256 * (0 : Byte).toNat
      ≠ crc16 (le16 0 ++ [1, 2] ++ []) := by decide +kernel

theorem witness_ImagesRoundTripThroughTheLoader : inHouse.EnrolmentLaw ∧ inHouse.settings.InRange := by
  constructor <;> constructor <;> decide +kernel

theorem base_takes : base.takes := ⟨rfl, rfl⟩
theorem inHouse_takes : inHouse.takes := ⟨rfl, rfl⟩
theorem encodingState_takes : encodingState.takes := ⟨rfl, rfl⟩
theorem charged_takes : charged.takes := ⟨rfl, rfl⟩

theorem witness_PortDispatchesInOrder : frameOf (.ping 1 []) = some (0x01, 1, 0) ∧ outage.lineOff = true ∧
    base.lineOff = false ∧ { base with port := replying }.port.service ≠ none ∧ base.port.service = none ∧
    frameOf (.setTime 1 []) = some (0x08, 1, 0) ∧ servedIn State.reset.part 0x08 = false ∧
    servedIn base.part 0x01 = true ∧ bodyLengthOk 0x01 17 = false ∧ bodyLengthOk 0x01 16 = true := by decide +kernel

theorem witness_RefusedCommandsChangeNothing : base.takes ∧ frameOf (.confirmCard 1 [0, 0]) = some (0x21, 1, 2) ∧
    bodyLengthOk 0x21 2 = true ∧ code (after (.confirmCard 1 [0, 0]) base) = some 0x16 :=
  ⟨base_takes, by decide +kernel⟩

theorem witness_BadFramesAreRejected : base.lineOff = false ∧ base.port.rx = .hunting ∧
    (0 : Byte).toNat + 256 * (0 : Byte).toNat ≠ crc16 (le16 1 ++ [1, 9] ++ [3]) ∧
    1024 < (1 : Byte).toNat + 256 * (4 : Byte).toNat ∧ (1 ≤ 1 ∧ 7 < [(3 : Byte)].length + 7) ∧
    { base with port := replying }.port.service ≠ none ∧ isCommandKind 0x55 = false := by decide +kernel

/-- A port with a notice in sending and `n` rejects waiting. -/
def rejecting (n : Nat) : Port :=
  { Port.initial with sending := some (.notice 0x62 []), waiting := List.replicate n (.reject .crc .unknown 0) }

theorem witness_OutgoingFramesFollowTheirRules :
    ((rejecting 3).waiting.filter OutFrame.isReject).length = 3 ∧ ((rejecting 4).waiting.filter OutFrame.isReject).length = 4 ∧
    (base.port.sending = none → base.port.waiting = []) ∧ base.part = .running ∧ base.port.arm.get .alarm = true ∧
    State.reset.part ≠ .running := by decide +kernel

theorem witness_FrameSentEndsServiceAndRestarts : base.port.sending = none ∧
    (rejecting 1).sending.any OutFrame.isReply = false ∧ (rejecting 1).sending.isSome = true ∧
    replying.sending.any OutFrame.isReply = true ∧ replying.service.any (·.restarts) = false ∧
    (after (.restart 1 []) base).port.sending.any OutFrame.isReply = true ∧
    (after (.restart 1 []) base).port.service.any (·.restarts) = true ∧
    (after (.restart 1 []) base).supply.checkValid = true := by decide +kernel

theorem witness_SupplyLossPinAndCellEvents : base.part ≠ .retention ∧ outage.part = .retention ∧ base.part ≠ .held ∧
    (after .resetPinLow base).part = .held := by decide +kernel

theorem witness_WarmStartsKeepTheRetentionDomain : outage.supply.checkValid = true ∧ outage.supply.pinLow = false ∧
    (after .resetPinLow outage).supply.pinLow = true ∧ (after .resetPinLow outage).part = .retention ∧
    (after .supplyRestore (after .resetPinLow outage)).supply.restoreWaiting = true ∧
    (after .resetPinLow base).supply.checkValid = true := by decide +kernel

/-- A restore that waits for the pin, its check word lost meanwhile. -/
def waitingCold : State := after .cellLow (after .supplyRestore (after .resetPinLow outage))

theorem witness_EveryColdStartGivesTheResetState : (waitingCold.supply.checkValid, waitingCold.part,
      waitingCold.supply.restoreWaiting) = (false, .retention, true) ∧
    (after .cellLow outage).supply.checkValid = false ∧
    (after .cellLow outage).part = .retention ∧ (after .cellLow outage).supply.pinLow = false ∧
    (after .resetPinLow { base with supply := { base.supply with checkValid := false } }).part = .held ∧
    (after .resetPinLow { base with supply := { base.supply with checkValid := false } }).supply.checkValid = false ∧
    ((after (.restart 1 []) { base with supply := { base.supply with checkValid := false } }).port.service.any
      (·.restarts)) = true := by decide +kernel

/-- What a bank is judged. -/
def judged (b : Option (List Byte)) : Option Cause :=
  match judgeBank b with
  | .ok _ => none
  | .error c => some c

theorem witness_UnusableBanksLeaveThePartUnconfigured : State.reset.part = .loading ∧ judged none = some .noMemory ∧
    judged (some []) = some .format ∧ judged (some (image 41)) = none ∧ judged (some (image 42)) = none ∧
    bankCount (some (image 41)) = 41 ∧ judged (some (image 2147483688)) = none ∧
    sub32 (bankCount (some (image 41))) (bankCount (some (image 41))) = 0 ∧
    sub32 (bankCount (some (image 42))) (bankCount (some (image 41))) = 1 ∧
    sub32 (bankCount (some (image 2147483688))) (bankCount (some (image 41))) = 2147483647 ∧
    sub32 (bankCount (some (image 41))) (bankCount (some (image 42))) = 4294967295 ∧ judged (some (image 2147483689)) = none ∧
    sub32 (bankCount (some (image 2147483689))) (bankCount (some (image 41))) = 2147483648 := by decide +kernel

/-- An image of some values as they lie, its checks its own. -/
def rawImage (b : RawBody) (cut : Nat) : RawImage :=
  let body := b.bytes.take cut
  let i : RawImage :=
    ⟨0x5A42, 1, BitVec.ofNat 16 body.length, 41, BitVec.ofNat 32 (crc32 body), 0, body⟩
  { i with headerCheck := BitVec.ofNat 16 (crc16 i.start) }

/-- The ROOM_ENTRY record of room 210 and the minibar's (10 Table 10.15). -/
def doorRecord : RawEnrol := ⟨12, 210, 0, 1, 210, 0, 0, 0, 0, 0, 0⟩
def barRecord : RawEnrol := ⟨71, 1210, 2, 1, 210, 0, 0, 0, 0, 1, 3⟩

/-- The defaults of 11 Table 11.2, with keys of zeros and some records. -/
def rawBody (records : List RawEnrol) : RawBody :=
  ⟨6144, 32, 0, 120, 120, 20000, 64, Vector.replicate 8 0, Vector.replicate 8 0, records⟩

/-- 11:R194: one image of each judgement; every length at which a body may end, and its neighbours. -/
theorem witness_UnusableBanksLeaveThePartUnconfigured_judgements :
    let i := rawImage (rawBody [doorRecord]) 46
    i.FormatOk ∧ i.length.toNat ≤ i.rest.length ∧ i.length.toNat = 31 + 15 * 1 ∧ i.HeaderOk ∧ i.BodyOk ∧
    (rawBody [doorRecord]).cutTo i.body ∧ (rawBody [doorRecord]).Good ∧ judged (some i.bytes) = none ∧
    ([i.bytes.take 15, i.bytes.take 61, { i with ident := 0x5A43 }.bytes, { i with version := 2 }.bytes,
      { i with length := 4081 }.bytes].all fun x => judged (some x) == some .format) = true ∧
    ([{ i with count := 42 }, { i with headerCheck := i.headerCheck + 1 }, { i with rest := i.rest.set 0 1 },
      rawImage (rawBody [{ doorRecord with addr := 97 }]) 46].all fun x => judged (some x.bytes) == some .check) = true ∧
    ((List.range 47).filter fun k => judged (some (rawImage (rawBody [doorRecord]) k).bytes) == none)
      = [0, 2, 3, 5, 7, 9, 13, 15, 31, 46] := by decide +kernel

/-- What a bank of some values gives, one value of it chosen. -/
def gives {α : Type} (f : Settings → α) (cut : Nat) (b : RawBody) : Option (α × Bool) :=
  match judgeBank (some (rawImage b cut).bytes) with
  | .ok l => some (f l.settings, l.clamped)
  | .error _ => none

/-- 11 Table 11.2 at both ends of each range, and a value that the body ends before. -/
theorem test_images_clamp_at_the_ends_of_the_ranges :
    let b := rawBody []
    ([(4095, 4096, true), (4096, 4096, false), (16384, 16384, false), (16385, 16384, true)].all fun q =>
      gives (·.roundLength) 31 { b with roundLength := BitVec.ofNat 16 q.1 } == some q.2) = true ∧
    ([(0, 1, true), (1, 1, false), (64, 64, false), (65, 64, true)].all fun q =>
      gives (·.degradeThreshold) 31 { b with degradeThreshold := BitVec.ofNat 8 q.1 } == some q.2) = true ∧
    ([(-721, -720, true), (-720, -720, false), (840, 840, false), (841, 840, true)].all fun q =>
      gives (·.localOffset) 31 { b with localOffset := BitVec.ofInt 16 q.1 } == some q.2) = true ∧
    ([(9, 10, true), (10, 10, false), (600, 600, false), (601, 600, true)].all fun q =>
      gives (·.encodingLapse) 31 { b with encodingLapse := BitVec.ofNat 16 q.1 } == some q.2) = true ∧
    ([(0, 0, false), (900, 900, false), (901, 900, true)].all fun q =>
      gives (·.returnWindow) 31 { b with returnWindow := BitVec.ofNat 16 q.1 } == some q.2) = true ∧
    ([(0, 0, false), (9999999, 9999999, false), (10000000, 9999999, true)].all fun q =>
      gives (·.defaultCeiling) 31 { b with defaultCeiling := BitVec.ofNat 32 q.1 } == some q.2) = true ∧
    ([(0, 1, true), (1, 1, false), (2048, 2048, false), (2049, 2048, true)].all fun q =>
      gives (·.journalThreshold) 31 { b with journalThreshold := BitVec.ofNat 16 q.1 } == some q.2) = true ∧
    gives (·.journalThreshold) 13 { b with journalThreshold := 0 } = some (64, false) := by decide +kernel

/-- 11:R195: records that pass one by one and fail as a whole, and two that pass. -/
theorem test_images_check_the_enrolment_as_a_whole :
    ([[doorRecord, { doorRecord with point := 211, entry := 211 }], [doorRecord, { doorRecord with addr := 13 }], [barRecord],
      [{ doorRecord with point := 211, entry := 211 }, barRecord]].all fun rs =>
        rs.all (fun r => decide r.Good) && judged (some (rawImage (rawBody rs) 61).bytes) == some .check) = true ∧
    judged (some (rawImage (rawBody [barRecord, doorRecord]) 61).bytes) = none := by decide +kernel

theorem witness_LoadedPartReachesRunning : State.reset.part = .loading ∧ State.reset.lines.lineA.st = .off ∧
    State.reset.lines.lineB.st = .off ∧ State.reset.lines.round = none ∧ State.reset.nodes = [] ∧
    (chooseBank (some (image 41)) none).isSome = true := by decide +kernel

/-- LOADING with the nodes of `inHouse` retained, node 12 with a cursor and the minibar with another compartment count. -/
def retaining : State := { inHouse with
  part := .loading
  lines := LineEngine.initial
  nodes := [{ door with st := .absent, cursor := ⟨3, 3, 0⟩ }, { bar with st := .absent, copy := { bar.copy with comps := some 4 } }] }

/-- 02:R42: node 12 keeps its retained fields, node 71 is enrolled afresh (the blocks acting in the order listed). -/
theorem witness_LoadedPartReachesRunning_retained : retaining.part = .loading ∧ retaining.lines.round = none ∧
    (chooseBank (some inHouse.runningImage) none).map (fun p => p.2.enrolments.map (fun r => r.addr)) = some [12, 71] ∧
    door.copy = ⟨210, .roomEntry, some 210, none⟩ ∧
    (retaining.loadComplete startActors (some inHouse.runningImage) none).nodes.map (fun n => (n.cursor, n.reload, n.comps.length))
      = [(⟨3, 3, 0⟩, .none, 0), (⟨0, 0, 0⟩, .marked, 3)] := by decide +kernel

/-- A store of two bytes in flight. -/
def storing : State := { base with loader := { base.loader with store := some ⟨.first, [1, 2], 1⟩ } }

theorem witness_StoreCompletionReadsTheBankBack : base.loader.store = none ∧
    storing.loader.store = some ⟨.first, [1, 2], 1⟩ ∧ [(1 : Byte), 2, 9].take [(1 : Byte), 2].length = [1, 2] ∧
    [(1 : Byte)].take [(1 : Byte), 2].length ≠ [1, 2] := by decide +kernel

/-- A staging image is complete. -/
def isComplete (img : List Byte) : Bool :=
  match judgeStaged img with
  | .complete _ => true
  | _ => false

theorem witness_LoadSettingsStagesAndApplies : base.takes ∧ inHouse.takes ∧ 4 ≤ [(9 : Byte), 0, 0, 0].length ∧
    (List.replicate 1024 (0 : Byte)).length ≤ 1024 ∧ u32At [9, 0, 0, 0] 0 ≠ 0 ∧
    u32At [9, 0, 0, 0] 0 ≠ base.loader.staging.length ∧ judgeStaged (List.replicate 16 0) = .refused ∧
    judgeStaged [] = .incomplete ∧ isComplete (image 1) = true ∧ inHouse.loadRefused [] = true ∧
    base.loadRefused [] = false ∧ base.nodes.Pairwise (fun m n => m.addr < n.addr) ∧
    (after (.loadComplete none none) State.reset).part = .unconfigured :=
  ⟨base_takes, inHouse_takes, by decide +kernel⟩

/-- UNCONFIGURED with the first 20 bytes of an image staged: the rest completes it. -/
theorem witness_LoadSettingsStagesAndApplies_unconfigured :
    let s : State := { base with
      part := .unconfigured, lines := LineEngine.initial, loader := { base.loader with staging := (image 1).take 20 } }
    s.port.service = none ∧ s.loader.staging.length = 20 ∧ isComplete (s.loader.staging ++ (image 1).drop 20) = true ∧
    s.lines.lineA.st = .off ∧ s.lines.lineB.st = .off ∧ s.lines.round = none ∧ s.nodes = [] := by decide +kernel

/-- `inHouse` as an image gives it, the room's hours set and the minibar's point moved. -/
def reloaded : State := { inHouse with
  nodes := [{ door with enrol := { door.enrol with hours := some ⟨60, 120⟩ } }, { bar with enrol := { bar.enrol with point := 1211 } }] }

theorem witness_LoadSettingsStagesAndApplies_alike :
    inHouse.EnrolmentLaw ∧ inHouse.loadRefused reloaded.enrolled = false ∧ ∀ n ∈ inHouse.nodes, n.copy = n.enrol.copy :=
  ⟨witness_ImagesRoundTripThroughTheLoader.1, by decide +kernel⟩

/-- What a staging image is judged: refused, or complete, or neither yet. -/
def staged (img : List Byte) : Bool × Bool := (judgeStaged img == .refused, isComplete img)

/-- 11:R197: the header is judged at 16 bytes, the body at the last, and a byte beyond it is refused. -/
theorem witness_LoadSettingsStagesAndApplies_judgements :
    let i := rawImage (rawBody [doorRecord]) 46
    ([i.bytes.take 15, i.bytes.take 16, i.bytes.take 61].all fun x => staged x == (false, false)) = true ∧
    staged i.bytes = (false, true) ∧
    ([{ i with ident := 0 }.bytes.take 16, { i with headerCheck := i.headerCheck + 1 }.bytes.take 16, i.bytes ++ [0],
      { i with rest := i.rest.set 0 1 }.bytes, (rawImage (rawBody [doorRecord]) 45).bytes,
      (rawImage (rawBody [{ doorRecord with point := 4096 }]) 46).bytes].all fun x => staged x == (true, false)) = true := by
  decide +kernel

/-- 02:R26 judged against the new enrolment: each of the three grounds alone, and none. -/
theorem witness_LoadSettingsStagesAndApplies_withdrawals :
    let named : List EnrolReq := [⟨71, bar.enrol⟩]
    let opened : State := { inHouse with store := ⟨[], [], []⟩ }
    let lived : State := { inHouse with minibar := ⟨[⟨210, false, 0, 6000, 0, none⟩], []⟩ }
    let free : State := { lived with store := ⟨[], [], []⟩ }
    (free.loadRefused named, opened.loadRefused [], lived.loadRefused [], free.loadRefused [],
      inHouse.loadRefused inHouse.enrolled) = (true, true, true, false, false) := by decide +kernel

/-- 11:R197: an address enrolled alike keeps its record, another is withdrawn and enrolled. -/
theorem test_loadSettings_keeps_what_is_enrolled_alike :
    (after (.loadSettings 1 (le32 0 ++ reloaded.runningImage)) inHouse).nodes.map (fun n =>
        (n.addr, n.enrol.point, n.st, n.latchFallback))
      = [(12, 210, .online, true), (71, 1211, .absent, true)] := by decide +kernel
theorem test_loadSettings_journals_withdrawals_first :
    (after (.loadSettings 1 (le32 0 ++ reloaded.runningImage)) inHouse).journal.recs.map (fun r => (r.entry.node, r.entry.detail1))
      = [(some 71, some .withdrawn), (some 71, some (.nodeState .absent))] := by decide +kernel

theorem witness_PingEchoesItsBody : outage.part = .retention ∧ (after .resetPinLow base).part = .held ∧
    base.port.service = none ∧ (List.replicate 16 (0 : Byte)).length ≤ 16 ∧ 16 < (List.replicate 17 (0 : Byte)).length ∧
    State.reset.part = .loading ∧ (after (.loadComplete none none) State.reset).part = .unconfigured := by decide +kernel

theorem witness_SettingsCommandsReadAndStore : base.port.service = none ∧ base.lineOff = false ∧ base.part = .running ∧
    46 < base.runningImage.length ∧ base.runningImage.length = 47 ∧ base.loader.store = none ∧ storing.loader.store ≠ none ∧
    (headerFormatOk (image 41 ++ [0]) = true ∧ 16 + headerLength (image 41 ++ [0]) ≤ (image 41 ++ [0]).length) ∧
    (image 41).length = 47 ∧ ¬ (headerFormatOk [1] = true ∧ 16 + headerLength [1] ≤ [(1 : Byte)].length) ∧
    ({ storing with loader := { storing.loader with bank2 := some [1] } }).loader.bank2 = some [1] ∧
    ({ base with part := .unconfigured } : State).part = .unconfigured ∧ base.loader.bank1 = none ∧ base.loader.bank2 = none ∧
    2 < (3 : Byte).toNat := by decide +kernel

theorem witness_SetTimeStepsWingTime : base.takes ∧ 4294967295 < 4294967296 ∧ base.time.epoch < 65536 ∧
    ({ Clock.initial with anchor := some ⟨5000000, 812345600, 0⟩ } : Clock).anchor.map (·.epoch) = some base.time.epoch :=
  ⟨base_takes, by decide +kernel⟩

/-- 03:R48: the headers of a round start before and after a SET_TIME, the time unset until then. -/
theorem test_setTime_and_a_round_start :
    let s : State := { base with time := { base.time with secs := 70, isSet := false } }
    ([s, after (.setTime 1 (le32 70)) s].map fun u =>
      (after .roundStart u).lines.round.map (fun r => (r.secs, r.timeUnset))) = [some (70, true), some (70, false)] := by
  decide +kernel

theorem witness_SecondEventLeavesNothingDue :
    (after .roundStart { base with time := { base.time with tick := 32767, mark := some 32768 } }).time
      = ⟨32768, 812500000, 0, true, some 38912, false, 1⟩ ∧
    base.time.begun = false ∧ base.part = .running ∧ outage.part ≠ .running ∧
    outage.time.begun = false ∧ base.time.isSet = true ∧
    ({ inHouse with time := { base.time with secs := 812600039 } }.time.secs + 1) % 4294967296 % 60 = 0 := by decide +kernel

/-- `charged` with encodings, one second before a second boundary that is due for all three parts. -/
def secondDue : State := { charged with
  time := { base.time with secs := 812500139 }
  store := encodingState.store }

theorem witness_SecondEventPartsActAlone : secondDue.part = .running ∧ secondDue.time.begun = false ∧
    (secondDue.cred? 412).map (·.st) = some (.encoding 812500120) ∧ (secondDue.lineFor? 71 1).isSome = true ∧
    secondDue.time.isSet = true ∧ (812500139 + 1) % 60 = 0 ∧ twoDue.part = .running ∧ twoDue.time.begun = false ∧
    (twoDue.minibar.pool.map (fun l => (l.node, l.comp, l.deadline)))
      = [(71, 2, 812499990), ((71 : Byte).toNat, (1 : Byte).toNat, 812500000 + 1)] := by decide +kernel

/-- `charged` with node 71 in a session. -/
def inSession (x : Session) : State :=
  { charged with nodes := [door, { bar with session := some x }] }

/-- `lawful` one second before a minute, when credential 1 has expired, credential 2 not yet, and of the list one entry. -/
def expiring : State := { lawful with
  time := { lawful.time with secs := 812600039 }
  store := ⟨[guest 0 58 (.encoding 812600040) 7, guest 1 57 .active 8, { guest 2 57 .active 9 with validEnd := 812600040 }],
    List.range' 3 765, []⟩
  revoc := { lawful.revoc with entries := [⟨5, none, .foreign, 812600039, 1⟩, ⟨6, none, .foreign, 812600040, 2⟩], gen := 2 } }

/-- 04:R83, 05:R99: the sweep takes exactly what lies below the new wing seconds. -/
theorem test_minute_sweep_takes_exactly_the_past :
    let s := after .minuteSweep expiring
    (s.store.recs.map (fun c => (c.number, c.st)), s.store.free.length, s.store.retired, s.revoc.entries.map (·.serial),
      s.revoc.changes, s.journal == expiring.journal)
      = ([(0, .encoding 812600040), (1, .expired 812600000), (2, .active)], 765, [1], [6], [⟨3, .remove 5 none⟩], true) := by
  decide +kernel

theorem expiring_law : expiring.store.Law where
  ascending := by decide +kernel
  inRange := by decide +kernel
  freeOnce := List.nodup_range'
  freeInRange := by intro k; simp [expiring]; omega
  vacant := by intro k hk; simp [expiring, guest]; omega
  retiredOnce := by simp [expiring]
  retired := by intro k; simp [expiring, guest, CredState.retiredAt]
  sorted := by simp [expiring]

theorem witness_SecondEventLeavesNothingDue_sweep : expiring.store.Law ∧ expiring.time.begun = false ∧
    expiring.part = .running ∧ expiring.time.isSet = true ∧ (812600039 + 1) % 60 = 0 ∧
    expiring.minibar.pool.Pairwise (fun l m => ¬ (l.node = m.node ∧ l.comp = m.comp)) :=
  ⟨expiring_law, by decide +kernel⟩

/-- `inHouse` with 64 lines of other nodes in the pool. -/
def poolFull : State := { inHouse with
  minibar := { inHouse.minibar with pool := (List.range 64).map (fun i => ⟨211, 80 + i, 1, 0, 1, 50, 0, 812600000⟩) } }

theorem witness_MinibarItemsAndCommitsMoveStockAndLines :
    charged.folio? 210 = some ⟨210, true, 1250, 6000, 1350, some 812100000⟩ ∧ door.enrol.cls ≠ .minibar ∧
    (charged.node? 71).map (fun n => (n.enrol.cls, n.enrol.comps, n.comps.length)) = some (.minibar, some 3, 3) ∧
    (1 ≤ (3 : Byte).toNat ∧ bar.comps[(3 : Byte).toNat - 1]? = some ⟨815, 3800, 2, 2⟩) ∧ bar.enrol.comps.getD 0 < (4 : Byte).toNat ∧
    (charged.lineFor? 71 1).map (fun l => (l.folio, l.count)) = some (210, 3) ∧ charged.lineFor? 71 3 = none ∧
    charged.settings.returnWindow = 120 ∧ charged.minibar.pool.length < 64 ∧ poolFull.lineFor? 71 1 = none ∧
    poolFull.minibar.pool.length = 64 ∧ ((poolFull.minibar.pool.head?).map (·.node)) = some 80 ∧
    bar.session = none ∧ bar.enrol.entry = some 210 ∧
    ((inSession ⟨.guest, 300, some 210, 812500000⟩).node? 71).bind (·.session) = some ⟨.guest, 300, some 210, 812500000⟩ ∧
    ((inSession ⟨.restock, 5, none, 812500000⟩).node? 71).bind (·.session) = some ⟨.restock, 5, none, 812500000⟩ := by
  decide +kernel

theorem test_removed_full_pool_commits_its_head :
    ((poolFull.item 71 (.removed 1 2)).minibar.pool.length, ((poolFull.item 71 (.removed 1 2)).lineFor? 71 1).map (·.amount))
      = (64, some 900) := by decide +kernel

/-- `inHouse` with line A the last in service. -/
def lastLine : State := { inHouse with lines := { base.lines with lineB := lineIn .disabled } }

theorem witness_LineControlFollowsItsTable : base.takes ∧ (base.line .a).st = .up ∧
    lastLine.service = true ∧ (after (.lineDisable 1 [0]) lastLine).service = false ∧
    lastLine.nodes.Pairwise (fun m n => m.addr < n.addr) ∧ (lastLine.nodes.any fun n => n.st.answering) = true ∧
    ([LineState.training, .up, .degraded, .disabled].all fun st =>
      { base with lines := { base.lines with lineA := lineIn st } }.lines.lineA.st != .off) = true :=
  ⟨base_takes, by decide +kernel⟩

/-- 01:R3, 10 Table 10.5: LINE_CHANGE with the states after the change, then the reply. -/
theorem test_lineDisable_raises_the_notice :
    let p := (after (.lineDisable 1 [1]) base).port
    (p.frames, p.arm.lineChange) = ([.notice 0x63 [2, 4], .reply 0x10 1 [0]], false) := by decide +kernel

theorem witness_LineStatusReportsAndClears : base.takes := base_takes

/-- `inRound` with node 12 in a state with its counts. -/
def nodeAt (st : NodeState) (missed silent : Nat) : State :=
  { inRound with nodes := [{ door with st := st, good := 5, missed := missed, silent := silent }, bar] }

theorem witness_MissesMoveANodeByItsState :
    ([nodeAt .probation 1 0, nodeAt .probation 2 0, nodeAt .online 4 0, nodeAt .online 5 0, nodeAt .silent 0 62,
      nodeAt .silent 0 63].all fun s => s.part == .running && s.lines.round == some round37
        && round37.windows.find? (fun w => w.addr == (12 : Byte).toNat) == some ⟨(12 : Byte).toNat, false⟩
        && (s.node? 12).any (fun n => n.st.hasWindow)) = true := by decide +kernel

/-- Neither copy is good: a second answer on line A, line B too long, silent or out of service (01 Table 1.2). -/
theorem witness_MissesMoveANodeByItsState_faults :
    judgeCopy 12 37 true (some { good 12 none [] with second := true }) = .faulty .extra ∧
    judgeCopy 12 37 true (some { good 12 none [] with overrun := true }) = .faulty .overrun ∧
    judgeCopy 12 37 true none = .absent ∧ judgeCopy 12 37 false (some (good 12 none [])) = .absent := by decide +kernel

/-- 01:R9, R10, R11: a fault of a missed window sets its flag and is captured uncorrectable; no running count rises. -/
theorem test_windowClose_uncorrectable :
    (fun l : LineEngine => (l.lineA.flags.extra, l.lineA.running, l.first))
      (after (.windowClose 12 (some { good 12 none [] with second := true }) none .aFirst) inRound).lines
      = (true, 0, ⟨true, .a, 37, 12, .extra, .uncorrectable, 812500000⟩) := by decide +kernel

/-- 02:R29, 08:R150: the third miss in PROBATION takes the presentation number and the session; one NODE_STATE is written. -/
theorem test_windowClose_enters_absent :
    let s := after (.windowClose 12 none none .aFirst) { inRound with
      nodes := [{ door with st := .probation, missed := 2, lastPres := some 3, upload := some ⟨1, 2, 0, none, false⟩, permit := .opened 4 }, bar] }
    ((s.node? 12).map (fun n => (n.st, n.lastPres, n.upload, n.permit)), s.journal.recs.map (fun r => r.entry.detail1))
      = (some (.absent, none, none, .none), [some (.nodeState .absent)]) := by decide +kernel

/-- `inRound` with node 12 waiting for the answer that ends its reload, or with an upload in progress. -/
def answering (reload : Reload) (upload : Option Upload) : State :=
  { inRound with nodes := [{ door with reload := reload, upload := upload }, bar] }

/-- A good copy of node 12 with its acknowledged generation and pending flag. -/
def acking (ack : Nat) (pending : Bool) : Copy :=
  { good 12 none [] with answer := ⟨quiet, 100, 0, BitVec.ofNat 32 ack, none, [], pending⟩ }

/-- An upload whose anchor is usable. -/
def upload12 : Upload := ⟨5259200, 812604770, 0, some ⟨5000000, 812345600, 259200, 259170⟩, false⟩

theorem witness_GoodAnswersMoveANodeByItsState :
    ([nodeAt .probation 0 0, nodeAt .online 0 0, nodeAt .silent 0 5, answering (.awaiting 0 1) none,
      answering .none (some upload12)].all fun s =>
        s.part == .running && s.lines.round == some round37 && (s.node? 12).any (fun n => n.st.hasWindow)
          && s.lines.lineA.st.inService && s.lines.lineB.st.inService) = true ∧
    round37.windows.find? (fun w => w.addr == (12 : Byte).toNat) = some ⟨(12 : Byte).toNat, false⟩ ∧
    judgeCopy 12 37 true (some (good 12 none [])) = .good ∧ judgeCopy 12 37 true none = .absent ∧
    judgeCopy 12 37 true (some (good 13 none [])) = .faulty .content ∧
    judgeCopy 12 37 true (some (acking 0 true)) = .good ∧ ({ door with reload := .awaiting 0 1 } : Node).reload.underWay = true ∧
    genBelow stalled.revoc.gen 1 = false ∧ genBelow door.cursor.acked 1 = true := by decide +kernel

/-- 02:R34: 8 good rounds, a drained upload and a current cache together give ONLINE. -/
theorem test_probation_test :
    ([{ door with st := .probation, good := 7 }, { door with st := .probation, good := 6 },
      { door with st := .probation, good := 7, reload := .marked },
      { door with st := .probation, good := 7, cursor := ⟨0, 0, 0⟩, fallback := .restricted }].map fun n =>
        ((after (.windowClose 12 (some (acking 0 false)) none .aFirst) { inRound with
          nodes := [n, bar]
          revoc := { inRound.revoc with gen := 1, changes := [⟨1, .add 5 none⟩] } }).node? 12).map (·.st))
      = [some .probation, some .probation, some .probation, some .online] := by decide +kernel

/-- 02:R37: a repeated presentation number is dropped, a new one is decided and queued. -/
theorem test_presentations_are_taken_once :
    ([none, some 20, some 21].map fun k =>
      (after (.windowClose 12 (some (good 12 (some ⟨21, 0, 999, 0, 0⟩) [])) none .aFirst)
        { inRound with nodes := [{ door with lastPres := k }, bar] }).lines.urgent.length) = [1, 1, 0] := by decide +kernel

theorem test_good_answer_on_line_B_ends_a_reload :
    ((after (.windowClose 12 none (some (acking 0 false)) .bFirst) (answering (.awaiting 0 1) none)).node? 12).map (·.reload)
      = some .none := by decide +kernel

/-- 03:R57, 02:R29, R41: what latches FALLBACK_PARAMS and raises NODE_CHANGE at a good answer: nothing; a changed grace; the
return from SILENT; battery low. -/
theorem test_good_answers_latch_and_notify :
    ([door, { door with clock := { Clock.initial with span := some ⟨36, 281474976317440, 4294574080, 64⟩ } },
      { door with st := .silent }, { door with status := some { quiet with batteryLow := true } }].map fun n =>
        let s := after (.windowClose 12 (some (good 12 none [])) none .aFirst) { inRound with
          nodes := [n, bar], lines := { inRound.lines with round := some { round37 with tick := 0 } } }
        ((s.node? 12).map (fun m => (m.latchFallback, decide (m.clock.grace = n.clock.grace))), s.port.arm.nodeChange))
      = [(some (false, true), true), (some (true, false), true), (some (true, true), false), (some (false, true), false)] := by
  decide +kernel

/-- Node 12 after a good answer with items and a pending flag, an upload in progress where the flag is set. -/
def answered (f : Node → Node) (items : List Item) (pending : Bool) : Option Node :=
  (after (.windowClose 12 (some { good 12 none [] with answer := ⟨quiet, 100, 0, 0, none, items, pending⟩ }) none .aFirst)
    { inRound with nodes := [f { door with upload := if pending then some upload12 else none }, bar] }).node? 12

/-- 03:R52, R53: no span, and spans beside and at both ends of the range of k that closes one. -/
theorem witness_GoodAnswersMoveANodeByItsState_spans :
    ([none, some 63, some 64, some 72].map fun k =>
      (answered (fun n => { n with clock := { Clock.initial with
        span := k.map fun k => ⟨36, 281474976317440, 4294574080, k⟩ } }) [] false).map
          (fun m => (m.clock.span, m.clock.samples)))
      = [some (some ⟨37, 0, 0, 0⟩, 0), some (some ⟨36, 281474976317440, 4294574080, 63⟩, 0), some (some ⟨37, 0, 0, 0⟩, 1),
         some (some ⟨37, 0, 0, 0⟩, 1)] ∧ 0 = (281474976317440 + 393216) % 281474976710656 ∧
      0 = (4294574080 + 393216) % 4294967296 := by decide +kernel

/-- 07:R136, R137: an OPEN permit of 3 at an answer with 0 to 4 records, and permits that are not OPEN. -/
theorem witness_GoodAnswersMoveANodeByItsState_permits :
    let record : Item := .offlineRecord ⟨5086400, 7, 300, 57, 0, true, .none⟩
    let permit (p : Permit) (taken : Nat) : Option (Permit × Bool) :=
      (answered (fun n => { n with permit := p }) (.forcedOpen :: List.replicate taken record) true).map
        (fun m => (m.permit, m.latchPermit))
    ([0, 1, 2, 3, 4].map fun taken => permit (.opened 3) taken)
      = [some (.latched, true), some (.opened 2, false), some (.opened 1, false), some (.latched, true), some (.latched, true)] ∧
    ([.none, .latched, .placed 3].map fun p => permit p 0) = [some (.none, false), some (.latched, false), some (.placed 3, false)] := by
  decide +kernel

/-- Node 5 with join attempts, invited in round 37. -/
def invited (st : NodeState) (joins : Nat) (dead : Bool) : State := { base with
  nodes := [{ nodeOf 5 1005 .service none none st with joins := joins }]
  lines := { base.lines with round := some { round37 with invited := some 5, inviteDead := dead } } }

theorem witness_InvitationsMoveANodeByItsState :
    ([invited .absent 2 false, invited .absent 1 false, invited .dormant 0 false, invited .absent 2 true].all fun s =>
      s.lines.round.any (fun r => r.inviteOpen && r.invited == some 5) && (s.node? 5).isSome) = true ∧
    judgeCopy 5 37 base.lines.lineA.st.inService (some (good 5 none [])) = .good ∧
    judgeCopy 5 37 base.lines.lineA.st.inService none ≠ .good ∧ round37.inviteOpen = true ∧ round37.invited = none := by
  decide +kernel

/-- 02:R29, 08:R146: an invited MINIBAR that answers, ABSENT and DORMANT; 01:R9: the flag its good copy leaves. -/
theorem test_invitationClose_admits_a_minibar :
    ([NodeState.absent, .dormant].map fun st =>
      let s := after (.invitationClose none (some (good 5 none []))) { base with
        nodes := [{ nodeOf 5 1210 .minibar (some 210) (some 3) st with joins := 3 }]
        lines := { base.lines with round := some { round37 with invited := some 5 } } }
      ((s.node? 5).map (fun n => (n.st, n.joins, n.latchFallback, n.latchComp)), s.port.arm.nodeChange,
        s.lines.lineA.flags.validSeen, s.lines.lineB.flags.validSeen))
      = [(some (.probation, 3, true, true), false, false, true), (some (.probation, 16, true, true), false, false, true)] := by
  decide +kernel

theorem witness_RoundStartFixesTheRound : inRound.part = .running ∧ inRound.time.mark = some 6144 ∧
    sub48 6144 inRound.time.tick ≤ 16384 ∧ sub48 16384 0 ≤ 16384 ∧ inRound.lines.repeats.length ≤ 8 ∧
    inRound.nodes.Pairwise (fun m n => m.addr < n.addr) ∧ sub48 32768 32767 ≤ 16384 ∧
    inRound.lines.round = some round37 ∧ round37.windows.Pairwise (fun v w => v.addr < w.addr) := by decide +kernel

/-- Before round 1, or round 0 when `number` is 63, with the invitation pointer, the dormant turn and some nodes. -/
def inviting (number pointer : Nat) (turn : Bool) (nodes : List Node) : State := { base with
  lines := { base.lines with round := some { round37 with number := number, windows := [] } }
  inviter := ⟨pointer, turn⟩
  nodes := nodes }

/-- The node a ROUND_START invites, with the pointer and the turn after it. -/
def invites (s : State) : Option Nat × Inviter :=
  ((after .roundStart s).lines.round.bind (·.invited), (after .roundStart s).inviter)

/-- A DORMANT or ABSENT node at an address. -/
def waiting (addr : Nat) (st : NodeState) : Node := nodeOf addr (1000 + addr) .service none none st

/-- 02:R30: one and two DORMANT nodes of the class, the turn, the walk among ABSENT nodes, no node, round 0. -/
theorem witness_RoundStartFixesTheRound_invitations :
    invites (inviting 0 9 false [waiting 1 .dormant, waiting 65 .dormant]) = (some 1, ⟨9, false⟩) ∧
    invites (inviting 0 9 true [waiting 1 .dormant, waiting 65 .dormant]) = (some 65, ⟨9, true⟩) ∧
    invites (inviting 0 9 false [waiting 12 .absent, waiting 65 .dormant]) = (some 65, ⟨9, false⟩) ∧
    invites (inviting 0 12 false [waiting 12 .absent, waiting 71 .absent]) = (some 71, ⟨71, false⟩) ∧
    invites (inviting 0 71 false [waiting 12 .absent, waiting 71 .absent]) = (some 12, ⟨12, false⟩) ∧
    invites (inviting 0 71 false []) = (none, ⟨71, false⟩) ∧
    invites (inviting 63 9 false [waiting 64 .dormant]) = (some 64, ⟨9, true⟩) ∧
    invites { inviting 63 9 false [waiting 64 .dormant] with lines := LineEngine.initial } = (none, ⟨9, false⟩) := by
  decide +kernel

/-- Line A in TRAINING with a retrain count. -/
def training (k : Nat) : State :=
  { base with lines := { base.lines with lineA := { lineIn .training with retrain := k } } }

theorem witness_TrainingAndTallyPeriodsMoveTheLines : ((training 1).line .a).st = .training ∧ ((training 1).line .a).retrain = 0 + 1 ∧
    ((training 0).line .a).retrain = 0 ∧ (training 0).part = .running := by decide +kernel

theorem witness_TrainingAndTallyPeriodsMoveTheLines_tally : periodEnd.part = .running ∧ periodEnd.beginRoundStart.nextNumber = 0 ∧
    periodEnd.lines.tallyDone = false := by decide +kernel

/-- 01:R11, R3: the notice of a line that a period's end degrades. -/
theorem test_tallyPeriodEnd_raises_the_notice :
    let s := after .tallyPeriodEnd periodEnd
    (s.port.frames, s.port.arm.lineChange, s.journal.recs.map (fun r => r.entry.detail2))
      = ([.notice 0x63 [3, 2]], false, [some (.lineState .degraded)]) := by decide +kernel

theorem witness_RoundStartPartsActAlone :
    Urgent.decision late ∈ { inHouse with lines := { base.lines with urgent := [.decision late] } }.beginRoundStart.lines.urgent ∧
    late.node = (12 : Byte).toNat ∧ late.pres = (16 : Byte).toNat ∧ 3 ≤ late.age + 1 ∧
    (stalled.beginRoundStart.node? 12).any (fun n => !n.reload.underWay && stalled.beginRoundStart.outstanding n != 0
      && 8 ≤ n.cursor.stall + 1) = true ∧
    ({ door with reload := .awaiting 5 7 } : Node).reload = .awaiting 5 7 ∧
    ({ Clock.initial with span := some ⟨0, 0, 0, 72⟩ } : Clock).spanDue = true := by decide +kernel

/-- Line B DEGRADED, one repeat copy, a granted minibar decision and a REMOTE_OPEN queued, two items latched. -/
def composing : State := { inHouse with
  lines := { inHouse.lines with
    lineB := lineIn .degraded
    repeats := [.remoteOpen 71]
    urgent := [.decision { late with node := 71, mode := some .guest }, .remoteOpen 12] }
  nodes := [door, { bar with latchFallback := true, latchComp := true }] }

theorem witness_SegmentsServeAnsweringNodesOnly : inHouse.addrs.Nodup ∧ composing.addrs.Nodup ∧
    composing.lines.repeats.length ≤ 8 ∧ composing.addrs.Pairwise (fun a b => a < b) := by decide +kernel

/-- 01:R15 to R18, 06:R124, R129: order, repeat copies, records, session, pointer. -/
theorem test_composition :
    composing.compose.2 = [.remoteOpen 71, .decision 71 16 true .none (some .guest), .remoteOpen 12,
      .fallbackParams 71 348 .full false none, .compartmentSet 71 bar.comps] ∧
    composing.compose.1.lines.repeats = composing.lines.urgent ∧ composing.compose.1.lines.pointer = 71 ∧
    composing.compose.1.journal.recs.map (fun r => r.entry.kind) = [.admission, .remoteOpen] ∧
    (composing.compose.1.node? 71).map (·.session) = some (some ⟨.guest, 300, some 210, 812500000⟩) := by decide +kernel

/-- Three changes for node 12, the first outstanding; node 71 in the reload of a list of one entry. -/
def delivering : State := { inHouse with
  nodes := [{ door with cursor := ⟨1, 0, 0⟩ }, { bar with reload := .marked }]
  revoc := { inHouse.revoc with
    entries := [⟨9, none, .foreign, 812600000, 2⟩]
    changes := [⟨1, .floor 210 57⟩, ⟨2, .add 9 none⟩, ⟨3, .remove 8 none⟩]
    gen := 3 } }

/-- 05:R105, R109: at most two items of each node, the links, the reload resumed at the next composition. -/
theorem test_deliveries :
    delivering.compose.2 = [.change 12 2 (.add 9) 1, .change 12 3 (.remove 8) 2, .reloadBegin 71 3, .reloadFloor 71 57] ∧
    delivering.compose.1.compose.2 = [.reloadSerial 71 9, .reloadEnd 71 3 2] ∧
    (delivering.compose.1.nodes.map (·.cursor.sent), (delivering.compose.1.compose.1.node? 71).map (·.reload))
      = ([3, 0], some (.awaiting 3 0)) := by decide +kernel

theorem witness_EnrollNodeCreatesItsRecords : base.takes ∧ inHouse.takes ∧ gateBody.length = 15 ∧
    (enrolAt gateBody 0).map (fun r => (r.addr, r.enrol.point, r.enrol.cls)) = some (33, 1040, .amenityGate) ∧
    base.node? 33 = none ∧ enrolAt (97 :: gateBody.drop 1) 0 = none ∧
    (inHouse.nodes.any fun n => n.enrol.point == 210) = true ∧ (inHouse.node? 12).isSome = true ∧
    base.roomNode? 210 = none ∧ (inHouse.roomNode? 210).isSome = true :=
  ⟨base_takes, inHouse_takes, by decide +kernel⟩

/-- 02 Table 2.2: the fields at the ends of their ranges. -/
theorem witness_EnrollNodeCreatesItsRecords_good_fields :
    ([{ doorRecord with addr := 1 }, { doorRecord with addr := 96, point := 4095, entry := 4095 },
      { doorRecord with hasHours := 1, start := 0, stop := 1439, oos := 1 }, { barRecord with comps := 1 },
      { barRecord with comps := 8 }, ⟨33, 1040, 3, 0, 0, 0, 0, 0, 0, 0, 0⟩, ⟨34, 1041, 4, 0, 0, 0, 0, 0, 0, 0, 0⟩,
      ⟨35, 0, 1, 1, 210, 0, 0, 0, 0, 0, 0⟩] : List RawEnrol).all (fun r =>
        decide r.Good && enrolAt r.bytes 0 == some r.request) = true := by decide +kernel

/-- 02 Table 2.2: each check alone failing, at the value beside the range. -/
theorem witness_EnrollNodeCreatesItsRecords_bad_fields :
    ([{ doorRecord with addr := 0 }, { doorRecord with addr := 97 }, { doorRecord with point := 4096, entry := 4096 },
      { doorRecord with cls := 5, hasEntry := 0 }, { doorRecord with hasHours := 2 }, { doorRecord with oos := 2 },
      { doorRecord with hasComps := 2 }, { doorRecord with hasEntry := 2 },
      { doorRecord with hasHours := 1, start := 1440, stop := 5 }, { doorRecord with hasHours := 1, start := 5, stop := 1440 },
      { doorRecord with hasHours := 1, start := 60, stop := 60 }, { barRecord with comps := 0 }, { barRecord with comps := 9 },
      { barRecord with hasComps := 0 }, { doorRecord with hasComps := 1, comps := 1 }, { doorRecord with entry := 211 },
      { doorRecord with hasEntry := 0 }, ⟨33, 1040, 3, 1, 210, 0, 0, 0, 0, 0, 0⟩] : List RawEnrol).all (fun r =>
        !decide r.Good && enrolAt r.bytes 0 == none) = true := by decide +kernel

/-- 02:R40: enrolment and withdrawal raise NODE_CHANGE. -/
theorem test_enrolment_raises_node_change :
    ([after (.enrollNode 1 gateBody) base, after (.withdrawNode 1 [71]) inHouse].map fun s =>
      (s.port.arm.nodeChange, s.port.frames.contains (.notice 0x62 []))) = [(false, true), (false, true)] := by decide +kernel

/-- Room 210 alone, its folio CLOSED, no card. -/
def vacated : State := { base with
  nodes := [door]
  revoc := inHouse.revoc
  minibar := ⟨[⟨210, false, 0, 6000, 0, none⟩], []⟩ }

theorem witness_WithdrawNodeRemovesItsRecords : inHouse.takes ∧ inHouse.node? 1 = none ∧ inHouse.node? 96 = none ∧
    (inHouse.node? 71).map (fun n => n.enrol.cls) = some .minibar ∧
    charged.takes ∧ charged.minibar.pool.Pairwise (fun l m => ¬ (l.node = m.node ∧ l.comp = m.comp)) ∧
    charged.minibar.pool.length = 1 ∧ ((inHouse.folio? 210).map (fun f => f.isOpen)) = some true ∧
    (vacated.node? 12).map (fun n => n.enrol.cls) = some .roomEntry ∧ (vacated.folio? 210).map (·.isOpen) = some false ∧
    vacated.nodes.length = 1 ∧ vacated.store.recs = [] :=
  ⟨inHouse_takes, by decide +kernel, by decide +kernel, by decide +kernel, charged_takes, by decide +kernel⟩

theorem test_withdrawNode_commits_its_lines : (after (.withdrawNode 1 [71]) charged).minibar
    = ⟨[⟨210, true, 2600, 6000, 0, some 812100000⟩], []⟩ := by decide +kernel

/-- A SET_NODE of node 12 without parts. -/
def rawSet : RawSetNode := ⟨12, 0, 0, 0, 0, 0, 0, 0, 0⟩

theorem witness_SetNodeActsOnFieldsAndState : inHouse.takes ∧ (inHouse.node? 12).map (·.st) = some .online ∧
    inHouse.node? 11 = none ∧
    ([rawSet, { rawSet with hasHoursPart := 1, hasHours := 1, stop := 1439 }, { rawSet with hasAction := 1 },
      { rawSet with hasAction := 1, action := 1 }, { rawSet with addr := 96 }].map fun x => (decide x.Good, x.row 1))
      = [(true, .setNode 1 [12, 0, 0, 0, 0, 0, 0, 0, 0, 0, 0]), (true, .setNode 1 [12, 0, 0, 1, 1, 0, 0, 159, 5, 0, 0]),
         (true, .setNodeDisable 1 [12, 0, 0, 0, 0, 0, 0, 0, 0]), (true, .setNodeEnable 1 [12, 0, 0, 0, 0, 0, 0, 0, 0]),
         (true, .setNode 1 [96, 0, 0, 0, 0, 0, 0, 0, 0, 0, 0])] ∧
    ((after (({ rawSet with hasAction := 1 } : RawSetNode).row 1) inHouse).node? 12).map (·.st) = some .disabled :=
  ⟨inHouse_takes, by decide +kernel⟩

/-- 02:R27, 10:R186: each check alone failing, at the value beside the range. -/
theorem witness_SetNodeActsOnFieldsAndState_refusals :
    ([{ rawSet with addr := 0 }, { rawSet with addr := 97 }, { rawSet with hasOos := 2 }, { rawSet with oos := 2 },
      { rawSet with hasHoursPart := 2 }, { rawSet with hasHours := 2 }, { rawSet with hasAction := 2 },
      { rawSet with action := 2 }] : List RawSetNode).all
        (fun x => !decide x.Good && code (after (x.row 1) inHouse) == some 0x14) = true ∧
    ([{ rawSet with hasHoursPart := 1, hasHours := 1, start := 1440 }, { rawSet with hasHoursPart := 1, hasHours := 1, stop := 1440 },
      { rawSet with hasHoursPart := 1, hasHours := 1, start := 7, stop := 7 }] : List RawSetNode).all
        (fun x => decide x.Good && code (after (x.row 1) inHouse) == some 0x14) = true ∧
    code (after (({ rawSet with addr := 11 } : RawSetNode).row 1) inHouse) = some 0x15 ∧
    code (after (({ rawSet with hasHours := 1, start := 9999 } : RawSetNode).row 1) inHouse) = some 0x00 := by decide +kernel

/-- 02:R28, 05:R108: DISABLE marks a reload under way and keeps the cursor, presentation number and status bits. -/
theorem test_setNodeDisable_keeps_the_rest :
    let s := after (.setNodeDisable 1 [12, 0, 0, 0, 0, 0, 0, 0, 0]) { inHouse with
      nodes := [{ door with reload := .awaiting 3 1, cursor := ⟨4, 2, 1⟩, lastPres := some 9, status := some quiet }] }
    ((s.node? 12).map (fun n => (n.reload, n.cursor, n.lastPres, n.status)), s.port.arm.nodeChange)
      = (some (.marked, ⟨4, 2, 1⟩, some 9, some quiet), false) := by decide +kernel

/-- The urgent queue with 32 entries of another node. -/
def queueFull : State := { inHouse with lines := { base.lines with urgent := List.replicate 32 (.remoteOpen 71) } }

theorem witness_NodeStatusReloadAndOpenPoint : inHouse.takes ∧ (96 : Byte).toNat - (81 : Byte).toNat < 16 ∧
    (96 : Byte).toNat ≤ 96 ∧ (inHouse.node? 12).map (·.st) = some .online ∧ .remoteOpen 12 ∉ inHouse.lines.urgent ∧
    inHouse.lines.urgent.length < 32 ∧ queueFull.lines.urgent.length = 32 ∧ .remoteOpen 12 ∉ queueFull.lines.urgent ∧
    .remoteOpen 71 ∈ queueFull.lines.urgent ∧ ((nodeAt .silent 0 0).node? 12).map (·.st) = some .silent :=
  ⟨inHouse_takes, by decide +kernel⟩

/-- ISSUE_CARD GUEST, NEW_STAY, entry 210, serial 0x3A11F0C7, window T..T + 259,200. -/
def rawIssue : RawIssue :=
  ⟨0, 0x3A11F0C7, 1, ⟨210, 0, 1⟩, 0, ⟨0, 0, 0⟩, 812500000, 812759200, 0, 0, 0, 1, 210, 1, 0⟩

/-- A STAFF card of the rooms 0 to 4095. -/
def rawStaff : RawIssue :=
  { rawIssue with kind := 1, first := ⟨0, 12, 31⟩, hasEntry := 0, hasMode := 0 }

theorem witness_IssueCardTakesASlot : inHouse.takes ∧ rawIssue.bytes = issueBody ∧ rawIssue.Good ∧ rawStaff.Good ∧
    rawIssue.request.entry = some 210 ∧ (inHouse.roomOf? 210).map (fun r => (r.stay, r.floor)) = some (57, 57) ∧
    rawStaff.request.entry = none ∧ ([rawIssue, rawStaff].map fun x => code (after (.issueCard 1 x.bytes) inHouse))
      = [some 0x00, some 0x00] ∧
    inHouse.store.free = 412 :: [413] ∧ retiredState.store.free = [] ∧ retiredState.store.retired = 530 :: [61] :=
  ⟨inHouse_takes, by decide +kernel, by decide +kernel, by decide +kernel, by decide +kernel⟩

/-- 04 Table 4.4, R66: each field check alone failing, at the value beside the range. -/
theorem witness_IssueCardTakesASlot_bad_fields :
    ([{ rawStaff with kind := 4 }, { rawIssue with hasFirst := 0 }, { rawIssue with hasFirst := 2 }, { rawIssue with hasSecond := 2 },
      { rawIssue with hasSchedule := 2 }, { rawIssue with hasEntry := 2 }, { rawIssue with hasMode := 2 },
      { rawIssue with mode := 2 }, { rawIssue with first := ⟨4096, 0, 1⟩ }, { rawIssue with first := ⟨0, 13, 1⟩ },
      { rawIssue with first := ⟨210, 2, 1⟩ }, { rawIssue with first := ⟨210, 0, 0xE0⟩ },
      { rawIssue with hasSecond := 1, second := ⟨210, 0, 0⟩ }, { rawIssue with hasSchedule := 1, start := 1440 },
      { rawIssue with hasSchedule := 1, stop := 1440 }, { rawIssue with hasEntry := 0 }, { rawIssue with hasMode := 0 },
      { rawStaff with hasEntry := 1 }, { rawStaff with hasMode := 1 }] : List RawIssue).all
        (fun x => !decide x.Good && code (after (.issueCard 1 x.bytes) inHouse) == some 0x14) = true ∧
    ([{ rawStaff with kind := 3 }, { rawIssue with first := ⟨208, 2, 0xE1⟩ }, { rawStaff with first := ⟨4095, 0, 16⟩ },
      { rawIssue with hasSchedule := 1, start := 1439, stop := 0 }, { rawIssue with second := ⟨4096, 13, 0⟩, start := 1440 }]
        : List RawIssue).all
        (fun x => decide x.Good && code (after (.issueCard 1 x.bytes) inHouse) == some 0x00) = true := by decide +kernel

/-- A reclamation of 530 while a list entry names it (05:R100). -/
def reclaiming : State := { inHouse with
  store := ⟨[guest 61 1 (.revoked 812480000 .revokedByDesk) 1, guest 530 1 (.revoked 812150400 .revokedByDesk) 2], [], [530, 61]⟩
  revoc := { inHouse.revoc with entries := [⟨2, some 530, .revoked, 812600000, 4⟩, ⟨3, none, .foreign, 812600000, 5⟩], gen := 5 } }

theorem witness_IssueCardTakesASlot_reclaim : reclaiming.takes ∧ reclaiming.store.free = [] ∧
    (reclaiming.revoc.entries.find? (fun x => x.cred == some 530)).isSome = true ∧
    (after (.issueCard 1 issueBody) reclaiming).revoc.entries
      = [⟨3, none, .foreign, 812600000, 5⟩, ⟨2, none, .foreign, 812600000, 6⟩] :=
  ⟨⟨rfl, rfl⟩, by decide +kernel⟩

/-- The refusals of 04 Table 4.4, one state or body each. -/
theorem witness_IssueCardTakesASlot_refusals :
    issueReq (issueBody.take 32 ++ [2]) = none ∧
    ([(0x15, issueBody, base), (0x1D, issueBody, { inHouse with time := { base.time with isSet := false } }),
      (0x1C, issueBody, { inHouse with time := { base.time with secs := 812759200 } }), (0x18, issueBody, encodingState),
      (0x19, issueBody.take 32 ++ [1], { inHouse with revoc := { inHouse.revoc with rooms := [⟨210, 57, 58, [⟨58, 0⟩], false⟩] } }),
      (0x1A, issueBody, { inHouse with revoc := { inHouse.revoc with rooms := [⟨210, 65535, 65535, [⟨65535, 0⟩], false⟩] } }),
      (0x14, issueBody.take 23 ++ [1, 60, 0, 60, 0] ++ issueBody.drop 28, inHouse),
      (0x17, issueBody, { inHouse with store := ⟨[], [], []⟩ })].all fun p =>
        (issueReq p.2.1).isSome && code (after (.issueCard 1 p.2.1) p.2.2) == some p.1) = true := by decide +kernel

theorem witness_ConfirmCardMakesTheCardCurrent : { lawful with port := Port.initial }.takes ∧
    (lawful.cred? 0).map (·.st) = some (.encoding 812500120) ∧ lawful.store.Law ∧
    (lawful.cred? 0).bind (·.guest) = some ⟨210, 58, .newStay⟩ ∧ (lawful.room? 210).map (·.stay) = some 57 ∧
    (inHouse.cred? 300).map (·.st) = some .active :=
  ⟨⟨rfl, rfl⟩, by decide +kernel, witness_EveryStepKeepsTheSlotPartition, by decide +kernel⟩

/-- The revocation list full of entries that retire at a moment. -/
def listFull (retireAt : Nat) : State := { inHouse with
  revoc := { inHouse.revoc with
    entries := (List.range 256).map (fun i => ListEntry.mk (1000 + i) none .foreign retireAt 1) } }

theorem witness_CancelSuspendAndResumeACard : inHouse.takes ∧ encodingState.takes ∧
    (encodingState.cred? 412).map (·.st) = some (.encoding 812500120) ∧ (inHouse.cred? 300).map (·.st) = some .active ∧
    inHouse.askRoom.revoc.entries.length < 256 ∧ 256 ≤ (listFull 812600000).askRoom.revoc.entries.length ∧
    ((after (.suspendCard 1 (le16 300)) inHouse).cred? 300).map (·.st) = some (.suspended true 812500000) :=
  ⟨inHouse_takes, encodingState_takes, by decide +kernel⟩

/-- 04:R75, R77, R80, 05:R95: the numbers beside the slots, and a VACANT slot. -/
theorem witness_CancelSuspendAndResumeACard_no_credential :
    ([767, 768, 65535].map fun k =>
      ([.confirmCard 1 (le16 k), .cancelIssue 1 (le16 k), .suspendCard 1 (le16 k), .resumeCard 1 (le16 k),
        .revokeCard 1 (le16 k)] : List Instr).map fun i => code (after i inHouse))
      = [List.replicate 5 (some 0x16), List.replicate 5 (some 0x14), List.replicate 5 (some 0x14)] := by decide +kernel

/-- 05:R94: an entry is past when its retire_at is below the wing seconds; a list below 256 entries is not searched. -/
theorem test_askRoom :
    ([listFull 812499999, listFull 812500000, { listFull 5 with
      revoc := { (listFull 5).revoc with entries := (listFull 5).revoc.entries.drop 1 } }].map fun s =>
        (s.askRoom.revoc.entries.length, s.askRoom.revoc.changes.length, s.askRoom.revoc.gen))
      = [(0, 256, 256), (256, 0, 0), (255, 0, 0)] := by decide +kernel

/-- Room 210 with one guest card in a state, the list full or not. -/
def revocable (st : CredState) (full : Bool) : State :=
  { (if full then listFull 812600000 else inHouse) with store := oneCard 57 st }

theorem witness_RevokeCardFollowsItsCases :
    (∀ full, (revocable .active full).store.Law ∧ (revocable (.suspended true 5) full).store.Law) ∧
    ([revocable .active false, revocable .issued true, revocable (.suspended true 5) false].all fun s =>
      s.part == .running && s.port.service.isNone && (s.cred? 0).any (fun c => c.kind == .guest)) = true ∧
    (revocable .active false).now < 812600000 ∧ ({ inHouse with time := { base.time with secs := 812600000 } }).now = 812600000 ∧
    (revocable .active false).askRoom.revoc.entries.length < 256 ∧ 256 ≤ (revocable .active true).askRoom.revoc.entries.length ∧
    ((revocable .active true).roomOf? 210).map (fun r => (r.stay, r.floor)) = some (57, 57) ∧ base.roomOf? 210 = none ∧
    ((revocable .active false).holder? 7).map (·.number) = some 0 ∧ (revocable .active false).holder? 4294967295 = none ∧
    ((revocable .active true).entry? 1000).isSome = true ∧ (revocable .active false).entry? 4294967295 = none :=
  ⟨fun full => by cases full <;> exact ⟨oneCard_law _ _ rfl, oneCard_law _ _ rfl⟩, by decide +kernel⟩

theorem witness_CardStatusReportsAndPurgeFrees : inHouse.takes ∧ inHouse.cred? 767 = none ∧ (inHouse.cred? 300).isSome = true ∧
    (inHouse.holder? 0x3A11F040).isSome = true ∧ inHouse.holder? 4294967295 = none ∧ 86400 < 4294967296 :=
  ⟨inHouse_takes, by decide +kernel⟩

/-- The change journal full of floors of another room behind a REMOVE, the list one short of full or full. -/
def cacheEdge (entries : Nat) (changes : List Change) (nodes : List Node) : State := { listFull 812600000 with
  nodes := nodes
  revoc := { (listFull 812600000).revoc with
    entries := (listFull 812600000).revoc.entries.take entries
    gen := changes.length
    changes := changes } }

/-- A REMOVE and 511 floors of room 211. -/
def heldChanges : List Change :=
  ⟨1, .remove 5 none⟩ :: (List.range 511).map (fun i => ⟨i + 2, .floor 211 i⟩)

theorem witness_EmittedChangesDropTheOldestAndLimitCaches :
    heldChanges.length = 512 ∧ (cacheEdge 3 [] [door, bar]).addrs.Nodup ∧
    (cacheEdge 255 heldChanges [door]).part = .running ∧ (cacheEdge 255 heldChanges [door]).port.service = none ∧
    (cacheEdge 255 heldChanges [door]).holder? 9 = none ∧ (cacheEdge 255 heldChanges [door]).entry? 9 = none ∧
    (cacheEdge 255 heldChanges [door]).revoc.entries.length < 256 ∧
    ((revocable (.suspended true 5) false).cred? 0).map (·.st) = some (.suspended true 5) ∧
    (({ revocable (.suspended true 5) false with revoc := { inHouse.revoc with
      entries := [⟨7, some 0, .suspended, 812600000, 1⟩] } } : State).entry? 7).isSome = true := by decide +kernel

/-- 05:R102: generation 1 is dropped: a node it still has to reach, one current, one DISABLED, reloads under way from 0
and from 1. -/
theorem test_dropped_change_marks_reloads :
    let s := (cacheEdge 3 heldChanges [door, { door with cursor := ⟨512, 512, 0⟩ }, { door with st := .disabled },
      { door with reload := .sending 0 ⟨true, none, 0, 1⟩ }, { door with reload := .awaiting 1 0 }]).emit (.floor 211 9)
    (s.nodes.map (·.reload), s.revoc.changes.length, s.revoc.changes.head?.map (·.gen), s.revoc.gen)
      = ([.marked, .none, .none, .marked, .awaiting 1 0], 512, some 2, 513) := by decide +kernel

/-- 05:R107: with 255 entries and a REMOVE to deliver, one more entry makes 257 for the first node, 256 for the second. -/
theorem test_cache_limit_restricts :
    let s := after (.revokeSerial 1 (le32 9)) (cacheEdge 255 (heldChanges.take 1) [door, { bar with cursor := ⟨1, 1, 0⟩ }])
    (s.nodes.map (fun n => (n.fallback, n.latchFallback)), s.port.arm.nodeChange)
      = ([(.restricted, true), (.full, false)], false) := by decide +kernel

/-- 05:R107: a DISABLED node that is RESTRICTED, its count falling from 257 to 256 as an entry goes. -/
theorem test_cache_limit_left :
    let s := cacheEdge 256 heldChanges [{ door with st := .disabled, fallback := .restricted }]
    (s.revoc.entries.head?.map (fun e => (s.removeEntry e).nodes.map (·.reload))) = some [.marked] := by decide +kernel

/-- `lawful` with one room record alone. -/
def withRoom (r : Room) : State := { lawful with revoc := { lawful.revoc with rooms := [r] } }

theorem witness_RoomCommandsMoveStayAndFloor : ({ lawful with port := Port.initial } : State).takes ∧
    (lawful.roomOf? 210).map (fun r => (r.stay, r.floor)) = some (57, 57) ∧ lawful.store.Law ∧
    ((withRoom ⟨210, 65535, 65535, [⟨65535, 0⟩], false⟩).roomOf? 210).map
      (fun r => (r.stay, r.floor)) = some (65535, 65535) ∧
    ((withRoom ⟨210, 0, 1, [⟨1, 0⟩], true⟩).roomOf? 210).map (fun r => (r.stay, r.floor)) = some (0, 1) :=
  ⟨⟨rfl, rfl⟩, by decide +kernel, witness_EveryStepKeepsTheSlotPartition, by decide +kernel, by decide +kernel⟩

/-- 05:R90: the points beside the range, and points of no ROOM_ENTRY node. -/
theorem witness_RoomCommandsMoveStayAndFloor_no_room :
    ([1210, 4095, 4096, 65535].map fun p =>
      ([.rekeyRoom 1 (le16 p), .checkout 1 (le16 p), .resequence 1 (le16 p)] : List Instr).map fun i => code (after i inHouse))
      = [List.replicate 3 (some 0x15), List.replicate 3 (some 0x15), List.replicate 3 (some 0x14), List.replicate 3 (some 0x14)] := by
  decide +kernel

/-- Rooms 210 and 220 with lines of both pending, a guest card of 210 current and the next in ENCODING. -/
def departing (balance : Nat) : State := { base with
  nodes := [door, nodeOf 13 220 .roomEntry (some 220) none .online, bar, nodeOf 72 1220 .minibar (some 220) (some 3) .online]
  store := ⟨[guest 0 57 .active 7, guest 1 58 (.encoding 812500120) 8], List.range' 2 766, []⟩
  revoc := { Revoc.initial with
    rooms := [⟨210, 57, 57, [⟨57, 812100000⟩], false⟩, ⟨220, 9, 9, [⟨9, 812100000⟩], false⟩] }
  minibar := ⟨[⟨210, true, balance, 6000, 2250, some 812100000⟩, ⟨220, true, 0, 6000, 450, some 812200000⟩],
    [⟨210, 71, 1, 401, 3, 1350, 812499990, 812500110⟩, ⟨220, 72, 1, 401, 1, 450, 812499991, 812500111⟩,
     ⟨210, 71, 2, 702, 1, 900, 812499992, 812500112⟩]⟩ }

theorem departing_store (balance : Nat) : (departing balance).store.Law where
  ascending := by simp [departing, guest]
  inRange := by simp [departing, guest]
  freeOnce := List.nodup_range'
  freeInRange := by simp only [departing, List.mem_range'_1]; omega
  vacant := by
    simp only [departing, guest, List.mem_range'_1, List.mem_cons, List.not_mem_nil, or_false, forall_eq_or_imp, forall_eq]
    omega
  retiredOnce := by simp [departing]
  retired := by simp [departing, guest, CredState.retiredAt]
  sorted := by simp [departing]

theorem departing_folios : (departing 9998000).FolioLaw where
  nodesAscending := by decide +kernel
  foliosAscending := by decide +kernel
  copies := by decide +kernel
  owners := by decide +kernel
  total := by decide +kernel
  balance := by decide +kernel
  lines := by decide +kernel
  once := by decide +kernel
  sessions := by simp [departing, door, bar, nodeOf, Node.fresh]

theorem witness_RoomCommandsMoveStayAndFloor_open_folio : (departing 9998000).takes ∧
    ((departing 9998000).roomOf? 210).map (fun r => (r.stay, r.floor)) = some (57, 57) ∧ (departing 9998000).store.Law ∧
    (departing 9998000).FolioLaw ∧ ((departing 9998000).folio? 210).map (·.isOpen) = some true ∧
    ((departing 9998000).linesDue 210).map (·.amount) = [1350, 900] ∧
    ((departing 9998000).encodingOf 210).map (·.number) = [1] ∧
    ((departing 9998000).guestsOf 210 (fun stay => decide (stay < 58))).map (·.number) = [0] :=
  ⟨⟨rfl, rfl⟩, by decide +kernel, departing_store _, departing_folios, by decide +kernel⟩

/-- 08:R158, R162, 04:R79, 05:R91: the lines of room 210 committed in pool order, the second stopping at the limit. -/
theorem test_checkout_commits_the_lines_of_its_folio :
    let u := after (.checkout 1 (le16 210)) (departing 9998000)
    (u.minibar.folios, u.minibar.pool.map (·.folio), u.journal.recs.map (fun r => (r.entry.kind, r.entry.amount)))
      = ([⟨210, false, 9999999, 6000, 0, some 812100000⟩, ⟨220, true, 0, 6000, 450, some 812200000⟩], [220],
         [(.cardLapsed, none), (.cardRevoked, none), (.minibarCharge, some 1350), (.minibarCharge, some 900),
          (.stayCheckout, some 9999999)]) ∧
    u.port.sending = some (.reply 0x2D 1 ([0] ++ le32 9999999 ++ le16 57 ++ le16 58)) := by decide +kernel

theorem witness_ConfirmCardMakesTheCardCurrent_open_folio : (departing 1250).takes ∧ (departing 1250).store.Law ∧
    ((departing 1250).cred? 1).map (·.st) = some (.encoding 812500120) ∧
    ((departing 1250).cred? 1).bind (·.guest) = some ⟨210, 58, .newStay⟩ ∧
    ((departing 1250).room? 210).map (fun r => (r.stay, r.floor)) = some (57, 57) :=
  ⟨⟨rfl, rfl⟩, departing_store _, by decide +kernel⟩

/-- 08:R161, 04:R76: the OPEN folio is checked out before its reopening; with a default ceiling of 0 it is held. -/
theorem test_confirmCard_checks_the_open_folio_out :
    let s := departing 1250
    let u := after (.confirmCard 1 (le16 1)) { s with
      loader := { s.loader with settings := { s.loader.settings with defaultCeiling := 0 } } }
    (u.minibar.folios, u.minibar.pool.map (·.folio), u.journal.recs.map (fun r => (r.entry.kind, r.entry.amount)))
      = ([⟨210, true, 0, 0, 0, some 812500000⟩, ⟨220, true, 0, 6000, 450, some 812200000⟩], [220],
         [(.cardConfirmed, none), (.cardRevoked, none), (.minibarCharge, some 1350), (.minibarCharge, some 900),
          (.stayCheckout, some 3500), (.folioHeld, some 0)]) ∧
    ((u.cred? 0).map (·.st), (u.cred? 1).map (·.st)) = (some (.revoked 812500000 .superseded), some .issued) := by
  decide +kernel

/-- The list full, room 210 with a guest card, another and one in ENCODING, beside a card of room 220. -/
def crowded (stay floor : Nat) : State := { departing 1250 with
  store := { (departing 1250).store with recs := (departing 1250).store.recs ++ [guest 2 57 .issued 9,
    { guest 3 9 .issued 10 with guest := some ⟨220, 9, .newStay⟩ }], free := List.range' 4 764 }
  revoc := { (listFull 812600000).revoc with
    rooms := [⟨210, stay, floor, [⟨floor, 812100000⟩], false⟩, ⟨220, 9, 9, [⟨9, 812100000⟩], false⟩] } }

theorem witness_RevokeCardFollowsItsCases_rekey : (crowded 57 57).takes ∧ 256 ≤ (crowded 57 57).askRoom.revoc.entries.length ∧
    (crowded 57 57).now < 812600000 ∧ ((crowded 57 57).cred? 0).map (fun c => (c.st, c.kind)) = some (.active, .guest) ∧
    ((crowded 57 57).roomOf? 210).map (fun r => (r.stay, r.floor)) = some (57, 57) ∧
    ((crowded 57 58).roomOf? 210).map (fun r => (r.stay, r.floor)) = some (57, 58) :=
  ⟨⟨rfl, rfl⟩, by decide +kernel⟩

/-- 05:R96, R90, 04:R79: the rekey ends the room's cards and encoding, tells the floor and moves the room; with the floor
there already it ends the encoding alone (log 42). -/
theorem test_revokeCard_rekeys_the_room :
    (([57, 58].map fun floor =>
      let u := after (.revokeCard 1 (le16 0)) (crowded 57 floor)
      (code u, u.store.recs.map (fun c => c.st), (u.room? 210).map (fun r => (r.stay, r.floor))))
      = [(some 0x02, [.revoked 812500000 .rekeyed, .revoked 812500000 .rekeyed, .issued], some (58, 58)),
         (some 0x02, [.active, .issued, .issued], some (58, 58))]) ∧
    ([57, 58].map fun floor =>
      let u := after (.revokeCard 1 (le16 0)) (crowded 57 floor)
      (u.revoc.changes.map (·.body), u.journal.recs.map (fun r => (r.entry.kind, r.entry.cred))))
      = [([.floor 210 58], [(.cardLapsed, some 1), (.cardRevoked, some 0), (.cardRevoked, some 2), (.roomRekeyed, none)]),
         ([], [(.cardLapsed, some 1), (.roomRekeyed, none)])] := by decide +kernel

/-- LOADING with rooms 210 and 220, their minibars, lines and encodings retained; one line and one encoding are due. -/
def starting : State := { departing 1250 with
  part := .loading
  lines := LineEngine.initial
  nodes := (departing 1250).nodes.map (fun n => { n with st := .absent })
  store := ⟨[guest 0 57 .active 7, guest 1 58 (.encoding 812500001) 8, guest 2 58 (.encoding 812500000) 9,
    { guest 3 10 (.encoding 812500120) 10 with guest := some ⟨220, 10, .newStay⟩ }], List.range' 4 764, []⟩
  minibar := { (departing 1250).minibar with
    pool := [⟨210, 71, 1, 401, 3, 1350, 812499880, 812500000⟩, ⟨220, 72, 1, 401, 1, 450, 812499991, 812500111⟩,
      ⟨210, 71, 2, 702, 1, 900, 812499881, 812500001⟩] } }

/-- An order of the start in which the part enters RUNNING first, and one in which it does last. -/
def startOrders : List (List StartActor) :=
  [[.entry, .lineB, .charges, .lineA, .tables, .orphans, .lapses, .notice],
   [.lapses, .notice, .tables, .lineA, .charges, .orphans, .lineB, .entry]]

/-- The image of `inHouse` enrols room 210 alone. -/
def started : List State := startOrders.map fun order => starting.loadComplete order (some inHouse.runningImage) none

theorem witness_LoadedPartReachesRunning_leaving : starting.part = .loading ∧ starting.lines.round = none ∧
    (starting.nodes.all fun n => n.st == .absent) = true ∧ (starting.nodes.map (·.addr)) = [12, 13, 71, 72] := by decide +kernel

/-- 02:R42, 04:R86, 08:R148, R166: what stands of room 210 and goes with room 220. -/
theorem test_start_keeps_what_is_not_due :
    (started.map fun t => (t.store.recs.map (fun c => c.number), t.store.free.drop 764, t.minibar.pool.map (fun l => l.comp)))
      = [([0, 1], [3, 2], [2]), ([0, 1], [2, 3], [2])] ∧
    (started.map fun t => (t.minibar.folios.map (fun f => (f.point, f.balance)), t.revoc.rooms.map (·.point)))
      = List.replicate 2 ([(210, 2600)], [210]) := by decide +kernel

/-- 01:R3, R23, 10:R188, R189: the records of the start, and its notices. -/
theorem test_start_records_and_notices :
    (started.map fun t => t.journal.recs.map (fun r => (r.entry.kind, r.entry.detail1, r.entry.amount)))
      = [[(.lineState, some (.line .b), none), (.minibarCharge, none, some 1350), (.lineState, some (.line .a), none),
          (.minibarCharge, none, some 450), (.cardLapsed, some (.cause .lapsed), none), (.cardLapsed, some (.cause .lapsed), none)],
         [(.cardLapsed, some (.cause .lapsed), none), (.minibarCharge, none, some 450), (.lineState, some (.line .a), none),
          (.minibarCharge, none, some 1350), (.cardLapsed, some (.cause .lapsed), none), (.lineState, some (.line .b), none)]] ∧
    (started.map fun t => (t.port.frames, t.port.arm.lineChange))
      = [([.notice 0x63 [0, 1], .notice 0x60 [0]], false), ([.notice 0x60 [0]], true)] := by decide +kernel

theorem witness_MinibarCommandsActOnTheirFolio : charged.takes ∧ (charged.node? 71).map (fun n => (n.enrol.cls, n.enrol.comps,
      n.comps.length)) = some (.minibar, some 3, 3) ∧ (charged.lineFor? 71 1).isSome = true ∧ charged.lineFor? 71 3 = none ∧
    (15 : Byte).toNat ≤ 15 ∧ (charged.folio? 210).map (·.isOpen) = some true ∧
    ((after (.checkout 1 (le16 210)) inHouse).folio? 210).map (·.isOpen) = some false ∧ 9999999 < 10000000 :=
  ⟨charged_takes, by decide +kernel⟩

theorem witness_JournalReadsAndAcknowledges : wrapped.takes ∧ wrapped.journal.Law ∧
    wrapped.journal.recs.head?.map (·.seq) = some 4294967295 ∧ sub32 wrapped.journal.next 4294967295 = 2 ∧
    sub32 wrapped.journal.next 0 = 1 ∧ sub32 wrapped.journal.next 1 = 0 ∧ sub32 wrapped.journal.next 4294967294 = 3 ∧
    sub32 wrapped.journal.next 2147483649 = 2147483648 ∧ sub32 wrapped.journal.next 2147483648 = 2147483649 ∧
    (List.replicate 2048 (⟨0, 0, { kind := .coldStart }, none⟩ : Rec)).length = 2048 :=
  ⟨⟨rfl, rfl⟩, ⟨by decide +kernel, by decide +kernel, by decide +kernel, by simp [wrapped, numbered, sub32]⟩, by decide +kernel⟩

/-- 09:R176: an append that leaves 63 unacknowledged records, and one that leaves the threshold of 64. -/
theorem test_append_raises_journal_waiting :
    ([62, 63].map fun k => (({ base with
      journal := ⟨List.replicate k (⟨0, 0, { kind := .coldStart }, none⟩ : Rec), 0, k⟩ } : State).append { kind := .coldStart }).port.frames)
      = [[], [.notice 0x61 [64, 0, 64, 0, 0, 0]]] := by decide +kernel

theorem witness_JournalReadsAndAcknowledges_empty : base.takes ∧ base.journal.recs = [] ∧ base.journal.Law ∧
    sub32 base.journal.next 4294967295 = 1 ∧ sub32 base.journal.next 0 = 0 ∧ sub32 base.journal.next 1 = 4294967295 :=
  ⟨base_takes, rfl, ⟨by decide +kernel, by decide +kernel, by decide +kernel, by simp [base, numbered]⟩, by decide +kernel⟩

/-- A presentation of credential 300 with its check code. -/
def presented : Presentation :=
  ⟨21, 0x3A11F040, 300, 57, BitVec.ofNat 32 (checkCode inHouse.settings.currentKey (guest 300 57 .active 0x3A11F040).body)⟩

theorem witness_GrantsPassEveryStage : (inHouse.node? 12).isSome = true ∧
    (inHouse.evaluate door presented inHouse.now) = ⟨true, .none, none⟩ ∧
    (inHouse.evaluate bar presented inHouse.now) = ⟨true, .none, some .guest⟩ ∧
    (inHouse.evaluate door { presented with code := 0 } inHouse.now).reason = .checkFailed ∧
    queueFull.lines.urgent.length = 32 := by decide +kernel

/-- `inHouse` with the card of credential 300 changed, and its presentation. -/
def deniedCard (f : Cred → Cred) : State × Node × Presentation :=
  let c := f (guest 300 57 .active 0x3A11F040)
  ({ inHouse with store := ⟨[c], [], []⟩ }, door,
    { presented with code := BitVec.ofNat 32 (checkCode inHouse.settings.currentKey c.body) })

/-- Each stage of 06 Table 6.1 is the first that fails somewhere. -/
theorem witness_GrantsPassEveryStage_denials :
    ([(deniedCard (fun c => { c with serial := 5 }), Reason.unknownCard),
      (deniedCard (fun c => { c with st := .encoding 5 }), .notConfirmed),
      (deniedCard (fun c => { c with st := .suspended true 5 }), .suspended),
      (deniedCard (fun c => { c with st := .revoked 5 .rekeyed }), .revoked),
      (deniedCard (fun c => { c with st := .expired 5 }), .expired),
      (deniedCard (fun c => { c with validStart := 812500001 }), .notYetValid),
      (deniedCard (fun c => { c with validEnd := 812499999 }), .expired),
      (({ inHouse with revoc := Revoc.initial }, door, presented), .superseded),
      (deniedCard (fun c => { c with schedule := some ⟨0, 1⟩ }), .outsideSchedule),
      (deniedCard (fun c => { c with image1 := ⟨0, 0, 1⟩ }), .noAccess),
      ((inHouse, { door with enrol := { door.enrol with oos := true } }, presented), .outOfService),
      ((inHouse, { door with enrol := { door.enrol with hours := some ⟨0, 1⟩ } }, presented), .afterHours),
      ((inHouse, { door with status := some { quiet with privacy := true } }, presented), .privacy),
      (({ inHouse with minibar := ⟨[], []⟩ }, bar, presented), .noFolio),
      (({ inHouse with minibar := ⟨[⟨210, true, 6000, 6000, 0, none⟩], []⟩ }, bar, presented), .creditHeld)].all fun q =>
        q.1.1.evaluate q.1.2.1 q.1.2.2 inHouse.now == ⟨false, q.2, none⟩) = true := by decide +kernel

/-- Node 12 with an upload and an OPEN permit. -/
def uploading (k : Nat) : State := { inHouse with
  nodes := [{ door with upload := some ⟨5259200, 812604770, 0, some ⟨5000000, 812345600, 259200, 259170⟩, false⟩
                        permit := .opened k }, bar] }

theorem witness_OfflineRecordsAreTakenAndMarked :
    ((uploading 1).node? 12).map (·.permit) = some (.opened (0 + 1)) ∧ ((uploading 16).node? 12).map (·.permit) = some (.opened (15 + 1)) ∧
    ((uploading 1).node? 12).any (fun n => n.upload.isSome) = true ∧ (inHouse.node? 12).map (·.upload) = some none := by
  decide +kernel

/-- 07:R142: node 12 granted a card that has never been confirmed. -/
theorem test_offline_conflict_raises_the_alarm :
    let s := { uploading 5 with store := ⟨[guest 300 57 (.encoding 812600000) 7], [], []⟩ }.offlineRecord 12
      ⟨5086400, 7, 300, 57, BitVec.ofNat 32 (crc32 ((guest 300 57 (.encoding 812600000) 7).body ++ inHouse.settings.currentKey)),
        true, .none⟩
    (s.journal.recs.map (fun r => r.entry.mark), s.port.arm.alarm, s.port.frames) = ([.conflict], false, [.notice 0x64 []]) := by
  decide +kernel

/-- A record of the card of credential 300 with its serial and check code, the card changed. -/
def recordOf (f : Cred → Cred) : State × OfflineRecord :=
  let c := f (guest 300 57 .active 0x3A11F040)
  ({ inHouse with store := ⟨[c], [], []⟩ },
    ⟨0, BitVec.ofNat 32 c.serial, 300, 57, BitVec.ofNat 32 (crc32 (c.body ++ inHouse.settings.currentKey)), true, .none⟩)

/-- The judgement of such a record at node 12. -/
def judgedAt (t : Nat) (f : Cred → Cred) (g : State → State) : Judgement :=
  (g (recordOf f).1).judgeRecord door (recordOf f).2 t

/-- 07 Table 7.2: each stage is the first that fails somewhere, on both sides of its moment. -/
theorem witness_OfflineRecordsAreTakenAndMarked_stages :
    let card (t : Nat) (f : Cred → Cred) : Judgement := judgedAt t f id
    (card 812100000 id, card 811999999 id, card 812100000 (fun c => { c with st := .encoding 5 }))
      = (.grant, .deny .notConfirmed, .deny .notConfirmed) ∧
    (card 812300000 (fun c => { c with st := .suspended true 812300000 }), card 812299999 (fun c =>
      { c with st := .suspended true 812300000 })) = (.deny .suspended, .grant) ∧
    (card 812300000 (fun c => { c with st := .revoked 812300000 .rekeyed }), card 812299999 (fun c =>
      { c with st := .revoked 812300000 .rekeyed })) = (.deny .revoked, .grant) ∧
    (card 812600000 (fun c => { c with st := .expired 812600000 }), card 812600001 (fun c =>
      { c with st := .expired 812600000 })) = (.grant, .deny .expired) ∧
    (card 812200000 (fun c => { c with validStart := 812200001 }), card 812200000 (fun c =>
      { c with schedule := some ⟨0, 1⟩ }), card 812200000 (fun c => { c with image1 := ⟨0, 0, 1⟩ }))
      = (.deny .notYetValid, .deny .outsideSchedule, .deny .noAccess) ∧
    ((inHouse.judgeRecord { door with enrol := { door.enrol with oos := true } } (recordOf id).2 812200000,
      inHouse.judgeRecord { door with enrol := { door.enrol with hours := some ⟨0, 1⟩ } } (recordOf id).2 812200000,
      inHouse.judgeRecord { door with status := some { quiet with privacy := true } } (recordOf id).2 812200000)
      = (.deny .outOfService, .deny .afterHours, .grant)) := by decide +kernel

/-- 07:R140, R141: the floor at a moment, and the definite failures. -/
theorem witness_OfflineRecordsAreTakenAndMarked_histories :
    let room (h : List FloorItem) (first : Bool) (s : State) : State :=
      { s with revoc := { s.revoc with rooms := [⟨210, 58, 58, h, first⟩] } }
    let history : List FloorItem := [⟨58, 812300000⟩, ⟨57, 812200000⟩]
    ([812299999, 812300000, 812199999].map fun t => judgedAt t id (room history false)) = [.grant, .deny .superseded, .undecided] ∧
    judgedAt 812199999 id (room history true) = .grant ∧
    judgedAt 812199999 (fun c => { c with schedule := some ⟨0, 1⟩ }) (room history false) = .deny .outsideSchedule ∧
    judgedAt 812200000 id (fun s => { s with revoc := Revoc.initial }) = .deny .superseded ∧
    ([{ (recordOf id).2 with cred := 768 }, { (recordOf id).2 with serial := 5 }, { (recordOf id).2 with stay := 58 },
      { (recordOf id).2 with code := 0 }].map fun r => inHouse.judgeRecord door r 0)
      = [.deny .unknownCard, .deny .unknownCard, .deny .checkFailed, .deny .checkFailed] ∧
    { inHouse with revoc := { inHouse.revoc with entries := [⟨5, none, .foreign, 0, 1⟩] } }.judgeRecord door
      { (recordOf id).2 with serial := 5 } 0 = .deny .revoked := by decide +kernel

/-- Node 12 remembering 28, denied, and 27, granted, neither reported (06 Table 6.6). -/
def remembering : State := { inHouse with nodes := [{ door with
  memory := [⟨28, some 455, 9, 812499990, false, .revoked, false⟩, ⟨27, some 412, 5, 812499980, true, .none, false⟩] }, bar] }

theorem witness_OfflineRecordsAreTakenAndMarked_decisions :
    (remembering.node? 12).map (fun n => n.memory.map (fun e => (e.pres, e.reported))) = some [(28, false), (27, false)] ∧
    ((remembering.item 12 (.localDecision 28 true)).node? 12).map (fun n => n.memory.map (fun e => (e.pres, e.reported)))
      = some [(28, true), (27, false)] ∧ (base.port.sending = none → base.port.waiting = []) := by decide +kernel

/-- 06 Table 6.6, rounds 63 and 2 to 4, and 06:R128. -/
theorem test_local_decisions_and_alarms :
    ([Item.localDecision 27 true, .localDecision 28 true, .localDecision 9 false, .localDecision 9 true, .forcedOpen,
      .heldOpen].map fun i =>
        ((remembering.item 12 i).journal.recs.map (fun r => (r.entry.kind, r.secs, r.entry.mark)),
          (remembering.item 12 i).port.arm.alarm))
      = [([(.localAdmit, 812499980, .none)], true), ([(.localAdmit, 812499990, .conflict)], false),
         ([(.localAdmit, 812500000, .none)], true), ([(.localAdmit, 812500000, .ambiguous)], true),
         ([(.forcedOpen, 812500000, .none)], false), ([(.heldOpen, 812500000, .none)], false)] := by decide +kernel

theorem witness_ClockArithmeticRoundsAsStated : 0 < 98304 ∧ 2 ≤ Clock.initial.s ∧ Clock.initial.failed ≤ 255 ∧
    Clock.initial.samples ≤ 255 ∧ 2000 < (2001 : Int).natAbs ∧ (-2000 : Int).natAbs ≤ 2000 := by decide +kernel

/-- 03:R61 with d = 0 and s = 4,000: the last stamp of the span and those beside it, the limit W1, the uncertainty's limit. -/
theorem witness_ClockArithmeticRoundsAsStated_reconstruction :
    let a : UploadAnchor := ⟨4294967290, 4294967200, 16302000, 16301999⟩
    let at_ (n : Nat) : RecordTime := reconstruct 0 4000 7 a ((a.s0 + n) % 4294967296)
    (at_ 0, at_ 16301740, at_ 16301999, at_ 16302000, at_ 16302001)
      = (.reconstructed 4294967200 2 7, .reconstructed 16301644 65535 7, .reconstructed 16301903 65535 7,
         .reconstructed 7 65535 7, .unreliable 7) ∧
    at_ 4294967295 = .unreliable 7 := by decide +kernel

/-- 03:R60 with d = 0 and s = 15: allowance 275 at the span's limit of 7,776,000. -/
theorem witness_ClockArithmeticRoundsAsStated_upload_check :
    let c : Clock := { Clock.initial with d := 0, s := 15, anchor := some ⟨5, 4294967290, 3⟩ }
    let fails (c : Clock) (n e epoch : Nat) : Bool := c.uploadFails ((5 + n) % 4294967296) ((4294967290 + e) % 4294967296) epoch
    (fails c 7776000 7776000 3, fails c 7776001 7776001 3, fails c 7776335 7776000 3, fails c 7776336 7776000 3,
      fails c 7775665 7776000 3, fails c 7775664 7776000 3) = (false, true, false, true, false, true) ∧
    (fails c 7776000 7776000 4, fails { c with suspect := true } 7776000 7776000 3, fails { c with anchor := none } 0 0 3)
      = (true, true, true) := by decide +kernel

end Sys2Proof.Machine.Tests
end

/-! SUPPORT. SET_TIME (03:R48): the step of wing time said once, field by field, the header a round start gives, and the
upload check of an anchor whose epoch has passed. -/

namespace Sys2Proof.Machine

open Sys2Proof

/-! ### The body of SET_TIME -/

theorem u32At_le32 {v : Nat} (h : v < 4294967296) : u32At (le32 v) 0 = v := by
  have parts := u32_parts (BitVec.ofNat 32 v)
  rwa [BitVec.toNat_ofNat, Nat.mod_eq_of_lt h] at parts

/-! ### The step of wing time -/

@[simp] theorem State.stepTime_time (v : Nat) (s : State) :
    (s.stepTime v).time = { s.time with secs := v, epoch := (s.time.epoch + 1) % 65536, isSet := true } := by
  simp [State.stepTime]

@[simp] theorem State.stepTime_part (v : Nat) (s : State) : (s.stepTime v).part = s.part := by simp [State.stepTime]

/-- The record stands at the new value and carries the old one. -/
theorem State.stepTime_journal (v : Nat) (s : State) :
    (s.stepTime v).journal
      = s.journal.push v { kind := .timeStep, quality := .exact, secs := some v, value1 := some s.time.secs } := by
  simp [State.stepTime, State.now]

theorem State.stepTime_nodes (v : Nat) (s : State) :
    (s.stepTime v).nodes = s.nodes.map (fun n => { n with latchFallback := true }) := by
  simp [State.stepTime, State.latchFallbackAll]

theorem State.stepTime_port (v : Nat) (s : State) : Port.noticesOnly s.port (s.stepTime v).port := by
  rw [State.stepTime, State.latchFallbackAll_port]
  exact (State.append_quiet_of _ _ rfl).only

/-- An append changes the journal, and the port by the notice it may raise. -/
theorem State.append_frame (s : State) (e : Entry) :
    s.append e = { s with journal := (s.append e).journal, port := (s.append e).port } := by
  unfold State.append State.raise
  dsimp only
  split
  · split <;> rfl
  · rfl

theorem State.stepTime_frame (v : Nat) (s : State) :
    s.stepTime v = { s with
      time := (s.stepTime v).time, journal := (s.stepTime v).journal, nodes := (s.stepTime v).nodes
      port := (s.stepTime v).port } := by
  rw [State.stepTime, State.append_frame]
  rfl

/-- SET_TIME in RUNNING is a step of wing time, answered OK. -/
theorem exec_setTime {s : State} (h : s.takes) (tag : Byte) {v : Nat} (hv : v < 4294967296) :
    exec (.setTime tag (le32 v)) s = .next ((s.stepTime v).answer 0x08 tag false (.plain .ok)) := by
  have served := State.command_served s 0x08 tag (le32 v).length (· == 4) (serveSetTime (le32 v)) [] h rfl
  simp only [serveSetTime, u32At_le32 hv] at served
  exact congrArg Host.Outcome.next served

/-! ### The header of a round start (03:R45) -/

@[simp] theorem State.toMark_secs (s : State) : s.toMark.time.secs = s.time.secs := by
  unfold State.toMark; (repeat' split) <;> simp
@[simp] theorem State.toMark_isSet (s : State) : s.toMark.time.isSet = s.time.isSet := by
  unfold State.toMark; (repeat' split) <;> simp

@[simp] theorem State.beginRoundStart_time (s : State) : s.beginRoundStart.time = s.toMark.time := by
  simp [State.beginRoundStart]

/-- A round start as far as the new round. -/
def State.beforeNewRound (s : State) : State :=
  let t := (s.beginRoundStart.tallyEnd.trainingEnd .a).trainingEnd .b
  ((t.forEach t.addrs (State.spanStep t.lengthChanges)).nodesStep).ageOut

theorem State.roundStart_eq (s : State) : s.roundStart = s.beforeNewRound.newRound := rfl

@[simp] theorem State.beforeNewRound_time (s : State) : s.beforeNewRound.time = s.toMark.time := by
  simp [State.beforeNewRound, State.forEach, State.foldl_frame (·.time)]

theorem State.newRound_header (s : State) : ∃ r : Round, s.newRound.lines.round = some r ∧ r.secs = s.time.secs ∧
    r.timeUnset = !s.time.isSet := ⟨_, rfl, rfl, rfl⟩

/-- Nothing of a round start before the new round changes wing seconds or the time-set flag. -/
theorem State.roundStart_header (s : State) : ∃ r : Round, s.roundStart.lines.round = some r ∧ r.secs = s.time.secs ∧
    r.timeUnset = !s.time.isSet := by
  have header := s.beforeNewRound.newRound_header
  rwa [← State.roundStart_eq, State.beforeNewRound_time, State.toMark_secs, State.toMark_isSet] at header

theorem exec_roundStart_header {w : State} (h : w.part = .running) : ∃ (t : State) (r : Round),
    exec .roundStart w = .next t ∧ t.lines.round = some r ∧ r.secs = w.time.secs ∧ r.timeUnset = !w.time.isSet := by
  obtain ⟨r, hr⟩ := w.roundStart_header
  have run : exec .roundStart w = .next w.roundStart := by
    change execRoundStart w = _
    rw [execRoundStart, h]
  exact ⟨w.roundStart, r, run, hr⟩

/-! ### An anchor of another epoch (03:R60, 07:R138) -/

theorem Clock.uploadFails_of_epoch {c : Clock} {x : Anchor} {epoch : Nat} (h : c.anchor = some x) (he : x.epoch ≠ epoch)
    (s1 w1 : Nat) : c.uploadFails s1 w1 epoch = true := by
  simp [Clock.uploadFails, h, he]

/-- Every record of an upload that failed its check stands UNRELIABLE at its mark. -/
theorem Upload.timeOf_disc {u : Upload} (h : u.disc = true) (c : Clock) (stamp : Nat) :
    u.timeOf c stamp = .unreliable u.w1 := by
  simp [Upload.timeOf, h]

theorem Clock.takeMark_of_epoch {c : Clock} {x : Anchor} {epoch : Nat} (h : c.anchor = some x) (he : x.epoch ≠ epoch)
    (s1 w1 : Nat) : (c.takeMark s1 w1 epoch).disc = true ∧
      ∀ stamp, (c.takeMark s1 w1 epoch).timeOf c stamp = .unreliable w1 := by
  have disc : (c.takeMark s1 w1 epoch).disc = true := Clock.uploadFails_of_epoch h he s1 w1
  exact ⟨disc, fun stamp => Upload.timeOf_disc disc c stamp⟩

/-! ### SET_TIME, whole -/

/-- Settles O31: the state before the answer is `s.stepTime v`, and a round start on either side of the command reads the
time of its own state. -/
theorem setTimeStepsWingTime : Obligations.SetTimeStepsWingTime := by
  unfold Obligations.SetTimeStepsWingTime
  intro tag v s takes hv header
  have after : header ((s.stepTime v).answer 0x08 tag false (.plain .ok)) v false := by
    obtain ⟨t, r, run, round, secs, unset⟩ := exec_roundStart_header
      (w := (s.stepTime v).answer 0x08 tag false (.plain .ok)) (by simpa using takes.1)
    exact ⟨t, r, run, round, by simpa using secs, by simpa using unset⟩
  refine ⟨exec_roundStart_header takes.1, s.stepTime v, after, exec_setTime takes tag hv, s.stepTime_time v,
    s.stepTime_journal v, s.stepTime_nodes v, ?_, s.stepTime_port v, s.stepTime_frame v⟩
  intro n _ x s1 w1 anchored old small
  have passed : x.epoch ≠ (s.stepTime v).time.epoch := by
    rw [old, State.stepTime_time]; dsimp only; omega
  exact Clock.takeMark_of_epoch anchored passed s1 w1

end Sys2Proof.Machine

/-! SUPPORT. PING (10:R190): the dispatch of a command in any part state that serves its kind (10:R178, R183, R185), and
what it gives for a command served in every state in which the line is on. -/

namespace Sys2Proof.Machine

open Sys2Proof

/-! ### The dispatch of a command in any part state -/

theorem State.lineOff_iff (s : State) : s.lineOff = true ↔ s.part = .retention ∨ s.part = .held := by
  cases hp : s.part <;> simp [State.lineOff, hp]

/-- A part state that serves some command has its line on. -/
theorem State.lineOff_of_servedIn {s : State} {kind : Byte} (h : servedIn s.part kind = true) : s.lineOff = false := by
  rw [Bool.eq_false_iff, Ne, State.lineOff_iff]
  rintro (off | off) <;> simp [off, servedIn] at h

theorem servedIn_ping {p : PartState} (hr : p ≠ .retention) (hh : p ≠ .held) : servedIn p 0x01 = true := by
  cases p with
  | retention => exact absurd rfl hr
  | held => exact absurd rfl hh
  | loading | unconfigured | running => rfl

section Dispatch

variable {s : State} {kind : Byte} {len : Nat} {lenOk : Nat → Bool} (tag : Byte) (serve : State → State × Reply)
  (rearms : List NoticeKind)

theorem State.command_of_lineOff (off : s.lineOff = true) : s.command kind tag len lenOk serve rearms = s := by
  simp [State.command, off]

/-- `State.command_served` for every part state that serves the kind. -/
theorem State.command_of_servedIn (served : servedIn s.part kind = true) (idle : s.port.service = none)
    (fits : lenOk len = true) :
    s.command kind tag len lenOk serve rearms
      = ((serve s).1.rearmIf (serve s).2.status.success rearms).answer kind tag
          (kind == 0x06 && (serve s).2.status.success) (serve s).2 := by
  simp [State.command, State.lineOff_of_servedIn served, idle, served, fits]

/-- `State.command_badLength` for every part state that serves the kind. -/
theorem State.command_badLength_of_servedIn (served : servedIn s.part kind = true) (idle : s.port.service = none)
    (misfit : lenOk len = false) :
    s.command kind tag len lenOk serve rearms = s.answer kind tag false (.plain .badLength) := by
  simp [State.command, State.lineOff_of_servedIn served, idle, served, misfit]

end Dispatch

/-! ### PING in each part state -/

theorem exec_ping (tag : Byte) (body : List Byte) (s : State) :
    exec (.ping tag body) s = .next (s.command 0x01 tag body.length (· ≤ 16) (servePing body) []) := rfl

/-- A PING served is answered OK with its body and the part state byte; its block changes nothing and re-arms nothing. -/
theorem exec_ping_served {s : State} (tag : Byte) {body : List Byte} (hr : s.part ≠ .retention) (hh : s.part ≠ .held)
    (idle : s.port.service = none) (fits : body.length ≤ 16) :
    exec (.ping tag body) s = .next (s.answer 0x01 tag false ⟨.ok, body ++ [byteOf s.part.code]⟩) := by
  rw [exec_ping, State.command_of_servedIn tag _ _ (servedIn_ping hr hh) idle (by simpa using fits)]
  rfl

/-- Settles O29: the part state decides whether PING is served, and the body's length which of the two answers it has. -/
theorem pingEchoesItsBody : Obligations.PingEchoesItsBody := by
  unfold Obligations.PingEchoesItsBody
  intro tag body s
  constructor
  · intro off
    rw [exec_ping, State.command_of_lineOff tag _ _ (s.lineOff_iff.mpr off)]
  · intro idle
    constructor
    · intro fits
      have served (hr : s.part ≠ .retention) (hh : s.part ≠ .held) := exec_ping_served tag hr hh idle fits
      refine ⟨fun hp => ?_, fun hp => ?_, fun hp => ?_⟩ <;>
        simpa [hp, PartState.code, byteOf] using served
    · intro long hr hh
      rw [exec_ping, State.command_badLength_of_servedIn tag _ _ (servedIn_ping hr hh) idle (by simpa using long)]

end Sys2Proof.Machine

/-! SUPPORT. What a step can do to the state, said once: the edits that every operation of the model is made of, and the
relation of one state evolving into another by such edits. The laws of the spec are then shown edit by edit. -/

namespace Sys2Proof.Machine

open Sys2Proof

/-! ### What an edit may leave -/

/-- What some operations may do and others may not: act on the receive machine and the command in service (`link`), change
the state of a line in RUNNING (`turns`), begin the training of the lines at a start (`starts`), make a card current or
list a serial (`cards`). -/
structure Rights where
  link : Prop
  turns : Prop
  starts : Prop
  cards : Prop

/-- A port in which at most notices were made ready, with the law of the frames and their number kept. -/
structure PortNoticed (p q : Port) : Prop where
  notices : Port.noticesOnly p q
  law : p.Law → q.Law
  rejects : (p.waiting.filter OutFrame.isReject).length ≤ 4 → (q.waiting.filter OutFrame.isReject).length ≤ 4

/-- What an edit of a node record keeps, in the node table of `s`. -/
structure NodeKept (s : State) (n m : Node) : Prop where
  addr : m.addr = n.addr
  comps : m.comps.length = n.comps.length
  memory : n.memory.length ≤ 2 → m.memory.length ≤ 2
  answering : m.st.answering = true → s.service = true ∨ ∃ k ∈ s.nodes, k.st.answering = true
  clock : s.ClockLaw → m.clock.InRange
  enrol : n.copy = n.enrol.copy → m.enrol.copy = n.enrol.copy
  copy : m.copy = n.copy
  session : ∀ x, m.session = some x → x.mode = .guest →
    n.session = some x ∨ ∃ f ∈ s.minibar.folios, x.folio = some f.point ∧ f.isOpen = true

/-- What an edit of the line engine keeps: the states of the lines, the capacities, and outside RUNNING what is empty. A
round is the one in progress with no more windows, or a new one in RUNNING. -/
structure LinesKept (s : State) (l : LineEngine) : Prop where
  lineA : l.lineA.st = s.lines.lineA.st
  lineB : l.lineB.st = s.lines.lineB.st
  urgent : s.lines.urgent.length ≤ 32 → l.urgent.length ≤ 32
  noUrgent : s.part ≠ .running → s.lines.urgent = [] → l.urgent = []
  repeats : s.lines.repeats.length ≤ 8 → l.repeats.length ≤ 8
  noRepeats : s.part ≠ .running → s.lines.repeats = [] → l.repeats = []
  round : ∀ r, l.round = some r →
    (∃ q, s.lines.round = some q ∧ r.segment = q.segment ∧ (r.windows.map Window.addr).Sublist (q.windows.map Window.addr)) ∨
    (s.part = .running ∧ r.segment.length ≤ 8 ∧
      (s.nodes.Pairwise (fun m n => m.addr < n.addr) → r.windows.Pairwise (fun v w => v.addr < w.addr)))

/-- No credential becomes current and none gains ISSUED or ACTIVE: each current one was so before with its number and
serial. -/
def RecsFall (rs ts : List Cred) : Prop :=
  ∀ d ∈ ts, d.st.current = true → ∃ c ∈ rs, c.number = d.number ∧ c.serial = d.serial ∧ c.st.current = true ∧
    (d.st = .issued ∨ d.st = .active → c.st = .issued ∨ c.st = .active)

/-- No serial is added to the list, and none comes to be held twice. -/
def EntriesFall (es fs : List ListEntry) : Prop :=
  (es.Pairwise (fun e f => e.serial ≠ f.serial) → fs.Pairwise (fun e f => e.serial ≠ f.serial)) ∧
    ∀ f ∈ fs, ∃ e ∈ es, e.serial = f.serial

/-- What every start and every discard of volatile state leaves of the port. -/
def PortIdle (p : Port) : Prop := p.service = none ∧ p.sending = none ∧ p.waiting = []

/-! ### The edits -/

/-- One edit of the state. -/
inductive Edit (a : Rights) (s : State) : State → Prop
  /-- Nothing that a law reads is changed. -/
  | other (t : State) (part : t.part = s.part := by rfl) (staging : t.loader.staging = s.loader.staging := by rfl)
      (lines : t.lines = s.lines := by rfl) (nodes : t.nodes = s.nodes := by rfl) (store : t.store = s.store := by rfl)
      (rooms : t.revoc.rooms = s.revoc.rooms := by rfl) (entries : t.revoc.entries = s.revoc.entries := by rfl)
      (changes : t.revoc.changes = s.revoc.changes := by rfl) (minibar : t.minibar = s.minibar := by rfl)
      (journal : t.journal = s.journal := by rfl) (port : t.port = s.port := by rfl) : Edit a s t
  /-- Records are written and conditions raised. -/
  | record (j : Journal) (p : Port) (numbered : s.journal.Law → j.Law) (noticed : PortNoticed s.port p) :
      Edit a s { s with journal := j, port := p }
  /-- The link receives, takes a command into service or ends one. -/
  | link (p : Port) (right : a.link) (law : s.port.Law → p.Law)
      (rejects : (s.port.waiting.filter OutFrame.isReject).length ≤ 4 → (p.waiting.filter OutFrame.isReject).length ≤ 4) :
      Edit a s { s with port := p }
  /-- Node records are changed where they stand. -/
  | nodes (f : Node → Node) (kept : s.nodes.Pairwise (fun m n => m.addr < n.addr) → ∀ n ∈ s.nodes, NodeKept s n (f n))
      (clock : s.ClockLaw → ∀ n ∈ s.nodes, (f n).clock.InRange) : Edit a s { s with nodes := s.nodes.map f }
  /-- The line engine is changed, the states of the lines aside. -/
  | lines (l : LineEngine) (kept : LinesKept s l) : Edit a s { s with lines := l }
  /-- A line changes its state in RUNNING. -/
  | lineState (l : LineId) (st : LineState) (right : a.turns) (on : st ≠ .off) (running : s.part = .running)
      (silent : s.nodes.Pairwise (fun m n => m.addr < n.addr) →
        (s.service = false → ∀ n ∈ s.nodes, n.st.answering = false) →
        (s.modLine l (fun x => { x with st := st })).service = false → ∀ n ∈ s.nodes, n.st.answering = false) :
      Edit a s (s.modLine l (fun x => { x with st := st }))
  /-- A line begins its training at a start. -/
  | startLine (l : LineId) (right : a.starts) : Edit a s (s.modLine l (fun x => { x with st := .training }))
  /-- The part enters RUNNING. -/
  | enterRunning (right : a.starts) : Edit a s { s with part := .running }
  /-- The credential store is changed. -/
  | store (st : Store) (law : s.store.Law → st.Law) (falls : a.cards ∨ RecsFall s.store.recs st.recs) :
      Edit a s { s with store := st }
  /-- The revocation list and the change journal are changed. -/
  | listing (es : List ListEntry) (cs : List Change) (few : s.revoc.entries.length ≤ 256 → es.length ≤ 256)
      (held : s.revoc.changes.length ≤ 512 → cs.length ≤ 512) (falls : a.cards ∨ EntriesFall s.revoc.entries es) :
      Edit a s { s with revoc := { s.revoc with entries := es, changes := cs } }
  /-- The room records are changed. -/
  | rooms (rs : List Room) (law : s.revoc.RoomLaw → ({ s.revoc with rooms := rs } : Revoc).RoomLaw) :
      Edit a s { s with revoc := { s.revoc with rooms := rs } }
  /-- Folios and charge lines are changed. -/
  | minibar (m : Minibar) (law : s.FolioLaw → ({ s with minibar := m } : State).FolioLaw)
      (pool : s.minibar.pool.length ≤ 64 → m.pool.length ≤ 64) : Edit a s { s with minibar := m }
  /-- A node is enrolled at a free address, with a point that no other has. -/
  | create (r : EnrolReq) (floorAt : Nat) (free : s.node? r.addr = none) (ok : r.fieldsOk = true)
      (point : s.FolioLaw → ∀ n ∈ s.nodes, n.enrol.point ≠ r.enrol.point) : Edit a s (s.createNode r floorAt)
  /-- A node record is discarded, the folio of its point discarded before. -/
  | forget (addr : Nat) (owns : s.FolioLaw → ∀ n ∈ s.nodes, n.addr = addr → n.enrol.cls = .roomEntry →
      ∀ f ∈ s.minibar.folios, f.point ≠ n.enrol.point) : Edit a s (s.forgetNode addr)
  /-- The staging image is replaced. -/
  | staging (img : List Byte) (few : img.length ≤ 4096) : Edit a s (s.stage img)
  /-- The volatile state is discarded and the part leaves RUNNING. -/
  | halt (t : State) (right : a.link) (part : t.part ≠ .running) (staging : t.loader.staging = [])
      (lines : t.lines = LineEngine.initial) (nodes : t.nodes = s.nodes.map Node.volatileLost) (store : t.store = s.store)
      (rooms : t.revoc.rooms = s.revoc.rooms) (entries : t.revoc.entries = s.revoc.entries)
      (changes : t.revoc.changes = s.revoc.changes) (minibar : t.minibar = s.minibar)
      (numbered : s.journal.Law → t.journal.Law) (port : PortIdle t.port) : Edit a s t
  /-- A cold start. -/
  | cold (t : State) (right : a.link) (part : t.part ≠ .running) (staging : t.loader.staging = [])
      (lines : t.lines = LineEngine.initial) (nodes : t.nodes = []) (store : t.store = Store.initial)
      (revoc : t.revoc = Revoc.initial) (minibar : t.minibar = ⟨[], []⟩) (journal : t.journal = Journal.cold)
      (port : PortIdle t.port) : Edit a s t
  /-- The part passes between states other than RUNNING. -/
  | part (p : PartState) (out : s.part ≠ .running) (still : p ≠ .running) : Edit a s { s with part := p }

/-- A state evolves into another by edits. -/
def Evolves (a : Rights) : State → State → Prop := Relation.ReflTransGen (Edit a)

section Evolving
variable {a : Rights} {s t u : State}

theorem Evolves.refl (s : State) : Evolves a s s := Relation.ReflTransGen.refl

theorem Evolves.trans (h : Evolves a s t) (h' : Evolves a t u) : Evolves a s u := Relation.ReflTransGen.trans h h'

theorem Edit.evolves (h : Edit a s t) : Evolves a s t := Relation.ReflTransGen.single h

/-- A law that every edit keeps is kept by what evolves. -/
theorem Evolves.keeps {P : State → Prop} (edit : ∀ s t, Edit a s t → P s → P t) (h : Evolves a s t) (hs : P s) : P t := by
  induction h with
  | refl => exact hs
  | tail _ e ih => exact edit _ _ e ih

/-- A condition that every edit keeps may be used at each act of a fold. -/
theorem Evolves.foldl_of {α : Type} {Q : State → Prop} {f : State → α → State} (l : List α)
    (act : ∀ s, ∀ x ∈ l, Q s → Evolves a s (f s x) ∧ Q (f s x)) (s : State) (hs : Q s) : Evolves a s (l.foldl f s) := by
  induction l generalizing s with
  | nil => exact Evolves.refl s
  | cons x xs ih =>
    obtain ⟨here, next⟩ := act s x (by simp) hs
    exact here.trans (ih (fun s y hy => act s y (by simp [hy])) _ next)

theorem Evolves.foldl {α : Type} {f : State → α → State} (act : ∀ s x, Evolves a s (f s x)) (l : List α) (s : State) :
    Evolves a s (l.foldl f s) :=
  Evolves.foldl_of (Q := fun _ => True) l (fun s x _ _ => ⟨act s x, trivial⟩) s trivial

theorem Evolves.ite {b : Prop} [Decidable b] (h : b → Evolves a s t) (h' : ¬ b → Evolves a s u) :
    Evolves a s (if b then t else u) := by
  split
  · exact h ‹_›
  · exact h' ‹_›

end Evolving

/-! ### Frames made ready -/

theorem PortNoticed.refl (p : Port) : PortNoticed p p := ⟨rfl, id, id⟩

theorem PortNoticed.trans {p q r : Port} (h : PortNoticed p q) (h' : PortNoticed q r) : PortNoticed p r := by
  refine ⟨?_, h'.law ∘ h.law, h'.rejects ∘ h.rejects⟩
  have e := h.notices
  have e' := h'.notices
  unfold Port.noticesOnly at *
  rw [e', e]

theorem Port.ready_idle (p : Port) (f : OutFrame) : (p.ready f).sending = none → (p.ready f).waiting = [] := by
  cases h : p.sending <;> simp [Port.ready, h]

/-- A frame that is no reply keeps the port's law. -/
theorem Port.ready_law {p : Port} {f : OutFrame} (hf : f.isReply = false) (h : p.Law) : (p.ready f).Law := by
  refine ⟨p.ready_idle f, ?_⟩
  rw [((Port.ready_frames f p).filter _).length_eq, List.filter_append, List.length_append, h.reply, Port.ready_service]
  simp [hf]

/-- A frame that is no LINK_REJECT adds none. -/
theorem Port.ready_rejects {p : Port} {f : OutFrame} (hf : f.isReject = false) :
    ((p.ready f).waiting.filter OutFrame.isReject) = p.waiting.filter OutFrame.isReject := by
  cases h : p.sending <;> simp [Port.ready, h, hf]

theorem Port.ready_noticesOnly (p : Port) (f : OutFrame) : Port.noticesOnly p (p.ready f) := by
  cases h : p.sending <;> simp [Port.ready, h, Port.noticesOnly]

/-- A notice made ready. -/
theorem Port.ready_noticed (p : Port) {f : OutFrame} (hr : f.isReply = false) (hj : f.isReject = false) :
    PortNoticed p (p.ready f) :=
  ⟨p.ready_noticesOnly f, Port.ready_law hr, fun h => by rw [Port.ready_rejects hj]; exact h⟩

/-- The arming flags stand beside the port's law. -/
theorem Port.arm_noticed (p : Port) (m : Arming) : PortNoticed p { p with arm := m } := ⟨rfl, fun h => ⟨h.idle, h.reply⟩, id⟩

theorem noticeFrame_isReply (k : NoticeKind) (s : State) : (noticeFrame k s).isReply = false := by cases k <;> rfl

theorem noticeFrame_isReject (k : NoticeKind) (s : State) : (noticeFrame k s).isReject = false := by cases k <;> rfl

/-- A condition raised makes at most a notice ready. -/
theorem State.raise_noticed (s : State) (k : NoticeKind) : PortNoticed s.port (s.raise k).port := by
  unfold State.raise
  split
  · exact (Port.ready_noticed _ (noticeFrame_isReply k s) (noticeFrame_isReject k s)).trans (Port.arm_noticed _ _)
  · exact PortNoticed.refl _

theorem State.append_noticed (s : State) (e : Entry) : PortNoticed s.port (s.append e).port := by
  unfold State.append
  dsimp only
  split
  · exact State.raise_noticed { s with journal := s.journal.push (e.secs.getD s.now) e } _
  · exact PortNoticed.refl _

/-! ### Records appended (09:R170, R171) -/

theorem numbered_append {next : Nat} {rs : List Rec} {r : Rec} (hn : next < 4294967296) (len : rs.length ≤ 2047)
    (hr : r.seq = next) (h : numbered next rs) : numbered (wrap32 (next + 1)) (rs ++ [r]) := by
  induction rs with
  | nil => simp [numbered, hr, hn, sub32, wrap32]; omega
  | cons x xs ih =>
    obtain ⟨lt, at_, rest⟩ := h
    simp only [List.length_cons] at len
    refine ⟨lt, ?_, ih (by omega) rest⟩
    have more : (xs.append [r]).length = xs.length + 1 := by simp
    simp only [sub32, wrap32] at at_ ⊢
    omega

theorem numbered_drop {next : Nat} {rs : List Rec} (h : numbered next rs) (k : Nat) : numbered next (rs.drop k) := by
  induction k generalizing rs with
  | zero => exact h
  | succ k ih =>
    cases rs with
    | nil => exact h
    | cons x xs => exact ih h.2.2

/-- The removal that makes room keeps the journal's law and leaves a place. -/
theorem Journal.makeRoom_law {j : Journal} (h : j.Law) : j.makeRoom.1.Law := by
  have dropped := numbered_drop h.numbers 1
  have size := h.size
  have acked := h.acked
  unfold Journal.makeRoom
  split
  · exact h
  · split
    · exact ⟨by simp; omega, by simp; omega, h.next, dropped⟩
    · exact ⟨by simp; omega, by simp; omega, h.next, dropped⟩

theorem Journal.push_law {j : Journal} (secs : Nat) (e : Entry) (h : j.Law) : (j.push secs e).Law := by
  have room := Journal.makeRoom_law h
  have len := j.makeRoom_length h.size
  refine ⟨j.push_length_le secs e h.size, ?_, Nat.mod_lt _ (by decide), ?_⟩
  · have := room.acked
    simp [Journal.push]; omega
  · have next := j.makeRoom_next
    have := numbered_append (r := ⟨j.next, secs, e, j.makeRoom.2⟩) h.next (by omega) rfl (next ▸ room.numbers)
    exact this

section Evolving
variable {a : Rights} {s : State}

theorem Evolves.append (s : State) (e : Entry) : Evolves a s (s.append e) := by
  have eq : s.append e = { s with journal := (s.append e).journal, port := (s.append e).port } := by
    unfold State.append State.raise
    dsimp only
    (repeat' split) <;> rfl
  rw [eq]
  exact (Edit.record _ _ (fun h => by rw [State.append_journal]; exact Journal.push_law _ _ h) (s.append_noticed e)).evolves

theorem Evolves.raise (s : State) (k : NoticeKind) : Evolves a s (s.raise k) := by
  have eq : s.raise k = { s with journal := s.journal, port := (s.raise k).port } := by
    unfold State.raise
    split <;> rfl
  rw [eq]
  exact (Edit.record _ _ id (s.raise_noticed k)).evolves

theorem Evolves.chose (s : State) : Evolves a s s.chose := (Edit.other _).evolves

/-- Records written and conditions raised after some acts. -/
theorem Evolves.then_append {t : State} (h : Evolves a s t) (e : Entry) : Evolves a s (t.append e) := h.trans (Evolves.append t e)

theorem Evolves.then_raise {t : State} (h : Evolves a s t) (k : NoticeKind) : Evolves a s (t.raise k) := h.trans (Evolves.raise t k)

end Evolving

end Sys2Proof.Machine

/-! SUPPORT. The shared operations on node records, the revocation list and the change journal, and the clocks, as edits. -/

namespace Sys2Proof.Machine

open Sys2Proof

/-! ### Node records -/

/-- Two node records that the laws read alike. -/
structure NodeInert (n m : Node) : Prop where
  addr : m.addr = n.addr := by rfl
  enrol : m.enrol = n.enrol := by rfl
  copy : m.copy = n.copy := by rfl
  comps : m.comps.length = n.comps.length := by rfl
  memory : m.memory = n.memory := by rfl
  st : m.st = n.st := by rfl
  clock : m.clock = n.clock := by rfl
  session : m.session = n.session := by rfl

theorem NodeInert.refl (n : Node) : NodeInert n n := {}

theorem NodeInert.trans {n m k : Node} (h : NodeInert n m) (h' : NodeInert m k) : NodeInert n k :=
  ⟨h'.addr.trans h.addr, h'.enrol.trans h.enrol, h'.copy.trans h.copy, h'.comps.trans h.comps, h'.memory.trans h.memory,
    h'.st.trans h.st, h'.clock.trans h.clock, h'.session.trans h.session⟩

theorem NodeInert.kept {s : State} {n m : Node} (h : NodeInert n m) (hn : n ∈ s.nodes) : NodeKept s n m where
  addr := h.addr
  comps := h.comps
  memory := by rw [h.memory]; exact id
  answering := by rw [h.st]; exact fun ha => .inr ⟨n, hn, ha⟩
  clock := by rw [h.clock]; exact fun law => law n hn
  enrol := by rw [h.enrol]; exact fun _ => rfl
  copy := h.copy
  session := by rw [h.session]; exact fun x hx _ => .inl hx

theorem NodeKept.refl {s : State} {n : Node} (hn : n ∈ s.nodes) : NodeKept s n n := (NodeInert.refl n).kept hn

/-- In an ascending list the item found by a key is the only one that has it. -/
theorem eq_of_findKey {α : Type} (key : α → Nat) {l : List α} (h : l.Pairwise (fun a b => key a < key b)) {k : Nat} {x y : α}
    (hx : findKey key k l = some x) (hy : y ∈ l) (hk : key y = k) : y = x := by
  have := findKey_of_mem key h hy
  rw [hk, hx] at this
  exact (Option.some.inj this).symm

section Evolving
variable {a : Rights} {s : State}

theorem Evolves.mapNodes (f : Node → Node) (h : ∀ n ∈ s.nodes, NodeKept s n (f n)) :
    Evolves a s { s with nodes := s.nodes.map f } := (Edit.nodes f (fun _ => h) (fun law n hn => (h n hn).clock law)).evolves

theorem Evolves.modNode (k : Nat) (f : Node → Node) (h : ∀ n ∈ s.nodes, n.addr = k → NodeKept s n (f n)) :
    Evolves a s (s.modNode k f) := by
  refine Evolves.mapNodes (fun n => if n.addr = k then f n else n) (fun n hn => ?_)
  split
  · exact h n hn ‹_›
  · exact .refl hn

/-- The record found at an address replaced by one that the laws read alike. -/
theorem Evolves.replaceNode {k : Nat} {n m : Node} (hn : s.node? k = some n) (h : NodeInert n m) :
    Evolves a s (s.modNode k (fun _ => m)) := by
  have mem := (findKey_some Node.addr hn).2
  refine (Edit.nodes (fun x => if x.addr = k then m else x) (fun asc x hx => ?_) (fun law x hx => ?_)).evolves
  · split
    · rw [eq_of_findKey Node.addr asc hn hx ‹_›]
      exact h.kept mem
    · exact .refl hx
  · split
    · rw [h.clock]
      exact law n mem
    · exact law x hx

/-- An update that no law reads. -/
theorem Evolves.modNode_inert (k : Nat) (f : Node → Node) (h : ∀ n, NodeInert n (f n)) : Evolves a s (s.modNode k f) :=
  Evolves.modNode k f (fun n hn _ => (h n).kept hn)

theorem Evolves.mapNodes_inert (f : Node → Node) (h : ∀ n, NodeInert n (f n)) : Evolves a s { s with nodes := s.nodes.map f } :=
  Evolves.mapNodes f (fun n hn => (h n).kept hn)

end Evolving

theorem Node.marked_inert (n : Node) : NodeInert n n.marked := {}

theorem State.afterDrop_inert (s : State) (d : Nat) (n : Node) : NodeInert n (s.afterDrop d n) := by
  unfold State.afterDrop
  (repeat' split) <;> first | exact NodeInert.refl n | exact n.marked_inert

/-! ### The change journal and the revocation list (05:R93, R101, R102) -/

theorem State.setEntries_of {s : State} {es : List ListEntry} (h : s.revoc.entries = es) : s.setEntries es = s := by
  subst h; rfl

/-- A change emitted: the reload states of some nodes, the change journal and the generation. -/
theorem State.emit_shape (s : State) (b : ChangeBody) : ∃ f cs g, (∀ n, NodeInert n (f n)) ∧
    (s.revoc.changes.length ≤ 512 → cs.length ≤ 512) ∧
    s.emit b = { s with nodes := s.nodes.map f, revoc := { s.revoc with changes := cs, gen := g } } := by
  have same : s.nodes.map id = s.nodes := List.map_id _
  unfold State.emit State.dropOldest
  split
  · exact ⟨id, s.revoc.changes ++ [⟨wrap32 (s.revoc.gen + 1), b⟩], _, NodeInert.refl, fun _ => by simp; omega, by rw [same]⟩
  · cases hc : s.revoc.changes with
    | nil => simp_all
    | cons c cs => exact ⟨_, cs ++ [⟨wrap32 (s.revoc.gen + 1), b⟩], _, s.afterDrop_inert c.gen, fun h => by simpa using h, rfl⟩

theorem State.emit_entries (s : State) (b : ChangeBody) : (s.emit b).revoc.entries = s.revoc.entries := by
  obtain ⟨f, cs, g, _, _, eq⟩ := s.emit_shape b
  rw [eq]

section Evolving
variable {a : Rights} {s : State}

/-- A list in another form, with its change emitted. -/
theorem Evolves.emit_listing (d es : List ListEntry) (b : ChangeBody)
    (few : s.revoc.entries.length ≤ 256 → es.length ≤ 256) (falls : a.cards ∨ EntriesFall s.revoc.entries es) :
    Evolves a s (((s.setEntries d).emit b).setEntries es) := by
  obtain ⟨f, cs, g, inert, held, eq⟩ := (s.setEntries d).emit_shape b
  rw [eq]
  refine (Evolves.mapNodes_inert f inert).trans ?_
  exact (Edit.listing (s := { s with nodes := s.nodes.map f }) es cs few held falls).evolves.trans (Edit.other _).evolves

theorem EntriesFall.refl (es : List ListEntry) : EntriesFall es es := ⟨id, fun e he => ⟨e, he, rfl⟩⟩

theorem EntriesFall.of_sublist {es fs : List ListEntry} (h : fs.Sublist es) : EntriesFall es fs :=
  ⟨fun hp => hp.sublist h, fun f hf => ⟨f, h.subset hf, rfl⟩⟩

theorem Evolves.emit (b : ChangeBody) : Evolves a s (s.emit b) := by
  have h := Evolves.emit_listing (a := a) (s := s) s.revoc.entries s.revoc.entries b id (.inr (.refl _))
  rwa [State.setEntries_of rfl, State.setEntries_of (s.emit_entries b)] at h

theorem Evolves.setFallback (k : Nat) (m : FallbackMode) : Evolves a s (s.setFallback k m) :=
  (Evolves.modNode_inert k _ (fun _ => {})).then_raise _

theorem Evolves.restrictCheck (c : Option Nat) : Evolves a s (s.restrictCheck c) := by
  refine Evolves.foldl (fun t k => ?_) _ s
  dsimp only
  split
  · exact .ite (fun _ => .setFallback _ _) (fun _ => .refl t)
  · exact .refl t

theorem Evolves.relaxCheck (before : State) : Evolves a s (s.relaxCheck before) :=
  Evolves.mapNodes_inert _ (fun n => by split; exacts [n.marked_inert, .refl n])

theorem dropKey_sublist {α : Type} (key : α → Nat) (k : Nat) (l : List α) : (dropKey key k l).Sublist l :=
  List.filter_sublist

/-- An entry removed, with its change. -/
theorem Evolves.removeEntry (e : ListEntry) : Evolves a s (s.removeEntry e) := by
  have sub := dropKey_sublist ListEntry.serial e.serial s.revoc.entries
  have h := Evolves.emit_listing (a := a) (s := s) (dropKey ListEntry.serial e.serial s.revoc.entries)
    (dropKey ListEntry.serial e.serial s.revoc.entries) (.remove e.serial e.cred)
    (fun h => sub.length_le.trans h) (.inr (.of_sublist sub))
  rw [State.setEntries_of (es := dropKey ListEntry.serial e.serial s.revoc.entries) (State.emit_entries _ _)] at h
  exact h.trans (Evolves.relaxCheck s)

/-- An entry joins a list with room. -/
theorem Evolves.pushEntry (serial : Nat) (cred : Option Nat) (r : ListReason) (t : Nat)
    (right : a.cards) (room : s.revoc.entries.length < 256) : Evolves a s (s.pushEntry serial cred r t) := by
  have h := Evolves.emit_listing (a := a) (s := s) s.revoc.entries
    (s.revoc.entries ++ [⟨serial, cred, r, t, (s.emit (.add serial cred)).revoc.gen⟩]) (.add serial cred)
    (fun _ => by simp; omega) (.inl right)
  rw [State.setEntries_of (s := s) rfl] at h
  unfold State.pushEntry
  dsimp only
  rw [State.emit_entries]
  exact h.trans (Evolves.restrictCheck cred)

/-- An entry of the list moved to the tail in another form holds the serial it held. -/
theorem EntriesFall.reform {es : List ListEntry} {e f : ListEntry} (he : e ∈ es) (hf : f.serial = e.serial) :
    EntriesFall es (dropKey ListEntry.serial e.serial es ++ [f]) := by
  constructor
  · intro h
    rw [List.pairwise_append]
    refine ⟨h.sublist (dropKey_sublist _ _ _), List.pairwise_singleton _ _, fun x hx y hy => ?_⟩
    rw [List.mem_singleton.mp hy, hf]
    simpa [dropKey] using (List.mem_filter.mp hx).2
  · intro x hx
    rcases List.mem_append.mp hx with hx | hx
    · exact ⟨x, (dropKey_sublist _ _ _).subset hx, rfl⟩
    · exact ⟨e, he, by rw [List.mem_singleton.mp hx, hf]⟩

theorem dropKey_length_lt {α : Type} (key : α → Nat) {l : List α} {x : α} (hx : x ∈ l) :
    (dropKey key (key x) l).length < l.length :=
  List.length_filter_lt_length_iff_exists.mpr ⟨x, hx, by simp⟩

theorem Evolves.reformEntry {e : ListEntry} (he : e ∈ s.revoc.entries) (cred : Option Nat) (r : ListReason) :
    Evolves a s (s.reformEntry e cred r) := by
  unfold State.reformEntry State.pushEntry
  dsimp only
  rw [State.emit_entries]
  refine Evolves.trans ?_ (Evolves.restrictCheck cred)
  have short := dropKey_length_lt ListEntry.serial he
  exact Evolves.emit_listing _ _ _ (fun h => by simp [State.setEntries]; omega) (.inr (.reform he rfl))

theorem Evolves.retireEntries : Evolves a s s.retireEntries := Evolves.foldl (fun _ e => .removeEntry e) _ s

theorem Evolves.askRoom : Evolves a s s.askRoom := .ite (fun _ => .refl s) (fun _ => .retireEntries)

theorem Evolves.removeSerial (x : Nat) : Evolves a s (s.removeSerial x) := by
  unfold State.removeSerial
  split
  · exact .removeEntry _
  · exact .refl s

theorem Evolves.changes (cs : List Change) (held : s.revoc.changes.length ≤ 512 → cs.length ≤ 512) :
    Evolves a s { s with revoc := { s.revoc with changes := cs } } :=
  (Edit.listing s.revoc.entries cs id held (.inr (.refl _))).evolves

theorem Evolves.reportReuse (k : Nat) : Evolves a s (s.reportReuse k) := by
  unfold State.reportReuse
  dsimp only
  split
  · exact (Evolves.reformEntry (List.mem_of_find?_eq_some ‹_›) _ _).trans (.changes _ (by simp))
  · exact .changes _ (by simp)

theorem Evolves.acknowledge (k g : Nat) (lost : Bool) : Evolves a s (s.acknowledge k g lost) := by
  unfold State.acknowledge
  split
  · exact .refl s
  · split
    · split
      · dsimp only
        have first : Evolves a s (s.modNode k (fun n => { n with cursor := ⟨g, g, 0⟩, reload := .none })) :=
          .modNode_inert k _ (fun _ => {})
        split
        · exact first.trans (.ite (fun _ => .setFallback _ _) (fun _ => .refl _))
        · exact first
      · exact .refl s
    · exact (Evolves.modNode_inert k _ (fun _ => {})).trans (.relaxCheck s)

end Evolving

/-! ### Node clocks (03:R52 to R57) -/

theorem quarterHalfAway_range {x : Int} {m : Int} (lo : -(4 * m) ≤ x) (hi : x ≤ 4 * m) :
    -m ≤ quarterHalfAway x ∧ quarterHalfAway x ≤ m := by
  unfold quarterHalfAway
  split <;> omega

theorem graceOf_range (d : Int) (s : Nat) : 1 ≤ graceOf d s ∧ graceOf d s ≤ 600 := by
  unfold graceOf
  omega

theorem satAdd_le (limit n k : Nat) : satAdd limit n k ≤ limit := Nat.min_le_left _ _

theorem Clock.failure_inRange {c : Clock} (h : c.InRange) : c.failure.InRange :=
  { h with failed := satAdd_le _ _ _ }

theorem Clock.accept_inRange {c : Clock} {raw : Int} (lim : raw.natAbs ≤ 2000) (h : c.InRange) : (c.accept raw).InRange := by
  obtain ⟨⟨dlo, dhi⟩, ⟨slo, shi⟩, -, -, -⟩ := h
  have drift := quarterHalfAway_range (x := 3 * c.d + raw) (m := 2000) (by omega) (by omega)
  have spread := quarterHalfAway_range (x := 3 * (c.s : Int) + ((raw - c.d).natAbs : Int)) (m := 4000) (by omega) (by omega)
  refine ⟨?_, ?_, graceOf_range _ _, satAdd_le _ _ _, Nat.zero_le _⟩
  · dsimp only [Clock.accept]
    split <;> omega
  · dsimp only [Clock.accept]
    split <;> omega

theorem Clock.judge_inRange {c : Clock} (raw : Int) (h : c.InRange) : (c.judge raw).InRange := by
  unfold Clock.judge
  split
  · exact Clock.failure_inRange h
  · exact Clock.accept_inRange (by omega) h

theorem Clock.span_inRange {c : Clock} (h : c.InRange) (sp : Option Span) : ({ c with span := sp } : Clock).InRange := { h with }

theorem Clock.anchor_inRange {c : Clock} (h : c.InRange) (x : Option Anchor) : ({ c with anchor := x } : Clock).InRange := { h with }

theorem Clock.sample_inRange (r w n : Nat) {c : Clock} (h : c.InRange) : (c.sample r w n).InRange := by
  unfold Clock.sample Clock.openSpan
  split
  · exact Clock.span_inRange h _
  · split
    · exact Clock.span_inRange (Clock.judge_inRange _ h) _
    · exact h

theorem Clock.discardSpan_inRange {c : Clock} (h : c.InRange) : c.discardSpan.InRange := Clock.span_inRange h _

theorem Clock.failSpan_inRange {c : Clock} (h : c.InRange) : c.failSpan.InRange :=
  Clock.failure_inRange (Clock.discardSpan_inRange h)

theorem Clock.spanRise_inRange {c : Clock} (h : c.InRange) : c.spanRise.InRange := by
  unfold Clock.spanRise
  split
  · exact h
  · split
    · exact Clock.failSpan_inRange h
    · exact Clock.span_inRange h _

/-- A change of the clock record alone, in range when the record was. -/
theorem NodeKept.clocked {s : State} {n m : Node} (hn : n ∈ s.nodes) (h : NodeInert n { m with clock := n.clock })
    (range : s.ClockLaw → m.clock.InRange) : NodeKept s n m where
  addr := h.addr
  comps := h.comps
  memory := by rw [show m.memory = n.memory from h.memory]; exact id
  answering := by rw [show m.st = n.st from h.st]; exact fun ha => .inr ⟨n, hn, ha⟩
  clock := range
  enrol := by rw [show m.enrol = n.enrol from h.enrol]; exact fun _ => rfl
  copy := h.copy
  session := by rw [show m.session = n.session from h.session]; exact fun x hx _ => .inl hx

section Evolving
variable {a : Rights} {s : State}

theorem Evolves.setClock (k : Nat) {f : Clock → Clock} (range : ∀ c, c.InRange → (f c).InRange) :
    Evolves a s (s.setClock k f) := by
  unfold State.setClock
  cases hn : s.node? k with
  | none => exact .refl s
  | some n =>
    have range' : s.ClockLaw → (f n.clock).InRange := fun law => range _ (law n (findKey_some Node.addr hn).2)
    have first : Evolves a s (s.modNode k (fun m => { m with clock := f n.clock, latchFallback := m.latchFallback || decide ((f n.clock).grace ≠ n.clock.grace) })) :=
      .modNode k _ (fun m hm _ => .clocked hm {} range')
    exact .ite (fun _ => first.then_raise _) (fun _ => first)

end Evolving

end Sys2Proof.Machine

/-! SUPPORT. Folios, charge lines and sessions: each change of the pool and of a folio keeps the law of the folios, and the
minibar unit's operations as edits. -/

namespace Sys2Proof.Machine

open Sys2Proof

/-! ### Lines of the pool -/

/-- No two lines name one compartment. -/
def PoolOnce (pool : List ChargeLine) : Prop := pool.Pairwise (fun l m => ¬ (l.node = m.node ∧ l.comp = m.comp))

theorem ChargeLine.names_iff (l : ChargeLine) (a c : Nat) : l.names a c = true ↔ l.node = a ∧ l.comp = c := by
  simp [ChargeLine.names]

theorem lineFor?_mem {s : State} {a c : Nat} {l : ChargeLine} (h : s.lineFor? a c = some l) :
    l ∈ s.minibar.pool ∧ l.node = a ∧ l.comp = c :=
  ⟨List.mem_of_find?_eq_some h, (l.names_iff a c).mp (by simpa using List.find?_some h)⟩

/-- A line stands in the pool beside those that name other compartments. -/
theorem pool_perm {pool : List ChargeLine} (once : PoolOnce pool) {l : ChargeLine} (hl : l ∈ pool) :
    pool.Perm (l :: pool.filter (fun x => !x.names l.node l.comp)) := by
  induction pool with
  | nil => simp at hl
  | cons x xs ih =>
    obtain ⟨apart, rest⟩ := List.pairwise_cons.mp once
    rcases List.mem_cons.mp hl with rfl | hl
    · have keep : xs.filter (fun x => !x.names l.node l.comp) = xs :=
        List.filter_eq_self.mpr (fun y hy => by
          have := apart y hy
          simp only [ChargeLine.names, Bool.not_eq_true', Bool.and_eq_false_iff, beq_eq_false_iff_ne]
          grind)
      rw [List.filter_cons_of_neg (by simp [ChargeLine.names]), keep]
    · have hx : ¬ (x.node = l.node ∧ x.comp = l.comp) := apart l hl
      rw [List.filter_cons_of_pos (by simp [ChargeLine.names]; grind)]
      exact ((ih rest hl).cons x).trans (List.Perm.swap l x _)

/-- The sum of the amounts of the lines that name a folio. -/
def pendingSum (p : Nat) (pool : List ChargeLine) : Nat := ((pool.filter (fun l => l.folio == p)).map (·.amount)).sum

theorem pendingSum_perm {p : Nat} {l m : List ChargeLine} (h : l.Perm m) : pendingSum p l = pendingSum p m :=
  ((h.filter _).map _).sum_eq

theorem pendingSum_cons (p : Nat) (l : ChargeLine) (ls : List ChargeLine) :
    pendingSum p (l :: ls) = (if l.folio = p then l.amount else 0) + pendingSum p ls := by
  unfold pendingSum
  split <;> simp_all

theorem pendingSum_append (p : Nat) (ls ms : List ChargeLine) : pendingSum p (ls ++ ms) = pendingSum p ls + pendingSum p ms := by
  simp [pendingSum]

theorem pendingSum_none {p : Nat} {ls : List ChargeLine} (h : ∀ l ∈ ls, l.folio ≠ p) : pendingSum p ls = 0 := by
  have : ls.filter (fun l => l.folio == p) = [] := List.filter_eq_nil_iff.mpr (fun l hl => by simpa using h l hl)
  simp [pendingSum, this]

/-! ### What a change of the folios and the pool must keep -/

/-- The folios are changed one by one with their points, and the lines and sessions have their OPEN folios still. -/
theorem State.FolioLaw.of_minibar {s : State} (law : s.FolioLaw) (m : Minibar) (g : Folio → Folio)
    (folios : m.folios = s.minibar.folios.map g) (point : ∀ f, (g f).point = f.point)
    (total : ∀ f ∈ s.minibar.folios, (g f).pendingTotal = pendingSum f.point m.pool)
    (balance : ∀ f ∈ s.minibar.folios, (g f).balance ≤ 9999999)
    (lines : ∀ l ∈ m.pool, ∃ f ∈ s.minibar.folios, f.point = l.folio ∧ (g f).isOpen = true)
    (once : PoolOnce m.pool)
    (sessions : ∀ n ∈ s.nodes, ∀ x, n.session = some x → x.mode = .guest →
      ∃ f ∈ s.minibar.folios, x.folio = some f.point ∧ (g f).isOpen = true) :
    ({ s with minibar := m } : State).FolioLaw where
  nodesAscending := law.nodesAscending
  foliosAscending := by
    show m.folios.Pairwise _
    rw [folios, List.pairwise_map]
    exact law.foliosAscending.imp (fun h => by simpa [point] using h)
  copies := law.copies
  owners := by
    show ∀ f ∈ m.folios, _
    rw [folios]
    intro x hx
    obtain ⟨f, hf, rfl⟩ := List.mem_map.mp hx
    rw [point]
    exact law.owners f hf
  total := by
    show ∀ f ∈ m.folios, _
    rw [folios]
    intro x hx
    obtain ⟨f, hf, rfl⟩ := List.mem_map.mp hx
    rw [total f hf, point]
    rfl
  balance := by
    show ∀ f ∈ m.folios, _
    rw [folios]
    intro x hx
    obtain ⟨f, hf, rfl⟩ := List.mem_map.mp hx
    exact balance f hf
  lines := by
    show ∀ l ∈ m.pool, ∃ f ∈ m.folios, _
    rw [folios]
    intro l hl
    obtain ⟨f, hf, hp, ho⟩ := lines l hl
    exact ⟨g f, List.mem_map_of_mem hf, (point f).trans hp, ho⟩
  once := once
  sessions := by
    show ∀ n ∈ s.nodes, ∀ x, n.session = some x → x.mode = .guest → ∃ f ∈ m.folios, _
    rw [folios]
    intro n hn x hx hg
    obtain ⟨f, hf, hp, ho⟩ := sessions n hn x hx hg
    exact ⟨g f, List.mem_map_of_mem hf, by rw [point]; exact hp, ho⟩

theorem State.FolioLaw.total_eq {s : State} (law : s.FolioLaw) {f : Folio} (hf : f ∈ s.minibar.folios) :
    f.pendingTotal = pendingSum f.point s.minibar.pool := law.total f hf

/-- A folio changed in its balance, its ceiling or its opening. -/
theorem State.FolioLaw.modFolio {s : State} (law : s.FolioLaw) (p : Nat) (g : Folio → Folio)
    (point : ∀ f, (g f).point = f.point) (total : ∀ f, (g f).pendingTotal = f.pendingTotal)
    (balance : ∀ f, f.balance ≤ 9999999 → (g f).balance ≤ 9999999) (stays : ∀ f, f.isOpen = true → (g f).isOpen = true) :
    (s.modFolio p g).FolioLaw := by
  refine law.of_minibar _ (fun f => if f.point = p then g f else f) rfl (fun f => ?_) (fun f hf => ?_) (fun f hf => ?_)
    (fun l hl => ?_) law.once (fun n hn x hx hg => ?_)
  · split <;> simp [point]
  · rw [← law.total_eq hf]
    split <;> simp [total]
  · split
    · exact balance f (law.balance f hf)
    · exact law.balance f hf
  · obtain ⟨f, hf, hp, ho⟩ := law.lines l hl
    exact ⟨f, hf, hp, by split; exacts [stays f ho, ho]⟩
  · obtain ⟨f, hf, hp, ho⟩ := law.sessions n hn x hx hg
    exact ⟨f, hf, hp, by split; exacts [stays f ho, ho]⟩

/-- A folio is closed that no line and no GUEST session names. -/
theorem State.FolioLaw.close {s : State} (law : s.FolioLaw) (p : Nat) (noLine : ∀ l ∈ s.minibar.pool, l.folio ≠ p)
    (noSession : ∀ n ∈ s.nodes, ∀ x, n.session = some x → x.mode = .guest → x.folio ≠ some p) :
    (s.modFolio p (fun f => { f with isOpen := false })).FolioLaw := by
  refine law.of_minibar _ (fun f => if f.point = p then { f with isOpen := false } else f) rfl (fun f => ?_)
    (fun f hf => ?_) (fun f hf => ?_) (fun l hl => ?_) law.once (fun n hn x hx hg => ?_)
  · split <;> rfl
  · rw [← law.total_eq hf]
    split <;> rfl
  · have := law.balance f hf
    split <;> exact this
  · obtain ⟨f, hf, hp, ho⟩ := law.lines l hl
    exact ⟨f, hf, hp, by rw [if_neg (by rw [hp]; exact noLine l hl)]; exact ho⟩
  · obtain ⟨f, hf, hp, ho⟩ := law.sessions n hn x hx hg
    refine ⟨f, hf, hp, ?_⟩
    rw [if_neg (fun e => noSession n hn x hx hg (by rw [hp, e]))]
    exact ho

/-- A folio is discarded that no line and no GUEST session names. -/
theorem State.FolioLaw.discard {s : State} (law : s.FolioLaw) (p : Nat) (noLine : ∀ l ∈ s.minibar.pool, l.folio ≠ p)
    (noSession : ∀ n ∈ s.nodes, ∀ x, n.session = some x → x.mode = .guest → x.folio ≠ some p) :
    ({ s with minibar := { s.minibar with folios := dropKey Folio.point p s.minibar.folios } } : State).FolioLaw := by
  have sub := dropKey_sublist Folio.point p s.minibar.folios
  have stays : ∀ f ∈ s.minibar.folios, f.point ≠ p → f ∈ dropKey Folio.point p s.minibar.folios :=
    fun f hf hp => List.mem_filter.mpr ⟨hf, by simpa using hp⟩
  exact
    { nodesAscending := law.nodesAscending
      foliosAscending := law.foliosAscending.sublist sub
      copies := law.copies
      owners := fun f hf => law.owners f (sub.subset hf)
      total := fun f hf => law.total f (sub.subset hf)
      balance := fun f hf => law.balance f (sub.subset hf)
      lines := fun l hl => by
        obtain ⟨f, hf, hp, ho⟩ := law.lines l hl
        exact ⟨f, stays f hf (by rw [hp]; exact noLine l hl), hp, ho⟩
      once := law.once
      sessions := fun n hn x hx hg => by
        obtain ⟨f, hf, hp, ho⟩ := law.sessions n hn x hx hg
        exact ⟨f, stays f hf (fun e => noSession n hn x hx hg (by rw [hp, e])), hp, ho⟩ }

/-! ### Changes of one line -/

/-- The minibar with line `l` gone from the pool and its folio changed by `g`. -/
def Minibar.without (l : ChargeLine) (g : Folio → Folio) (m : Minibar) : Minibar :=
  { folios := modKey Folio.point l.folio g m.folios, pool := m.pool.filter (fun x => !x.names l.node l.comp) }

/-- A line leaves the pool, its amount leaving the pending total. -/
theorem State.FolioLaw.without {s : State} (law : s.FolioLaw) {l : ChargeLine} (hl : l ∈ s.minibar.pool) (g : Folio → Folio)
    (point : ∀ f, (g f).point = f.point) (total : ∀ f, (g f).pendingTotal = f.pendingTotal - l.amount)
    (balance : ∀ f, f.balance ≤ 9999999 → (g f).balance ≤ 9999999) (stays : ∀ f, (g f).isOpen = f.isOpen) :
    ({ s with minibar := s.minibar.without l g } : State).FolioLaw := by
  have perm := pool_perm law.once hl
  refine law.of_minibar _ (fun f => if f.point = l.folio then g f else f) rfl (fun f => ?_) (fun f hf => ?_)
    (fun f hf => ?_) (fun x hx => ?_) (law.once.sublist List.filter_sublist) (fun n hn x hx hg => ?_)
  · split <;> simp [point]
  · have sum := law.total_eq hf
    rw [pendingSum_perm perm, pendingSum_cons] at sum
    show _ = pendingSum f.point (s.minibar.pool.filter _)
    split
    · rename_i e
      rw [if_pos e.symm] at sum
      rw [total, sum]; omega
    · rename_i e
      rw [if_neg (Ne.symm e)] at sum
      omega
  · split
    · exact balance f (law.balance f hf)
    · exact law.balance f hf
  · obtain ⟨f, hf, hp, ho⟩ := law.lines x (List.mem_filter.mp hx).1
    exact ⟨f, hf, hp, by split; exacts [(stays f).trans ho, ho]⟩
  · obtain ⟨f, hf, hp, ho⟩ := law.sessions n hn x hx hg
    exact ⟨f, hf, hp, by split; exacts [(stays f).trans ho, ho]⟩

/-- A line takes another form that names the same compartment and folio. -/
theorem State.FolioLaw.setLine {s : State} (law : s.FolioLaw) {old new : ChargeLine} (hl : old ∈ s.minibar.pool)
    (node : new.node = old.node) (comp : new.comp = old.comp) (folio : new.folio = old.folio) : (s.setLine old new).FolioLaw := by
  have perm := pool_perm law.once hl
  have perm' : (s.minibar.pool.map (fun x => if x.names old.node old.comp then new else x)).Perm
      (new :: s.minibar.pool.filter (fun x => !x.names old.node old.comp)) := by
    refine (perm.map _).trans ?_
    rw [List.map_cons, if_pos (by simp [ChargeLine.names])]
    refine List.Perm.cons _ (.of_eq ((List.map_congr_left (g := id) (fun x hx => ?_)).trans (List.map_id _)))
    have := (List.mem_filter.mp hx).2
    simp_all
  refine law.of_minibar _ (fun f => if f.point = old.folio then
    { f with pendingTotal := f.pendingTotal + new.amount - old.amount } else f) rfl (fun f => ?_) (fun f hf => ?_)
    (fun f hf => ?_) (fun x hx => ?_) ?_ (fun n hn x hx hg => ?_)
  · split <;> rfl
  · have sum := law.total_eq hf
    show _ = pendingSum f.point (s.minibar.pool.map _)
    rw [pendingSum_perm perm', pendingSum_cons, folio]
    rw [pendingSum_perm perm, pendingSum_cons] at sum
    split
    · rename_i e
      rw [if_pos e.symm] at sum ⊢
      show f.pendingTotal + new.amount - old.amount = _
      omega
    · rename_i e
      rw [if_neg (Ne.symm e)] at sum ⊢
      exact sum
  · have := law.balance f hf
    split <;> exact this
  · have named : ∃ y ∈ s.minibar.pool, y.folio = x.folio := by
      obtain ⟨y, hy, rfl⟩ := List.mem_map.mp hx
      split
      · exact ⟨old, hl, folio.symm⟩
      · exact ⟨y, hy, rfl⟩
    obtain ⟨y, hy, e⟩ := named
    obtain ⟨f, hf, hp, ho⟩ := law.lines y hy
    exact ⟨f, hf, hp.trans e, by split <;> exact ho⟩
  · show PoolOnce (s.minibar.pool.map _)
    refine List.pairwise_map.mpr (law.once.imp (fun {x y} h => ?_))
    have same : ∀ z : ChargeLine, (if z.names old.node old.comp then new else z).node = z.node ∧
        (if z.names old.node old.comp then new else z).comp = z.comp := fun z => by
      split
      · obtain ⟨hn, hc⟩ := (z.names_iff _ _).mp ‹_›
        exact ⟨node.trans hn.symm, comp.trans hc.symm⟩
      · exact ⟨rfl, rfl⟩
    rw [(same x).1, (same x).2, (same y).1, (same y).2]
    exact h
  · obtain ⟨f, hf, hp, ho⟩ := law.sessions n hn x hx hg
    exact ⟨f, hf, hp, by split <;> exact ho⟩

/-- A line joins the pool for a compartment that none names, to an OPEN folio. -/
theorem State.FolioLaw.addLine {s : State} (law : s.FolioLaw) {l : ChargeLine} (free : s.lineFor? l.node l.comp = none)
    {f : Folio} (hf : s.folio? l.folio = some f) (ho : f.isOpen = true) :
    ((s.setPool (s.minibar.pool ++ [l])).modFolio l.folio (fun f =>
        { f with pendingTotal := f.pendingTotal + l.amount })).FolioLaw := by
  have none_ : ∀ x ∈ s.minibar.pool, ¬ (x.node = l.node ∧ x.comp = l.comp) := by
    intro x hx e
    exact absurd ((x.names_iff _ _).mpr e) (by simpa using List.find?_eq_none.mp free x hx)
  refine law.of_minibar _ (fun f => if f.point = l.folio then { f with pendingTotal := f.pendingTotal + l.amount } else f) rfl
    (fun f => ?_) (fun f hf => ?_) (fun f hf => ?_) (fun x hx => ?_) ?_ (fun n hn x hx hg => ?_)
  · split <;> rfl
  · have sum := law.total_eq hf
    show _ = pendingSum f.point (s.minibar.pool ++ [l])
    rw [pendingSum_append, pendingSum_cons, ← sum]
    split
    · rename_i e
      rw [if_pos e.symm]
      rfl
    · rename_i e
      rw [if_neg (Ne.symm e)]
      rfl
  · have := law.balance f hf
    split <;> exact this
  · rcases List.mem_append.mp hx with hx | hx
    · obtain ⟨g, hg, hp, hgo⟩ := law.lines x hx
      exact ⟨g, hg, hp, by split <;> exact hgo⟩
    · obtain ⟨hp, hm⟩ := State.folio?_mem hf
      rw [List.mem_singleton.mp hx]
      exact ⟨f, hm, hp, by split <;> exact ho⟩
  · show PoolOnce (s.minibar.pool ++ [l])
    refine List.pairwise_append.mpr ⟨law.once, List.pairwise_singleton _ _, fun x hx y hy => ?_⟩
    rw [List.mem_singleton.mp hy]
    exact none_ x hx
  · obtain ⟨g, hg', hp, hgo⟩ := law.sessions n hn x hx hg
    exact ⟨g, hg', hp, by split <;> exact hgo⟩

end Sys2Proof.Machine

/-! SUPPORT. The minibar unit's operations as edits: commits, charges, returns, sessions, checkouts. -/

namespace Sys2Proof.Machine

open Sys2Proof

/-! ### Folios and records together -/

/-- The law of the folios reads the node table and the minibar unit alone. -/
theorem State.FolioLaw.congr {s t : State} (law : s.FolioLaw) (nodes : t.nodes = s.nodes) (minibar : t.minibar = s.minibar) :
    t.FolioLaw := by
  obtain ⟨na, fa, co, ow, tot, ba, li, on, se⟩ := law
  exact ⟨nodes ▸ na, minibar ▸ fa, nodes ▸ co, by rw [nodes, minibar]; exact ow,
    by unfold State.linesOf at *; rw [minibar]; exact tot, minibar ▸ ba, minibar ▸ li, minibar ▸ on, by rw [nodes, minibar]; exact se⟩

/-- What an act leaves that changes folios and lines and writes records: every other field, the journal's law and the port
but for notices. -/
structure Charged (s t : State) : Prop where
  rest : t = { s with minibar := t.minibar, journal := t.journal, port := t.port }
  numbered : s.journal.Law → t.journal.Law
  noticed : PortNoticed s.port t.port

theorem Charged.refl (s : State) : Charged s s := ⟨rfl, id, .refl _⟩

theorem Charged.trans {s t u : State} (h : Charged s t) (h' : Charged t u) : Charged s u :=
  ⟨by rw [h'.rest, h.rest], h'.numbered ∘ h.numbered, h.noticed.trans h'.noticed⟩

theorem Charged.minibar (s : State) (m : Minibar) : Charged s { s with minibar := m } := ⟨rfl, id, .refl _⟩

theorem Charged.append (s : State) (e : Entry) : Charged s (s.append e) where
  rest := by
    unfold State.append State.raise
    dsimp only
    (repeat' split) <;> rfl
  numbered := fun h => by rw [State.append_journal]; exact Journal.push_law _ _ h
  noticed := s.append_noticed e

theorem Charged.judgeHeld (s : State) (p : Nat) (b : Bool) : Charged s (s.judgeHeld p b) := by
  unfold State.judgeHeld
  split
  · split
    · exact .append _ _
    · exact .refl s
  · exact .refl s

theorem Charged.commitLine (s : State) (l : ChargeLine) : Charged s (s.commitLine l) :=
  (Charged.minibar s _).trans (.append _ _)

theorem Charged.commitLines (due : List ChargeLine) : ∀ s : State, Charged s (due.foldl (fun t l => t.commitLine l) s) := by
  induction due with
  | nil => exact Charged.refl
  | cons l due ih => exact fun s => (Charged.commitLine s l).trans (ih _)

section Evolving
variable {a : Rights} {s t : State}

theorem Charged.evolves (h : Charged s t) (law : s.FolioLaw → t.FolioLaw)
    (pool : s.minibar.pool.length ≤ 64 → t.minibar.pool.length ≤ 64) : Evolves a s t := by
  have first : Evolves a s { s with minibar := t.minibar } :=
    (Edit.minibar t.minibar (fun l => (law l).congr (by rw [h.rest]) rfl) pool).evolves
  have second : Evolves a { s with minibar := t.minibar } { s with minibar := t.minibar, journal := t.journal, port := t.port } :=
    (Edit.record (s := { s with minibar := t.minibar }) t.journal t.port h.numbered h.noticed).evolves
  rw [← h.rest] at second
  exact first.trans second

end Evolving

theorem State.FolioLaw.append {s : State} (law : s.FolioLaw) (e : Entry) : (s.append e).FolioLaw :=
  law.congr (by simp) (by simp)

theorem State.FolioLaw.judgeHeld {s : State} (law : s.FolioLaw) (p : Nat) (b : Bool) : (s.judgeHeld p b).FolioLaw :=
  law.congr (by simp) (by simp)

/-! ### Commits (08:R157, R158) -/

theorem State.FolioLaw.commitLine {s : State} (law : s.FolioLaw) {l : ChargeLine} (hl : l ∈ s.minibar.pool) :
    (s.commitLine l).FolioLaw :=
  (law.without hl (fun f => { f with balance := satAdd 9999999 f.balance l.amount, pendingTotal := f.pendingTotal - l.amount })
    (fun _ => rfl) (fun _ => rfl) (fun _ _ => satAdd_le _ _ _) (fun _ => rfl)).append _

theorem State.commitLine_pool_sublist (s : State) (l : ChargeLine) : (s.commitLine l).minibar.pool.Sublist s.minibar.pool := by
  rw [State.commitLine_pool]; exact List.filter_sublist

theorem State.commitLines_pool_sublist (due : List ChargeLine) (s : State) :
    (due.foldl (fun t l => t.commitLine l) s).minibar.pool.Sublist s.minibar.pool := by
  rw [(State.commitLines due s).1]; exact List.filter_sublist

theorem State.FolioLaw.commitLines (due : List ChargeLine) : ∀ {s : State}, s.FolioLaw → PoolOnce due →
    (∀ l ∈ due, l ∈ s.minibar.pool) → (due.foldl (fun t l => t.commitLine l) s).FolioLaw := by
  induction due with
  | nil => exact fun law _ _ => law
  | cons l due ih =>
    intro s law once mem
    obtain ⟨apart, once⟩ := List.pairwise_cons.mp once
    refine ih (law.commitLine (mem l (by simp))) once (fun x hx => ?_)
    rw [State.commitLine_pool]
    refine List.mem_filter.mpr ⟨mem x (by simp [hx]), ?_⟩
    have := apart x hx
    simp only [ChargeLine.names, Bool.not_eq_true', Bool.and_eq_false_iff, beq_eq_false_iff_ne]
    grind

section Evolving
variable {a : Rights} {s : State}

/-- Lines of the pool are committed in pool order. -/
theorem Evolves.commitLines {due : List ChargeLine} (sub : due.Sublist s.minibar.pool) :
    Evolves a s (due.foldl (fun t l => t.commitLine l) s) :=
  (Charged.commitLines due s).evolves (fun law => law.commitLines due (law.once.sublist sub) (fun _ hl => sub.subset hl))
    ((State.commitLines_pool_sublist due s).length_le.trans)

theorem Evolves.commitLine {l : ChargeLine} (hl : l ∈ s.minibar.pool) : Evolves a s (s.commitLine l) :=
  Evolves.commitLines (due := [l]) (List.singleton_sublist.mpr hl)

theorem Evolves.commitWhere (p : ChargeLine → Bool) : Evolves a s (s.commitWhere p) := Evolves.commitLines List.filter_sublist

theorem Evolves.commitDue : Evolves a s s.commitDue := .commitWhere _

/-- The due lines ahead of a line of the pool, then it. -/
theorem Evolves.commitThrough {x c : Nat} {l : ChargeLine} (hl : s.lineFor? x c = some l) : Evolves a s (s.commitThrough l) := by
  obtain ⟨hm, rfl, rfl⟩ := lineFor?_mem hl
  refine Evolves.commitLines (due := (linesAhead l.node l.comp s.minibar.pool).filter (ChargeLine.due s.now) ++ [l]) ?_
  have split := List.find?_eq_some_iff_append.mp hl
  obtain ⟨-, ahead, behind, eq, notAhead⟩ := split
  rw [eq, linesAhead_append (fun y hy => by simpa using notAhead y hy) (by simp [ChargeLine.names])]
  exact List.filter_sublist.append (by simp)

end Evolving

/-! ### Charges and returns (08:R152, R153) -/

theorem State.FolioLaw.chargeNow {s : State} (law : s.FolioLaw) (l : ChargeLine) : (s.chargeNow l).FolioLaw :=
  (law.modFolio l.folio (Folio.charged l.amount) (fun _ => rfl) (fun _ => rfl) (fun _ _ => satAdd_le _ _ _)
    (fun _ h => h)).append _

theorem State.commitLine_isOpen {s : State} (l : ChargeLine) {p : Nat} {f : Folio} (hf : s.folio? p = some f)
    (ho : f.isOpen = true) : ∃ g, (s.commitLine l).folio? p = some g ∧ g.isOpen = true := by
  rw [State.commitLine_folio?, hf]
  split
  · exact ⟨_, rfl, by rw [Folio.committed_rest]; exact ho⟩
  · exact ⟨f, rfl, ho⟩

/-- With the pool full its head is committed before a line joins. -/
def State.makeLineRoom (s : State) : State :=
  match s.minibar.pool with
  | h :: _ => if 64 ≤ s.minibar.pool.length then s.commitLine h else s
  | [] => s

theorem State.makeLineRoom_cases (s : State) : s.makeLineRoom = s ∧ s.minibar.pool.length < 64 ∨
    ∃ h ∈ s.minibar.pool, s.makeLineRoom = s.commitLine h := by
  unfold State.makeLineRoom
  split
  · rename_i h _ e
    split
    · exact .inr ⟨h, by simp [e], rfl⟩
    · exact .inl ⟨rfl, by omega⟩
  · rename_i e
    exact .inl ⟨rfl, by simp [e]⟩

theorem State.commitLine_pool_lt {s : State} {l : ChargeLine} (hl : l ∈ s.minibar.pool) :
    (s.commitLine l).minibar.pool.length < s.minibar.pool.length := by
  rw [State.commitLine_pool]
  exact List.length_filter_lt_length_iff_exists.mpr ⟨l, hl, by simp [ChargeLine.names]⟩

theorem State.charge_eq (folio a c n price item : Nat) (s : State) : s.charge folio a c n price item =
    match s.lineFor? a c with
    | some l => (s.setLine l { l with count := satAdd 15 l.count n, amount := price * satAdd 15 l.count n }).judgeHeld folio
        (s.folioHeld folio)
    | none =>
      let l : ChargeLine := ⟨folio, a, c, item, min 15 n, price * min 15 n, s.now, s.now + s.settings.returnWindow⟩
      if s.settings.returnWindow = 0 then (s.chargeNow l).judgeHeld folio (s.folioHeld folio)
      else ((s.makeLineRoom.setPool (s.makeLineRoom.minibar.pool ++ [l])).modFolio folio (fun f =>
        { f with pendingTotal := f.pendingTotal + l.amount })).judgeHeld folio (s.folioHeld folio) := rfl

section Evolving
variable {a : Rights} {s : State}

theorem Evolves.setLine {old new : ChargeLine} (hl : old ∈ s.minibar.pool) (node : new.node = old.node)
    (comp : new.comp = old.comp) (folio : new.folio = old.folio) : Evolves a s (s.setLine old new) :=
  (Charged.minibar s _).evolves (fun law => law.setLine hl node comp folio)
    (by simp [State.setPool])

theorem Evolves.judgeHeld (p : Nat) (b : Bool) : Evolves a s (s.judgeHeld p b) :=
  (Charged.judgeHeld s p b).evolves (fun law => law.judgeHeld p b) (by simp)

/-- A removal charged to a folio that is OPEN. -/
theorem Evolves.charge {folio : Nat} (x c n price item : Nat)
    (isOpen : s.FolioLaw → ∃ f, s.folio? folio = some f ∧ f.isOpen = true) : Evolves a s (s.charge folio x c n price item) := by
  rw [State.charge_eq]
  cases hl : s.lineFor? x c with
  | some l =>
    refine Evolves.trans ?_ (.judgeHeld _ _)
    exact .setLine (lineFor?_mem hl).1 rfl rfl rfl
  | none =>
    dsimp only
    split
    · exact (((Charged.minibar s _).trans (.append _ _)).evolves (fun law => law.chargeNow _) (by simp)).trans (.judgeHeld _ _)
    · refine Evolves.trans ?_ (.judgeHeld _ _)
      rcases s.makeLineRoom_cases with ⟨eq, room⟩ | ⟨h, hh, eq⟩
      · rw [eq]
        refine (Charged.minibar s _).evolves (fun law => ?_) (fun _ => by simp [State.setPool]; omega)
        obtain ⟨f, hf, ho⟩ := isOpen law
        exact State.FolioLaw.addLine (l := ⟨folio, x, c, _, _, _, _, _⟩) law hl hf ho
      · rw [eq]
        have fewer := State.commitLine_pool_lt hh
        refine ((Charged.commitLine s h).trans (.minibar _ _)).evolves (fun law => ?_)
          (fun _ => by simp [State.setPool]; omega)
        obtain ⟨f, hf, ho⟩ := isOpen law
        obtain ⟨g, hg, hgo⟩ := State.commitLine_isOpen h hf ho
        refine State.FolioLaw.addLine (l := ⟨folio, x, c, _, _, _, _, _⟩) (law.commitLine hh) ?_ hg hgo
        refine List.find?_eq_none.mpr (fun y hy => ?_)
        exact List.find?_eq_none.mp hl y ((s.commitLine_pool_sublist h).subset hy)

theorem Evolves.giveBack (x c n price : Nat) (cred : Option Nat) : Evolves a s (s.giveBack x c n price cred) := by
  unfold State.giveBack
  split
  · have hm := (lineFor?_mem ‹s.lineFor? x c = some _›).1
    split
    · exact (Charged.minibar s _).evolves
        (fun law => law.without hm _ (fun _ => rfl) (fun _ => rfl) (fun _ h => h) (fun _ => rfl))
        ((List.length_filter_le _ _).trans)
    · exact .setLine hm rfl rfl rfl
  · exact .append s _

/-! ### Stock and compartment events (08:R151 to R155) -/

theorem Evolves.stockFall (n : Node) (c k : Nat) : Evolves a s (s.stockFall n c k) := by
  have first : Evolves a s (s.modNode n.addr (Node.setStock c ((n.comp c).stock - k))) :=
    .modNode_inert _ _ (fun m => { comps := by simp [Node.setStock] })
  exact .ite (fun _ => first.then_append _) (fun _ => first)

theorem Evolves.stockRise (n : Node) (c k : Nat) : Evolves a s (s.stockRise n c k) := by
  have first : Evolves a s (s.modNode n.addr (Node.setStock c (min (n.comp c).capacity ((n.comp c).stock + k)))) :=
    .modNode_inert _ _ (fun m => { comps := by simp [Node.setStock] })
  exact .ite (fun _ => first.then_append _) (fun _ => first)

theorem State.stockFall_session {n : Node} (hn : s.node? n.addr = some n) (c k : Nat) :
    ∃ m, (s.stockFall n c k).node? n.addr = some m ∧ m.session = n.session := by
  have nodes : (s.stockFall n c k).nodes = (s.modNode n.addr (Node.setStock c ((n.comp c).stock - k))).nodes := by
    unfold State.stockFall State.stockAnomaly
    dsimp only
    split <;> simp
  refine ⟨Node.setStock c ((n.comp c).stock - k) n, ?_, rfl⟩
  unfold State.node?
  rw [nodes]
  exact (State.modNode_node? s n.addr (Node.setStock c ((n.comp c).stock - k)) (fun _ => rfl)).trans (by rw [hn]; rfl)

theorem State.openFolio?_some {e : Option Nat} {p : Nat} (h : s.openFolio? e = some p) :
    ∃ f, s.folio? p = some f ∧ f.isOpen = true := by
  unfold State.openFolio? at h
  cases e with
  | none => simp at h
  | some q =>
    simp only [Option.bind_some, Option.ite_none_right_eq_some, Option.some.injEq] at h
    obtain ⟨ho, rfl⟩ := h
    exact Option.any_eq_true_iff_get .. |>.mp ho |> fun ⟨hs, ho⟩ => ⟨_, (Option.some_get hs).symm, ho⟩

theorem Evolves.removedItem {n : Node} (hn : s.node? n.addr = some n) (c k : Nat) : Evolves a s (s.removedItem n c k) := by
  unfold State.removedItem
  dsimp only
  have first := Evolves.stockFall (a := a) (s := s) n c k
  split
  · split
    · rename_i ses hs _ _ f hg hf
      refine first.trans (.charge _ _ _ _ _ (fun law => ?_))
      obtain ⟨m, hm, he⟩ := State.stockFall_session hn c k
      obtain ⟨g, hg', hp, ho⟩ := law.sessions m (findKey_some Node.addr hm).2 ses (by rw [he, hs]) hg
      rw [hf] at hp
      refine ⟨g, ?_, ho⟩
      rw [Option.some.inj hp]
      exact findKey_of_mem Folio.point law.foliosAscending hg'
    · exact first
  · split
    · exact (first.then_append _).trans (.charge _ _ _ _ _ (fun _ => State.openFolio?_some ‹_›))
    · exact first.then_append _

theorem Evolves.returnedItem (n : Node) (c k : Nat) : Evolves a s (s.returnedItem n c k) := by
  unfold State.returnedItem
  dsimp only
  have first := Evolves.stockRise (a := a) (s := s) n c k
  split
  · split
    · exact first.trans (.giveBack _ _ _ _ _)
    · exact first
  · exact first.trans (.giveBack _ _ _ _ _)

/-! ### Sessions -/

/-- A node record changed in its session at most, to one that ends or charges an OPEN folio. -/
theorem NodeKept.session_of {n m : Node} (hn : n ∈ s.nodes) (h : NodeInert n { m with session := n.session })
    (ses : ∀ x, m.session = some x → x.mode = .guest →
      n.session = some x ∨ ∃ f ∈ s.minibar.folios, x.folio = some f.point ∧ f.isOpen = true) : NodeKept s n m where
  addr := h.addr
  comps := h.comps
  memory := by rw [show m.memory = n.memory from h.memory]; exact id
  answering := by rw [show m.st = n.st from h.st]; exact fun ha => .inr ⟨n, hn, ha⟩
  clock := by rw [show m.clock = n.clock from h.clock]; exact fun law => law n hn
  enrol := by rw [show m.enrol = n.enrol from h.enrol]; exact fun _ => rfl
  copy := h.copy
  session := ses

theorem NodeKept.endSession {n : Node} (hn : n ∈ s.nodes) : NodeKept s n n.endSession :=
  .session_of hn {} (by simp [Node.endSession])

theorem Evolves.endSession (k : Nat) : Evolves a s (s.modNode k Node.endSession) :=
  .modNode _ _ (fun _ hn _ => .endSession hn)

theorem Evolves.openSession (k : Nat) (m : SessionMode) (cred : Nat) : Evolves a s (s.openSession k m cred) := by
  unfold State.openSession
  split
  · exact .refl s
  · split
    · exact .modNode _ _ (fun n hn _ => .session_of hn {} (by simp))
    · split
      · obtain ⟨f, hf, ho⟩ := State.openFolio?_some ‹_›
        obtain ⟨hp, hm⟩ := State.folio?_mem hf
        refine .modNode _ _ (fun n hn _ => .session_of hn {} (fun x hx _ => .inr ⟨f, hm, ?_, ho⟩))
        rw [← Option.some.inj hx, hp]
      · exact .endSession _

theorem Evolves.endSessionsOf (p : Nat) : Evolves a s (s.endSessionsOf p) :=
  .mapNodes _ (fun n hn => by split; exacts [.endSession hn, .refl hn])

theorem State.endSessionsOf_none (p : Nat) : ∀ n ∈ (s.endSessionsOf p).nodes, ∀ x, n.session = some x → x.mode = .guest →
    x.folio ≠ some p := by
  intro n hn x hx hg hp
  obtain ⟨m, -, rfl⟩ := List.mem_map.mp hn
  split at hx
  · simp [Node.endSession] at hx
  · rename_i h
    simp [hx, hg, hp] at h

/-- No line of a folio is left once those that name it are committed. -/
theorem State.commitWhere_folio_none (p : Nat) : ∀ l ∈ (s.commitWhere (fun l => l.folio == p)).minibar.pool, l.folio ≠ p := by
  intro l hl
  rw [show s.commitWhere (fun l => l.folio == p) = _ from rfl, State.commitWhere, (State.commitLines _ s).1] at hl
  obtain ⟨hm, hn⟩ := List.mem_filter.mp hl
  intro hp
  have : (s.minibar.pool.filter (fun l => l.folio == p)).any (fun y => l.names y.node y.comp) = true :=
    List.any_eq_true.mpr ⟨l, List.mem_filter.mpr ⟨hm, by simp [hp]⟩, by simp [ChargeLine.names]⟩
  simp [this] at hn

/-! ### Checkouts (08:R161, R162, R166) -/

theorem Evolves.checkoutFolio (p : Nat) : Evolves a s (s.checkoutFolio p) := by
  unfold State.checkoutFolio
  split
  · split
    · refine ((Evolves.commitWhere (fun l => l.folio == p)).trans (.endSessionsOf p)).trans ?_
      refine (Charged.minibar _ _).evolves (fun law => law.close p ?_ (State.endSessionsOf_none p)) (by simp)
      rw [State.endSessionsOf_minibar]
      exact State.commitWhere_folio_none p
    · exact .refl s
  · exact .refl s

theorem Evolves.discardFolio (p : Nat) : Evolves a s (s.discardFolio p) := by
  unfold State.discardFolio
  refine ((Evolves.commitWhere (fun l => l.folio == p)).trans (.endSessionsOf p)).trans ?_
  refine (Charged.minibar _ _).evolves (fun law => law.discard p ?_ (State.endSessionsOf_none p)) (by simp)
  rw [State.endSessionsOf_minibar]
  exact State.commitWhere_folio_none p

theorem Evolves.modFolio (p : Nat) (g : Folio → Folio) (point : ∀ f, (g f).point = f.point)
    (total : ∀ f, (g f).pendingTotal = f.pendingTotal) (balance : ∀ f, f.balance ≤ 9999999 → (g f).balance ≤ 9999999)
    (stays : ∀ f, f.isOpen = true → (g f).isOpen = true) : Evolves a s (s.modFolio p g) :=
  (Charged.minibar s _).evolves (fun law => law.modFolio p g point total balance stays) (by simp)

theorem Evolves.reopenFolio (p : Nat) : Evolves a s (s.reopenFolio p) := by
  unfold State.reopenFolio
  split
  · exact .refl s
  · dsimp only
    refine Evolves.trans ?_ (.judgeHeld _ _)
    refine Evolves.trans (?_ : Evolves a s _) (.modFolio p (fun g => { g with
      isOpen := true, balance := 0, ceiling := s.settings.defaultCeiling, openedAt := some s.now })
      (fun _ => rfl) (fun _ => rfl) (by simp) (by simp))
    exact .ite (fun _ => (Evolves.checkoutFolio p).then_append _) (fun _ => .refl s)

theorem Evolves.minibarLeaves (k : Nat) : Evolves a s (s.minibarLeaves k) := (Evolves.commitWhere _).trans (.endSession k)

end Evolving

end Sys2Proof.Machine

/-! SUPPORT. Credential slots and room records: each change of the store keeps the partition of the slots, each change of a
room its law, and the operations of the credential store and of the room records as edits. -/

namespace Sys2Proof.Machine

open Sys2Proof

/-! ### Keyed lists in ascending order -/

section Keyed
variable {α : Type} (key : α → Nat)

theorem mem_putKey_of {x y : α} {l : List α} (h : y ∈ putKey key x l) : y = x ∨ y ∈ l := by
  induction l with
  | nil => simpa [putKey] using h
  | cons z zs ih =>
    unfold putKey at h
    split at h
    · simpa using h
    · split at h
      · rcases List.mem_cons.mp h with h | h
        · exact .inl h
        · exact .inr (by simp [h])
      · rcases List.mem_cons.mp h with h | h
        · exact .inr (by simp [h])
        · exact (ih h).imp_right (by simp +contextual)

theorem putKey_ascending {x : α} {l : List α} (h : l.Pairwise (fun a b => key a < key b)) :
    (putKey key x l).Pairwise (fun a b => key a < key b) := by
  induction l with
  | nil => simp [putKey]
  | cons z zs ih =>
    obtain ⟨first, rest⟩ := List.pairwise_cons.mp h
    unfold putKey
    split
    · rename_i lt
      refine List.pairwise_cons.mpr ⟨fun y hy => ?_, h⟩
      rcases List.mem_cons.mp hy with rfl | hy
      · exact lt
      · exact lt.trans (first y hy)
    · split
      · rename_i eq
        exact List.pairwise_cons.mpr ⟨fun y hy => eq ▸ first y hy, rest⟩
      · refine List.pairwise_cons.mpr ⟨fun y hy => ?_, ih rest⟩
        rcases mem_putKey_of key hy with rfl | hy
        · omega
        · exact first y hy

theorem mem_putKey_self (x : α) (l : List α) : x ∈ putKey key x l :=
  (findKey_some key (findKey_putKey key x l)).2

theorem mem_putKey {x y : α} {l : List α} (h : l.Pairwise (fun a b => key a < key b)) :
    y ∈ putKey key x l ↔ y = x ∨ (y ∈ l ∧ key y ≠ key x) := by
  induction l with
  | nil => simp [putKey]
  | cons z zs ih =>
    obtain ⟨first, rest⟩ := List.pairwise_cons.mp h
    unfold putKey
    split
    · rename_i lt
      simp only [List.mem_cons]
      constructor
      · rintro (rfl | rfl | hy)
        · exact .inl rfl
        · exact .inr ⟨.inl rfl, by omega⟩
        · exact .inr ⟨.inr hy, by have := first y hy; omega⟩
      · rintro (rfl | ⟨rfl | hy, -⟩) <;> simp_all
    · split
      · rename_i eq
        simp only [List.mem_cons]
        constructor
        · rintro (rfl | hy)
          · exact .inl rfl
          · exact .inr ⟨.inr hy, by have := first y hy; omega⟩
        · rintro (rfl | ⟨rfl | hy, ne⟩)
          · exact .inl rfl
          · exact absurd eq.symm ne
          · exact .inr hy
      · rename_i nlt ne
        rw [List.mem_cons, ih rest, List.mem_cons]
        constructor
        · rintro (rfl | rfl | ⟨hy, hk⟩)
          · exact .inr ⟨.inl rfl, Ne.symm ne⟩
          · exact .inl rfl
          · exact .inr ⟨.inr hy, hk⟩
        · rintro (rfl | ⟨rfl | hy, hk⟩)
          · exact .inr (.inl rfl)
          · exact .inl rfl
          · exact .inr (.inr ⟨hy, hk⟩)

theorem modKey_ascending (f : α → α) (hf : ∀ x, key (f x) = key x) (k : Nat) {l : List α}
    (h : l.Pairwise (fun a b => key a < key b)) : (modKey key k f l).Pairwise (fun a b => key a < key b) := by
  unfold modKey
  rw [List.pairwise_map]
  exact h.imp (fun {a b} hab => by split <;> split <;> simpa [hf] using hab)

theorem mem_modKey {f : α → α} {k : Nat} {l : List α} {y : α} :
    y ∈ modKey key k f l ↔ ∃ x ∈ l, y = if key x = k then f x else x := by
  simp [modKey, eq_comm]

end Keyed

/-! ### The retired order (04:R64) -/

/-- The retired_at of a slot; 0 for a slot that holds none. -/
def Store.retiredAt (st : Store) (k : Nat) : Nat := ((findKey Cred.number k st.recs).bind (fun c => c.st.retiredAt)).getD 0

theorem insertRetired_perm (f : Nat → Nat) (t k : Nat) (l : List Nat) : (insertRetired f t k l).Perm (k :: l) := by
  induction l with
  | nil => exact .refl _
  | cons x xs ih =>
    unfold insertRetired
    split
    · exact .refl _
    · exact (ih.cons x).trans (List.Perm.swap k x xs)

theorem insertRetired_sorted {f g : Nat → Nat} {t k : Nat} {l : List Nat} (at_ : g k = t) (others : ∀ j ∈ l, g j = f j)
    (h : l.Pairwise (fun i j => f i ≤ f j)) : (insertRetired f t k l).Pairwise (fun i j => g i ≤ g j) := by
  induction l with
  | nil => simp [insertRetired]
  | cons x xs ih =>
    obtain ⟨first, rest⟩ := List.pairwise_cons.mp h
    have gx := others x (by simp)
    have gs : ∀ j ∈ xs, g j = f j := fun j hj => others j (by simp [hj])
    have sorted : (x :: xs).Pairwise (fun i j => g i ≤ g j) :=
      List.Pairwise.imp_of_mem (fun {i j} hi hj hij => by rw [others i hi, others j hj]; exact hij) h
    unfold insertRetired
    split
    · refine List.pairwise_cons.mpr ⟨fun y hy => ?_, sorted⟩
      rcases List.mem_cons.mp hy with rfl | hy
      · rw [at_, gx]; omega
      · have := first y hy
        rw [at_, gs y hy]; omega
    · refine List.pairwise_cons.mpr ⟨fun y hy => ?_, ih gs rest⟩
      rcases List.mem_cons.mp ((insertRetired_perm f t k xs).subset hy) with rfl | hy
      · rw [at_, gx]; omega
      · rw [gx, gs y hy]; exact first y hy

/-! ### The partition of the slots (04:R63) -/

section Partition
variable {st : Store}

theorem Store.Law.find (law : st.Law) {c : Cred} (hc : c ∈ st.recs) : findKey Cred.number c.number st.recs = some c :=
  findKey_of_mem Cred.number law.ascending hc

/-- A record that is not retired stands in no retired order. -/
theorem Store.Law.not_retired (law : st.Law) {c : Cred} (hc : c ∈ st.recs) (hr : c.st.retiredAt = none) :
    c.number ∉ st.retired := by
  rw [law.retired]
  rintro ⟨d, hd, hn, hs⟩
  have := law.find hd
  rw [hn, law.find hc] at this
  rw [← Option.some.inj this, hr] at hs
  simp at hs

/-- Records changed that stay where they are in the partition. -/
theorem Store.Law.modCred (law : st.Law) (k : Nat) (f : Cred → Cred) (num : ∀ c, (f c).number = c.number)
    (ret : ∀ c ∈ st.recs, c.number = k → (f c).st.retiredAt = c.st.retiredAt) :
    ({ st with recs := modKey Cred.number k f st.recs } : Store).Law := by
  have numbers : ∀ j, (∀ c ∈ modKey Cred.number k f st.recs, c.number ≠ j) ↔ ∀ c ∈ st.recs, c.number ≠ j := by
    intro j
    have := modKey_map_key Cred.number f num k st.recs
    have h : ∀ l : List Cred, (∀ c ∈ l, c.number ≠ j) ↔ ∀ n ∈ l.map Cred.number, n ≠ j := by simp
    rw [h, h, this]
  have at_ : ∀ j, (findKey Cred.number j (modKey Cred.number k f st.recs)).bind (fun c => c.st.retiredAt)
      = (findKey Cred.number j st.recs).bind (fun c => c.st.retiredAt) := by
    intro j
    by_cases hj : j = k
    · subst hj
      rw [findKey_modKey Cred.number f num]
      cases hc : findKey Cred.number j st.recs with
      | none => rfl
      | some c =>
        obtain ⟨hk, hm⟩ := findKey_some Cred.number hc
        exact ret c hm hk
    · rw [findKey_modKey_ne Cred.number f num hj]
  have iff : ∀ j, (∃ c ∈ modKey Cred.number k f st.recs, c.number = j ∧ c.st.retiredAt.isSome = true) ↔
      ∃ c ∈ st.recs, c.number = j ∧ c.st.retiredAt.isSome = true := by
    intro j
    constructor
    · rintro ⟨d, hd, hn, hs⟩
      obtain ⟨c, hc, rfl⟩ := (mem_modKey Cred.number).mp hd
      refine ⟨c, hc, ?_⟩
      by_cases hk : c.number = k
      · rw [if_pos hk] at hn hs
        exact ⟨(num c).symm.trans hn, by rwa [ret c hc hk] at hs⟩
      · rw [if_neg hk] at hn hs
        exact ⟨hn, hs⟩
    · rintro ⟨c, hc, hn, hs⟩
      refine ⟨_, (mem_modKey Cred.number).mpr ⟨c, hc, rfl⟩, ?_⟩
      split
      · exact ⟨(num c).trans hn, by rw [ret c hc ‹_›]; exact hs⟩
      · exact ⟨hn, hs⟩
  exact
    { ascending := modKey_ascending Cred.number f num k law.ascending
      inRange := fun d hd => by
        obtain ⟨c, hc, rfl⟩ := (mem_modKey Cred.number).mp hd
        have := law.inRange c hc
        split <;> simpa [num] using this
      freeOnce := law.freeOnce
      freeInRange := law.freeInRange
      vacant := fun j hj => (law.vacant j hj).trans (numbers j).symm
      retiredOnce := law.retiredOnce
      retired := fun j => (law.retired j).trans (iff j).symm
      sorted := law.sorted.imp (fun h => by rw [at_, at_]; exact h) }

/-- A record that is not retired becomes REVOKED or EXPIRED and enters the retired order. -/
theorem Store.Law.retire (law : st.Law) {c : Cred} (hc : c ∈ st.recs) (live : c.st.retiredAt = none) {t : Nat} {x : CredState}
    (hx : x.retiredAt = some t) :
    ({ st with recs := modKey Cred.number c.number (fun d => { d with st := x }) st.recs,
               retired := insertRetired st.retiredAt t c.number st.retired } : Store).Law := by
  have notIn := law.not_retired hc live
  have perm := insertRetired_perm st.retiredAt t c.number st.retired
  have found : findKey Cred.number c.number (modKey Cred.number c.number (fun d => { d with st := x }) st.recs)
      = some { c with st := x } := by
    rw [findKey_modKey Cred.number (fun d => { d with st := x }) (fun _ => rfl), law.find hc]; rfl
  have others : ∀ j, j ≠ c.number → findKey Cred.number j (modKey Cred.number c.number (fun d => { d with st := x }) st.recs)
      = findKey Cred.number j st.recs := fun j hj =>
    findKey_modKey_ne Cred.number (fun d => { d with st := x }) (fun _ => rfl) hj _
  exact
    { ascending := modKey_ascending Cred.number (fun d => { d with st := x }) (fun _ => rfl) _ law.ascending
      inRange := fun d hd => by
        obtain ⟨e, he, rfl⟩ := (mem_modKey Cred.number).mp hd
        have := law.inRange e he
        split <;> exact this
      freeOnce := law.freeOnce
      freeInRange := law.freeInRange
      vacant := fun j hj => by
        rw [law.vacant j hj, ← findKey_none Cred.number, ← findKey_none Cred.number]
        by_cases e : j = c.number
        · rw [e, found, law.find hc]; simp
        · rw [others j e]
      retiredOnce := perm.nodup_iff.mpr (List.nodup_cons.mpr ⟨notIn, law.retiredOnce⟩)
      retired := fun j => by
        rw [perm.mem_iff, List.mem_cons, law.retired]
        constructor
        · rintro (rfl | ⟨d, hd, rfl, hs⟩)
          · exact ⟨_, (findKey_some Cred.number found).2, rfl, by simp [hx]⟩
          · refine ⟨d, (mem_modKey Cred.number).mpr ⟨d, hd, ?_⟩, rfl, hs⟩
            rw [if_neg]
            intro e
            exact notIn (e ▸ (law.retired d.number).mpr ⟨d, hd, rfl, hs⟩)
        · rintro ⟨d, hd, rfl, hs⟩
          obtain ⟨e, he, rfl⟩ := (mem_modKey Cred.number).mp hd
          split
          · exact .inl ‹_›
          · rename_i ne
            rw [if_neg ne] at hs
            exact .inr ⟨e, he, rfl, hs⟩
      sorted := by
        refine insertRetired_sorted (f := st.retiredAt)
          (g := fun j => ((findKey Cred.number j (modKey Cred.number c.number (fun d => { d with st := x }) st.recs)).bind
            (fun c => c.st.retiredAt)).getD 0) ?_ (fun j hj => ?_) law.sorted
        · rw [found]; simp [hx]
        · rw [others j (fun e => notIn (e ▸ hj))]; rfl }

theorem dropKey_ascending {α : Type} (key : α → Nat) (k : Nat) {l : List α} (h : l.Pairwise (fun a b => key a < key b)) :
    (dropKey key k l).Pairwise (fun a b => key a < key b) := h.sublist (dropKey_sublist key k l)

theorem mem_dropKey {α : Type} (key : α → Nat) {k : Nat} {l : List α} {x : α} : x ∈ dropKey key k l ↔ x ∈ l ∧ key x ≠ k := by
  simp [dropKey]

/-- A record that is not retired is discarded and its slot joins the free list. -/
theorem Store.Law.vacate (law : st.Law) {c : Cred} (hc : c ∈ st.recs) (live : c.st.retiredAt = none) :
    ({ st with recs := dropKey Cred.number c.number st.recs, free := st.free ++ [c.number] } : Store).Law := by
  have notIn := law.not_retired hc live
  have small := law.inRange c hc
  have notFree : c.number ∉ st.free := fun h => (law.vacant _ small).mp h c hc rfl
  exact
    { ascending := dropKey_ascending _ _ law.ascending
      inRange := fun d hd => law.inRange d ((mem_dropKey _).mp hd).1
      freeOnce := List.nodup_append.mpr ⟨law.freeOnce, List.nodup_singleton _, fun a ha b hb e => by
        rw [e, List.mem_singleton.mp hb] at ha; exact notFree ha⟩
      freeInRange := fun j hj => by
        rcases List.mem_append.mp hj with h | h
        · exact law.freeInRange j h
        · rw [List.mem_singleton.mp h]; exact small
      vacant := fun j hj => by
        rw [List.mem_append, List.mem_singleton, law.vacant j hj]
        constructor
        · rintro (h | rfl) d hd
          · exact h d ((mem_dropKey _).mp hd).1
          · exact ((mem_dropKey _).mp hd).2
        · intro h
          by_cases e : j = c.number
          · exact .inr e
          · exact .inl (fun d hd hn => h d ((mem_dropKey _).mpr ⟨hd, fun hk => e (hn.symm.trans hk)⟩) hn)
      retiredOnce := law.retiredOnce
      retired := fun j => by
        rw [law.retired]
        constructor
        · rintro ⟨d, hd, rfl, hs⟩
          exact ⟨d, (mem_dropKey _).mpr ⟨hd, fun e => notIn (e ▸ (law.retired d.number).mpr ⟨d, hd, rfl, hs⟩)⟩, rfl, hs⟩
        · rintro ⟨d, hd, h⟩
          exact ⟨d, ((mem_dropKey _).mp hd).1, h⟩
      sorted := List.Pairwise.imp_of_mem (fun {i j} hi hj hij => by
        have ni : i ≠ c.number := fun e => notIn (e ▸ hi)
        have nj : j ≠ c.number := fun e => notIn (e ▸ hj)
        rw [findKey_dropKey_ne Cred.number ni, findKey_dropKey_ne Cred.number nj]
        exact hij) law.sorted }

/-- A record that is not retired is written in the slot at the head of the free list. -/
theorem Store.Law.fill (law : st.Law) {c : Cred} {ks : List Nat} (free : st.free = c.number :: ks)
    (live : c.st.retiredAt = none) : ({ st with recs := putKey Cred.number c st.recs, free := ks } : Store).Law := by
  have once := law.freeOnce
  rw [free, List.nodup_cons] at once
  have small : c.number ≤ 767 := law.freeInRange _ (by simp [free])
  have new : ∀ d ∈ st.recs, d.number ≠ c.number := (law.vacant _ small).mp (by simp [free])
  have mem : ∀ d, d ∈ putKey Cred.number c st.recs ↔ d = c ∨ d ∈ st.recs := fun d => by
    rw [mem_putKey Cred.number law.ascending]
    exact or_congr_right (and_iff_left_of_imp (new d))
  have asc := putKey_ascending Cred.number (x := c) law.ascending
  have find : ∀ j, j ≠ c.number → findKey Cred.number j (putKey Cred.number c st.recs) = findKey Cred.number j st.recs := by
    intro j hj
    cases h : findKey Cred.number j st.recs with
    | none =>
      rw [findKey_none] at h ⊢
      intro x hx
      rcases (mem x).mp hx with rfl | hx
      · exact Ne.symm hj
      · exact h x hx
    | some d =>
      obtain ⟨rfl, hd⟩ := findKey_some Cred.number h
      exact findKey_of_mem Cred.number asc ((mem d).mpr (.inr hd))
  have notIn : c.number ∉ st.retired := fun h => by
    obtain ⟨d, hd, hn, -⟩ := (law.retired _).mp h
    exact new d hd hn
  exact
    { ascending := asc
      inRange := fun d hd => by
        rcases (mem d).mp hd with rfl | hd
        · exact small
        · exact law.inRange d hd
      freeOnce := once.2
      freeInRange := fun j hj => law.freeInRange j (by simp [free, hj])
      vacant := fun j hj => by
        have := law.vacant j hj
        rw [free, List.mem_cons] at this
        constructor
        · intro h d hd
          rcases (mem d).mp hd with rfl | hd
          · exact fun e => once.1 (e ▸ h)
          · exact this.mp (.inr h) d hd
        · intro h
          have ne := h c ((mem c).mpr (.inl rfl))
          exact (this.mpr (fun d hd => h d ((mem d).mpr (.inr hd)))).resolve_left (Ne.symm ne)
      retiredOnce := law.retiredOnce
      retired := fun j => by
        rw [law.retired]
        constructor
        · rintro ⟨d, hd, h⟩
          exact ⟨d, (mem d).mpr (.inr hd), h⟩
        · rintro ⟨d, hd, rfl, hs⟩
          rcases (mem d).mp hd with rfl | hd
          · simp [live] at hs
          · exact ⟨d, hd, rfl, hs⟩
      sorted := List.Pairwise.imp_of_mem (fun {i j} hi hj hij => by
        rw [find i (fun e => notIn (e ▸ hi)), find j (fun e => notIn (e ▸ hj))]
        exact hij) law.sorted }

/-- The head of the retired order is discarded and its slot joins the free list's tail. -/
theorem Store.Law.purge (law : st.Law) {k : Nat} {ks : List Nat} (retired : st.retired = k :: ks) :
    ({ recs := dropKey Cred.number k st.recs, free := st.free ++ [k], retired := ks } : Store).Law := by
  have once := law.retiredOnce
  rw [retired, List.nodup_cons] at once
  obtain ⟨c, hc, hk, -⟩ := (law.retired k).mp (by simp [retired])
  have small : k ≤ 767 := hk ▸ law.inRange c hc
  have notFree : k ∉ st.free := fun h => (law.vacant _ small).mp h c hc hk
  have sorted := law.sorted
  rw [retired] at sorted
  exact
    { ascending := dropKey_ascending _ _ law.ascending
      inRange := fun d hd => law.inRange d ((mem_dropKey _).mp hd).1
      freeOnce := List.nodup_append.mpr ⟨law.freeOnce, List.nodup_singleton _, fun a ha b hb e => by
        rw [e, List.mem_singleton.mp hb] at ha; exact notFree ha⟩
      freeInRange := fun j hj => by
        rcases List.mem_append.mp hj with h | h
        · exact law.freeInRange j h
        · rw [List.mem_singleton.mp h]; exact small
      vacant := fun j hj => by
        rw [List.mem_append, List.mem_singleton, law.vacant j hj]
        constructor
        · rintro (h | rfl) d hd
          · exact h d ((mem_dropKey _).mp hd).1
          · exact ((mem_dropKey _).mp hd).2
        · intro h
          by_cases e : j = k
          · exact .inr e
          · exact .inl (fun d hd hn => h d ((mem_dropKey _).mpr ⟨hd, fun hk => e (hn.symm.trans hk)⟩) hn)
      retiredOnce := once.2
      retired := fun j => by
        have := law.retired j
        rw [retired, List.mem_cons] at this
        constructor
        · intro h
          obtain ⟨d, hd, rfl, hs⟩ := this.mp (.inr h)
          exact ⟨d, (mem_dropKey _).mpr ⟨hd, fun e => once.1 (e ▸ h)⟩, rfl, hs⟩
        · rintro ⟨d, hd, rfl, hs⟩
          obtain ⟨hd, ne⟩ := (mem_dropKey _).mp hd
          exact (this.mpr ⟨d, hd, rfl, hs⟩).resolve_left ne
      sorted := List.Pairwise.imp_of_mem (fun {i j} hi hj hij => by
        have ni : i ≠ k := fun e => once.1 (e ▸ hi)
        have nj : j ≠ k := fun e => once.1 (e ▸ hj)
        rw [findKey_dropKey_ne Cred.number ni, findKey_dropKey_ne Cred.number nj]
        exact hij) (List.pairwise_cons.mp sorted).2 }

/-- The head of the retired order is reclaimed: its record is discarded and another written in its slot. -/
theorem Store.Law.reclaim (law : st.Law) {c : Cred} {ks : List Nat} (retired : st.retired = c.number :: ks)
    (live : c.st.retiredAt = none) :
    ({ st with recs := putKey Cred.number c (dropKey Cred.number c.number st.recs), retired := ks } : Store).Law := by
  have once := law.retiredOnce
  rw [retired, List.nodup_cons] at once
  obtain ⟨b, hb, hk, -⟩ := (law.retired c.number).mp (by simp [retired])
  have small : c.number ≤ 767 := hk ▸ law.inRange b hb
  have sorted := law.sorted
  rw [retired] at sorted
  have asc := putKey_ascending Cred.number (x := c) (dropKey_ascending Cred.number c.number law.ascending)
  have mem : ∀ d, d ∈ putKey Cred.number c (dropKey Cred.number c.number st.recs) ↔ d = c ∨ (d ∈ st.recs ∧ d.number ≠ c.number) :=
    fun d => by
      rw [mem_putKey Cred.number (dropKey_ascending _ _ law.ascending), mem_dropKey]
      tauto
  have find : ∀ j, j ≠ c.number → findKey Cred.number j (putKey Cred.number c (dropKey Cred.number c.number st.recs))
      = findKey Cred.number j st.recs := by
    intro j hj
    cases h : findKey Cred.number j st.recs with
    | none =>
      rw [findKey_none] at h ⊢
      intro x hx
      rcases (mem x).mp hx with rfl | ⟨hx, -⟩
      · exact Ne.symm hj
      · exact h x hx
    | some d =>
      obtain ⟨rfl, hd⟩ := findKey_some Cred.number h
      exact findKey_of_mem Cred.number asc ((mem d).mpr (.inr ⟨hd, hj⟩))
  exact
    { ascending := asc
      inRange := fun d hd => by
        rcases (mem d).mp hd with rfl | ⟨hd, -⟩
        · exact small
        · exact law.inRange d hd
      freeOnce := law.freeOnce
      freeInRange := law.freeInRange
      vacant := fun j hj => by
        rw [law.vacant j hj]
        constructor
        · intro h d hd
          rcases (mem d).mp hd with rfl | ⟨hd, -⟩
          · exact fun e => h b hb (hk.trans e)
          · exact h d hd
        · intro h d hd e
          by_cases hn : d.number = c.number
          · exact h c ((mem c).mpr (.inl rfl)) (hn.symm.trans e)
          · exact h d ((mem d).mpr (.inr ⟨hd, hn⟩)) e
      retiredOnce := once.2
      retired := fun j => by
        have := law.retired j
        rw [retired, List.mem_cons] at this
        constructor
        · intro h
          obtain ⟨d, hd, rfl, hs⟩ := this.mp (.inr h)
          exact ⟨d, (mem d).mpr (.inr ⟨hd, fun e => once.1 (e ▸ h)⟩), rfl, hs⟩
        · rintro ⟨d, hd, rfl, hs⟩
          rcases (mem d).mp hd with rfl | ⟨hd, ne⟩
          · simp [live] at hs
          · exact (this.mpr ⟨d, hd, rfl, hs⟩).resolve_left ne
      sorted := List.Pairwise.imp_of_mem (fun {i j} hi hj hij => by
        rw [find i (fun e => once.1 (e ▸ hi)), find j (fun e => once.1 (e ▸ hj))]
        exact hij) (List.pairwise_cons.mp sorted).2 }

end Partition

end Sys2Proof.Machine

/-! SUPPORT. The operations of the credential store and of the room records as edits. -/

namespace Sys2Proof.Machine

open Sys2Proof

/-! ### Credentials that fall (04:R75) -/

theorem RecsFall.of_subset {rs ts : List Cred} (h : ∀ d ∈ ts, d.st.current = true → d ∈ rs) : RecsFall rs ts :=
  fun d hd hc => ⟨d, h d hd hc, rfl, rfl, hc, id⟩

theorem RecsFall.refl (rs : List Cred) : RecsFall rs rs := .of_subset (fun _ h _ => h)

theorem RecsFall.trans {rs ts us : List Cred} (h : RecsFall rs ts) (h' : RecsFall ts us) : RecsFall rs us := by
  intro d hd hc
  obtain ⟨c, hm, hn, hs, hcur, hia⟩ := h' d hd hc
  obtain ⟨b, hb, hn', hs', hcur', hia'⟩ := h c hm hcur
  exact ⟨b, hb, hn'.trans hn, hs'.trans hs, hcur', fun x => hia' (hia x)⟩

/-- Records changed that keep number and serial and gain no state. -/
theorem RecsFall.modKey {rs : List Cred} (k : Nat) (f : Cred → Cred) (num : ∀ c, (f c).number = c.number)
    (serial : ∀ c, (f c).serial = c.serial) (current : ∀ c, (f c).st.current = true → c.st.current = true)
    (usable : ∀ c, (f c).st = .issued ∨ (f c).st = .active → c.st = .issued ∨ c.st = .active) :
    RecsFall rs (modKey Cred.number k f rs) := by
  intro d hd hc
  obtain ⟨c, hm, rfl⟩ := (mem_modKey Cred.number).mp hd
  by_cases hk : c.number = k
  · rw [if_pos hk] at hc ⊢
    exact ⟨c, hm, (num c).symm, (serial c).symm, current c hc, usable c⟩
  · rw [if_neg hk] at hc ⊢
    exact ⟨c, hm, rfl, rfl, hc, id⟩

theorem RecsFall.dropKey (k : Nat) (rs : List Cred) : RecsFall rs (dropKey Cred.number k rs) :=
  .of_subset (fun _ hd _ => ((mem_dropKey _).mp hd).1)

theorem RecsFall.putKey {rs ts : List Cred} {c : Cred} (sub : ∀ d ∈ ts, d ∈ rs) (idle : c.st.current = false) :
    RecsFall rs (putKey Cred.number c ts) := by
  refine .of_subset (fun d hd hc => ?_)
  rcases mem_putKey_of Cred.number hd with rfl | hd
  · rw [idle] at hc; cases hc
  · exact sub d hd

/-! ### Records of the store and of the journal together -/

/-- What an act leaves that changes the credential store and writes records. -/
structure Dealt (s t : State) : Prop where
  rest : t = { s with store := t.store, journal := t.journal, port := t.port }
  numbered : s.journal.Law → t.journal.Law
  noticed : PortNoticed s.port t.port
  falls : RecsFall s.store.recs t.store.recs

theorem Dealt.refl (s : State) : Dealt s s := ⟨rfl, id, .refl _, .refl _⟩

theorem Dealt.trans {s t u : State} (h : Dealt s t) (h' : Dealt t u) : Dealt s u :=
  ⟨by rw [h'.rest, h.rest], h'.numbered ∘ h.numbered, h.noticed.trans h'.noticed, h.falls.trans h'.falls⟩

theorem Dealt.foldl {α : Type} {f : State → α → State} (act : ∀ s x, Dealt s (f s x)) (l : List α) (s : State) :
    Dealt s (l.foldl f s) := by
  induction l generalizing s with
  | nil => exact .refl s
  | cons x xs ih => exact (act s x).trans (ih _)

theorem Dealt.returnEncoding (s : State) (k : Nat) (cause : LapseCause) : Dealt s (s.returnEncoding k cause) := by
  unfold State.returnEncoding
  split
  · exact .refl s
  · rename_i c _
    have first : Dealt s { s with
        store := { s.store with recs := dropKey Cred.number k s.store.recs, free := s.store.free ++ [k] } } :=
      ⟨rfl, id, .refl _, .dropKey _ _⟩
    refine first.trans ⟨?_, fun h => by rw [State.append_journal]; exact Journal.push_law _ _ h, State.append_noticed _ _, ?_⟩
    · exact (Charged.append _ _).rest.trans (by simp)
    · rw [State.append_store]; exact .refl _

theorem Dealt.expire (s : State) (k : Nat) : Dealt s (s.expire k) := by
  unfold State.expire
  split
  · refine ⟨rfl, id, .refl _, .modKey k _ (fun _ => rfl) (fun _ => rfl) ?_ ?_⟩ <;> simp [CredState.current]
  · exact .refl s

section Evolving
variable {a : Rights} {s t : State}

theorem Dealt.evolves (h : Dealt s t) (law : s.store.Law → t.store.Law) : Evolves a s t := by
  have first : Evolves a s { s with store := t.store } := (Edit.store t.store law (.inr h.falls)).evolves
  have second : Evolves a { s with store := t.store } { s with store := t.store, journal := t.journal, port := t.port } :=
    (Edit.record (s := { s with store := t.store }) t.journal t.port h.numbered h.noticed).evolves
  rw [← h.rest] at second
  exact first.trans second

theorem Evolves.modCred (k : Nat) (f : Cred → Cred) (num : ∀ c, (f c).number = c.number)
    (ret : s.store.Law → ∀ c ∈ s.store.recs, c.number = k → (f c).st.retiredAt = c.st.retiredAt)
    (falls : a.cards ∨ RecsFall s.store.recs (modKey Cred.number k f s.store.recs)) : Evolves a s (s.modCred k f) :=
  (Edit.store _ (fun law => law.modCred k f num (ret law)) falls).evolves

/-- A record takes a state beside the retired ones, its retired_at absent before and after. -/
theorem Evolves.setCredState {k : Nat} {c : Cred} (hc : s.cred? k = some c) (live : c.st.retiredAt = none) {x : CredState}
    (hx : x.retiredAt = none) (right : a.cards) : Evolves a s (s.setCredState k x) := by
  refine .modCred k _ (fun _ => rfl) (fun law d hd hk => ?_) (.inl right)
  rw [eq_of_findKey Cred.number law.ascending hc hd hk, live]
  exact hx

/-! ### Revocations (04:R65) -/

theorem CredState.retiredAt_of_current {x : CredState} (h : x.current = true) : x.retiredAt = none := by
  cases x <;> simp_all [CredState.current, CredState.retiredAt]

theorem CredState.retiredAt_of_encoding {x : CredState} (h : x.isEncoding = true) : x.retiredAt = none := by
  cases x <;> simp_all [CredState.isEncoding, CredState.retiredAt]

theorem Evolves.revokeSlot {k : Nat} {c : Cred} (hc : s.cred? k = some c) (current : c.st.current = true) (t : Nat) (r : RevReason) :
    Evolves a s (s.retireSlot k t (.revoked t r)) := by
  obtain ⟨rfl, hm⟩ := findKey_some Cred.number hc
  refine (Edit.store (s := s) _ (fun law => ?_) (.inr ?_)).evolves
  · exact law.retire hm (CredState.retiredAt_of_current current) rfl
  · exact .modKey _ _ (fun _ => rfl) (fun _ => rfl) (by simp [CredState.current]) (by simp)

theorem Evolves.revoke (k : Nat) (r : RevReason) : Evolves a s (s.revoke k r) := by
  unfold State.revoke
  split
  · exact .refl s
  · rename_i c hc
    split
    · dsimp only
      have first : Evolves a s ((s.retireSlot k s.now (.revoked s.now r)).append
          { kind := .cardRevoked, cred := some k, serial := some c.serial, detail1 := some (.revReason r) }) :=
        (Evolves.revokeSlot hc ‹_› _ _).then_append _
      split
      · refine .ite (fun _ => first) (fun _ => ?_)
        split
        · exact first.trans (.reformEntry (List.mem_of_find?_eq_some ‹_›) _ _)
        · exact first
      · exact first
    · exact .refl s

theorem Evolves.revokeAll (ks : List Nat) (r : RevReason) : Evolves a s (s.revokeAll ks r) :=
  .foldl (fun _ _ => .revoke _ _) ks s

/-! ### Encodings (04:R77 to R79) -/

theorem Store.Law.returnEncoding {s : State} (law : s.store.Law) {k : Nat} {c : Cred} (cause : LapseCause)
    (hc : s.cred? k = some c) (he : c.st.isEncoding = true) : (s.returnEncoding k cause).store.Law := by
  rw [State.returnEncoding_store s cause hc]
  obtain ⟨rfl, hm⟩ := findKey_some Cred.number hc
  exact law.vacate hm (CredState.retiredAt_of_encoding he)

theorem Evolves.returnEncoding (k : Nat) (cause : LapseCause)
    (encoding : s.store.Law → ∀ c, s.cred? k = some c → c.st.isEncoding = true) : Evolves a s (s.returnEncoding k cause) := by
  refine (Dealt.returnEncoding s k cause).evolves (fun law => ?_)
  cases hc : s.cred? k with
  | none => simpa [State.returnEncoding, hc] using law
  | some c => exact law.returnEncoding cause hc (encoding law c hc)

theorem Evolves.cancelPending (p : Nat) (cause : LapseCause) : Evolves a s (s.cancelPending p cause) := by
  unfold State.cancelPending
  split
  · rename_i c hc
    refine .returnEncoding _ _ (fun law d hd => ?_)
    have hm := List.mem_of_find?_eq_some hc
    rw [State.cred?, law.find hm] at hd
    have := List.find?_some hc
    simp only [Bool.and_eq_true] at this
    rw [← Option.some.inj hd]
    exact this.2
  · exact .refl s

/-- Encodings returned one after another leave the slots partitioned. -/
theorem Store.Law.returnEncodings (cause : LapseCause) (cs : List Cred) : ∀ {s : State}, s.store.Law →
    (cs.map Cred.number).Nodup → (∀ c ∈ cs, c ∈ s.store.recs ∧ c.st.isEncoding = true) →
    ((cs.map Cred.number).foldl (fun t k => t.returnEncoding k cause) s).store.Law := by
  induction cs with
  | nil => exact fun law _ _ => law
  | cons c cs ih =>
    intro s law once mem
    rw [List.map_cons, List.nodup_cons] at once
    obtain ⟨hm, he⟩ := mem c (by simp)
    have hc : s.cred? c.number = some c := law.find hm
    refine ih (law.returnEncoding cause hc he) once.2 (fun d hd => ?_)
    rw [State.returnEncoding_store s cause hc]
    obtain ⟨hdm, hde⟩ := mem d (by simp [hd])
    exact ⟨(mem_dropKey _).mpr ⟨hdm, fun e => once.1 (List.mem_map.mpr ⟨d, hd, e⟩)⟩, hde⟩

theorem numbers_nodup {rs cs : List Cred} (asc : rs.Pairwise (fun c d => c.number < d.number)) (sub : cs.Sublist rs) :
    (cs.map Cred.number).Nodup := by
  unfold List.Nodup
  rw [List.pairwise_map]
  exact (asc.sublist sub).imp (fun h => Nat.ne_of_lt h)

/-- The encodings that a test takes are returned. -/
theorem Evolves.returnWhere (p : Cred → Bool) (cause : LapseCause) (enc : ∀ c, p c = true → c.st.isEncoding = true) :
    Evolves a s (((s.store.recs.filter p).map Cred.number).foldl (fun t k => t.returnEncoding k cause) s) :=
  (Dealt.foldl (fun t k => Dealt.returnEncoding t k cause) _ s).evolves (fun law =>
    law.returnEncodings cause _ (numbers_nodup law.ascending List.filter_sublist)
      (fun c hc => ⟨(List.mem_filter.mp hc).1, enc c (List.mem_filter.mp hc).2⟩))

theorem Cred.lapsed_isEncoding {c : Cred} {now : Nat} (h : c.lapsed now = true) : c.st.isEncoding = true := by
  unfold Cred.lapsed at h
  split at h <;> simp_all [CredState.isEncoding]

theorem Evolves.lapseEncodings : Evolves a s s.lapseEncodings := .returnWhere _ _ (fun _ h => Cred.lapsed_isEncoding h)

theorem Evolves.returnOrphans (ps : List Nat) : Evolves a s (s.returnOrphans ps) :=
  .returnWhere _ _ (fun _ h => by simp only [Bool.and_eq_true] at h; exact h.1)

/-! ### Slots taken and freed (04:R70, R84) -/

/-- The slot that an issue takes holds its new record. -/
theorem Evolves.takeSlot {c : Cred} (slot : s.slot? = some c.number) (live : c.st.retiredAt = none)
    (idle : c.st.current = false) : Evolves a s (s.takeSlot.putCred c) := by
  unfold State.slot? at slot
  unfold State.takeSlot
  cases hf : s.store.free with
  | cons k ks =>
    rw [hf] at slot
    obtain rfl := Option.some.inj slot
    exact (Edit.store (s := s) _ (fun law => law.fill hf live) (.inr (.putKey (fun _ h => h) idle))).evolves
  | nil =>
    rw [hf] at slot
    cases hr : s.store.retired with
    | nil => rw [hr] at slot; cases slot
    | cons k ks =>
      rw [hr] at slot
      obtain rfl : k = c.number := Option.some.inj slot
      dsimp only
      refine (Evolves.reportReuse c.number).trans ?_
      have same : (s.reportReuse c.number).store = s.store := by simp
      refine (Edit.store (s := s.reportReuse c.number) _ (fun law => ?_) (.inr ?_)).evolves
      · exact law.reclaim (by rw [same, hr]) live
      · exact .putKey (fun d hd => ((mem_dropKey _).mp hd).1) idle

theorem Evolves.purgeHead {k : Nat} {ks : List Nat} (head : s.store.retired = k :: ks) : Evolves a s (s.purgeHead k) := by
  refine (Evolves.reportReuse k).trans ?_
  have same : (s.reportReuse k).store = s.store := by simp
  refine (Edit.store (s := s.reportReuse k) _ (fun law => ?_) (.inr (.dropKey _ _))).evolves
  rw [same] at law ⊢
  rw [show s.store.retired.drop 1 = ks by rw [head]; rfl]
  exact law.purge head

theorem State.purgeHead_retired (k : Nat) (s : State) : (s.purgeHead k).store.retired = s.store.retired.drop 1 := by
  simp [State.purgeHead]

theorem Evolves.purgeAll (ks : List Nat) : ∀ s : State, ks <+: s.store.retired →
    Evolves a s (ks.foldl (fun t k => t.purgeHead k) s) := by
  induction ks with
  | nil => exact fun s _ => .refl s
  | cons k ks ih =>
    intro s pre
    obtain ⟨rest, eq⟩ := pre
    exact (Evolves.purgeHead eq.symm).trans (ih _ ⟨rest, by rw [State.purgeHead_retired, ← eq]; rfl⟩)

/-! ### Expiry (04:R83) -/

theorem State.expire_store {s : State} {k : Nat} {c : Cred} (hc : s.cred? k = some c) : (s.expire k).store =
    { s.store with recs := modKey Cred.number k (fun d => { d with st := .expired c.validEnd }) s.store.recs,
                   retired := insertRetired s.store.retiredAt c.validEnd k s.store.retired } := by
  simp only [State.expire, hc]
  rfl

theorem Store.Law.expireAll (cs : List Cred) : ∀ {s : State}, s.store.Law → (cs.map Cred.number).Nodup →
    (∀ c ∈ cs, c ∈ s.store.recs ∧ c.st.current = true) →
    ((cs.map Cred.number).foldl (fun t k => t.expire k) s).store.Law := by
  induction cs with
  | nil => exact fun law _ _ => law
  | cons c cs ih =>
    intro s law once mem
    rw [List.map_cons, List.nodup_cons] at once
    obtain ⟨hm, he⟩ := mem c (by simp)
    have hc : s.cred? c.number = some c := law.find hm
    have store := State.expire_store hc
    refine ih ?_ once.2 (fun d hd => ?_)
    · rw [store]
      exact law.retire hm (CredState.retiredAt_of_current he) rfl
    · obtain ⟨hdm, hde⟩ := mem d (by simp [hd])
      refine ⟨?_, hde⟩
      rw [store]
      refine (mem_modKey Cred.number).mpr ⟨d, hdm, ?_⟩
      rw [if_neg (fun e => once.1 (List.mem_map.mpr ⟨d, hd, e⟩))]

theorem Evolves.expirySweep : Evolves a s s.expirySweep :=
  (Dealt.foldl (fun t k => Dealt.expire t k) _ s).evolves (fun law =>
    law.expireAll _ (numbers_nodup law.ascending List.filter_sublist) (fun c hc => by
      obtain ⟨hm, h⟩ := List.mem_filter.mp hc
      simp only [Bool.and_eq_true] at h
      exact ⟨hm, h.1⟩))

/-! ### Rooms (05:R87 to R92) -/

/-- Rooms of one point changed to a floor beside their stay. -/
theorem Revoc.RoomLaw.modRoom {v : Revoc} (law : v.RoomLaw) (p : Nat) (f : Room → Room) (point : ∀ r, (f r).point = r.point)
    (floor : ∀ r ∈ v.rooms, r.point = p → (f r).floor = (f r).stay ∨ (f r).floor = (f r).stay + 1)
    (history : ∀ r, 1 ≤ r.history.length ∧ r.history.length ≤ 4 → 1 ≤ (f r).history.length ∧ (f r).history.length ≤ 4) :
    ({ v with rooms := modKey Room.point p f v.rooms } : Revoc).RoomLaw where
  ascending := modKey_ascending Room.point f point p law.ascending
  floor := fun r hr => by
    obtain ⟨q, hq, rfl⟩ := (mem_modKey Room.point).mp hr
    split
    · exact floor q hq ‹_›
    · exact law.floor q hq
  history := fun r hr => by
    obtain ⟨q, hq, rfl⟩ := (mem_modKey Room.point).mp hr
    split
    · exact history q (law.history q hq)
    · exact law.history q hq

theorem Room.pushFloor_history (v now : Nat) (r : Room) :
    1 ≤ (r.pushFloor v now).history.length ∧ (r.pushFloor v now).history.length ≤ 4 := by
  simp [Room.pushFloor]

/-- The floor pushed, the change told, the cards below revoked. -/
theorem State.setFloor_of {s : State} {p : Nat} {room : Room} (h : s.room? p = some room) (v : Nat) (r : RevReason) :
    s.setFloor p v r = if room.floor = v then s else
      let t := (s.modRoom p (Room.pushFloor v s.now)).emit (.floor p v)
      t.revokeAll (t.guestsWhere p (fun stay => stay < v)) r := by
  simp [State.setFloor, h]

theorem Evolves.modRoom (p : Nat) (f : Room → Room) (point : ∀ r, (f r).point = r.point)
    (floor : s.revoc.RoomLaw → ∀ r ∈ s.revoc.rooms, r.point = p → (f r).floor = (f r).stay ∨ (f r).floor = (f r).stay + 1)
    (history : ∀ r, 1 ≤ r.history.length ∧ r.history.length ≤ 4 → 1 ≤ (f r).history.length ∧ (f r).history.length ≤ 4) :
    Evolves a s (s.modRoom p f) :=
  (Edit.rooms (s := s) _ (fun law => law.modRoom p f point (floor law) history)).evolves

theorem Evolves.setFloor (p v : Nat) (r : RevReason)
    (beside : s.revoc.RoomLaw → ∀ x ∈ s.revoc.rooms, x.point = p → v = x.stay ∨ v = x.stay + 1) :
    Evolves a s (s.setFloor p v r) := by
  cases h : s.room? p with
  | none => simp only [State.setFloor, h]; exact .refl s
  | some room =>
    rw [State.setFloor_of h]
    refine .ite (fun _ => .refl s) (fun _ => ?_)
    dsimp only
    refine Evolves.trans (Evolves.trans ?_ (.emit _)) (.revokeAll _ _)
    exact .modRoom p (Room.pushFloor v s.now) (fun _ => rfl) beside (fun x _ => x.pushFloor_history v s.now)

theorem State.modRoom_modRoom (s : State) (p : Nat) (f g : Room → Room) (point : ∀ r, (f r).point = r.point) :
    (s.modRoom p f).modRoom p g = s.modRoom p (fun x => g (f x)) := by
  have both : modKey Room.point p g (modKey Room.point p f s.revoc.rooms) = modKey Room.point p (fun x => g (f x)) s.revoc.rooms := by
    simp only [modKey, List.map_map]
    refine List.map_congr_left (fun x _ => ?_)
    by_cases hp : x.point = p <;> simp [hp, point]
  simp only [State.modRoom, both]

/-- A room's stay sequence and floor become one value. -/
theorem Evolves.restay {p : Nat} {room : Room} (h : s.room? p = some room) (v : Nat) (r : RevReason) :
    Evolves a s ((s.modRoom p (fun x => { x with stay := v })).setFloor p v r) := by
  have found : (s.modRoom p (fun x => { x with stay := v })).room? p = some { room with stay := v } := by
    rw [State.modRoom_room? s p (fun x => { x with stay := v }) (fun _ => rfl), h]
    rfl
  rw [State.setFloor_of found]
  refine .ite (fun e => ?_) (fun _ => ?_)
  · refine .modRoom p (fun x => { x with stay := v }) (fun _ => rfl) (fun law x hx hp => .inl ?_) (fun _ hist => hist)
    rw [eq_of_findKey Room.point law.ascending h hx hp]
    exact e
  · dsimp only
    refine Evolves.trans (Evolves.trans ?_ (.emit _)) (.revokeAll _ _)
    rw [State.modRoom_modRoom s p (fun x => { x with stay := v }) _ (fun _ => rfl)]
    exact .modRoom p (fun x => Room.pushFloor v s.now { x with stay := v }) (fun _ => rfl) (fun _ _ _ _ => .inl rfl)
      (fun x _ => Room.pushFloor_history v s.now { x with stay := v })

theorem Evolves.advanceStay (p : Nat) : Evolves a s (s.advanceStay p) := by
  unfold State.advanceStay
  split
  · exact .refl s
  · exact .restay ‹_› _ _

theorem Evolves.rekey (p : Nat) : Evolves a s (s.rekey p) := by
  unfold State.rekey
  dsimp only
  have first := Evolves.cancelPending (a := a) (s := s) p .rekeyRoom
  split
  · exact first
  · exact (first.trans (.restay ‹_› _ _)).then_append _

theorem Evolves.markRoomNodes (p : Nat) : Evolves a s (s.markRoomNodes p) :=
  .mapNodes_inert _ (fun n => by split; exacts [n.marked_inert, .refl n])

theorem Evolves.resetRoom (p : Nat) : Evolves a s (s.resetRoom p) := by
  unfold State.resetRoom
  refine Evolves.trans (Evolves.trans (Evolves.trans ?_ (.revokeAll _ _)) (.emit _)) (.markRoomNodes p)
  exact .modRoom p (fun r => { r with stay := 0, floor := 1, history := [⟨1, s.now⟩], fromCreation := false })
    (fun _ => rfl) (fun _ _ _ _ => .inr rfl) (fun _ _ => by simp)

theorem State.cancelPending_revoc_rooms (p : Nat) (cause : LapseCause) (s : State) :
    (s.cancelPending p cause).revoc.rooms = s.revoc.rooms := by simp

theorem Evolves.endStay {room : Room} (h : s.room? room.point = some room) : Evolves a s (s.endStay room) := by
  unfold State.endStay
  dsimp only
  have first := Evolves.cancelPending (a := a) (s := s) room.point .checkout
  refine .ite (fun _ => first.trans (.setFloor _ _ _ (fun law x hx hp => ?_))) (fun _ => first.trans (.resetRoom _))
  rw [State.cancelPending_revoc_rooms] at hx
  have asc := law.ascending
  rw [State.cancelPending_revoc_rooms] at asc
  rw [eq_of_findKey Room.point asc h hx hp]
  exact .inr rfl

end Evolving

end Sys2Proof.Machine

/-! SUPPORT. The operations over node records and lines as edits: the urgent queue, node state changes, line state changes,
enrolment and withdrawal, DISABLE and ENABLE. -/

namespace Sys2Proof.Machine

open Sys2Proof

/-! ### The line engine -/

/-- The urgent queue, the repeat list and the round within what they were, the states of the lines standing. -/
theorem LinesKept.of {s : State} {l : LineEngine} (lineA : l.lineA.st = s.lines.lineA.st) (lineB : l.lineB.st = s.lines.lineB.st)
    (urgent : l.urgent.length ≤ s.lines.urgent.length) (repeats : l.repeats.length ≤ s.lines.repeats.length)
    (round : ∀ r, l.round = some r → ∃ q, s.lines.round = some q ∧ r.segment = q.segment ∧
      (r.windows.map Window.addr).Sublist (q.windows.map Window.addr)) : LinesKept s l where
  lineA := lineA
  lineB := lineB
  urgent := urgent.trans
  noUrgent := fun _ h => List.length_eq_zero_iff.mp (by rw [h] at urgent; simpa using urgent)
  repeats := repeats.trans
  noRepeats := fun _ h => List.length_eq_zero_iff.mp (by rw [h] at repeats; simpa using repeats)
  round := fun r hr => .inl (round r hr)

/-- The round in progress stands. -/
theorem LinesKept.sameRound {s : State} {l : LineEngine} (h : l.round = s.lines.round) : ∀ r, l.round = some r →
    ∃ q, s.lines.round = some q ∧ r.segment = q.segment ∧ (r.windows.map Window.addr).Sublist (q.windows.map Window.addr) :=
  fun r hr => ⟨r, h ▸ hr, rfl, .refl _⟩

section Evolving
variable {a : Rights} {s : State}

theorem Evolves.lines {l : LineEngine} (h : LinesKept s l) : Evolves a s { s with lines := l } := (Edit.lines l h).evolves

theorem Evolves.discardUrgent (u : Urgent) : Evolves a s (s.discardUrgent u) := by
  cases u with
  | decision d => exact .append s _
  | remoteOpen k => exact .refl s

theorem Evolves.removeUrgent (p : Urgent → Bool) : Evolves a s (s.removeUrgent p) := by
  unfold State.removeUrgent
  refine Evolves.trans ?_ (.foldl (fun _ u => .discardUrgent u) _ _)
  exact .lines (.of rfl rfl (List.length_filter_le _ _) (Nat.le_refl _) (LinesKept.sameRound rfl))

theorem Round.killWindow_addrs (k : Nat) (r : Round) : (r.killWindow k).windows.map Window.addr = r.windows.map Window.addr := by
  simp only [Round.killWindow, List.map_map]
  refine List.map_congr_left (fun w _ => ?_)
  by_cases h : w.addr = k <;> simp [h]

theorem Evolves.leaveLine (k : Nat) : Evolves a s (s.leaveLine k) := by
  unfold State.leaveLine
  dsimp only
  refine Evolves.trans (Evolves.trans ?_ (.modNode_inert k _ (fun _ => {}))) (.removeUrgent _)
  refine .lines (.of rfl rfl (Nat.le_refl _) (List.length_filter_le _ _) (fun r hr => ?_))
  obtain ⟨q, hq, rfl⟩ := Option.map_eq_some_iff.mp hr
  exact ⟨q, hq, rfl, by rw [Round.killWindow_addrs]⟩

/-! ### Node state changes (02:R29) -/

theorem Node.leaveFor_inert (st : NodeState) (n : Node) : NodeInert n (n.leaveFor st) := by
  unfold Node.leaveFor Node.reloadLeft Node.dropInProgress
  (repeat' split) <;> exact {}

/-- The entry to a state changes of what the laws read the state, and may end the session. -/
theorem Node.enter_shape (st : NodeState) (n : Node) :
    NodeInert n { n.enter st with st := n.st, session := n.session } ∧ (n.enter st).st = st ∧
      ((n.enter st).session = n.session ∨ (n.enter st).session = none) := by
  obtain ⟨h1, h2, h3, h4, h5, h6, h7, h8⟩ := n.leaveFor_inert st
  cases st <;> exact ⟨⟨h1, h2, h3, h4, h5, rfl, h7, rfl⟩, rfl, by first | exact .inr rfl | exact .inl h8⟩

/-- A node record changed in its state and session at most. -/
theorem NodeKept.entered {n m : Node} (hn : n ∈ s.nodes) (h : NodeInert n { m with st := n.st, session := n.session })
    (answering : m.st.answering = true → s.service = true ∨ ∃ k ∈ s.nodes, k.st.answering = true)
    (session : m.session = n.session ∨ m.session = none) : NodeKept s n m where
  addr := h.addr
  comps := h.comps
  memory := by rw [show m.memory = n.memory from h.memory]; exact id
  answering := answering
  clock := by rw [show m.clock = n.clock from h.clock]; exact fun law => law n hn
  enrol := by rw [show m.enrol = n.enrol from h.enrol]; exact fun _ => rfl
  copy := h.copy
  session := fun x hx _ => by
    rcases session with e | e
    · exact .inl (e ▸ hx)
    · rw [e] at hx; cases hx

theorem Evolves.changeNode (k : Nat) (st : NodeState)
    (answering : st.answering = true → s.service = true ∨ ∃ n ∈ s.nodes, n.st.answering = true) :
    Evolves a s (s.changeNode k st) := by
  unfold State.changeNode
  split
  · exact .refl s
  · refine .ite (fun _ => .refl s) (fun _ => ?_)
    refine (Evolves.then_append ?_ _).then_raise _
    refine .modNode _ _ (fun m hm _ => ?_)
    obtain ⟨inert, hst, hses⟩ := m.enter_shape st
    exact .entered hm inert (fun h => answering (by rwa [hst] at h)) hses

/-- A change to a state that does not answer needs no line. -/
theorem Evolves.changeNode_quiet (k : Nat) {st : NodeState} (h : st.answering = false) : Evolves a s (s.changeNode k st) :=
  .changeNode k st (fun h' => by rw [h] at h'; cases h')

theorem Evolves.counts (k good missed silent : Nat) : Evolves a s (s.modNode k (Node.counts good missed silent)) :=
  .modNode_inert _ _ (fun _ => {})

end Evolving

/-! ### Service lost (02:R35) -/

/-- What the laws read of a node record that at most falls silent. -/
structure NodeFalls (n m : Node) : Prop where
  inert : NodeInert n { m with st := n.st, session := n.session }
  answering : m.st.answering = true → n.st.answering = true
  session : m.session = n.session ∨ m.session = none

theorem NodeFalls.refl (n : Node) : NodeFalls n n := ⟨{}, id, .inl rfl⟩

theorem NodeFalls.of_inert {n m : Node} (h : NodeInert n m) : NodeFalls n m :=
  ⟨⟨h.addr, h.enrol, h.copy, h.comps, h.memory, rfl, h.clock, rfl⟩, by rw [h.st]; exact id, .inl h.session⟩

theorem NodeFalls.trans {n m k : Node} (h : NodeFalls n m) (h' : NodeFalls m k) : NodeFalls n k := by
  obtain ⟨h1, h2, h3, h4, h5, -, h7, -⟩ := h.inert
  obtain ⟨g1, g2, g3, g4, g5, -, g7, -⟩ := h'.inert
  refine ⟨⟨g1.trans h1, g2.trans h2, g3.trans h3, g4.trans h4, g5.trans h5, rfl, g7.trans h7, rfl⟩, h.answering ∘ h'.answering, ?_⟩
  rcases h'.session with e | e
  · rw [e]; exact h.session
  · exact .inr e

/-- What an act leaves by which nodes fall silent and records are written. -/
structure Silenced (s t : State) : Prop where
  rest : t = { s with nodes := t.nodes, journal := t.journal, port := t.port }
  numbered : s.journal.Law → t.journal.Law
  noticed : PortNoticed s.port t.port
  nodes : ∃ f, t.nodes = s.nodes.map f ∧ ∀ n, NodeFalls n (f n)

theorem Silenced.refl (s : State) : Silenced s s :=
  ⟨rfl, id, .refl _, id, (List.map_id _).symm, NodeFalls.refl⟩

theorem Silenced.trans {s t u : State} (h : Silenced s t) (h' : Silenced t u) : Silenced s u := by
  obtain ⟨f, hf, kf⟩ := h.nodes
  obtain ⟨g, hg, kg⟩ := h'.nodes
  exact ⟨by rw [h'.rest, h.rest], h'.numbered ∘ h.numbered, h.noticed.trans h'.noticed, g ∘ f,
    by rw [hg, hf, List.map_map], fun n => (kf n).trans (kg (f n))⟩

theorem Silenced.foldl {α : Type} {f : State → α → State} (act : ∀ s x, Silenced s (f s x)) (l : List α) (s : State) :
    Silenced s (l.foldl f s) := by
  induction l generalizing s with
  | nil => exact .refl s
  | cons x xs ih => exact (act s x).trans (ih _)

theorem Silenced.modNode (s : State) (k : Nat) (f : Node → Node) (h : ∀ n, NodeFalls n (f n)) : Silenced s (s.modNode k f) :=
  ⟨rfl, id, .refl _, fun n => if n.addr = k then f n else n, rfl, fun n => by dsimp only; split; exacts [h n, .refl n]⟩

theorem Silenced.record {s t : State} (rest : t = { s with journal := t.journal, port := t.port })
    (numbered : s.journal.Law → t.journal.Law) (noticed : PortNoticed s.port t.port) : Silenced s t :=
  ⟨by rw [rest], numbered, noticed, id, by rw [rest]; exact (List.map_id _).symm, NodeFalls.refl⟩

theorem Silenced.append (s : State) (e : Entry) : Silenced s (s.append e) :=
  .record ((Charged.append s e).rest.trans (by simp)) (Charged.append s e).numbered (s.append_noticed e)

theorem Silenced.raise (s : State) (k : NoticeKind) : Silenced s (s.raise k) := by
  refine .record ?_ (by rw [State.raise_journal]; exact id) (s.raise_noticed k)
  unfold State.raise
  split <;> rfl

theorem Silenced.changeNode (s : State) (k : Nat) {st : NodeState} (quiet : st.answering = false) : Silenced s (s.changeNode k st) := by
  unfold State.changeNode
  split
  · exact .refl s
  · split
    · exact .refl s
    · refine ((Silenced.modNode s k _ (fun n => ?_)).trans (.append _ _)).trans (.raise _ _)
      obtain ⟨inert, hst, hses⟩ := n.enter_shape st
      exact ⟨inert, (fun h => by rw [hst, quiet] at h; cases h), hses⟩

/-- One node of those that fall silent at the loss of service. -/
def State.silence (t : State) (k : Nat) : State :=
  match t.node? k with
  | some n => if n.st.answering then (t.changeNode k .silent).modNode k (Node.counts 0 0 0) else t
  | none => t

theorem State.serviceLost_eq (s : State) : s.serviceLost = s.addrs.foldl State.silence s := rfl

theorem Silenced.silence (s : State) (k : Nat) : Silenced s (s.silence k) := by
  unfold State.silence
  split
  · split
    · exact (Silenced.changeNode s k rfl).trans (.modNode _ _ _ (fun n => .of_inert {}))
    · exact .refl s
  · exact .refl s

theorem Silenced.serviceLost (s : State) : Silenced s s.serviceLost := .foldl Silenced.silence _ s

theorem Silenced.addrs {s t : State} (h : Silenced s t) : t.addrs = s.addrs := by
  obtain ⟨f, hf, kf⟩ := h.nodes
  simp only [State.addrs, hf, List.map_map]
  exact List.map_congr_left (fun n _ => (kf n).inert.addr)

theorem ascending_iff (s : State) : s.nodes.Pairwise (fun m n => m.addr < n.addr) ↔ s.addrs.Pairwise (· < ·) := by
  simp [State.addrs, List.pairwise_map]

/-- Where addresses ascend, a node silenced answers no longer. -/
theorem State.silence_silent {s : State} (asc : s.nodes.Pairwise (fun m n => m.addr < n.addr)) (k : Nat) :
    ∀ n ∈ (s.silence k).nodes, n.addr = k → n.st.answering = false := by
  intro n hn hk
  unfold State.silence at hn
  cases hm : s.node? k with
  | none =>
    rw [hm] at hn
    exact absurd hk ((findKey_none Node.addr).mp hm n hn)
  | some m =>
    rw [hm] at hn
    dsimp only at hn
    cases ha : m.st.answering with
    | false =>
      rw [if_neg (by simp [ha])] at hn
      rw [eq_of_findKey Node.addr asc hm hn hk]
      exact ha
    | true =>
      rw [if_pos (by simp [ha])] at hn
      obtain ⟨x, hx, rfl⟩ := (mem_modKey Node.addr).mp hn
      have ne : m.st ≠ .silent := fun e => by rw [e] at ha; cases ha
      simp only [State.changeNode, hm, if_neg ne, State.raise_nodes, State.append_nodes, State.modNode_nodes] at hx
      obtain ⟨y, hy, rfl⟩ := (mem_modKey Node.addr).mp hx
      have addr : (y.enter .silent).addr = y.addr := (y.enter_shape .silent).1.addr
      have st : (y.enter .silent).st = .silent := (y.enter_shape .silent).2.1
      by_cases hy : y.addr = k
      · simp only [hy, if_true, addr, Node.counts, st]; rfl
      · simp [hy] at hk

theorem State.silenceAll_silent (ks : List Nat) : ∀ s : State, s.nodes.Pairwise (fun m n => m.addr < n.addr) →
    (∀ n ∈ s.nodes, n.addr ∈ ks ∨ n.st.answering = false) → ∀ n ∈ (ks.foldl State.silence s).nodes, n.st.answering = false := by
  induction ks with
  | nil => exact fun s _ h n hn => (h n hn).resolve_left (by simp)
  | cons k ks ih =>
    intro s asc h
    have here := Silenced.silence s k
    refine ih _ ?_ (fun n hn => ?_)
    · rw [ascending_iff, here.addrs, ← ascending_iff]
      exact asc
    · by_cases hk : n.addr = k
      · exact .inr (State.silence_silent asc k n hn hk)
      · obtain ⟨f, hf, kf⟩ := here.nodes
        rw [hf] at hn
        obtain ⟨m, hm, rfl⟩ := List.mem_map.mp hn
        rw [show (f m).addr = m.addr from (kf m).inert.addr] at hk ⊢
        rcases h m hm with h | h
        · exact .inl ((List.mem_cons.mp h).resolve_left hk)
        · refine .inr (Bool.eq_false_iff.mpr (fun h' => ?_))
          rw [(kf m).answering h'] at h
          cases h

/-- After the loss of service no node answers. -/
theorem State.serviceLost_silent {s : State} (asc : s.nodes.Pairwise (fun m n => m.addr < n.addr)) :
    ∀ n ∈ s.serviceLost.nodes, n.st.answering = false :=
  State.silenceAll_silent _ s asc (fun _ hn => .inl (List.mem_map_of_mem hn))

/-! ### Line state changes (01:R3) -/

theorem State.service_congr {s t : State} (h : t.lines = s.lines) : t.service = s.service := by simp [State.service, h]

section Evolving
variable {a : Rights} {s : State}

/-- A line state change by an edit of the line: the nodes fall silent where it leaves no line in service. -/
theorem Evolves.setLineState_of (l : LineId) {st : LineState}
    (turn : (s.line l).st ≠ st → ∀ u : State, u.part = s.part →
      (u.nodes.Pairwise (fun m n => m.addr < n.addr) → (u.service = false → ∀ n ∈ u.nodes, n.st.answering = false) →
        (u.modLine l (fun x => { x with st := st })).service = false → ∀ n ∈ u.nodes, n.st.answering = false) →
      Edit a u (u.modLine l (fun x => { x with st := st }))) :
    Evolves a s (s.setLineState l st) := by
  unfold State.setLineState
  refine .ite (fun _ => .refl s) (fun ne => ?_)
  replace turn := turn ne
  dsimp only
  let v := s.modLine l (fun x => { x with st := st })
  let w := (v.append { kind := .lineState, detail1 := some (.line l), detail2 := some (.lineState st) }).raise .lineChange
  have vw : Evolves a v w := (Evolves.append _ _).then_raise _
  have ws : w.service = v.service := State.service_congr (by simp [w])
  show Evolves a s (if (s.service && !w.service) = true then w.serviceLost else w)
  by_cases lost : (s.service && !w.service) = true
  · rw [if_pos lost]
    have sil : Silenced v w.serviceLost := ((Silenced.append v _).trans (.raise _ _)).trans (.serviceLost w)
    obtain ⟨f, hf, kf⟩ := sil.nodes
    have vn : v.nodes = s.nodes := by simp [v]
    have wn : w.nodes = s.nodes := by simp [w, v]
    rw [vn] at hf
    refine (Evolves.mapNodes f (fun n hn => ?_)).trans ?_
    · obtain ⟨inert, ans, ses⟩ := kf n
      exact .entered hn inert (fun h => .inr ⟨n, hn, ans h⟩) ses
    · let u : State := { s with nodes := s.nodes.map f }
      refine ((turn u rfl (fun asc _ _ n hn => ?_)).evolves).trans ?_
      · have asc' : w.nodes.Pairwise (fun m n => m.addr < n.addr) := by
          rw [ascending_iff] at asc ⊢
          rw [← (Silenced.serviceLost w).addrs]
          exact (show w.serviceLost.addrs = u.addrs by simp only [State.addrs, hf, u]) ▸ asc
        exact State.serviceLost_silent asc' n (by rw [hf]; exact hn)
      · let x := u.modLine l (fun y => { y with st := st })
        have eq : w.serviceLost = { x with journal := w.serviceLost.journal, port := w.serviceLost.port } := by
          rw [sil.rest, hf]
          cases l <;> rfl
        have numbered : x.journal.Law → w.serviceLost.journal.Law := fun h => sil.numbered (by cases l <;> exact h)
        have noticed : PortNoticed x.port w.serviceLost.port := by
          have := sil.noticed
          rwa [show v.port = x.port by cases l <;> rfl] at this
        exact eq ▸ (Edit.record (s := x) _ _ numbered noticed).evolves
  · rw [if_neg lost]
    refine Evolves.trans (turn s rfl (fun _ silent out => ?_)).evolves vw
    refine silent (Bool.eq_false_iff.mpr (fun h => lost ?_))
    rw [ws, show v.service = false from out, h]
    rfl

/-- A line state change in RUNNING. -/
theorem Evolves.setLineState (l : LineId) {st : LineState} (right : a.turns) (on : st = .off → (s.line l).st = .off)
    (running : s.part = .running) : Evolves a s (s.setLineState l st) :=
  .setLineState_of l (fun ne _ part silent => .lineState l st right (fun h => ne ((on h).trans h.symm)) (part.trans running) silent)

/-- The counts of a line changed. -/
theorem Evolves.modLine (l : LineId) (f : Line → Line) (h : ∀ x, (f x).st = x.st) : Evolves a s (s.modLine l f) := by
  cases l
  · exact .lines (.of (h _) rfl (Nat.le_refl _) (Nat.le_refl _) (LinesKept.sameRound rfl))
  · exact .lines (.of rfl (h _) (Nat.le_refl _) (Nat.le_refl _) (LinesKept.sameRound rfl))

theorem Evolves.enterTraining (l : LineId) (right : a.turns) (running : s.part = .running) : Evolves a s (s.enterTraining l) := by
  unfold State.enterTraining
  exact (Evolves.modLine l (fun x => { x with retrain := 4, running := 0 }) (fun _ => rfl)).trans
    (.setLineState l right (by simp) (by simpa using running))

/-- The same at a start, whatever the part state. -/
theorem Evolves.startTraining (l : LineId) (right : a.starts) : Evolves a s (s.enterTraining l) := by
  unfold State.enterTraining
  exact (Evolves.modLine l (fun x => { x with retrain := 4, running := 0 }) (fun _ => rfl)).trans
    (.setLineState_of l (fun _ _ _ _ => .startLine l right))

theorem Evolves.cutRound (l : LineId) : Evolves a s (s.cutRound l) := by
  refine .lines (.of rfl rfl (Nat.le_refl _) (Nat.le_refl _) (fun r hr => ?_))
  obtain ⟨q, hq, rfl⟩ := Option.map_eq_some_iff.mp hr
  exact ⟨q, hq, by cases l <;> rfl, by cases l <;> exact .refl _⟩

/-! ### Enrolment and withdrawal (02:R25, R26) -/

theorem Evolves.enrol (r : EnrolReq) (free : s.node? r.addr = none) (ok : r.fieldsOk = true)
    (point : s.FolioLaw → ∀ n ∈ s.nodes, n.enrol.point ≠ r.enrol.point) : Evolves a s (s.enrol r) := by
  unfold State.enrol
  refine (Evolves.then_append ?_ _).then_raise _
  exact (Edit.create r s.now free ok point).evolves.trans (.modNode_inert _ _ (fun _ => {}))

theorem Evolves.dropRoom (p : Nat) :
    Evolves a s { s with revoc := { s.revoc with rooms := dropKey Room.point p s.revoc.rooms } } :=
  (Edit.rooms _ (fun law =>
    { ascending := dropKey_ascending _ _ law.ascending
      floor := fun r hr => law.floor r ((mem_dropKey _).mp hr).1
      history := fun r hr => law.history r ((mem_dropKey _).mp hr).1 })).evolves

theorem Evolves.releaseNode (n : Node) : Evolves a s (s.releaseNode n) := by
  unfold State.releaseNode
  dsimp only
  have first := Evolves.leaveLine (a := a) (s := s) n.addr
  split
  · exact first.trans (.minibarLeaves _)
  · exact (first.trans (.discardFolio _)).trans (.dropRoom _)
  · exact first

theorem State.leaveLine_enrolled (k : Nat) (s : State) : (s.leaveLine k).enrolled = s.enrolled := by
  unfold State.leaveLine
  dsimp only
  rw [State.enrolled_of_nodes (State.removeUrgent_nodes _ _)]
  exact State.enrolled_modNode _ k _ (fun _ => ⟨rfl, rfl⟩)

theorem State.releaseNode_enrolled (n : Node) (s : State) : (s.releaseNode n).enrolled = s.enrolled := by
  rw [← s.leaveLine_enrolled n.addr]
  unfold State.releaseNode
  dsimp only
  split
  · unfold State.minibarLeaves
    rw [State.enrolled_modNode _ _ Node.endSession (fun _ => ⟨rfl, rfl⟩)]
    exact State.enrolled_of_nodes (by simp)
  · refine (State.enrolled_map _ _ (fun m => ?_)).trans (State.enrolled_of_nodes (s := s.leaveLine n.addr) (by simp))
    split <;> exact ⟨rfl, rfl⟩
  · rfl

theorem State.mem_enrolled {s : State} {n : Node} (hn : n ∈ s.nodes) : (⟨n.addr, n.enrol⟩ : EnrolReq) ∈ s.enrolled :=
  List.mem_map_of_mem hn

theorem State.addrs_of_enrolled {s t : State} (h : t.enrolled = s.enrolled) : t.addrs = s.addrs := by
  have : ∀ u : State, u.addrs = u.enrolled.map EnrolReq.addr := fun u => by simp [State.addrs, State.enrolled]
  rw [this, this, h]

/-- The folio of a node's point is gone once the node is released. -/
theorem State.releaseNode_folio {s : State} {n : Node} (room : n.enrol.cls = .roomEntry) :
    ∀ f ∈ (s.releaseNode n).minibar.folios, f.point ≠ n.enrol.point := by
  intro f hf
  simp only [State.releaseNode, room, State.discardFolio] at hf
  exact ((mem_dropKey Folio.point).mp hf).2

/-- A released node is discarded, records between written. -/
theorem Evolves.forgetReleased {n : Node} {t : State} (nodes : t.nodes = (s.releaseNode n).nodes)
    (minibar : t.minibar = (s.releaseNode n).minibar)
    (same : s.nodes.Pairwise (fun m n => m.addr < n.addr) → ∀ m ∈ s.nodes, m.addr = n.addr → m.enrol = n.enrol) :
    Evolves a t (t.forgetNode n.addr) := by
  refine (Edit.forget n.addr (fun law m hm ha room f hf => ?_)).evolves
  have en : t.enrolled = s.enrolled := (State.enrolled_of_nodes nodes).trans (s.releaseNode_enrolled n)
  have asc := law.nodesAscending
  rw [ascending_iff, State.addrs_of_enrolled en, ← ascending_iff] at asc
  obtain ⟨k, hk, e⟩ := List.mem_map.mp (en ▸ State.mem_enrolled hm)
  obtain ⟨e1, e2⟩ : k.addr = m.addr ∧ k.enrol = m.enrol := by simpa using e
  have := same asc k hk (e1.trans ha)
  rw [← e2, this] at room ⊢
  rw [minibar] at hf
  exact State.releaseNode_folio room f hf

theorem Evolves.withdraw {n : Node}
    (same : s.nodes.Pairwise (fun m n => m.addr < n.addr) → ∀ m ∈ s.nodes, m.addr = n.addr → m.enrol = n.enrol) :
    Evolves a s (s.withdraw n) := by
  unfold State.withdraw
  exact (((Evolves.releaseNode n).then_append _).then_raise _).trans (.forgetReleased (by simp) (by simp) same)

theorem Evolves.displace {n : Node}
    (same : s.nodes.Pairwise (fun m n => m.addr < n.addr) → ∀ m ∈ s.nodes, m.addr = n.addr → m.enrol = n.enrol) :
    Evolves a s (s.displace n) := (Evolves.releaseNode n).trans (.forgetReleased rfl rfl same)

/-- Nodes of the table withdrawn one after another: each still stands with its enrolment, or its address is gone. -/
def State.holdsOrGone (ds : List Node) (s : State) : Prop :=
  ∀ n ∈ ds, (∃ m ∈ s.nodes, m.addr = n.addr ∧ m.enrol = n.enrol) ∨ ∀ m ∈ s.nodes, m.addr ≠ n.addr

theorem State.holdsOrGone.same {ds : List Node} (h : s.holdsOrGone ds) {n : Node} (hn : n ∈ ds) :
    s.nodes.Pairwise (fun m n => m.addr < n.addr) → ∀ m ∈ s.nodes, m.addr = n.addr → m.enrol = n.enrol := by
  intro asc m hm ha
  rcases h n hn with ⟨k, hk, hka, hke⟩ | gone
  · have := findKey_of_mem Node.addr asc hk
    rw [eq_of_findKey Node.addr asc this hm (ha.trans hka.symm)]
    exact hke
  · exact absurd ha (gone m hm)

theorem State.forgetNode_enrolled (s : State) (k : Nat) : (s.forgetNode k).enrolled = s.enrolled.filter (fun r => r.addr != k) := by
  simp only [State.forgetNode, State.enrolled, dropKey, List.filter_map]
  rfl

theorem State.withdraw_enrolled (s : State) (n : Node) : (s.withdraw n).enrolled = s.enrolled.filter (fun r => r.addr != n.addr) := by
  rw [State.withdraw, State.forgetNode_enrolled, ← s.releaseNode_enrolled n]
  congr 1
  exact State.enrolled_of_nodes (by simp)

theorem State.displace_enrolled (s : State) (n : Node) : (s.displace n).enrolled = s.enrolled.filter (fun r => r.addr != n.addr) := by
  rw [State.displace, State.forgetNode_enrolled, s.releaseNode_enrolled n]

theorem State.holdsOrGone.forget {ds : List Node} (h : s.holdsOrGone ds) {t : State} {n : Node}
    (en : t.enrolled = s.enrolled.filter (fun r => r.addr != n.addr)) : t.holdsOrGone ds := by
  have iff : ∀ (u : State) (x : Nat) (e : Enrolment), (∃ m ∈ u.nodes, m.addr = x ∧ m.enrol = e) ↔ ⟨x, e⟩ ∈ u.enrolled := by
    intro u x e; simp [State.enrolled]
  have gone : ∀ (u : State) (x : Nat), (∀ m ∈ u.nodes, m.addr ≠ x) ↔ ∀ r ∈ u.enrolled, r.addr ≠ x := by
    intro u x; simp [State.enrolled]
  intro m hm
  have := h m hm
  rw [iff, gone] at this ⊢
  rw [en]
  by_cases e : m.addr = n.addr
  · exact .inr (fun r hr => by rw [e]; simpa using (List.mem_filter.mp hr).2)
  · rcases this with h | h
    · exact .inl (List.mem_filter.mpr ⟨h, by simpa using e⟩)
    · exact .inr (fun r hr => h r (List.mem_filter.mp hr).1)

theorem State.holdsOrGone.of_mem {ds : List Node} (h : ∀ n ∈ ds, n ∈ s.nodes) : s.holdsOrGone ds :=
  fun n hn => .inl ⟨n, h n hn, rfl, rfl⟩

theorem Evolves.withdrawAll {ds : List Node} (h : s.holdsOrGone ds) :
    Evolves a s (ds.foldl (fun t n => t.withdraw n) s) :=
  Evolves.foldl_of (Q := State.holdsOrGone ds) ds
    (fun t n hn q => ⟨.withdraw (q.same hn), q.forget (t.withdraw_enrolled n)⟩) s h

theorem Evolves.displaceAll {ds : List Node} (h : ∀ n ∈ ds, n ∈ s.nodes) : Evolves a s (ds.foldl State.displace s) :=
  Evolves.foldl_of (Q := State.holdsOrGone ds) ds
    (fun t n hn q => ⟨.displace (q.same hn), q.forget (t.displace_enrolled n)⟩) s (.of_mem h)

/-! ### DISABLE, ENABLE and the fields of SET_NODE (02:R27, R28) -/

theorem Evolves.disableNode (k : Nat) : Evolves a s (s.disableNode k) := by
  unfold State.disableNode
  refine ((Evolves.leaveLine k).trans (.modNode k _ (fun n hn _ => ?_))).trans (.changeNode_quiet k rfl)
  exact
    { addr := rfl, comps := rfl, memory := fun _ => Nat.zero_le _, answering := fun h => .inr ⟨n, hn, h⟩
      clock := fun law => Clock.discardSpan_inRange (law n hn), enrol := fun _ => rfl, copy := rfl
      session := fun x hx _ => .inl hx }

theorem Evolves.enableNode (k : Nat) : Evolves a s (s.enableNode k) := by
  unfold State.enableNode
  refine (Evolves.changeNode_quiet k rfl).trans (.modNode k _ (fun n hn _ => ?_))
  exact
    { addr := rfl, comps := rfl, memory := fun _ => Nat.zero_le _, answering := fun h => .inr ⟨n, hn, h⟩
      clock := fun law => law n hn, enrol := fun _ => rfl, copy := rfl, session := fun x hx _ => .inl hx }

/-- Enrolment fields changed beside those that the copy holds. -/
theorem NodeKept.refield {n : Node} (hn : n ∈ s.nodes) {e : Enrolment} (h : e.copy = n.enrol.copy) (b : Bool) :
    NodeKept s n { n with enrol := e, latchFallback := b } where
  addr := rfl
  comps := rfl
  memory := id
  answering := fun h => .inr ⟨n, hn, h⟩
  clock := fun law => law n hn
  enrol := fun _ => h
  copy := rfl
  session := fun _ hx _ => .inl hx

theorem Evolves.setNodeFields (k : Nat) (oos : Bool) (hours : Option Hours) : Evolves a s (s.setNodeFields k oos hours) :=
  .modNode k _ (fun n hn _ => .refield (e := { n.enrol with oos := oos, hours := hours }) hn rfl _)

theorem Evolves.latchFallbackAll : Evolves a s s.latchFallbackAll := .mapNodes_inert _ (fun _ => {})

end Evolving

end Sys2Proof.Machine

/-! SUPPORT. The port's own acts as edits: rejections, the receive machine, replies, the end of a frame in sending. -/

namespace Sys2Proof.Machine

open Sys2Proof

/-! ### Rejections (10:R184) -/

theorem raiseNewestReject_replies (fs : List OutFrame) :
    (raiseNewestReject fs).filter OutFrame.isReply = fs.filter OutFrame.isReply := by
  induction fs with
  | nil => rfl
  | cons f fs ih =>
    simp only [raiseNewestReject]
    split
    · simp [List.filter_cons, ih]
    · split
      · cases f <;> simp_all [OutFrame.isReject, OutFrame.oneFurther, OutFrame.isReply]
      · rfl

theorem raiseNewestReject_rejects (fs : List OutFrame) :
    ((raiseNewestReject fs).filter OutFrame.isReject).length = (fs.filter OutFrame.isReject).length := by
  induction fs with
  | nil => rfl
  | cons f fs ih =>
    simp only [raiseNewestReject]
    split
    · cases hf : f.isReject <;> simp [hf, ih]
    · split
      · cases f <;> simp_all [OutFrame.isReject, OutFrame.oneFurther, List.filter_cons]
      · rfl

/-- A rejection keeps the port's law and its four frames at most. -/
theorem Port.rejection_law (r : RejectReason) (about : KindTag) {p : Port} (h : p.Law) : (p.rejection r about).Law := by
  unfold Port.rejection
  split
  · refine ⟨fun hs => by rw [h.idle hs]; rfl, ?_⟩
    have reply := h.reply
    simp only [Port.frames, List.filter_append, List.length_append] at reply ⊢
    rw [raiseNewestReject_replies]
    exact reply
  · exact Port.ready_law rfl h

theorem Port.rejection_rejects (r : RejectReason) (about : KindTag) {p : Port}
    (h : (p.waiting.filter OutFrame.isReject).length ≤ 4) :
    ((p.rejection r about).waiting.filter OutFrame.isReject).length ≤ 4 := by
  unfold Port.rejection
  split
  · rw [raiseNewestReject_rejects]
    exact h
  · have grows : ((p.ready (.reject r about 0)).waiting.filter OutFrame.isReject).length
        ≤ (p.waiting.filter OutFrame.isReject).length + 1 := by
      have one := List.length_filter_le OutFrame.isReject [.reject r about 0]
      cases hs : p.sending <;> simp [Port.ready, hs] at one ⊢
      exact one
    omega

section Evolving
variable {a : Rights} {s : State}

theorem Evolves.rejection (link : a.link) (r : RejectReason) (about : KindTag) : Evolves a s (s.rejection r about) :=
  (Edit.link _ link (Port.rejection_law r about) (Port.rejection_rejects r about)).evolves

/-- The receive machine stands beside the frames and the service. -/
theorem Evolves.receive (link : a.link) {p : Port} (service : p.service = s.port.service := by rfl)
    (sending : p.sending = s.port.sending := by rfl) (waiting : p.waiting = s.port.waiting := by rfl) :
    Evolves a s { s with port := p } := by
  refine (Edit.link p link (fun h => ⟨by rw [sending, waiting]; exact h.idle, ?_⟩) (by rw [waiting]; exact id)).evolves
  have reply := h.reply
  rw [Port.frames, sending, waiting, service]
  exact reply

theorem Evolves.setRx (link : a.link) (r : Rx) : Evolves a s (s.setRx r) := .receive link

theorem Evolves.rxTimeout (link : a.link) : Evolves a s s.rxTimeout :=
  .ite (fun _ => .refl s) (fun _ => (Evolves.setRx link _).trans (.rejection link _ _))

theorem Evolves.quietFor (link : a.link) (k : Nat) : Evolves a s (s.quietFor k) :=
  .ite (fun _ => .refl s) (fun _ => .ite (fun _ => .rxTimeout link) (fun _ => .receive link))

theorem Evolves.overlap (link : a.link) (kind tag : Byte) : Evolves a s (s.overlap kind tag) :=
  (Evolves.setRx link _).trans (.rejection link _ _)

theorem Evolves.rearm (k : NoticeKind) : Evolves a s (s.rearm k) :=
  (Edit.record s.journal _ id (Port.arm_noticed s.port _)).evolves

theorem Evolves.rearmIf (ok : Bool) (ks : List NoticeKind) : Evolves a s (s.rearmIf ok ks) :=
  .ite (fun _ => Evolves.foldl (fun _ k => .rearm k) _ _) (fun _ => .refl s)

end Evolving

/-! ### Replies and the end of a frame -/

/-- A reply made ready with its command, none being in service before. -/
theorem Port.reply_law {p : Port} (h : p.Law) (free : p.service = none) (kind tag : Byte) (body : List Byte) (v : Service) :
    ({ p.ready (.reply kind tag body) with service := some v } : Port).Law := by
  refine ⟨p.ready_idle _, ?_⟩
  have reply := h.reply
  rw [free] at reply
  have perm := ((Port.ready_frames (.reply kind tag body) p).filter OutFrame.isReply).length_eq
  rw [List.filter_append, List.length_append, reply] at perm
  exact perm

theorem Evolves.answer {a : Rights} {s : State} (link : a.link) (free : s.port.service = none) (kind tag : Byte) (restarts : Bool)
    (r : Reply) : Evolves a s (s.answer kind tag restarts r) := by
  refine (Evolves.setRx link .hunting).trans ?_
  refine (Edit.link (s := s.setRx .hunting) _ link (fun h => Port.reply_law h free kind tag _ _) (fun h => ?_)).evolves
  have same := Port.ready_rejects (p := (s.setRx .hunting).port) (f := .reply kind tag r.body) rfl
  exact (congrArg List.length same).trans_le h

theorem Port.nextFrame_law {p : Port} (h : p.Law) {f : OutFrame} (hf : p.sending = some f) (other : f.isReply = false) :
    p.nextFrame.Law := by
  have reply := h.reply
  unfold Port.nextFrame
  split <;> rename_i hw
  · exact ⟨fun _ => hw, by simpa [Port.frames, hf, hw, other] using reply⟩
  · exact ⟨fun h => by simp at h, by simpa [Port.frames, hf, hw, other] using reply⟩

theorem Port.served_law {p : Port} (h : p.Law) {f : OutFrame} (hf : p.sending = some f) (reply : f.isReply = true) :
    p.nextFrame.served.Law := by
  have count := h.reply
  have none_left : (p.waiting.filter OutFrame.isReply).length = 0 := by
    simp only [Port.frames, hf, Option.toList_some, List.singleton_append, List.filter_cons, reply, if_true, List.length_cons] at count
    split at count <;> omega
  unfold Port.nextFrame Port.served
  split <;> rename_i hw
  · exact ⟨fun _ => hw, by simp [Port.frames, hw]⟩
  · exact ⟨fun h => by simp at h, by simpa [Port.frames, hw] using none_left⟩

theorem Port.nextFrame_rejects {p : Port} (h : (p.waiting.filter OutFrame.isReject).length ≤ 4) :
    (p.nextFrame.waiting.filter OutFrame.isReject).length ≤ 4 := by
  unfold Port.nextFrame
  split <;> rename_i hw
  · exact h
  · rw [hw] at h
    exact (((List.sublist_cons_self _ _).filter _).length_le).trans h

end Sys2Proof.Machine

/-! SUPPORT. Admission, the offline audit and the close of windows as edits. -/

namespace Sys2Proof.Machine

open Sys2Proof

section Evolving
variable {a : Rights} {s : State}

/-! ### Admission (06:R123, R124, R127, R128) -/

/-- A directive joins the urgent queue where there is room, in RUNNING. -/
theorem Evolves.pushUrgent (u : Urgent) (running : s.part = .running) (room : s.lines.urgent.length < 32) :
    Evolves a s (s.pushUrgent u) :=
  .lines
    { lineA := rfl, lineB := rfl, urgent := fun _ => by simp; omega, noUrgent := fun out => absurd running out
      repeats := id, noRepeats := fun _ => id, round := fun r hr => .inl (LinesKept.sameRound rfl r hr) }

theorem Evolves.offerDecision (d : Decision) (running : s.part = .running) : Evolves a s (s.offerDecision d) :=
  .ite (fun _ => .append _ _) (fun h => .pushUrgent _ running (by simp only [not_or, Nat.not_le] at h; exact h.1))

/-- The decision memory changed within its two entries. -/
theorem NodeKept.memory_of {n m : Node} (hn : n ∈ s.nodes) (h : NodeInert n { m with memory := n.memory })
    (two : n.memory.length ≤ 2 → m.memory.length ≤ 2) : NodeKept s n m where
  addr := h.addr
  comps := h.comps
  memory := two
  answering := by rw [show m.st = n.st from h.st]; exact fun ha => .inr ⟨n, hn, ha⟩
  clock := by rw [show m.clock = n.clock from h.clock]; exact fun law => law n hn
  enrol := by rw [show m.enrol = n.enrol from h.enrol]; exact fun _ => rfl
  copy := h.copy
  session := by rw [show m.session = n.session from h.session]; exact fun x hx _ => .inl hx

/-- A grant counted makes no card current. -/
theorem RecsFall.granted (k now : Nat) (rs : List Cred) : RecsFall rs (Machine.modKey Cred.number k (Cred.granted now) rs) := by
  refine .modKey _ _ (fun _ => rfl) (fun _ => rfl) (fun c => ?_) (fun c => ?_) <;>
    cases h : c.st <;> simp [Cred.granted, h, CredState.current]

theorem Evolves.modCred_granted (k now : Nat) : Evolves a s (s.modCred k (Cred.granted now)) := by
  refine .modCred k _ (fun _ => rfl) (fun _ c _ _ => ?_) (.inr (.granted k now _))
  cases h : c.st <;> simp [Cred.granted, h, CredState.retiredAt]

theorem Evolves.decideAdmission (k : Nat) (p : Presentation) (origin : Nat) (running : s.part = .running) :
    Evolves a s (s.decideAdmission k p origin) := by
  unfold State.decideAdmission
  split
  · exact .refl s
  · dsimp only
    refine Evolves.trans (Evolves.trans (t := if _ then s.modCred p.cred.toNat (Cred.granted s.now) else s) ?_ (.modNode k _ ?_))
      (.offerDecision _ ?_)
    · exact .ite (fun _ => .modCred_granted _ _) (fun _ => .refl s)
    · exact fun n hn _ => .memory_of hn {} (fun _ => List.length_take_le 2 _)
    · rw [State.modNode_part]
      split <;> simpa using running

theorem Evolves.decisionSent (d : Decision) : Evolves a s (s.decisionSent d) := by
  unfold State.decisionSent
  dsimp only
  split
  · exact (Evolves.append s _).trans (.openSession _ _ _)
  · exact .append s _

theorem Evolves.urgentSent (u : Urgent) : Evolves a s (s.urgentSent u) := by
  cases u
  · exact .decisionSent _
  · exact .append s _

theorem markReported_length (p : Nat) (es : List MemEntry) : (markReported p es).length = es.length := by
  induction es with
  | nil => rfl
  | cons e es ih => simp only [markReported]; split <;> simp [ih]

theorem Evolves.alarmIf (b : Bool) : Evolves a s (s.alarmIf b) := .ite (fun _ => .raise s _) (fun _ => .refl s)

theorem Evolves.localDecision (k p : Nat) (granted : Bool) : Evolves a s (s.localDecision k p granted) := by
  unfold State.localDecision
  split
  · exact .refl s
  · split
    · exact .append s _
    · refine .ite (fun _ => .refl s) (fun _ => ?_)
      refine (Evolves.then_append ?_ _).trans (.alarmIf _)
      exact .modNode k (fun n => { n with memory := markReported p n.memory })
        (fun n hn _ => .memory_of hn {} (by rw [markReported_length]; exact id))

theorem Evolves.doorAlarm (kind : RecKind) (k : Nat) : Evolves a s (s.doorAlarm kind k) := (Evolves.append s _).then_raise _

/-! ### The offline audit (07:R131 to R137) -/

theorem Evolves.judgePermit (k : Nat) : Evolves a s (s.judgePermit k) := by
  unfold State.judgePermit
  split
  · exact .refl s
  · exact .ite (fun _ => .modNode_inert k _ (fun _ => {})) (fun _ => .refl s)

theorem Evolves.closePermit (k : Nat) : Evolves a s (s.closePermit k) :=
  Evolves.trans (.modNode_inert k (fun n => { n with permit := .none }) (fun _ => {})) (.judgePermit k)

theorem Evolves.permitMissed (k : Nat) : Evolves a s (s.permitMissed k) := by
  unfold State.permitMissed
  split
  · exact .refl s
  · exact .ite (fun _ => .closePermit k) (fun _ => .refl s)

theorem Evolves.takeMark (k s1 w1 : Nat) : Evolves a s (s.takeMark k s1 w1) := by
  unfold State.takeMark
  exact Evolves.trans (.modNode_inert k _ (fun _ => {})) (.judgePermit k)

theorem Evolves.drain (k : Nat) (u : Upload) : Evolves a s (s.drain k u) := by
  refine .modNode k _ (fun n hn _ => .clocked hn {} (fun law => ?_))
  dsimp only
  split
  · exact Clock.anchor_inRange (law n hn) _
  · exact law n hn

theorem Evolves.pendingFlag (k : Nat) (pending : Bool) (s1 w1 : Nat) (before : Permit) :
    Evolves a s (s.pendingFlag k pending s1 w1 before) := by
  unfold State.pendingFlag
  split
  · exact .refl s
  · split
    · exact .ite (fun _ => .takeMark k _ _) (fun _ => .refl s)
    · exact .refl s
    · exact .drain k _
    · split
      · exact .ite (fun _ => .closePermit k) (fun _ => .refl s)
      · exact .refl s

theorem Evolves.journalOffline (n : Node) (r : OfflineRecord) (time : RecordTime) : Evolves a s (s.journalOffline n r time) :=
  (Evolves.append s _).trans (.alarmIf _)

theorem Evolves.offlineRecord (k : Nat) (r : OfflineRecord) : Evolves a s (s.offlineRecord k r) := by
  unfold State.offlineRecord
  split
  · exact .refl s
  · split
    · rename_i j _ _
      have first := Evolves.modNode_inert (a := a) (s := s) k
        (fun m => { m with received := satAdd 65535 m.received 1, permit := .opened j }) (fun _ => {})
      exact .ite (fun _ => (first.trans (.journalOffline _ _ _)).trans (.closePermit k)) (fun _ => first.trans (.journalOffline _ _ _))
    · exact .refl s

/-! ### Faults and flags (01:R9 to R11) -/

theorem Evolves.chargeFault (number node : Nat) (c : Charge) : Evolves a s (s.chargeFault number node c) := by
  unfold State.chargeFault
  refine Evolves.trans (.modLine c.line (Line.charged c.kind c.cls) (fun _ => rfl)) (.lines ?_)
  exact .of rfl rfl (Nat.le_refl _) (Nat.le_refl _) (LinesKept.sameRound rfl)

theorem Evolves.chargeFaults (number node : Nat) (cs : List Charge) : Evolves a s (s.chargeFaults number node cs) := by
  unfold State.chargeFaults
  split
  · exact (Evolves.chose s).trans (.foldl (fun _ c => .chargeFault _ _ c) _ _)
  · exact .foldl (fun _ c => .chargeFault _ _ c) _ _

theorem Evolves.seenIf (l : LineId) (j : CopyJudgement) : Evolves a s (s.seenIf l j) := by
  unfold State.seenIf
  split
  · exact .modLine l _ (fun _ => rfl)
  · exact .refl s

theorem Evolves.choseIf (b : Bool) : Evolves a s (s.choseIf b) := .ite (fun _ => .chose s) (fun _ => .refl s)

/-! ### Good answers (02:R32 to R38) -/

theorem Evolves.goodAnswerState {n : Node} (serves : s.service = true) : Evolves a s (s.goodAnswerState n) := by
  unfold State.goodAnswerState
  split
  · exact .counts _ _ _ _
  · exact .counts _ _ _ _
  · exact (Evolves.changeNode _ _ (fun _ => .inl serves)).trans (.counts _ _ _ _)
  · exact .refl s

theorem Evolves.nodeChangeIf (b : Bool) : Evolves a s (s.nodeChangeIf b) := .ite (fun _ => .raise s _) (fun _ => .refl s)

theorem Evolves.markReload (k : Nat) : Evolves a s (s.markReload k) := .modNode_inert k _ Node.marked_inert

theorem Evolves.storeStatus (k : Nat) (b : StatusBits) : Evolves a s (s.storeStatus k b) := by
  unfold State.storeStatus
  split
  · exact .refl s
  · dsimp only
    have first : Evolves a s (s.modNode k (fun n => { n with status := some b })) := .modNode_inert k _ (fun _ => {})
    exact .ite (fun _ => ((first.trans (.nodeChangeIf _)).then_raise _).trans (.markReload k)) (fun _ => first.trans (.nodeChangeIf _))

theorem Evolves.clockReading (k : Nat) (r : Round) (ans : Answer) : Evolves a s (s.clockReading k r ans) := by
  unfold State.clockReading
  refine Evolves.trans (.setClock k (fun c h => Clock.sample_inRange _ _ _ h)) (.modNode k _ (fun n hn _ => ?_))
  split
  · exact .refl hn
  · exact .clocked hn {} (fun law => Clock.anchor_inRange (law n hn) _)

theorem Evolves.presentation (k : Nat) (r : Round) (p : Option Presentation) (running : s.part = .running) :
    Evolves a s (s.presentation k r p) := by
  unfold State.presentation
  split
  · exact .ite (fun _ => .refl s)
      (fun _ => Evolves.trans (.modNode_inert k _ (fun _ => {})) (.decideAdmission k _ _ (by simpa using running)))
  · exact .refl s

theorem Evolves.item (k : Nat) (i : Item) : Evolves a s (s.item k i) := by
  unfold State.item
  split
  · exact .refl s
  · rename_i n hn
    have here : s.node? n.addr = some n := by rw [(findKey_some Node.addr hn).1]; exact hn
    cases i
    case forcedOpen => exact .doorAlarm _ k
    case heldOpen => exact .doorAlarm _ k
    case localDecision p granted => exact .localDecision k _ _
    case removed c j => exact .ite (fun _ => .removedItem here _ _) (fun _ => .refl s)
    case returned c j => exact .ite (fun _ => .returnedItem n _ _) (fun _ => .refl s)
    case minibarClosed => exact .ite (fun _ => .endSession k) (fun _ => .refl s)
    case offlineRecord r => exact .offlineRecord k r

theorem Evolves.probationTest (k : Nat) (ended : Bool) : Evolves a s (s.probationTest k ended) := by
  unfold State.probationTest
  split
  · exact .refl s
  · rename_i n hn
    refine .ite (fun h => .changeNode k _ (fun _ => .inr ⟨n, (findKey_some Node.addr hn).2, ?_⟩)) (fun _ => .refl s)
    rw [h.1]
    rfl

theorem Evolves.distributeRest (k : Nat) (r : Round) (ans : Answer) (running : s.part = .running) :
    Evolves a s (s.distributeRest k r ans) :=
  ((Evolves.presentation k r ans.pres running).trans (.foldl (fun _ i => .item k i) _ _)).trans (.pendingFlag k _ _ _ _)

theorem Evolves.goodAnswer {n : Node} (r : Round) (ans : Answer) (running : s.part = .running) (serves : s.service = true) :
    Evolves a s (s.goodAnswer n r ans) := by
  unfold State.goodAnswer
  exact (((((Evolves.goodAnswerState serves).trans (.storeStatus _ _)).trans (.clockReading _ _ _)).trans
    (.acknowledge _ _ _)).trans (.distributeRest _ _ _ (by simpa using running))).trans (.probationTest _ _)

/-! ### Misses and windows (01:R7, R8, 02:R31, R33) -/

theorem Evolves.missState (n : Node) : Evolves a s (s.missState n) := by
  unfold State.missState
  split
  · exact .ite (fun _ => .changeNode_quiet _ rfl) (fun _ => .counts _ _ _ _)
  · exact .ite (fun _ => (Evolves.changeNode_quiet _ rfl).trans (.counts _ _ _ _)) (fun _ => .counts _ _ _ _)
  · exact .ite (fun _ => (Evolves.changeNode_quiet _ rfl).trans (.modNode_inert _ _ (fun _ => {}))) (fun _ => .modNode_inert _ _ (fun _ => {}))
  · exact .refl s

theorem Evolves.miss (n : Node) : Evolves a s (s.miss n) := (Evolves.missState n).trans (.permitMissed _)

theorem Evolves.windowResult (k : Nat) (r : Round) (ans : Option Answer) (running : s.part = .running)
    (serves : ans.isSome = true → s.service = true) : Evolves a s (s.windowResult k r ans) := by
  unfold State.windowResult
  split
  · exact .refl s
  · refine .ite (fun _ => ?_) (fun _ => .refl s)
    cases ans with
    | none => exact .miss _
    | some x => exact .goodAnswer r x running (serves rfl)

theorem Evolves.dropWindow (k : Nat) : Evolves a s (s.dropWindow k) := by
  refine .lines (.of rfl rfl (Nat.le_refl _) (Nat.le_refl _) (fun r hr => ?_))
  obtain ⟨q, hq, rfl⟩ := Option.map_eq_some_iff.mp hr
  exact ⟨q, hq, rfl, List.filter_sublist.map _⟩

end Evolving

/-- A line whose copy is judged good is in service. -/
theorem judgeCopy_good {addr number : Nat} {serves : Bool} {copy : Option Copy}
    (h : judgeCopy addr number serves copy = .good) : serves = true := by
  cases serves
  · cases h
  · rfl

/-- A copy is used only where one is good. -/
theorem resolve_used {sa sb : Bool} {first : Completion} {ja jb : CopyJudgement} (h : (resolve sa sb first ja jb).1 ≠ .none) :
    ja = .good ∨ jb = .good := by
  cases ja <;> cases jb <;> simp [resolve] at h ⊢

theorem usedAnswer_isSome {u : Used} {tie : Bool} {ca cb : Option Copy} (h : (usedAnswer u tie ca cb).isSome = true) : u ≠ .none := by
  rintro rfl
  simp [usedAnswer] at h

theorem State.seenIf_service (s : State) (l : LineId) (j : CopyJudgement) : (s.seenIf l j).service = s.service := by
  cases l <;> cases j <;> rfl

theorem State.chargeFault_service (number node : Nat) (s : State) (c : Charge) :
    (s.chargeFault number node c).service = s.service := by
  obtain ⟨l, k, cls⟩ := c
  cases l <;> rfl

theorem State.chargeFaults_service (number node : Nat) (s : State) (cs : List Charge) :
    (s.chargeFaults number node cs).service = s.service := by
  have fold : ∀ (ds : List Charge) (t : State), (ds.foldl (State.chargeFault number node) t).service = t.service :=
    State.foldl_frame State.service _ (State.chargeFault_service number node)
  unfold State.chargeFaults
  split
  · exact (fold _ _).trans rfl
  · exact fold _ _

section Evolving
variable {a : Rights} {s : State}

theorem Evolves.resolveWindow (r : Round) (w : Window) (copyA copyB : Option Copy) (first : Completion)
    (running : s.part = .running) : Evolves a s (s.resolveWindow r w copyA copyB first) := by
  unfold State.resolveWindow
  dsimp only
  refine .ite (fun _ => .dropWindow _) (fun _ => ?_)
  refine Evolves.trans (Evolves.trans (Evolves.trans (Evolves.trans (Evolves.trans (.dropWindow w.addr) (.seenIf .a _)) (.seenIf .b _))
    (.chargeFaults _ _ _)) (.choseIf _)) (.windowResult _ _ _ (by simpa using running) (fun h => ?_))
  have serves : (s.dropWindow w.addr).service = true := by
    rcases resolve_used (usedAnswer_isSome h) with h | h
    · simp [State.service, judgeCopy_good h]
    · simp [State.service, judgeCopy_good h]
  rw [← serves, State.service_congr (s := State.chargeFaults _ _ _ _) (by simp [State.choseIf, State.chose]; split <;> rfl),
    State.chargeFaults_service, State.seenIf_service, State.seenIf_service]

theorem Evolves.invitationReport (k : Nat) (answered : Bool) (serves : answered = true → s.service = true) :
    Evolves a s (s.invitationReport k answered) := by
  unfold State.invitationReport
  split
  · exact .refl s
  · split
    · exact (Evolves.changeNode _ _ (fun _ => .inl (serves rfl))).trans (.counts _ _ _ _)
    · exact ((Evolves.changeNode _ _ (fun _ => .inl (serves rfl))).trans (.counts _ _ _ _)).trans (.modNode_inert _ _ (fun _ => {}))
    · have first := fun j => Evolves.modNode_inert (a := a) (s := s) k (fun m => { m with joins := j }) (fun _ => {})
      exact .ite (fun _ => (first _).trans (.changeNode_quiet _ rfl)) (fun _ => first _)
    · exact .refl s

theorem Evolves.endInvitation : Evolves a s s.endInvitation := by
  refine .lines (.of rfl rfl (Nat.le_refl _) (Nat.le_refl _) (fun r hr => ?_))
  obtain ⟨q, hq, rfl⟩ := Option.map_eq_some_iff.mp hr
  exact ⟨q, hq, rfl, .refl _⟩

theorem Evolves.resolveInvitation (r : Round) (copyA copyB : Option Copy) : Evolves a s (s.resolveInvitation r copyA copyB) := by
  unfold State.resolveInvitation
  dsimp only
  split
  · exact .endInvitation
  · have first := fun (j k : CopyJudgement) => (Evolves.endInvitation (a := a) (s := s)).trans ((Evolves.seenIf .a j).trans (.seenIf .b k))
    refine .ite (fun _ => first _ _) (fun _ => (first _ _).trans (.invitationReport _ _ (fun h => ?_)))
    rw [State.seenIf_service, State.seenIf_service]
    simp only [Bool.or_eq_true, beq_iff_eq] at h
    rcases h with h | h
    · simp [State.service, judgeCopy_good h]
    · simp [State.service, judgeCopy_good h]

end Evolving

end Sys2Proof.Machine

/-! SUPPORT. Composition, round starts and the wing timebase as edits. -/

namespace Sys2Proof.Machine

open Sys2Proof

/-! ### Addresses -/

theorem State.modNode_addrs (s : State) (k : Nat) (f : Node → Node) (h : ∀ n, (f n).addr = n.addr) :
    (s.modNode k f).addrs = s.addrs := by
  simp only [State.addrs, State.modNode, modKey, List.map_map]
  refine List.map_congr_left (fun n _ => ?_)
  by_cases hn : n.addr = k <;> simp [hn, h]

theorem State.replaceNode_addrs {s : State} {k : Nat} {n m : Node} (hn : s.node? k = some n) (h : m.addr = n.addr) :
    (s.modNode k (fun _ => m)).addrs = s.addrs := by
  simp only [State.addrs, State.modNode, modKey, List.map_map]
  refine List.map_congr_left (fun x _ => ?_)
  by_cases hx : x.addr = k
  · simp [hx, h, (findKey_some Node.addr hn).1]
  · simp [hx]

theorem State.addrs_congr {s t : State} (h : t.nodes = s.nodes) : t.addrs = s.addrs := by simp [State.addrs, h]

theorem State.openSession_addrs (s : State) (k : Nat) (m : SessionMode) (cred : Nat) : (s.openSession k m cred).addrs = s.addrs := by
  unfold State.openSession
  (repeat' split) <;> first | rfl | exact State.modNode_addrs _ _ _ (fun _ => rfl)

theorem State.urgentSent_addrs (s : State) (u : Urgent) : (s.urgentSent u).addrs = s.addrs := by
  cases u with
  | decision d =>
    simp only [State.urgentSent, State.decisionSent]
    split
    · rw [State.openSession_addrs]
      exact State.addrs_congr (by simp)
    · exact State.addrs_congr (by simp)
  | remoteOpen k => exact State.addrs_congr (by simp [State.urgentSent, State.remoteOpenSent])

/-! ### Composition (01:R15) -/

/-- A composition carried on: by edits, within the 8 slots, over the same addresses. -/
structure Compose.Grows (a : Rights) (c d : Compose) : Prop where
  evolves : Evolves a c.state d.state
  slots : c.segment.length ≤ 8 → d.segment.length ≤ 8
  addrs : d.state.addrs = c.state.addrs

section Composing
variable {a : Rights} {c d e : Compose}

theorem Compose.Grows.refl (c : Compose) : Compose.Grows a c c := ⟨.refl _, id, rfl⟩

theorem Compose.Grows.trans (h : Compose.Grows a c d) (h' : Compose.Grows a d e) : Compose.Grows a c e :=
  ⟨h.evolves.trans h'.evolves, h'.slots ∘ h.slots, h'.addrs.trans h.addrs⟩

theorem Compose.Grows.foldl {f : Compose → Nat → Compose} (act : ∀ c k, Compose.Grows a c (f c k)) (ks : List Nat) (c : Compose) :
    Compose.Grows a c (ks.foldl f c) := by
  induction ks generalizing c with
  | nil => exact .refl c
  | cons k ks ih => exact (act c k).trans (ih _)

/-- A directive placed in a free slot. -/
theorem Compose.Grows.place (free : c.free = true) (x : Directive) (k : Nat) {t : State} (h : Evolves a c.state t)
    (addrs : t.addrs = c.state.addrs) : Compose.Grows a c (c.place x k t) :=
  ⟨h, fun _ => by
    have room : c.segment.length < 8 := of_decide_eq_true free
    simp only [Compose.place, List.length_append, List.length_singleton]
    exact room, addrs⟩

theorem Compose.Grows.latched (k : Nat) (p : Node → Bool) (x : State → Node → Directive) (q : Node → Node)
    (inert : ∀ n, NodeInert n (q n)) : Compose.Grows a c (c.latched k p x q) := by
  unfold Compose.latched
  split
  · split
    · rename_i h
      simp only [Bool.and_eq_true] at h
      exact .place h.1.1 _ _ (.modNode_inert _ _ inert) (State.modNode_addrs _ _ _ (fun n => (inert n).addr))
    · exact .refl c
  · exact .refl c

theorem Compose.Grows.latchedItems (k : Nat) : Compose.Grows a c (c.latchedItems k) :=
  ((Compose.Grows.latched k _ _ _ (fun _ => {})).trans (.latched k _ _ _ (fun _ => {}))).trans (.latched k _ _ _ (fun _ => {}))

theorem State.offerItem_inert {s : State} {n m : Node} {x : Directive} (h : s.offerItem n = some (x, m)) : NodeInert n m := by
  unfold State.offerItem State.offerChange State.offerReload State.offerEntry at h
  dsimp only at h
  (repeat' split at h) <;> simp only [Option.some.injEq, Prod.mk.injEq, reduceCtorEq] at h <;>
    (obtain ⟨-, rfl⟩ := h; exact {})

theorem Compose.Grows.deliver (k : Nat) : Compose.Grows a c (c.deliver k) := by
  unfold Compose.deliver
  split
  · rename_i n hn
    split
    · rename_i h
      simp only [Bool.and_eq_true] at h
      split
      · have inert := State.offerItem_inert ‹_›
        exact .place h.1 _ _ (.replaceNode hn inert) (State.replaceNode_addrs hn inert.addr)
      · exact .refl c
    · exact .refl c
  · exact .refl c

theorem Compose.Grows.deliveries (k : Nat) : Compose.Grows a c (c.deliveries k) :=
  (Compose.Grows.deliver k).trans (.deliver k)

end Composing

section Evolving
variable {a : Rights} {s : State}

theorem Evolves.composeUrgent (running : s.part = .running) : Evolves a s s.composeUrgent.state := by
  unfold State.composeUrgent
  dsimp only
  refine Evolves.trans (.lines ?_) (.foldl (fun _ u => .urgentSent u) _ _)
  have slots : s.lines.repeats.length ≤ 8 → (s.lines.urgent.take (segmentSlots - (s.lines.repeats.take segmentSlots).length)).length ≤ 8 :=
    fun _ => by simp [segmentSlots]
  exact
    { lineA := rfl, lineB := rfl, urgent := fun h => by simp; omega, noUrgent := fun out => absurd running out
      repeats := fun h => by dsimp only; split; exacts [slots h, Nat.zero_le _]
      noRepeats := fun out => absurd running out, round := fun r hr => .inl (LinesKept.sameRound rfl r hr) }

theorem State.composeUrgent_slots (s : State) : s.composeUrgent.segment.length ≤ 8 := by
  simp [State.composeUrgent, segmentSlots]
  omega

theorem State.composeUrgent_addrs (s : State) : s.composeUrgent.state.addrs = s.addrs :=
  (State.foldl_frame State.addrs _ State.urgentSent_addrs _ _).trans rfl

theorem Evolves.parkPointer (p : Nat) : Evolves a s (s.parkPointer p) :=
  .lines (.of rfl rfl (Nat.le_refl _) (Nat.le_refl _) (LinesKept.sameRound rfl))

theorem State.compose_grows (a : Rights) (running : s.part = .running) :
    Evolves a s s.compose.1 ∧ s.compose.2.length ≤ 8 ∧ s.compose.1.addrs = s.addrs := by
  let walk := walkFrom s.lines.pointer s.addrs
  let c3 := walk.foldl Compose.latchedItems s.composeUrgent
  have step3 : Compose.Grows a s.composeUrgent c3 := .foldl (fun _ k => .latchedItems k) _ _
  have step4 : Compose.Grows a { c3 with last := none } (walk.foldl Compose.deliveries { c3 with last := none }) :=
    .foldl (fun _ k => .deliveries k) _ _
  refine ⟨?_, step4.slots (step3.slots s.composeUrgent_slots), ?_⟩
  · exact (((Evolves.composeUrgent running).trans step3.evolves).trans step4.evolves).trans (.parkPointer _)
  · exact (step4.addrs.trans step3.addrs).trans s.composeUrgent_addrs

/-! ### Round starts (01:R4) -/

theorem Evolves.toMark (link : a.link) : Evolves a s s.toMark := by
  unfold State.toMark
  split
  · exact .ite (fun _ => (Edit.other _).evolves.trans (.quietFor link _)) (fun _ => .refl s)
  · exact .refl s

theorem Evolves.endRound (running : s.part = .running) : Evolves a s s.endRound := by
  unfold State.endRound
  split
  · exact .refl s
  · dsimp only
    have windows : ∀ ws : List Window, Evolves a s (ws.foldl (fun t w => t.resolveWindow ‹Round› w none none .together) s) :=
      fun ws => .foldl_of (Q := fun t => t.part = .running) ws
        (fun t w _ h => ⟨.resolveWindow _ _ _ _ _ h, by simpa using h⟩) s running
    exact .ite (fun _ => (windows _).trans (.resolveInvitation _ _ _)) (fun _ => windows _)

theorem Evolves.beginRoundStart (link : a.link) (running : s.part = .running) : Evolves a s s.beginRoundStart :=
  (Evolves.toMark link).trans (.endRound (by simpa using running))

theorem judgedState_off {threshold tally : Nat} {st : LineState} (h : judgedState threshold tally st = .off) : st = .off := by
  unfold judgedState at h
  split at h
  · split at h <;> cases h
  · split at h <;> cases h
  · exact h

theorem Evolves.tallyLine (l : LineId) (right : a.turns) (running : s.part = .running) : Evolves a s (s.tallyLine l) :=
  Evolves.trans (.modLine l (fun x => { x with tally := x.running, running := 0 }) (fun _ => rfl))
    (.setLineState l right judgedState_off (by simpa using running))

theorem Evolves.tallyEnd (right : a.turns) (running : s.part = .running) : Evolves a s s.tallyEnd := by
  refine .ite (fun _ => ?_) (fun _ => .refl s)
  refine Evolves.trans ((Evolves.tallyLine .a right running).trans (.tallyLine .b right (by simpa using running))) (.lines ?_)
  exact .of rfl rfl (Nat.le_refl _) (Nat.le_refl _) (LinesKept.sameRound rfl)

theorem Evolves.trainingEnd (l : LineId) (right : a.turns) (running : s.part = .running) : Evolves a s (s.trainingEnd l) :=
  .ite (fun _ => .setLineState l right (by simp) running) (fun _ => .refl s)

theorem Evolves.spanStep (b : Bool) (k : Nat) : Evolves a s (s.spanStep b k) := by
  unfold State.spanStep
  split
  · exact .refl s
  · refine .ite (fun _ => .ite (fun _ => .ite (fun _ => ?_) (fun _ => ?_)) (fun _ => ?_)) (fun _ => ?_)
    · exact (Evolves.chose s).trans (.setClock k (fun _ => Clock.failSpan_inRange))
    · exact (Evolves.chose s).trans (.setClock k (fun _ => Clock.discardSpan_inRange))
    · exact .setClock k (fun _ => Clock.discardSpan_inRange)
    · exact .setClock k (fun _ => Clock.spanRise_inRange)

theorem State.stallStep_inert (s : State) (n : Node) : NodeInert n (s.stallStep n) := by
  unfold State.stallStep
  (repeat' split) <;> exact {}

theorem Node.waitStep_inert (n : Node) : NodeInert n n.waitStep := by
  unfold Node.waitStep
  (repeat' split) <;> exact {}

theorem Node.openPermit_inert (n : Node) : NodeInert n n.openPermit := by
  unfold Node.openPermit
  split <;> exact {}

theorem Evolves.nodesStep : Evolves a s s.nodesStep :=
  .mapNodes_inert _ (fun n => ((s.stallStep_inert n).trans (Node.waitStep_inert _)).trans (Node.openPermit_inert _))

theorem Evolves.ageOut : Evolves a s s.ageOut := by
  refine Evolves.trans (.lines (l := { s.lines with urgent := s.lines.urgent.map Urgent.older }) ?_) (.removeUrgent _)
  exact .of rfl rfl (by simp) (Nat.le_refl _) (LinesKept.sameRound rfl)

theorem State.segmentFor_grows (a : Rights) (running : s.part = .running) :
    Evolves a s s.segmentFor.1 ∧ s.segmentFor.2.length ≤ 8 ∧ s.segmentFor.1.addrs = s.addrs := by
  unfold State.segmentFor
  split
  · exact State.compose_grows a running
  · exact ⟨.lines (.of rfl rfl (Nat.le_refl _) (Nat.zero_le _) (LinesKept.sameRound rfl)), Nat.zero_le _, rfl⟩

theorem Line.header_st (l : Line) : l.header.st = l.st := by
  unfold Line.header
  split <;> rfl

theorem State.windowsFor_ascending (s : State) (h : s.addrs.Pairwise (· < ·)) :
    s.windowsFor.Pairwise (fun v w => v.addr < w.addr) := by
  unfold State.windowsFor
  rw [List.pairwise_map]
  exact ((ascending_iff s).mpr h).sublist List.filter_sublist

theorem Evolves.newRound (running : s.part = .running) : Evolves a s s.newRound := by
  obtain ⟨evolves, slots, addrs⟩ := State.segmentFor_grows a running
  unfold State.newRound
  refine Evolves.trans (evolves.trans (.lines (l := { s.segmentFor.1.lines with
    round := some _, tallyDone := false, lineA := s.segmentFor.1.lines.lineA.header, lineB := s.segmentFor.1.lines.lineB.header }) ?_))
    (Edit.other _).evolves
  exact
    { lineA := Line.header_st _, lineB := Line.header_st _, urgent := id, noUrgent := fun _ => id, repeats := id
      noRepeats := fun _ => id
      round := fun r hr => .inr ⟨by simpa using running, by rw [← Option.some.inj hr]; exact slots, fun asc => by
        rw [← Option.some.inj hr]
        exact s.windowsFor_ascending (addrs ▸ (ascending_iff _).mp asc)⟩ }

theorem Evolves.roundStart (link : a.link) (right : a.turns) (running : s.part = .running) : Evolves a s s.roundStart := by
  unfold State.roundStart
  dsimp only
  refine Evolves.trans (Evolves.trans (Evolves.trans (Evolves.trans (Evolves.trans (Evolves.trans (Evolves.trans
    (.beginRoundStart link running) (.tallyEnd right ?_)) (.trainingEnd .a right ?_)) (.trainingEnd .b right ?_))
    (.foldl (fun _ k => .spanStep _ k) _ _)) .nodesStep) .ageOut) (.newRound ?_) <;> simpa [State.foldl_frame State.part] using running

/-! ### The wing timebase (03:R43, R44) -/

theorem Evolves.secondRise : Evolves a s s.secondRise := (Edit.other _).evolves

theorem Evolves.beginSecond (link : a.link) : Evolves a s s.beginSecond := by
  unfold State.beginSecond
  refine .ite (fun _ => .refl s) (fun _ => ?_)
  dsimp only
  split
  · exact (Edit.other _).evolves.trans (.quietFor link _)
  · exact (Edit.other _).evolves

theorem Evolves.deadlines : Evolves a s s.deadlines :=
  .ite (fun _ => .ite (fun _ => ((Evolves.chose s).trans .lapseEncodings).trans .commitDue)
    (fun _ => ((Evolves.chose s).trans .commitDue).trans .lapseEncodings)) (fun _ => Evolves.lapseEncodings.trans .commitDue)

theorem Evolves.minuteSweep : Evolves a s s.minuteSweep := Evolves.expirySweep.trans .retireEntries

theorem Evolves.secondWork : Evolves a s s.secondWork := by
  unfold State.secondWork
  split
  · exact .ite (fun _ => Evolves.deadlines.trans .minuteSweep) (fun _ => .deadlines)
  · exact .refl s

theorem Evolves.endSecond : Evolves a s s.endSecond := (Edit.other _).evolves

theorem Evolves.secondEvent (link : a.link) : Evolves a s s.secondEvent :=
  ((Evolves.beginSecond link).trans .secondWork).trans .endSecond

theorem Evolves.stepTime (v : Nat) : Evolves a s (s.stepTime v) :=
  ((Edit.other { s with time := { s.time with secs := v, epoch := (s.time.epoch + 1) % 65536, isSet := true } }).evolves.then_append _).trans
    .latchFallbackAll

theorem State.boundary_part (s : State) : s.boundary.part = s.part := by
  simp only [State.boundary, State.secondWork]
  split <;> [split; skip] <;> simp

theorem Evolves.boundary : Evolves a s s.boundary := Evolves.secondRise.trans .secondWork

theorem Evolves.boundaries (k : Nat) : ∀ s : State, Evolves a s (State.boundaries k s) := by
  induction k with
  | zero => exact .refl
  | succ k ih => exact fun s => Evolves.boundary.trans (ih _)

theorem Evolves.finishSecond : Evolves a s s.finishSecond := by
  unfold State.finishSecond
  split
  · exact .ite (fun _ => Evolves.secondWork.trans .endSecond) (fun _ => .refl s)
  · exact .refl s

theorem Evolves.takeOwed : Evolves a s s.takeOwed := (Edit.other _).evolves.trans (.boundaries _ _)

theorem Evolves.finishRound (link : a.link) (right : a.turns) : Evolves a s s.finishRound := by
  unfold State.finishRound
  split
  · exact .ite (fun _ => .roundStart link right ‹_›) (fun _ => .refl s)
  · exact .refl s

theorem Evolves.finishTick (link : a.link) (right : a.turns) : Evolves a s s.finishTick :=
  (Evolves.finishSecond.trans .takeOwed).trans (.finishRound link right)

theorem Evolves.tickOnce (link : a.link) (right : a.turns) : Evolves a s s.tickOnce := by
  unfold State.tickOnce
  dsimp only
  let t : State := { s.finishTick with time := { s.finishTick.time with tick := (s.finishTick.time.tick + 1) % 281474976710656 } }.quietFor 1
  have first : Evolves a s t := ((Evolves.finishTick link right).trans (Edit.other _).evolves).trans (.quietFor link 1)
  show Evolves a s (match t.time.tick % 32768 == 0, t.part == .running && t.time.mark == some t.time.tick with
    | false, false => t
    | true, false => t.boundary
    | false, true => t.roundStart
    | true, true => if t.tie then t.chose.boundary.roundStart else t.chose.roundStart.boundary)
  split
  · exact first
  · exact first.trans .boundary
  · exact first.trans (.roundStart link right (by simp_all))
  · have running : t.part = .running := by simp_all
    refine .ite (fun _ => ?_) (fun _ => ?_)
    · exact ((first.trans (.chose t)).trans .boundary).trans (.roundStart link right ((State.boundary_part _).trans running))
    · exact ((first.trans (.chose t)).trans (.roundStart link right running)).trans .boundary

end Evolving

end Sys2Proof.Machine

/-! SUPPORT. Enrolments that an image describes, and the tables brought to them, as edits (11:R195, R197, 02:R42). -/

namespace Sys2Proof.Machine

open Sys2Proof

/-! ### The enrolments of an image -/

theorem enrolAt_fieldsOk {b : List Byte} {i : Nat} {r : EnrolReq} (h : enrolAt b i = some r) : r.fieldsOk = true := by
  unfold enrolAt at h
  split at h
  · obtain ⟨ok, h⟩ := (Option.ite_none_right_eq_some ..).mp h
    rw [← Option.some.inj h]
    exact ok
  · cases h

/-- A list that holds each key once holds one item of each. -/
theorem eq_of_pairwise_ne {α : Type} (key : α → Nat) {l : List α} (h : l.Pairwise (fun a b => key a ≠ key b)) {x y : α}
    (hx : x ∈ l) (hy : y ∈ l) (e : key x = key y) : x = y :=
  List.inj_on_of_nodup_map (List.pairwise_map.mpr h) hx hy e

/-- What an image that passes its checks describes: good fields, each address and each point once. -/
structure Described (es : List EnrolReq) : Prop where
  ascending : es.Pairwise (fun q r => q.addr < r.addr)
  fields : ∀ r ∈ es, r.fieldsOk = true
  point : ∀ q ∈ es, ∀ r ∈ es, q.enrol.point = r.enrol.point → q = r

theorem Described.of_body {b : List Byte} {es : List EnrolReq} (h : bodyEnrolments b = some es) : Described es := by
  unfold bodyEnrolments at h
  dsimp only at h
  split at h
  · rename_i ok
    obtain rfl := Option.some.inj h
    simp only [enrolmentOk, Bool.and_eq_true, distinct_iff] at ok
    obtain ⟨-, ⟨addrs, points⟩, -⟩ := ok
    obtain ⟨asc, mem⟩ := foldl_putKey EnrolReq.addr _ [] .nil addrs (by simp)
    simp only [List.not_mem_nil, or_false] at mem
    refine ⟨asc, fun r hr => ?_, fun q hq r hr e => ?_⟩
    · obtain ⟨o, ho, rfl⟩ := List.mem_filterMap.mp ((mem r).mp hr)
      obtain ⟨i, -, hi⟩ := List.mem_map.mp ho
      exact enrolAt_fieldsOk hi
    · exact eq_of_pairwise_ne (fun r => r.enrol.point) (points.imp (fun ne => Ne.symm ne)) ((mem q).mp hq) ((mem r).mp hr) e
  · cases h

theorem Described.of_load {b : List Byte} {l : Loaded} (h : loadBody b = some l) : Described l.enrolments := by
  obtain ⟨es, hes, rfl⟩ := Option.map_eq_some_iff.mp h
  exact .of_body hes

theorem Described.of_bank {bank : Option (List Byte)} {l : Loaded} (h : judgeBank bank = .ok l) : Described l.enrolments := by
  unfold judgeBank at h
  (repeat' split at h) <;> simp only [reduceCtorEq, Except.ok.injEq] at h
  subst h
  exact .of_load ‹_›

theorem Described.of_choice {bank1 bank2 : Option (List Byte)} {r : Recent} {l : Loaded}
    (h : chooseBank bank1 bank2 = some (r, l)) : Described l.enrolments := by
  unfold chooseBank at h
  (repeat' split at h) <;> simp only [reduceCtorEq, Option.some.injEq, Prod.mk.injEq] at h <;>
    (obtain ⟨-, rfl⟩ := h; exact .of_bank ‹_›)

theorem Described.of_staged {img : List Byte} {l : Loaded} (h : judgeStaged img = .complete l) : Described l.enrolments := by
  unfold judgeStaged at h
  (repeat' split at h) <;> simp only [reduceCtorEq, Staged.complete.injEq] at h
  subst h
  exact .of_load ‹_›

/-! ### Nodes that an image describes -/

/-- Every node of the table is enrolled alike by the image. -/
def State.describedBy (es : List EnrolReq) (s : State) : Prop := ∀ n ∈ s.nodes, ∃ r ∈ es, r.addr = n.addr ∧ r.enrol.copy = n.copy

theorem State.describedBy_congr {es : List EnrolReq} {s t : State} (h : s.describedBy es) (nodes : t.nodes = s.nodes) :
    t.describedBy es := by
  unfold State.describedBy
  rw [nodes]
  exact h

theorem State.describedBy_modNode {es : List EnrolReq} {s : State} (h : s.describedBy es) (k : Nat) (f : Node → Node)
    (addr : ∀ n, (f n).addr = n.addr) (copy : ∀ n, (f n).copy = n.copy) : (s.modNode k f).describedBy es := by
  intro n hn
  obtain ⟨m, hm, rfl⟩ := (mem_modKey Node.addr).mp hn
  obtain ⟨r, hr, ha, hc⟩ := h m hm
  split
  · exact ⟨r, hr, by rw [addr, ha], by rw [copy, hc]⟩
  · exact ⟨r, hr, ha, hc⟩

theorem State.createNode_nodes (s : State) (r : EnrolReq) (v : Nat) :
    (s.createNode r v).nodes = putKey Node.addr (Node.fresh r s.revoc.gen) s.nodes := by
  unfold State.createNode
  dsimp only
  split <;> rfl

theorem State.describedBy_create {es : List EnrolReq} {s : State} (h : s.describedBy es) {r : EnrolReq} (hr : r ∈ es) (v : Nat) :
    (s.createNode r v).describedBy es := by
  intro n hn
  rw [State.createNode_nodes] at hn
  rcases mem_putKey_of Node.addr hn with rfl | hn
  · exact ⟨r, hr, rfl, rfl⟩
  · exact h n hn

/-- A new enrolment's point is no other node's. -/
theorem State.describedBy.point {es : List EnrolReq} {s : State} (h : s.describedBy es) (d : Described es) {r : EnrolReq}
    (hr : r ∈ es) (free : s.node? r.addr = none) (law : s.FolioLaw) : ∀ n ∈ s.nodes, n.enrol.point ≠ r.enrol.point := by
  intro n hn e
  obtain ⟨q, hq, ha, hc⟩ := h n hn
  rw [law.copies n hn] at hc
  have : q = r := d.point q hq r hr ((congrArg EnrolCopy.point hc).trans e)
  exact (findKey_none Node.addr).mp free n hn (by rw [← this, ha])

/-- Once the displaced nodes are gone, the image describes every node left. -/
theorem State.describedBy_of_rest {es : List EnrolReq} {s t : State}
    (rest : ∀ n ∈ t.nodes, ∃ m ∈ s.nodes, m.addr = n.addr ∧ m.copy = n.copy ∧ ∀ d ∈ s.displaced es, d.addr ≠ m.addr) :
    t.describedBy es := by
  intro n hn
  obtain ⟨m, hm, ha, hc, keeps⟩ := rest n hn
  by_cases out : m ∈ s.displaced es
  · exact absurd rfl (keeps m out)
  · simp only [State.displaced, List.mem_filter, hm, true_and, Bool.not_eq_true', Bool.not_eq_false, List.any_eq_true,
      Bool.and_eq_true, beq_iff_eq] at out
    obtain ⟨r, hr, ra, rc⟩ := out
    exact ⟨r, hr, ra.trans ha, rc.trans hc⟩

theorem State.displaceAll_described (es : List EnrolReq) (s : State) : ((s.displaced es).foldl State.displace s).describedBy es := by
  refine State.describedBy_of_rest (s := s) (fun n hn => ?_)
  rw [(State.displaces (s.displaced es) s).nodes] at hn
  obtain ⟨m, hm, rfl⟩ := List.mem_map.mp hn
  obtain ⟨hm, keeps⟩ := List.mem_filter.mp hm
  refine ⟨m, hm, rfl, rfl, fun d hd e => ?_⟩
  rw [Bool.not_eq_true', List.any_eq_false] at keeps
  exact keeps d hd (by simpa using e)

theorem State.withdraw_nodes (s : State) (n : Node) : (s.withdraw n).nodes = (s.displace n).nodes := by
  simp [State.withdraw, State.displace, State.forgetNode]

/-- What withdrawals leave of the node table: the nodes of other addresses, with their copies. -/
theorem State.withdrawAll_nodes (ds : List Node) : ∀ s : State, ∀ n ∈ (ds.foldl (fun t n => t.withdraw n) s).nodes,
    ∃ m ∈ s.nodes, m.addr = n.addr ∧ m.copy = n.copy ∧ ∀ d ∈ ds, d.addr ≠ m.addr := by
  induction ds with
  | nil => exact fun s n hn => ⟨n, hn, rfl, rfl, by simp⟩
  | cons d ds ih =>
    intro s n hn
    obtain ⟨m, hm, ha, hc, keeps⟩ := ih _ n hn
    rw [State.withdraw_nodes, (s.displace_spec d).nodes] at hm
    obtain ⟨x, hx, rfl⟩ := List.mem_map.mp hm
    obtain ⟨hx, keep⟩ := List.mem_filter.mp hx
    refine ⟨x, hx, ha, hc, fun e he => ?_⟩
    rcases List.mem_cons.mp he with rfl | he
    · simpa using keep
    · exact keeps e he

section Evolving
variable {a : Rights} {s : State} {es : List EnrolReq}

/-! ### The tables reconciled at a start (02:R42) -/

theorem Evolves.takeUp (d : Described es) (h : s.describedBy es) {r : EnrolReq} (hr : r ∈ es) : Evolves a s (s.takeUp r) := by
  unfold State.takeUp
  split
  · refine .modNode r.addr (fun n => { n with enrol := r.enrol }) (fun n hn hk => ?_)
    obtain ⟨q, hq, ha, hc⟩ := h n hn
    obtain rfl : q = r := eq_of_pairwise_ne EnrolReq.addr (d.ascending.imp (fun lt => Nat.ne_of_lt lt)) hq hr (ha.trans hk)
    exact
      { addr := rfl, comps := rfl, memory := id, answering := fun ha => .inr ⟨n, hn, ha⟩, clock := fun law => law n hn
        enrol := fun same => hc.trans same, copy := rfl, session := fun _ hx _ => .inl hx }
  · exact (Edit.create r _ ‹_› (d.fields r hr) (h.point d hr ‹_›)).evolves

theorem State.takeUp_described (h : s.describedBy es) {r : EnrolReq} (hr : r ∈ es) : (s.takeUp r).describedBy es := by
  unfold State.takeUp
  split
  · exact State.describedBy_modNode h _ _ (fun _ => rfl) (fun _ => rfl)
  · exact State.describedBy_create h hr _

theorem Evolves.reconcile (d : Described es) : Evolves a s (s.reconcile es) :=
  (Evolves.displaceAll (fun _ hn => (List.mem_filter.mp hn).1)).trans
    (.foldl_of (Q := State.describedBy es) es (fun _ _ hr h => ⟨.takeUp d h hr, State.takeUp_described h hr⟩) _
      (State.displaceAll_described es s))

/-! ### An image applied in RUNNING (11:R197) -/

theorem Evolves.enrolNew (d : Described es) (h : s.describedBy es) {r : EnrolReq} (hr : r ∈ es) : Evolves a s (s.enrolNew r) := by
  unfold State.enrolNew
  split
  · exact .refl s
  · exact .enrol r ‹_› (d.fields r hr) (h.point d hr ‹_›)

theorem State.enrolNew_described (h : s.describedBy es) {r : EnrolReq} (hr : r ∈ es) : (s.enrolNew r).describedBy es := by
  unfold State.enrolNew
  split
  · exact h
  · unfold State.enrol
    refine State.describedBy_congr (State.describedBy_modNode (State.describedBy_create h hr s.now) r.addr
      (fun n => { n with latchFallback := true, latchComp := r.enrol.cls == .minibar }) (fun _ => rfl) (fun _ => rfl)) ?_
    simp

theorem mem_roomsFirst {r : EnrolReq} (h : r ∈ roomsFirst es) : r ∈ es := by
  rcases List.mem_append.mp h with h | h <;> exact (List.mem_filter.mp h).1

theorem Evolves.replaceSettings (v : Settings) : Evolves a s (s.replaceSettings v) := by
  have first : Evolves a s { s with loader := { s.loader with settings := s.settings.withKeysOf v } } := (Edit.other _).evolves
  exact .ite (fun _ => first) (fun _ => first.trans .latchFallbackAll)

/-- New settings leave each node its address, enrolment and copy. -/
theorem State.replaceSettings_nodes (v : Settings) (s : State) : ∃ b : Bool,
    (s.replaceSettings v).nodes = s.nodes.map (fun n => { n with latchFallback := n.latchFallback || b }) := by
  unfold State.replaceSettings
  dsimp only
  split
  · exact ⟨false, by simp⟩
  · exact ⟨true, by simp [State.latchFallbackAll]⟩

theorem State.impliedWithdrawals_hold (v : Settings) : (s.replaceSettings v).holdsOrGone (s.impliedWithdrawals es) := by
  obtain ⟨b, hb⟩ := s.replaceSettings_nodes v
  refine fun n hn => .inl ⟨{ n with latchFallback := n.latchFallback || b }, ?_, rfl, rfl⟩
  rw [hb]
  exact List.mem_map_of_mem (List.mem_filter.mp hn).1

theorem State.withdrawAll_described (v : Settings) :
    ((s.impliedWithdrawals es).foldl (fun t n => t.withdraw n) (s.replaceSettings v)).describedBy es := by
  obtain ⟨b, hb⟩ := s.replaceSettings_nodes v
  refine State.describedBy_of_rest (s := s) (fun n hn => ?_)
  obtain ⟨m, hm, ha, hc, keeps⟩ := State.withdrawAll_nodes _ _ n hn
  rw [hb] at hm
  obtain ⟨x, hx, rfl⟩ := List.mem_map.mp hm
  exact ⟨x, hx, ha, hc, keeps⟩

theorem Evolves.refield (r : EnrolReq) : Evolves a s (s.refield r) := .setNodeFields _ _ _

theorem Evolves.applyImage {l : Loaded} (d : Described l.enrolments) : Evolves a s (s.applyImage l) := by
  unfold State.applyImage
  dsimp only
  refine Evolves.trans (((Evolves.replaceSettings l.settings).trans (.withdrawAll (State.impliedWithdrawals_hold (es := l.enrolments) l.settings))).trans ?_)
    (.foldl (fun _ r => .refield r) _ _)
  exact .foldl_of (Q := State.describedBy l.enrolments) _
    (fun _ _ hr h => ⟨.enrolNew d h (mem_roomsFirst hr), State.enrolNew_described h (mem_roomsFirst hr)⟩) _
    (State.withdrawAll_described l.settings)

end Evolving

end Sys2Proof.Machine

/-! SUPPORT. What the owning block of each host command does, as edits. -/

namespace Sys2Proof.Machine

open Sys2Proof

section Evolving
variable {a : Rights} {s : State}

/-! ### Settings, time and lines -/

theorem judgeStaged_short {img : List Byte} (h : judgeStaged img = .incomplete) : img.length ≤ 4096 := by
  unfold judgeStaged at h
  split at h
  · omega
  · split at h
    · cases h
    · rename_i ok
      simp only [not_or, Decidable.not_not, headerFormatOk, Bool.and_eq_true, decide_eq_true_eq] at ok
      omega

theorem Evolves.stage {img : List Byte} (few : img.length ≤ 4096) : Evolves a s (s.stage img) := (Edit.staging img few).evolves

theorem Evolves.takeImage_running {l : Loaded} (d : Described l.enrolments) (order : List StartActor) (running : s.part = .running) :
    Evolves a s (s.takeImage order l).1 := by
  unfold State.takeImage
  rw [running]
  dsimp only
  split
  · exact .refl s
  · exact (Evolves.applyImage d).trans (.stage (Nat.zero_le _))

theorem Evolves.serveLoadSettings {body : List Byte}
    (take : ∀ l, Described l.enrolments → Evolves a s (s.takeImage s.startOrder l).1) : Evolves a s (serveLoadSettings body s).1 := by
  unfold Machine.serveLoadSettings
  split
  · exact .refl s
  · split
    · exact .refl s
    · exact .stage (judgeStaged_short ‹_›)
    · exact take _ (.of_staged ‹_›)

theorem Evolves.serveReadSettings (body : List Byte) : Evolves a s (serveReadSettings body s).1 := by
  unfold Machine.serveReadSettings
  (repeat' split) <;> exact .refl s

theorem Evolves.serveStoreSettings : Evolves a s (serveStoreSettings s).1 := by
  unfold Machine.serveStoreSettings
  split
  · exact .refl s
  · exact (Edit.other _).evolves

theorem Evolves.cutIf (b : Bool) (l : LineId) : Evolves a s (if b then s.cutRound l else s) :=
  .ite (fun _ => .cutRound l) (fun _ => .refl s)

theorem State.cutIf_part (b : Bool) (l : LineId) (s : State) : (if b then s.cutRound l else s).part = s.part := by
  split <;> simp

theorem Evolves.serveLineControl {body : List Byte} (right : a.turns) (running : s.part = .running) :
    Evolves a s (serveLineControl body s).1 := by
  unfold Machine.serveLineControl
  split
  · exact .refl s
  · unfold State.retrain
    split
    · exact .refl s
    · exact .refl s
    · exact (Evolves.cutIf _ _).trans (.enterTraining _ right ((State.cutIf_part _ _ s).trans running))
  · exact (Evolves.cutIf _ _).trans (.setLineState _ right (by simp) ((State.cutIf_part _ _ s).trans running))
  · unfold State.enableLine
    split
    · exact .enterTraining _ right running
    · exact .refl s

theorem Evolves.serveLineStatus (body : List Byte) : Evolves a s (serveLineStatus body s).1 := by
  unfold Machine.serveLineStatus
  split
  · exact .refl s
  · refine .ite (fun _ => .lines ?_) (fun _ => .refl s)
    exact .of rfl rfl (Nat.le_refl _) (Nat.le_refl _) (LinesKept.sameRound rfl)

/-! ### Nodes -/

/-- An enrolment that is not refused names a free address and a free point. -/
theorem State.enrolRefusal_none {r : EnrolReq} (h : s.enrolRefusal r = none) :
    s.node? r.addr = none ∧ ∀ n ∈ s.nodes, n.enrol.point ≠ r.enrol.point := by
  unfold State.enrolRefusal at h
  split at h
  · cases h
  · rename_i free
    split at h
    · cases h
    · rename_i point
      exact ⟨Option.not_isSome_iff_eq_none.mp free, by simpa using point⟩

theorem Evolves.serveEnrollNode (body : List Byte) : Evolves a s (serveEnrollNode body s).1 := by
  unfold Machine.serveEnrollNode
  split
  · exact .refl s
  · split
    · exact .refl s
    · obtain ⟨free, point⟩ := State.enrolRefusal_none ‹_›
      exact .enrol _ free (enrolAt_fieldsOk ‹_›) (fun _ => point)

/-- A node found by its address is the only one of that address. -/
theorem State.enrol_of_node? {k : Nat} {n : Node} (h : s.node? k = some n) (asc : s.nodes.Pairwise (fun m n => m.addr < n.addr)) :
    ∀ m ∈ s.nodes, m.addr = n.addr → m.enrol = n.enrol := by
  intro m hm ha
  rw [eq_of_findKey Node.addr asc h hm (ha.trans (findKey_some Node.addr h).1)]

theorem Evolves.serveWithdrawNode (body : List Byte) : Evolves a s (serveWithdrawNode body s).1 := by
  unfold Machine.serveWithdrawNode
  split
  · exact .refl s
  · split
    · exact .refl s
    · split
      · exact .refl s
      · exact .withdraw (State.enrol_of_node? ‹_›)

theorem Evolves.setParts (r : SetNodeReq) (n : Node) : Evolves a s (s.setParts r n) := .setNodeFields _ _ _

theorem Evolves.setAction (action : Option NodeAction) (n : Node) : Evolves a s (s.setAction action n) := by
  unfold State.setAction
  split
  · exact .refl _
  · exact .ite (fun _ => .refl _) (fun _ => .disableNode _)
  · exact .enableNode _

theorem Evolves.serveSetNode (body : List Byte) : Evolves a s (serveSetNode body s).1 := by
  unfold Machine.serveSetNode
  split
  · exact .refl s
  · split
    · exact .refl s
    · split
      · exact .refl s
      · split
        · exact .refl s
        · exact (Evolves.setParts _ _).trans (.setAction _ _)

theorem Evolves.serveNodeStatus (body : List Byte) : Evolves a s (serveNodeStatus body s).1 := by
  unfold Machine.serveNodeStatus
  dsimp only
  split <;> exact .refl s

theorem Evolves.serveReloadNode (body : List Byte) : Evolves a s (serveReloadNode body s).1 := by
  unfold Machine.serveReloadNode
  split
  · exact .refl s
  · split
    · exact .refl s
    · exact .markReload _

theorem Evolves.serveOpenPoint {body : List Byte} (running : s.part = .running) : Evolves a s (serveOpenPoint body s).1 := by
  unfold Machine.serveOpenPoint
  split
  · exact .refl s
  · split
    · exact .refl s
    · split
      · exact .refl s
      · split
        · exact .refl s
        · split
          · exact .refl s
          · exact .pushUrgent _ running (by omega)

/-! ### Cards -/

theorem Evolves.serveIssueCard (body : List Byte) : Evolves a s (serveIssueCard body s).1 := by
  unfold Machine.serveIssueCard
  split
  · exact .refl s
  · split
    · exact .refl s
    · split
      · exact .refl s
      · split
        · exact .refl s
        · exact (Evolves.takeSlot ‹_› rfl rfl).then_append _

/-- A command on a credential acts on the record found. -/
theorem Evolves.onCred {body : List Byte} {f : Cred → State → State × Reply}
    (serve : ∀ k c, s.cred? k = some c → Evolves a s (f c s).1) : Evolves a s (s.onCred body f).1 := by
  unfold State.onCred
  split
  · exact .refl s
  · split
    · exact .refl s
    · exact serve _ _ ‹_›

theorem State.cred?_number {k : Nat} {c : Cred} (h : s.cred? k = some c) : s.cred? c.number = some c := by
  rw [(findKey_some Cred.number h).1]; exact h

theorem Evolves.confirmStay (c : Cred) : Evolves a s (s.confirmStay c) := by
  unfold State.confirmStay
  split
  · split
    · exact (Evolves.advanceStay _).trans (.reopenFolio _)
    · exact .refl s
  · exact .refl s

theorem Evolves.serveConfirm {k : Nat} {c : Cred} (right : a.cards) (hc : s.cred? k = some c) : Evolves a s (serveConfirm c s).1 := by
  unfold Machine.serveConfirm
  split
  · refine Evolves.trans (Evolves.trans (Evolves.trans (Evolves.then_append ?_ _) (.revokeAll _ _)) (.removeSerial _)) (.confirmStay c)
    exact .setCredState (State.cred?_number hc) (CredState.retiredAt_of_encoding ‹_›) rfl right
  · exact .refl s

theorem Evolves.serveCancel {k : Nat} {c : Cred} (hc : s.cred? k = some c) : Evolves a s (serveCancel c s).1 := by
  unfold Machine.serveCancel
  split
  · refine .returnEncoding _ _ (fun _ d hd => ?_)
    rw [State.cred?_number hc] at hd
    rw [← Option.some.inj hd]
    assumption
  · exact .refl s

theorem State.cred?_congr {s t : State} (h : t.store = s.store) (k : Nat) : t.cred? k = s.cred? k := by
  simp [State.cred?, h]

theorem Evolves.suspend {k : Nat} {c : Cred} (right : a.cards) (hc : s.cred? k = some c) (current : c.st.current = true)
    (wasActive : Bool) : Evolves a s (s.suspend c wasActive).1 := by
  unfold State.suspend
  dsimp only
  split
  · rename_i room
    have listed := Evolves.pushEntry c.serial (some c.number) .suspended c.validEnd right (of_decide_eq_true room)
    refine ((Evolves.askRoom.trans listed).trans ?_).then_append _
    have found : ((s.askRoom).pushEntry c.serial (some c.number) .suspended c.validEnd).cred? c.number = some c := by
      rw [State.cred?_congr (s := s) (by simp)]
      exact State.cred?_number hc
    exact .setCredState found (CredState.retiredAt_of_current current) rfl right
  · exact .askRoom

theorem Evolves.serveSuspend {k : Nat} {c : Cred} (right : a.cards) (hc : s.cred? k = some c) : Evolves a s (serveSuspend c s).1 := by
  unfold Machine.serveSuspend
  split
  · exact .suspend right hc (by simp [*, CredState.current]) _
  · exact .suspend right hc (by simp [*, CredState.current]) _
  · exact .refl s

theorem Evolves.serveResume {k : Nat} {c : Cred} (right : a.cards) (hc : s.cred? k = some c) : Evolves a s (serveResume c s).1 := by
  unfold Machine.serveResume
  split
  · rename_i w t hst
    refine Evolves.then_append (Evolves.trans ?_ (.removeSerial _)) _
    exact .setCredState (State.cred?_number hc) (by simp [hst, CredState.retiredAt]) (by cases w <;> rfl) right
  · exact .refl s

theorem Evolves.revokeByRekey (c : Cred) : Evolves a s (s.revokeByRekey c).1 := by
  unfold State.revokeByRekey
  split
  · split
    · exact .refl s
    · split
      · exact .refl s
      · exact (Evolves.rekey _).trans (Edit.other _).evolves
  · exact .refl s

theorem State.reformEntry_entries_le {e : ListEntry} (he : e ∈ s.revoc.entries) (cred : Option Nat) (r : ListReason) :
    (s.reformEntry e cred r).revoc.entries.length ≤ s.revoc.entries.length := by
  have short := dropKey_length_lt ListEntry.serial he
  simpa [State.reformEntry, State.pushEntry, State.emit_entries, State.setEntries] using short

/-- A revocation leaves the revocation list, or moves one entry of it to the tail. -/
theorem State.revoke_entries_le (k : Nat) (r : RevReason) : (s.revoke k r).revoc.entries.length ≤ s.revoc.entries.length := by
  unfold State.revoke
  split
  · exact Nat.le_refl _
  · split
    · dsimp only
      split
      · split
        · simp
        · split
          · have le := State.reformEntry_entries_le (List.mem_of_find?_eq_some ‹_›) ‹ListEntry›.cred .revoked
            simpa using le
          · simp
      · simp
    · exact Nat.le_refl _

theorem Evolves.revokeCurrent (c : Cred) (right : a.cards) : Evolves a s (s.revokeCurrent c).1 := by
  unfold State.revokeCurrent
  split
  · exact .revoke _ _
  · dsimp only
    split
    · rename_i room
      refine Evolves.trans (Evolves.trans .askRoom (.revoke _ _)) (.pushEntry _ _ _ _ right ?_)
      exact (State.revoke_entries_le _ _).trans_lt (of_decide_eq_true room)
    · exact Evolves.askRoom.trans (.revokeByRekey c)

theorem Evolves.serveRevoke (c : Cred) (right : a.cards) : Evolves a s (serveRevoke c s).1 := by
  unfold Machine.serveRevoke
  split
  · exact .revoke _ _
  · exact .revokeCurrent c right
  · exact .revokeCurrent c right
  · exact .refl s

theorem Evolves.extendEntry (serial t : Nat) : Evolves a s (s.extendEntry serial t) := by
  have same : ∀ e : ListEntry, (if e.serial = serial then { e with retireAt := max e.retireAt t } else e).serial = e.serial := by
    intro e; split <;> rfl
  refine (Edit.listing _ s.revoc.changes (by simp) id (.inr ⟨fun h => ?_, fun f hf => ?_⟩)).evolves
  · rw [List.pairwise_map]
    exact h.imp (fun ne => by rw [same, same]; exact ne)
  · obtain ⟨e, he, rfl⟩ := List.mem_map.mp hf
    exact ⟨e, he, (same e).symm⟩

theorem Evolves.serveRevokeSerial (body : List Byte) (right : a.cards) :
    Evolves a s (serveRevokeSerial body s).1 := by
  unfold Machine.serveRevokeSerial
  dsimp only
  split
  · exact .serveRevoke _ right
  · split
    · exact .extendEntry _ _
    · split
      · rename_i room
        exact Evolves.askRoom.trans (.pushEntry _ _ _ _ right (of_decide_eq_true room))
      · exact .askRoom

theorem Evolves.serveCardStatus (body : List Byte) : Evolves a s (serveCardStatus body s).1 := by
  unfold Machine.serveCardStatus
  (repeat' split) <;> exact .refl s

theorem Evolves.servePurge (body : List Byte) : Evolves a s (servePurge body s).1 :=
  .purgeAll _ s (List.takeWhile_prefix _)

/-! ### Rooms -/

theorem Evolves.onRoom {body : List Byte} {f : Room → State → State × Reply}
    (serve : ∀ room, s.room? room.point = some room → Evolves a s (f room s).1) : Evolves a s (s.onRoom body f).1 := by
  unfold State.onRoom
  split
  · exact .refl s
  · split
    · exact .refl s
    · rename_i room h
      have found : s.room? (u16At body 0) = some room := (Option.ite_none_right_eq_some ..).mp h |>.2
      refine serve room ?_
      rw [(findKey_some Room.point found).1]
      exact found

theorem Evolves.serveRekey (room : Room) : Evolves a s (serveRekey room s).1 := by
  unfold Machine.serveRekey
  split
  · exact .refl s
  · split
    · exact .refl s
    · exact .rekey _

theorem Evolves.serveCheckout {room : Room} (h : s.room? room.point = some room) : Evolves a s (serveCheckout room s).1 := by
  unfold Machine.serveCheckout
  split
  · exact .refl s
  · exact ((Evolves.endStay h).trans (.checkoutFolio _)).then_append _

theorem Evolves.serveResequence (room : Room) : Evolves a s (serveResequence room s).1 :=
  ((Evolves.cancelPending _ _).trans (.resetRoom _)).then_append _

/-! ### Minibars and folios -/

theorem Evolves.serveSetCompartment (body : List Byte) : Evolves a s (serveSetCompartment body s).1 := by
  unfold Machine.serveSetCompartment
  split
  · exact .refl s
  · split
    · exact .refl s
    · split
      · exact .refl s
      · split
        · exact .refl s
        · exact .modNode_inert _ _ (fun n => { comps := by simp [Node.setComp] })

theorem Evolves.onFolio {body : List Byte} {f : Folio → State → State × Reply}
    (serve : ∀ x, s.folio? (u16At body 0) = some x → Evolves a s (f x s).1) : Evolves a s (s.onFolio body f).1 := by
  unfold State.onFolio
  split
  · exact .refl s
  · split
    · exact .refl s
    · exact serve _ ‹_›

theorem Evolves.serveSetCeiling (v : Nat) (f : Folio) : Evolves a s (serveSetCeiling v f s).1 := by
  unfold Machine.serveSetCeiling
  split
  · exact .refl s
  · exact Evolves.trans (.modFolio _ (fun g => { g with ceiling := min folioLimit v }) (fun _ => rfl) (fun _ => rfl) (fun _ h => h) (fun _ h => h))
      (.judgeHeld _ _)

theorem Evolves.serveSettle {p v : Nat} {f : Folio} (hf : s.folio? p = some f) : Evolves a s (serveSettle v f s).1 := by
  unfold Machine.serveSettle
  refine Evolves.then_append ?_ _
  refine (Charged.minibar s _).evolves (fun law => ?_) (by simp)
  have least := law.balance f (State.folio?_mem hf).2
  exact law.modFolio f.point (fun g => { g with balance := f.balance - v }) (fun _ => rfl) (fun _ => rfl)
    (fun _ _ => (Nat.sub_le _ _).trans least) (fun _ h => h)

theorem Evolves.serveSettleBody (body : List Byte) : Evolves a s (serveSettleBody body s).1 := by
  unfold Machine.serveSettleBody
  split
  · exact .refl s
  · exact .onFolio (fun _ h => .serveSettle h)

/-! ### The journal -/

theorem Journal.locate_held {j : Journal} {x i : Nat} (h : j.locate x = .held i) : i + 1 ≤ j.recs.length := by
  unfold Journal.locate at h
  dsimp only at h
  (repeat' split at h) <;> simp only [reduceCtorEq, Place.held.injEq] at h
  omega

theorem Journal.acknowledged_le {j : Journal} (x : Nat) (h : j.acked ≤ j.recs.length) : (j.acknowledged x).1 ≤ j.recs.length := by
  unfold Journal.acknowledged
  split
  · have := Journal.locate_held ‹_›
    dsimp only
    omega
  · exact h
  · split
    · exact h
    · exact Nat.le_refl _
  · split
    · exact h
    · exact Nat.le_refl _

theorem Evolves.ackJournal (x : Nat) : Evolves a s (s.ackJournal x) :=
  (Edit.record { s.journal with acked := (s.journal.acknowledged x).1 } s.port
    (fun law => ⟨law.size, Journal.acknowledged_le x law.acked, law.next, law.numbers⟩) (.refl _)).evolves

theorem Evolves.serveAckJournal (body : List Byte) : Evolves a s (serveAckJournal body s).1 :=
  (Evolves.ackJournal _).trans (.foldl (fun _ k => .judgePermit k) _ _)

theorem Evolves.serveReadJournal (body : List Byte) : Evolves a s (serveReadJournal body s).1 := by
  unfold Machine.serveReadJournal
  split <;> exact .refl s

end Evolving

end Sys2Proof.Machine

/-! SUPPORT. Starts, supply and port events, and every row of the table: what a step does, as edits. -/

namespace Sys2Proof.Machine

open Sys2Proof

/-! ### Rights -/

theorem Edit.mono {a b : Rights} {s t : State} (link : a.link → b.link) (turns : a.turns → b.turns)
    (starts : a.starts → b.starts) (cards : a.cards → b.cards) (h : Edit a s t) : Edit b s t := by
  cases h with
  | other _ h1 h2 h3 h4 h5 h6 h7 h8 h9 h10 h11 => exact .other _ h1 h2 h3 h4 h5 h6 h7 h8 h9 h10 h11
  | record j p h1 h2 => exact .record j p h1 h2
  | link p r h1 h2 => exact .link p (link r) h1 h2
  | nodes f h1 h2 => exact .nodes f h1 h2
  | lines l h => exact .lines l h
  | lineState l st r h1 h2 h3 => exact .lineState l st (turns r) h1 h2 h3
  | startLine l r => exact .startLine l (starts r)
  | enterRunning r => exact .enterRunning (starts r)
  | store st h1 h2 => exact .store st h1 (h2.imp_left cards)
  | listing es cs h1 h2 h3 => exact .listing es cs h1 h2 (h3.imp_left cards)
  | rooms rs h => exact .rooms rs h
  | minibar m h1 h2 => exact .minibar m h1 h2
  | create r v h1 h2 h3 => exact .create r v h1 h2 h3
  | forget k h => exact .forget k h
  | staging img h => exact .staging img h
  | halt t r h1 h2 h3 h4 h5 h6 h7 h8 h9 h10 h11 => exact .halt t (link r) h1 h2 h3 h4 h5 h6 h7 h8 h9 h10 h11
  | cold t r h1 h2 h3 h4 h5 h6 h7 h8 h9 => exact .cold t (link r) h1 h2 h3 h4 h5 h6 h7 h8 h9
  | part p h1 h2 => exact .part p h1 h2

/-- The rights less that to the link: what the owning block of a command has. -/
def Rights.block (a : Rights) : Rights := { a with link := False }

theorem Evolves.of_block {a : Rights} {s t : State} (h : Evolves a.block s t) : Evolves a s t := by
  have edits : ∀ s t, Edit a.block s t → Edit a s t := fun _ _ e =>
    e.mono (a := a.block) (b := a) False.elim id id id
  exact Relation.ReflTransGen.mono edits s t h

/-- Without the right to the link the port changes by notices alone. -/
theorem Edit.noticesOnly {a : Rights} {s t : State} (no : ¬ a.link) (h : Edit a s t) : Port.noticesOnly s.port t.port := by
  cases h with
  | other _ _ _ _ _ _ _ _ _ _ _ port => rw [port]; rfl
  | record j p _ noticed => exact noticed.notices
  | link p r => exact absurd r no
  | halt t r => exact absurd r no
  | cold t r => exact absurd r no
  | lineState l st => cases l <;> rfl
  | startLine l => cases l <;> rfl
  | create r v => simp only [State.createNode]; split <;> rfl
  | _ => rfl

theorem Evolves.noticesOnly {a : Rights} {s t : State} (no : ¬ a.link) (h : Evolves a s t) : Port.noticesOnly s.port t.port := by
  induction h with
  | refl => rfl
  | tail _ e ih =>
    have next := e.noticesOnly no
    unfold Port.noticesOnly at *
    rw [next, ih]

/-- What a block does leaves the service as it stands. -/
theorem Evolves.block_service {a : Rights} {s t : State} (h : Evolves a.block s t) : t.port.service = s.port.service := by
  rw [h.noticesOnly id]

/-- A command row: refused by the port, or served by its owning block and answered. -/
theorem Evolves.command {a : Rights} {s : State} {kind tag : Byte} {len : Nat} {lenOk : Nat → Bool}
    {serve : State → State × Reply} {rearms : List NoticeKind} (link : a.link)
    (served : servedIn s.part kind = true → Evolves a.block s (serve s).1) :
    Evolves a s (s.command kind tag len lenOk serve rearms) := by
  unfold State.command
  refine .ite (fun _ => .refl s) (fun _ => .ite (fun _ => .overlap link _ _) (fun idle => ?_))
  replace idle : s.port.service = none := Option.not_isSome_iff_eq_none.mp idle
  refine .ite (fun _ => .answer link idle _ _ _ _) (fun serves => .ite (fun _ => .answer link idle _ _ _ _) (fun _ => ?_))
  have act := (served (by simpa using serves)).trans (Evolves.rearmIf (serve s).2.status.success rearms)
  exact act.of_block.trans (.answer link (act.block_service.trans idle) _ _ _ _)

/-- The kinds that a part serves in RUNNING only. -/
theorem running_of_servedIn {p : PartState} {kind : Byte} (h : servedIn p kind = true)
    (only : ([0x01, 0x02, 0x03, 0x04, 0x06] : List Byte).contains kind = false) : p = .running := by
  cases p <;> simp_all [servedIn]

section Evolving
variable {a : Rights} {s : State}

/-! ### Starts (11:R195) -/

theorem Evolves.started : Evolves a s s.started := (Edit.record s.journal _ id (Port.ready_noticed _ rfl rfl)).evolves

theorem Evolves.startAct {es : List EnrolReq} (d : Described es) (right : a.starts) (lost : List Nat) (act : StartActor) :
    Evolves a s (s.startAct es lost act) := by
  cases act with
  | tables => exact .reconcile d
  | orphans => exact .returnOrphans _
  | lapses => exact .lapseEncodings
  | charges => exact .commitDue
  | lineA => exact .startTraining _ right
  | lineB => exact .startTraining _ right
  | entry => exact (Edit.enterRunning right).evolves
  | notice => exact .started

theorem Evolves.reachRunning {l : Loaded} (d : Described l.enrolments) (right : a.starts) (order : List StartActor) :
    Evolves a s (s.reachRunning order l) := by
  unfold State.reachRunning
  dsimp only
  have first : Evolves a s { s with loader := { s.loader with settings := l.settings } } := (Edit.other _).evolves
  exact (first.trans (.foldl (fun _ act => .startAct d right _ act) _ _)).trans (Edit.other _).evolves

theorem Evolves.takeImage {l : Loaded} (d : Described l.enrolments) (order : List StartActor)
    (right : s.part ≠ .running → a.starts) : Evolves a s (s.takeImage order l).1 := by
  by_cases running : s.part = .running
  · exact .takeImage_running d order running
  · unfold State.takeImage
    split
    · exact absurd ‹_› running
    · exact ((Evolves.stage (Nat.zero_le _)).trans (.chose _)).trans (.reachRunning d (right running) order)

theorem Evolves.loadComplete {order : List StartActor} {bank1 bank2 : Option (List Byte)} (right : a.starts)
    (out : s.part ≠ .running) : Evolves a s (s.loadComplete order bank1 bank2) := by
  unfold State.loadComplete
  dsimp only
  split
  · exact ((Edit.other _).evolves.trans (Edit.other _).evolves).trans (.reachRunning (.of_choice ‹_›) right order)
  · have left : Evolves a s { s with part := .unconfigured } := (Edit.part .unconfigured out (by simp)).evolves
    exact left.trans (Edit.other _).evolves

/-! ### Supply, pin and restart (11:R192, R193, R196) -/

theorem State.enterLoading_idle (s : State) (kind : StartKind) : PortIdle (s.enterLoading kind).port := ⟨rfl, rfl, rfl⟩

theorem Evolves.halt {t : State} (link : a.link) (part : t.part ≠ .running) (loader : t.loader = s.discardVolatile.loader)
    (lines : t.lines = s.discardVolatile.lines) (nodes : t.nodes = s.discardVolatile.nodes)
    (store : t.store = s.discardVolatile.store) (revoc : t.revoc = s.discardVolatile.revoc)
    (minibar : t.minibar = s.discardVolatile.minibar) (numbered : s.journal.Law → t.journal.Law) (port : PortIdle t.port) :
    Evolves a s t :=
  (Edit.halt t link part (by rw [loader]; rfl) lines nodes store (by rw [revoc]; rfl) (by rw [revoc]; rfl) (by rw [revoc]; rfl)
    minibar numbered port).evolves

theorem Evolves.coldStart (link : a.link) : Evolves a s s.coldStart :=
  (Edit.cold s.coldStart link (by simp [State.coldStart, State.enterLoading]) rfl rfl rfl rfl rfl rfl rfl
    (State.enterLoading_idle _ _)).evolves

theorem Evolves.restartEffect (link : a.link) (kind : StartKind) (d : Detail) : Evolves a s (s.restartEffect kind d) := by
  refine .ite (fun _ => ?_) (fun _ => .coldStart link)
  refine .halt link (by simp [State.enterLoading]) ?_ ?_ ?_ ?_ ?_ ?_ (fun law => ?_) (State.enterLoading_idle _ _)
  case refine_7 =>
    simp only [State.enterLoading, State.append_journal]
    exact Journal.push_law _ _ law
  all_goals simp [State.enterLoading]

theorem Evolves.warmStart (link : a.link) (out : s.part ≠ .running) : Evolves a s s.warmStart := by
  unfold State.warmStart
  let t := s.append { kind := .supplyRestored, value1 := some (sub32 s.now s.supply.outageStart) }
  have first : Evolves a s t := .append s _
  have second : Evolves a t { t with part := .loading } :=
    (Edit.part .loading (by rw [State.append_part]; exact out) (by simp)).evolves
  refine (first.trans second).trans (Evolves.trans (t := { t with part := .loading, port := (t.enterLoading .warm).port }) ?_ (Edit.other _).evolves)
  exact (Edit.link (s := { t with part := .loading }) _ link (fun _ => ⟨fun _ => rfl, rfl⟩) (fun _ => Nat.zero_le _)).evolves

theorem Evolves.restore (link : a.link) (out : s.part ≠ .running) : Evolves a s s.restore :=
  .ite (fun _ => .warmStart link out) (fun _ => .coldStart link)

theorem Evolves.frameSent (link : a.link) {t : State} (h : execFrameSent s = .next t) : Evolves a s t := by
  injection h with h
  subst h
  split
  · exact .refl s
  · rename_i f hf
    split
    · rename_i reply
      have ended : Evolves a s { s with port := s.port.nextFrame.served } :=
        (Edit.link _ link (fun law => Port.served_law law hf reply) Port.nextFrame_rejects).evolves
      exact .ite (fun _ => ended.trans (.restartEffect link _ _)) (fun _ => ended)
    · rename_i other
      exact (Edit.link _ link (fun law => Port.nextFrame_law law hf (by simpa using other)) Port.nextFrame_rejects).evolves

theorem Evolves.roundPart {due : State → Bool} {act : State → State} (link : a.link)
    (acts : ∀ t : State, t.part = .running → Evolves a t (act t)) : Evolves a s (s.roundPart due act) :=
  .ite (fun h => (Evolves.beginRoundStart link h.1).trans (acts _ (by rw [State.beginRoundStart, State.endRound_part, State.toMark_part]; exact h.1)))
    (fun _ => .refl s)

theorem Evolves.secondPart {due : State → Bool} {act : State → State} (link : a.link)
    (acts : ∀ t : State, due t = true → Evolves a t (act t)) : Evolves a s (s.secondPart due act) :=
  .ite (fun h => (Evolves.beginSecond link).trans (acts _ h.2)) (fun _ => .refl s)

theorem Evolves.windowClose {node : Byte} {copyA copyB : Option Copy} {first : Completion} {t : State}
    (h : execWindowClose node copyA copyB first s = .next t) : Evolves a s t := by
  injection h with h
  subst h
  split
  · split
    · exact .resolveWindow _ _ _ _ _ ‹_›
    · exact .refl s
  · exact .refl s

theorem Evolves.invitationClose {copyA copyB : Option Copy} {t : State}
    (h : execInvitationClose copyA copyB s = .next t) : Evolves a s t := by
  injection h with h
  subst h
  split
  · exact .ite (fun _ => .resolveInvitation _ _ _) (fun _ => .refl s)
  · exact .refl s

end Evolving

/-! ### Every row -/

/-- The rows that make a card current or list a serial. -/
def dealsCards : Instr → Bool
  | .confirmCard _ _ => true
  | .suspendCard _ _ => true
  | .resumeCard _ _ => true
  | .revokeCard _ _ => true
  | .revokeSerial _ _ => true
  | _ => false

/-- The rows by which the part reaches RUNNING from a state. -/
def startsFrom (s : State) : Instr → Prop
  | .loadComplete _ _ => True
  | .loadSettings _ _ => s.part ≠ .running
  | _ => False

end Sys2Proof.Machine

/-! SUPPORT. Every row of the table and the wing tick as edits of the state. -/

namespace Sys2Proof.Machine

open Sys2Proof

/-- A command served in RUNNING only. -/
theorem Evolves.command_running {a : Rights} {s : State} {kind tag : Byte} {len : Nat} {lenOk : Nat → Bool}
    {serve : State → State × Reply} {rearms : List NoticeKind} (link : a.link)
    (only : ([0x01, 0x02, 0x03, 0x04, 0x06] : List Byte).contains kind = false)
    (served : s.part = .running → Evolves a.block s (serve s).1) : Evolves a s (s.command kind tag len lenOk serve rearms) :=
  .command link (fun h => served (running_of_servedIn h only))

/-- What a row does to the state. -/
theorem exec_evolves {a : Rights} {i : Instr} {s t : State} (link : a.link) (turns : ¬ startsFrom s i → a.turns)
    (starts : startsFrom s i → a.starts) (cards : dealsCards i = true → a.cards) (h : exec i s = .next t) : Evolves a s t := by
  cases i with
  | ping tag body => exact Host.Outcome.next.inj h ▸ .command link (fun _ => .refl s)
  | getStatus tag body => exact Host.Outcome.next.inj h ▸ .command link (fun _ => .refl s)
  | loadSettings tag body =>
    exact Host.Outcome.next.inj h ▸ .command link (fun _ => .serveLoadSettings (fun _ d => .takeImage d _ starts))
  | readSettings tag body => exact Host.Outcome.next.inj h ▸ .command link (fun _ => .serveReadSettings body)
  | storeSettings tag body => exact Host.Outcome.next.inj h ▸ .command link (fun _ => .serveStoreSettings)
  | restart tag body => exact Host.Outcome.next.inj h ▸ .command link (fun _ => .refl s)
  | setTime tag body => exact Host.Outcome.next.inj h ▸ .command link (fun _ => .stepTime _)
  | lineRetrain tag body =>
    exact Host.Outcome.next.inj h ▸ .command_running link (by decide) (fun running => .serveLineControl (turns id) running)
  | lineDisable tag head =>
    exact Host.Outcome.next.inj h ▸ .command_running link (by decide) (fun running => .serveLineControl (turns id) running)
  | lineEnable tag head =>
    exact Host.Outcome.next.inj h ▸ .command_running link (by decide) (fun running => .serveLineControl (turns id) running)
  | lineStatus tag body => exact Host.Outcome.next.inj h ▸ .command link (fun _ => .serveLineStatus body)
  | enrollNode tag body => exact Host.Outcome.next.inj h ▸ .command link (fun _ => .serveEnrollNode body)
  | withdrawNode tag body => exact Host.Outcome.next.inj h ▸ .command link (fun _ => .serveWithdrawNode body)
  | setNode tag body => exact Host.Outcome.next.inj h ▸ .command link (fun _ => .serveSetNode _)
  | setNodeDisable tag head => exact Host.Outcome.next.inj h ▸ .command link (fun _ => .serveSetNode _)
  | setNodeEnable tag head => exact Host.Outcome.next.inj h ▸ .command link (fun _ => .serveSetNode _)
  | nodeStatus tag body => exact Host.Outcome.next.inj h ▸ .command link (fun _ => .serveNodeStatus body)
  | reloadNode tag body => exact Host.Outcome.next.inj h ▸ .command link (fun _ => .serveReloadNode body)
  | issueCard tag body => exact Host.Outcome.next.inj h ▸ .command link (fun _ => .serveIssueCard body)
  | confirmCard tag body =>
    exact Host.Outcome.next.inj h ▸ .command link (fun _ => .onCred (fun _ _ hc => .serveConfirm (cards rfl) hc))
  | cancelIssue tag body => exact Host.Outcome.next.inj h ▸ .command link (fun _ => .onCred (fun _ _ hc => .serveCancel hc))
  | suspendCard tag body =>
    exact Host.Outcome.next.inj h ▸ .command link (fun _ => .onCred (fun _ _ hc => .serveSuspend (cards rfl) hc))
  | resumeCard tag body =>
    exact Host.Outcome.next.inj h ▸ .command link (fun _ => .onCred (fun _ _ hc => .serveResume (cards rfl) hc))
  | revokeCard tag body =>
    exact Host.Outcome.next.inj h ▸ .command link (fun _ => .onCred (fun _ c _ => .serveRevoke c (cards rfl)))
  | revokeSerial tag body => exact Host.Outcome.next.inj h ▸ .command link (fun _ => .serveRevokeSerial body (cards rfl))
  | cardStatus tag body => exact Host.Outcome.next.inj h ▸ .command link (fun _ => .serveCardStatus body)
  | purgeRetired tag body => exact Host.Outcome.next.inj h ▸ .command link (fun _ => .servePurge body)
  | rekeyRoom tag body => exact Host.Outcome.next.inj h ▸ .command link (fun _ => .onRoom (fun room _ => .serveRekey room))
  | checkout tag body => exact Host.Outcome.next.inj h ▸ .command link (fun _ => .onRoom (fun _ hr => .serveCheckout hr))
  | resequence tag body => exact Host.Outcome.next.inj h ▸ .command link (fun _ => .onRoom (fun room _ => .serveResequence room))
  | openPoint tag body =>
    exact Host.Outcome.next.inj h ▸ .command_running link (by decide) (fun running => .serveOpenPoint running)
  | setCompartment tag body => exact Host.Outcome.next.inj h ▸ .command link (fun _ => .serveSetCompartment body)
  | setCeiling tag body => exact Host.Outcome.next.inj h ▸ .command link (fun _ => .onFolio (fun x _ => .serveSetCeiling _ x))
  | settle tag body => exact Host.Outcome.next.inj h ▸ .command link (fun _ => .serveSettleBody body)
  | folioStatus tag body => exact Host.Outcome.next.inj h ▸ .command link (fun _ => .onFolio (fun _ _ => .refl s))
  | readJournal tag body => exact Host.Outcome.next.inj h ▸ .command link (fun _ => .serveReadJournal body)
  | ackJournal tag body => exact Host.Outcome.next.inj h ▸ .command link (fun _ => .serveAckJournal body)
  | unknownCommand kind tag body =>
    obtain rfl := Host.Outcome.next.inj h
    refine .ite (fun _ => .refl s) (fun _ => .ite (fun _ => .overlap link _ _) (fun idle => .answer link ?_ _ _ _ _))
    exact Option.not_isSome_iff_eq_none.mp idle
  | linkRejectCrc bytes =>
    obtain rfl := Host.Outcome.next.inj h
    refine .ite (fun _ => .refl s) (fun _ => ?_)
    split
    · exact (Evolves.setRx link _).trans (.rejection link _ _)
    · exact .setRx link _
    · exact .refl s
  | linkRejectOversize bytes =>
    obtain rfl := Host.Outcome.next.inj h
    refine .ite (fun _ => .refl s) (fun _ => ?_)
    split
    · exact (Evolves.setRx link _).trans (.rejection link _ _)
    · exact .setRx link _
    · exact .refl s
  | linkRejectTimeout bytes =>
    obtain rfl := Host.Outcome.next.inj h
    refine .ite (fun _ => .refl s) (fun _ => ?_)
    split
    · exact (Evolves.setRx link _).trans (.rxTimeout link)
    · exact .refl s
  | linkRejectOverlap kind tag =>
    exact Host.Outcome.next.inj h ▸ .ite (fun _ => .refl s) (fun _ => .overlap link _ _)
  | frameSent => exact .frameSent link h
  | supplyLoss =>
    obtain rfl := Host.Outcome.next.inj h
    exact .halt link (by simp) rfl rfl rfl rfl rfl rfl id ⟨rfl, rfl, rfl⟩
  | supplyRestore =>
    obtain rfl := Host.Outcome.next.inj h
    split
    · exact .ite (fun _ => (Edit.other _).evolves) (fun _ => .restore link (by simp [*]))
    · exact .refl s
  | cellLow =>
    obtain rfl := Host.Outcome.next.inj h
    split <;> exact (Edit.other _).evolves
  | cellOk => exact Host.Outcome.next.inj h ▸ (Edit.other _).evolves
  | resetPinLow =>
    obtain rfl := Host.Outcome.next.inj h
    split
    · exact (Edit.other _).evolves
    · exact (Edit.other _).evolves
    · exact .halt link (by simp) rfl rfl rfl rfl rfl rfl id ⟨rfl, rfl, rfl⟩
  | resetPinRelease =>
    obtain rfl := Host.Outcome.next.inj h
    have released : Evolves a s { s with supply := { s.supply with pinLow := false } } := (Edit.other _).evolves
    refine released.trans ?_
    split
    · exact .restartEffect link _ _
    · exact .ite (fun _ => .restore link (by simp [*])) (fun _ => .refl _)
    · exact .refl _
  | loadComplete bank1 bank2 =>
    obtain rfl := Host.Outcome.next.inj h
    split
    · exact (Evolves.chose s).trans (.loadComplete (starts trivial) (by simp [State.chose, *]))
    · exact .refl s
  | storeComplete readBack =>
    obtain rfl := Host.Outcome.next.inj h
    split
    · exact .refl s
    · exact .ite (fun _ => (Edit.other _).evolves) (fun _ => (Edit.other _).evolves)
  | secondEvent => exact Host.Outcome.next.inj h ▸ .secondEvent link
  | encodingLapse cred =>
    refine Host.Outcome.next.inj h ▸ .secondPart link (fun u due => .returnEncoding _ _ (fun _ c hc => ?_))
    rw [hc] at due
    exact Cred.lapsed_isEncoding due
  | chargeDeadline node comp =>
    refine Host.Outcome.next.inj h ▸ .secondPart link (fun u _ => ?_)
    split
    · exact .commitThrough ‹_›
    · exact .refl u
  | minuteSweep => exact Host.Outcome.next.inj h ▸ .secondPart link (fun _ _ => .minuteSweep)
  | roundStart =>
    obtain rfl := Host.Outcome.next.inj h
    split
    · exact .roundStart link (turns id) ‹_›
    · exact .refl s
  | trainingEnd line => exact Host.Outcome.next.inj h ▸ .roundPart link (fun _ r => .trainingEnd _ (turns id) r)
  | tallyPeriodEnd => exact Host.Outcome.next.inj h ▸ .roundPart link (fun _ r => .tallyEnd (turns id) r)
  | decisionAgeOut node number => exact Host.Outcome.next.inj h ▸ .roundPart link (fun _ _ => .removeUrgent _)
  | stallRewind node =>
    exact Host.Outcome.next.inj h ▸ .roundPart link (fun u _ => .modNode_inert _ _ u.stallStep_inert)
  | reloadWaitExpiry node => exact Host.Outcome.next.inj h ▸ .roundPart link (fun _ _ => .modNode_inert _ _ Node.waitStep_inert)
  | spanFailed node => exact Host.Outcome.next.inj h ▸ .roundPart link (fun _ _ => .setClock _ (fun _ => Clock.failSpan_inRange))
  | windowClose node copyA copyB first => exact .windowClose h
  | invitationClose copyA copyB => exact .invitationClose h

/-- All that a step may do. -/
def Rights.all : Rights := ⟨True, True, True, True⟩

theorem State.withPending_evolves (a : Rights) (s : State) (q : List Instr) : Evolves a s (s.withPending q) := (Edit.other _).evolves

theorem step_evolves {s t : State} (h : step s = .next t) : Evolves .all s t := by
  unfold step at h
  split at h
  · exact Host.Outcome.next.inj h ▸ .tickOnce trivial trivial
  · exact (s.withPending_evolves _ _).trans
      (exec_evolves trivial (fun _ => trivial) (fun _ => trivial) (fun _ => trivial) h)

end Sys2Proof.Machine

/-! Each law kept by every edit, and so by every step: O5, O6, O8, O10 to O13. -/

namespace Sys2Proof.Machine

open Sys2Proof

section Keeping
variable {a : Rights} {s t : State}

/-! ### The journal (09:R170) -/

theorem Edit.keeps_journal (h : Edit a s t) (law : s.journal.Law) : t.journal.Law := by
  cases h with
  | other _ _ _ _ _ _ _ _ _ _ journal => rw [journal]; exact law
  | record j p numbered => exact numbered law
  | lineState l => cases l <;> exact law
  | startLine l => cases l <;> exact law
  | create r v => simp only [State.createNode]; split <;> exact law
  | halt t _ _ _ _ _ _ _ _ _ _ numbered => exact numbered law
  | cold t _ _ _ _ _ _ _ _ journal => rw [journal]; exact ⟨by decide, by decide, by decide, by simp [Journal.cold, numbered, sub32]⟩
  | _ => exact law

/-! ### The slots (04:R63) -/

/-- Every slot VACANT and on the free list, for as many slots as there are. -/
theorem Store.vacant_law {slots : Nat} (h : slots = 768) : (⟨[], List.range slots, []⟩ : Store).Law where
  ascending := .nil
  inRange := by simp
  freeOnce := List.nodup_range
  freeInRange := by simp; omega
  vacant := by simp; omega
  retiredOnce := .nil
  retired := by simp
  sorted := .nil

theorem Store.initial_law : Store.initial.Law := Store.vacant_law rfl

theorem Edit.keeps_store (h : Edit a s t) (law : s.store.Law) : t.store.Law := by
  cases h with
  | other _ _ _ _ _ store => rw [store]; exact law
  | lineState l => cases l <;> exact law
  | startLine l => cases l <;> exact law
  | store st kept => exact kept law
  | create r v => simp only [State.createNode]; split <;> exact law
  | halt t _ _ _ _ _ store => rw [store]; exact law
  | cold t _ _ _ _ _ store => rw [store]; exact Store.initial_law
  | _ => exact law

/-! ### The rooms (05:R87) -/

theorem Revoc.RoomLaw.congr {v w : Revoc} (law : v.RoomLaw) (rooms : w.rooms = v.rooms) : w.RoomLaw :=
  ⟨rooms ▸ law.ascending, rooms ▸ law.floor, rooms ▸ law.history⟩

theorem Revoc.initial_roomLaw : Revoc.initial.RoomLaw := ⟨.nil, by simp [Revoc.initial], by simp [Revoc.initial]⟩

theorem Edit.keeps_rooms (h : Edit a s t) (law : s.revoc.RoomLaw) : t.revoc.RoomLaw := by
  cases h with
  | other _ _ _ _ _ _ rooms => exact law.congr rooms
  | lineState l => cases l <;> exact law
  | startLine l => cases l <;> exact law
  | listing es cs => exact law.congr rfl
  | rooms rs kept => exact kept law
  | create r v =>
    simp only [State.createNode]
    split
    · refine ⟨putKey_ascending _ law.ascending, fun x hx => ?_, fun x hx => ?_⟩
      · rcases mem_putKey_of Room.point hx with rfl | hx
        · exact .inr rfl
        · exact law.floor x hx
      · rcases mem_putKey_of Room.point hx with rfl | hx
        · exact ⟨by simp [Room.initial], by simp [Room.initial]⟩
        · exact law.history x hx
    · exact law
  | halt t _ _ _ _ _ _ rooms => exact law.congr rooms
  | cold t _ _ _ _ _ _ revoc => rw [revoc]; exact Revoc.initial_roomLaw
  | _ => exact law

/-! ### The port (10:R183, R187) -/

theorem PortIdle.law {p : Port} (h : PortIdle p) : p.Law := by
  obtain ⟨service, sending, waiting⟩ := h
  exact ⟨fun _ => waiting, by simp [Port.frames, service, sending, waiting]⟩

theorem Edit.keeps_port (h : Edit a s t) (law : s.port.Law) : t.port.Law := by
  cases h with
  | other _ _ _ _ _ _ _ _ _ _ _ port => rw [port]; exact law
  | record j p _ noticed => exact noticed.law law
  | link p _ kept => exact kept law
  | lineState l => cases l <;> exact law
  | startLine l => cases l <;> exact law
  | create r v => simp only [State.createNode]; split <;> exact law
  | halt t _ _ _ _ _ _ _ _ _ _ _ idle => exact idle.law
  | cold t _ _ _ _ _ _ _ _ _ idle => exact idle.law
  | _ => exact law

/-! ### The clocks (03:R55, R57) -/

theorem Clock.initial_inRange : Clock.initial.InRange := ⟨by decide, by decide, by decide, by decide, by decide⟩

theorem Edit.keeps_clocks (h : Edit a s t) (law : s.ClockLaw) : t.ClockLaw := by
  cases h with
  | other _ _ _ _ nodes => unfold State.ClockLaw; rw [nodes]; exact law
  | nodes f _ clock =>
    intro n hn
    obtain ⟨m, hm, rfl⟩ := List.mem_map.mp hn
    exact clock law m hm
  | lineState l => cases l <;> exact law
  | startLine l => cases l <;> exact law
  | create r v =>
    intro n hn
    rw [State.createNode_nodes] at hn
    rcases mem_putKey_of Node.addr hn with rfl | hn
    · exact Clock.initial_inRange
    · exact law n hn
  | forget k => exact fun n hn => law n ((mem_dropKey _).mp hn).1
  | halt t _ _ _ _ nodes =>
    intro n hn
    rw [nodes] at hn
    obtain ⟨m, hm, rfl⟩ := List.mem_map.mp hn
    exact Clock.discardSpan_inRange (law m hm)
  | cold t _ _ _ _ nodes => intro n hn; rw [nodes] at hn; cases hn
  | _ => exact law

/-! ### The capacities -/

theorem EnrolReq.fieldsOk_addr {r : EnrolReq} (h : r.fieldsOk = true) : 1 ≤ r.addr ∧ r.addr ≤ 96 := by
  simp only [EnrolReq.fieldsOk, Bool.and_eq_true] at h
  simpa [addressOk] using h.1.1.1.1

/-- A MINIBAR node has 1 to 8 compartments, another none. -/
theorem EnrolReq.fieldsOk_comps {r : EnrolReq} (h : r.fieldsOk = true) : r.enrol.comps.getD 0 ≤ 8 := by
  simp only [EnrolReq.fieldsOk, Bool.and_eq_true] at h
  have comps := h.1.2
  split at comps <;> simp_all

/-- Outside RUNNING, with every queue and round empty. -/
theorem State.Capacities.stopped {s t : State} (law : s.Capacities) (nodes : ∃ f : Node → Node, t.nodes = s.nodes.map f ∧
      ∀ n, (f n).addr = n.addr ∧ (f n).comps = n.comps ∧ (f n).memory = [])
    (lines : t.lines = LineEngine.initial) (entries : t.revoc.entries = s.revoc.entries)
    (changes : t.revoc.changes = s.revoc.changes) (minibar : t.minibar = s.minibar) (waiting : t.port.waiting = [])
    (staging : t.loader.staging = []) : t.Capacities := by
  obtain ⟨f, hf, kf⟩ := nodes
  have each : ∀ {P : Node → Prop}, (∀ n ∈ s.nodes, P (f n)) → ∀ n ∈ t.nodes, P n := fun h n hn => by
    rw [hf] at hn
    obtain ⟨m, hm, rfl⟩ := List.mem_map.mp hn
    exact h m hm
  exact
    { ascending := by rw [hf, List.pairwise_map]; simpa [(kf _).1] using law.ascending
      addresses := each (fun n hn => by rw [(kf n).1]; exact law.addresses n hn)
      compartments := each (fun n hn => by rw [(kf n).2.1]; exact law.compartments n hn)
      urgent := by rw [lines]; exact Nat.zero_le _
      repeats := by rw [lines]; exact Nat.zero_le _
      segment := by rw [lines]; simp [LineEngine.initial]
      list := entries ▸ law.list
      changes := changes ▸ law.changes
      pool := minibar ▸ law.pool
      memory := each (fun n _ => by rw [(kf n).2.2]; exact Nat.zero_le _)
      rejects := by rw [waiting]; exact Nat.zero_le _
      staging := by rw [staging]; exact Nat.zero_le _ }

theorem Edit.keeps_capacities (h : Edit a s t) (law : s.Capacities) : t.Capacities := by
  cases h with
  | other _ part staging lines nodes store rooms entries changes minibar journal port =>
    exact ⟨nodes ▸ law.ascending, nodes ▸ law.addresses, nodes ▸ law.compartments, lines ▸ law.urgent, lines ▸ law.repeats,
      lines ▸ law.segment, entries ▸ law.list, changes ▸ law.changes, minibar ▸ law.pool, nodes ▸ law.memory,
      port ▸ law.rejects, staging ▸ law.staging⟩
  | record j p _ noticed => exact { law with rejects := noticed.rejects law.rejects }
  | link p _ _ rejects => exact { law with rejects := rejects law.rejects }
  | nodes f kept =>
    have kept := kept law.ascending
    have each : ∀ {P : Node → Prop}, (∀ n ∈ s.nodes, P (f n)) → ∀ n ∈ s.nodes.map f, P n := fun h n hn => by
      obtain ⟨m, hm, rfl⟩ := List.mem_map.mp hn
      exact h m hm
    exact { law with
      ascending := List.pairwise_map.mpr (law.ascending.imp_of_mem (fun hm hn lt => by
        rw [(kept _ hm).addr, (kept _ hn).addr]; exact lt))
      addresses := each (fun n hn => by rw [(kept n hn).addr]; exact law.addresses n hn)
      compartments := each (fun n hn => by rw [(kept n hn).comps]; exact law.compartments n hn)
      memory := each (fun n hn => (kept n hn).memory (law.memory n hn)) }
  | lines l kept =>
    refine { law with urgent := kept.urgent law.urgent, repeats := kept.repeats law.repeats, segment := fun r hr => ?_ }
    rcases kept.round r hr with ⟨q, hq, same, -⟩ | ⟨-, slots, -⟩
    · rw [same]; exact law.segment q hq
    · exact slots
  | lineState l => cases l <;> exact { law with }
  | startLine l => cases l <;> exact { law with }
  | enterRunning => exact { law with }
  | store st => exact { law with }
  | listing es cs few held => exact { law with list := few law.list, changes := held law.changes }
  | rooms rs => exact { law with }
  | minibar m _ pool => exact { law with pool := pool law.pool }
  | create r v free ok =>
    have each : ∀ {P : Node → Prop}, P (Node.fresh r s.revoc.gen) → (∀ n ∈ s.nodes, P n) → ∀ n ∈ (s.createNode r v).nodes, P n :=
      fun new old n hn => by
        rw [State.createNode_nodes] at hn
        rcases mem_putKey_of Node.addr hn with rfl | hn
        · exact new
        · exact old n hn
    have asc : (s.createNode r v).nodes.Pairwise (fun m n => m.addr < n.addr) := by
      rw [State.createNode_nodes]
      exact putKey_ascending _ law.ascending
    have addresses := each (P := fun n => 1 ≤ n.addr ∧ n.addr ≤ 96) (EnrolReq.fieldsOk_addr ok) law.addresses
    have compartments := each (P := fun n => n.comps.length ≤ 8)
      (by simpa [Node.fresh] using EnrolReq.fieldsOk_comps ok) law.compartments
    have memory := each (P := fun n => n.memory.length ≤ 2) (Nat.zero_le _) law.memory
    revert asc addresses compartments memory
    simp only [State.createNode]
    split <;> exact fun asc addresses compartments memory => { law with ascending := asc, addresses, compartments, memory }
  | forget k =>
    exact { law with
      ascending := dropKey_ascending _ _ law.ascending
      addresses := fun n hn => law.addresses n ((mem_dropKey _).mp hn).1
      compartments := fun n hn => law.compartments n ((mem_dropKey _).mp hn).1
      memory := fun n hn => law.memory n ((mem_dropKey _).mp hn).1 }
  | staging img few => exact { law with staging := few }
  | halt t _ _ staging lines nodes _ _ entries changes minibar _ idle =>
    exact law.stopped ⟨_, nodes, fun n => ⟨rfl, rfl, rfl⟩⟩ lines entries changes minibar idle.2.2 staging
  | cold t _ _ staging lines nodes _ revoc minibar _ idle =>
    have empty : (∀ P : Node → Prop, ∀ n ∈ t.nodes, P n) := fun P n hn => by rw [nodes] at hn; cases hn
    exact ⟨by rw [nodes]; exact .nil, empty _, empty _, by rw [lines]; exact Nat.zero_le _, by rw [lines]; exact Nat.zero_le _,
      by rw [lines]; simp [LineEngine.initial], by rw [revoc]; exact Nat.zero_le _, by rw [revoc]; exact Nat.zero_le _,
      by rw [minibar]; exact Nat.zero_le _, empty _, by rw [idle.2.2]; exact Nat.zero_le _, by rw [staging]; exact Nat.zero_le _⟩
  | part p => exact { law with }

/-! ### The folios (08:R145 to R159) -/

/-- Node records changed in place, each keeping what the law of the folios reads of it. -/
theorem State.FolioLaw.of_nodes {s t : State} (law : s.FolioLaw) (f : Node → Node) (nodes : t.nodes = s.nodes.map f)
    (minibar : t.minibar = s.minibar) (addr : ∀ n ∈ s.nodes, (f n).addr = n.addr) (copy : ∀ n ∈ s.nodes, (f n).copy = n.copy)
    (enrol : ∀ n ∈ s.nodes, (f n).enrol.copy = n.enrol.copy)
    (session : ∀ n ∈ s.nodes, ∀ x, (f n).session = some x → x.mode = .guest →
      n.session = some x ∨ ∃ g ∈ s.minibar.folios, x.folio = some g.point ∧ g.isOpen = true) : t.FolioLaw where
  nodesAscending := by
    rw [nodes, List.pairwise_map]
    exact law.nodesAscending.imp_of_mem (fun hm hn lt => by rw [addr _ hm, addr _ hn]; exact lt)
  foliosAscending := minibar ▸ law.foliosAscending
  copies := fun n hn => by
    rw [nodes] at hn
    obtain ⟨m, hm, rfl⟩ := List.mem_map.mp hn
    rw [copy m hm, law.copies m hm, enrol m hm]
  owners := fun g hg => by
    obtain ⟨n, hn, cls, point⟩ := law.owners g (minibar ▸ hg)
    have same := enrol n hn
    exact ⟨f n, nodes ▸ List.mem_map_of_mem hn, (congrArg EnrolCopy.cls same).trans cls, (congrArg EnrolCopy.point same).trans point⟩
  total := by simp only [State.linesOf, minibar]; exact law.total
  balance := minibar ▸ law.balance
  lines := minibar ▸ law.lines
  once := minibar ▸ law.once
  sessions := fun n hn x hx guest => by
    rw [nodes] at hn
    obtain ⟨m, hm, rfl⟩ := List.mem_map.mp hn
    rw [minibar]
    rcases session m hm x hx guest with held | new
    · exact law.sessions m hm x held guest
    · exact new

theorem State.FolioLaw.create {s : State} (law : s.FolioLaw) {r : EnrolReq} (v : Nat) (free : s.node? r.addr = none)
    (point : ∀ n ∈ s.nodes, n.enrol.point ≠ r.enrol.point) : (s.createNode r v).FolioLaw := by
  obtain ⟨asc, mem⟩ := putKey_sorted Node.addr (Node.fresh r s.revoc.gen) s.nodes law.nodesAscending ((findKey_none Node.addr).mp free)
  have unowned : ∀ f ∈ s.minibar.folios, f.point ≠ r.enrol.point := fun f hf e => by
    obtain ⟨n, hn, -, hp⟩ := law.owners f hf
    exact point n hn (hp.trans e)
  have copies : ∀ n ∈ (s.createNode r v).nodes, n.copy = n.enrol.copy := fun n hn => by
    rw [State.createNode_nodes, mem] at hn
    rcases hn with rfl | hn
    · rfl
    · exact law.copies n hn
  have session : ∀ n ∈ (s.createNode r v).nodes, ∀ x, n.session = some x → n ∈ s.nodes := fun n hn x hx => by
    rw [State.createNode_nodes, mem] at hn
    rcases hn with rfl | hn
    · cases hx
    · exact hn
  by_cases room : r.enrol.cls = .roomEntry
  · obtain ⟨fasc, fmem⟩ := putKey_sorted Folio.point (Folio.initial r.enrol.point s.settings.defaultCeiling) s.minibar.folios
      law.foliosAscending unowned
    have folios : (s.createNode r v).minibar =
        { s.minibar with folios := putKey Folio.point (Folio.initial r.enrol.point s.settings.defaultCeiling) s.minibar.folios } := by
      simp [State.createNode, room]
    refine ⟨by rw [State.createNode_nodes]; exact asc, by rw [folios]; exact fasc, copies, fun f hf => ?_, fun f hf => ?_,
      fun f hf => ?_, fun l hl => ?_, by rw [folios]; exact law.once, fun n hn x hx guest => ?_⟩
    · rw [folios, fmem] at hf
      rcases hf with rfl | hf
      · exact ⟨Node.fresh r s.revoc.gen, by rw [State.createNode_nodes, mem]; exact .inl rfl, room, rfl⟩
      · obtain ⟨n, hn, own⟩ := law.owners f hf
        exact ⟨n, by rw [State.createNode_nodes, mem]; exact .inr hn, own⟩
    · rw [folios, fmem] at hf
      simp only [State.linesOf, folios]
      rcases hf with rfl | hf
      · exact (pendingSum_none (fun l hl e => by
          obtain ⟨f, hf, hp, -⟩ := law.lines l hl
          exact unowned f hf (hp.trans e))).symm
      · exact law.total f hf
    · rw [folios, fmem] at hf
      rcases hf with rfl | hf
      · exact Nat.zero_le _
      · exact law.balance f hf
    · rw [folios] at hl ⊢
      obtain ⟨f, hf, own⟩ := law.lines l hl
      exact ⟨f, (fmem f).mpr (.inr hf), own⟩
    · obtain ⟨f, hf, own⟩ := law.sessions n (session n hn x hx) x hx guest
      exact ⟨f, by rw [folios]; exact (fmem f).mpr (.inr hf), own⟩
  · have same : (s.createNode r v).minibar = s.minibar := by simp [State.createNode, room]
    refine ⟨by rw [State.createNode_nodes]; exact asc, same ▸ law.foliosAscending, copies, fun f hf => ?_,
      by simp only [State.linesOf, same]; exact law.total, same ▸ law.balance, same ▸ law.lines, same ▸ law.once,
      fun n hn x hx guest => ?_⟩
    · obtain ⟨n, hn, own⟩ := law.owners f (same ▸ hf)
      exact ⟨n, by rw [State.createNode_nodes, mem]; exact .inr hn, own⟩
    · rw [same]
      exact law.sessions n (session n hn x hx) x hx guest

theorem State.FolioLaw.forget {s : State} (law : s.FolioLaw) (k : Nat)
    (owns : ∀ n ∈ s.nodes, n.addr = k → n.enrol.cls = .roomEntry → ∀ f ∈ s.minibar.folios, f.point ≠ n.enrol.point) :
    (s.forgetNode k).FolioLaw :=
  { law with
    nodesAscending := dropKey_ascending _ _ law.nodesAscending
    copies := fun n hn => law.copies n ((mem_dropKey _).mp hn).1
    owners := fun f hf => by
      obtain ⟨n, hn, cls, point⟩ := law.owners f hf
      exact ⟨n, (mem_dropKey _).mpr ⟨hn, fun e => owns n hn e cls f hf point.symm⟩, cls, point⟩
    sessions := fun n hn => law.sessions n ((mem_dropKey _).mp hn).1 }

theorem Edit.keeps_folios (h : Edit a s t) (law : s.FolioLaw) : t.FolioLaw := by
  cases h with
  | other _ _ _ _ nodes _ _ _ _ minibar => exact law.congr nodes minibar
  | nodes f kept =>
    have kept := kept law.nodesAscending
    exact law.of_nodes f rfl rfl (fun n hn => (kept n hn).addr) (fun n hn => (kept n hn).copy)
      (fun n hn => (kept n hn).enrol (law.copies n hn)) (fun n hn => (kept n hn).session)
  | lineState l => cases l <;> exact law.congr rfl rfl
  | startLine l => cases l <;> exact law.congr rfl rfl
  | minibar m kept => exact kept law
  | create r v free _ point => exact law.create v free (point law)
  | forget k owns => exact law.forget k (owns law)
  | halt t _ _ _ _ nodes _ _ _ _ minibar =>
    exact law.of_nodes Node.volatileLost nodes minibar (fun _ _ => rfl) (fun _ _ => rfl) (fun n hn => law.copies n hn)
      (fun _ _ _ hx _ => .inl hx)
  | cold t _ _ _ _ nodes _ _ minibar =>
    have none : ∀ n, n ∉ t.nodes := by simp [nodes]
    have bare : ∀ f, f ∉ t.minibar.folios := by simp [minibar]
    exact ⟨by rw [nodes]; exact .nil, by rw [minibar]; exact .nil, fun n hn => absurd hn (none n), fun f hf => absurd hf (bare f),
      fun f hf => absurd hf (bare f), fun f hf => absurd hf (bare f), by simp [minibar], by rw [minibar]; exact .nil,
      fun n hn => absurd hn (none n)⟩
  | _ => exact law.congr rfl rfl

end Keeping

/-! ### Settled -/

/-- Settles O5: the edits of `step_evolves`, each of which keeps the numbering. -/
theorem everyStepKeepsTheJournalNumbered : Obligations.EveryStepKeepsTheJournalNumbered :=
  fun _ _ law h => (step_evolves h).keeps (P := fun s => s.journal.Law) (fun _ _ e => e.keeps_journal) law

/-- Settles O6: no edit leads beyond a capacity. -/
theorem everyStepKeepsTheCapacities : Obligations.EveryStepKeepsTheCapacities :=
  fun _ _ law h => (step_evolves h).keeps (fun _ _ e => e.keeps_capacities) law

/-- Settles O8: no edit of the store breaks the partition of the slots. -/
theorem everyStepKeepsTheSlotPartition : Obligations.EveryStepKeepsTheSlotPartition :=
  fun _ _ law h => (step_evolves h).keeps (P := fun s => s.store.Law) (fun _ _ e => e.keeps_store) law

/-- Settles O10: every edit of a node record keeps its clock in range. -/
theorem everyStepKeepsClocksInRange : Obligations.EveryStepKeepsClocksInRange :=
  fun _ _ law h => (step_evolves h).keeps (fun _ _ e => e.keeps_clocks) law

/-- Settles O11: every edit of a room record keeps its floor beside its stay. -/
theorem everyStepKeepsFloorsBesideStays : Obligations.EveryStepKeepsFloorsBesideStays :=
  fun _ _ law h => (step_evolves h).keeps (P := fun s => s.revoc.RoomLaw) (fun _ _ e => e.keeps_rooms) law

/-- Settles O12: every edit of nodes, folios and lines keeps the law of the folios. -/
theorem everyStepKeepsFoliosBalanced : Obligations.EveryStepKeepsFoliosBalanced :=
  fun _ _ law h => (step_evolves h).keeps (fun _ _ e => e.keeps_folios) law

/-- Settles O13: every edit of the port keeps its law. -/
theorem everyStepKeepsOneReplyWaiting : Obligations.EveryStepKeepsOneReplyWaiting :=
  fun _ _ law h => (step_evolves h).keeps (P := fun s => s.port.Law) (fun _ _ e => e.keeps_port) law

end Sys2Proof.Machine

/-! The service law kept by every step: by every edit of a row that starts nothing, and by the work of a start as a whole:
O7. -/

namespace Sys2Proof.Machine

open Sys2Proof

section Keeping
variable {a : Rights} {s t : State}

/-! ### Edits that start nothing -/

/-- The service law reads the part state, the lines and the nodes. -/
theorem State.ServiceLaw.congr (law : s.ServiceLaw) (part : t.part = s.part) (lines : t.lines = s.lines)
    (nodes : t.nodes = s.nodes) : t.ServiceLaw :=
  ⟨nodes ▸ law.ascending, by rw [part, lines]; exact law.runs, by rw [part, lines]; exact law.stopped,
    by rw [State.service_congr lines, nodes]; exact law.silent, lines ▸ law.windows⟩

/-- Addresses rise on, where records are changed in place. -/
theorem ascending_map {f : Node → Node} {ns : List Node} (asc : ns.Pairwise (fun m n => m.addr < n.addr))
    (addr : ∀ n ∈ ns, (f n).addr = n.addr) : (ns.map f).Pairwise (fun m n => m.addr < n.addr) := by
  rw [List.pairwise_map]
  exact asc.imp_of_mem (fun hm hn lt => by rw [addr _ hm, addr _ hn]; exact lt)

/-- Where no node answers and no line serves, none answers after an edit of the nodes. -/
theorem NodeKept.silent {f : Node → Node} (kept : ∀ n ∈ s.nodes, NodeKept s n (f n)) (out : s.service = false)
    (silent : ∀ n ∈ s.nodes, n.st.answering = false) : ∀ n ∈ s.nodes.map f, n.st.answering = false := by
  intro n hn
  obtain ⟨m, hm, rfl⟩ := List.mem_map.mp hn
  refine Bool.eq_false_iff.mpr (fun h => ?_)
  rcases (kept m hm).answering h with serves | ⟨k, hk, answers⟩
  · rw [out] at serves; cases serves
  · rw [silent k hk] at answers; cases answers

theorem LinesKept.service {l : LineEngine} (kept : LinesKept s l) : ({ s with lines := l } : State).service = s.service := by
  simp only [State.service, kept.lineA, kept.lineB]

/-- The windows of the round stand in ascending address after an edit of the lines. -/
theorem LinesKept.windows {l : LineEngine} (kept : LinesKept s l) (asc : s.nodes.Pairwise (fun m n => m.addr < n.addr))
    (windows : ∀ r, s.lines.round = some r → r.windows.Pairwise (fun v w => v.addr < w.addr)) :
    ∀ r, l.round = some r → r.windows.Pairwise (fun v w => v.addr < w.addr) := by
  intro r hr
  rcases kept.round r hr with ⟨q, hq, -, sub⟩ | ⟨-, -, rising⟩
  · have := windows q hq
    rw [← List.pairwise_map (f := Window.addr) (R := (· < ·))] at this ⊢
    exact this.sublist sub
  · exact rising asc

/-- With every line OFF, nothing running and no node answering. -/
theorem State.ServiceLaw.of_stopped (out : t.part ≠ .running) (lines : t.lines = LineEngine.initial)
    (asc : t.nodes.Pairwise (fun m n => m.addr < n.addr)) (silent : ∀ n ∈ t.nodes, n.st.answering = false) : t.ServiceLaw :=
  ⟨asc, fun h => absurd h out, fun _ => by rw [lines]; exact ⟨rfl, rfl, rfl, rfl, rfl⟩, fun _ => silent, by
    rw [lines]; intro r hr; cases hr⟩

theorem Edit.keeps_service (no : ¬ a.starts) (h : Edit a s t) (law : s.ServiceLaw) : t.ServiceLaw := by
  cases h with
  | other _ part _ lines nodes => exact law.congr part lines nodes
  | nodes f kept =>
    have kept := kept law.ascending
    exact
      { ascending := ascending_map law.ascending (fun n hn => (kept n hn).addr)
        runs := law.runs, stopped := law.stopped
        silent := fun out => NodeKept.silent kept out (law.silent out)
        windows := law.windows }
  | lines l kept =>
    refine ⟨law.ascending, fun on => ?_, fun out => ?_, fun out => law.silent (kept.service.symm.trans out),
      kept.windows law.ascending law.windows⟩
    · dsimp only
      rw [kept.lineA, kept.lineB]
      exact law.runs on
    · obtain ⟨offA, offB, round, urgent, repeats⟩ := law.stopped out
      refine ⟨kept.lineA.trans offA, kept.lineB.trans offB, ?_, kept.noUrgent out urgent, kept.noRepeats out repeats⟩
      refine Option.eq_none_iff_forall_not_mem.mpr (fun r hr => ?_)
      rcases kept.round r hr with ⟨q, hq, -⟩ | ⟨on, -⟩
      · rw [round] at hq; cases hq
      · exact out on
  | lineState l st _ on running silent =>
    have := law.runs running
    have part : (s.modLine l (fun x => { x with st := st })).part = .running := by simpa using running
    refine ⟨by simpa using law.ascending, fun _ => ?_, fun out => absurd part out, fun out => ?_, ?_⟩
    · cases l
      · exact ⟨on, this.2⟩
      · exact ⟨this.1, on⟩
    · simpa using silent law.ascending law.silent out
    · cases l <;> exact law.windows
  | startLine l right => exact absurd right no
  | enterRunning right => exact absurd right no
  | create r v free =>
    have part : (s.createNode r v).part = s.part := by simp
    have lines : (s.createNode r v).lines = s.lines := by simp
    refine ⟨?_, by rw [part, lines]; exact law.runs, by rw [part, lines]; exact law.stopped, fun out => ?_, lines ▸ law.windows⟩
    · rw [State.createNode_nodes]
      exact putKey_ascending _ law.ascending
    · rw [State.service_congr lines] at out
      rw [State.createNode_nodes]
      intro n hn
      rcases mem_putKey_of Node.addr hn with rfl | hn
      · rfl
      · exact law.silent out n hn
  | forget k =>
    exact { law with
      ascending := dropKey_ascending _ _ law.ascending
      silent := fun out n hn => law.silent out n ((mem_dropKey _).mp hn).1 }
  | halt t _ out _ lines nodes =>
    refine .of_stopped out lines (nodes ▸ ascending_map law.ascending (fun _ _ => rfl)) (fun n hn => ?_)
    rw [nodes] at hn
    obtain ⟨m, -, rfl⟩ := List.mem_map.mp hn
    rfl
  | cold t _ out _ lines nodes => exact .of_stopped out lines (by rw [nodes]; exact .nil) (fun n hn => by rw [nodes] at hn; cases hn)
  | part p out still => exact { law with runs := fun h => absurd h still, stopped := fun _ => law.stopped out }
  | _ => exact law.congr rfl rfl rfl

/-! ### The work of a start -/

/-- What holds through the work of a start: no line serves and no node answers. -/
structure Starting (s : State) : Prop where
  ascending : s.nodes.Pairwise (fun m n => m.addr < n.addr)
  service : s.service = false
  silent : ∀ n ∈ s.nodes, n.st.answering = false
  windows : ∀ r, s.lines.round = some r → r.windows.Pairwise (fun v w => v.addr < w.addr)

theorem State.ServiceLaw.starting (law : s.ServiceLaw) (out : s.part ≠ .running) : Starting s := by
  obtain ⟨offA, offB, -⟩ := law.stopped out
  have service : s.service = false := by simp [State.service, offA, offB, LineState.inService]
  exact ⟨law.ascending, service, law.silent service, law.windows⟩

theorem Starting.congr (law : Starting s) (lines : t.lines = s.lines) (nodes : t.nodes = s.nodes) : Starting t :=
  ⟨nodes ▸ law.ascending, (State.service_congr lines).trans law.service, nodes ▸ law.silent, lines ▸ law.windows⟩

theorem Edit.keeps_starting (no : ¬ a.turns) (h : Edit a s t) (law : Starting s) : Starting t := by
  cases h with
  | other _ _ _ lines nodes => exact law.congr lines nodes
  | nodes f kept =>
    have kept := kept law.ascending
    exact ⟨ascending_map law.ascending (fun n hn => (kept n hn).addr), law.service, NodeKept.silent kept law.service law.silent,
      law.windows⟩
  | lines l kept => exact ⟨law.ascending, kept.service.trans law.service, law.silent, kept.windows law.ascending law.windows⟩
  | lineState l st right => exact absurd right no
  | startLine l =>
    have serves := law.service
    simp only [State.service, Bool.or_eq_false_iff] at serves
    cases l
    · exact ⟨law.ascending, (Bool.false_or _).trans serves.2, law.silent, law.windows⟩
    · exact ⟨law.ascending, (Bool.or_false _).trans serves.1, law.silent, law.windows⟩
  | create r v free =>
    have lines : (s.createNode r v).lines = s.lines := by simp
    refine ⟨?_, (State.service_congr lines).trans law.service, fun n hn => ?_, lines ▸ law.windows⟩
    · rw [State.createNode_nodes]
      exact putKey_ascending _ law.ascending
    · rw [State.createNode_nodes] at hn
      rcases mem_putKey_of Node.addr hn with rfl | hn
      · rfl
      · exact law.silent n hn
  | forget k =>
    exact { law with
      ascending := dropKey_ascending _ _ law.ascending
      silent := fun n hn => law.silent n ((mem_dropKey _).mp hn).1 }
  | halt t _ out _ lines nodes =>
    refine ⟨nodes ▸ ascending_map law.ascending (fun _ _ => rfl), by simp [State.service, lines, LineEngine.initial]; decide, fun n hn => ?_, ?_⟩
    · rw [nodes] at hn
      obtain ⟨m, -, rfl⟩ := List.mem_map.mp hn
      rfl
    · rw [lines]; intro r hr; cases hr
  | cold t _ out _ lines nodes =>
    refine ⟨by rw [nodes]; exact .nil, by simp [State.service, lines, LineEngine.initial]; decide, fun n hn => ?_, ?_⟩
    · rw [nodes] at hn; cases hn
    · rw [lines]; intro r hr; cases hr
  | _ => exact law.congr rfl rfl

theorem startOrder_perm (s : State) : s.startOrder.Perm startActors := arrangeAux_perm _ _ _

/-- A start leaves the part RUNNING with both lines TRAINING. -/
theorem State.reachRunning_lines {order : List StartActor} (perm : order.Perm startActors) (l : Loaded)
    (offA : s.lines.lineA.st = .off) (offB : s.lines.lineB.st = .off) :
    (s.reachRunning order l).part = .running ∧ (s.reachRunning order l).lines.lineA.st = .training ∧
      (s.reachRunning order l).lines.lineB.st = .training := by
  let t : State := { s with loader := { s.loader with settings := l.settings } }
  have perm' := (startSequence_perm order).trans perm
  have acted := State.startActs (es := l.enrolments) (lost := t.lostRooms l.enrolments) t offA offB _ perm'
  have all : ∀ x ∈ startActors, (startSequence order).contains x = true := fun x hx => by
    simpa using perm'.mem_iff.mpr hx
  have part := acted.part
  have lines := acted.lines
  rw [all .entry (by decide)] at part
  rw [all .lineA (by decide), all .lineB (by decide)] at lines
  exact ⟨part, (congrArg (fun x => x.lineA.st) lines).trans rfl, (congrArg (fun x => x.lineB.st) lines).trans rfl⟩

/-- The rights of a start. -/
def Rights.starting : Rights := ⟨False, False, True, False⟩

theorem State.ServiceLaw.reachRunning (law : s.ServiceLaw) (out : s.part ≠ .running) {l : Loaded} (d : Described l.enrolments)
    {order : List StartActor} (perm : order.Perm startActors) : (s.reachRunning order l).ServiceLaw := by
  obtain ⟨offA, offB, -⟩ := law.stopped out
  obtain ⟨part, trainA, trainB⟩ := State.reachRunning_lines perm l offA offB
  have after := (Evolves.reachRunning (a := .starting) d trivial order).keeps (fun _ _ e => e.keeps_starting id) (law.starting out)
  exact ⟨after.ascending, fun _ => by rw [trainA, trainB]; exact ⟨by simp, by simp⟩, fun h => absurd part h, fun _ => after.silent,
    after.windows⟩

/-! ### Every step -/

theorem State.rearmIf_rest (s : State) (ok : Bool) (ks : List NoticeKind) :
    s.rearmIf ok ks = { s with port := (s.rearmIf ok ks).port } := by
  have rest : ∀ (ks : List NoticeKind) (t : State), ks.foldl State.rearm t = { t with port := (ks.foldl State.rearm t).port } := by
    intro ks
    induction ks with
    | nil => exact fun _ => rfl
    | cons k ks ih => exact fun t => ih (t.rearm k)
  unfold State.rearmIf
  split
  · exact rest ks s
  · rfl

/-- What the port does beside the owning block leaves the service law. -/
theorem State.ServiceLaw.command (law : s.ServiceLaw) {kind tag : Byte} {len : Nat} {lenOk : Nat → Bool}
    {serve : State → State × Reply} {rearms : List NoticeKind} (served : (serve s).1.ServiceLaw) :
    (s.command kind tag len lenOk serve rearms).ServiceLaw := by
  unfold State.command
  split
  · exact law
  · split
    · exact law.congr rfl rfl rfl
    · split
      · exact law.congr rfl rfl rfl
      · split
        · exact law.congr rfl rfl rfl
        · have rest := State.rearmIf_rest (serve s).1 (serve s).2.status.success rearms
          have rearmed := served.congr (by rw [rest]) (by rw [rest]) (congrArg State.nodes rest :)
          exact rearmed.congr rfl rfl rfl

theorem State.ServiceLaw.serveLoadSettings (law : s.ServiceLaw) (out : s.part ≠ .running) (body : List Byte) :
    (serveLoadSettings body s).1.ServiceLaw := by
  unfold Machine.serveLoadSettings
  split
  · exact law
  · split
    · exact law
    · exact law.congr rfl rfl rfl
    · unfold State.takeImage
      split
      · exact absurd ‹_› out
      · refine State.ServiceLaw.reachRunning (s := (s.stage []).chose) (law.congr rfl rfl rfl) ?_ (.of_staged ‹_›) (startOrder_perm s)
        exact out

theorem State.ServiceLaw.loadComplete (law : s.ServiceLaw) (out : s.part ≠ .running) {order : List StartActor}
    (perm : order.Perm startActors) (bank1 bank2 : Option (List Byte)) : (s.loadComplete order bank1 bank2).ServiceLaw := by
  unfold State.loadComplete
  dsimp only
  split
  · refine State.ServiceLaw.reachRunning ?_ (by exact out) (.of_choice ‹_›) perm
    exact law.congr rfl rfl rfl
  · exact ⟨law.ascending, nofun, fun _ => law.stopped out, law.silent, law.windows⟩

/-- What a row may do that starts nothing. -/
def Rights.row : Rights := ⟨True, True, False, True⟩

theorem exec_keeps_service {i : Instr} (law : s.ServiceLaw) (h : exec i s = .next t) : t.ServiceLaw := by
  by_cases start : startsFrom s i
  · cases i with
    | loadComplete bank1 bank2 =>
      obtain rfl := Host.Outcome.next.inj h
      split
      · exact State.ServiceLaw.loadComplete (s := s.chose) (law.congr rfl rfl rfl) (by simp [State.chose, *]) (startOrder_perm s) _ _
      · exact law
    | loadSettings tag body => exact Host.Outcome.next.inj h ▸ law.command (law.serveLoadSettings start body)
    | _ => exact start.elim
  · exact (exec_evolves (a := .row) trivial (fun _ => trivial) (fun h => absurd h start) (fun _ => trivial) h).keeps
      (fun _ _ e => e.keeps_service id) law

end Keeping

/-- Settles O7: edits that start nothing keep the law, and a start leaves the lines TRAINING with no node answering. -/
theorem everyStepKeepsNodesAndLinesInService : Obligations.EveryStepKeepsNodesAndLinesInService := by
  unfold Obligations.EveryStepKeepsNodesAndLinesInService
  intro s t law h
  unfold step at h
  split at h
  · exact Host.Outcome.next.inj h ▸ (Evolves.tickOnce (a := .row) trivial trivial).keeps (fun _ _ e => e.keeps_service id) law
  · rename_i c rest _
    have law' : (s.withPending rest).ServiceLaw := law.congr rfl rfl rfl
    exact exec_keeps_service law' h

end Sys2Proof.Machine

/-! Serials held once: kept by every edit that deals no card, and by the five commands that deal one: O9. -/

namespace Sys2Proof.Machine

open Sys2Proof

/-- The slots partitioned and each serial current once; with the revocation list beside them where that is asked. -/
structure CardLaw (listed : Prop) (s : State) : Prop where
  slots : s.store.Law
  serials : s.store.SerialLaw
  list : listed → s.ListLaw

section Cards
variable {a : Rights} {b : Prop} {s t : State}

theorem CardLaw.congr (law : CardLaw b s) (store : t.store = s.store) (entries : t.revoc.entries = s.revoc.entries) : CardLaw b t :=
  ⟨store ▸ law.slots, store ▸ law.serials, fun h => ⟨entries ▸ (law.list h).once, by rw [store, entries]; exact (law.list h).current⟩⟩

/-! ### Edits that deal no card -/

theorem RecsFall.serials {rs : Store} {ts : Store} (falls : RecsFall rs.recs ts.recs) (law : rs.SerialLaw) : ts.SerialLaw := by
  intro c hc d hd curC curD same
  obtain ⟨x, hx, xn, xs, xc, -⟩ := falls c hc curC
  obtain ⟨y, hy, yn, ys, yc, -⟩ := falls d hd curD
  rw [← xn, ← yn]
  exact law x hx y hy xc yc (by rw [xs, ys, same])

/-- Usable cards are current. -/
theorem CredState.current_of_usable {x : CredState} (h : x = .issued ∨ x = .active) : x.current = true := by
  rcases h with rfl | rfl <;> rfl

theorem RecsFall.usable {rs ts : List Cred} (falls : RecsFall rs ts) {es : List ListEntry}
    (law : ∀ e ∈ es, ∀ c ∈ rs, c.st = .issued ∨ c.st = .active → c.serial ≠ e.serial) :
    ∀ e ∈ es, ∀ c ∈ ts, c.st = .issued ∨ c.st = .active → c.serial ≠ e.serial := by
  intro e he c hc use
  obtain ⟨x, hx, -, xs, -, xu⟩ := falls c hc (CredState.current_of_usable use)
  rw [← xs]
  exact law e he x hx (xu use)

theorem CardLaw.recs (law : CardLaw b s) {st : Store} (slots : st.Law) (falls : RecsFall s.store.recs st.recs) :
    CardLaw b { s with store := st } :=
  ⟨slots, RecsFall.serials falls law.serials, fun h => ⟨(law.list h).once, RecsFall.usable falls (law.list h).current⟩⟩

theorem CardLaw.entries (law : CardLaw b s) (store : t.store = s.store) (falls : EntriesFall s.revoc.entries t.revoc.entries) :
    CardLaw b t :=
  ⟨store ▸ law.slots, store ▸ law.serials, fun h => ⟨falls.1 (law.list h).once, fun f hf c hc use => by
    obtain ⟨e, he, same⟩ := falls.2 f hf
    rw [store] at hc
    rw [← same]
    exact (law.list h).current e he c hc use⟩⟩

theorem Edit.keeps_cards (no : ¬ a.cards) (e : Edit a s t) (law : CardLaw b s) : CardLaw b t := by
  cases e with
  | other _ _ _ _ _ store _ entries => exact law.congr store entries
  | lineState l => cases l <;> exact law.congr rfl rfl
  | startLine l => cases l <;> exact law.congr rfl rfl
  | store st kept falls => exact law.recs (kept law.slots) (falls.resolve_left no)
  | listing es cs _ _ falls => exact law.entries rfl (falls.resolve_left no)
  | create r v => exact law.congr (by simp) (by simp only [State.createNode]; split <;> rfl)
  | halt t _ _ _ _ _ store _ entries => exact law.congr store entries
  | cold t _ _ _ _ _ store revoc =>
    refine ⟨store ▸ Store.initial_law, fun c hc => ?_, fun _ => ⟨by rw [revoc]; exact .nil, fun e he => ?_⟩⟩
    · rw [store] at hc; cases hc
    · rw [revoc] at he; cases he
  | _ => exact law.congr rfl rfl

/-- The rights of an act that deals no card. -/
def Rights.cardless : Rights := ⟨True, True, True, False⟩

theorem Evolves.keeps_cards (h : Evolves .cardless s t) (law : CardLaw b s) : CardLaw b t :=
  h.keeps (fun _ _ e => e.keeps_cards id) law

/-! ### The list and the cards -/

theorem State.pushEntry_serials (s : State) (x : Nat) (cred : Option Nat) (r : ListReason) (v : Nat) :
    (s.pushEntry x cred r v).revoc.entries.map ListEntry.serial = s.revoc.entries.map ListEntry.serial ++ [x] := by
  unfold State.pushEntry
  dsimp only
  have checked : ∀ u : State, (u.restrictCheck cred).revoc = u.revoc := fun u => by simp
  rw [checked]
  simp [State.setEntries, State.emit_entries]

theorem ListLaw.iff (s : State) : s.ListLaw ↔ (s.revoc.entries.map ListEntry.serial).Nodup ∧
    ∀ x ∈ s.revoc.entries.map ListEntry.serial, ∀ c ∈ s.store.recs, c.st = .issued ∨ c.st = .active → c.serial ≠ x := by
  constructor
  · exact fun law => ⟨List.pairwise_map.mpr law.once, by simpa using law.current⟩
  · exact fun h => ⟨List.pairwise_map.mp h.1, by simpa using h.2⟩

/-- A serial that neither the list nor a usable card holds is listed. -/
theorem CardLaw.push (law : CardLaw b s) {x : Nat} (fresh : b → ∀ e ∈ s.revoc.entries, e.serial ≠ x)
    (unused : b → ∀ c ∈ s.store.recs, c.st = .issued ∨ c.st = .active → c.serial ≠ x) (cred : Option Nat) (r : ListReason) (v : Nat) :
    CardLaw b (s.pushEntry x cred r v) := by
  refine ⟨by simpa using law.slots, by simpa using law.serials, fun h => (ListLaw.iff _).mpr ?_⟩
  obtain ⟨once, current⟩ := (ListLaw.iff s).mp (law.list h)
  rw [State.pushEntry_serials, State.pushEntry_store]
  refine ⟨?_, fun y hy => ?_⟩
  · refine List.nodup_append.mpr ⟨once, List.nodup_singleton _, fun y hy z hz e => ?_⟩
    rw [List.mem_singleton.mp hz] at e
    obtain ⟨en, hen, rfl⟩ := List.mem_map.mp hy
    exact fresh h en hen e
  · rcases List.mem_append.mp hy with hy | hy
    · exact current y hy
    · rw [List.mem_singleton.mp hy]
      exact unused h

@[simp] theorem State.removeSerial_store (s : State) (x : Nat) : (s.removeSerial x).store = s.store := by
  unfold State.removeSerial
  split
  · simp
  · rfl

/-- The entry of a serial is removed: the usable cards of that serial need not be apart from the list any longer. -/
theorem State.ListLaw.removed (law : s.ListLaw) {u : State} {x : Nat} (revoc : u.revoc = s.revoc)
    (cards : ∀ d ∈ (u.removeSerial x).store.recs, d.st = .issued ∨ d.st = .active → d.serial = x ∨ d ∈ s.store.recs) :
    (u.removeSerial x).ListLaw := by
  constructor
  · rw [State.removeSerial_entries, revoc]
    exact law.once.sublist List.filter_sublist
  · intro e he d hd use
    rw [State.removeSerial_entries, revoc] at he
    obtain ⟨he, ne⟩ := List.mem_filter.mp he
    rcases cards d hd use with same | hd
    · rw [same]
      exact fun h => by simp [h] at ne
    · exact law.current e he d hd use

/-- The entries left when room is asked for are entries that stood. -/
theorem State.removeEntry_entries (s : State) (e : ListEntry) :
    (s.removeEntry e).revoc.entries = dropKey ListEntry.serial e.serial s.revoc.entries := by
  have relaxed : ∀ u v : State, (u.relaxCheck v).revoc = u.revoc := fun u v => by simp
  unfold State.removeEntry
  dsimp only
  rw [relaxed, State.emit_entries]
  rfl

theorem State.askRoom_sublist (s : State) : s.askRoom.revoc.entries.Sublist s.revoc.entries := by
  have fold : ∀ (es : List ListEntry) (u : State), (es.foldl (fun t e => t.removeEntry e) u).revoc.entries.Sublist u.revoc.entries := by
    intro es
    induction es with
    | nil => exact fun u => .refl _
    | cons e es ih =>
      refine fun u => (ih (u.removeEntry e)).trans ?_
      rw [State.removeEntry_entries]
      exact dropKey_sublist _ _ _
  unfold State.askRoom
  split
  · exact .refl _
  · exact fold _ s

theorem CardLaw.askRoom (law : CardLaw b s) : CardLaw b s.askRoom := Evolves.keeps_cards .askRoom law

/-! ### Records by their numbers -/

theorem Store.Law.cred? (slots : s.store.Law) {c : Cred} : c ∈ s.store.recs ↔ s.cred? c.number = some c :=
  ⟨findKey_of_mem Cred.number slots.ascending, fun h => (findKey_some Cred.number h).2⟩

theorem State.setCredState_cred? (s : State) (k : Nat) (x : CredState) (j : Nat) : (s.setCredState k x).cred? j =
    (s.cred? j).map (fun c => if j = k then { c with st := x } else c) := by
  by_cases h : j = k
  · subst h
    refine (findKey_modKey Cred.number (fun c => { c with st := x }) (fun _ => rfl) j s.store.recs).trans ?_
    simp [State.cred?]
  · refine (findKey_modKey_ne Cred.number (fun c => { c with st := x }) (fun _ => rfl) h s.store.recs).trans ?_
    simp [State.cred?, h]

/-- A record after its state was set: the one it was set in, or one that stood. -/
theorem State.mem_setCredState {k : Nat} {x : CredState} {d : Cred} (hd : d ∈ (s.setCredState k x).store.recs) :
    (∃ c ∈ s.store.recs, c.number = k ∧ d = { c with st := x }) ∨ (d ∈ s.store.recs ∧ d.number ≠ k) := by
  obtain ⟨c, hc, rfl⟩ := (mem_modKey Cred.number).mp hd
  by_cases h : c.number = k
  · exact .inl ⟨c, hc, h, by rw [if_pos h]⟩
  · rw [if_neg h]
    exact .inr ⟨hc, h⟩

/-- A current card takes another current state: no card changes its serial. -/
theorem Store.SerialLaw.setCredState (law : s.store.SerialLaw) (slots : s.store.Law) {k : Nat} {c : Cred}
    (hc : s.cred? k = some c) (current : c.st.current = true) (x : CredState) : (s.setCredState k x).store.SerialLaw := by
  have before : ∀ d ∈ (s.setCredState k x).store.recs, d.st.current = true →
      ∃ e ∈ s.store.recs, e.number = d.number ∧ e.serial = d.serial ∧ e.st.current = true := by
    intro d hd cur
    rcases State.mem_setCredState hd with ⟨e, he, hk, rfl⟩ | ⟨hd, -⟩
    · rw [eq_of_findKey Cred.number slots.ascending hc he hk]
      exact ⟨c, (findKey_some Cred.number hc).2, rfl, rfl, current⟩
    · exact ⟨d, hd, rfl, rfl, cur⟩
  intro d hd e he curD curE same
  obtain ⟨x, hx, xn, xs, xc⟩ := before d hd curD
  obtain ⟨y, hy, yn, ys, yc⟩ := before e he curE
  rw [← xn, ← yn]
  exact law x hx y hy xc yc (by rw [xs, ys, same])

/-! ### The commands that deal a card -/

theorem Evolves.keeps_slots (h : Evolves .all s t) (slots : s.store.Law) : t.store.Law :=
  h.keeps (P := fun s => s.store.Law) (fun _ _ e => e.keeps_store) slots

/-- A current card is suspended and listed (04:R80). -/
theorem CardLaw.suspend {k : Nat} {c : Cred} (law : CardLaw b s) (hc : s.cred? k = some c) (use : c.st = .issued ∨ c.st = .active)
    (w : Bool) : CardLaw b (s.suspend c w).1 := by
  have current := CredState.current_of_usable use
  have slots := Evolves.keeps_slots (.suspend trivial hc current w) law.slots
  revert slots
  unfold State.suspend
  dsimp only
  have asked : CardLaw b s.askRoom := law.askRoom
  have found : s.askRoom.cred? c.number = some c := by
    rw [State.cred?_congr (s := s) (by simp)]
    exact State.cred?_number hc
  have mem : c ∈ s.askRoom.store.recs := (findKey_some Cred.number found).2
  split
  · intro slots
    let u := s.askRoom.pushEntry c.serial (some c.number) .suspended c.validEnd
    have store : u.store = s.askRoom.store := by simp [u]
    have held : u.cred? c.number = some c := by rw [State.cred?_congr store]; exact found
    refine CardLaw.congr (s := u.setCredState c.number (.suspended w s.now)) ⟨?_, ?_, fun h => (ListLaw.iff _).mpr ⟨?_, ?_⟩⟩ (by simp [u]) (by simp [u])
    · simpa using slots
    · exact Store.SerialLaw.setCredState (store ▸ asked.serials) (store ▸ asked.slots) held current _
    · obtain ⟨once, apart⟩ := (ListLaw.iff _).mp (asked.list h)
      have fresh : c.serial ∉ s.askRoom.revoc.entries.map ListEntry.serial := fun listed => apart _ listed c mem use rfl
      simp only [State.setCredState_revoc, u, State.pushEntry_serials]
      exact List.nodup_append.mpr ⟨once, List.nodup_singleton _, fun x hx y hy same => fresh (by simp_all)⟩
    · obtain ⟨-, apart⟩ := (ListLaw.iff _).mp (asked.list h)
      intro x hx d hd usable
      simp only [State.setCredState_revoc, u, State.pushEntry_serials, List.mem_append, List.mem_singleton] at hx
      rcases State.mem_setCredState hd with ⟨e, _, _, rfl⟩ | ⟨hd, ne⟩
      · simp at usable
      · rw [store] at hd
        rcases hx with hx | rfl
        · exact apart x hx d hd usable
        · exact fun same => ne (asked.serials d hd c mem (CredState.current_of_usable usable) current same)
  · exact fun _ => asked

theorem CardLaw.serveSuspend {k : Nat} {c : Cred} (law : CardLaw b s) (hc : s.cred? k = some c) : CardLaw b (serveSuspend c s).1 := by
  unfold Machine.serveSuspend
  split
  · exact law.suspend hc (.inl ‹_›) _
  · exact law.suspend hc (.inr ‹_›) _
  · exact law

theorem CardLaw.serveResume {k : Nat} {c : Cred} (law : CardLaw b s) (hc : s.cred? k = some c) : CardLaw b (serveResume c s).1 := by
  have slots := Evolves.keeps_slots (.serveResume trivial hc) law.slots
  revert slots
  unfold Machine.serveResume
  split
  · rename_i w v hst
    intro slots
    have current : c.st.current = true := by simp [hst, CredState.current]
    let u := s.setCredState c.number (stateBefore w)
    refine CardLaw.congr (s := u.removeSerial c.serial) ⟨by simpa using slots, ?_, fun h => ?_⟩ (by simp [u]) (by simp [u])
    · simpa [u] using Store.SerialLaw.setCredState law.serials law.slots (State.cred?_number hc) current (stateBefore w)
    · refine .removed (law.list h) (by simp [u]) (fun d hd _ => ?_)
      rw [State.removeSerial_store] at hd
      rcases State.mem_setCredState hd with ⟨e, he, hk, rfl⟩ | ⟨hd, -⟩
      · rw [eq_of_findKey Cred.number law.slots.ascending (State.cred?_number hc) he hk]
        exact .inl rfl
      · exact .inr hd
  · exact fun _ => law

/-- What stays current through revocations stood so and is not among the numbers revoked. -/
theorem State.current_of_revokeAll {ks : List Nat} {r : RevReason} (slots : (s.revokeAll ks r).store.Law) {d : Cred}
    (hd : d ∈ (s.revokeAll ks r).store.recs) (current : d.st.current = true) : d ∈ s.store.recs ∧ d.number ∉ ks := by
  rw [slots.cred?, State.revokeAll_cred?] at hd
  obtain ⟨x, hx, e⟩ := Option.map_eq_some_iff.mp hd
  split at e
  · rw [← e] at current
    cases current
  · subst e
    exact ⟨(findKey_some Cred.number hx).2, fun h => by simp_all⟩

theorem CardLaw.serveConfirm {k : Nat} {c : Cred} (law : CardLaw b s) (hc : s.cred? k = some c) : CardLaw b (serveConfirm c s).1 := by
  unfold Machine.serveConfirm
  split
  · rename_i encoding
    unfold State.confirm
    dsimp only
    refine Evolves.keeps_cards (.confirmStay c) ?_
    let u := (s.setCredState c.number .issued).append (c.entry .cardConfirmed)
    let v := u.revokeAll (u.holdersBut c.number c.serial) .recycled
    have su : Evolves .all s u := (Evolves.setCredState (State.cred?_number hc) (CredState.retiredAt_of_encoding encoding) rfl trivial).then_append _
    have slots : v.store.Law := Evolves.keeps_slots (su.trans (.revokeAll _ _)) law.slots
    have store : u.store = (s.setCredState c.number .issued).store := by simp [u]
    have revoc : v.revoc = s.revoc := (State.revokeAll_revoc _ _ u (.inl rfl)).trans (by simp [u])
    have stands : ∀ d ∈ v.store.recs, d.st.current = true →
        (d.number = c.number ∧ d.serial = c.serial) ∨ (d ∈ s.store.recs ∧ d.number ≠ c.number ∧ d.serial ≠ c.serial) := by
      intro d hd current
      obtain ⟨hu, free⟩ := State.current_of_revokeAll slots hd current
      have hs := hu
      rw [store] at hs
      rcases State.mem_setCredState hs with ⟨e, he, hk, rfl⟩ | ⟨hs, ne⟩
      · rw [eq_of_findKey Cred.number law.slots.ascending (State.cred?_number hc) he hk]
        exact .inl ⟨rfl, rfl⟩
      · refine .inr ⟨hs, ne, fun same => free ?_⟩
        exact List.mem_map_of_mem (List.mem_filter.mpr ⟨hu, by simp [ne, current, same]⟩)
    refine ⟨by simpa [u, v] using slots, ?_, fun h => ?_⟩
    · rw [State.removeSerial_store]
      intro d hd e he curD curE same
      rcases stands d hd curD with ⟨dn, ds⟩ | ⟨hd, -, ds⟩ <;> rcases stands e he curE with ⟨en, es⟩ | ⟨he, -, es⟩
      · rw [dn, en]
      · exact absurd (same.symm.trans ds) es
      · exact absurd (same.trans es) ds
      · exact law.serials d hd e he curD curE same
    · refine .removed (law.list h) revoc (fun d hd use => ?_)
      rw [State.removeSerial_store] at hd
      rcases stands d hd (CredState.current_of_usable use) with ⟨-, ds⟩ | ⟨hd, -⟩
      · exact .inl ds
      · exact .inr hd
  · exact law

theorem CardLaw.revokeCurrent {k : Nat} {c : Cred} (law : CardLaw b s) (hc : s.cred? k = some c)
    (use : c.st = .issued ∨ c.st = .active) : CardLaw b (s.revokeCurrent c).1 := by
  have current := CredState.current_of_usable use
  unfold State.revokeCurrent
  split
  · exact Evolves.keeps_cards (.revoke _ _) law
  · dsimp only
    have asked : CardLaw b s.askRoom := law.askRoom
    have found : s.askRoom.cred? c.number = some c := by
      rw [State.cred?_congr (s := s) (by simp)]
      exact State.cred?_number hc
    have mem : c ∈ s.askRoom.store.recs := (findKey_some Cred.number found).2
    split
    · have revoked : CardLaw b (s.askRoom.revoke c.number .revokedByDesk) := Evolves.keeps_cards (.revoke _ _) asked
      refine revoked.push (fun h e he => ?_) (fun h d hd use' same => ?_) _ _ _
      · rw [State.revoke_revoc _ _ _ (.inr (fun d hd => ?_))] at he
        · exact ((asked.list h).current e he c mem use).symm
        · rw [found] at hd
          rw [← Option.some.inj hd]
          rcases use with h | h <;> simp [h]
      · obtain ⟨hd, ne⟩ := State.current_of_revokeAll (ks := [c.number]) revoked.slots hd (CredState.current_of_usable use')
        exact ne (List.mem_singleton.mpr (asked.serials d hd c mem (CredState.current_of_usable use') current same))
    · exact Evolves.keeps_cards (.revokeByRekey c) asked

theorem CardLaw.serveRevoke {k : Nat} {c : Cred} (law : CardLaw b s) (hc : s.cred? k = some c) : CardLaw b (serveRevoke c s).1 := by
  unfold Machine.serveRevoke
  split
  · exact Evolves.keeps_cards (.revoke _ _) law
  · exact law.revokeCurrent hc (.inl ‹_›)
  · exact law.revokeCurrent hc (.inr ‹_›)
  · exact law

theorem CardLaw.serveRevokeSerial (law : CardLaw b s) (body : List Byte) : CardLaw b (serveRevokeSerial body s).1 := by
  unfold Machine.serveRevokeSerial
  dsimp only
  split
  · rename_i c hc
    exact law.serveRevoke (law.slots.cred?.mp (List.mem_of_find?_eq_some hc))
  · rename_i unheld
    split
    · exact Evolves.keeps_cards (.extendEntry _ _) law
    · rename_i unlisted
      have asked : CardLaw b s.askRoom := law.askRoom
      split
      · refine asked.push (fun _ e he same => ?_) (fun _ d hd use same => ?_) _ _ _
        · have := List.find?_eq_none.mp unlisted e (s.askRoom_sublist.subset he)
          simp [same] at this
        · rw [State.askRoom_store] at hd
          have := List.find?_eq_none.mp unheld d hd
          simp [same, CredState.current_of_usable use] at this
      · exact asked

/-! ### Every step -/

theorem CardLaw.onCred {serve : Cred → State → State × Reply} (law : CardLaw b s)
    (served : ∀ k c, s.cred? k = some c → CardLaw b (serve c s).1) (body : List Byte) : CardLaw b (s.onCred body serve).1 := by
  unfold State.onCred
  split
  · exact law
  · split
    · exact law
    · exact served _ _ ‹_›

/-- What the port does beside the owning block leaves cards and list. -/
theorem CardLaw.command (law : CardLaw b s) {kind tag : Byte} {len : Nat} {lenOk : Nat → Bool}
    {serve : State → State × Reply} {rearms : List NoticeKind} (served : CardLaw b (serve s).1) :
    CardLaw b (s.command kind tag len lenOk serve rearms) := by
  unfold State.command
  split
  · exact law
  · split
    · exact law.congr rfl rfl
    · split
      · exact law.congr rfl rfl
      · split
        · exact law.congr rfl rfl
        · have rest := State.rearmIf_rest (serve s).1 (serve s).2.status.success rearms
          have rearmed := served.congr (congrArg State.store rest :) (congrArg (fun s => s.revoc.entries) rest :)
          exact rearmed.congr rfl rfl

theorem exec_keeps_cards {i : Instr} (law : CardLaw b s) (h : exec i s = .next t) : CardLaw b t := by
  by_cases deals : dealsCards i = true
  · cases i with
    | confirmCard tag body =>
      exact Host.Outcome.next.inj h ▸ law.command (law.onCred (fun _ _ hc => law.serveConfirm hc) body)
    | suspendCard tag body =>
      exact Host.Outcome.next.inj h ▸ law.command (law.onCred (fun _ _ hc => law.serveSuspend hc) body)
    | resumeCard tag body =>
      exact Host.Outcome.next.inj h ▸ law.command (law.onCred (fun _ _ hc => law.serveResume hc) body)
    | revokeCard tag body =>
      exact Host.Outcome.next.inj h ▸ law.command (law.onCred (fun _ _ hc => law.serveRevoke hc) body)
    | revokeSerial tag body => exact Host.Outcome.next.inj h ▸ law.command (law.serveRevokeSerial body)
    | _ => cases deals
  · exact Evolves.keeps_cards (exec_evolves trivial (fun _ => trivial) (fun _ => trivial) (fun h => absurd h deals) h) law

theorem step_keeps_cards (law : CardLaw b s) (h : step s = .next t) : CardLaw b t := by
  unfold step at h
  split at h
  · exact Host.Outcome.next.inj h ▸ Evolves.keeps_cards (.tickOnce trivial trivial) law
  · rename_i c rest _
    have law' : CardLaw b (s.withPending rest) := law.congr rfl rfl
    exact exec_keeps_cards law' h

end Cards

/-- Settles O9: edits that deal no card keep serials apart, and each of the five commands that deal one. -/
theorem everyStepKeepsSerialsUnique : Obligations.EveryStepKeepsSerialsUnique := by
  unfold Obligations.EveryStepKeepsSerialsUnique
  constructor
  · exact fun _ _ slots serials h => (step_keeps_cards (b := False) ⟨slots, serials, False.elim⟩ h).serials
  · exact fun _ _ slots serials list h => (step_keeps_cards (b := True) ⟨slots, serials, fun _ => list⟩ h).list trivial

end Sys2Proof.Machine

/-! The reset state and the front of the queue: O1, O3 and O4. -/

namespace Sys2Proof.Machine

open Sys2Proof

/-- Settles O1: the queue of `s` is the one that `step` takes apart. -/
theorem stepRunsTheFrontCommand : Obligations.StepRunsTheFrontCommand := by
  unfold Obligations.StepRunsTheFrontCommand
  intro c rest s h
  rw [step, h]

/-- Settles O3: each value is the one written in the reset state. -/
theorem resetHoldsTheColdStartValues : Obligations.ResetHoldsTheColdStartValues := by
  unfold Obligations.ResetHoldsTheColdStartValues
  refine ⟨rfl, rfl, rfl, rfl, rfl, rfl, rfl, rfl, rfl, rfl, rfl, rfl, rfl, rfl, rfl, rfl, rfl, rfl, rfl, rfl, rfl, rfl, rfl, rfl, rfl,
    rfl, rfl, rfl, rfl⟩

theorem State.reset_capacities : State.reset.Capacities where
  ascending := .nil
  addresses := by simp [State.reset]
  compartments := by simp [State.reset]
  urgent := Nat.zero_le _
  repeats := Nat.zero_le _
  segment := nofun
  list := Nat.zero_le _
  changes := Nat.zero_le _
  pool := Nat.zero_le _
  memory := by simp [State.reset]
  rejects := Nat.zero_le _
  staging := Nat.zero_le _

theorem State.reset_journal : State.reset.journal.Law :=
  ⟨by decide, by decide, by decide, by simp [State.reset, Journal.cold, numbered, sub32]⟩

theorem State.reset_folioLaw : State.reset.FolioLaw where
  nodesAscending := .nil
  foliosAscending := .nil
  copies := by simp [State.reset]
  owners := by simp [State.reset]
  total := by simp [State.reset]
  balance := by simp [State.reset]
  lines := by simp [State.reset]
  once := .nil
  sessions := by simp [State.reset]

/-- Settles O4: with nothing enrolled, listed or pending, and all slots free, the laws have nothing to refuse. -/
theorem resetMeetsEveryLaw : Obligations.ResetMeetsEveryLaw := by
  unfold Obligations.ResetMeetsEveryLaw
  refine ⟨State.reset_journal, State.reset_capacities, .of_stopped nofun rfl .nil (by simp [State.reset]), Store.initial_law, ?_, ?_,
    ?_, ⟨.nil, ?_, ?_⟩, State.reset_folioLaw, ⟨fun _ => rfl, rfl⟩⟩
  · exact fun c hc => by cases hc
  · exact ⟨.nil, fun e he => by cases he⟩
  · exact fun n hn => by cases hn
  · exact fun r hr => by cases hr
  · exact fun r hr => by cases hr

end Sys2Proof.Machine

/-! The receive machine over whole frames and over their beginnings, and the rows that reject: O15 and O19. -/

namespace Sys2Proof.Machine

open Sys2Proof

/-! ### Numbers of two bytes -/

theorem le16_value {n : Nat} (h : n < 65536) : (byteOf n).toNat + 256 * (byteOf (n / 256)).toNat = n := by
  simpa [BitVec.toNat_ofNat, Nat.mod_eq_of_lt h] using u16_parts (BitVec.ofNat 16 n)

theorem crc16_lt (bs : List Byte) : crc16 bs < 65536 := BitVec.isLt _

/-! ### Bytes received in turn -/

theorem Rx.run_nothing {x : Byte} {r q : Rx} (h : r.step x = (q, .nothing)) (xs : List Byte) :
    Rx.run (x :: xs) r = Rx.run xs q := by
  rw [Rx.run, h]

theorem Rx.run_event {x : Byte} {r q : Rx} {e : RxEvent} (h : r.step x = (q, e)) (he : e ≠ .nothing) (xs : List Byte) :
    Rx.run (x :: xs) r = (q, e, xs) := by
  rw [Rx.run, h]
  cases e <;> simp_all

/-- Bytes that bring nothing about leave the rest to the state they lead to. -/
theorem Rx.run_append (ys : List Byte) {r' : Rx} : ∀ (xs : List Byte) (r : Rx), Rx.run xs r = (r', .nothing, []) →
    Rx.run (xs ++ ys) r = Rx.run ys r'
  | [], r, h => by
    obtain rfl : r = r' := congrArg Prod.fst h
    rfl
  | x :: xs, r, h => by
    obtain ⟨q, e⟩ : ∃ q e, r.step x = (q, e) := ⟨_, _, rfl⟩
    obtain ⟨e, hq⟩ := e
    by_cases quiet : e = .nothing
    · subst quiet
      rw [Rx.run_nothing hq] at h
      rw [List.cons_append, Rx.run_nothing hq]
      exact Rx.run_append ys xs q h
    · rw [Rx.run_event hq quiet] at h
      exact absurd (congrArg (fun p => p.2.1) h) quiet

/-- The bytes of a body, received from its first place on. -/
theorem Rx.run_body (len : Nat) (kind tag : Byte) : ∀ (xs got : List Byte), got.length + xs.length = len →
    Rx.run xs (afterBody len kind tag got) = (.check len kind tag (got ++ xs) none, .nothing, [])
  | [], got, h => by simp [afterBody, Rx.run, ← h]
  | x :: xs, got, h => by
    have inside : afterBody len kind tag got = .body len kind tag got := if_neg (by simp at h; omega)
    rw [inside]
    simp only [Rx.run, Rx.step]
    rw [Rx.run_body len kind tag xs (got ++ [x]) (by simp at h ⊢; omega)]
    simp

/-- The sync byte, the length, the kind and the tag of a frame not above the limit. -/
theorem Rx.run_header {len : Nat} (h : len ≤ 1024) (kind tag : Byte) :
    Rx.run (0xA7 :: (le16 len ++ [kind, tag])) .hunting = (afterBody len kind tag [], .nothing, []) := by
  have value := le16_value (n := len) (by omega)
  simp [Rx.run, Rx.step, le16, value, Nat.not_lt.mpr h]

/-- The whole of a frame that carries the check bytes `lo` and `hi`. -/
theorem Rx.run_frame {body : List Byte} (h : body.length ≤ 1024) (kind tag lo hi : Byte) :
    Rx.run (0xA7 :: (le16 body.length ++ [kind, tag] ++ body ++ [lo, hi])) .hunting
      = (.hunting, frameEnd body.length kind tag body lo hi, []) := by
  have received := Rx.run_append [lo, hi] _ _
    ((Rx.run_append body _ _ (Rx.run_header h kind tag)).trans (Rx.run_body body.length kind tag body [] (by simp)))
  simp only [List.cons_append, List.nil_append] at received ⊢
  rw [received]
  have ends : frameEnd body.length kind tag body lo hi ≠ .nothing := by
    unfold frameEnd
    split <;> simp
  have last : Rx.step hi (.check body.length kind tag body (some lo)) = (.hunting, frameEnd body.length kind tag body lo hi) := rfl
  exact (Rx.run_nothing (q := .check body.length kind tag body (some lo)) rfl [hi]).trans (Rx.run_event last ends [])

theorem frameBytes_eq (kind tag : Byte) (body : List Byte) :
    frameBytes kind tag body = 0xA7 :: (le16 body.length ++ [kind, tag] ++ body ++
      [byteOf (crc16 (le16 body.length ++ [kind, tag] ++ body)), byteOf (crc16 (le16 body.length ++ [kind, tag] ++ body) / 256)]) := rfl

theorem Rx.run_frameBytes {body : List Byte} (h : body.length ≤ 1024) (kind tag : Byte) :
    Rx.run (frameBytes kind tag body) .hunting = (.hunting, .good kind tag body, []) := by
  rw [frameBytes_eq, Rx.run_frame h, frameEnd, if_pos]
  exact le16_value (crc16_lt _)

theorem Rx.run_badCheck {body : List Byte} (h : body.length ≤ 1024) (kind tag : Byte) {lo hi : Byte}
    (wrong : lo.toNat + 256 * hi.toNat ≠ crc16 (le16 body.length ++ [kind, tag] ++ body)) :
    Rx.run (0xA7 :: (le16 body.length ++ [kind, tag] ++ body ++ [lo, hi])) .hunting = (.hunting, .badCheck kind tag, []) := by
  rw [Rx.run_frame h, frameEnd, if_neg]
  exact wrong

theorem Rx.run_oversize {lo hi : Byte} (h : 1024 < lo.toNat + 256 * hi.toNat) (rest : List Byte) :
    Rx.run (0xA7 :: lo :: hi :: rest) .hunting = (.hunting, .oversize, rest) := by
  simp [Rx.run, Rx.step, h]

/-- Settles O15: header, body and check received in turn. -/
theorem framesRoundTripThroughTheReceiver : Obligations.FramesRoundTripThroughTheReceiver := by
  unfold Obligations.FramesRoundTripThroughTheReceiver
  intro kind tag body
  refine ⟨fun fits => Rx.run_frameBytes fits kind tag, fun fits lo hi wrong => Rx.run_badCheck fits kind tag wrong, fun long bound => ?_⟩
  exact Rx.run_oversize (by rw [le16_value bound]; exact long) _

/-! ### Frames in assembly -/

/-- Kind and tag have come, and `n` bytes are wanting to the end of the frame. -/
def Rx.Wants (kind tag : Byte) (n : Nat) : Rx → Prop
  | .body len k t got => k = kind ∧ t = tag ∧ got.length < len ∧ n = len - got.length + 2
  | .check _ k t _ first => k = kind ∧ t = tag ∧ n = if first.isSome then 1 else 2
  | _ => False

section Wants
variable {kind tag : Byte} {n : Nat} {r : Rx}

theorem Rx.Wants.about (h : r.Wants kind tag n) : r.about = .unverified kind tag := by
  cases r with
  | body len k t got => rw [Rx.about, h.1, h.2.1]
  | check len k t got first => rw [Rx.about, h.1, h.2.1]
  | _ => exact h.elim

theorem Rx.Wants.inFrame (h : r.Wants kind tag n) : r ≠ .hunting := by
  rintro rfl
  exact h

theorem afterBody_wants {len : Nat} {got : List Byte} (h : got.length ≤ len) :
    (afterBody len kind tag got).Wants kind tag (len - got.length + 2) := by
  unfold afterBody
  split
  · exact ⟨rfl, rfl, by simp; omega⟩
  · exact ⟨rfl, rfl, by omega, rfl⟩

/-- A byte that is not the last brings nothing about. -/
theorem Rx.Wants.step (h : r.Wants kind tag n) (more : 1 < n) (x : Byte) :
    ∃ q, r.step x = (q, .nothing) ∧ q.Wants kind tag (n - 1) := by
  cases r with
  | body len k t got =>
    obtain ⟨rfl, rfl, short, rfl⟩ := h
    refine ⟨_, rfl, ?_⟩
    have next := afterBody_wants (kind := k) (tag := t) (len := len) (got := got ++ [x]) (by simp; omega)
    rwa [show len - got.length + 2 - 1 = len - (got ++ [x]).length + 2 by simp; omega]
  | check len k t got first =>
    obtain ⟨rfl, rfl, rfl⟩ := h
    cases first with
    | none => exact ⟨_, rfl, rfl, rfl, rfl⟩
    | some lo => simp at more
  | _ => exact h.elim

theorem Rx.Wants.run : ∀ (xs : List Byte) {n : Nat} {r : Rx}, r.Wants kind tag n → xs.length < n →
    ∃ q, Rx.run xs r = (q, .nothing, []) ∧ q.Wants kind tag (n - xs.length)
  | [], n, r, h, _ => ⟨r, rfl, h⟩
  | x :: xs, n, r, h, short => by
    rw [List.length_cons] at short
    obtain ⟨q, hq, wants⟩ := h.step (by omega) x
    obtain ⟨p, hp, wants'⟩ := Rx.Wants.run xs wants (by omega)
    refine ⟨p, ?_, by rwa [List.length_cons, Nat.add_comm, Nat.sub_add_eq]⟩
    rw [Rx.run_nothing hq]
    exact hp

end Wants

/-- What is known of a frame of which `k` bytes have come. -/
def knownAfter (k : Nat) (kind tag : Byte) : KindTag := if k < 5 then .unknown else .unverified kind tag

/-- The first bytes of a frame leave it in assembly. -/
theorem Rx.run_take {body : List Byte} (fits : body.length ≤ 1024) (kind tag : Byte) {k : Nat} (some : 1 ≤ k)
    (short : k < body.length + 7) : ∃ r : Rx, Rx.run ((frameBytes kind tag body).take k) .hunting = (r, .nothing, []) ∧
      r ≠ .hunting ∧ r.about = knownAfter k kind tag := by
  by_cases header : k < 5
  · have value := le16_value (n := body.length) (by omega)
    have known : knownAfter k kind tag = .unknown := if_pos header
    rw [known]
    obtain rfl | rfl | rfl | rfl : k = 1 ∨ k = 2 ∨ k = 3 ∨ k = 4 := by omega
    · exact ⟨_, rfl, by simp, rfl⟩
    · exact ⟨_, rfl, by simp, rfl⟩
    · exact ⟨.header body.length none, by simp [frameBytes_eq, le16, Rx.run, Rx.step, value, Nat.not_lt.mpr fits], by simp, rfl⟩
    · exact ⟨.header body.length kind, by simp [frameBytes_eq, le16, Rx.run, Rx.step, value, Nat.not_lt.mpr fits], by simp, rfl⟩
  · have split : (frameBytes kind tag body).take k = (0xA7 :: (le16 body.length ++ [kind, tag])) ++
        ((frameBytes kind tag body).drop 5).take (k - 5) := by
      rw [show k = 5 + (k - 5) by omega, List.take_add, Nat.add_sub_cancel_left]
      rfl
    have rest : ((frameBytes kind tag body).drop 5).length = body.length + 2 := by simp [frameBytes_eq, le16]
    have wants := afterBody_wants (kind := kind) (tag := tag) (got := []) (Nat.zero_le body.length)
    obtain ⟨r, hr, wants'⟩ := Rx.Wants.run (((frameBytes kind tag body).drop 5).take (k - 5)) wants (by
      rw [List.length_take, rest]; simp; omega)
    refine ⟨r, ?_, wants'.inFrame, by rw [wants'.about, knownAfter, if_neg header]⟩
    rw [split, Rx.run_append _ _ _ (Rx.run_header fits kind tag)]
    exact hr

/-! ### The rows -/

theorem exec_crc {s : State} (on : s.lineOff = false) {bytes : List Byte} {kind tag : Byte} {r : Rx}
    (h : Rx.run bytes s.port.rx = (r, .badCheck kind tag, [])) :
    exec (.linkRejectCrc bytes) s = .next ((s.setRx r).rejection .crc (.unverified kind tag)) := by
  change Host.Outcome.next _ = _
  rw [on, h]
  rfl

theorem exec_crc_nothing {s : State} (on : s.lineOff = false) {bytes : List Byte} {r : Rx}
    (h : Rx.run bytes s.port.rx = (r, .nothing, [])) : exec (.linkRejectCrc bytes) s = .next (s.setRx r) := by
  change Host.Outcome.next _ = _
  rw [on, h]
  rfl

theorem exec_oversize {s : State} (on : s.lineOff = false) {bytes : List Byte} {r : Rx}
    (h : Rx.run bytes s.port.rx = (r, .oversize, [])) :
    exec (.linkRejectOversize bytes) s = .next ((s.setRx r).rejection .oversize .unknown) := by
  change Host.Outcome.next _ = _
  rw [on, h]
  rfl

theorem State.rxTimeout_inFrame {s : State} (h : s.port.rx ≠ .hunting) :
    s.rxTimeout = (s.setRx .hunting).rejection .timeout s.port.rx.about := by
  unfold State.rxTimeout
  cases hr : s.port.rx with
  | hunting => exact absurd hr h
  | _ => rfl

theorem exec_timeout {s : State} (on : s.lineOff = false) {bytes : List Byte} {r : Rx}
    (h : Rx.run bytes s.port.rx = (r, .nothing, [])) (inFrame : r ≠ .hunting) :
    exec (.linkRejectTimeout bytes) s = .next ((s.setRx .hunting).rejection .timeout r.about) := by
  have timeout : exec (.linkRejectTimeout bytes) s = .next (s.setRx r).rxTimeout := by
    change Host.Outcome.next _ = _
    rw [on, h]
    rfl
  rw [timeout, State.rxTimeout_inFrame inFrame]
  rfl

theorem Rx.isHunting_eq {r : Rx} (h : r ≠ .hunting) : r.isHunting = false := by
  cases r with
  | hunting => exact absurd rfl h
  | _ => rfl

theorem State.quietFor_inFrame {s : State} (on : s.lineOff = false) {r : Rx} (inFrame : r ≠ .hunting) (n : Nat) :
    (s.setRx r).quietFor n = if n < 1639 then { s.setRx r with port := { (s.setRx r).port with silence := n } }
      else (s.setRx .hunting).rejection .timeout r.about := by
  have hunting : (s.setRx r).port.rx.isHunting = false := Rx.isHunting_eq inFrame
  have on' : (s.setRx r).lineOff = false := on
  have from0 : (s.setRx r).port.silence + n = n := Nat.zero_add n
  obtain ⟨off, -⟩ | ⟨-, -, short, e⟩ | ⟨-, -, long, e⟩ := (s.setRx r).quietFor_cases n
  · simp [hunting, on'] at off
  · rw [e, if_pos (from0 ▸ short), from0]
  · rw [e, if_neg (by omega)]
    rfl

/-- Settles O19: what the receive machine makes of a frame and of its beginning decides each row. -/
theorem badFramesAreRejected : Obligations.BadFramesAreRejected := by
  unfold Obligations.BadFramesAreRejected
  intro kind tag body s fits on
  refine ⟨fun lo hi hunting wrong => ?_, fun lo hi hunting long => ?_, fun k hunting some short => ?_, fun busy => ?_,
    fun idle unknown => ?_, fun k hunting some short => ?_⟩
  · exact exec_crc on (by rw [hunting]; exact Rx.run_badCheck fits kind tag wrong)
  · exact exec_oversize on (by rw [hunting]; exact Rx.run_oversize long [])
  · obtain ⟨r, received, inFrame, known⟩ := Rx.run_take fits kind tag some short
    rw [exec_timeout on (by rw [hunting]; exact received) inFrame, known]
    rfl
  · change Host.Outcome.next _ = _
    rw [on, Option.isNone_eq_false_iff.mpr (Option.isSome_iff_ne_none.mpr busy)]
    rfl
  · change Host.Outcome.next _ = _
    rw [on, unknown, idle]
    rfl
  · obtain ⟨r, received, inFrame, known⟩ := Rx.run_take fits kind tag some short
    refine ⟨r, inFrame, exec_crc_nothing on (by rw [hunting]; exact received), ?_, ?_, fun n => ?_⟩
    · have whole := Rx.run_append ((frameBytes kind tag body).drop k) _ _ received
      rw [List.take_append_drop, Rx.run_frameBytes fits] at whole
      exact whole.symm
    · rw [exec_timeout (s := s.setRx r) on rfl inFrame]
      rw [known]
      rfl
    · rw [State.quietFor_inFrame on inFrame, known]
      rfl

end Sys2Proof.Machine

/-! SUPPORT. The revocation list: what its acts do to caches, and what the removal of past entries leaves: 05:R93, R94, R102. -/

namespace Sys2Proof.Machine

open Sys2Proof

/-! ### The node table compared record by record -/

/-- Two states are alike that are so field by field. -/
theorem State.eq_of_fields {s t : State} (pending : t.pending = s.pending := by simp) (part : t.part = s.part := by simp)
    (supply : t.supply = s.supply := by simp) (loader : t.loader = s.loader := by simp) (time : t.time = s.time := by simp)
    (lines : t.lines = s.lines := by simp) (inviter : t.inviter = s.inviter := by simp) (nodes : t.nodes = s.nodes := by simp)
    (store : t.store = s.store := by simp) (revoc : t.revoc = s.revoc := by simp) (minibar : t.minibar = s.minibar := by simp)
    (journal : t.journal = s.journal := by simp) (port : t.port = s.port := by simp)
    (choices : t.choices = s.choices := by simp) : t = s := by
  cases s
  cases t
  simp_all

/-- The node tables of two states hold records related one by one. -/
def State.Nodewise (R : Node → Node → Prop) (s u : State) : Prop := List.Forall₂ R s.nodes u.nodes

section Nodewise
variable {R : Node → Node → Prop} {s t u : State}

theorem State.Nodewise.of_eq (refl : ∀ n, R n n) (h : u.nodes = s.nodes) : s.Nodewise R u := by
  unfold State.Nodewise
  rw [h]
  exact List.forall₂_same.mpr (fun n _ => refl n)

theorem State.Nodewise.trans (trans : ∀ n m k, R n m → R m k → R n k) (h : s.Nodewise R t) (g : t.Nodewise R u) :
    s.Nodewise R u := by
  have chain : ∀ {ns ms ks : List Node}, List.Forall₂ R ns ms → List.Forall₂ R ms ks → List.Forall₂ R ns ks := by
    intro ns ms ks h g
    induction h generalizing ks with
    | nil => exact g
    | cons h _ ih =>
      cases g with
      | cons g gs => exact .cons (trans _ _ _ h g) (ih gs)
  exact chain h g

theorem State.Nodewise.of_map {f : Node → Node} (h : u.nodes = s.nodes.map f) (each : ∀ n, R n (f n)) : s.Nodewise R u := by
  unfold State.Nodewise
  rw [h, List.forall₂_map_right_iff]
  exact List.forall₂_same.mpr (fun n _ => each n)

theorem State.Nodewise.modNode (refl : ∀ n, R n n) (s : State) (a : Nat) {f : Node → Node} (each : ∀ n, R n (f n)) :
    s.Nodewise R (s.modNode a f) :=
  .of_map (f := fun n => if n.addr = a then f n else n) rfl (fun n => by
    split
    · exact each n
    · exact refl n)

theorem State.Nodewise.foldl {α : Type} {f : State → α → State} (refl : ∀ n, R n n) (trans : ∀ n m k, R n m → R m k → R n k)
    (each : ∀ t x, State.Nodewise R t (f t x)) (xs : List α) (s : State) : s.Nodewise R (xs.foldl f s) := by
  induction xs generalizing s with
  | nil => exact .of_eq refl rfl
  | cons x xs ih => exact .trans trans (each s x) (ih (f s x))

theorem State.Nodewise.imp {Q : Node → Node → Prop} (h : s.Nodewise R u) (imp : ∀ n m, R n m → Q n m) : s.Nodewise Q u :=
  List.Forall₂.imp imp h

theorem State.Nodewise.addrs (addr : ∀ n m, R n m → m.addr = n.addr) (h : s.Nodewise R u) : u.addrs = s.addrs := by
  have same : ∀ {ns ms : List Node}, List.Forall₂ R ns ms → ms.map Node.addr = ns.map Node.addr := by
    intro ns ms h
    induction h with
    | nil => rfl
    | cons h _ ih => rw [List.map_cons, List.map_cons, ih, addr _ _ h]
  exact same h

theorem State.Nodewise.node? (addr : ∀ n m, R n m → m.addr = n.addr) (h : s.Nodewise R u) {a : Nat} {n : Node}
    (hn : s.node? a = some n) : ∃ m, u.node? a = some m ∧ R n m := by
  have found : ∀ {ns ms : List Node}, List.Forall₂ R ns ms → findKey Node.addr a ns = some n →
      ∃ m, findKey Node.addr a ms = some m ∧ R n m := by
    intro ns ms h
    induction h with
    | nil => simp [findKey]
    | @cons x y _ _ h _ ih =>
      intro found
      unfold findKey at found ⊢
      rw [List.find?_cons] at found ⊢
      rw [addr _ _ h]
      split at found
      · exact ⟨y, rfl, Option.some.inj found ▸ h⟩
      · exact ih found
  exact found h hn

end Nodewise

/-! ### Reloads marked: changes emitted and entries removed -/

/-- A reload MARKED at most. -/
def Node.ReloadOnly (n m : Node) : Prop := ∃ r, m = { n with reload := r } ∧ (r = n.reload ∨ r = .marked)

/-- What changes and list entries do to one node's record: `CachesTouched` at a node whose session stands. -/
structure Node.CacheOnly (n m : Node) : Prop where
  reload : m.reload = n.reload ∨ m.reload = .marked
  mode : m.fallback = n.fallback ∧ m.latchFallback = n.latchFallback ∨ m.fallback = .restricted ∧ m.latchFallback = true
  rest : m = { n with reload := m.reload, fallback := m.fallback, latchFallback := m.latchFallback }

section Caches
variable {n m k : Node} {s t u : State}

theorem Node.ReloadOnly.refl (n : Node) : n.ReloadOnly n := ⟨n.reload, rfl, .inl rfl⟩

theorem Node.ReloadOnly.marked (n : Node) : n.ReloadOnly n.marked := ⟨.marked, rfl, .inr rfl⟩

theorem Node.ReloadOnly.trans (n m k : Node) (h : n.ReloadOnly m) (g : m.ReloadOnly k) : n.ReloadOnly k := by
  obtain ⟨r, rfl, hr⟩ := h
  obtain ⟨q, rfl, hq⟩ := g
  refine ⟨q, rfl, ?_⟩
  rcases hq with rfl | rfl
  · exact hr
  · exact .inr rfl

theorem Node.ReloadOnly.addr (n m : Node) (h : n.ReloadOnly m) : m.addr = n.addr := by
  obtain ⟨r, rfl, -⟩ := h
  rfl

theorem Node.CacheOnly.refl (n : Node) : n.CacheOnly n := ⟨.inl rfl, .inl ⟨rfl, rfl⟩, rfl⟩

theorem Node.CacheOnly.trans (n m k : Node) (h : n.CacheOnly m) (g : m.CacheOnly k) : n.CacheOnly k where
  reload := by
    rcases g.reload with e | e
    · rw [e]; exact h.reload
    · exact .inr e
  mode := by
    rcases g.mode with ⟨e, e'⟩ | e
    · rw [e, e']; exact h.mode
    · exact .inr e
  rest := by
    have e := g.rest
    rw [h.rest] at e
    exact e

theorem Node.CacheOnly.addr (n m : Node) (h : n.CacheOnly m) : m.addr = n.addr := by rw [h.rest]

theorem Node.ReloadOnly.cacheOnly (n m : Node) (h : n.ReloadOnly m) : n.CacheOnly m := by
  obtain ⟨r, rfl, hr⟩ := h
  exact ⟨hr, .inl ⟨rfl, rfl⟩, rfl⟩

/-- Of the node table only reloads are marked. -/
abbrev State.ReloadOnly (s u : State) : Prop := s.Nodewise Node.ReloadOnly u

/-- Of the node table only caches are touched. -/
abbrev State.CacheOnly (s u : State) : Prop := s.Nodewise Node.CacheOnly u

theorem State.ReloadOnly.of_eq (h : u.nodes = s.nodes) : s.ReloadOnly u := Nodewise.of_eq Node.ReloadOnly.refl h

theorem State.ReloadOnly.refl (s : State) : s.ReloadOnly s := .of_eq rfl

theorem State.ReloadOnly.trans (h : s.ReloadOnly t) (g : t.ReloadOnly u) : s.ReloadOnly u := Nodewise.trans Node.ReloadOnly.trans h g

theorem State.ReloadOnly.cacheOnly (h : s.ReloadOnly u) : s.CacheOnly u := Nodewise.imp h Node.ReloadOnly.cacheOnly

theorem State.CacheOnly.of_eq (h : u.nodes = s.nodes) : s.CacheOnly u := Nodewise.of_eq Node.CacheOnly.refl h

theorem State.CacheOnly.refl (s : State) : s.CacheOnly s := .of_eq rfl

theorem State.CacheOnly.trans (h : s.CacheOnly t) (g : t.CacheOnly u) : s.CacheOnly u := Nodewise.trans Node.CacheOnly.trans h g

/-- The form in which the statements say it. -/
theorem State.CacheOnly.touched (h : s.CacheOnly u) : CachesTouched (fun _ => false) s u :=
  List.Forall₂.imp (fun _ _ h => ⟨h.reload, h.mode, h.rest⟩) h

/-! ### The acts on list and change journal -/

theorem State.afterDrop_reloadOnly (s : State) (d : Nat) (n : Node) : n.ReloadOnly (s.afterDrop d n) := by
  unfold State.afterDrop
  split
  · exact .refl n
  · split
    · split
      · exact .marked n
      · exact .refl n
    · exact .refl n
    · split
      · exact .marked n
      · exact .refl n
    · split
      · exact .marked n
      · exact .refl n

theorem State.dropOldest_reloadOnly (s : State) : s.ReloadOnly s.dropOldest := by
  unfold State.dropOldest
  split
  · exact .refl s
  · split
    · exact .refl s
    · exact Nodewise.of_map rfl (fun n => s.afterDrop_reloadOnly _ n)

theorem State.emit_reloadOnly (s : State) (b : ChangeBody) : s.ReloadOnly (s.emit b) :=
  s.dropOldest_reloadOnly.trans (.of_eq rfl)

theorem State.relaxCheck_reloadOnly (s before : State) : s.ReloadOnly (s.relaxCheck before) :=
  Nodewise.of_map rfl (fun n => by
    split
    · exact .marked n
    · exact .refl n)

theorem State.setFallback_cacheOnly (s : State) (a : Nat) : s.CacheOnly (s.setFallback a .restricted) := by
  have set : s.CacheOnly (s.modNode a (fun n => { n with fallback := .restricted, latchFallback := true })) :=
    Nodewise.modNode Node.CacheOnly.refl s a (fun _ => ⟨.inl rfl, .inr ⟨rfl, rfl⟩, rfl⟩)
  exact set.trans (.of_eq (State.raise_nodes _ _))

theorem State.restrictCheck_cacheOnly (s : State) (c : Option Nat) : s.CacheOnly (s.restrictCheck c) :=
  Nodewise.foldl Node.CacheOnly.refl Node.CacheOnly.trans (fun t a => by
    dsimp only
    split
    · split
      · exact t.setFallback_cacheOnly a
      · exact State.CacheOnly.refl t
    · exact State.CacheOnly.refl t) s.addrs s

theorem State.removeEntry_reloadOnly (s : State) (e : ListEntry) : s.ReloadOnly (s.removeEntry e) :=
  ((State.ReloadOnly.of_eq (u := s.setEntries (dropKey ListEntry.serial e.serial s.revoc.entries)) rfl).trans
    (State.emit_reloadOnly _ _)).trans (State.relaxCheck_reloadOnly _ _)

theorem State.pushEntry_cacheOnly (s : State) (x : Nat) (c : Option Nat) (r : ListReason) (t : Nat) :
    s.CacheOnly (s.pushEntry x c r t) := by
  let u := s.emit (.add x c)
  let v := u.setEntries (u.revoc.entries ++ [⟨x, c, r, t, u.revoc.gen⟩])
  have changed : s.CacheOnly v := (s.emit_reloadOnly (.add x c)).cacheOnly.trans (.of_eq rfl)
  exact changed.trans (v.restrictCheck_cacheOnly c)

theorem State.reformEntry_cacheOnly (s : State) (e : ListEntry) (c : Option Nat) (r : ListReason) :
    s.CacheOnly (s.reformEntry e c r) :=
  (State.CacheOnly.of_eq rfl).trans
    (State.pushEntry_cacheOnly (s.setEntries (dropKey ListEntry.serial e.serial s.revoc.entries)) e.serial c r e.retireAt)

theorem State.removeSerial_reloadOnly (s : State) (x : Nat) : s.ReloadOnly (s.removeSerial x) := by
  unfold State.removeSerial
  split
  · exact s.removeEntry_reloadOnly _
  · exact .refl s

theorem State.retireEntries_reloadOnly (s : State) : s.ReloadOnly s.retireEntries :=
  Nodewise.foldl Node.ReloadOnly.refl Node.ReloadOnly.trans State.removeEntry_reloadOnly _ s

theorem State.askRoom_reloadOnly (s : State) : s.ReloadOnly s.askRoom := by
  unfold State.askRoom
  split
  · exact .refl s
  · exact s.retireEntries_reloadOnly

end Caches

/-! ### Changes emitted -/

/-- The changes held of some emitted in turn: the last 512. -/
def lastChanges (cs : List Change) : List Change := cs.drop (cs.length - 512)

/-- Change bodies with the generations that follow `gen`. -/
def numberedChanges (gen : Nat) (bs : List ChangeBody) : List Change :=
  bs.zipIdx.map (fun p => ⟨wrap32 (gen + p.2 + 1), p.1⟩)

theorem numberedChanges_cons (gen : Nat) (b : ChangeBody) (bs : List ChangeBody) :
    numberedChanges gen (b :: bs) = ⟨wrap32 (gen + 1), b⟩ :: numberedChanges (wrap32 (gen + 1)) bs := by
  unfold numberedChanges
  rw [List.zipIdx_cons, List.map_cons]
  congr 1
  rw [List.zipIdx_succ, List.map_map]
  refine List.map_congr_left (fun p _ => ?_)
  simp only [Function.comp_apply, wrap32, Change.mk.injEq, and_true]
  omega

theorem lastChanges_append (a b : List Change) : lastChanges (lastChanges a ++ b) = lastChanges (a ++ b) := by
  unfold lastChanges
  by_cases h : a.length ≤ 512
  · simp [Nat.sub_eq_zero_of_le h]
  · have skip : a.drop (a.length - 512) ++ b = (a ++ b).drop (a.length - 512) := by
      rw [List.drop_append_of_le_length (by omega)]
    rw [skip, List.drop_drop]
    have same : a.length - 512 + ((a ++ b).drop (a.length - 512)).length - 512 = (a ++ b).length - 512 := by
      rw [List.length_drop, List.length_append]
      omega
    rw [← same, Nat.add_sub_assoc (by rw [List.length_drop, List.length_append]; omega)]

theorem lastChanges_of_le {cs : List Change} (h : cs.length ≤ 512) : lastChanges cs = cs := by
  simp [lastChanges, Nat.sub_eq_zero_of_le h]

theorem lastChanges_length (cs : List Change) : (lastChanges cs).length ≤ 512 := by
  simp only [lastChanges, List.length_drop]
  omega

theorem State.emit_gen (s : State) (b : ChangeBody) : (s.emit b).revoc.gen = wrap32 (s.revoc.gen + 1) := by
  unfold State.emit State.dropOldest
  split
  · rfl
  · split <;> rfl

theorem State.emit_changes {s : State} (held : s.revoc.changes.length ≤ 512) (b : ChangeBody) :
    (s.emit b).revoc.changes = lastChanges (s.revoc.changes ++ [⟨wrap32 (s.revoc.gen + 1), b⟩]) := by
  unfold State.emit State.dropOldest
  split
  · exact (lastChanges_of_le (by simp; omega)).symm
  · rename_i full
    have len : s.revoc.changes.length = 512 := by omega
    split
    · rename_i none
      rw [none] at len
      cases len
    · rename_i c cs some
      rw [some] at len ⊢
      have one : ((c :: cs) ++ [Change.mk (wrap32 (s.revoc.gen + 1)) b]).length - 512 = 1 := by
        rw [List.length_append, len, List.length_singleton]
      rw [lastChanges, one, List.cons_append, List.drop_one, List.tail_cons]

theorem State.emit_kept (s : State) (b : ChangeBody) : (s.emit b).revoc.rooms = s.revoc.rooms ∧
    (s.emit b).revoc.rekeys = s.revoc.rekeys := by
  unfold State.emit State.dropOldest
  split
  · exact ⟨rfl, rfl⟩
  · split <;> exact ⟨rfl, rfl⟩

/-! ### Entries removed in turn -/

/-- What the removal of some entries in their order leaves: the list less them, their REMOVE changes, the rest of the unit. -/
structure EntriesRemoved (es : List ListEntry) (s t : State) : Prop where
  entries : t.revoc.entries = s.revoc.entries.filter (fun f => !es.any (fun e => f.serial == e.serial))
  changes : s.revoc.changes.length ≤ 512 →
    t.revoc.changes = lastChanges (s.revoc.changes ++ numberedChanges s.revoc.gen (es.map (fun e => .remove e.serial e.cred)))
  gen : t.revoc.gen = if es = [] then s.revoc.gen else wrap32 (s.revoc.gen + es.length)
  rooms : t.revoc.rooms = s.revoc.rooms
  rekeys : t.revoc.rekeys = s.revoc.rekeys

theorem State.removeEntry_revoc (s : State) (e : ListEntry) : (s.removeEntry e).revoc =
    ((s.setEntries (dropKey ListEntry.serial e.serial s.revoc.entries)).emit (.remove e.serial e.cred)).revoc := by
  have relaxed : ∀ u v : State, (u.relaxCheck v).revoc = u.revoc := fun u v => by simp
  unfold State.removeEntry
  dsimp only
  rw [relaxed]

theorem EntriesRemoved.cons {s t : State} {e : ListEntry} {es : List ListEntry} (h : EntriesRemoved es (s.removeEntry e) t) :
    EntriesRemoved (e :: es) s t where
  entries := by
    rw [h.entries, State.removeEntry_entries, dropKey, List.filter_filter]
    refine List.filter_congr (fun f _ => ?_)
    rw [List.any_cons, Bool.not_or, Bool.and_comm]
    rfl
  changes held := by
    have first : (s.removeEntry e).revoc.changes
        = lastChanges (s.revoc.changes ++ [⟨wrap32 (s.revoc.gen + 1), .remove e.serial e.cred⟩]) := by
      rw [State.removeEntry_revoc, State.emit_changes (s := s.setEntries (dropKey ListEntry.serial e.serial s.revoc.entries)) held]
      rfl
    have gen : (s.removeEntry e).revoc.gen = wrap32 (s.revoc.gen + 1) := by
      rw [State.removeEntry_revoc, State.emit_gen]
      rfl
    rw [h.changes (by rw [first]; exact lastChanges_length _), first, lastChanges_append, gen, List.map_cons, numberedChanges_cons,
      List.append_assoc, List.singleton_append]
  gen := by
    have gen : (s.removeEntry e).revoc.gen = wrap32 (s.revoc.gen + 1) := by
      rw [State.removeEntry_revoc, State.emit_gen]
      rfl
    rw [h.gen, gen, if_neg (List.cons_ne_nil e es)]
    split
    · subst es
      rfl
    · simp only [wrap32, List.length_cons]
      omega
  rooms := by
    rw [h.rooms, State.removeEntry_revoc, (State.emit_kept _ _).1]
    rfl
  rekeys := by
    rw [h.rekeys, State.removeEntry_revoc, (State.emit_kept _ _).2]
    rfl

theorem EntriesRemoved.nil (s : State) : EntriesRemoved [] s s where
  entries := by simp
  changes held := by simp [numberedChanges, lastChanges_of_le held]
  gen := rfl
  rooms := rfl
  rekeys := rfl

theorem State.removeEntries (es : List ListEntry) (s : State) : EntriesRemoved es s (es.foldl (fun t e => t.removeEntry e) s) := by
  induction es generalizing s with
  | nil => exact .nil s
  | cons e es ih => exact (ih _).cons

/-- With serials held once, those removed are the ones whose retire_at has passed. -/
theorem past_removed {es : List ListEntry} (once : es.Pairwise (fun e f => e.serial ≠ f.serial)) (past : ListEntry → Bool) :
    es.filter (fun f => !(es.filter past).any (fun e => f.serial == e.serial)) = es.filter (fun f => !past f) := by
  refine List.filter_congr (fun f hf => congrArg (!·) ?_)
  rw [Bool.eq_iff_iff, List.any_eq_true]
  constructor
  · rintro ⟨e, he, same⟩
    obtain ⟨he, passed⟩ := List.mem_filter.mp he
    have distinct : (es.map ListEntry.serial).Nodup := List.pairwise_map.mpr once
    rwa [List.inj_on_of_nodup_map distinct hf he (by simpa using same)]
  · exact fun passed => ⟨f, List.mem_filter.mpr ⟨hf, passed⟩, by simp⟩

/-- Past entries removed, each with its REMOVE change (05:R94, R99). -/
theorem State.retireEntries_retired (s : State) : EntriesRetired s.now s s.retireEntries := by
  have removed := State.removeEntries (s.revoc.entries.filter (fun e => e.retireAt < s.now)) s
  have marked := s.retireEntries_reloadOnly
  refine ⟨fun none => ?_, fun once => ?_, fun once held => ⟨?_, fun some => ?_⟩, ⟨removed.rooms, removed.rekeys⟩,
    ⟨marked.addrs Node.ReloadOnly.addr, fun a n hn => ?_⟩⟩
  · have past : s.revoc.entries.filter (fun e => e.retireAt < s.now) = [] := by simpa using none
    rw [State.retireEntries, past]
    exact ⟨rfl, rfl⟩
  · refine removed.entries.trans ((past_removed once _).trans ?_)
    exact List.filter_congr (fun e _ => by rw [← decide_not]; exact decide_eq_decide.mpr Nat.not_lt)
  · refine (removed.changes held).trans ?_
    rw [lastChanges, numberedChanges, List.zipIdx_map, List.map_map, List.length_append]
    rfl
  · exact removed.gen.trans (if_neg some)
  · obtain ⟨m, hm, r, rfl, hr⟩ := marked.node? Node.ReloadOnly.addr hn
    exact ⟨r, hm, hr⟩

/-- Room asked for (05:R94): past entries leave a full list. -/
theorem State.askRoom_asked (s : State) : RoomAsked s s.askRoom where
  stands short := if_pos short
  full full := by
    rw [State.askRoom, if_neg (by omega)]
    exact s.retireEntries_retired
  rest := by
    unfold State.askRoom
    split
    · rfl
    · exact State.eq_of_fields

end Sys2Proof.Machine

/-! Every host command as the port takes it, with the refusals of its block: O17 and O18. -/

namespace Sys2Proof.Machine

open Sys2Proof

/-! ### Refusals leave the state -/

section Refusals
variable {asks : Bool} {s : State} {p : State × Reply}

/-- A block that refuses has changed nothing; one that asks for room leaves at most the removals of 05:R94 then. -/
def RefusedFrom (asks : Bool) (s : State) (p : State × Reply) : Prop :=
  p.2.status.success = false → p.1 = s ∨
    asks = true ∧ (p.2.status = .listFull ∨ p.2.status = .sequenceExhausted) ∧ p.1 = s.askRoom

theorem RefusedFrom.refuse (st : Status) : RefusedFrom asks s (refuse st s) := fun _ => .inl rfl

theorem RefusedFrom.stands (r : Reply) : RefusedFrom asks s (s, r) := fun _ => .inl rfl

theorem RefusedFrom.success {t : State} {r : Reply} (h : r.status.success = true) : RefusedFrom asks s (t, r) :=
  fun no => by simp_all

theorem RefusedFrom.ok {t : State} {c : List Byte} : RefusedFrom asks s (t, ⟨.ok, c⟩) := .success rfl

theorem RefusedFrom.clampedIf {t : State} {q : Prop} [Decidable q] {c : List Byte} :
    RefusedFrom asks s (t, ⟨if q then .clamped else .ok, c⟩) := .success (by dsimp only; split <;> rfl)

theorem RefusedFrom.listFull : RefusedFrom true s (Machine.refuse .listFull s.askRoom) := fun _ => .inr ⟨rfl, .inl rfl, rfl⟩

theorem RefusedFrom.exhausted : RefusedFrom true s (Machine.refuse .sequenceExhausted s.askRoom) :=
  fun _ => .inr ⟨rfl, .inr rfl, rfl⟩

theorem RefusedFrom.onCred {body : List Byte} {f : Cred → State → State × Reply} (h : ∀ c, RefusedFrom asks s (f c s)) :
    RefusedFrom asks s (s.onCred body f) := by
  unfold State.onCred
  split
  · exact .refuse _
  · split
    · exact .refuse _
    · exact h _

theorem RefusedFrom.onRoom {body : List Byte} {f : Room → State → State × Reply} (h : ∀ r, RefusedFrom asks s (f r s)) :
    RefusedFrom asks s (s.onRoom body f) := by
  unfold State.onRoom
  split
  · exact .refuse _
  · split
    · exact .refuse _
    · exact h _

theorem RefusedFrom.onFolio {body : List Byte} {f : Folio → State → State × Reply} (h : ∀ x, RefusedFrom asks s (f x s)) :
    RefusedFrom asks s (s.onFolio body f) := by
  unfold State.onFolio
  split
  · exact .refuse _
  · split
    · exact .refuse _
    · exact h _

/-! ### The blocks -/

theorem serveLoadSettings_refused (body : List Byte) (s : State) : RefusedFrom asks s (serveLoadSettings body s) := by
  have success (l : Loaded) : (loadStatus l).success = true := by
    unfold loadStatus
    split <;> rfl
  unfold serveLoadSettings
  split
  · exact .refuse _
  · split
    · exact .refuse _
    · exact .ok
    · unfold State.takeImage
      split
      · split
        · exact .refuse _
        · exact .success (success _)
      · exact .success (success _)

theorem serveReadSettings_refused (body : List Byte) (s : State) : RefusedFrom asks s (serveReadSettings body s) := by
  unfold serveReadSettings
  split
  · exact .refuse _
  · split
    · exact .refuse _
    · split
      · exact .refuse _
      · exact .ok

theorem serveStoreSettings_refused (s : State) : RefusedFrom asks s (serveStoreSettings s) := by
  unfold serveStoreSettings
  split
  · exact .refuse _
  · exact .ok

theorem serveLineControl_refused (body : List Byte) (s : State) : RefusedFrom asks s (serveLineControl body s) := by
  unfold serveLineControl
  split
  · exact .refuse _
  · unfold State.retrain
    split
    · exact .refuse _
    · exact .refuse _
    · exact .ok
  · exact .ok
  · unfold State.enableLine
    split
    · exact .ok
    · exact .refuse _

theorem serveLineStatus_refused (body : List Byte) (s : State) : RefusedFrom asks s (serveLineStatus body s) := by
  unfold serveLineStatus
  split
  · exact .refuse _
  · exact .ok

theorem serveEnrollNode_refused (body : List Byte) (s : State) : RefusedFrom asks s (serveEnrollNode body s) := by
  unfold serveEnrollNode
  split
  · exact .refuse _
  · split
    · exact .refuse _
    · exact .ok

theorem serveWithdrawNode_refused (body : List Byte) (s : State) : RefusedFrom asks s (serveWithdrawNode body s) := by
  unfold serveWithdrawNode
  split
  · exact .refuse _
  · split
    · exact .refuse _
    · split
      · exact .refuse _
      · exact .ok

theorem serveSetNode_refused (body : List Byte) (s : State) : RefusedFrom asks s (serveSetNode body s) := by
  unfold serveSetNode
  split
  · exact .refuse _
  · split
    · exact .refuse _
    · split
      · exact .refuse _
      · split
        · exact .refuse _
        · exact .ok

theorem serveNodeStatus_refused (body : List Byte) (s : State) : RefusedFrom asks s (serveNodeStatus body s) := by
  unfold serveNodeStatus
  dsimp only
  split
  · exact .refuse _
  · exact .ok

theorem serveReloadNode_refused (body : List Byte) (s : State) : RefusedFrom asks s (serveReloadNode body s) := by
  unfold serveReloadNode
  split
  · exact .refuse _
  · split
    · exact .refuse _
    · exact .ok

theorem serveOpenPoint_refused (body : List Byte) (s : State) : RefusedFrom asks s (serveOpenPoint body s) := by
  unfold serveOpenPoint
  split
  · exact .refuse _
  · split
    · exact .refuse _
    · split
      · exact .refuse _
      · split
        · exact .ok
        · split
          · exact .refuse _
          · exact .ok

theorem serveIssueCard_refused (body : List Byte) (s : State) : RefusedFrom asks s (serveIssueCard body s) := by
  unfold serveIssueCard
  split
  · exact .refuse _
  · split
    · exact .refuse _
    · split
      · exact .refuse _
      · split
        · exact .refuse _
        · exact .clampedIf

theorem serveConfirm_refused (c : Cred) (s : State) : RefusedFrom asks s (serveConfirm c s) := by
  unfold serveConfirm
  split
  · exact .ok
  · exact .refuse _

theorem serveCancel_refused (c : Cred) (s : State) : RefusedFrom asks s (serveCancel c s) := by
  unfold serveCancel
  split
  · exact .ok
  · exact .refuse _

theorem State.suspend_refused (c : Cred) (w : Bool) (s : State) : RefusedFrom true s (s.suspend c w) := by
  unfold State.suspend
  dsimp only
  split
  · exact .ok
  · exact .listFull

theorem serveSuspend_refused (c : Cred) (s : State) : RefusedFrom true s (serveSuspend c s) := by
  unfold serveSuspend
  split
  · exact s.suspend_refused c _
  · exact s.suspend_refused c _
  · exact .refuse _

theorem serveResume_refused (c : Cred) (s : State) : RefusedFrom asks s (serveResume c s) := by
  unfold serveResume
  split
  · exact .ok
  · exact .refuse _

theorem State.revokeCurrent_refused (c : Cred) (s : State) : RefusedFrom true s (s.revokeCurrent c) := by
  unfold State.revokeCurrent
  split
  · exact .ok
  · dsimp only
    split
    · exact .ok
    · unfold State.revokeByRekey
      split
      · split
        · exact .listFull
        · split
          · exact .exhausted
          · exact .success rfl
      · exact .listFull

theorem serveRevoke_refused (c : Cred) (s : State) : RefusedFrom true s (serveRevoke c s) := by
  unfold serveRevoke
  split
  · exact .ok
  · exact s.revokeCurrent_refused c
  · exact s.revokeCurrent_refused c
  · exact .refuse _

theorem serveRevokeSerial_refused (body : List Byte) (s : State) : RefusedFrom true s (serveRevokeSerial body s) := by
  unfold serveRevokeSerial
  dsimp only
  split
  · exact serveRevoke_refused _ s
  · split
    · exact .ok
    · split
      · exact .ok
      · exact .listFull

theorem serveCardStatus_refused (body : List Byte) (s : State) : RefusedFrom asks s (serveCardStatus body s) := by
  unfold serveCardStatus
  split
  · exact .refuse _
  · exact .ok
  · split
    · exact .ok
    · exact .refuse _

theorem serveRekey_refused (room : Room) (s : State) : RefusedFrom asks s (serveRekey room s) := by
  unfold serveRekey
  split
  · exact .refuse _
  · split
    · exact .refuse _
    · exact .ok

theorem serveCheckout_refused (room : Room) (s : State) : RefusedFrom asks s (serveCheckout room s) := by
  unfold serveCheckout
  split
  · exact .refuse _
  · exact .ok

theorem serveSetCompartment_refused (body : List Byte) (s : State) : RefusedFrom asks s (serveSetCompartment body s) := by
  unfold serveSetCompartment
  split
  · exact .refuse _
  · split
    · exact .refuse _
    · split
      · exact .refuse _
      · split
        · exact .refuse _
        · exact .clampedIf

theorem serveSetCeiling_refused (v : Nat) (f : Folio) (s : State) : RefusedFrom asks s (serveSetCeiling v f s) := by
  unfold serveSetCeiling
  split
  · exact .refuse _
  · exact .clampedIf

theorem serveSettleBody_refused (body : List Byte) (s : State) : RefusedFrom asks s (serveSettleBody body s) := by
  unfold serveSettleBody
  split
  · exact .refuse _
  · exact .onFolio (fun _ => .clampedIf)

theorem serveReadJournal_refused (body : List Byte) (s : State) : RefusedFrom asks s (serveReadJournal body s) := by
  unfold serveReadJournal
  split
  · exact .refuse _
  · exact .ok

theorem serveAckJournal_refused (body : List Byte) (s : State) : RefusedFrom asks s (serveAckJournal body s) := by
  refine .success ?_
  unfold Journal.acknowledged
  split
  · rfl
  · rfl
  · split <;> rfl
  · split <;> rfl

end Refusals

/-! ### The rows -/

/-- What the port makes of a host command row: the kind, tag and length of its frame, the lengths of Table 10.7, a block
that refuses as above. -/
structure CommandRow (i : Instr) (kind tag : Byte) (len : Nat) (lenOk : Nat → Bool) (serve : State → State × Reply)
    (rearms : List NoticeKind) : Prop where
  row : ∀ s, exec i s = .next (s.command kind tag len lenOk serve rearms)
  lengths : lenOk len = bodyLengthOk kind len
  refused : ∀ s, RefusedFrom (asksForRoom i) s (serve s)

/-- The length tests of the rows are those of Table 10.7. -/
theorem bodyLengthOk_eq (kind : Byte) (len : Nat) {lo hi : Nat} (h : bodyLengths.filter (fun r => r.1 == kind) = [(kind, lo, hi)]) :
    bodyLengthOk kind len = (decide (lo ≤ len) && decide (len ≤ hi)) := by
  have : bodyLengthOk kind len = (bodyLengths.filter (fun r => r.1 == kind)).any (fun r => decide (r.2.1 ≤ len) && decide (len ≤ r.2.2)) := by
    unfold bodyLengthOk
    rw [List.any_filter]
    congr 1
    funext r
    rw [Bool.and_assoc]
  rw [this, h]
  simp

theorem bodyLengthOk_exact (kind : Byte) (len : Nat) {n : Nat} (h : bodyLengths.filter (fun r => r.1 == kind) = [(kind, n, n)]) :
    (len == n) = bodyLengthOk kind len := by
  rw [bodyLengthOk_eq kind len h, Bool.eq_iff_iff]
  simp only [beq_iff_eq, Bool.and_eq_true, decide_eq_true_eq]
  omega

/-- A command carried in a whole body. -/
theorem CommandRow.body {i : Instr} {kind tag : Byte} {body : List Byte} {lenOk : Nat → Bool} {serve : State → State × Reply}
    {rearms : List NoticeKind} (row : ∀ s, exec i s = .next (s.command kind tag body.length lenOk serve rearms))
    (refused : ∀ s, RefusedFrom (asksForRoom i) s (serve s)) (lengths : lenOk body.length = bodyLengthOk kind body.length) :
    ∃ lenOk serve rearms, CommandRow i kind tag body.length lenOk serve rearms := ⟨_, _, _, row, lengths, refused⟩

/-- A command whose row carries the body less its end. -/
theorem CommandRow.head {i : Instr} {kind tag : Byte} {head rest : List Byte} {k : Nat} {lenOk : Nat → Bool}
    {serve : State → State × Reply} {rearms : List NoticeKind}
    (row : ∀ s, exec i s = .next (s.command kind tag (head ++ rest).length lenOk serve rearms)) (size : rest.length = k)
    (refused : ∀ s, RefusedFrom (asksForRoom i) s (serve s)) (lengths : lenOk (head.length + k) = bodyLengthOk kind (head.length + k)) :
    ∃ lenOk serve rearms, CommandRow i kind tag (head.length + k) lenOk serve rearms :=
  ⟨_, _, _, fun s => by rw [row, List.length_append, size], lengths, refused⟩

/-- Every host command is such a row. -/
theorem exists_commandRow {i : Instr} {kind tag : Byte} {len : Nat} (h : frameOf i = some (kind, tag, len)) :
    ∃ lenOk serve rearms, CommandRow i kind tag len lenOk serve rearms := by
  cases i with
  | ping _ body =>
    cases h
    have lengths := bodyLengthOk_eq 0x01 body.length (lo := 0) (hi := 16) rfl
    exact CommandRow.body (fun _ => rfl) (fun s => .stands _) (by simpa using lengths.symm)
  | getStatus _ body =>
    cases h
    exact CommandRow.body (fun _ => rfl) (fun s => .stands _) (bodyLengthOk_exact _ _ rfl)
  | loadSettings _ body =>
    cases h
    exact CommandRow.body (fun _ => rfl) (serveLoadSettings_refused body) (bodyLengthOk_eq 0x03 _ rfl).symm
  | readSettings _ body =>
    cases h
    exact CommandRow.body (fun _ => rfl) (serveReadSettings_refused body) (bodyLengthOk_exact _ _ rfl)
  | storeSettings _ body =>
    cases h
    exact CommandRow.body (fun _ => rfl) (serveStoreSettings_refused) (bodyLengthOk_exact _ _ rfl)
  | restart _ body =>
    cases h
    exact CommandRow.body (fun _ => rfl) (fun s => .stands _) (bodyLengthOk_exact _ _ rfl)
  | setTime _ body =>
    cases h
    exact CommandRow.body (fun _ => rfl) (fun s => .ok) (bodyLengthOk_exact _ _ rfl)
  | lineRetrain _ body =>
    cases h
    exact CommandRow.body (fun _ => rfl) (serveLineControl_refused body) (bodyLengthOk_exact _ _ rfl)
  | lineDisable _ head =>
    cases h
    exact CommandRow.head (fun _ => rfl) rfl (serveLineControl_refused (head ++ [1])) (bodyLengthOk_exact _ _ rfl)
  | lineEnable _ head =>
    cases h
    exact CommandRow.head (fun _ => rfl) rfl (serveLineControl_refused (head ++ [2])) (bodyLengthOk_exact _ _ rfl)
  | lineStatus _ body =>
    cases h
    exact CommandRow.body (fun _ => rfl) (serveLineStatus_refused body) (bodyLengthOk_exact _ _ rfl)
  | enrollNode _ body =>
    cases h
    exact CommandRow.body (fun _ => rfl) (serveEnrollNode_refused body) (bodyLengthOk_exact _ _ rfl)
  | withdrawNode _ body =>
    cases h
    exact CommandRow.body (fun _ => rfl) (serveWithdrawNode_refused body) (bodyLengthOk_exact _ _ rfl)
  | setNode _ body =>
    cases h
    exact CommandRow.body (fun _ => rfl) (serveSetNode_refused body) (bodyLengthOk_exact _ _ rfl)
  | setNodeDisable _ head =>
    cases h
    exact CommandRow.head (fun _ => rfl) rfl (serveSetNode_refused (head ++ [1, 0])) (bodyLengthOk_exact _ _ rfl)
  | setNodeEnable _ head =>
    cases h
    exact CommandRow.head (fun _ => rfl) rfl (serveSetNode_refused (head ++ [1, 1])) (bodyLengthOk_exact _ _ rfl)
  | nodeStatus _ body =>
    cases h
    exact CommandRow.body (fun _ => rfl) (serveNodeStatus_refused body) (bodyLengthOk_exact _ _ rfl)
  | reloadNode _ body =>
    cases h
    exact CommandRow.body (fun _ => rfl) (serveReloadNode_refused body) (bodyLengthOk_exact _ _ rfl)
  | issueCard _ body =>
    cases h
    exact CommandRow.body (fun _ => rfl) (serveIssueCard_refused body) (bodyLengthOk_exact _ _ rfl)
  | confirmCard _ body =>
    cases h
    exact CommandRow.body (fun _ => rfl) (fun s => .onCred (fun c => serveConfirm_refused c s)) (bodyLengthOk_exact _ _ rfl)
  | cancelIssue _ body =>
    cases h
    exact CommandRow.body (fun _ => rfl) (fun s => .onCred (fun c => serveCancel_refused c s)) (bodyLengthOk_exact _ _ rfl)
  | suspendCard _ body =>
    cases h
    exact CommandRow.body (fun _ => rfl) (fun s => .onCred (fun c => serveSuspend_refused c s)) (bodyLengthOk_exact _ _ rfl)
  | resumeCard _ body =>
    cases h
    exact CommandRow.body (fun _ => rfl) (fun s => .onCred (fun c => serveResume_refused c s)) (bodyLengthOk_exact _ _ rfl)
  | revokeCard _ body =>
    cases h
    exact CommandRow.body (fun _ => rfl) (fun s => .onCred (fun c => serveRevoke_refused c s)) (bodyLengthOk_exact _ _ rfl)
  | revokeSerial _ body =>
    cases h
    exact CommandRow.body (fun _ => rfl) (serveRevokeSerial_refused body) (bodyLengthOk_exact _ _ rfl)
  | cardStatus _ body =>
    cases h
    exact CommandRow.body (fun _ => rfl) (serveCardStatus_refused body) (bodyLengthOk_exact _ _ rfl)
  | purgeRetired _ body =>
    cases h
    exact CommandRow.body (fun _ => rfl) (fun s => .ok) (bodyLengthOk_exact _ _ rfl)
  | rekeyRoom _ body =>
    cases h
    exact CommandRow.body (fun _ => rfl) (fun s => .onRoom (fun r => serveRekey_refused r s)) (bodyLengthOk_exact _ _ rfl)
  | checkout _ body =>
    cases h
    exact CommandRow.body (fun _ => rfl) (fun s => .onRoom (fun r => serveCheckout_refused r s)) (bodyLengthOk_exact _ _ rfl)
  | resequence _ body =>
    cases h
    exact CommandRow.body (fun _ => rfl) (fun s => .onRoom (fun _ => .ok)) (bodyLengthOk_exact _ _ rfl)
  | openPoint _ body =>
    cases h
    exact CommandRow.body (fun _ => rfl) (serveOpenPoint_refused body) (bodyLengthOk_exact _ _ rfl)
  | setCompartment _ body =>
    cases h
    exact CommandRow.body (fun _ => rfl) (serveSetCompartment_refused body) (bodyLengthOk_exact _ _ rfl)
  | setCeiling _ body =>
    cases h
    exact CommandRow.body (fun _ => rfl) (fun s => .onFolio (fun f => serveSetCeiling_refused _ f s)) (bodyLengthOk_exact _ _ rfl)
  | settle _ body =>
    cases h
    exact CommandRow.body (fun _ => rfl) (serveSettleBody_refused body) (bodyLengthOk_exact _ _ rfl)
  | folioStatus _ body =>
    cases h
    exact CommandRow.body (fun _ => rfl) (fun s => .onFolio (fun _ => .stands _)) (bodyLengthOk_exact _ _ rfl)
  | readJournal _ body =>
    cases h
    exact CommandRow.body (fun _ => rfl) (serveReadJournal_refused body) (bodyLengthOk_exact _ _ rfl)
  | ackJournal _ body =>
    cases h
    exact CommandRow.body (fun _ => rfl) (serveAckJournal_refused body) (bodyLengthOk_exact _ _ rfl)
  | _ => cases h

/-- Settles O17: each row goes through the port's dispatch, with the lengths of Table 10.7. -/
theorem portDispatchesInOrder : Obligations.PortDispatchesInOrder := by
  unfold Obligations.PortDispatchesInOrder
  intro i kind tag len s h
  obtain ⟨lenOk, serve, rearms, command⟩ := exists_commandRow h
  rw [command.row]
  refine ⟨fun off => ?_, fun on busy => ?_, fun on idle unserved => ?_, fun _ idle served misfit => ?_⟩
  · rw [State.command_of_lineOff tag _ _ off]
  · rw [State.command_overlap s _ _ _ _ _ _ on (Option.isSome_iff_ne_none.mpr busy)]
    rfl
  · simp [State.command, on, idle, unserved]
  · rw [State.command_badLength_of_servedIn tag _ _ served idle (command.lengths.trans misfit)]

/-- Settles O18: a refusing block leaves the state, or the removals of 05:R94, and re-arms nothing. -/
theorem refusedCommandsChangeNothing : Obligations.RefusedCommandsChangeNothing := by
  unfold Obligations.RefusedCommandsChangeNothing
  intro i kind tag len s h takes fits
  obtain ⟨lenOk, serve, rearms, command⟩ := exists_commandRow h
  refine ⟨(serve s).1.rearmIf (serve s).2.status.success rearms, (serve s).2, ?_, fun refused => ?_⟩
  · rw [command.row, State.command_served s _ _ _ _ _ _ takes (command.lengths.trans fits)]
  · have still : (serve s).1.rearmIf (serve s).2.status.success rearms = (serve s).1 := by
      rw [refused]
      rfl
    rw [still]
    rcases command.refused s refused with stands | ⟨asks, status, asked⟩
    · exact .inl stands
    · exact .inr ⟨asks, status, asked, by rw [asked]; exact s.askRoom_asked⟩

end Sys2Proof.Machine

/-! Supply, pin, cell and the end of a frame: O21 to O24. -/

namespace Sys2Proof.Machine

open Sys2Proof

section Starts
variable {s t : State}

/-! ### The discard of volatile state (11:R192) -/

theorem Node.volatileLost_kept (n : Node) : n.volatileLost.addr = n.addr ∧ n.volatileLost.copy = n.copy ∧
    n.volatileLost.fallback = n.fallback ∧ n.volatileLost.comps = n.comps ∧ n.volatileLost.session = n.session ∧
    n.volatileLost.cursor = ⟨n.cursor.acked, n.cursor.acked, 0⟩ ∧ n.volatileLost.clock = { n.clock with span := none } ∧
    n.volatileLost.reload = (if n.reload.underWay then .marked else n.reload) :=
  ⟨rfl, rfl, rfl, rfl, rfl, rfl, rfl, rfl⟩

/-- What stands after the discard, whatever becomes of the part state, the supply and the journal. -/
theorem State.discardVolatile_gone (s t : State) (loader : t.loader = s.loader.volatileLost := by rfl)
    (time : t.time = s.discardVolatile.time := by rfl) (lines : t.lines = LineEngine.initial := by rfl)
    (inviter : t.inviter = Inviter.initial := by rfl) (nodes : t.nodes = s.nodes.map Node.volatileLost := by rfl)
    (store : t.store = s.store := by rfl) (revoc : t.revoc = { s.revoc with rekeys := 0 } := by rfl)
    (minibar : t.minibar = s.minibar := by rfl) (port : t.port = s.port.stopped := by rfl) : VolatileGone s t where
  lines := lines
  inviter := inviter
  time := time
  store := store
  minibar := minibar
  revoc := revoc
  port := port
  staging := by rw [loader]; rfl
  inFlight := by rw [loader]; rfl
  lastStore := by rw [loader]; rfl
  addrs := by
    rw [State.addrs, nodes, List.map_map]
    rfl
  gone n hn := by
    rw [nodes] at hn
    obtain ⟨m, -, rfl⟩ := List.mem_map.mp hn
    refine ⟨rfl, rfl, rfl, rfl, rfl, rfl, rfl, rfl, rfl, rfl, rfl, rfl, rfl, rfl, ?_⟩
    simp only [Node.volatileLost]
    cases h : m.reload <;> rfl
  kept n hn := ⟨n.volatileLost, by rw [nodes]; exact List.mem_map_of_mem hn, n.volatileLost_kept⟩

/-! ### The port at a start -/

theorem Port.stopped_of_notices {p q : Port} (h : Port.noticesOnly p q) : q.stopped = p.stopped := by
  rw [h]
  rfl

theorem State.append_noticesOnly (s : State) (e : Entry) : Port.noticesOnly s.port (s.append e).port :=
  Evolves.noticesOnly (a := ⟨False, False, False, False⟩) id (.append s e)

theorem State.append_stopped (s : State) (e : Entry) : (s.append e).port.stopped = s.port.stopped :=
  Port.stopped_of_notices (s.append_noticesOnly e)

/-- LOADING entered with a record written: the port is stopped, its rate that of the straps. -/
theorem State.enterLoading_append (s : State) (kind : StartKind) (e : Entry) (now : e.secs = none) :
    (s.append e).enterLoading kind = { s with
      part := .loading
      supply := { s.supply with startKind := kind, cellLow := s.supply.cellBelow, restoreWaiting := false }
      journal := s.journal.push s.now e
      port := { s.port.stopped with rate := rateOf s.port.strapHigh1 s.port.strapHigh0 } } := by
  have straps : (s.append e).port.strapHigh1 = s.port.strapHigh1 ∧ (s.append e).port.strapHigh0 = s.port.strapHigh0 := by
    rw [s.append_noticesOnly e]
    exact ⟨rfl, rfl⟩
  have journal : (s.append e).journal = s.journal.push s.now e := by rw [State.append_journal, now]; rfl
  refine State.eq_of_fields ?_ rfl ?_ ?_ ?_ ?_ ?_ ?_ ?_ ?_ ?_ journal ?_ ?_
  case refine_11 =>
    simp only [State.enterLoading]
    rw [State.append_stopped, straps.1, straps.2]
  all_goals simp [State.enterLoading]

/-- A warm start. -/
theorem State.restore_warm (valid : s.supply.checkValid = true) : s.restore = { s with
    part := .loading
    supply := { s.supply with startKind := .warm, cellLow := s.supply.cellBelow, restoreWaiting := false }
    journal := s.journal.push s.now { kind := .supplyRestored, value1 := some (sub32 s.now s.supply.outageStart) }
    port := { s.port.stopped with rate := rateOf s.port.strapHigh1 s.port.strapHigh0 } } := by
  rw [State.restore, if_pos valid]
  exact s.enterLoading_append .warm _ rfl

/-- A RESTART or the release of the pin, the check word valid. -/
theorem State.restartEffect_warm (valid : s.supply.checkValid = true) (kind : StartKind) (d : Detail) :
    (s.restartEffect kind d).part = .loading ∧
      VolatileGone s { s.restartEffect kind d with port := { (s.restartEffect kind d).port with rate := s.port.rate } } ∧
      (s.restartEffect kind d).journal = s.journal.push s.now { kind := .restarted, detail1 := some d } ∧
      (s.restartEffect kind d).supply =
        { s.supply with startKind := kind, cellLow := s.supply.cellBelow, restoreWaiting := false } ∧
      (s.restartEffect kind d).port.rate = rateOf s.port.strapHigh1 s.port.strapHigh0 ∧
      (s.restartEffect kind d).pending = s.pending ∧ (s.restartEffect kind d).choices = s.choices := by
  rw [State.restartEffect, if_pos valid, State.enterLoading_append _ _ _ rfl]
  exact ⟨rfl, s.discardVolatile_gone _, rfl, rfl, rfl, rfl, rfl⟩

/-- A cold start reads the queue, the levels of the pin, the cell and the straps, and the model's choices alone. -/
theorem State.coldStart_eq (s : State) : s.coldStart = { State.reset with
    pending := s.pending
    supply := { State.reset.supply with cellLow := s.supply.cellBelow, cellBelow := s.supply.cellBelow, pinLow := s.supply.pinLow }
    port := { State.reset.port with
      strapHigh0 := s.port.strapHigh0
      strapHigh1 := s.port.strapHigh1
      rate := rateOf s.port.strapHigh1 s.port.strapHigh0 }
    choices := s.choices } := rfl

theorem State.restartEffect_cold (invalid : s.supply.checkValid = false) (kind : StartKind) (d : Detail) :
    s.restartEffect kind d = s.coldStart := if_neg (by simp [invalid])

theorem State.restore_cold (invalid : s.supply.checkValid = false) : s.restore = s.coldStart := if_neg (by simp [invalid])

/-! ### The rows -/

theorem exec_supplyRestore (retention : s.part = .retention) (pin : s.supply.pinLow = false) :
    exec .supplyRestore s = .next s.restore := by
  change Host.Outcome.next _ = _
  rw [retention, pin]
  rfl

theorem exec_pinRelease_held (held : s.part = .held) : exec .resetPinRelease s
    = .next (State.restartEffect .resetPin .resetPin { s with supply := { s.supply with pinLow := false } }) := by
  change Host.Outcome.next _ = _
  rw [held]

theorem exec_pinRelease_waiting (retention : s.part = .retention) (waits : s.supply.restoreWaiting = true) :
    exec .resetPinRelease s = .next (State.restore { s with supply := { s.supply with pinLow := false } }) := by
  change Host.Outcome.next _ = _
  rw [retention, waits]
  rfl

theorem Port.nextFrame_eq (p : Port) : p.nextFrame = { p with sending := p.waiting.head?, waiting := p.waiting.tail } := by
  unfold Port.nextFrame
  split
  · rename_i h
    simp [h]
  · rename_i f fs h
    rw [h]
    rfl

theorem exec_frameSent_reply {f : OutFrame} (sends : s.port.sending = some f) (reply : f.isReply = true) :
    exec .frameSent s = .next (if s.port.service.any (·.restarts) then
      State.restartEffect .restart .restartCommand { s with port := s.port.nextFrame.served }
      else { s with port := s.port.nextFrame.served }) := by
  change Host.Outcome.next _ = _
  rw [sends]
  dsimp only
  rw [reply]
  rfl

end Starts

/-- Settles O21: the next frame, the end of service and the effect of a RESTART. -/
theorem frameSentEndsServiceAndRestarts : Obligations.FrameSentEndsServiceAndRestarts := by
  unfold Obligations.FrameSentEndsServiceAndRestarts
  intro s
  refine ⟨fun idle => ?_, fun f sends other => ?_, fun f sends reply stays => ?_, fun f sends reply restarts valid => ?_⟩
  · change Host.Outcome.next _ = _
    rw [idle]
  · change Host.Outcome.next _ = _
    rw [sends]
    dsimp only
    rw [other, Port.nextFrame_eq]
    rfl
  · rw [exec_frameSent_reply sends reply, stays, Port.nextFrame_eq]
    rfl
  · rw [exec_frameSent_reply sends reply, if_pos restarts]
    refine ⟨_, rfl, ?_⟩
    have effect := State.restartEffect_warm (s := { s with port := s.port.nextFrame.served }) valid .restart .restartCommand
    rw [Port.nextFrame_eq] at effect ⊢
    obtain ⟨part, gone, rest⟩ := effect
    exact ⟨part, { gone with }, rest⟩

/-- Settles O22: each row by its cases on the part state. -/
theorem supplyLossPinAndCellEvents : Obligations.SupplyLossPinAndCellEvents := by
  unfold Obligations.SupplyLossPinAndCellEvents
  intro s
  refine ⟨⟨_, rfl, s.discardVolatile_gone _, rfl, rfl, rfl, rfl, rfl⟩, fun notRetention notHeld => ?_, fun off => ?_, fun retention => ?_,
    fun other => ?_, rfl⟩
  · have low : exec .resetPinLow s
        = .next { s.discardVolatile with part := .held, supply := { s.supply with pinLow := true } } := by
      change Host.Outcome.next _ = _
      cases h : s.part with
      | retention => exact absurd h notRetention
      | held => exact absurd h notHeld
      | loading | unconfigured | running => rfl
    exact ⟨_, low, s.discardVolatile_gone _, rfl, rfl, rfl, rfl, rfl⟩
  · change Host.Outcome.next _ = _
    rcases off with h | h <;> rw [h]
  · change Host.Outcome.next _ = _
    rw [retention]
  · change Host.Outcome.next _ = _
    cases h : s.part with
    | retention => exact absurd h other
    | held | loading | unconfigured | running => rfl

/-- Settles O23: a start with a valid check word. -/
theorem warmStartsKeepTheRetentionDomain : Obligations.WarmStartsKeepTheRetentionDomain := by
  unfold Obligations.WarmStartsKeepTheRetentionDomain
  intro s valid
  refine ⟨fun retention pin => ?_, fun retention pin => ?_, fun retention waits => ?_, fun held => ?_⟩
  · rw [exec_supplyRestore retention pin, State.restore_warm valid]
  · change Host.Outcome.next _ = _
    rw [retention, pin]
    rfl
  · rw [exec_pinRelease_waiting retention waits, State.restore_warm (by exact valid)]
    rfl
  · rw [exec_pinRelease_held held]
    refine ⟨_, rfl, ?_⟩
    have effect := State.restartEffect_warm (s := { s with supply := { s.supply with pinLow := false } }) valid .resetPin .resetPin
    obtain ⟨part, gone, rest⟩ := effect
    exact ⟨part, { gone with }, rest⟩

/-- Settles O24: every start with an invalid check word is the cold start, which reads the queue, the levels and the choices. -/
theorem everyColdStartGivesTheResetState : Obligations.EveryColdStartGivesTheResetState := by
  unfold Obligations.EveryColdStartGivesTheResetState
  intro s invalid cold
  refine ⟨fun retention pin => ?_, fun released => ?_, fun f sends reply restarts => ?_⟩
  · rw [exec_supplyRestore retention pin, State.restore_cold invalid, State.coldStart_eq, pin]
  · rcases released with held | ⟨retention, waits⟩
    · rw [exec_pinRelease_held held, State.restartEffect_cold (by exact invalid), State.coldStart_eq]
    · rw [exec_pinRelease_waiting retention waits, State.restore_cold (by exact invalid), State.coldStart_eq]
  · rw [exec_frameSent_reply sends reply, if_pos restarts, State.restartEffect_cold (by exact invalid), Port.nextFrame_eq, State.coldStart_eq]
    rfl

end Sys2Proof.Machine

/-! One wing tick and the frames made ready: O2, O14 and O20. -/

namespace Sys2Proof.Machine

open Sys2Proof

section Ticks
variable {s : State}

/-! ### One wing tick (03:R43) -/

/-- With nothing begun, owed or overdue nothing is finished at the present tick. -/
theorem State.finishTick_none (begun : s.time.begun = false) (owed : s.time.owed = 0) (overdue : s.roundOverdue = false) :
    s.finishTick = s := by
  have second : s.finishSecond = s := by
    unfold State.finishSecond
    split
    · exact if_neg (by simp [begun])
    · rfl
  have round : s.finishRound = s := by
    unfold State.finishRound
    split
    · exact if_neg (by simp [overdue])
    · rfl
  rw [State.finishTick, second, State.takeOwed_none owed, round]

/-- The tick counter raised by one, the receive timeout measured. -/
def State.nextTick (s : State) : State :=
  State.quietFor 1 { s with time := { s.time with tick := (s.time.tick + 1) % 281474976710656 } }

theorem State.nextTick_time (s : State) : s.nextTick.time = { s.time with tick := (s.time.tick + 1) % 281474976710656 } := by
  simp [State.nextTick]

theorem State.nextTick_rest (s : State) : s.nextTick = { s with time := s.nextTick.time, port := s.nextTick.port } := by
  refine State.eq_of_fields ?_ ?_ ?_ ?_ ?_ ?_ ?_ ?_ ?_ ?_ ?_ ?_ ?_ ?_ <;> simp [State.nextTick]

/-- The port at a tick without a byte (10:R182). -/
theorem State.nextTick_port (s : State) :
    (s.port.rx = .hunting ∨ s.lineOff = true → s.nextTick.port = s.port) ∧
    (s.port.rx ≠ .hunting → s.lineOff = false →
      (s.port.silence + 1 < 1639 → s.nextTick.port = { s.port with silence := s.port.silence + 1 }) ∧
      (1639 ≤ s.port.silence + 1 → s.nextTick.port
        = { s.port with rx := .hunting, silence := 0 }.rejection .timeout s.port.rx.about)) := by
  let u : State := { s with time := { s.time with tick := (s.time.tick + 1) % 281474976710656 } }
  have same : u.lineOff = s.lineOff := rfl
  constructor
  · intro quiet
    have : (u.port.rx.isHunting || u.lineOff) = true := by
      rcases quiet with h | h
      · rw [show u.port.rx = .hunting from h]; rfl
      · rw [same, h, Bool.or_true]
    have stands : u.quietFor 1 = u := if_pos this
    exact (congrArg State.port stands).trans rfl
  · intro inFrame on
    have assembling : (u.port.rx.isHunting || u.lineOff) = false := by
      rw [same, on, Rx.isHunting_eq inFrame]; rfl
    obtain ⟨h, -⟩ | ⟨-, -, short, e⟩ | ⟨-, -, long, e⟩ := u.quietFor_cases 1
    · rw [← Bool.or_eq_true, assembling] at h
      cases h
    · exact ⟨fun _ => congrArg State.port e, fun long => absurd short (Nat.not_lt.mpr long)⟩
    · exact ⟨fun short => absurd short (Nat.not_lt.mpr long), fun _ => congrArg State.port e⟩

theorem State.boundary_time (s : State) : s.boundary.time = { s.time with secs := wrap32 (s.time.secs + 1) } := by
  simp [State.boundary, State.secondRise]

/-- A round start at its mark changes nothing of the time but the mark. -/
theorem State.roundStart_time (mark : s.time.mark = some s.time.tick) :
    ∃ m : Option Nat, s.roundStart.time = { s.time with mark := m } := by
  have still : s.toMark.time = s.time := by
    unfold State.toMark
    rw [mark]
    dsimp only
    split
    · simp [boundariesTo]
    · rfl
  have set (u : State) : u.newRound.time
      = { u.segmentFor.1.time with mark := some ((u.time.tick + u.settings.roundLength) % 281474976710656) } := rfl
  refine ⟨some ((s.time.tick + s.beforeNewRound.settings.roundLength) % 281474976710656), ?_⟩
  rw [State.roundStart_eq, set, State.segmentFor_time, State.beforeNewRound_time, still]

/-- The tick on a second boundary. -/
def State.onBoundary (s : State) : Bool := s.time.tick % 32768 == 0

/-- The tick on the mark, in RUNNING. -/
def State.onMark (s : State) : Bool := s.part == .running && s.time.mark == some s.time.tick

/-- A step on an empty queue with nothing begun, owed or overdue. -/
theorem State.tickOnce_of (begun : s.time.begun = false) (owed : s.time.owed = 0) (overdue : s.roundOverdue = false) :
    s.tickOnce = match s.nextTick.onBoundary, s.nextTick.onMark with
      | false, false => s.nextTick
      | true, false => s.nextTick.boundary
      | false, true => s.nextTick.roundStart
      | true, true => if s.nextTick.tie then s.nextTick.chose.boundary.roundStart else s.nextTick.chose.roundStart.boundary := by
  unfold State.tickOnce
  rw [State.finishTick_none begun owed overdue]
  rfl

theorem State.onMark_iff (s : State) : s.onMark = true ↔ s.part = .running ∧ s.time.mark = some s.time.tick := by
  simp [State.onMark]

/-- The time after a step on an empty queue. -/
theorem State.tickOnce_time (begun : s.time.begun = false) (owed : s.time.owed = 0) (overdue : s.roundOverdue = false) :
    ∃ m : Option Nat, s.tickOnce.time = { s.nextTick.time with
      secs := if s.nextTick.onBoundary then wrap32 (s.time.secs + 1) else s.time.secs, mark := m } := by
  have secs : s.nextTick.time.secs = s.time.secs := by rw [State.nextTick_time]
  rw [State.tickOnce_of begun owed overdue, ← secs]
  generalize s.nextTick = u
  split
  · rename_i boundary _
    exact ⟨u.time.mark, by rw [boundary]; rfl⟩
  · rename_i boundary _
    exact ⟨u.time.mark, by rw [boundary]; exact u.boundary_time⟩
  · rename_i boundary mark
    obtain ⟨m, e⟩ := State.roundStart_time (u.onMark_iff.mp mark).2
    exact ⟨m, by rw [boundary]; exact e⟩
  · rename_i boundary mark
    have mark := (u.onMark_iff.mp mark).2
    rw [boundary]
    split
    · have first : u.chose.boundary.time = { u.time with secs := wrap32 (u.time.secs + 1) } := by
        rw [State.boundary_time, State.chose_time]
      obtain ⟨m, e⟩ := State.roundStart_time (s := u.chose.boundary) (by rw [first]; exact mark)
      exact ⟨m, by rw [e, first]; rfl⟩
    · obtain ⟨m, e⟩ := State.roundStart_time (s := u.chose) (by rw [State.chose_time]; exact mark)
      exact ⟨m, by rw [State.boundary_time, e, State.chose_time]; rfl⟩

theorem State.tickOnce_pending (begun : s.time.begun = false) (owed : s.time.owed = 0) (overdue : s.roundOverdue = false) :
    s.tickOnce.pending = s.pending := by
  have pending : s.nextTick.pending = s.pending := by simp [State.nextTick]
  rw [State.tickOnce_of begun owed overdue, ← pending]
  generalize s.nextTick = u
  have boundary (v : State) : v.boundary.pending = v.pending := by simp [State.boundary, State.secondRise]
  split
  · rfl
  · exact boundary u
  · simp
  · split <;> simp [boundary]

/-- Outside RUNNING a second boundary raises wing seconds alone. -/
theorem State.boundary_idle (idle : s.part ≠ .running) : s.boundary = s.secondRise := by
  unfold State.boundary State.secondWork
  split
  · exact absurd ‹_› idle
  · rfl

end Ticks

/-- Settles O2: what a tick does beside the counter is decided by the boundary and the mark. -/
theorem emptyQueuePassesOneTick : Obligations.EmptyQueuePassesOneTick := by
  unfold Obligations.EmptyQueuePassesOneTick
  intro s empty begun owed overdue
  obtain ⟨m, time⟩ := State.tickOnce_time begun owed overdue
  have part : s.nextTick.part = s.part := by rw [State.nextTick_rest]
  have tick : s.tickOnce.time.tick = (s.time.tick + 1) % 281474976710656 := by rw [time, State.nextTick_time]
  have boundary : s.nextTick.onBoundary = true ↔ s.tickOnce.time.tick % 32768 = 0 := by
    rw [tick, State.onBoundary, State.nextTick_time, beq_iff_eq]
  refine ⟨s.tickOnce, ?_, ?_, tick, ?_, ?_, ?_, fun idle => ?_, fun within still => ?_⟩
  · rw [step, empty]
  · rw [State.tickOnce_pending begun owed overdue, empty]
  · rw [time]
    dsimp only
    split
    · rename_i h
      rw [time] at boundary
      rw [if_pos (boundary.mp h)]
      rfl
    · rename_i h
      rw [time] at boundary
      rw [if_neg (fun e => h (boundary.mpr e))]
  · rw [time, State.nextTick_time]
  · rw [time, State.nextTick_time]
  · have off : s.nextTick.onMark = false := by
      rw [Bool.eq_false_iff, Ne, State.onMark_iff, part]
      exact fun h => idle h.1
    rw [State.tickOnce_of begun owed overdue, off]
    cases s.nextTick.onBoundary with
    | false =>
      dsimp only
      rw [State.nextTick_time]
      exact s.nextTick_rest.trans (by rw [State.nextTick_time])
    | true =>
      dsimp only
      rw [State.boundary_idle (part ▸ idle)]
      have rest := s.nextTick_rest
      have rise := congrArg State.secondRise rest
      rw [rise, State.nextTick_time]
      rfl
  · have off : s.nextTick.onMark = false := by
      rw [Bool.eq_false_iff, Ne, State.onMark_iff, part, State.nextTick_time, ← tick]
      exact fun h => still.elim (fun idle => idle h.1) (fun early => early h.2)
    have only : s.tickOnce = s.nextTick := by
      rw [State.tickOnce_of begun owed overdue, off, Bool.eq_false_iff.mpr (fun h => within (boundary.mp h))]
    rw [only]
    refine ⟨?_, s.nextTick_port⟩
    rw [State.nextTick_time]
    exact s.nextTick_rest.trans (by rw [State.nextTick_time])

/-! ### The slots counted (04:R63) -/

theorem CredState.live_eq (st : CredState) : st.live = !st.retiredAt.isSome := by cases st <;> rfl

/-- Every slot number stands once among the free ones and those of the records. -/
theorem Store.Law.numbers {st : Store} (law : st.Law) : (st.free ++ st.recs.map Cred.number).Perm (List.range 768) := by
  have recsOnce : (st.recs.map Cred.number).Nodup :=
    List.pairwise_map.mpr (law.ascending.imp (fun h => Nat.ne_of_lt h))
  have apart : ∀ a ∈ st.free, ∀ b ∈ st.recs.map Cred.number, a ≠ b := by
    rintro a ha b hb rfl
    obtain ⟨c, hc, rfl⟩ := List.mem_map.mp hb
    exact (law.vacant c.number (law.inRange c hc)).mp ha c hc rfl
  refine (List.perm_ext_iff_of_nodup (List.nodup_append.mpr ⟨law.freeOnce, recsOnce, apart⟩) List.nodup_range).mpr (fun k => ?_)
  rw [List.mem_append, List.mem_range]
  constructor
  · rintro (free | held)
    · exact Nat.lt_succ_of_le (law.freeInRange k free)
    · obtain ⟨c, hc, rfl⟩ := List.mem_map.mp held
      exact Nat.lt_succ_of_le (law.inRange c hc)
  · intro bound
    by_cases free : k ∈ st.free
    · exact .inl free
    · refine .inr ?_
      have held := (not_congr (law.vacant k (Nat.le_of_lt_succ bound))).mp free
      push Not at held
      obtain ⟨c, hc, rfl⟩ := held
      exact List.mem_map_of_mem hc

/-- The retired order holds the numbers of the records retired. -/
theorem Store.Law.retired_perm {st : Store} (law : st.Law) :
    st.retired.Perm ((st.recs.filter (fun c => c.st.retiredAt.isSome)).map Cred.number) := by
  have recsOnce : ((st.recs.filter (fun c => c.st.retiredAt.isSome)).map Cred.number).Nodup :=
    List.pairwise_map.mpr ((law.ascending.sublist List.filter_sublist).imp (fun h => Nat.ne_of_lt h))
  refine (List.perm_ext_iff_of_nodup law.retiredOnce recsOnce).mpr (fun k => ?_)
  rw [law.retired, List.mem_map]
  simp only [List.mem_filter]
  constructor
  · rintro ⟨c, hc, number, retired⟩
    exact ⟨c, ⟨hc, retired⟩, number⟩
  · rintro ⟨c, ⟨hc, retired⟩, number⟩
    exact ⟨c, hc, number, retired⟩

/-- Settles O14: free and held numbers make up the slots, and the records held are live or retired. -/
theorem slotSetsHold768 : Obligations.SlotSetsHold768 := by
  unfold Obligations.SlotSetsHold768
  intro s law
  have all := law.numbers.length_eq
  have retired := law.retired_perm.length_eq
  have parts := List.length_eq_length_filter_add (l := s.store.recs) (fun c => c.st.retiredAt.isSome)
  have live : s.liveCount = (s.store.recs.filter (fun c => !c.st.retiredAt.isSome)).length := by
    rw [State.liveCount]
    simp only [CredState.live_eq]
  rw [List.length_append, List.length_map, List.length_range] at all
  rw [List.length_map] at retired
  omega

/-! ### Frames made ready (10:R183, R184, R187, R188) -/

/-- Of some frames with a reject among them the newest reject counts one more. -/
theorem raiseNewestReject_of {fs : List OutFrame} (some : fs.any OutFrame.isReject = true) :
    ∃ older newer r k n, fs = older ++ .reject r k n :: newer ∧ newer.any OutFrame.isReject = false ∧
      raiseNewestReject fs = older ++ .reject r k (min 255 (n + 1)) :: newer := by
  induction fs with
  | nil => cases some
  | cons f fs ih =>
    by_cases later : fs.any OutFrame.isReject = true
    · obtain ⟨older, newer, r, k, n, rfl, last, raised⟩ := ih later
      refine ⟨f :: older, newer, r, k, n, rfl, last, ?_⟩
      rw [raiseNewestReject, if_pos later, raised]
      rfl
    · replace later := Bool.eq_false_iff.mpr later
      rw [List.any_cons, later, Bool.or_false] at some
      cases f with
      | reject r k n =>
        refine ⟨[], fs, r, k, n, rfl, later, ?_⟩
        rw [raiseNewestReject, later]
        rfl
      | reply | notice => cases some

/-- With frames waiting only behind one in sending, a frame made ready joins them. -/
theorem Port.ready_eq {p : Port} (idle : p.sending = none → p.waiting = []) (f : OutFrame) :
    (p.ready f).frames = p.frames ++ [f] ∧
      p.ready f = { p with sending := (p.ready f).sending, waiting := (p.ready f).waiting } := by
  unfold Port.ready Port.frames
  split
  · rename_i none
    rw [none, idle none]
    exact ⟨rfl, by rw [← idle none]⟩
  · rename_i g some
    rw [some]
    exact ⟨by simp, by rw [← some]⟩

theorem Arming.put_get (a : Arming) (b : Bool) (k : NoticeKind) : (a.put b k).get k = b := by cases k <;> rfl

theorem Arming.put_get_ne (a : Arming) (b : Bool) {j k : NoticeKind} (h : j ≠ k) : (a.put b k).get j = a.get j := by
  cases j <;> cases k <;> first | rfl | exact absurd rfl h

/-- Settles O20: the newest reject, the frames of a reply and those of a notice. -/
theorem outgoingFramesFollowTheirRules : Obligations.OutgoingFramesFollowTheirRules := by
  unfold Obligations.OutgoingFramesFollowTheirRules
  refine ⟨fun reason about p => ⟨fun few => ?_, fun full => ?_⟩, ?_, fun k s idle => ⟨fun running armed => ?_, fun off => ?_⟩⟩
  · exact if_neg (by omega)
  · have some : p.waiting.any OutFrame.isReject = true := by
      obtain ⟨f, hf⟩ := List.exists_mem_of_length_pos (show 0 < (p.waiting.filter OutFrame.isReject).length by omega)
      obtain ⟨mem, reject⟩ := List.mem_filter.mp hf
      exact List.any_eq_true.mpr ⟨f, mem, reject⟩
    obtain ⟨older, newer, r, k, n, waiting, last, raised⟩ := raiseNewestReject_of some
    exact ⟨older, newer, r, k, n, waiting, last, by rw [Port.rejection, if_pos full, raised]⟩
  · intro kind tag restarts r s idle
    obtain ⟨frames, rest⟩ := Port.ready_eq (p := s.frameEnded.port) idle (.reply kind tag r.body)
    refine ⟨frames, ?_⟩
    have port := congrArg (fun p : Port => { p with service := some ⟨kind, tag, restarts⟩ }) rest
    exact congrArg (fun p : Port => { s with port := p }) port
  · have raised : s.raise k = { s with port := { s.port.ready (noticeFrame k s) with arm := s.port.arm.put false k } } :=
      if_pos ⟨running, armed⟩
    obtain ⟨frames, rest⟩ := Port.ready_eq idle (noticeFrame k s)
    rw [raised]
    refine ⟨frames, Arming.put_get _ _ _, fun j ne => Arming.put_get_ne _ _ ne, rfl, ?_⟩
    exact congrArg (fun p : Port => { p with arm := s.port.arm.put false k }) rest
  · refine if_neg ?_
    rintro ⟨running, armed⟩
    rcases off with off | off
    · exact off running
    · rw [off] at armed; cases armed

end Sys2Proof.Machine

/-! SUPPORT. The byte layouts of replies and records, field by field (10 Tables 10.11 to 10.16). -/

namespace Sys2Proof.Machine

open Sys2Proof

/-! ### Fields -/

@[simp] theorem fields_nil : fields [] = [] := rfl

@[simp] theorem fields_one (v : Nat) (l : List (Nat × Nat)) : fields ((1, v) :: l) = byteOf v :: fields l := by
  simp [fields, byteOf, List.range_succ]

@[simp] theorem fields_two (v : Nat) (l : List (Nat × Nat)) : fields ((2, v) :: l) = le16 v ++ fields l := by
  simp [fields, le16, byteOf, List.range_succ]

@[simp] theorem fields_four (v : Nat) (l : List (Nat × Nat)) : fields ((4, v) :: l) = le32 v ++ fields l := by
  simp [fields, le32, byteOf, List.range_succ]

@[simp] theorem fields_append (a b : List (Nat × Nat)) : fields (a ++ b) = fields a ++ fields b := by
  simp [fields]

theorem bitField_cons (b : Bool) (bs : List Bool) : bitField (b :: bs) = b.toNat + 2 * bitField bs := by
  unfold bitField
  rw [List.zipIdx_cons, List.zipIdx_succ, List.map_cons, List.map_map, List.sum_cons, ← List.sum_map_mul_left, Nat.pow_zero, Nat.mul_one]
  congr 2
  refine List.map_congr_left (fun p _ => ?_)
  simp only [Function.comp_apply, Nat.pow_succ]
  ring

theorem bitsOf_eq (bs : List Bool) : bitsOf bs = bitField bs := by
  induction bs with
  | nil => rfl
  | cons b bs ih => rw [bitsOf, bitField_cons, ih]; cases b <;> rfl

theorem flagByte_eq (b : Bool) : flagByte b = byteOf b.toNat := by cases b <;> rfl

theorem byteOf_toNat (b : Byte) : byteOf b.toNat = b := by simp [byteOf]

@[simp] theorem le16_length (n : Nat) : (le16 n).length = 2 := rfl

@[simp] theorem le32_length (n : Nat) : (le32 n).length = 4 := rfl

theorem presByte_eq (o : Option Nat) : presByte o = fields (optional 1 o) := by
  simp [presByte, optional, flagByte_eq, optByte]

theorem presLe32_eq (o : Option Nat) : presLe32 o = fields (optional 4 o) := by
  simp [presLe32, optional, flagByte_eq, optLe32]

/-! ### Codes (10 Table 10.11) -/

theorem LineState.code_eq (st : LineState) : st.code = numberOfLineState st := by cases st <;> rfl

theorem lineCode_eq (l : LineId) : lineCode l = numberOfLine l := by cases l <;> rfl

theorem PointClass.code_eq (c : PointClass) : c.code = numberOfClass c := by cases c <;> rfl

theorem NodeState.code_eq (st : NodeState) : st.code = numberOfNodeState st := by cases st <;> rfl

theorem CredKind.code_eq (k : CredKind) : k.code = numberOfKind k := by cases k <;> rfl

theorem RevReason.code_eq (r : RevReason) : r.code = numberOfRevReason r := by cases r <;> rfl

theorem LapseCause.code_eq (c : LapseCause) : c.code
    = [LapseCause.cancelled, .lapsed, .checkout, .rekeyRoom, .resequence].idxOf c := by cases c <;> rfl

theorem Detail.code_eq (d : Detail) : d.code = numberOfDetail d := by
  cases d with
  | credKind k => exact k.code_eq
  | cause c => exact c.code_eq
  | revReason r => exact r.code_eq
  | nodeState st => exact st.code_eq
  | line l => exact lineCode_eq l
  | lineState st => exact st.code_eq
  | withdrawn | restartCommand | resetPin => rfl

theorem RecKind.code_eq (k : RecKind) : k.code = recKinds.idxOf k + 1 := by cases k <;> rfl

theorem reasonCode_eq (r : Reason) : reasonCode r = reasons.idxOf r := by cases r <;> rfl

theorem RecOutcome.code_eq (o : RecOutcome) : o.code = [RecOutcome.grant, .deny, .granted, .denied].idxOf o := by cases o <;> rfl

theorem Mark.code_eq (m : Mark) : m.code = [Mark.none, .conflict, .ambiguous].idxOf m := by cases m <;> rfl

theorem FaultKind.code_eq (k : FaultKind) : k.code = [FaultKind.extra, .overrun, .syntaxFault, .content, .noAnswer].idxOf k := by
  cases k <;> rfl

theorem FaultClass.code_eq (c : FaultClass) : c.code = [FaultClass.correctable, .uncorrectable].idxOf c := by cases c <;> rfl

theorem FallbackMode.code_eq (m : FallbackMode) : m.code = [FallbackMode.full, .restricted].idxOf m := by cases m <;> rfl

theorem StayMode.code_eq (m : StayMode) : m.code = [StayMode.newStay, .addCard].idxOf m := by cases m <;> rfl

theorem SessionMode.code_eq (m : SessionMode) : m.code = [SessionMode.guest, .restock].idxOf m := by cases m <;> rfl

/-! ### Lines and the first fault -/

theorem Line.bytes_eq (l : Line) : l.bytes = fields (lineFields l) := by
  simp [Line.bytes, lineFields, LineState.code_eq, Flags.toByte, bitsOf_eq]

theorem FirstFault.bytes_eq (f : FirstFault) : f.bytes = fields (firstFaultFields f) := by
  simp [FirstFault.bytes, firstFaultFields, lineCode_eq, flagByte_eq, FaultKind.code_eq, FaultClass.code_eq]

/-! ### Nodes -/

theorem orZeros_hours (h : Option Hours) :
    orZeros 4 (h.map Hours.bytes) = le16 ((h.map (·.start)).getD 0) ++ le16 ((h.map (·.stop)).getD 0) := by
  cases h <;> rfl

theorem Reload.code_eq (r : Reload) :
    r.code = match r with | .none => 0 | .marked => 1 | .sending _ _ => 2 | .awaiting _ _ => 3 := by cases r <;> rfl

theorem bitsOfStatus_eq (o : Option StatusBits) : (o.map bitsOfStatus).getD 0
    = byteOf ((o.map (fun b => bitField [b.isOpen, b.privacy, b.batteryLow, b.fallbackActive, b.cacheLost])).getD 0) := by
  cases o with
  | none => rfl
  | some b => simp [bitsOfStatus, bitsOf_eq]

theorem State.nodeEntry_eq (s : State) (n : Node) : s.nodeEntry n = fields (nodeFields (s.effectiveGen n) n) := by
  simp [State.nodeEntry, nodeFields, Enrolment.bytes, optional, orZeros_hours, flagByte_eq, optByte, optLe16, PointClass.code_eq,
    NodeState.code_eq, FallbackMode.code_eq, u16OfInt]
  exact ⟨rfl, bitsOfStatus_eq n.status, congrArg byteOf n.reload.code_eq⟩

theorem nodeFields_length (g : Nat) (n : Node) : (fields (nodeFields g n)).length = 40 := by
  simp [nodeFields, optional]

/-! ### Cards -/

theorem Image.bytes_eq (i : Image) : i.bytes = fields (imageFields i) := by
  simp [Image.bytes, imageFields, byteOf_toNat]

theorem orZeros_image (o : Option Image) : orZeros 4 (o.map Image.bytes) = fields (imageFields (o.getD ⟨0, 0, 0⟩)) := by
  cases o with
  | none => rfl
  | some i => exact i.bytes_eq

theorem Cred.body_eq (c : Cred) : c.body = fields (cardFields c) := by
  simp [Cred.body, cardFields, CredKind.code_eq, bitsOf_eq, Image.bytes_eq, orZeros_image, orZeros_hours]

theorem CredState.code_eq (st : CredState) : st.code = match st with
    | .encoding _ => 1 | .issued => 2 | .active => 3 | .suspended _ _ => 4 | .revoked _ _ => 5 | .expired _ => 6 := by
  cases st <;> rfl

theorem Cred.statusBytes_eq (c : Cred) : c.statusBytes = fields (credFields c) := by
  simp [Cred.statusBytes, credFields, presByte_eq, presLe32_eq, Cred.image, Cred.body_eq]
  have mode : (fun g : GuestPart => g.mode.code) = fun g => [StayMode.newStay, .addCard].idxOf g.mode :=
    funext (fun g => g.mode.code_eq)
  rw [mode]
  generalize c.st = st
  cases st with
  | suspended w t => cases w <;> exact ⟨rfl, rfl⟩
  | revoked t r => cases r <;> exact ⟨rfl, rfl⟩
  | encoding | issued | active | expired => exact ⟨rfl, rfl⟩

/-! ### Records -/

theorem Rec.bytes_eq (r : Rec) : r.bytes = fields (recFields r) := by
  simp [Rec.bytes, recFields, optByte, optLe16, optLe32, RecKind.code_eq, Mark.code_eq, bitsOf_eq, Rec.presence]
  rw [funext RecOutcome.code_eq, funext reasonCode_eq, funext Detail.code_eq]
  cases r.entry.quality <;> exact ⟨rfl, rfl⟩

/-! ### Folios -/

theorem ChargeLine.bytes_eq (l : ChargeLine) : l.bytes
    = fields [(1, l.node), (1, l.comp), (2, l.item), (1, l.count), (4, l.amount), (4, l.deadline)] := by
  simp [ChargeLine.bytes]

end Sys2Proof.Machine

/-! The commands that read: settings, stores, lines and nodes: O27, O30, O36 and O48. -/

namespace Sys2Proof.Machine

open Sys2Proof

/-! ### A command served -/

theorem State.rearmIf_nil (ok : Bool) (s : State) : s.rearmIf ok [] = s := by cases ok <;> rfl

section Served
variable {i : Instr} {s u : State} {kind tag : Byte} {len : Nat} {lenOk : Nat → Bool} {serve : State → State × Reply}
  {rearms : List NoticeKind} {r : Reply}

/-- What a row answers whose block gives `u` and `r`. -/
theorem exec_gives (row : exec i s = .next (s.command kind tag len lenOk serve rearms)) (served : servedIn s.part kind = true)
    (idle : s.port.service = none) (fits : lenOk len = true) (gives : serve s = (u, r)) :
    exec i s = .next ((u.rearmIf r.status.success rearms).answer kind tag (kind == 0x06 && r.status.success) r) := by
  rw [row, State.command_of_servedIn tag serve rearms served idle fits, gives]

/-- So for a row that re-arms nothing and is no RESTART. -/
theorem exec_answers (row : exec i s = .next (s.command kind tag len lenOk serve [])) (served : servedIn s.part kind = true)
    (idle : s.port.service = none) (fits : lenOk len = true) (gives : serve s = (u, r)) (other : (kind == 0x06) = false) :
    exec i s = .next (u.answer kind tag false r) := by
  rw [exec_gives row served idle fits gives, State.rearmIf_nil, other, Bool.false_and]

/-- So in RUNNING. -/
theorem exec_takes (row : exec i s = .next (s.command kind tag len lenOk serve [])) (takes : s.takes)
    (fits : lenOk len = true) (gives : serve s = (u, r)) (other : (kind == 0x06) = false) :
    exec i s = .next (u.answer kind tag false r) :=
  exec_answers row (by rw [takes.1]; rfl) takes.2 fits gives other

end Served

theorem servedIn_of_lineOn {s : State} {kind : Byte} (on : s.lineOff = false) (always : [(0x01 : Byte), 0x02, 0x06].contains kind = true) :
    servedIn s.part kind = true := by
  cases h : s.part with
  | running => rfl
  | loading => exact always
  | unconfigured => simp only [servedIn, List.contains_cons] at always ⊢; simp_all; tauto
  | retention | held => simp [State.lineOff, h] at on

/-! ### The settings commands (11:R198, R199) -/

theorem u16At_le16 {n : Nat} (h : n < 65536) (b : Byte) (rest : List Byte) : u16At (b :: (le16 n ++ rest)) 1 = n := le16_value h

theorem serveReadSettings_source (s : State) (source count : Byte) {offset : Nat} (bound : offset < 65536) :
    serveReadSettings (source :: le16 offset ++ [count]) s =
      if count.toNat = 0 then refuse .badField s
      else match s.readSource source.toNat with
        | .error st => refuse st s
        | .ok img => if img.length ≤ offset then refuse .badField s
            else (s, ⟨.ok, le16 img.length ++ (img.drop offset).take count.toNat⟩) := by
  have at1 : u16At (source :: le16 offset ++ [count]) 1 = offset := u16At_le16 bound source [count]
  unfold serveReadSettings
  rw [at1]
  rfl

theorem bankImage_eq (copy : List Byte) {img : List Byte}
    (h : headerFormatOk copy = true ∧ 16 + headerLength copy ≤ copy.length ∧ img = copy.take (16 + headerLength copy)
      ∨ ¬ (headerFormatOk copy = true ∧ 16 + headerLength copy ≤ copy.length) ∧ img = copy) : bankImage copy = img := by
  unfold bankImage
  rcases h with ⟨format, whole, rfl⟩ | ⟨broken, rfl⟩
  · exact if_pos ⟨format, whole⟩
  · exact if_neg broken

/-- Settles O27: the read-back decides which bank copy and result stand. -/
theorem storeCompletionReadsTheBankBack : Obligations.StoreCompletionReadsTheBankBack := by
  unfold Obligations.StoreCompletionReadsTheBankBack
  intro readBack s
  have complete (j : StoreJob) (store : s.loader.store = some j) : exec (.storeComplete readBack) s
      = .next (if readsBack j readBack then { s with loader := s.loader.stored j }
          else { s with loader := { s.loader with store := none, lastStore := .failed } }) := by
    change Host.Outcome.next _ = _
    rw [store]
  refine ⟨fun none => ?_, fun j b store back same => ?_, fun j store differs => ?_⟩
  · change Host.Outcome.next _ = _
    rw [none]
  · have reads : readsBack j readBack = true := by rw [back]; exact beq_iff_eq.mpr same
    rw [complete j store, if_pos reads, Loader.stored]
    constructor <;> intro bank <;> rw [bank]
  · have misreads : ¬ readsBack j readBack = true := by
      cases back : readBack with
      | none => exact Bool.false_ne_true
      | some b => exact fun h => differs b back (beq_iff_eq.mp h)
    rw [complete j store, if_neg misreads]

/-- Settles O30: each command by what its block reads. -/
theorem settingsCommandsReadAndStore : Obligations.SettingsCommandsReadAndStore := by
  unfold Obligations.SettingsCommandsReadAndStore
  intro tag s idle
  have reads {source count : Byte} {offset : Nat} {u : State} {r : Reply} (part : s.part = .running ∨ s.part = .unconfigured)
      (gives : serveReadSettings (source :: le16 offset ++ [count]) s = (u, r)) :
      exec (.readSettings tag (source :: le16 offset ++ [count])) s = .next (u.answer 0x04 tag false r) :=
    exec_answers rfl (by rcases part with h | h <;> rw [h] <;> rfl) idle rfl gives rfl
  have some {count : Byte} (h : count ≠ 0) : ¬ count.toNat = 0 := fun e => h (BitVec.eq_of_toNat_eq e)
  refine ⟨fun on => ?_, fun source count offset img part nonzero bound inside from_ => ?_, fun count offset part nonzero bound => ?_,
    fun running free => ?_, fun running busy => ?_, fun on => ?_⟩
  · exact exec_answers rfl (servedIn_of_lineOn on rfl) idle rfl rfl rfl
  · have found : s.readSource source.toNat = .ok img := by
      rcases from_ with ⟨rfl, running, rfl⟩ | ⟨copy, ⟨rfl, bank⟩ | ⟨rfl, bank⟩, whole⟩
      · exact if_neg (by rw [running]; simp)
      · simp [State.readSource, bank, bankImage_eq copy whole]
      · simp [State.readSource, bank, bankImage_eq copy whole]
    refine reads part ?_
    rw [serveReadSettings_source s source count bound, if_neg (some nonzero), found]
    exact if_neg (Nat.not_le.mpr inside)
  · have refuses {source : Byte} {st : Status} (h : s.readSource source.toNat = .error st) :
        serveReadSettings (source :: le16 offset ++ [count]) s = (s, .plain st) := by
      rw [serveReadSettings_source s source count bound, if_neg (some nonzero), h]
      rfl
    refine ⟨fun unconfigured => reads part (refuses (if_pos unconfigured)), fun empty => reads part (refuses ?_),
      fun empty => reads part (refuses ?_), fun source other => reads part (refuses ?_)⟩
    · simp [State.readSource, empty]
    · simp [State.readSource, empty]
    · unfold State.readSource
      split <;> first | omega | rfl
  · have gives : serveStoreSettings s = ({ s with
        loader := { s.loader with store := .some ⟨s.loader.nextBank, s.runningImage, s.loader.nextCount⟩ } }, .plain .ok) :=
      if_neg (by simp [free])
    have bank : s.loader.nextBank = match s.loader.recent with | .some ⟨.first, _⟩ => .second | _ => .first := by
      unfold Loader.nextBank
      cases s.loader.recent with
      | none => rfl
      | some r => obtain ⟨bank, count⟩ := r; cases bank <;> rfl
    have count : s.loader.nextCount = match s.loader.recent with | .some r => (r.count + 1) % 4294967296 | none => 1 := by
      unfold Loader.nextCount
      cases s.loader.recent <;> rfl
    refine (exec_answers rfl (by rw [running]; rfl) idle rfl gives rfl).trans ?_
    rw [bank, count] <;> rfl
  · have gives : serveStoreSettings s = (s, .plain .busy) := if_pos (Option.isSome_iff_ne_none.mpr busy)
    exact exec_answers rfl (by rw [running]; rfl) idle rfl gives rfl
  · rw [exec_gives rfl (servedIn_of_lineOn on rfl) idle rfl rfl]
    rfl

/-! ### LINE_STATUS -/

/-- Settles O36: the reply is composed before the clear option acts. -/
theorem lineStatusReportsAndClears : Obligations.LineStatusReportsAndClears := by
  unfold Obligations.LineStatusReportsAndClears
  intro tag s takes content
  have composed : s.lineStatusContent = content := by
    simp only [State.lineStatusContent, Line.bytes_eq, FirstFault.bytes_eq, content, fields_append]
    congr 2
  refine ⟨?_, ?_⟩
  · rw [exec_gives (serve := serveLineStatus [0]) rfl (by rw [takes.1]; rfl) takes.2 rfl rfl, ← composed]
    rfl
  · rw [exec_gives (serve := serveLineStatus [1]) rfl (by rw [takes.1]; rfl) takes.2 rfl rfl, ← composed]
    rfl

/-! ### NODE_STATUS, RELOAD_NODE and OPEN_POINT -/

/-- The first of the elements that pass a test, with those before it. -/
theorem exists_of_head?_filter {α : Type} {p : α → Bool} {l : List α} {x : α} (h : (l.filter p).head? = some x) :
    ∃ before after, l = before ++ x :: after ∧ p x = true ∧ ∀ b ∈ before, p b = false := by
  rw [List.head?_filter, List.find?_eq_some_iff_append] at h
  obtain ⟨holds, before, after, rfl, fails⟩ := h
  exact ⟨before, after, rfl, holds, fun b hb => by simpa using fails b hb⟩

theorem State.unacked_iff (s : State) (n : Node) (c : Change) :
    (s.deliverable c n && genBelow n.cursor.acked c.gen) = true ↔ s.Unacked n c := by
  rw [Bool.and_eq_true, State.deliverable_iff]
  rfl

/-- 05:R104. -/
theorem State.effectiveGen_effective (s : State) (n : Node) : s.Effective n (s.effectiveGen n) := by
  unfold State.effectiveGen
  split
  · rename_i c first
    obtain ⟨before, after, split, holds, fails⟩ := exists_of_head?_filter first
    refine .inl ⟨before, c, after, split, (s.unacked_iff n c).mp holds, fun b hb unacked => ?_, ?_⟩
    · rw [← s.unacked_iff, fails b hb] at unacked
      cases unacked
    · simp [sub32]
  · rename_i none
    refine .inr ⟨fun c hc unacked => ?_, rfl⟩
    exact List.ne_nil_of_mem ((s.mem_deliverables n c).mpr ⟨hc, unacked⟩) (List.head?_eq_none_iff.mp none)

theorem addressOk_of {a : Nat} (lo : 1 ≤ a) (hi : a ≤ 96) : addressOk a = true := by simp [addressOk, lo, hi]

theorem Urgent.any_isRemoteOpen (node : Nat) (q : List Urgent) :
    q.any (Urgent.isRemoteOpen node) = true ↔ .remoteOpen node ∈ q := by
  have one (u : Urgent) : Urgent.isRemoteOpen node u = true ↔ u = .remoteOpen node := by
    cases u <;> simp [Urgent.isRemoteOpen]
  simp [List.any_eq_true, one]

/-- Settles O48: the entries of a range, the mark of a reload and the queue of one opening. -/
theorem nodeStatusReloadAndOpenPoint : Obligations.NodeStatusReloadAndOpenPoint := by
  unfold Obligations.NodeStatusReloadAndOpenPoint
  intro tag s takes
  refine ⟨?_, fun a n lo hi hn => ⟨?_, ?_⟩⟩
  · intro first last lo le hi few k
    refine ⟨(List.range k).map (fun i => s.addressEntry (first.toNat + i)), ?_, by simp, fun i hi' => ?_⟩
    · have gives : serveNodeStatus [first, last] s = (s, ⟨.ok, byteOf k
          :: ((List.range k).map (fun i => s.addressEntry (first.toNat + i))).flatten⟩) := by
        refine if_neg ?_
        rintro (h | h | h | h)
        · exact h (addressOk_of lo (by exact le.trans hi))
        · exact h (addressOk_of (by exact lo.trans le) hi)
        · exact absurd le (Nat.not_le.mpr h)
        · exact absurd h (Nat.not_lt.mpr few)
      rw [exec_gives rfl (by rw [takes.1]; rfl) takes.2 rfl gives]
      rfl
    · refine ⟨s.addressEntry (first.toNat + i), by simp [hi'], ?_⟩
      unfold State.addressEntry
      split
      · rename_i n hn
        rw [State.nodeEntry_eq, nodeFields_length]
        refine ⟨rfl, fun none => by simp_all, fun m hm => ?_⟩
        rw [hn] at hm
        obtain rfl := Option.some.inj hm
        exact ⟨_, s.effectiveGen_effective n, rfl⟩
      · exact ⟨rfl, fun _ => rfl, fun n hn => by simp_all⟩
  · have gives : serveReloadNode [a] s = (s.markReload n.addr, .plain .ok) := by
      have ok : addressOk (byteAt [a] 0) = true := addressOk_of lo hi
      have found : s.node? (byteAt [a] 0) = some n := hn
      simp [serveReloadNode, ok, found]
    have addr : n.addr = a.toNat := (findKey_some Node.addr hn).1
    refine ⟨s.markReload n.addr, exec_takes rfl takes rfl gives rfl, ?_, fun b ne => ?_, rfl⟩
    · rw [addr, State.markReload, State.modNode_node? _ _ Node.marked (fun _ => rfl), hn, ← addr]
      rfl
    · rw [addr, State.markReload, State.modNode_node?_ne _ Node.marked (fun _ => rfl) ne]
  · intro gives answering
    have addr : n.addr = a.toNat := (findKey_some Node.addr hn).1
    have served : serveOpenPoint [a] s = if ¬ n.st.answering then refuse .wrongState s
        else if s.lines.urgent.any (Urgent.isRemoteOpen n.addr) then (s, .plain .ok)
        else if 32 ≤ s.lines.urgent.length then refuse .busy s
        else (s.pushUrgent (.remoteOpen n.addr), .plain .ok) := by
      have ok : addressOk (byteAt [a] 0) = true := addressOk_of lo hi
      have found : s.node? (byteAt [a] 0) = some n := hn
      simp [serveOpenPoint, ok, found]
    have standing : answering → ¬ ¬ n.st.answering = true := by
      rintro (h | h) no <;> exact no (by rw [h]; rfl)
    have queued : .remoteOpen a.toNat ∉ s.lines.urgent → ¬ s.lines.urgent.any (Urgent.isRemoteOpen n.addr) = true := by
      rw [addr, Urgent.any_isRemoteOpen]
      exact id
    refine ⟨fun not => ?_, fun yes mem => ?_, fun yes mem full => ?_, fun yes mem room => ?_⟩
    · refine exec_takes rfl takes rfl (served.trans (if_pos fun h => not ?_)) rfl
      cases st : n.st <;> simp_all [NodeState.answering, answering]
    · exact exec_takes rfl takes rfl (served.trans ((if_neg (standing yes)).trans
        (if_pos (by rw [addr, Urgent.any_isRemoteOpen]; exact mem)))) rfl
    · exact exec_takes rfl takes rfl (served.trans ((if_neg (standing yes)).trans
        ((if_neg (queued mem)).trans (if_pos full)))) rfl
    · refine exec_takes rfl takes rfl (served.trans ((if_neg (standing yes)).trans
        ((if_neg (queued mem)).trans ((if_neg (Nat.not_le.mpr room)).trans ?_)))) rfl
      rw [addr]
      rfl

end Sys2Proof.Machine

/-! The arithmetic of chapter 3 and the resolution of a window: O37 and O60. -/

namespace Sys2Proof.Machine

open Sys2Proof

/-! ### A window resolved -/

/-- Settles O37, by the nine cases of Table 1.2. -/
theorem windowResolutionChargesTheWeakCopy : Obligations.WindowResolutionChargesTheWeakCopy := by
  unfold Obligations.WindowResolutionChargesTheWeakCopy
  intro serveA serveB first a b
  have charge (c : Charge) (l : LineId) (k : FaultKind) (cls : FaultClass) :
      c = ⟨l, k, cls⟩ ↔ c.line = l ∧ c.kind = k ∧ c.cls = cls := by
    cases c
    simp
  cases a <;> cases b
  case good.good => cases first <;> simp [resolve]
  all_goals
    refine ⟨by simp [resolve], by simp [resolve], by simp [resolve], by simp [resolve], by simp [resolve], fun c => ?_⟩
    obtain ⟨line, kind, cls⟩ := c
    cases line <;> cases cls <;> cases serveA <;> cases serveB <;> simp [resolve, noAnswer, eq_comm]

/-! ### Rounding -/

/-- A quotient rounded up, by its bounds. -/
theorem ceilDiv_bounds (a : Nat) : a ≤ ceilDiv a 1000000 * 1000000 ∧ ceilDiv a 1000000 * 1000000 < a + 1000000 := by
  unfold ceilDiv
  omega

theorem ceilDiv_of_bounds {a q : Nat} (lo : a ≤ q * 1000000) (hi : q * 1000000 < a + 1000000) :
    ceilDiv a 1000000 = q := by
  unfold ceilDiv
  omega

/-- A quarter rounded half away from zero lies within half of it, and above it in magnitude at exactly half. -/
theorem quarterHalfAway_nearest (x : Int) :
    2 * (4 * quarterHalfAway x - x).natAbs ≤ 4 ∧
      (2 * (4 * quarterHalfAway x - x).natAbs = 4 → x.natAbs < (4 * quarterHalfAway x).natAbs) := by
  unfold quarterHalfAway
  split <;> omega

theorem quarterHalfAway_nonneg {x : Int} (h : 0 ≤ x) : 0 ≤ quarterHalfAway x := by
  rw [quarterHalfAway, if_pos h]
  omega

/-- 03:R61's rounding of `n` elapsed node seconds. -/
def RoundedElapsed (d : Int) (n p : Nat) : Prop :=
  2 * ((n : Int) * 1000000) < (2 * (p : Int) + 1) * (1000000 + d) ∧
    (2 * (p : Int) - 1) * (1000000 + d) ≤ 2 * ((n : Int) * 1000000)

theorem RoundedElapsed.unique {d : Int} {n p q : Nat} (lo : -2000 ≤ d) (hp : RoundedElapsed d n p)
    (hq : RoundedElapsed d n q) : p = q := by
  have le {p q : Nat} (hp : RoundedElapsed d n p) (hq : RoundedElapsed d n q) : q ≤ p := by
    by_contra above
    have step : 2 * (p : Int) + 1 ≤ 2 * (q : Int) - 1 := by omega
    have : (2 * (p : Int) + 1) * (1000000 + d) ≤ (2 * (q : Int) - 1) * (1000000 + d) :=
      Int.mul_le_mul_of_nonneg_right step (by omega)
    exact absurd (hp.1.trans_le (this.trans hq.2)) (lt_irrefl _)
  exact Nat.le_antisymm (le hq hp) (le hp hq)

theorem wingElapsed_rounded {d : Int} (n : Nat) (lo : -2000 ≤ d) : RoundedElapsed d n (wingElapsed d n) := by
  obtain ⟨m, hm⟩ : ∃ m : Nat, 1000000 + d = m := ⟨(1000000 + d).toNat, by omega⟩
  have pos : 0 < m := by omega
  unfold RoundedElapsed wingElapsed
  rw [hm, Int.toNat_natCast]
  have below := Nat.div_mul_le_self (n * 1000000 + m / 2) m
  have above := Nat.lt_mul_div_succ (n * 1000000 + m / 2) pos
  generalize (n * 1000000 + m / 2) / m = p at below above ⊢
  rw [Nat.mul_add_one m p, Nat.mul_comm m p] at above
  have upper : (2 * (p : Int) + 1) * m = 2 * ((p * m : Nat) : Int) + m := by push_cast; ring
  have lower : (2 * (p : Int) - 1) * m = 2 * ((p * m : Nat) : Int) - m := by push_cast; ring
  rw [upper, lower]
  omega

theorem wingElapsed_of_rounded {d : Int} {n p : Nat} (lo : -2000 ≤ d) (h : RoundedElapsed d n p) : wingElapsed d n = p :=
  (wingElapsed_rounded n lo).unique lo h

/-- A difference modulo 2^32 gives back what was added. -/
theorem sub32_wrapped (a : Nat) {n : Nat} (h : n < 4294967296) : sub32 ((a + n) % 4294967296) a = n := by
  unfold sub32
  omega

/-! ### The clock of a node -/

theorem rawSample_truncates (dn : Nat) {dw : Nat} (pos : 0 < dw) :
    (rawSample dw dn).natAbs * dw ≤ (((dn : Int) - dw) * 1000000).natAbs ∧
      (((dn : Int) - dw) * 1000000).natAbs < ((rawSample dw dn).natAbs + 1) * dw ∧
      (0 < rawSample dw dn → 0 < ((dn : Int) - dw) * 1000000) ∧
      (rawSample dw dn < 0 → ((dn : Int) - dw) * 1000000 < 0) := by
  unfold rawSample
  generalize ((dn : Int) - dw) * 1000000 = x
  have size : (Int.tdiv x dw).natAbs = x.natAbs / dw := by rw [Int.natAbs_tdiv, Int.natAbs_natCast]; rfl
  rw [size]
  refine ⟨Nat.div_mul_le_self _ _, ?_, fun up => ?_, fun down => ?_⟩
  · rw [Nat.mul_comm]
    exact Nat.lt_mul_div_succ _ pos
  · by_contra not
    have nonneg := Int.tdiv_nonneg (Int.neg_nonneg.mpr (not_lt.mp not)) (Int.natCast_nonneg dw)
    rw [Int.neg_tdiv] at nonneg
    omega
  · by_contra not
    exact absurd (Int.tdiv_nonneg (not_lt.mp not) (Int.natCast_nonneg dw)) (not_le.mpr down)

/-- Settles O60: each rounding by its bounds. -/
theorem clockArithmeticRoundsAsStated : Obligations.ClockArithmeticRoundsAsStated := by
  unfold Obligations.ClockArithmeticRoundsAsStated
  intro rounded ceiling
  refine ⟨fun dw dn pos => rawSample_truncates dn pos, ?_, fun d n lo _ => wingElapsed_rounded n lo,
    fun s n => ⟨_, ceilDiv_bounds _, rfl⟩, ?_, ?_, ?_, ?_⟩
  · intro raw c spread failed samples t quarter
    refine ⟨fun far => ?_, fun near => ?_⟩
    · have raised : 4 ≤ min 255 (c.failed + 1) ↔ 4 ≤ c.failed + 1 := by omega
      simp [t, Clock.judge, far, Clock.failure, satAdd, raised]
    · have judged : t = c.accept raw := if_neg (Nat.not_lt.mpr near)
      have bound := ceilDiv_bounds ((t.d.natAbs + t.s + 20) * 86400)
      rw [judged] at bound ⊢
      refine ⟨rfl, rfl, rfl, rfl, rfl, fun first => ?_, fun later => ⟨?_, ?_⟩, _, bound.1, bound.2, rfl⟩
      · simp [Clock.accept, first]
      · simpa [Clock.accept, later] using quarterHalfAway_nearest _
      · have nonneg : 0 ≤ quarterHalfAway (3 * (c.s : Int) + ((raw - c.d).natAbs : Int)) :=
          quarterHalfAway_nonneg (by omega)
        refine ⟨(quarterHalfAway (3 * (c.s : Int) + ((raw - c.d).natAbs : Int))).toNat, ?_, ?_⟩
        · rw [Int.toNat_of_nonneg nonneg]
          exact quarterHalfAway_nearest _
        · simp [Clock.accept, later]
  · intro d s w1 n p q a lo hi bound hp hq t
    have elapsed : wingElapsed d n = p := wingElapsed_of_rounded lo hp
    have allowed : allowance s n = q + 2 := congrArg (· + 2) (ceilDiv_of_bounds hq.1 hq.2)
    have stamped : t = if a.n < n then .unreliable w1 else
        .reconstructed (if a.e < p then w1 else wrap32 (a.w0 + p)) (min 65535 (q + 2)) w1 := by
      simp only [t, reconstruct, sub32_wrapped a.s0 bound, elapsed, allowed]
    refine ⟨fun late => ?_, fun early short => ?_, fun early long => ?_⟩
    · rw [stamped, if_pos late]
    · rw [stamped, if_neg (Nat.not_lt.mpr early), if_neg (Nat.not_lt.mpr short)]
      rfl
    · rw [stamped, if_neg (Nat.not_lt.mpr early), if_pos long]
  · intro c s1 w1 epoch none
    simp [Clock.uploadFails, Clock.takeMark, none]
  · intro c x n e epoch p q anchor hn he lo hi hp hq s1 w1
    have elapsed : wingElapsed c.d n = p := wingElapsed_of_rounded lo hp
    have allowed : allowance c.s n = q + 2 := congrArg (· + 2) (ceilDiv_of_bounds hq.1 hq.2)
    have nodeTime : sub32 s1 x.s0 = n := sub32_wrapped x.s0 hn
    have wingTime : sub32 w1 x.w0 = e := sub32_wrapped x.w0 he
    refine ⟨?_, ?_⟩
    · simp [Clock.uploadFails, anchor, nodeTime, wingTime, elapsed, allowed, absDiff, or_assoc]
    · simp [Clock.takeMark, anchor, nodeTime, wingTime]
  · intro c u stamp
    refine ⟨fun none => ?_, fun a reliable anchor => ?_⟩
    · obtain ⟨_, _, _, anchor, disc⟩ := u
      cases disc <;> cases anchor <;> simp_all [Upload.timeOf]
    · simp [Upload.timeOf, reliable, anchor]

end Sys2Proof.Machine

/-! Line state changes and the loss of service: O35. -/

namespace Sys2Proof.Machine

open Sys2Proof

/-! ### Nodes acted on one after another -/

/-- With keys held once an item is found by its key. -/
theorem findKey_of_once {α : Type} (key : α → Nat) {l : List α} {x : α} (once : l.Pairwise (fun a b => key a ≠ key b))
    (hx : x ∈ l) : findKey key (key x) l = some x := by
  cases found : findKey key (key x) l with
  | none => exact absurd rfl ((findKey_none key).mp found x hx)
  | some y =>
    obtain ⟨same, hy⟩ := findKey_some key found
    rw [List.inj_on_of_nodup_map (List.pairwise_map.mpr once) hy hx same]

/-- An act on each node in turn, where each address is held once: each node is acted on once, and the records stand in
that order. `K` is what the acts keep. -/
theorem State.foldl_nodes {act : State → Nat → State} {f : Node → Node} {r : Nat → Node → List (Nat × Entry)}
    {K : State → Prop} (addr : ∀ n, (f n).addr = n.addr)
    (one : ∀ t n, K t → t.node? n.addr = some n → K (act t n.addr) ∧ Records t (act t n.addr) (r t.now n) ∧
      ∃ g : Node → Node, g n = f n ∧ (act t n.addr).nodes = modKey Node.addr n.addr g t.nodes) :
    ∀ (post pre : List Node) (t : State), K t → t.nodes = pre.map f ++ post →
      (pre ++ post).Pairwise (fun m n => m.addr ≠ n.addr) →
      let u := (post.map Node.addr).foldl act t
      K u ∧ Records t u (post.flatMap (r t.now)) ∧ u.nodes = (pre ++ post).map f := by
  intro post
  induction post with
  | nil => exact fun pre t k nodes _ => ⟨k, .refl t, by simpa using nodes⟩
  | cons n post ih =>
    intro pre t k nodes asc
    have asc' : (pre.map f ++ n :: post).Pairwise (fun m n => m.addr ≠ n.addr) := by
      simp only [List.pairwise_append, List.pairwise_map, addr, List.mem_map, forall_exists_index, and_imp,
        forall_apply_eq_imp_iff₂] at asc ⊢
      exact asc
    have found : t.node? n.addr = some n := by
      have := findKey_of_once Node.addr asc' (x := n) (by simp)
      rwa [← nodes] at this
    obtain ⟨k', records, g, here, acted⟩ := one t n k found
    have next : (act t n.addr).nodes = (pre ++ [n]).map f ++ post := by
      obtain ⟨_, tail, cross⟩ := List.pairwise_append.mp asc'
      have before : (pre.map f).map (fun m => if m.addr = n.addr then g m else m) = pre.map f := by
        refine (List.map_congr_left fun m hm => if_neg ?_).trans (List.map_id _)
        exact cross m hm n (by simp)
      have after : post.map (fun m => if m.addr = n.addr then g m else m) = post := by
        refine (List.map_congr_left fun m hm => if_neg ?_).trans (List.map_id _)
        exact ((List.pairwise_cons.mp tail).1 m hm).symm
      rw [acted, nodes, modKey, List.map_append, List.map_cons, before, after, if_pos rfl, here]
      simp
    obtain ⟨last, more, all⟩ := ih (pre ++ [n]) (act t n.addr) k' next (by simpa using asc)
    refine ⟨last, ?_, by simpa using all⟩
    rw [show (act t n.addr).now = t.now by simp [State.now, records.time]] at more
    exact records.trans more

/-! ### A node's state changed -/

theorem Records.raise (s : State) {k : NoticeKind} (h : k ≠ .lineChange) : Records s (s.raise k) [] :=
  ⟨by simp, by simp, s.raise_quiet k h⟩

theorem State.changeNode_eq {s : State} {k : Nat} {n : Node} (hn : s.node? k = some n) {st : NodeState} (ne : n.st ≠ st) :
    s.changeNode k st
      = ((s.modNode k (Node.enter st)).append (nodeStateEntry n (.nodeState st))).raise .nodeChange := by
  simp only [State.changeNode, hn, if_neg ne]

theorem State.changeNode_records {s : State} {k : Nat} {n : Node} (hn : s.node? k = some n) {st : NodeState}
    (ne : n.st ≠ st) : Records s (s.changeNode k st) [(s.now, nodeStateEntry n (.nodeState st))] := by
  rw [State.changeNode_eq hn ne]
  have mod : Records s (s.modNode k (Node.enter st)) [] := .of_eq rfl rfl rfl
  have record : Records _ _ _ := Records.append (s.modNode k (Node.enter st)) (nodeStateEntry n (.nodeState st)) rfl
  simpa [State.now] using (mod.trans record).trans (.raise _ (by simp))

/-! ### Service lost (02:R35) -/

/-- A node as the loss of service leaves it. -/
def Node.fallSilent (n : Node) : Node := if n.st.answering then (n.enter .silent).counts 0 0 0 else n

theorem Node.fallSilent_addr (n : Node) : n.fallSilent.addr = n.addr := by
  unfold Node.fallSilent
  split
  · exact (n.enter_shape .silent).1.addr
  · rfl

/-- The NODE_STATE record of a node that falls silent. -/
def Node.silentRecord (now : Nat) (n : Node) : List (Nat × Entry) :=
  if n.st.answering then [(now, nodeStateEntry n (.nodeState .silent))] else []

theorem State.silence_of {t : State} {n : Node} (hn : t.node? n.addr = some n) :
    Records t (t.silence n.addr) (n.silentRecord t.now) ∧
      ∃ g : Node → Node, g n = n.fallSilent ∧ (t.silence n.addr).nodes = modKey Node.addr n.addr g t.nodes := by
  unfold State.silence Node.fallSilent Node.silentRecord
  simp only [hn]
  cases ans : n.st.answering with
  | false => exact ⟨.refl t, id, rfl, by simp [modKey]⟩
  | true =>
    have ne : n.st ≠ .silent := fun e => by rw [e] at ans; cases ans
    refine ⟨(State.changeNode_records hn ne).trans (ts := []) (.of_eq rfl rfl rfl), Node.counts 0 0 0 ∘ Node.enter .silent, rfl, ?_⟩
    have addr (m : Node) : (m.enter .silent).addr = m.addr := (m.enter_shape .silent).1.addr
    simp only [if_true, State.changeNode_eq hn ne, State.modNode_nodes, State.raise_nodes, State.append_nodes, modKey,
      List.map_map]
    refine List.map_congr_left fun m _ => ?_
    by_cases h : m.addr = n.addr <;> simp [h, addr]

/-- Every ONLINE and PROBATION node falls silent, with its record. -/
theorem State.serviceLost_spec {s : State} (asc : s.nodes.Pairwise (fun m n => m.addr < n.addr)) :
    s.serviceLost.nodes = s.nodes.map Node.fallSilent ∧
      Records s s.serviceLost (s.nodes.flatMap (Node.silentRecord s.now)) := by
  obtain ⟨_, records, nodes⟩ := State.foldl_nodes (act := State.silence) (K := fun _ => True) Node.fallSilent_addr
    (fun t n _ hn => ⟨trivial, State.silence_of hn⟩) s.nodes [] s trivial rfl (asc.imp Nat.ne_of_lt)
  exact ⟨nodes, records⟩

theorem State.silence_records (t : State) (k : Nat) : ∃ rs, Records t (t.silence k) rs ∧ ∀ e ∈ rs, e.2.kind = .nodeState := by
  unfold State.silence
  cases hn : t.node? k with
  | none => exact ⟨[], .refl t, by simp⟩
  | some n =>
    cases ans : n.st.answering with
    | false => exact ⟨[], by simpa [ans] using Records.refl t, by simp⟩
    | true =>
      have ne : n.st ≠ .silent := fun e => by rw [e] at ans; cases ans
      refine ⟨[(t.now, nodeStateEntry n (.nodeState .silent))], ?_, by simp [nodeStateEntry]⟩
      simp only [ans, if_true]
      exact (State.changeNode_records hn ne).trans (ts := []) (.of_eq rfl rfl rfl)

theorem State.serviceLost_records (s : State) : ∃ rs, Records s s.serviceLost rs ∧ ∀ e ∈ rs, e.2.kind = .nodeState := by
  rw [State.serviceLost_eq]
  generalize s.addrs = ks
  induction ks generalizing s with
  | nil => exact ⟨[], .refl s, by simp⟩
  | cons k ks ih =>
    obtain ⟨first, here, kind⟩ := s.silence_records k
    obtain ⟨rest, more, kinds⟩ := ih (s.silence k)
    exact ⟨first ++ rest, here.trans more, fun e he => (List.mem_append.mp he).elim (kind e) (kinds e)⟩

/-! ### A line state change (01:R3) -/

/-- `v` is `s` with that line's own record and the round's carriage edited, its state standing. -/
structure LineReady (l : LineId) (s v : State) : Prop where
  others : ∀ m, m ≠ l → v.line m = s.line m
  st : (v.line l).st = (s.line l).st
  lines : v.lines = { s.lines with lineA := v.lines.lineA, lineB := v.lines.lineB, round := v.lines.round }
  rest : v = { s with lines := v.lines }

theorem LineReady.refl (l : LineId) (s : State) : LineReady l s s := ⟨fun _ _ => rfl, rfl, rfl, rfl⟩

theorem LineReady.trans {l : LineId} {s t u : State} (h : LineReady l s t) (g : LineReady l t u) : LineReady l s u where
  others m ne := (g.others m ne).trans (h.others m ne)
  st := g.st.trans h.st
  lines := by rw [g.lines, h.lines]
  rest := by rw [g.rest, h.rest]

theorem State.modLine_lines (s : State) (l : LineId) (f : Line → Line) : (s.modLine l f).lines = { s.lines with
    lineA := (s.modLine l f).lines.lineA, lineB := (s.modLine l f).lines.lineB, round := (s.modLine l f).lines.round } := by
  cases l <;> rfl

theorem LineReady.modLine (l : LineId) (s : State) (f : Line → Line) (st : ∀ x, (f x).st = x.st) : LineReady l s (s.modLine l f) where
  others _ ne := State.modLine_line_ne s l _ f ne
  st := by rw [State.modLine_line, st]
  lines := by cases l <;> rfl
  rest := by cases l <;> rfl

theorem LineReady.cutIf (l : LineId) (s : State) (b : Bool) : LineReady l s (if b then s.cutRound l else s) := by
  cases b
  · exact .refl l s
  · exact ⟨fun m _ => by cases m <;> rfl, by cases l <;> rfl, rfl, rfl⟩

theorem LineReady.service {l : LineId} {s v : State} (h : LineReady l s v) : v.service = s.service := by
  have sts : v.lines.lineA.st = s.lines.lineA.st ∧ v.lines.lineB.st = s.lines.lineB.st := by
    cases l
    · exact ⟨h.st, congrArg Line.st (h.others .b (by simp))⟩
    · exact ⟨congrArg Line.st (h.others .a (by simp)), h.st⟩
  rw [State.service, State.service, sts.1, sts.2]

/-- The change itself, before the nodes fall silent. -/
def State.turnLine (l : LineId) (st : LineState) (s : State) : State :=
  ((s.modLine l (fun x => { x with st := st })).append (lineStateEntry l st)).raise .lineChange

theorem State.setLineState_eq {l : LineId} {st : LineState} {s : State} (ne : (s.line l).st ≠ st) :
    s.setLineState l st
      = if s.service && !(s.turnLine l st).service then (s.turnLine l st).serviceLost else s.turnLine l st :=
  if_neg ne

/-- What follows the change: nothing, or the nodes that fall silent. -/
theorem State.setLineState_records {l : LineId} {st : LineState} {s : State} (ne : (s.line l).st ≠ st) :
    ∃ es, Records (s.turnLine l st) (s.setLineState l st) es ∧ ∀ e ∈ es, e.2.kind = .nodeState := by
  rw [State.setLineState_eq ne]
  split
  · exact State.serviceLost_records _
  · exact ⟨[], .refl _, by simp⟩

theorem State.setLineState_lines {l : LineId} {st : LineState} {s : State} (ne : (s.line l).st ≠ st) :
    (s.setLineState l st).lines = (s.modLine l (fun x => { x with st := st })).lines := by
  rw [State.setLineState_eq ne]
  split <;> simp [State.turnLine]

theorem State.setLineState_silenced {l : LineId} {st : LineState} {s : State} (ne : (s.line l).st ≠ st) :
    Silenced (s.modLine l (fun x => { x with st := st })) (s.setLineState l st) := by
  have turned : Silenced (s.modLine l (fun x => { x with st := st })) (s.turnLine l st) :=
    (Silenced.append _ _).trans (.raise _ _)
  rw [State.setLineState_eq ne]
  split
  · exact turned.trans (.serviceLost _)
  · exact turned

theorem State.setLineState_rest (s : State) (l : LineId) (st : LineState) : s.setLineState l st = { s with
    lines := (s.setLineState l st).lines, nodes := (s.setLineState l st).nodes
    journal := (s.setLineState l st).journal, port := (s.setLineState l st).port } := State.eq_of_fields

/-- Where service lasts, no node falls silent. -/
theorem State.setLineState_nodes {l : LineId} {st : LineState} {s : State} (ne : (s.line l).st ≠ st)
    (keeps : s.service = true → (s.setLineState l st).service = true) : (s.setLineState l st).nodes = s.nodes := by
  have same : (s.turnLine l st).service = (s.setLineState l st).service := by
    refine (State.service_congr ?_).symm
    rw [State.setLineState_lines ne]
    simp [State.turnLine]
  rw [State.setLineState_eq ne, same, if_neg]
  · simp [State.turnLine]
  · intro lost
    rw [Bool.and_eq_true, Bool.not_eq_true'] at lost
    rw [keeps lost.1] at lost
    cases lost.2

/-- LINE_CHANGE is raised by the change, and tells the states that it leaves. -/
theorem State.turnLine_raises {l : LineId} {st : LineState} {s : State} (running : s.part = .running) :
    (s.turnLine l st).port.arm.lineChange = false ∧
      (s.port.arm.lineChange = true → lineChangeNotice (s.turnLine l st).lines.lineA.st (s.turnLine l st).lines.lineB.st
        ∈ (s.turnLine l st).port.frames) := by
  let w := (s.modLine l (fun x => { x with st := st })).append (lineStateEntry l st)
  have armed : w.port.arm.lineChange = s.port.arm.lineChange :=
    ((s.modLine l _).append_quiet _).arm.trans (by simp)
  have told : lineChangeNotice (w.raise .lineChange).lines.lineA.st (w.raise .lineChange).lines.lineB.st
      = noticeFrame .lineChange w := by
    simp [lineChangeNotice, noticeFrame, LineState.code_eq]
  show (w.raise .lineChange).port.arm.lineChange = false ∧ (s.port.arm.lineChange = true →
    lineChangeNotice (w.raise .lineChange).lines.lineA.st (w.raise .lineChange).lines.lineB.st ∈ (w.raise .lineChange).port.frames)
  rw [told]
  have part : w.part = .running := by simp [w, running]
  unfold State.raise
  split
  · exact ⟨rfl, fun _ => (Port.ready_frames _ _).symm.subset (by simp)⟩
  · rename_i no
    have off : w.port.arm.lineChange = false := by
      simpa [part, Arming.get] using no
    exact ⟨off, fun on => by rw [← armed, off] at on; cases on⟩

/-- A line state change in RUNNING, after edits of the line. -/
theorem State.setLineState_moved {l : LineId} {st : LineState} {s v : State} (ready : LineReady l s v)
    (running : s.part = .running) (ne : (s.line l).st ≠ st) : LineMoved l st s (v.setLineState l st) := by
  rw [← ready.st] at ne
  have running' : v.part = .running := by rw [ready.rest]; exact running
  have now : v.now = s.now := by rw [ready.rest]; rfl
  have port : v.port = s.port := by rw [ready.rest]
  obtain ⟨es, after, kinds⟩ := State.setLineState_records ne
  have lines := State.setLineState_lines ne
  have turned : (v.turnLine l st).journal = s.journal.push s.now (lineStateEntry l st) := by
    rw [← now, show s.journal = v.journal by rw [ready.rest]]
    simp [State.turnLine, lineStateEntry, State.now]
  obtain ⟨arm, notice⟩ := State.turnLine_raises (l := l) (st := st) running'
  have same : (v.setLineState l st).lines = (v.turnLine l st).lines := by
    rw [lines]
    simp [State.turnLine]
  rw [← same, port] at notice
  have fell := State.setLineState_silenced ne
  obtain ⟨fs, frames, _⟩ := after.port.frames
  exact {
    others := fun m other => by
      have := (State.modLine_line_ne v l m (fun x => { x with st := st }) other).trans (ready.others m other)
      rw [← this]
      cases m <;> simp [State.line, lines]
    record := ⟨es, by rw [after.journal, turned], kinds⟩
    nodes := fun keeps => by
      rw [State.setLineState_nodes ne (ready.service.symm ▸ keeps), ready.rest]
    lines := by
      rw [lines]
      let w := v.modLine l (fun x => { x with st := st })
      exact (State.modLine_lines v l _).trans (congrArg (fun x : LineEngine => { x with
        lineA := w.lines.lineA, lineB := w.lines.lineB, round := w.lines.round }) ready.lines)
    port := port ▸ (show (v.modLine l _).port = v.port by cases l <;> rfl) ▸ fell.noticed.notices
    disarmed := fun _ => after.port.arm.trans arm
    notice := fun _ armed => frames.symm.subset (List.mem_append_left _ (notice armed))
    rest := by
      let u := v.setLineState l st
      exact (v.setLineState_rest l st).trans (congrArg (fun x : State => { x with
          lines := u.lines, nodes := u.nodes, journal := u.journal, port := u.port }) ready.rest) }

theorem State.setLineState_line {l : LineId} {st : LineState} {s : State} (ne : (s.line l).st ≠ st) :
    (s.setLineState l st).line l = { s.line l with st := st } := by
  have := s.modLine_line l (fun x => { x with st := st })
  cases l <;> simpa [State.line, State.setLineState_lines ne] using this

theorem Node.silentRecords (now : Nat) (ns : List Node) : ns.flatMap (Node.silentRecord now)
    = (ns.filter (fun n => n.st.answering)).map (fun n => (now, nodeStateEntry n (.nodeState .silent))) := by
  induction ns with
  | nil => rfl
  | cons n ns ih => cases ans : n.st.answering <;> simp [Node.silentRecord, ans, ih]

/-- 02:R35, at the change that leaves no line in service. -/
theorem State.setLineState_silences {l : LineId} {st : LineState} {s : State} (ne : (s.line l).st ≠ st)
    (on : s.service = true) (off : (s.setLineState l st).service = false)
    (asc : s.nodes.Pairwise (fun m n => m.addr < n.addr)) :
    (s.setLineState l st).nodes = s.nodes.map Node.fallSilent ∧
      (s.setLineState l st).journal = (s.journal.push s.now (lineStateEntry l st)).pushAll
        ((s.nodes.filter (fun n => n.st.answering)).map (fun n => (s.now, nodeStateEntry n (.nodeState .silent)))) := by
  have same : (s.turnLine l st).service = false := by
    rw [← off]
    refine (State.service_congr ?_).symm
    rw [State.setLineState_lines ne]
    simp [State.turnLine]
  have nodes : (s.turnLine l st).nodes = s.nodes := by simp [State.turnLine]
  have now : (s.turnLine l st).now = s.now := State.now_eq (by simp [State.turnLine])
  have journal : (s.turnLine l st).journal = s.journal.push s.now (lineStateEntry l st) := by
    simp [State.turnLine, lineStateEntry, State.now]
  have eq : s.setLineState l st = (s.turnLine l st).serviceLost := by
    rw [State.setLineState_eq ne, on, same]
    rfl
  obtain ⟨fell, records⟩ := State.serviceLost_spec (s := s.turnLine l st) (by rw [nodes]; exact asc)
  rw [eq]
  refine ⟨by rw [fell, nodes], ?_⟩
  rw [records.journal, nodes, now, journal, Node.silentRecords]

theorem Node.reloadLeft_kept (n : Node) : n.reloadLeft = { n with reload := n.reloadLeft.reload } := by
  unfold Node.reloadLeft
  split <;> rfl

theorem Node.dropInProgress_kept (n : Node) : n.dropInProgress = { n with
    upload := none, received := n.dropInProgress.received, permit := n.dropInProgress.permit } := by
  unfold Node.dropInProgress
  cases up : n.upload with
  | none => cases n; simp_all
  | some u => rfl

/-- A node that falls silent (02:R35, 07:R133). -/
theorem Node.fallSilent_of {n : Node} (ans : n.st.answering = true) : n.fallSilent.st = .silent ∧ n.fallSilent.good = 0 ∧
    n.fallSilent.missed = 0 ∧ n.fallSilent.silent = 0 ∧ n.fallSilent.upload = none ∧ n.fallSilent.enrol = n.enrol ∧
    n.fallSilent.joins = n.joins ∧ n.fallSilent.clock = n.clock ∧ n.fallSilent.cursor = n.cursor ∧
    n.fallSilent.comps = n.comps ∧ n.fallSilent.session = n.session := by
  have leaves : n.leaveFor .silent = n.dropInProgress.reloadLeft := if_pos (by rw [ans]; rfl)
  rw [Node.fallSilent, if_pos ans]
  simp only [Node.enter, leaves, Node.counts]
  rw [Node.reloadLeft_kept, Node.dropInProgress_kept]
  simp

/-! ### LINE_CONTROL (01:R21) -/

/-- Settles O35: each action by the state of the line. -/
theorem lineControlFollowsItsTable : Obligations.LineControlFollowsItsTable := by
  unfold Obligations.LineControlFollowsItsTable
  intro l tag s takes on head ok wrong silences
  have retrains {u : State} {r : Reply} (gives : s.retrain l = (u, r)) :
      exec (.lineRetrain tag (head ++ [0])) s = .next (u.answer 0x10 tag false r) :=
    exec_takes rfl takes rfl ((by cases l <;> rfl : serveLineControl (head ++ [0]) s = s.retrain l).trans gives) rfl
  have disables {u : State} {r : Reply} (gives : s.disableLine l = (u, r)) :
      exec (.lineDisable tag head) s = .next (u.answer 0x10 tag false r) :=
    exec_takes rfl takes rfl ((by cases l <;> rfl : serveLineControl (head ++ [1]) s = s.disableLine l).trans gives) rfl
  have enables {u : State} {r : Reply} (gives : s.enableLine l = (u, r)) :
      exec (.lineEnable tag head) s = .next (u.answer 0x10 tag false r) :=
    exec_takes rfl takes rfl ((by cases l <;> rfl : serveLineControl (head ++ [2]) s = s.enableLine l).trans gives) rfl
  have silenced {v : State} {st : LineState} (ready : LineReady l s v) (ne : (s.line l).st ≠ st) : silences (v.setLineState l st) := by
    intro on off asc
    rw [← ready.st] at ne
    rw [← ready.service] at on
    have vn : v.nodes = s.nodes := by rw [ready.rest]
    obtain ⟨nodes, journal⟩ := State.setLineState_silences ne on off (vn ▸ asc)
    rw [vn] at nodes journal
    have asc' : (v.setLineState l st).nodes.Pairwise (fun m n => m.addr < n.addr) := by
      rw [nodes, List.pairwise_map]
      simpa only [Node.fallSilent_addr] using asc
    have found (n : Node) (hn : n ∈ s.nodes) : (v.setLineState l st).node? n.addr = some n.fallSilent := by
      rw [← n.fallSilent_addr]
      exact findKey_of_mem Node.addr asc' (by rw [nodes]; exact List.mem_map_of_mem hn)
    refine ⟨by simp [State.addrs, nodes, Node.fallSilent_addr], fun n hn quiet => ?_, fun n hn ans => ?_, lineStateEntry l st, ?_⟩
    · rw [found n hn, Node.fallSilent, quiet]
      rfl
    · exact ⟨_, found n hn, Node.fallSilent_of ans⟩
    · rw [journal, show v.now = s.now by rw [ready.rest]; rfl, show v.journal = s.journal by rw [ready.rest]]
      rfl
  have cut (b : Bool) := LineReady.cutIf l s b
  let entering : Line → Line := fun x => { x with retrain := 4, running := 0 }
  have entered (v : State) := LineReady.modLine l v entering (fun _ => rfl)
  refine ⟨fun training => ?_, fun serving => ?_, fun disabled => ⟨?_, ?_⟩, fun standing => ?_, fun disabled => ?_, fun standing => ?_⟩
  · refine retrains ?_
    simp only [State.retrain, training, LineState.inService]
    rw [if_neg (by simp), State.enterTraining, State.setLineState, if_pos (by simp [training])]
  · have ne : (s.line l).st ≠ .training := fun e => by rw [e] at serving; cases serving
    have ready := (cut true).trans (entered _)
    refine ⟨(s.cutRound l).enterTraining l, retrains ?_, State.setLineState_moved ready takes.1 ne, silenced ready ne, ?_⟩
    · unfold State.retrain
      rw [serving]
      split <;> simp_all [LineState.inService]
    · refine (State.setLineState_line (fun e => ne (ready.st.symm.trans e))).trans ?_
      rw [State.modLine_line]
      cases l <;> rfl
  · exact retrains (by simp only [State.retrain, disabled]; rfl)
  · refine disables ?_
    simp [State.disableLine, disabled, LineState.inService, State.setLineState]
  · have ready := cut (s.line l).st.inService
    refine ⟨_, disables rfl, State.setLineState_moved ready takes.1 standing, silenced ready standing, ?_⟩
    refine (State.setLineState_line (fun e => standing (ready.st.symm.trans e))).trans ?_
    split <;> cases l <;> rfl
  · have ne : (s.line l).st ≠ .training := by rw [disabled]; simp
    refine ⟨s.enterTraining l, enables (by simp only [State.enableLine, disabled]),
      State.setLineState_moved (entered s) takes.1 ne, ?_⟩
    refine (State.setLineState_line (fun e => ne ((entered s).st.symm.trans e))).trans ?_
    rw [State.modLine_line]
  · refine enables ?_
    unfold State.enableLine
    split
    · contradiction
    · rfl

end Sys2Proof.Machine

/-! Composed images loaded back: O16. -/

namespace Sys2Proof.Machine

open Sys2Proof

/-! ### Enrolment records -/

/-- The fields of an enrolment as a record holds them. -/
def EnrolReq.raw (r : EnrolReq) : RawEnrol where
  addr := byteOf r.addr
  point := BitVec.ofNat 16 r.enrol.point
  cls := byteOf r.enrol.cls.code
  hasEntry := flagByte r.enrol.entry.isSome
  entry := BitVec.ofNat 16 (r.enrol.entry.getD 0)
  hasHours := flagByte r.enrol.hours.isSome
  start := BitVec.ofNat 16 ((r.enrol.hours.map (·.start)).getD 0)
  stop := BitVec.ofNat 16 ((r.enrol.hours.map (·.stop)).getD 0)
  oos := flagByte r.enrol.oos
  hasComps := flagByte r.enrol.comps.isSome
  comps := byteOf (r.enrol.comps.getD 0)

theorem le16_wrapped (n : Nat) : byteOf (n % 65536) = byteOf n ∧ byteOf (n % 65536 / 256) = byteOf (n / 256) := by
  constructor <;> apply BitVec.eq_of_toNat_eq <;> simp only [byteOf, BitVec.toNat_ofNat] <;> omega

theorem byteOf_value {n : Nat} (h : n < 256) : (byteOf n).toNat = n := by
  rw [byteOf, BitVec.toNat_ofNat, Nat.mod_eq_of_lt h]

theorem word_value {n : Nat} (h : n < 65536) : (BitVec.ofNat 16 n).toNat = n := by
  rw [BitVec.toNat_ofNat, Nat.mod_eq_of_lt h]

theorem flagByte_one (b : Bool) : flagByte b = 1 ↔ b = true := by cases b <;> decide

theorem flagByte_zero (b : Bool) : flagByte b = 0 ↔ b = false := by cases b <;> decide

theorem flagByte_le (b : Bool) : (flagByte b).toNat ≤ 1 := by cases b <;> decide

theorem EnrolReq.raw_bytes (r : EnrolReq) : r.raw.bytes = byteOf r.addr :: r.enrol.bytes := by
  rw [RawEnrol.bytes_eq, Enrolment.bytes, orZeros_hours]
  simp [EnrolReq.raw, le16, optLe16, optByte, le16_wrapped]

/-- What the checks of one record bound. -/
theorem EnrolReq.fieldsOk_bounds {r : EnrolReq} (h : r.fieldsOk = true) :
    (1 ≤ r.addr ∧ r.addr ≤ 96) ∧ r.enrol.point ≤ 4095 ∧
    (∀ x, r.enrol.hours = some x → x.start ≤ 1439 ∧ x.stop ≤ 1439 ∧ x.start ≠ x.stop) ∧
    (r.enrol.cls = .minibar → ∃ k, r.enrol.comps = some k ∧ 1 ≤ k ∧ k ≤ 8) ∧
    (r.enrol.cls ≠ .minibar → r.enrol.comps = none) ∧
    (r.enrol.cls = .amenityGate ∨ r.enrol.cls = .service → r.enrol.entry = none) ∧
    (r.enrol.cls = .roomEntry → r.enrol.entry = some r.enrol.point) ∧
    (r.enrol.cls = .suiteInner ∨ r.enrol.cls = .minibar → r.enrol.entry.isSome = true) := by
  obtain ⟨addr, point, cls, entry, hours, oos, comps⟩ := r
  simp only [EnrolReq.fieldsOk, addressOk, Bool.and_eq_true, decide_eq_true_eq, Option.all_eq_true] at h
  obtain ⟨⟨⟨⟨ha, hp⟩, hh⟩, hc⟩, he⟩ := h
  refine ⟨ha, hp, fun x hx => ?_, ?_⟩
  · simpa [Hours.wellFormed, and_assoc] using hh x hx
  · cases cls <;> cases comps <;> cases entry <;> simp_all

theorem EnrolReq.raw_request {r : EnrolReq} (ok : r.fieldsOk = true) (entry : ∀ e, r.enrol.entry = some e → e < 65536) :
    r.raw.request = r := by
  obtain ⟨addr, point, hours, bar, other, -⟩ := EnrolReq.fieldsOk_bounds ok
  obtain ⟨a, ⟨p, cls, e, h, oos, comps⟩⟩ := r
  simp only [RawEnrol.request, EnrolReq.raw, EnrolReq.mk.injEq, Enrolment.mk.injEq]
  refine ⟨?_, ?_, ?_, ?_, ?_, ?_, ?_⟩
  · exact byteOf_value (by simp only at addr; omega)
  · exact word_value (by simp only at point; omega)
  · cases cls <;> rfl
  · cases e with
    | none => rfl
    | some e => simp [flagByte, Nat.mod_eq_of_lt (entry e rfl)]
  · cases h with
    | none => rfl
    | some h =>
      obtain ⟨start, stop, -⟩ := hours h rfl
      simp [flagByte, Nat.mod_eq_of_lt (show h.start < 65536 by omega), Nat.mod_eq_of_lt (show h.stop < 65536 by omega)]
  · cases oos <;> rfl
  · cases comps with
    | none => rfl
    | some k =>
      have small : k ≤ 8 := by
        by_cases isBar : cls = .minibar
        · obtain ⟨j, hj, -, le⟩ := bar isBar
          cases hj
          exact le
        · cases other isBar
      simp [flagByte, byteOf_value (show k < 256 by omega)]

theorem EnrolReq.raw_good {r : EnrolReq} (ok : r.fieldsOk = true) :
    r.raw.Good := by
  obtain ⟨addr, point, hours, bar, other, gate, room, suite⟩ := EnrolReq.fieldsOk_bounds ok
  have cls : r.raw.cls = byteOf r.enrol.cls.code := rfl
  have held : r.raw.addr.toNat = r.addr ∧ r.raw.point.toNat = r.enrol.point :=
    ⟨byteOf_value (by omega), word_value (by omega)⟩
  refine ⟨by rw [held.1]; exact addr, by rw [held.2]; exact point, ?_,
    ⟨flagByte_le _, flagByte_le _, flagByte_le _, flagByte_le _⟩, fun has => ?_, fun isBar => ?_, fun noBar => ?_,
    fun none => ?_, fun some some' => ?_, fun isRoom => ?_⟩
  · rw [cls]
    cases r.enrol.cls <;> decide
  · obtain ⟨x, hx⟩ := Option.isSome_iff_exists.mp ((flagByte_one _).mp has)
    obtain ⟨start, stop, ne⟩ := hours x hx
    have values : r.raw.start.toNat = x.start ∧ r.raw.stop.toNat = x.stop := by
      simp only [EnrolReq.raw, hx]
      exact ⟨word_value (n := x.start) (by omega), word_value (n := x.stop) (by omega)⟩
    exact ⟨by omega, by omega, fun e => ne (by rw [← values.1, ← values.2, e])⟩
  · have : r.enrol.cls = .minibar := by rw [cls] at isBar; revert isBar; cases r.enrol.cls <;> decide
    obtain ⟨k, hk, lo, hi⟩ := bar this
    have value : r.raw.comps.toNat = k := by
      simp only [EnrolReq.raw, hk]
      exact byteOf_value (n := k) (by omega)
    exact ⟨(flagByte_one _).mpr (by rw [hk]; rfl), by omega, by omega⟩
  · have : r.enrol.cls ≠ .minibar := fun e => noBar (by rw [cls, e]; rfl)
    exact (flagByte_zero _).mpr (by rw [other this]; rfl)
  · refine (flagByte_zero _).mpr ?_
    rw [gate (by rw [cls] at none; revert none; cases r.enrol.cls <;> decide)]
    rfl
  · refine (flagByte_one _).mpr ?_
    rw [cls] at some some'
    cases h : r.enrol.cls with
    | roomEntry => rw [room h]; rfl
    | suiteInner => exact suite (.inl h)
    | minibar => exact suite (.inr h)
    | amenityGate => exact absurd (by rw [h]; rfl) some
    | service => exact absurd (by rw [h]; rfl) some'
  · have : r.enrol.cls = .roomEntry := by rw [cls] at isRoom; revert isRoom; cases r.enrol.cls <;> decide
    simp only [EnrolReq.raw, room this, Option.getD_some]

/-! ### The body -/

/-- The values of the running settings and the records as a body holds them. -/
def Settings.raw (v : Settings) (current : v.currentKey.length = 8) (previous : v.previousKey.length = 8)
    (records : List RawEnrol) : RawBody where
  roundLength := BitVec.ofNat 16 v.roundLength
  degradeThreshold := byteOf v.degradeThreshold
  localOffset := BitVec.ofNat 16 (u16OfInt v.localOffset)
  encodingLapse := BitVec.ofNat 16 v.encodingLapse
  returnWindow := BitVec.ofNat 16 v.returnWindow
  defaultCeiling := BitVec.ofNat 32 v.defaultCeiling
  journalThreshold := BitVec.ofNat 16 v.journalThreshold
  currentKey := ⟨⟨v.currentKey⟩, current⟩
  previousKey := ⟨⟨v.previousKey⟩, previous⟩
  records := records

theorem le32_wrapped (n : Nat) : byteOf (n % 4294967296) = byteOf n ∧ byteOf (n % 4294967296 / 256) = byteOf (n / 256) ∧
    byteOf (n % 4294967296 / 65536) = byteOf (n / 65536) ∧
    byteOf (n % 4294967296 / 16777216) = byteOf (n / 16777216) := by
  refine ⟨?_, ?_, ?_, ?_⟩ <;> apply BitVec.eq_of_toNat_eq <;> simp only [byteOf, BitVec.toNat_ofNat] <;> omega

theorem Settings.raw_bytes (v : Settings) (current : v.currentKey.length = 8) (previous : v.previousKey.length = 8)
    (records : List RawEnrol) : (v.raw current previous records).bytes = v.bytes ++ records.flatMap RawEnrol.bytes := by
  rw [RawBody.bytes_eq]
  simp [Settings.raw, Settings.bytes, le16, le32, le16_wrapped, le32_wrapped]

theorem offset_value {x : Int} (lo : -720 ≤ x) (hi : x ≤ 840) : (BitVec.ofNat 16 (u16OfInt x)).toInt = x := by
  rw [← i16_parts, word_value (by unfold u16OfInt; omega)]
  unfold u16OfInt
  omega

/-- Values in their ranges come back unclamped. -/
theorem Settings.raw_gives {v : Settings} (h : v.InRange) {records : List RawEnrol} {len : Nat} (long : 31 ≤ len) {l : Loaded}
    (gives : (v.raw h.currentKey h.previousKey records).Gives len l) : l.settings = v ∧ l.clamped = false := by
  obtain ⟨round, degrade, offset, lapse, window, ceiling, threshold, _, _⟩ := h
  have ceilingValue : (BitVec.ofNat 32 v.defaultCeiling).toNat = v.defaultCeiling := by
    rw [BitVec.toNat_ofNat]
    omega
  have values := And.intro (word_value (show v.roundLength < 65536 by omega)) (And.intro
    (byteOf_value (show v.degradeThreshold < 256 by omega)) (And.intro (word_value (show v.encodingLapse < 65536 by omega))
    (And.intro (word_value (show v.returnWindow < 65536 by omega)) (word_value (show v.journalThreshold < 65536 by omega)))))
  refine ⟨?_, ?_⟩
  · rw [gives.settings]
    simp only [Settings.raw, show 2 ≤ len by omega, show 3 ≤ len by omega, show 5 ≤ len by omega, show 7 ≤ len by omega,
      show 9 ≤ len by omega, show 13 ≤ len by omega, show 15 ≤ len by omega, long, if_true, values, ceilingValue,
      offset_value offset.1 offset.2]
    rw [show max 4096 (min 16384 v.roundLength) = v.roundLength by omega,
      show max 1 (min 64 v.degradeThreshold) = v.degradeThreshold by omega,
      show max (-720) (min 840 v.localOffset) = v.localOffset by omega,
      show max 10 (min 600 v.encodingLapse) = v.encodingLapse by omega,
      show max 0 (min 900 v.returnWindow) = v.returnWindow by omega,
      show max 0 (min 9999999 v.defaultCeiling) = v.defaultCeiling by omega,
      show max 1 (min 2048 v.journalThreshold) = v.journalThreshold by omega]
    rfl
  · refine Bool.eq_false_iff.mpr (fun is => ?_)
    have outside := gives.clamped.mp is
    revert outside
    simp only [Settings.raw, values, ceilingValue, offset_value offset.1 offset.2]
    omega

/-! ### The image -/

theorem crc32_lt (bs : List Byte) : crc32 bs < 4294967296 := BitVec.isLt _

/-- The image of a body as its fields lie. -/
def rawImageOf (count : Nat) (body : List Byte) : RawImage where
  ident := 0x5A42
  version := 1
  length := BitVec.ofNat 16 body.length
  count := BitVec.ofNat 32 count
  bodyCheck := BitVec.ofNat 32 (crc32 body)
  headerCheck := BitVec.ofNat 16 (crc16 (headerStart count body))
  rest := body

theorem rawImageOf_start (count : Nat) (body : List Byte) : (rawImageOf count body).start = headerStart count body := by
  rw [RawImage.start_eq]
  simp only [rawImageOf, headerStart, le16, le32, BitVec.toNat_ofNat, Nat.reducePow, le16_wrapped, le32_wrapped]
  rfl

theorem rawImageOf_bytes (count : Nat) (body : List Byte) : (rawImageOf count body).bytes = imageOf count body := by
  rw [RawImage.bytes_eq, rawImageOf_start, imageOf]
  simp [rawImageOf, le16, le16_wrapped]

/-- A composed image of a body that loads is judged GOOD. -/
theorem judgeBank_imageOf (count : Nat) {body : List Byte} {l : Loaded} (short : body.length ≤ 4080)
    (ends : bodyEndsWell body.length) (loads : loadBody body = some l) : judgeBank (some (imageOf count body)) = .ok l := by
  have length : (rawImageOf count body).length.toNat = body.length := word_value (by omega)
  obtain ⟨len, -, -, header, -⟩ := (rawImageOf count body).read
  obtain ⟨format, headerCheck, bodyEq, bodyCheck⟩ := (rawImageOf count body).judged
  have whole : (rawImageOf count body).body = body := by
    rw [RawImage.body, length]
    exact List.take_length
  rw [rawImageOf_bytes] at *
  have formatOk : headerFormatOk (imageOf count body) = true := format.mpr ⟨rfl, rfl, by omega⟩
  have headerOk : headerCheckOk (imageOf count body) = true := headerCheck.mpr (by
    rw [RawImage.HeaderOk, rawImageOf_start]
    exact word_value (crc16_lt _))
  have bodyOk : bodyCheckOk (imageOf count body) = true := bodyCheck.mpr (by
    rw [RawImage.BodyOk, whole]
    simp only [rawImageOf, BitVec.toNat_ofNat]
    exact Nat.mod_eq_of_lt (crc32_lt body))
  have layout : layoutOk (headerLength (imageOf count body)) = true := by
    rw [header, length]
    exact (layout_iff _).mpr ends
  have room : ¬ (imageOf count body).length < 16 + headerLength (imageOf count body) := by
    rw [len, header, length]
    simp [rawImageOf]
  simp [judgeBank, formatOk, headerOk, bodyOk, layout, room, bodyEq, whole, loads]

/-! ### The running image -/

/-- Addresses that ascend within 1..96 are at most 96. -/
theorem length_le_of_ascending {l : List Nat} (asc : l.Pairwise (· < ·)) (range : ∀ a ∈ l, 1 ≤ a ∧ a ≤ 96) : l.length ≤ 96 := by
  have sub : l ⊆ List.range' 1 96 := fun a ha => List.mem_range'_1.mpr (by have := range a ha; omega)
  have nodup : l.Nodup := asc.imp (fun h => Nat.ne_of_lt h)
  simpa using (List.subperm_of_subset nodup sub).length_le

/-- Settles O16. -/
theorem imagesRoundTripThroughTheLoader : Obligations.ImagesRoundTripThroughTheLoader := by
  unfold Obligations.ImagesRoundTripThroughTheLoader
  intro s law range
  have asc : s.enrolled.Pairwise (fun r x => r.addr < x.addr) := by
    rw [State.enrolled, List.pairwise_map]
    exact law.ascending
  have entries : ∀ r ∈ s.enrolled, ∀ e, r.enrol.entry = some e → e < 65536 := by
    intro r hr e he
    obtain ⟨-, -, -, -, -, gate, room, -⟩ := EnrolReq.fieldsOk_bounds (law.fields r hr)
    have named (any : (s.enrolled.any fun x => x.enrol.cls == .roomEntry && r.enrol.entry == some x.enrol.point) = true) :
        e < 65536 := by
      obtain ⟨x, hx, same⟩ := List.any_eq_true.mp any
      have point := (EnrolReq.fieldsOk_bounds (law.fields x hx)).2.1
      rw [Bool.and_eq_true, he, beq_iff_eq, beq_iff_eq, Option.some.injEq] at same
      omega
    have whole := law.whole
    simp only [enrolmentOk, Bool.and_eq_true, List.all_eq_true] at whole
    have here := whole.2 r hr
    cases cls : r.enrol.cls with
    | roomEntry =>
      have point := (EnrolReq.fieldsOk_bounds (law.fields r hr)).2.1
      rw [room cls] at he
      cases he
      omega
    | suiteInner => exact named (by simpa [cls] using here)
    | minibar => exact named (by simpa [cls] using here)
    | amenityGate => rw [gate (.inl cls)] at he; cases he
    | service => rw [gate (.inr cls)] at he; cases he
  let b := s.settings.raw range.currentKey range.previousKey (s.enrolled.map EnrolReq.raw)
  have requests : b.records.map RawEnrol.request = s.enrolled := by
    simp only [b, Settings.raw, List.map_map]
    exact (List.map_congr_left fun r hr => EnrolReq.raw_request (law.fields r hr) (entries r hr)).trans (List.map_id _)
  have good : ∀ r ∈ b.records, r.Good := by
    intro r hr
    obtain ⟨x, hx, rfl⟩ := List.mem_map.mp hr
    exact EnrolReq.raw_good (law.fields x hx)
  have bytes : b.bytes = s.imageBody := by
    rw [Settings.raw_bytes, State.imageBody, List.flatMap_map, State.enrolled, List.flatMap_map]
    exact congrArg _ (List.flatMap_congr fun n _ => EnrolReq.raw_bytes _)
  have length : s.imageBody.length = 31 + 15 * s.nodes.length := by
    rw [← bytes, RawBody.bytes_length]
    simp [b, Settings.raw, State.enrolled]
  have few : s.nodes.length ≤ 96 := by
    have := length_le_of_ascending (l := s.enrolled.map EnrolReq.addr) (List.pairwise_map.mpr asc) (fun a ha => by
      obtain ⟨r, hr, rfl⟩ := List.mem_map.mp ha
      exact (EnrolReq.fieldsOk_bounds (law.fields r hr)).1)
    simpa [State.enrolled] using this
  have cut : b.cutTo s.imageBody := ⟨by rw [bytes, List.take_length], .inl (by rw [bytes])⟩
  obtain ⟨l, loads, gives⟩ := (loadBody_of b s.imageBody cut).2 ((whole_good b good).mp (by rw [requests]; exact law.whole))
  obtain ⟨settings, clamped⟩ := Settings.raw_gives range (by omega) gives
  have enrolments : l.enrolments = s.enrolled := by
    have : Std.Irrefl (fun r x : EnrolReq => r.addr < x.addr) := ⟨fun r => Nat.lt_irrefl r.addr⟩
    refine List.Pairwise.eq_of_mem_iff gives.ascending asc (fun q => (gives.enrolments q).trans ?_)
    rw [← requests, List.mem_map]
  rw [State.runningImage, judgeBank_imageOf _ (by omega) (.inr ⟨_, length⟩) loads]
  rw [← settings, ← clamped, ← enrolments]

end Sys2Proof.Machine

/-! The node commands: ENROLL_NODE, WITHDRAW_NODE and SET_NODE: O45 to O47. -/

namespace Sys2Proof.Machine

open Sys2Proof

/-! ### NODE_CHANGE raised with a record -/

theorem State.raise_disarms {s : State} (running : s.part = .running) (k : NoticeKind) :
    (s.raise k).port.arm.get k = false := by
  unfold State.raise
  split
  · cases k <;> rfl
  · rename_i no
    simpa [running] using no

/-- A record appended, then NODE_CHANGE raised. -/
def State.noted (e : Entry) (s : State) : State := (s.append e).raise .nodeChange

theorem State.noted_port {s : State} (running : s.part = .running) (e : Entry) :
    (s.noted e).port.arm.nodeChange = false ∧ Port.noticesOnly s.port (s.noted e).port :=
  ⟨State.raise_disarms (by simpa using running) .nodeChange,
    ((s.append_noticed e).trans (State.raise_noticed _ _)).notices⟩

@[simp] theorem State.noted_node? (s : State) (e : Entry) (a : Nat) : (s.noted e).node? a = s.node? a := by
  simp [State.noted, State.node?]

@[simp] theorem State.noted_room? (s : State) (e : Entry) (q : Nat) : (s.noted e).room? q = s.room? q := by
  simp [State.noted, State.room?]

@[simp] theorem State.noted_folio? (s : State) (e : Entry) (q : Nat) : (s.noted e).folio? q = s.folio? q := by
  simp [State.noted, State.folio?]

theorem State.noted_rest (s : State) (e : Entry) : s.noted e = { s with
    journal := s.journal.push (e.secs.getD s.now) e, port := (s.noted e).port } := by
  exact State.eq_of_fields (by simp [State.noted]) (by simp [State.noted]) (by simp [State.noted]) (by simp [State.noted])
    (by simp [State.noted]) (by simp [State.noted]) (by simp [State.noted]) (by simp [State.noted]) (by simp [State.noted])
    (by simp [State.noted]) (by simp [State.noted]) (by simp [State.noted]) rfl (by simp [State.noted])

theorem Port.noticesOnly_trans {p q r : Port} (h : Port.noticesOnly p q) (g : Port.noticesOnly q r) : Port.noticesOnly p r := by
  unfold Port.noticesOnly at *
  rw [g, h]

/-! ### ENROLL_NODE (02:R25) -/

/-- The items that an enrolment in RUNNING latches. -/
def Node.latchedAtEnrolment (r : EnrolReq) (n : Node) : Node :=
  { n with latchFallback := true, latchComp := r.enrol.cls == .minibar }

/-- The records of an enrolment with the items it latches. -/
def State.enrolled_ (r : EnrolReq) (s : State) : State :=
  (s.createNode r s.now).modNode r.addr (Node.latchedAtEnrolment r)

theorem State.enrol_eq (r : EnrolReq) (s : State) : s.enrol r = (s.enrolled_ r).noted
    { kind := .nodeState, node := some r.addr, point := some r.enrol.point, detail1 := some (.nodeState .absent) } := rfl

theorem State.createNode_other {r : EnrolReq} (h : r.enrol.cls ≠ .roomEntry) (t : Nat) (s : State) :
    (s.createNode r t).revoc = s.revoc ∧ (s.createNode r t).minibar = s.minibar := by
  simp only [State.createNode, if_neg h, and_self]

theorem State.createNode_room {r : EnrolReq} (h : r.enrol.cls = .roomEntry) (t : Nat) (s : State) :
    (s.createNode r t).revoc = { s.revoc with
      rooms := putKey Room.point (Room.initial r.enrol.point t) s.revoc.rooms } ∧
    (s.createNode r t).minibar = { s.minibar with
      folios := putKey Folio.point (Folio.initial r.enrol.point s.settings.defaultCeiling) s.minibar.folios } := by
  simp only [State.createNode, if_pos h, and_self]

theorem State.createNode_tables (r : EnrolReq) (t : Nat) (s : State) :
    (s.createNode r t).revoc = { s.revoc with rooms := (s.createNode r t).revoc.rooms } ∧
    (s.createNode r t).minibar = { s.minibar with folios := (s.createNode r t).minibar.folios } := by
  by_cases h : r.enrol.cls = .roomEntry
  · rw [(State.createNode_room h t s).1, (State.createNode_room h t s).2]
    exact ⟨rfl, rfl⟩
  · rw [(State.createNode_other h t s).1, (State.createNode_other h t s).2]
    exact ⟨rfl, rfl⟩

/-- The room and the folio that an enrolment creates, every other standing. -/
theorem State.createNode_lookups (r : EnrolReq) (t : Nat) (s : State) :
    (r.enrol.cls = .roomEntry → (s.createNode r t).room? r.enrol.point = some (Room.initial r.enrol.point t) ∧
      (s.createNode r t).folio? r.enrol.point = some (Folio.initial r.enrol.point s.settings.defaultCeiling)) ∧
    (∀ q, q ≠ r.enrol.point → (s.createNode r t).room? q = s.room? q ∧ (s.createNode r t).folio? q = s.folio? q) := by
  refine ⟨fun h => ?_, fun q ne => ?_⟩
  · obtain ⟨revoc, minibar⟩ := State.createNode_room h t s
    simp only [State.room?, State.folio?, revoc, minibar]
    exact ⟨findKey_putKey Room.point (Room.initial _ t) _, findKey_putKey Folio.point (Folio.initial _ _) _⟩
  · by_cases h : r.enrol.cls = .roomEntry
    · obtain ⟨revoc, minibar⟩ := State.createNode_room h t s
      simp only [State.room?, State.folio?, revoc, minibar]
      exact ⟨findKey_putKey_ne Room.point _ ne _, findKey_putKey_ne Folio.point _ ne _⟩
    · obtain ⟨revoc, minibar⟩ := State.createNode_other h t s
      simp only [State.room?, State.folio?, revoc, minibar, and_self]

theorem State.enrolRefusal_eq (s : State) (r : EnrolReq) : s.enrolRefusal r =
    if s.node? r.addr ≠ none then some .wrongState
    else if ∃ n ∈ s.nodes, n.enrol.point = r.enrol.point then some .badField
    else if (r.enrol.cls = .suiteInner ∨ r.enrol.cls = .minibar) ∧
        ∀ e, r.enrol.entry = some e → s.roomNode? e = none then some .notFound
    else none := by
  unfold State.enrolRefusal
  refine if_ctx_congr (by simp [Option.isSome_iff_ne_none]) (fun _ => rfl) (fun _ => ?_)
  refine if_ctx_congr (by simp) (fun _ => rfl) (fun _ => ?_)
  cases r.enrol.cls <;> cases r.enrol.entry with
  | none => simp
  | some e => cases h : s.roomNode? e <;> simp [h]

/-- Settles O45: the checks in their order, then the records of `State.createNode`. -/
theorem enrollNodeCreatesItsRecords : Obligations.EnrollNodeCreatesItsRecords := by
  unfold Obligations.EnrollNodeCreatesItsRecords
  refine ⟨?_, RawEnrol.of_bytes, fun r => ?_⟩
  · intro tag body s takes long refused
    have answers {u : State} {r : Reply} (gives : serveEnrollNode body s = (u, r)) :
        exec (.enrollNode tag body) s = .next (u.answer 0x14 tag false r) :=
      exec_takes rfl takes (by rw [long]; rfl) gives rfl
    refine ⟨fun bad => answers (by simp only [serveEnrollNode, bad]; rfl), ?_⟩
    intro r read p entryMissing
    have refuses {st : Status} (h : s.enrolRefusal r = some st) : serveEnrollNode body s = refuse st s := by
      simp only [serveEnrollNode, read, h]
    have passes (h : s.enrolRefusal r = none) : serveEnrollNode body s = (s.enrol r, .plain .ok) := by
      simp only [serveEnrollNode, read, h]
    have refusal := s.enrolRefusal_eq r
    refine ⟨fun held => answers (refuses ?_), fun free used => answers (refuses ?_),
      fun free unused missing => answers (refuses ?_), fun free unused named => ⟨s.enrol r, answers (passes ?_), ?_⟩⟩
    · rw [refusal, if_pos held]
    · rw [refusal, if_neg (fun h => h free), if_pos used]
    · rw [refusal, if_neg (fun h => h free), if_neg (by simpa using unused), if_pos missing]
    · rw [refusal, if_neg (fun h => h free), if_neg (by simpa using unused), if_neg named]
    · obtain ⟨arm, port⟩ := State.noted_port (s := s.enrolled_ r) (by simpa [State.enrolled_] using takes.1)
        { kind := .nodeState, node := some r.addr, point := some r.enrol.point, detail1 := some (.nodeState .absent) }
      rw [show (s.enrolled_ r).port = s.port by simp [State.enrolled_]] at port
      obtain ⟨created, others⟩ := s.createNode_lookups r s.now
      refine ⟨?_, fun b ne => ?_, ?_, fun h => ?_, fun h => ?_, fun q ne => ?_, arm, port, ?_⟩
      · have found : findKey Node.addr r.addr (putKey Node.addr (Node.fresh r s.revoc.gen) s.nodes) = _ :=
          findKey_putKey Node.addr (Node.fresh r s.revoc.gen) s.nodes
        simp only [State.enrol_eq, State.noted_node?, State.enrolled_]
        rw [State.modNode_node? _ _ (Node.latchedAtEnrolment r) (fun _ => rfl), State.node?, State.createNode_nodes,
          found]
        rfl
      · simp only [State.enrol_eq, State.noted_node?, State.enrolled_]
        rw [State.modNode_node?_ne _ (Node.latchedAtEnrolment r) (fun _ => rfl) ne, State.node?, State.createNode_nodes]
        exact findKey_putKey_ne Node.addr (Node.fresh r s.revoc.gen) ne _
      · rw [State.enrol_eq, State.noted_rest]
        simp [State.enrolled_, State.now]
        rfl
      · rw [State.enrol_eq, State.noted_rest]
        exact State.createNode_other h s.now s
      · rw [State.enrol_eq, State.noted_room?, State.noted_folio?]
        exact created h
      · rw [State.enrol_eq, State.noted_room?, State.noted_folio?]
        exact others q ne
      · obtain ⟨revoc, minibar⟩ := s.createNode_tables r s.now
        rw [State.enrol_eq]
        refine State.eq_of_fields ?_ ?_ ?_ ?_ ?_ ?_ ?_ rfl ?_ ?_ ?_ rfl rfl ?_ <;>
          simp [State.noted, State.enrolled_]
        · exact revoc
        · exact minibar
  · have := enrolAt_raw r []
    rw [List.append_nil] at this
    exact ⟨fun good => this.trans (if_pos good), fun bad => this.trans (if_neg bad)⟩

/-! ### SET_NODE (02:R27, R28) -/

theorem exec_setNodeRow (tag : Byte) (x : RawSetNode) (s : State) : exec (x.row tag) s = .next (s.setNodeFrame tag x.bytes) := by
  have whole := x.take_append
  unfold RawSetNode.row
  split
  · rename_i h
    rw [h.1, h.2] at whole
    exact congrArg (fun b => Host.Outcome.next (State.setNodeFrame tag b s)) whole
  · split
    · rename_i h
      rw [h.1, h.2] at whole
      exact congrArg (fun b => Host.Outcome.next (State.setNodeFrame tag b s)) whole
    · rfl

theorem State.leaveLine_nodes (s : State) (a : Nat) : (s.leaveLine a).nodes = modKey Node.addr a Node.unlatched s.nodes := by
  simp [State.leaveLine]

/-- What DISABLE makes of a node record before its state changes (02:R28). -/
def Node.switchedOff (n : Node) : Node :=
  { n.dropUpload.counts 0 0 0 with memory := [], clock := n.clock.discardSpan }

theorem State.disableNode_eq {s : State} {n : Node} (hn : s.node? n.addr = some n) (ne : n.st ≠ .disabled) :
    s.disableNode n.addr = (((s.leaveLine n.addr).modNode n.addr Node.switchedOff).modNode n.addr (Node.enter .disabled)).noted
      (nodeStateEntry n (.nodeState .disabled)) := by
  have found : ((s.leaveLine n.addr).modNode n.addr Node.switchedOff).node? n.addr = some n.unlatched.switchedOff := by
    rw [State.modNode_node? _ _ Node.switchedOff (fun _ => rfl), State.node?, State.leaveLine_nodes,
      findKey_modKey Node.addr Node.unlatched (fun _ => rfl), ← State.node?, hn]
    rfl
  exact State.changeNode_eq found ne

/-- What the parts that a SET_NODE carries make of a node record (02:R27). -/
def Node.withParts (r : SetNodeReq) (n : Node) : Node :=
  { n with
    enrol := { n.enrol with oos := r.oos.getD n.enrol.oos, hours := r.hours.getD n.enrol.hours }
    latchFallback := n.latchFallback
      || decide (r.oos.getD n.enrol.oos ≠ n.enrol.oos ∨ r.hours.getD n.enrol.hours ≠ n.enrol.hours) }

theorem State.setParts_node? {s : State} {n : Node} (hn : s.node? n.addr = some n) (r : SetNodeReq) :
    (s.setParts r n).node? n.addr = some (n.withParts r) ∧ ∀ b, b ≠ n.addr → (s.setParts r n).node? b = s.node? b := by
  let set (m : Node) : Node :=
    { m with
      enrol := { m.enrol with oos := r.oos.getD n.enrol.oos, hours := r.hours.getD n.enrol.hours }
      latchFallback := m.latchFallback
        || decide (m.enrol.oos ≠ r.oos.getD n.enrol.oos ∨ m.enrol.hours ≠ r.hours.getD n.enrol.hours) }
  have eq : s.setParts r n = s.modNode n.addr set := rfl
  refine ⟨?_, fun b ne => ?_⟩
  · rw [eq, State.modNode_node? _ _ set (fun _ => rfl), hn, Option.map_some]
    simp only [set, Node.withParts, ne_comm]
  · rw [eq, State.modNode_node?_ne _ set (fun _ => rfl) ne]

/-- The record that DISABLE leaves (02:R28). -/
theorem Node.disabled_eq (n : Node) : n.unlatched.switchedOff.enter .disabled = { n with
    st := .disabled, good := 0, missed := 0, silent := 0, upload := none, received := 0, permit := .none
    memory := [], clock := { n.clock with span := none }, session := none
    latchFallback := false, latchPermit := false, latchComp := false
    reload := match n.st, n.reload with
      | .online, .sending _ _ => .marked
      | .online, .awaiting _ _ => .marked
      | .probation, .sending _ _ => .marked
      | .probation, .awaiting _ _ => .marked
      | _, q => q } := by
  obtain ⟨_, _, st, _, _, _, _, _, _, _, _, reload, _, _, _, _, _, _, _, _, _, _, _⟩ := n
  cases st <;> cases reload <;> rfl

/-- DISABLE of a node that is not DISABLED (02:R28). -/
theorem State.disableNode_spec {s : State} {n : Node} (hn : s.node? n.addr = some n) (ne : n.st ≠ .disabled)
    (running : s.part = .running) :
    (s.disableNode n.addr).lines = { s.lines with
      urgent := s.lines.urgent.filter (fun x => x.node != n.addr)
      repeats := s.lines.repeats.filter (fun x => x.node != n.addr)
      round := s.lines.round.map (Round.killWindow n.addr) } ∧
    (∀ b, (s.disableNode n.addr).node? b = if b = n.addr then some (n.unlatched.switchedOff.enter .disabled) else s.node? b) ∧
    s.disableNode n.addr = { s with lines := (s.disableNode n.addr).lines, nodes := (s.disableNode n.addr).nodes
                                    journal := (s.disableNode n.addr).journal, port := (s.disableNode n.addr).port } ∧
    ∃ es, (s.disableNode n.addr).journal = (s.journal.pushAll es).push s.now (nodeStateEntry n (.nodeState .disabled)) ∧
      (∀ e ∈ es, e.2.kind = .decisionLate) ∧ (s.disableNode n.addr).port.arm.nodeChange = false ∧
      Port.noticesOnly s.port (s.disableNode n.addr).port := by
  obtain ⟨es, records, late⟩ := s.leaveLine_records n.addr
  have eq := State.disableNode_eq hn ne
  refine ⟨?_, fun b => ?_, State.eq_of_fields, es, ?_, fun e he => (late e he).1, ?_, ?_⟩
  · rw [eq, State.noted_rest]
    exact s.leaveLine_lines n.addr
  · rw [eq, State.noted_node?]
    have addr (m : Node) : (m.enter .disabled).addr = m.addr := (m.enter_shape .disabled).1.addr
    split
    · rename_i h
      subst h
      rw [State.modNode_node? _ _ _ addr, State.modNode_node? _ _ Node.switchedOff (fun _ => rfl), State.node?,
        State.leaveLine_nodes, findKey_modKey Node.addr Node.unlatched (fun _ => rfl), ← State.node?, hn]
      rfl
    · rename_i h
      rw [State.modNode_node?_ne _ _ addr h, State.modNode_node?_ne _ Node.switchedOff (fun _ => rfl) h, State.node?,
        State.leaveLine_nodes, findKey_modKey_ne Node.addr Node.unlatched (fun _ => rfl) h]
      rfl
  · rw [eq, State.noted_rest]
    show ((s.leaveLine n.addr).journal.push ((s.leaveLine n.addr).now) _) = _
    rw [records.journal, State.now_eq records.time]
  · rw [eq]
    exact (State.noted_port (by simpa using running) _).1
  · rw [eq]
    have noted := (State.noted_port (s := ((s.leaveLine n.addr).modNode n.addr Node.switchedOff).modNode n.addr (Node.enter .disabled))
      (by simpa using running) (nodeStateEntry n (.nodeState .disabled))).2
    exact Port.noticesOnly_trans records.port.only noted

/-- ENABLE of a DISABLED node (02:R28). -/
theorem State.enableNode_spec {s : State} {n : Node} (hn : s.node? n.addr = some n) (off : n.st = .disabled)
    (running : s.part = .running) :
    (∀ b, (s.enableNode n.addr).node? b = if b = n.addr then some { n with
      st := .absent, joins := 16, good := 0, missed := 0, lastPres := none, session := none, reload := .marked
      status := none, memory := [], latchFallback := true } else s.node? b) ∧
    (s.enableNode n.addr).journal = s.journal.push s.now (nodeStateEntry n (.nodeState .absent)) ∧
    (s.enableNode n.addr).port.arm.nodeChange = false ∧ Port.noticesOnly s.port (s.enableNode n.addr).port ∧
    s.enableNode n.addr = { s with nodes := (s.enableNode n.addr).nodes, journal := (s.enableNode n.addr).journal
                                   port := (s.enableNode n.addr).port } := by
  let cleared (n : Node) : Node := { n.marked with status := none, lastPres := none, memory := [], latchFallback := true }
  have eq : s.enableNode n.addr = ((s.modNode n.addr (Node.enter .absent)).noted (nodeStateEntry n (.nodeState .absent))).modNode
      n.addr cleared :=
    congrArg (State.modNode n.addr cleared) (State.changeNode_eq hn (by rw [off]; simp))
  have addr (m : Node) : (m.enter .absent).addr = m.addr := (m.enter_shape .absent).1.addr
  obtain ⟨arm, port⟩ := State.noted_port (s := s.modNode n.addr (Node.enter .absent)) running (nodeStateEntry n (.nodeState .absent))
  refine ⟨fun b => ?_, ?_, by rw [eq]; exact arm, by rw [eq]; exact port, State.eq_of_fields⟩
  · rw [eq]
    split
    · rename_i h
      subst h
      rw [State.modNode_node? _ _ cleared (fun _ => rfl), State.noted_node?, State.modNode_node? _ _ _ addr, hn]
      obtain ⟨_, _, st, _, _, _, _, _, _, _, _, _, _, _, _, _, _, _, _, _, _, _, _⟩ := n
      obtain rfl : st = .disabled := off
      rfl
    · rename_i h
      rw [State.modNode_node?_ne _ cleared (fun _ => rfl) h, State.noted_node?, State.modNode_node?_ne _ _ addr h]
  · rw [eq]
    show ((s.modNode n.addr (Node.enter .absent)).noted _).journal = _
    rw [State.noted_rest]
    rfl

/-- Settles O47: the checks in their order, the parts, then the action. -/
theorem setNodeActsOnFieldsAndState : Obligations.SetNodeActsOnFieldsAndState := by
  unfold Obligations.SetNodeActsOnFieldsAndState
  refine ⟨RawSetNode.of_bytes, fun tag x s takes => ?_⟩
  intro r i refused hoursOk
  have answers {u : State} {y : Reply} (gives : serveSetNode x.bytes s = (u, y)) :
      exec i s = .next (u.answer 0x16 tag false y) :=
    (exec_setNodeRow tag x s).trans (congrArg Host.Outcome.next (by
      rw [State.setNodeFrame, State.command_of_servedIn tag (serveSetNode x.bytes) [] (by rw [takes.1]; rfl) takes.2
        (by rw [x.bytes_length]; rfl), gives]
      exact congrArg (fun t => State.answer 0x16 tag _ y t) (State.rearmIf_nil _ _)))
  have read := setNodeReq_raw x
  have checked : x.request.hours.all (fun h => h.all Hours.wellFormed) = true ↔ hoursOk := by
    show _ ↔ ∀ h, x.request.hours = some (some h) → _
    cases x.request.hours with
    | none => simp
    | some o => cases o <;> simp [Hours.wellFormed, and_assoc]
  have served (n : Node) (good : x.Good) (hn : s.node? r.addr = some n) : serveSetNode x.bytes s =
      if ¬ x.request.hours.all (fun h => h.all Hours.wellFormed) then refuse .badField s
      else if x.request.action = some .enable ∧ n.st ≠ .disabled then refuse .wrongState s
      else ((s.setParts x.request n).setAction x.request.action n, .plain .ok) := by
    have found : s.node? x.request.addr = some n := hn
    simp only [serveSetNode, read, if_pos good, found]
  refine ⟨fun bad => answers ?_, fun good absent => answers ?_, fun n good hn => ⟨fun ill => answers ?_, fun well => ?_⟩⟩
  · simp only [serveSetNode, read, if_neg bad]
    rfl
  · have found : s.node? x.request.addr = none := absent
    simp only [serveSetNode, read, if_pos good, found]
    rfl
  · rw [served n good hn, if_pos (fun h => ill ((checked).mp h))]
    rfl
  · intro oos hours parts moved sets
    have addr : n.addr = x.request.addr := (findKey_some Node.addr hn).1
    obtain ⟨here, others⟩ := State.setParts_node? (addr ▸ hn) x.request
    rw [addr] at here others
    have acts (allowed : ¬ (x.request.action = some .enable ∧ n.st ≠ .disabled)) :
        serveSetNode x.bytes s = ((s.setParts x.request n).setAction x.request.action n, .plain .ok) := by
      rw [served n good hn, if_neg (not_not.mpr (checked.mpr well)), if_neg allowed]
    have onlyParts (still : (s.setParts x.request n).setAction x.request.action n = s.setParts x.request n)
        (allowed : ¬ (x.request.action = some .enable ∧ n.st ≠ .disabled)) : sets parts :=
      ⟨s.setParts x.request n, answers ((acts allowed).trans (by rw [still])), here, others, rfl⟩
    refine ⟨fun noAction => onlyParts ?_ ?_, fun disable => ⟨fun already => onlyParts ?_ ?_, fun standing => ?_⟩,
      fun enable => ⟨fun standing => answers ?_, fun off => ?_⟩⟩
    · rw [show x.request.action = none from noAction]
      rfl
    · rintro ⟨enable, -⟩
      rw [show x.request.action = none from noAction] at enable
      cases enable
    · rw [show x.request.action = some .disable from disable]
      exact if_pos already
    · exact fun h => by rw [show x.request.action = some .disable from disable] at h; cases h.1
    · have gives := acts (fun h => by rw [show x.request.action = some .disable from disable] at h; cases h.1)
      rw [show x.request.action = some .disable from disable] at gives
      obtain ⟨lines, after, rest, es, journal, late, arm, port⟩ := State.disableNode_spec (s := s.setParts x.request n)
        (n := n.withParts x.request) (by rw [show (n.withParts x.request).addr = x.request.addr from addr]; exact here) standing takes.1
      rw [show (n.withParts x.request).addr = n.addr from rfl] at lines after rest journal arm port
      refine ⟨(s.setParts x.request n).disableNode n.addr, answers (gives.trans ?_), ?_, arm, fun b ne => ?_, ?_,
        ⟨es, journal, late⟩, port, ?_⟩
      · simp only [State.setAction, if_neg standing]
      · rw [after, if_pos addr.symm, Node.disabled_eq]
        rfl
      · rw [after, if_neg (fun h => ne (h.trans addr)), others b ne]
      · rw [lines, addr]
        rfl
      · rw [rest]
        rfl
    · rw [served n good hn, if_neg (not_not.mpr (checked.mpr well)), if_pos ⟨enable, standing⟩]
      rfl
    · have gives := acts (fun h => h.2 off)
      rw [show x.request.action = some .enable from enable] at gives
      obtain ⟨after, journal, arm, port, rest⟩ := State.enableNode_spec (s := s.setParts x.request n)
        (n := n.withParts x.request) (by rw [show (n.withParts x.request).addr = x.request.addr from addr]; exact here) off takes.1
      rw [show (n.withParts x.request).addr = n.addr from rfl] at after journal arm port rest
      refine ⟨(s.setParts x.request n).enableNode n.addr, answers gives, ?_, fun b ne => ?_, journal, arm, port, ?_⟩
      · rw [after, if_pos addr.symm]
        rfl
      · rw [after, if_neg (fun h => ne (h.trans addr)), others b ne]
      · rw [rest]
        rfl

/-! ### WITHDRAW_NODE (02:R26) -/

/-- The DECISION_LATE record of a directive discarded (06:R125). -/
def Urgent.lateRecord (u : Urgent) : Option (Nat × Entry) :=
  match u with
  | .decision d => some (d.arrival, d.entry .decisionLate)
  | .remoteOpen _ => none

theorem State.discardUrgents_journal (us : List Urgent) : ∀ s : State,
    (us.foldl (fun t u => t.discardUrgent u) s).journal = s.journal.pushAll (us.filterMap Urgent.lateRecord) := by
  induction us with
  | nil => exact fun s => rfl
  | cons u us ih =>
    intro s
    rw [List.foldl_cons, ih]
    cases u with
    | remoteOpen a => rfl
    | decision d => simp [State.discardUrgent, State.decisionLate, Urgent.lateRecord, Decision.entry]

theorem State.leaveLine_journal (s : State) (a : Nat) : (s.leaveLine a).journal
    = s.journal.pushAll ((s.lines.urgent.filter (fun u => u.node == a)).filterMap Urgent.lateRecord) :=
  State.discardUrgents_journal _ _

/-- The charge lines that a withdrawal commits (08:R158, R166). -/
def Node.linesLeaving (n : Node) (l : ChargeLine) : Bool :=
  match n.enrol.cls with
  | .minibar => l.node == n.addr
  | .roomEntry => l.folio == n.enrol.point
  | _ => false

/-- What a withdrawal does in the blocks once the lines are committed. -/
def State.released (n : Node) (s : State) : State :=
  match n.enrol.cls with
  | .minibar => s.modNode n.addr Node.endSession
  | .roomEntry =>
    let t := s.endSessionsOf n.enrol.point
    { t with
      minibar := { t.minibar with folios := dropKey Folio.point n.enrol.point t.minibar.folios }
      revoc := { t.revoc with rooms := dropKey Room.point n.enrol.point t.revoc.rooms } }
  | _ => s

theorem State.releaseNode_eq (s : State) (n : Node) :
    s.releaseNode n = ((s.leaveLine n.addr).commitWhere n.linesLeaving).released n := by
  unfold State.releaseNode State.released Node.linesLeaving
  cases n.enrol.cls <;> simp [State.minibarLeaves, State.discardFolio, State.commitWhere]

/-- The fields that `State.released` leaves alone, sessions of nodes aside. -/
theorem State.released_rest (s : State) (n : Node) : s.released n = { s with
    nodes := (s.released n).nodes, revoc := { s.revoc with rooms := (s.released n).revoc.rooms }
    minibar := { s.minibar with folios := (s.released n).minibar.folios } } := by
  unfold State.released
  cases n.enrol.cls <;> rfl

theorem State.released_nodes (s : State) (n : Node) : ∃ f : Node → Node, (s.released n).nodes = s.nodes.map f ∧
    ∀ m, (f m).addr = m.addr ∧ { f m with session := none } = { m with session := none } := by
  unfold State.released
  cases n.enrol.cls
  case roomEntry => exact ⟨_, rfl, fun m => by split <;> exact ⟨rfl, rfl⟩⟩
  case minibar => exact ⟨_, rfl, fun m => by split <;> exact ⟨rfl, rfl⟩⟩
  all_goals exact ⟨id, (List.map_id _).symm, fun m => ⟨rfl, rfl⟩⟩

theorem State.released_tables (s : State) (n : Node) :
    (n.enrol.cls = .roomEntry → (s.released n).room? n.enrol.point = none ∧ (s.released n).folio? n.enrol.point = none) ∧
    (∀ q, q ≠ n.enrol.point → (s.released n).room? q = s.room? q) ∧
    (∀ q, (n.enrol.cls = .roomEntry → q ≠ n.enrol.point) → (s.released n).folio? q = s.folio? q) ∧
    (n.enrol.cls ≠ .roomEntry → (s.released n).revoc = s.revoc ∧ (s.released n).minibar = s.minibar) := by
  unfold State.released
  cases n.enrol.cls
  case roomEntry =>
    refine ⟨fun _ => ⟨findKey_dropKey Room.point _ _, findKey_dropKey Folio.point _ _⟩,
      fun q ne => findKey_dropKey_ne Room.point ne _, fun q ne => findKey_dropKey_ne Folio.point (ne rfl) _, fun h => absurd rfl h⟩
  all_goals exact ⟨by simp, fun _ _ => rfl, fun _ _ => rfl, fun _ => ⟨rfl, rfl⟩⟩

/-- A lookup after a map that keeps the keys. -/
theorem findKey_map {α : Type} (key : α → Nat) (f : α → α) (h : ∀ x, key (f x) = key x) (k : Nat) (l : List α) :
    findKey key k (l.map f) = (findKey key k l).map f := by
  induction l with
  | nil => rfl
  | cons x l ih =>
    unfold findKey at *
    rw [List.map_cons, List.find?_cons, List.find?_cons, h, ih]
    cases key x == k <;> rfl

theorem State.withdrawRefused_iff (s : State) (n : Node) : s.withdrawRefused n (s.otherEnrolments n.addr) = false ↔
    (n.enrol.cls = .roomEntry →
      (∀ m ∈ s.nodes, m.addr ≠ n.addr → m.enrol.entry ≠ some n.enrol.point) ∧
      (∀ f, s.folio? n.enrol.point = some f → f.isOpen = false) ∧
      ∀ c ∈ s.store.recs, c.st.live = true → c.guestOf n.enrol.point = false) := by
  unfold State.withdrawRefused State.otherEnrolments State.liveGuest
  cases s.folio? n.enrol.point <;> cases n.enrol.cls <;> simp [and_assoc]

/-- The state that a withdrawal works on once the node has left the line and its lines are committed. -/
def State.settled (n : Node) (s : State) : State := (s.leaveLine n.addr).commitWhere n.linesLeaving

theorem State.withdraw_eq (s : State) (n : Node) :
    s.withdraw n = (((s.settled n).released n).noted (nodeStateEntry n .withdrawn)).forgetNode n.addr := by
  rw [State.withdraw, State.releaseNode_eq]
  rfl

theorem State.settled_spec (s : State) (n : Node) :
    (s.settled n).journal = (s.journal.pushAll ((s.lines.urgent.filter (fun u => u.node == n.addr)).filterMap
      Urgent.lateRecord)).pushAll (s.chargeRecords (s.minibar.pool.filter n.linesLeaving)) ∧
    (∀ q, (s.settled n).folio? q = (s.folio? q).map
      (Folio.committed ((s.minibar.pool.filter n.linesLeaving).filter (fun l => l.folio == q)))) ∧
    (Once s.minibar.pool → (s.settled n).minibar.pool = s.minibar.pool.filter (fun l => !n.linesLeaving l)) ∧
    Port.noticesOnly s.port (s.settled n).port ∧ (s.settled n).lines = (s.leaveLine n.addr).lines ∧
    (s.settled n).nodes = modKey Node.addr n.addr Node.unlatched s.nodes ∧ (s.settled n).now = s.now := by
  obtain ⟨late, records, -⟩ := s.leaveLine_records n.addr
  obtain ⟨⟨_, charged, -⟩, pool, folios⟩ := State.commitWhere_spec n.linesLeaving (s.leaveLine n.addr)
  obtain ⟨-, -, -, journal⟩ := State.commitLines ((s.leaveLine n.addr).minibar.pool.filter n.linesLeaving) (s.leaveLine n.addr)
  have minibar : (s.leaveLine n.addr).minibar = s.minibar := by simp
  have now : (s.leaveLine n.addr).now = s.now := State.now_eq (by simp)
  have enrolled : (s.leaveLine n.addr).enrolled = s.enrolled := by
    rw [State.enrolled, State.leaveLine_nodes]
    simp only [modKey, List.map_map, State.enrolled]
    exact List.map_congr_left fun m _ => by simp only [Function.comp]; split <;> rfl
  rw [minibar] at pool folios journal
  refine ⟨?_, fun q => ?_, pool, Port.noticesOnly_trans records.port.only charged.port.only, by simp [State.settled], ?_, ?_⟩
  · refine Eq.trans ?_ (journal.trans ?_)
    · rw [State.settled, State.commitWhere, minibar]
    · rw [s.leaveLine_journal, State.chargeRecords_congr now enrolled]
  · rw [State.settled, folios, State.folio?, minibar]
    rfl
  · simp [State.settled, State.leaveLine_nodes]
  · rw [State.settled, State.now_eq charged.time, now]

theorem State.withdraw_revoc (s : State) (n : Node) :
    (s.withdraw n).revoc = { s.revoc with rooms := (s.withdraw n).revoc.rooms } := by
  have same : (s.withdraw n).revoc = ((s.settled n).released n).revoc := by
    simp [s.withdraw_eq n, State.noted, State.forgetNode]
  rw [same]
  exact (congrArg State.revoc ((s.settled n).released_rest n)).trans (by simp [State.settled])

/-- Settles O46: the withdrawal by the class of the node. -/
theorem withdrawNodeRemovesItsRecords : Obligations.WithdrawNodeRemovesItsRecords := by
  unfold Obligations.WithdrawNodeRemovesItsRecords
  intro tag a s takes lo hi
  have ok : addressOk (byteAt [a] 0) = true := addressOk_of lo hi
  have answers {u : State} {r : Reply} (gives : serveWithdrawNode [a] s = (u, r)) :
      exec (.withdrawNode tag [a]) s = .next (u.answer 0x15 tag false r) := exec_takes rfl takes rfl gives rfl
  refine ⟨fun absent => answers ?_, fun n hn => ?_⟩
  · have found : s.node? (byteAt [a] 0) = none := absent
    simp only [serveWithdrawNode, ok, found]
    rfl
  · intro free
    have addr : n.addr = a.toNat := (findKey_some Node.addr hn).1
    have found : s.node? (byteAt [a] 0) = some n := hn
    have allowed : s.withdrawRefused n (s.otherEnrolments n.addr) = false ↔ free := by
      rw [State.withdrawRefused_iff, addr]
    refine ⟨fun refused => answers ?_, ?_⟩
    · have : s.withdrawRefused n (s.otherEnrolments n.addr) = true := by
        rw [← Bool.not_eq_false, allowed]
        exact refused
      simp only [serveWithdrawNode, ok, found, this]
      rfl
    · intro leaves due free once
      have same : leaves = n.linesLeaving := by
        funext l
        simp only [leaves, Node.linesLeaving, addr] <;> rfl
      refine ⟨s.withdraw n, answers ?_, ?_⟩
      · simp only [serveWithdrawNode, ok, found, allowed.mpr free]
        rfl
      obtain ⟨journal, folios, pool, port, lines, nodes, now⟩ := s.settled_spec n
      obtain ⟨gone, rooms, others, still⟩ := (s.settled n).released_tables n
      obtain ⟨f, moved, kept⟩ := (s.settled n).released_nodes n
      have rest := (s.settled n).released_rest n
      obtain ⟨arm, notices⟩ := State.noted_port (s := (s.settled n).released n)
        (by rw [rest]; simpa [State.settled] using takes.1) (nodeStateEntry n .withdrawn)
      have revoc : (s.settled n).revoc = s.revoc := by simp [State.settled]
      have final : s.withdraw n = { s with
          lines := (s.withdraw n).lines, nodes := (s.withdraw n).nodes
          revoc := { s.revoc with rooms := (s.withdraw n).revoc.rooms }, minibar := (s.withdraw n).minibar
          journal := (s.withdraw n).journal, port := (s.withdraw n).port } := by
        exact State.eq_of_fields (revoc := s.withdraw_revoc n)
      have dues : due = s.minibar.pool.filter n.linesLeaving := congrArg (fun p => s.minibar.pool.filter p) same
      clear_value due leaves
      subst dues same
      rw [s.withdraw_eq n, State.noted_rest] at final ⊢
      refine ⟨?_, fun b ne => ?_, ?_, ?_, ?_, fun p hp => ?_, ?_, fun q ne => ?_, fun other => ⟨?_, fun noBar => ?_⟩, arm, ?_, ?_⟩
      · rw [← addr]
        exact findKey_dropKey Node.addr _ _
      · rw [← addr] at ne
        refine (congrArg _ (findKey_dropKey_ne Node.addr ne ((s.settled n).released n).nodes)).trans ?_
        rw [moved, nodes, findKey_map Node.addr f (fun m => (kept m).1), findKey_modKey_ne Node.addr Node.unlatched (fun _ => rfl) ne,
          Option.map_map]
        exact congrArg (fun g => Option.map g _) (funext fun m => (kept m).2)
      · show ((s.settled n).released n).lines = _
        rw [rest]
        refine lines.trans ((s.leaveLine_lines n.addr).trans ?_)
        rw [addr]
        rfl
      · show ((s.settled n).released n).journal.push ((s.settled n).released n).now (nodeStateEntry n .withdrawn) = _
        rw [rest]
        refine (congrArg₂ (fun j now => Journal.push now _ j) journal now).trans ?_
        rw [nodeStateEntry, addr]
        rfl
      · show ((s.settled n).released n).minibar.pool = _
        rw [rest]
        exact pool once
      · exact (others p hp).trans (folios p)
      · exact gone
      · exact (rooms q ne).trans (State.room?_rooms (by rw [revoc]) q)
      · exact (still other).1.trans revoc
      · refine (still other).2.trans ?_
        have nothing : n.linesLeaving = fun _ => false := by
          funext l
          unfold Node.linesLeaving
          cases h : n.enrol.cls with
          | minibar => exact absurd h noBar
          | roomEntry => exact absurd h other
          | _ => rfl
        simp [State.settled, nothing, State.commitWhere]
      · rw [show ((s.settled n).released n).port = (s.settled n).port from (congrArg State.port rest).trans rfl] at notices
        exact Port.noticesOnly_trans port notices
      · exact final

end Sys2Proof.Machine

/-! SUPPORT. Commands that name a credential, and the list with an entry added or removed. -/

namespace Sys2Proof.Machine

open Sys2Proof

/-! ### Commands that name a credential -/

theorem u16At_le16_zero {k : Nat} (h : k < 65536) : u16At (le16 k) 0 = k := le16_value h

section OnCred
variable {s : State} {k : Nat} {f : Cred → State → State × Reply}

theorem State.onCred_high (high : 767 < k) (bound : k < 65536) : s.onCred (le16 k) f = (s, .plain .badField) := by
  rw [State.onCred, u16At_le16_zero bound, if_pos high]
  rfl

theorem State.onCred_vacant (low : k ≤ 767) (vacant : s.cred? k = none) : s.onCred (le16 k) f = (s, .plain .wrongState) := by
  simp only [State.onCred, u16At_le16_zero (show k < 65536 by omega), if_neg (Nat.not_lt.mpr low), vacant]
  rfl

theorem State.onCred_held {c : Cred} (low : k ≤ 767) (hc : s.cred? k = some c) : s.onCred (le16 k) f = f c s := by
  simp only [State.onCred, u16At_le16_zero (show k < 65536 by omega), if_neg (Nat.not_lt.mpr low), hc]

end OnCred

/-- The rights of a desk command's block. -/
def Rights.desk : Rights := ⟨False, False, False, True⟩

theorem Evolves.notices {s u : State} (h : Evolves Rights.desk s u) : Port.noticesOnly s.port u.port := h.noticesOnly id

/-! ### A change emitted -/

theorem State.emit_last (s : State) (b : ChangeBody) :
    (s.emit b).revoc.changes.getLast? = some ⟨(s.emit b).revoc.gen, b⟩ := by
  rw [s.emit_gen]
  unfold State.emit State.dropOldest
  split
  · simp
  · split <;> simp

/-! ### An entry added or removed (05:R93) -/

/-- The list with an entry at its tail and the ADD change behind it. -/
structure EntryAdded (serial : Nat) (cred : Option Nat) (reason : ListReason) (retireAt : Nat) (s u : State) : Prop where
  gen : u.revoc.gen = (s.revoc.gen + 1) % 4294967296
  entries : u.revoc.entries = s.revoc.entries ++ [⟨serial, cred, reason, retireAt, u.revoc.gen⟩]
  last : u.revoc.changes.getLast? = some ⟨u.revoc.gen, .add serial cred⟩
  kept : u.revoc.rooms = s.revoc.rooms ∧ u.revoc.rekeys = s.revoc.rekeys

theorem State.pushEntry_added (s : State) (serial : Nat) (cred : Option Nat) (reason : ListReason) (retireAt : Nat) :
    EntryAdded serial cred reason retireAt s (s.pushEntry serial cred reason retireAt) := by
  have revoc : (s.pushEntry serial cred reason retireAt).revoc = { (s.emit (.add serial cred)).revoc with
      entries := s.revoc.entries ++ [⟨serial, cred, reason, retireAt, (s.emit (.add serial cred)).revoc.gen⟩] } := by
    simp [State.pushEntry, State.setEntries, State.emit_entries]
  obtain ⟨rooms, rekeys⟩ := s.emit_kept (.add serial cred)
  refine ⟨?_, ?_, ?_, ?_⟩
  · rw [revoc]
    exact s.emit_gen (.add serial cred)
  · rw [revoc]
  · rw [revoc]
    exact s.emit_last (.add serial cred)
  · rw [revoc]
    exact ⟨rooms, rekeys⟩

/-- The list without an entry and the REMOVE change behind it. -/
structure EntryRemoved (e : ListEntry) (s u : State) : Prop where
  gen : u.revoc.gen = (s.revoc.gen + 1) % 4294967296
  entries : u.revoc.entries = s.revoc.entries.filter (fun x => x.serial != e.serial)
  last : u.revoc.changes.getLast? = some ⟨u.revoc.gen, .remove e.serial e.cred⟩
  kept : u.revoc.rooms = s.revoc.rooms ∧ u.revoc.rekeys = s.revoc.rekeys

theorem State.removeEntry_removed (s : State) (e : ListEntry) : EntryRemoved e s (s.removeEntry e) := by
  obtain ⟨rooms, rekeys⟩ := State.emit_kept (s.setEntries (dropKey ListEntry.serial e.serial s.revoc.entries)) (.remove e.serial e.cred)
  have revoc := s.removeEntry_revoc e
  refine ⟨?_, s.removeEntry_entries e, ?_, ?_⟩
  · rw [revoc]
    exact State.emit_gen _ _
  · rw [revoc]
    exact State.emit_last _ _
  · rw [revoc]
    exact ⟨rooms, rekeys⟩

/-- The list without a serial (05:R98). -/
structure SerialRemoved (serial : Nat) (s u : State) : Prop where
  entries : u.revoc.entries = s.revoc.entries.filter (fun e => e.serial != serial)
  kept : u.revoc.rooms = s.revoc.rooms ∧ u.revoc.rekeys = s.revoc.rekeys
  held : ∀ e, s.entry? serial = some e → u.revoc.gen = (s.revoc.gen + 1) % 4294967296 ∧
    u.revoc.changes.getLast? = some ⟨u.revoc.gen, .remove serial e.cred⟩
  absent : s.entry? serial = none → u = s

theorem State.entry?_serial {s : State} {serial : Nat} {e : ListEntry} (h : s.entry? serial = some e) : e.serial = serial := by
  simpa using List.find?_some h

theorem State.removeSerial_removed (s : State) (serial : Nat) : SerialRemoved serial s (s.removeSerial serial) := by
  unfold State.removeSerial
  cases h : s.entry? serial with
  | none =>
    refine ⟨(List.filter_eq_self.mpr fun e he => ?_).symm, ⟨rfl, rfl⟩, fun e he => (by cases h.symm.trans he), fun _ => rfl⟩
    simpa using List.find?_eq_none.mp h e he
  | some e =>
    obtain rfl := State.entry?_serial h
    have removed := s.removeEntry_removed e
    refine ⟨removed.entries, removed.kept, fun f hf => ?_, fun none => by cases h.symm.trans none⟩
    obtain rfl : e = f := Option.some.inj (h.symm.trans hf)
    exact ⟨removed.gen, removed.last⟩

end Sys2Proof.Machine

/-! PROOF of O51. CANCEL_ISSUE, SUSPEND_CARD and RESUME_CARD on a credential number (04:R77, R80, R81). -/

namespace Sys2Proof.Machine

open Sys2Proof

theorem State.cred?_is {s : State} {k : Nat} {c : Cred} (hc : s.cred? k = some c) : c.number = k := (findKey_some Cred.number hc).1

section Cards
variable {s : State} {k : Nat} {c : Cred}

/-! ### CANCEL_ISSUE -/

theorem serveCancel_encoding {lapse : Nat} (encoding : c.st = .encoding lapse) (s : State) :
    serveCancel c s = (s.returnEncoding c.number .cancelled, .plain .ok) := by
  simp [serveCancel, encoding, CredState.isEncoding]

theorem serveCancel_other (other : ∀ lapse, c.st ≠ .encoding lapse) (s : State) : serveCancel c s = (s, .plain .wrongState) := by
  have idle : c.st.isEncoding = false := by
    cases h : c.st with
    | encoding t => exact absurd h (other t)
    | _ => rfl
  simp [serveCancel, idle, refuse]

/-- An encoding returned: its slot VACANT at the tail of the free list (04:R77). -/
structure EncodingReturned (c : Cred) (cause : LapseCause) (s u : State) : Prop where
  vacant : u.cred? c.number = none
  others : ∀ j, j ≠ c.number → u.cred? j = s.cred? j
  free : u.store.free = s.store.free ++ [c.number]
  retired : u.store.retired = s.store.retired
  journal : u.journal = s.journal.push s.now
    { kind := .cardLapsed, cred := some c.number, serial := some c.serial, detail1 := some (.cause cause) }
  rest : u = { s with store := u.store, journal := u.journal, port := u.port }

theorem State.returnEncoding_returned (hc : s.cred? k = some c) (cause : LapseCause) :
    EncodingReturned c cause s (s.returnEncoding k cause) := by
  obtain rfl := State.cred?_is hc
  have store := s.returnEncoding_store cause hc
  refine ⟨?_, fun j ne => ?_, ?_, ?_, ?_, State.eq_of_fields⟩
  · rw [State.cred?, store]
    exact findKey_dropKey Cred.number _ _
  · rw [State.cred?, store]
    exact findKey_dropKey_ne Cred.number ne _
  · rw [store]
  · rw [store]
  · simp only [State.returnEncoding, hc, State.append_journal]
    rfl

/-! ### SUSPEND_CARD -/

theorem State.askRoom_kept (s : State) : s.askRoom.revoc.rooms = s.revoc.rooms ∧ s.askRoom.revoc.rekeys = s.revoc.rekeys := by
  obtain short | full := Nat.lt_or_ge s.revoc.entries.length 256
  · rw [s.askRoom_asked.stands short]
    exact ⟨rfl, rfl⟩
  · exact (s.askRoom_asked.full full).rooms

theorem serveSuspend_current (use : c.st = .issued ∨ c.st = .active) (s : State) :
    serveSuspend c s = s.suspend c (decide (c.st = .active)) := by
  obtain h | h := use <;> simp [serveSuspend, h]

theorem serveSuspend_other (issued : c.st ≠ .issued) (active : c.st ≠ .active) (s : State) :
    serveSuspend c s = (s, .plain .wrongState) := by
  unfold serveSuspend
  split
  · exact absurd ‹_› issued
  · exact absurd ‹_› active
  · rfl

/-- A card suspended with its entry at the tail of the list, of the list `t` that room was asked of. -/
def State.suspended (c : Cred) (wasActive : Bool) (s : State) : State :=
  ((s.askRoom.pushEntry c.serial (some c.number) .suspended c.validEnd).setCredState c.number (.suspended wasActive s.now)).append
    (c.entry .cardSuspended)

theorem State.suspend_full (full : 256 ≤ s.askRoom.revoc.entries.length) (w : Bool) :
    s.suspend c w = (s.askRoom, .plain .listFull) := by
  simp [State.suspend, State.listHasRoom, refuse, Nat.not_lt.mpr full]

theorem State.suspend_room (room : s.askRoom.revoc.entries.length < 256) (w : Bool) :
    s.suspend c w = (s.suspended c w, .plain .ok) := by
  simp [State.suspend, State.suspended, State.listHasRoom, room]

theorem State.suspended_cred? (c : Cred) (w : Bool) (s : State) (j : Nat) : (s.suspended c w).cred? j =
    (s.cred? j).map (fun d => if j = c.number then { d with st := .suspended w s.now } else d) := by
  have pushed : (s.askRoom.pushEntry c.serial (some c.number) .suspended c.validEnd).store = s.store := by simp
  rw [State.suspended, State.cred?_congr (State.append_store _ _), State.setCredState_cred?, State.cred?_congr pushed]

theorem State.suspended_added (c : Cred) (w : Bool) (s : State) :
    EntryAdded c.serial (some c.number) .suspended c.validEnd s.askRoom (s.suspended c w) := by
  obtain ⟨gen, entries, last, kept⟩ := s.askRoom.pushEntry_added c.serial (some c.number) .suspended c.validEnd
  constructor <;> simpa [State.suspended]

theorem State.suspended_cacheOnly (c : Cred) (w : Bool) (s : State) : s.CacheOnly (s.suspended c w) :=
  (s.askRoom_reloadOnly.cacheOnly.trans
    (s.askRoom.pushEntry_cacheOnly c.serial (some c.number) .suspended c.validEnd)).trans (.of_eq (State.append_nodes _ _))

theorem State.suspended_rest (c : Cred) (w : Bool) (s : State) :
    let u := s.suspended c w
    u = { s with store := u.store, revoc := u.revoc, nodes := u.nodes, journal := u.journal, port := u.port } := by
  unfold State.suspended
  exact State.eq_of_fields

/-! ### RESUME_CARD -/

theorem State.removeSerial_quiet (s : State) (x : Nat) : (s.removeSerial x).time = s.time ∧ (s.removeSerial x).journal = s.journal := by
  unfold State.removeSerial
  split <;> simp

/-- A card resumed: the state before, and its serial off the list (04:R81). -/
def State.resumed (c : Cred) (wasActive : Bool) (s : State) : State :=
  ((s.setCredState c.number (stateBefore wasActive)).removeSerial c.serial).append (c.entry .cardResumed)

theorem serveResume_suspended {w : Bool} {t : Nat} (suspended : c.st = .suspended w t) (s : State) :
    serveResume c s = (s.resumed c w, .plain .ok) := by
  simp [serveResume, suspended, State.resumed]

theorem serveResume_other (other : ∀ w t, c.st ≠ .suspended w t) (s : State) : serveResume c s = (s, .plain .wrongState) := by
  unfold serveResume
  split
  · exact absurd ‹_› (other _ _)
  · rfl

theorem State.resumed_cred? (c : Cred) (w : Bool) (s : State) (j : Nat) : (s.resumed c w).cred? j =
    (s.cred? j).map (fun d => if j = c.number then { d with st := stateBefore w } else d) := by
  rw [State.resumed, State.cred?_congr (State.append_store _ _), State.cred?_congr (State.removeSerial_store _ _), State.setCredState_cred?]

theorem State.resumed_removed (c : Cred) (w : Bool) (s : State) :
    SerialRemoved c.serial (s.setCredState c.number (stateBefore w))
      ((s.setCredState c.number (stateBefore w)).removeSerial c.serial) := State.removeSerial_removed _ _

theorem State.resumed_revoc (c : Cred) (w : Bool) (s : State) :
    (s.resumed c w).revoc = ((s.setCredState c.number (stateBefore w)).removeSerial c.serial).revoc := State.append_revoc _ _

theorem State.resumed_nodes (c : Cred) (w : Bool) (s : State) :
    (s.resumed c w).nodes = ((s.setCredState c.number (stateBefore w)).removeSerial c.serial).nodes := State.append_nodes _ _

theorem State.resumed_cacheOnly (c : Cred) (w : Bool) (s : State) : s.CacheOnly (s.resumed c w) :=
  ((State.CacheOnly.of_eq (State.setCredState_nodes s c.number (stateBefore w))).trans
    (State.removeSerial_reloadOnly _ c.serial).cacheOnly).trans (.of_eq (s.resumed_nodes c w))

theorem State.resumed_rest (c : Cred) (w : Bool) (s : State) :
    let u := s.resumed c w
    u = { s with store := u.store, revoc := u.revoc, nodes := u.nodes, journal := u.journal, port := u.port } := by
  unfold State.resumed State.removeSerial
  split <;> exact State.eq_of_fields

end Cards

/-! ### The obligation -/

theorem State.takes_row {s u : State} {i : Instr} {kind tag : Byte} {k : Nat} {serve : Cred → State → State × Reply} {r : Reply}
    (takes : s.takes) (row : exec i s = .next (s.command kind tag 2 (· == 2) (State.onCred (le16 k) serve) []))
    (gives : s.onCred (le16 k) serve = (u, r)) (other : (kind == 0x06) = false) : exec i s = .next (u.answer kind tag false r) :=
  exec_takes row takes rfl gives other

/-- Settles O51: each command is one act of the store after the list has been asked for room or lost the serial. -/
theorem cancelSuspendAndResumeACard : Obligations.CancelSuspendAndResumeACard := by
  intro tag k s takes refused each
  refine ⟨fun high bound => ?_, fun low vacant => ?_, ?_⟩
  · exact ⟨State.takes_row takes rfl (State.onCred_high high bound) rfl, State.takes_row takes rfl (State.onCred_high high bound) rfl,
      State.takes_row takes rfl (State.onCred_high high bound) rfl⟩
  · exact ⟨State.takes_row takes rfl (State.onCred_vacant low vacant) rfl, State.takes_row takes rfl (State.onCred_vacant low vacant) rfl,
      State.takes_row takes rfl (State.onCred_vacant low vacant) rfl⟩
  intro c low hc entry wrong
  obtain rfl := State.cred?_is hc
  refine ⟨fun other => ?_, fun lapse encoding => ?_, fun issued active => ?_, s.askRoom_asked, fun use => ⟨fun full => ?_, fun room => ?_⟩,
    fun other => ?_, fun w t suspended => ?_⟩
  · exact State.takes_row takes rfl ((State.onCred_held low hc).trans (serveCancel_other other s)) rfl
  · have gives := (State.onCred_held (f := serveCancel) low hc).trans (serveCancel_encoding encoding s)
    have returned := State.returnEncoding_returned hc .cancelled
    have notices : Evolves Rights.desk s (serveCancel c s).1 := .serveCancel hc
    rw [serveCancel_encoding encoding] at notices
    exact ⟨_, State.takes_row takes rfl gives rfl, returned.vacant, returned.others, returned.free, returned.retired, returned.journal,
      notices.notices, returned.rest⟩
  · exact State.takes_row takes rfl ((State.onCred_held low hc).trans (serveSuspend_other issued active s)) rfl
  · exact State.takes_row takes rfl
      ((State.onCred_held low hc).trans ((serveSuspend_current use s).trans (State.suspend_full full _))) rfl
  · have serves := (serveSuspend_current use s).trans (State.suspend_room room _)
    have notices : Evolves Rights.desk s (serveSuspend c s).1 := .serveSuspend trivial hc
    rw [serves] at notices
    have added := s.suspended_added c (decide (c.st = .active))
    refine ⟨_, State.takes_row takes rfl ((State.onCred_held low hc).trans serves) rfl, ?_, fun j ne => ?_, by simp [State.suspended, State.setCredState],
      by simp [State.suspended, State.setCredState], added.gen, added.entries, added.last, added.kept.1.trans s.askRoom_kept.1, (s.suspended_cacheOnly c _).touched, ?_,
      notices.notices, s.suspended_rest c _⟩
    · rw [State.suspended_cred?, hc]
      simp
    · rw [State.suspended_cred?]
      simp [ne]
    · rw [State.suspended, State.append_journal]
      simp [State.now, Cred.entry, entry]
  · exact State.takes_row takes rfl ((State.onCred_held low hc).trans (serveResume_other other s)) rfl
  · have serves := serveResume_suspended suspended s
    have notices : Evolves Rights.desk s (serveResume c s).1 := .serveResume trivial hc
    rw [serves] at notices
    have removed := s.resumed_removed c w
    refine ⟨_, State.takes_row takes rfl ((State.onCred_held low hc).trans serves) rfl, ?_, fun j ne => ?_, ?_, ?_, fun e he => ?_,
      fun none => ⟨?_, ?_⟩, (s.resumed_cacheOnly c w).touched, ?_, notices.notices, ?_⟩
    · rw [State.resumed_cred?, hc]
      simp [stateBefore]
    · rw [State.resumed_cred?]
      simp [ne]
    · rw [State.resumed_revoc]
      exact removed.entries
    · rw [State.resumed_revoc]
      exact removed.kept.1
    · rw [State.resumed_revoc]
      exact removed.held e he
    · rw [State.resumed_revoc, removed.absent none]
      rfl
    · rw [State.resumed_nodes, removed.absent none]
      rfl
    · rw [State.resumed, State.append_journal]
      obtain ⟨time, journal⟩ := State.removeSerial_quiet (s.setCredState c.number (stateBefore w)) c.serial
      simp [State.now, Cred.entry, entry, time, journal]
    · exact s.resumed_rest c w

end Sys2Proof.Machine

/-! PROOF of O53. CARD_STATUS and PURGE_RETIRED (04:R84, R85). -/

namespace Sys2Proof.Machine

open Sys2Proof

section Purge
variable {s t u : State}

/-! ### The report of a slot's reuse (05:R100) -/

theorem State.reportReuse_cacheOnly (s : State) (k : Nat) : s.CacheOnly (s.reportReuse k) := by
  unfold State.reportReuse
  split
  · exact (s.reformEntry_cacheOnly _ _ _).trans (.of_eq rfl)
  · exact .of_eq rfl

theorem State.pushEntry_rooms (s : State) (x : Nat) (c : Option Nat) (r : ListReason) (t : Nat) :
    (s.pushEntry x c r t).revoc.rooms = s.revoc.rooms := (s.pushEntry_added x c r t).kept.1

theorem State.reportReuse_rooms (s : State) (k : Nat) : (s.reportReuse k).revoc.rooms = s.revoc.rooms := by
  unfold State.reportReuse
  split
  · exact State.reformEntry_rooms _ _ _ _
  · rfl

/-! ### PURGE_RETIRED -/

/-- Some slots at the head of the retired order purged. -/
structure Purged (ks : List Nat) (s u : State) : Prop where
  free : u.store.free = s.store.free ++ ks
  retired : u.store.retired = s.store.retired.drop ks.length
  gone : ∀ k ∈ ks, u.cred? k = none
  others : ∀ k, k ∉ ks → u.cred? k = s.cred? k
  rooms : u.revoc.rooms = s.revoc.rooms
  caches : s.CacheOnly u
  rest : u = { s with store := u.store, revoc := u.revoc, nodes := u.nodes, port := u.port }

theorem Purged.nil (s : State) : Purged [] s s where
  free := (List.append_nil _).symm
  retired := rfl
  gone _ h := absurd h List.not_mem_nil
  others _ _ := rfl
  rooms := rfl
  caches := .refl s
  rest := rfl

theorem State.purgeHead_cred? (s : State) (k j : Nat) : (s.purgeHead k).cred? j = if j = k then none else s.cred? j := by
  have same : (s.reportReuse k).store = s.store := by simp
  have recs : (s.purgeHead k).store.recs = dropKey Cred.number k s.store.recs := by simp [State.purgeHead]
  rw [State.cred?, recs]
  split
  · subst j
    exact findKey_dropKey Cred.number _ _
  · exact findKey_dropKey_ne Cred.number ‹_› _

theorem Purged.cons {k : Nat} {ks : List Nat} (h : Purged ks (s.purgeHead k) u) : Purged (k :: ks) s u where
  free := by simp [h.free, State.purgeHead]
  retired := by simp [h.retired, State.purgeHead]
  gone j hj := by
    by_cases later : j ∈ ks
    · exact h.gone j later
    · have first : j = k := (List.mem_cons.mp hj).resolve_right later
      rw [h.others j later, State.purgeHead_cred?, if_pos first]
  others j hj := by
    obtain ⟨ne, later⟩ := not_or.mp (List.mem_cons.not.mp hj)
    rw [h.others j later, State.purgeHead_cred?, if_neg ne]
  rooms := h.rooms.trans (s.reportReuse_rooms k)
  caches := ((s.reportReuse_cacheOnly k).trans (.of_eq rfl)).trans h.caches
  rest := by
    have first : s.purgeHead k = { s with
        store := (s.purgeHead k).store, revoc := (s.purgeHead k).revoc, nodes := (s.purgeHead k).nodes, port := (s.purgeHead k).port } := by
      unfold State.purgeHead
      exact State.eq_of_fields
    rw [h.rest, first]

theorem State.purgeAll (ks : List Nat) (s : State) : Purged ks s (ks.foldl (fun t k => t.purgeHead k) s) := by
  induction ks generalizing s with
  | nil => exact .nil s
  | cons k ks ih => exact (ih _).cons

end Purge

/-! ### CARD_STATUS -/

theorem State.slotCounts_eq (s : State) : s.slotCounts =
    fields [(2, s.store.free.length), (2, s.store.retired.length), (2, s.liveCount)] := by
  simp [State.slotCounts]

theorem serveCardStatus_number {k : Nat} (low : k ≤ 767) (s : State) : serveCardStatus ([1] ++ le16 k ++ [0, 0, 0, 0, 0]) s =
    (s, ⟨.ok, (match s.cred? k with | some c => c.statusBytes | none => vacantBytes k) ++ s.slotCounts⟩) := by
  have reads : cardQuery ([1] ++ le16 k ++ [0, 0, 0, 0, 0]) = some (.number k) := by
    have word : u16At ([1] ++ le16 k ++ [0, 0, 0, 0, 0]) 1 = k := u16At_le16 (by omega) 1 [0, 0, 0, 0, 0]
    simp only [cardQuery, word, if_pos low]
    rfl
  rw [serveCardStatus, reads] <;> rfl

theorem serveCardStatus_serial {x : Nat} (bound : x < 4294967296) (s : State) : serveCardStatus ([0, 0, 0, 1] ++ le32 x) s =
    (match s.holder? x with | some c => (s, ⟨.ok, c.statusBytes ++ s.slotCounts⟩) | none => refuse .notFound s) := by
  have reads : cardQuery ([0, 0, 0, 1] ++ le32 x) = some (.serial x) := by
    have word : u32At ([0, 0, 0, 1] ++ le32 x) 4 = x := u32At_le32 bound
    simp only [cardQuery, word]
    rfl
  rw [serveCardStatus, reads] <;> rfl

/-- Settles O53: the entry and the lengths as laid out; the purge takes the old head slot by slot. -/
theorem cardStatusReportsAndPurgeFrees : Obligations.CardStatusReportsAndPurgeFrees := by
  intro tag s takes counts replies
  have length (c : Cred) : (fields (credFields c ++ counts)).length = 77 := by
    simp [credFields, cardFields, counts, optional, imageFields]
  refine ⟨fun k low => ⟨fun vacant => ⟨?_, ?_⟩, fun c hc => ⟨length c, ?_⟩⟩, fun x bound => ⟨fun c hc => ⟨length c, ?_⟩, fun none => ?_⟩,
    fun age bound => ?_⟩
  · simp [counts]
  · refine exec_takes rfl takes rfl ((serveCardStatus_number low s).trans ?_) rfl
    simp [vacant, vacantBytes, State.slotCounts_eq, counts]
  · refine exec_takes rfl takes rfl ((serveCardStatus_number low s).trans ?_) rfl
    simp [hc, Cred.statusBytes_eq, State.slotCounts_eq, counts, fields_append]
  · refine exec_takes rfl takes rfl ((serveCardStatus_serial bound s).trans ?_) rfl
    simp [hc, Cred.statusBytes_eq, State.slotCounts_eq, counts, fields_append]
  · refine exec_takes rfl takes rfl ((serveCardStatus_serial bound s).trans ?_) rfl
    simp [none, refuse]
  · have word : u32At (le32 age) 0 = age := u32At_le32 bound
    have purged := State.purgeAll (s.purgeable age) s
    have notices : Evolves Rights.desk s (servePurge (le32 age) s).1 := .servePurge _
    have serves : servePurge (le32 age) s
        = ((s.purgeable age).foldl (fun t k => t.purgeHead k) s, ⟨.ok, le16 (s.purgeable age).length⟩) := by
      simp only [servePurge, word]
    rw [serves] at notices
    refine ⟨s.purgeable age, s.store.retired.drop (s.purgeable age).length, _, ?_, fun k hk => ?_, fun k hk => ?_,
      exec_takes rfl takes rfl serves rfl, purged.free, purged.retired, purged.gone, purged.others, purged.rooms, purged.caches.touched,
      notices.notices, purged.rest⟩
    · exact (List.prefix_iff_eq_append.mp (List.takeWhile_prefix _)).symm
    · simpa using List.mem_takeWhile_imp hk
    · have split := List.takeWhile_append_dropWhile (p := fun k => decide (s.retiredAt k + age < s.now)) (l := s.store.retired)
      have left : s.store.retired.drop (s.purgeable age).length = s.store.retired.dropWhile (fun k => s.retiredAt k + age < s.now) := by
        conv_lhs => rw [← split]
        exact List.drop_left
      have stops := List.head?_dropWhile_not (fun k => decide (s.retiredAt k + age < s.now)) s.store.retired
      rw [← left, hk] at stops
      simpa using stops

end Sys2Proof.Machine

/-! PROOF of O55. A change emitted, and what list entries added and removed do to caches (05:R102, R107). -/

namespace Sys2Proof.Machine

open Sys2Proof

section Caches
variable {s w : State} {n : Node} {cred : Option Nat}

/-! ### Effective generation and cache count -/

theorem State.effective_iff (s : State) (n : Node) (g : Nat) : s.Effective n g ↔ g = s.effectiveGen n := by
  refine ⟨?_, fun h => h ▸ s.effectiveGen_effective n⟩
  unfold State.Effective
  rintro (⟨before, c, after, split, holds, fails, gen⟩ | ⟨fails, gen⟩)
  · have first : (s.deliverables n).head? = some c := by
      have none : before.filter (fun c => s.deliverable c n && genBelow n.cursor.acked c.gen) = [] := by
        simpa only [List.filter_eq_nil_iff, s.unacked_iff] using fails
      simp only [State.deliverables, split, List.filter_append, none, List.nil_append, List.filter_cons,
        (s.unacked_iff n c).mpr holds, if_true, List.head?_cons]
    rw [gen, State.effectiveGen, first]
    rfl
  · have none : s.deliverables n = [] :=
      List.eq_nil_iff_forall_not_mem.mpr fun c hc => fails c ((s.mem_deliverables n c).mp hc).1 ((s.mem_deliverables n c).mp hc).2
    simp [gen, State.effectiveGen, none]

theorem isRemove_iff (c : Change) : (match c.body with | .remove _ _ => true | _ => false) = true ↔
    ∃ serial cred, c.body = .remove serial cred := by
  cases c.body <;> simp

theorem State.caches_iff (s : State) (n : Node) (k : Nat) : s.Caches n k ↔ k = s.cacheCount n := by
  have count : s.cacheCount n = (s.revoc.entries.filter (fun e => s.credRelevant e.cred n)).length
      + (s.revoc.changes.filter (fun c => (match c.body with | .remove _ _ => true | _ => false)
          && (s.deliverable c n && genBelow n.cursor.acked c.gen))).length := by
    rw [State.cacheCount, State.deliverables, List.filter_filter] <;> rfl
  rw [count]
  constructor
  · rintro ⟨held, gone, holds, goes, rfl⟩
    congr 2
    · refine List.filter_congr fun e he => Bool.eq_iff_iff.mpr ?_
      rw [holds e he, State.credRelevant_iff]
    · refine List.filter_congr fun c hc => Bool.eq_iff_iff.mpr ?_
      rw [goes c hc, Bool.and_eq_true, s.unacked_iff, isRemove_iff, and_comm]
  · rintro rfl
    refine ⟨_, _, fun e _ => s.credRelevant_iff e.cred n, fun c _ => ?_, rfl⟩
    rw [Bool.and_eq_true, s.unacked_iff, isRemove_iff, and_comm]

/-! ### The drop of the oldest change -/

theorem State.dropMarks_iff (s : State) (d : Nat) (n : Node) : s.DropMarks d n ↔ n.st ≠ .disabled ∧
    (match n.reload with
     | .none => genBelow (s.effectiveGen n) d
     | .marked => false
     | .sending g _ => genBelow g d
     | .awaiting g _ => genBelow g d) = true := by
  unfold State.DropMarks
  cases n.reload <;> simp [s.effective_iff]

theorem State.afterDrop_eq (s : State) (d : Nat) (n : Node) : (s.DropMarks d n → s.afterDrop d n = { n with reload := .marked }) ∧
    (¬ s.DropMarks d n → s.afterDrop d n = n) := by
  rw [State.dropMarks_iff]
  unfold State.afterDrop
  by_cases off : n.st = .disabled
  · simp [off]
  · cases n.reload <;> simp [off, Node.marked] <;> constructor <;> intro h <;> simp [h]

theorem State.emit_short (short : s.revoc.changes.length < 512) (b : ChangeBody) : s.emit b =
    { s with revoc := { s.revoc with gen := (s.revoc.gen + 1) % 4294967296,
                                     changes := s.revoc.changes ++ [⟨(s.revoc.gen + 1) % 4294967296, b⟩] } } := by
  simp only [State.emit, State.dropOldest, if_pos short]
  rfl

theorem State.emit_full {c : Change} {cs : List Change} (changes : s.revoc.changes = c :: cs)
    (full : 512 ≤ s.revoc.changes.length) (b : ChangeBody) : s.emit b =
    { s with nodes := s.nodes.map (s.afterDrop c.gen)
             revoc := { s.revoc with gen := (s.revoc.gen + 1) % 4294967296,
                                     changes := cs ++ [⟨(s.revoc.gen + 1) % 4294967296, b⟩] } } := by
  have dropped : s.dropOldest = { s with nodes := s.nodes.map (s.afterDrop c.gen), revoc := { s.revoc with changes := cs } } := by
    unfold State.dropOldest
    rw [if_neg (Nat.not_lt.mpr full)]
    split
    · rename_i none
      cases changes.symm.trans none
    · rename_i c' cs' here
      cases changes.symm.trans here
      rfl
  rw [State.emit, dropped]
  rfl

/-! ### An entry added restricts (05:R107) -/

/-- The node's cache, the list with an entry naming `cred` on it, has passed its limit. -/
def State.passes (w : State) (cred : Option Nat) (n : Node) : Prop :=
  n.fallback = .full ∧ w.Concerns cred n ∧ ∃ k, w.Caches n k ∧ 256 < k

theorem State.passes_iff (w : State) (cred : Option Nat) (n : Node) : w.passes cred n ↔
    n.fallback = .full ∧ w.credRelevant cred n = true ∧ 256 < w.cacheCount n := by
  simp [State.passes, State.credRelevant_iff, State.caches_iff]

/-- A node restricted by 05:R107 where its cache has passed the limit. -/
noncomputable def State.restricted (w : State) (cred : Option Nat) (n : Node) : Node :=
  open Classical in if w.passes cred n then { n with fallback := .restricted, latchFallback := true } else n

/-- The test of one node. -/
def State.restrictOne (cred : Option Nat) (t : State) (a : Nat) : State :=
  match t.node? a with
  | some n => if n.fallback = .full ∧ t.credRelevant cred n ∧ 256 < t.cacheCount n then t.setFallback a .restricted else t
  | none => t

theorem State.restrictCheck_eq (w : State) (cred : Option Nat) : w.restrictCheck cred = w.addrs.foldl (State.restrictOne cred) w := rfl

/-- What the tests of `w`'s nodes keep: what the cache count reads, and NODE_CHANGE disarmed once a node is restricted. -/
structure RestrictsOn (w t : State) : Prop where
  revoc : t.revoc = w.revoc
  store : t.store = w.store
  part : t.part = w.part
  told : w.part = .running → t.nodes = w.nodes ∨ t.port.arm.nodeChange = false

theorem State.passes_congr {w t : State} (h : RestrictsOn w t) (cred : Option Nat) (n : Node) : t.passes cred n ↔ w.passes cred n := by
  obtain ⟨revoc, store, -, -⟩ := h
  have cred? : ∀ k, t.cred? k = w.cred? k := State.cred?_congr store
  have relevant : ∀ cred, t.credRelevant cred n = w.credRelevant cred n := fun cred => by
    cases cred <;> simp [State.credRelevant, cred?]
  have changes : ∀ c, t.deliverable c n = w.deliverable c n := fun c => by
    unfold State.deliverable State.relevant
    cases c.body <;> simp [relevant]
  have count : t.cacheCount n = w.cacheCount n := by simp [State.cacheCount, State.deliverables, revoc, relevant, changes]
  rw [State.passes_iff, State.passes_iff, relevant, count]

theorem State.restrictOne_spec {w t : State} {cred : Option Nat} (h : RestrictsOn w t) (hn : t.node? n.addr = some n) :
    RestrictsOn w (t.restrictOne cred n.addr) ∧ Records t (t.restrictOne cred n.addr) [] ∧
    ∃ g : Node → Node, g n = w.restricted cred n ∧ (t.restrictOne cred n.addr).nodes = modKey Node.addr n.addr g t.nodes := by
  have same := State.passes_congr h cred n
  by_cases pass : w.passes cred n
  · have acts : t.restrictOne cred n.addr = t.setFallback n.addr .restricted := by
      simp only [State.restrictOne, hn]
      exact if_pos ((State.passes_iff _ _ _).mp (same.mpr pass))
    rw [acts]
    refine ⟨⟨by simpa [State.setFallback] using h.revoc, by simpa [State.setFallback] using h.store, by simpa [State.setFallback] using h.part, fun running => .inr ?_⟩,
      ⟨?_, ?_, ?_⟩, fun m => { m with fallback := .restricted, latchFallback := true }, ?_, ?_⟩
    · exact State.raise_disarms (by simpa [h.part] using running) .nodeChange
    · simp [State.setFallback]
    · simp [State.setFallback]
    · exact State.raise_quiet (t.modNode n.addr (fun n => { n with fallback := .restricted, latchFallback := true })) .nodeChange (by decide)
    · exact (if_pos pass).symm
    · simp [State.setFallback, State.modNode]
  · have acts : t.restrictOne cred n.addr = t := by
      simp only [State.restrictOne, hn]
      exact if_neg (fun c => pass (same.mp ((State.passes_iff _ _ _).mpr c)))
    rw [acts]
    refine ⟨h, .refl t, id, (if_neg pass).symm, ?_⟩
    simp [modKey]

theorem State.restrictCheck_spec (once : w.nodes.Pairwise (fun m n => m.addr ≠ n.addr)) (cred : Option Nat) :
    RestrictsOn w (w.restrictCheck cred) ∧ (w.restrictCheck cred).nodes = w.nodes.map (w.restricted cred) := by
  have addr (n : Node) : (w.restricted cred n).addr = n.addr := by
    unfold State.restricted
    split <;> rfl
  obtain ⟨on, _, nodes⟩ := State.foldl_nodes (act := State.restrictOne cred) (K := RestrictsOn w) (r := fun _ _ => []) addr
    (fun t n h hn => State.restrictOne_spec h hn) w.nodes [] w ⟨rfl, rfl, rfl, fun _ => .inl rfl⟩ rfl once
  exact ⟨on, nodes⟩

theorem State.restrictCheck_nobody (nobody : ∀ n ∈ w.nodes, ¬ w.passes cred n) : w.restrictCheck cred = w := by
  refine (w.restrictCheck_eq cred).trans (List.foldl_fixed' (fun a => ?_) w.addrs)
  unfold State.restrictOne
  split
  · rename_i n hn
    exact if_neg (fun c => nobody n (findKey_some Node.addr hn).2 ((State.passes_iff _ _ _).mpr c))
  · rfl

/-- What 05:R107 does where a list entry naming `cred` has come on the list. -/
theorem State.restrictCheck_outcome (once : w.nodes.Pairwise (fun m n => m.addr ≠ n.addr)) (cred : Option Nat) :
    let u := w.restrictCheck cred
    List.Forall₂ (fun n m : Node => (w.passes cred n → m = { n with fallback := .restricted, latchFallback := true }) ∧
      (¬ w.passes cred n → m = n)) w.nodes u.nodes ∧
    (w.part = .running → (∃ n ∈ w.nodes, w.passes cred n) → u.port.arm.nodeChange = false) ∧
    ((∀ n ∈ w.nodes, ¬ w.passes cred n) → u = w) ∧
    Port.noticesOnly w.port u.port ∧ u = { w with nodes := u.nodes, port := u.port } := by
  obtain ⟨on, nodes⟩ := State.restrictCheck_spec once cred
  have notices : Evolves Rights.desk w (w.restrictCheck cred) := .restrictCheck cred
  refine ⟨?_, fun running ⟨n, hn, pass⟩ => (on.told running).resolve_left fun same => ?_, State.restrictCheck_nobody, notices.notices,
    State.eq_of_fields⟩
  · rw [nodes, List.forall₂_map_right_iff, List.forall₂_same]
    exact fun n _ => ⟨fun pass => if_pos pass, fun pass => if_neg pass⟩
  · rw [nodes] at same
    have here : w.restricted cred n = n := List.map_inj_left.mp (same.trans (List.map_id _).symm) n hn
    rw [State.restricted, if_pos pass] at here
    have mode := congrArg Node.fallback here
    rw [pass.1] at mode
    cases mode

/-! ### An entry removed relaxes (05:R107) -/

theorem State.relaxCheck_outcome (t s : State) (same : ∀ n ∈ t.nodes, n.reload = .none → s.node? n.addr = some n) :
    let u := t.relaxCheck s
    let falls (n : Node) : Prop := n.fallback = .restricted ∧ n.reload = .none ∧
      ∃ j k, s.Caches n j ∧ t.Caches n k ∧ k ≤ 256 ∧ k < j
    List.Forall₂ (fun n m : Node => (falls n → m = { n with reload := .marked }) ∧ (¬ falls n → m = n)) t.nodes u.nodes ∧
    u = { t with nodes := u.nodes } := by
  refine ⟨?_, rfl⟩
  refine List.forall₂_map_right_iff.mpr (List.forall₂_same.mpr fun n hn => ?_)
  have none_iff : n.reload.isNone = true ↔ n.reload = .none := by cases n.reload <;> simp [Reload.isNone]
  have tests : (n.fallback = .restricted ∧ n.reload.isNone = true ∧ t.cacheCount n ≤ 256
      ∧ t.cacheCount n < ((s.node? n.addr).map s.cacheCount).getD 0) ↔ (n.fallback = .restricted ∧ n.reload = .none ∧
      ∃ j k, s.Caches n j ∧ t.Caches n k ∧ k ≤ 256 ∧ k < j) := by
    rw [none_iff]
    refine and_congr_right fun _ => and_congr_right fun idle => ?_
    simp [same n hn idle, State.caches_iff]
  exact ⟨fun falls => if_pos (tests.mpr falls), fun falls => if_neg (fun h => falls (tests.mp h))⟩

end Caches

/-! ### The obligation -/

theorem State.once_of_addrs {s : State} (once : s.addrs.Nodup) : s.nodes.Pairwise (fun m n => m.addr ≠ n.addr) :=
  List.pairwise_map.mp once

/-- A node that a change emitted leaves without a reload is the node it was. -/
theorem State.emit_idle {s : State} (once : s.addrs.Nodup) (b : ChangeBody) {n : Node} (hn : n ∈ (s.emit b).nodes)
    (idle : n.reload = .none) : s.node? n.addr = some n := by
  refine findKey_of_once Node.addr (State.once_of_addrs once) ?_
  unfold State.emit State.dropOldest at hn
  split at hn
  · exact hn
  · split at hn
    · exact hn
    · rename_i c cs _
      obtain ⟨m, hm, rfl⟩ := List.mem_map.mp hn
      obtain ⟨marks, stays⟩ := s.afterDrop_eq c.gen m
      by_cases drop : s.DropMarks c.gen m
      · rw [marks drop] at idle
        cases idle
      · rwa [stays drop]

theorem State.emit_addrs (s : State) (b : ChangeBody) : (s.emit b).addrs = s.addrs :=
  (s.emit_reloadOnly b).addrs Node.ReloadOnly.addr

/-- Settles O55: the drop node by node, then the limit tests of an entry added and of one removed. -/
theorem emittedChangesDropTheOldestAndLimitCaches : Obligations.EmittedChangesDropTheOldestAndLimitCaches := by
  refine ⟨fun b s => ⟨fun short => s.emit_short short b, fun c cs changes full => ?_⟩, fun serial cred reason retireAt s once => ?_,
    fun e s once => ?_, fun tag x s takes bound unheld unlisted short => ?_, fun tag k at_ w c e s takes low hc suspended he => ?_⟩
  · have emits := State.emit_full changes full b
    rw [emits]
    refine ⟨rfl, ?_⟩
    exact List.forall₂_map_right_iff.mpr (List.forall₂_same.mpr fun n _ => s.afterDrop_eq c.gen n)
  · intro t w u passes
    have acts : u = w.restrictCheck cred := rfl
    have onceW : w.nodes.Pairwise (fun m n => m.addr ≠ n.addr) :=
      State.once_of_addrs (s := s.emit (.add serial cred)) (by rwa [State.emit_addrs])
    have part : w.part = s.part := by simp [w, t]
    have port : w.port = s.port := by simp [w, t]
    obtain ⟨each, told, nobody, notices, rest⟩ := State.restrictCheck_outcome onceW cred
    rw [part] at told
    rw [port] at notices
    exact ⟨each, told, nobody, notices, rest⟩
  · exact State.relaxCheck_outcome _ s fun n hn idle =>
      State.emit_idle (s := s.setEntries (s.revoc.entries.filter (fun x => x.serial != e.serial))) once (.remove e.serial e.cred) hn idle
  · refine exec_takes rfl takes rfl ?_ rfl
    have word : u32At (le32 x) 0 = x := u32At_le32 bound
    simp [serveRevokeSerial, word, unheld, unlisted, s.askRoom_asked.stands short, State.listHasRoom, short, fourHundredDays]
  · intro v
    obtain rfl := State.cred?_is hc
    have serves := (State.onCred_held low hc).trans (serveResume_suspended suspended s)
    have removed : v.removeSerial c.serial = v.removeEntry e := by
      simp only [State.removeSerial, show v.entry? c.serial = some e from he]
    exact ⟨_, State.takes_row takes rfl serves rfl, (s.resumed_nodes c w).trans (congrArg State.nodes removed),
      (s.resumed_revoc c w).trans (congrArg State.revoc removed)⟩

end Sys2Proof.Machine

/-! PROOF of O49. ISSUE_CARD: its checks in order, the slot it takes and the record it writes (04:R68 to R71, 05:R100). -/

namespace Sys2Proof.Machine

open Sys2Proof

section Issue
variable {s : State} {r : IssueReq} {room : Option Room} {x : RawIssue}

/-! ### The checks -/

theorem State.roomOf?_absent {p : Nat} (absent : ∀ n ∈ s.nodes, n.enrol.cls = .roomEntry → n.enrol.point ≠ p) : s.roomOf? p = none := by
  have none : s.roomNode? p = none := by
    refine List.find?_eq_none.mpr fun n hn h => ?_
    obtain ⟨point, cls⟩ := Bool.and_eq_true_iff.mp h
    exact absent n hn (by simpa using cls) (by simpa using point)
  simp [State.roomOf?, none]

theorem State.issueRoom_found (found : r.entry = none ∨ r.entry.bind s.roomOf? ≠ none) :
    s.issueRoom r = .ok (r.entry.bind s.roomOf?) := by
  unfold State.issueRoom
  cases entry : r.entry with
  | none => rfl
  | some p =>
    cases held : s.roomOf? p with
    | none => simp [entry, held] at found
    | some m => simp [held]

theorem State.issueRoom_absent {p : Nat} (entry : r.entry = some p) (absent : s.roomOf? p = none) :
    s.issueRoom r = .error .notFound := by simp [State.issueRoom, entry, absent]

/-- The conditions of 04 Table 4.4. -/
def IssueReq.WindowBad (r : IssueReq) (now : Nat) : Prop :=
  r.validEnd ≤ r.validStart ∨ min r.validEnd (r.validStart + 34560000) ≤ now

def State.Pending (s : State) (room : Option Room) : Prop :=
  ∃ m, room = some m ∧ ∃ c ∈ s.store.recs, c.guestOf m.point = true ∧ c.st.isEncoding = true

def IssueReq.NoStay (r : IssueReq) (room : Option Room) : Prop := r.mode = some .addCard ∧ ∃ m, room = some m ∧ m.stay < m.floor

def IssueReq.Exhausted (r : IssueReq) (room : Option Room) : Prop := r.mode = some .newStay ∧ ∃ m, room = some m ∧ m.stay = 65535

def IssueReq.ScheduleBad (r : IssueReq) : Prop := ∃ h, r.schedule = some h ∧ h.start = h.stop

theorem State.pending_iff (s : State) (room : Option Room) :
    room.any (fun m => (s.pendingIssue? m.point).isSome) = true ↔ s.Pending room := by
  cases room <;> simp [State.Pending, State.pendingIssue?, List.find?_isSome]

open Classical in
/-- 04 Table 4.4: the first check that fails gives the status. -/
theorem State.issueRefusal_eq (s : State) (r : IssueReq) (room : Option Room) : s.issueRefusal r room =
    if s.time.isSet = false then some .timeUnset
    else if r.WindowBad s.now then some .windowInvalid
    else if s.Pending room then some .issuePending
    else if r.NoStay room then some .noStay
    else if r.Exhausted room then some .sequenceExhausted
    else if r.ScheduleBad then some .badField
    else none := by
  have noStay : (r.mode = some .addCard ∧ room.any (fun m => m.stay < m.floor) = true) ↔ r.NoStay room := by
    cases room <;> simp [IssueReq.NoStay]
  have exhausted : (r.mode = some .newStay ∧ room.any (fun m => m.stay == 65535) = true) ↔ r.Exhausted room := by
    cases room <;> simp [IssueReq.Exhausted]
  have schedule : r.schedule.any (fun h => h.start == h.stop) = true ↔ r.ScheduleBad := by
    unfold IssueReq.ScheduleBad
    cases r.schedule <;> simp
  have unset : (¬ s.time.isSet = true) ↔ s.time.isSet = false := by simp
  have window : (r.validEnd ≤ r.validStart ∨ r.effectiveEnd ≤ s.now) ↔ r.WindowBad s.now := Iff.rfl
  simp only [State.issueRefusal, s.pending_iff, noStay, exhausted, schedule, unset, window]

theorem serveIssueCard_bad (bad : ¬ x.Good) (s : State) : serveIssueCard x.bytes s = (s, .plain .badField) := by
  simp only [serveIssueCard, issueReq_raw, if_neg bad]
  rfl

theorem serveIssueCard_nowhere (good : x.Good) {st : Status} (error : s.issueRoom x.request = .error st) :
    serveIssueCard x.bytes s = (s, .plain st) := by
  simp only [serveIssueCard, issueReq_raw, if_pos good, error]
  rfl

theorem serveIssueCard_refuses (good : x.Good) (ok : s.issueRoom x.request = .ok room) {st : Status}
    (refusal : s.issueRefusal x.request room = some st) : serveIssueCard x.bytes s = (s, .plain st) := by
  simp only [serveIssueCard, issueReq_raw, if_pos good, ok, refusal]
  rfl

theorem serveIssueCard_full (good : x.Good) (ok : s.issueRoom x.request = .ok room) (pass : s.issueRefusal x.request room = none)
    (full : s.slot? = none) : serveIssueCard x.bytes s = (s, .plain .noSlot) := by
  simp only [serveIssueCard, issueReq_raw, if_pos good, ok, pass, full]
  rfl

theorem serveIssueCard_issues (good : x.Good) (ok : s.issueRoom x.request = .ok room) (pass : s.issueRefusal x.request room = none)
    {k : Nat} (slot : s.slot? = some k) : serveIssueCard x.bytes s = s.issue x.request room k := by
  simp only [serveIssueCard, issueReq_raw, if_pos good, ok, pass, slot]

/-! ### The slot's report of reuse (05:R100) -/

theorem Change.forget_other (k : Nat) (c : Change) (serial : Nat) :
    (c.forget k).body ≠ .add serial (some k) ∧ (c.forget k).body ≠ .remove serial (some k) := by
  unfold Change.forget
  split
  · split <;> simp_all
  · split <;> simp_all
  · rename_i add remove
    exact ⟨add serial k, remove serial k⟩

theorem State.reportReuse_forgets (s : State) (k : Nat) : ∀ h ∈ (s.reportReuse k).revoc.changes, ∀ x,
    h.body ≠ .add x (some k) ∧ h.body ≠ .remove x (some k) := by
  intro h mem serial
  obtain ⟨c, -, rfl⟩ : ∃ c, _ ∧ Change.forget k c = h := List.mem_map.mp mem
  exact c.forget_other k serial

theorem State.reportReuse_found {k : Nat} {e : ListEntry} (found : s.revoc.entries.find? (fun x => x.cred == some k) = some e) :
    let u := s.reportReuse k
    u.revoc.gen = (s.revoc.gen + 1) % 4294967296 ∧
    u.revoc.entries = s.revoc.entries.filter (fun x => x.serial != e.serial) ++ [⟨e.serial, none, .foreign, e.retireAt, u.revoc.gen⟩] ∧
    u.revoc.changes.getLast? = some ⟨u.revoc.gen, .add e.serial none⟩ := by
  obtain ⟨gen, entries, last, -⟩ := (s.setEntries (dropKey ListEntry.serial e.serial s.revoc.entries)).pushEntry_added
    e.serial none .foreign e.retireAt
  have reports : s.reportReuse k = { s.reformEntry e none .foreign with
      revoc := { (s.reformEntry e none .foreign).revoc with
        changes := (s.reformEntry e none .foreign).revoc.changes.map (Change.forget k) } } := by
    simp only [State.reportReuse, found]
  rw [reports]
  refine ⟨gen, entries, ?_⟩
  change ((s.reformEntry e none .foreign).revoc.changes.map (Change.forget k)).getLast? = _
  rw [List.getLast?_map]
  exact congrArg (Option.map (Change.forget k)) last

theorem State.reportReuse_absent {k : Nat} (absent : ∀ e ∈ s.revoc.entries, e.cred ≠ some k) :
    let u := s.reportReuse k
    u.revoc.gen = s.revoc.gen ∧ u.revoc.entries = s.revoc.entries ∧ u.nodes = s.nodes := by
  have none : s.revoc.entries.find? (fun x => x.cred == some k) = none := by simpa [List.find?_eq_none] using absent
  simp [State.reportReuse, none]

/-! ### The slot taken -/

theorem State.takeSlot_free {k : Nat} {ks : List Nat} (free : s.store.free = k :: ks) :
    s.takeSlot = { s with store := { s.store with free := ks } } := by
  simp only [State.takeSlot, free]

theorem State.takeSlot_reclaimed {k : Nat} {ks : List Nat} (free : s.store.free = []) (retired : s.store.retired = k :: ks) :
    s.takeSlot = { s.reportReuse k with store := ⟨dropKey Cred.number k s.store.recs, [], ks⟩ } := by
  have store : (s.reportReuse k).store = s.store := by simp
  simp only [State.takeSlot, free, retired, store]

/-! ### The record written -/

theorem IssueReq.record_code (r : IssueReq) (room : Option Room) (k now lapse : Nat) (key : List Byte) :
    let c := r.record room k now lapse key
    c.code = crc32 (fields (cardFields c) ++ key) := by
  intro c
  have body : c.body = fields (cardFields c) := c.body_eq
  exact congrArg (fun b => crc32 (b ++ key)) body

theorem Cred.image_eq (c : Cred) : c.image = fields (cardFields c) ++ fields [(4, c.code)] := by
  simp [Cred.image, Cred.body_eq]

theorem IssueReq.guestPart_some {m : Room} (r : IssueReq) :
    (r.mode = some .newStay → r.guestPart (some m) = some ⟨m.point, m.stay + 1, .newStay⟩) ∧
    (r.mode = some .addCard → r.guestPart (some m) = some ⟨m.point, m.stay, .addCard⟩) := by
  constructor <;> intro mode <;> simp [IssueReq.guestPart, mode]

end Issue

/-- Settles O49: the checks in their order, then the slot from the free list or the retired order. -/
theorem issueCardTakesASlot : Obligations.IssueCardTakesASlot := by
  refine ⟨RawIssue.of_bytes, ?_⟩
  intro tag x s takes r room refused
  have refuses {st : Status} (serves : serveIssueCard x.bytes s = (s, .plain st)) : refused st := exec_takes rfl takes (by simp) serves rfl
  refine ⟨fun bad => refuses (serveIssueCard_bad bad s), fun p good entry absent =>
    refuses (serveIssueCard_nowhere good (State.issueRoom_absent entry (State.roomOf?_absent absent))), ?_⟩
  intro good found windowBad pending noStay exhausted scheduleBad
  have ok : s.issueRoom r = .ok room := State.issueRoom_found found
  have checks := s.issueRefusal_eq r room
  have fails {st : Status} (h : s.issueRefusal r room = some st) : refused st := refuses (serveIssueCard_refuses good ok h)
  refine ⟨fun unset => fails ?_, fun set (w : r.WindowBad s.now) => fails ?_, fun set (w : ¬ r.WindowBad s.now) (p : s.Pending room) => fails ?_,
    fun set (w : ¬ r.WindowBad s.now) (p : ¬ s.Pending room) (n : r.NoStay room) => fails ?_,
    fun set (w : ¬ r.WindowBad s.now) (p : ¬ s.Pending room) (n : ¬ r.NoStay room) (e : r.Exhausted room) => fails ?_,
    fun set (w : ¬ r.WindowBad s.now) (p : ¬ s.Pending room) (n : ¬ r.NoStay room) (e : ¬ r.Exhausted room) (b : r.ScheduleBad) => fails ?_,
    fun set (w : ¬ r.WindowBad s.now) (p : ¬ s.Pending room) (n : ¬ r.NoStay room) (e : ¬ r.Exhausted room) (b : ¬ r.ScheduleBad) => ?_⟩
  · rw [checks, if_pos unset]
  · rw [checks, if_neg (by simp [set]), if_pos w]
  · rw [checks, if_neg (by simp [set]), if_neg w, if_pos p]
  · rw [checks, if_neg (by simp [set]), if_neg w, if_neg p, if_pos n]
  · rw [checks, if_neg (by simp [set]), if_neg w, if_neg p, if_neg n, if_pos e]
  · rw [checks, if_neg (by simp [set]), if_neg w, if_neg p, if_neg n, if_neg e, if_pos b]
  intro issues
  have pass : s.issueRefusal r room = none := by
    rw [checks, if_neg (by simp [set]), if_neg w, if_neg p, if_neg n, if_neg e, if_neg b]
  have issued (k : Nat) (slot : s.slot? = some k) (others : ∀ j, j ≠ k → s.takeSlot.cred? j = s.cred? j) :
      issues k (s.issue r room k).1 := by
    have serves := serveIssueCard_issues good ok pass slot
    have notices : Evolves Rights.desk s (serveIssueCard x.bytes s).1 := .serveIssueCard _
    rw [serves] at notices
    let c := r.record room k s.now s.settings.encodingLapse s.settings.currentKey
    refine ⟨c, ?_, rfl, rfl, rfl, rfl, rfl, rfl, rfl, rfl, rfl, IssueReq.record_code r room k _ _ _, rfl, rfl, rfl, fun m hm => ?_,
      fun nowhere => ?_, ?_, fun j ne => ?_, ?_, notices.notices⟩
    · exact (State.cred?_congr (State.append_store _ _) k).trans (findKey_putKey Cred.number c s.takeSlot.store.recs)
    · change (r.mode = _ → r.guestPart room = _) ∧ (r.mode = _ → r.guestPart room = _)
      rw [hm]
      exact r.guestPart_some
    · change r.guestPart room = none
      rw [nowhere]
      rfl
    · have content : le16 k ++ c.image = fields ([(2, k)] ++ cardFields c ++ [(4, c.code)]) := by
        rw [c.image_eq]
        simp
      refine (exec_takes rfl takes (by simp) serves rfl).trans ?_
      rw [← content]
      rfl
    · have stands : (s.takeSlot.putCred c).cred? j = s.takeSlot.cred? j := findKey_putKey_ne Cred.number c ne s.takeSlot.store.recs
      exact (State.cred?_congr (State.append_store _ _) j).trans (stands.trans (others j ne))
    · have journal : (s.issue r room k).1.journal = (s.takeSlot.putCred c).journal.push (s.takeSlot.putCred c).now (issuedEntry c) :=
        State.append_journal _ _
      rw [journal]
      simp only [State.now, State.putCred_time, State.putCred_journal, State.takeSlot_time, State.takeSlot_journal]
      rfl
  refine ⟨fun k ks free => ?_, fun k ks free retired => ?_, fun free retired => ?_⟩
  · have taken := State.takeSlot_free free
    have slot : s.slot? = some k := by simp [State.slot?, free]
    refine ⟨_, issued k slot fun j _ => by rw [taken]; rfl, ?_, ?_, ?_⟩
    · simp [State.issue, State.putCred, taken]
    · simp [State.issue, State.putCred, taken]
    · unfold State.issue
      exact State.eq_of_fields (nodes := by simp [taken]) (revoc := by simp [taken])
  · have taken := State.takeSlot_reclaimed free retired
    have slot : s.slot? = some k := by simp [State.slot?, free, retired]
    have revoc : (s.issue r room k).1.revoc = (s.reportReuse k).revoc := by simp [State.issue, taken]
    have nodes : (s.issue r room k).1.nodes = (s.reportReuse k).nodes := by simp [State.issue, taken]
    refine ⟨_, issued k slot fun j ne => ?_, ?_, ?_, ?_, fun e he => ?_, fun absent => ?_, ?_, ?_, ?_⟩
    · rw [taken]
      exact findKey_dropKey_ne Cred.number ne _
    · simp [State.issue, State.putCred, taken]
    · simp [State.issue, State.putCred, taken]
    · rw [revoc]
      exact s.reportReuse_forgets k
    · rw [revoc]
      exact State.reportReuse_found he
    · rw [revoc, nodes]
      exact State.reportReuse_absent absent
    · rw [revoc]
      exact s.reportReuse_rooms k
    · exact ((s.reportReuse_cacheOnly k).trans (.of_eq nodes)).touched
    · unfold State.issue
      exact State.eq_of_fields
  · exact refuses (serveIssueCard_full good ok pass (by simp [State.slot?, free, retired]))

end Sys2Proof.Machine

/-! PROOF of O52. REVOKE_CARD and REVOKE_SERIAL, with the rekey of a room where the list is full (05:R95 to R97). -/

namespace Sys2Proof.Machine

open Sys2Proof

section Rooms
variable {s t u : State} {k : Nat} {c : Cred}

/-! ### What the room acts touch of the node table -/

theorem State.revoke_cacheOnly (s : State) (k : Nat) (r : RevReason) : s.CacheOnly (s.revoke k r) := by
  have quiet (c : Cred) (e : Entry) : s.CacheOnly ((s.retireSlot k s.now (.revoked s.now r)).append e) := .of_eq (by simp)
  unfold State.revoke
  split
  · exact .refl s
  · split
    · dsimp only
      split
      · split
        · exact quiet ‹_› _
        · split
          · exact (quiet ‹_› _).trans (State.reformEntry_cacheOnly _ _ _ _)
          · exact quiet ‹_› _
      · exact quiet ‹_› _
    · exact .refl s

theorem State.revokeAll_cacheOnly (ks : List Nat) (r : RevReason) (s : State) : s.CacheOnly (s.revokeAll ks r) :=
  Nodewise.foldl Node.CacheOnly.refl Node.CacheOnly.trans (fun t k => t.revoke_cacheOnly k r) ks s

theorem State.setFloor_cacheOnly (s : State) (p v : Nat) (r : RevReason) : s.CacheOnly (s.setFloor p v r) := by
  unfold State.setFloor
  split
  · exact .refl s
  · split
    · exact .refl s
    · exact (State.emit_reloadOnly (s.modRoom p (Room.pushFloor v s.now)) (.floor p v)).cacheOnly.trans (State.revokeAll_cacheOnly _ r _)

theorem State.cancelPending_cacheOnly (s : State) (p : Nat) (cause : LapseCause) : s.CacheOnly (s.cancelPending p cause) :=
  .of_eq (by simp)

theorem State.rekey_cacheOnly (s : State) (p : Nat) : s.CacheOnly (s.rekey p) := by
  unfold State.rekey
  dsimp only
  split
  · exact s.cancelPending_cacheOnly p _
  · rename_i room _
    exact ((s.cancelPending_cacheOnly p .rekeyRoom).trans (State.setFloor_cacheOnly
      ((s.cancelPending p .rekeyRoom).modRoom p (fun r => { r with stay := room.stay + 1 })) p _ _)).trans (.of_eq (State.append_nodes _ _))

theorem State.CacheOnly.enrolled (h : s.CacheOnly u) : u.enrolled = s.enrolled := by
  have same : List.Forall₂ (fun n m : Node => (⟨n.addr, n.enrol⟩ : EnrolReq) = ⟨m.addr, m.enrol⟩) s.nodes u.nodes :=
    List.Forall₂.imp (fun n m cache => by rw [cache.rest]) h
  simpa [State.enrolled, List.forall₂_map_left_iff, List.forall₂_map_right_iff] using
    (List.forall₂_eq_eq_eq ▸ List.forall₂_map_left_iff.mpr (List.forall₂_map_right_iff.mpr same) :
      s.nodes.map (fun n => (⟨n.addr, n.enrol⟩ : EnrolReq)) = u.nodes.map (fun n => ⟨n.addr, n.enrol⟩)).symm

theorem State.roomOf?_congr (enrolled : t.enrolled = s.enrolled) (rooms : t.revoc.rooms = s.revoc.rooms) (p : Nat) :
    t.roomOf? p = s.roomOf? p := by
  have same : (t.roomNode? p).isSome = (s.roomNode? p).isSome := by
    simpa using congrArg Option.isSome (State.roomNode_congr enrolled p)
  simp only [State.roomOf?, same, State.room?_rooms rooms]

/-! ### The rekey count -/

theorem State.pushEntry_rekeys (s : State) (x : Nat) (c : Option Nat) (r : ListReason) (t : Nat) :
    (s.pushEntry x c r t).revoc.rekeys = s.revoc.rekeys := (s.pushEntry_added x c r t).kept.2

theorem State.revokeAll_rekeys (ks : List Nat) (r : RevReason) (s : State) : (s.revokeAll ks r).revoc.rekeys = s.revoc.rekeys :=
  State.foldl_frame (·.revoc.rekeys) _ (fun t k => State.revoke_frame (·.revoc.rekeys) t k r (fun _ => by simp)
    (fun t e c x => State.pushEntry_rekeys _ _ _ _ _)) _ s

theorem State.setFloor_rekeys (s : State) (p v : Nat) (r : RevReason) : (s.setFloor p v r).revoc.rekeys = s.revoc.rekeys := by
  unfold State.setFloor
  split
  · rfl
  · split
    · rfl
    · exact (State.revokeAll_rekeys _ r _).trans (State.emit_kept _ _).2

theorem State.rekey_rekeys (s : State) (p : Nat) : (s.rekey p).revoc.rekeys = s.revoc.rekeys := by
  unfold State.rekey
  dsimp only
  split
  · simp
  · rw [State.append_revoc, State.setFloor_rekeys]
    simp [State.modRoom]

/-! ### One card revoked -/

/-- A card revoked: REVOKED and in the retired order, with its record. -/
structure CardRevoked (c : Cred) (r : RevReason) (s u : State) : Prop where
  card : u.cred? c.number = some { c with st := .revoked s.now r }
  others : ∀ j, j ≠ c.number → u.cred? j = s.cred? j
  retired : c.number ∈ u.store.retired
  free : u.store.free = s.store.free
  rooms : u.revoc.rooms = s.revoc.rooms
  journal : u.journal = s.journal.push s.now
    { kind := .cardRevoked, cred := some c.number, serial := some c.serial, detail1 := some (.revReason r) }

theorem State.revoke_revoked (hc : s.cred? k = some c) (current : c.st.current = true) (r : RevReason) :
    CardRevoked c r s (s.revoke k r) := by
  obtain rfl := State.cred?_is hc
  refine ⟨?_, fun j ne => ?_, ?_, State.revoke_free s _ r, State.revoke_rooms s _ r, ?_⟩
  · rw [State.revoke_cred?, hc]
    simp [current]
  · rw [State.revoke_cred?]
    simp [ne]
  · rw [State.revoke_store, hc]
    simp [current, State.retireSlot, (insertRetired_perm _ _ _ _).mem_iff]
  · rw [State.revoke_journal, hc]
    simp [current, Option.filter, State.revokedRecords]

theorem CardRevoked.to {r : RevReason} (h : CardRevoked c r s t) (store : u.store = t.store) (rooms : u.revoc.rooms = t.revoc.rooms)
    (journal : u.journal = t.journal) : CardRevoked c r s u :=
  ⟨by rw [State.cred?_congr store, h.card], fun j ne => by rw [State.cred?_congr store, h.others j ne], by rw [store]; exact h.retired,
    by rw [store, h.free], by rw [rooms, h.rooms], by rw [journal, h.journal]⟩

theorem CardRevoked.of {r : RevReason} (h : CardRevoked c r t u) (time : t.time = s.time) (store : t.store = s.store)
    (rooms : t.revoc.rooms = s.revoc.rooms) (journal : t.journal = s.journal) : CardRevoked c r s u := by
  have now := State.now_eq time
  exact ⟨now ▸ h.card, fun j ne => (h.others j ne).trans (State.cred?_congr store j), h.retired, h.free.trans (by rw [store]),
    h.rooms.trans rooms, by rw [h.journal, now, journal]⟩

/-- The entry of a SUSPENDED card takes the REVOKED form (05:R95). -/
theorem State.revoke_suspended (hc : s.cred? k = some c) {w : Bool} {at_ : Nat} (suspended : c.st = .suspended w at_) {e : ListEntry}
    (he : s.entry? c.serial = some e) {r : RevReason} (other : r ≠ .recycled) :
    let u := s.revoke k r
    u.entry? c.serial = some { e with reason := .revoked, gen := u.revoc.gen } ∧ u.revoc.gen = (s.revoc.gen + 1) % 4294967296 := by
  obtain rfl := State.cred?_is hc
  obtain serial := State.entry?_serial he
  let v := (s.retireSlot c.number s.now (.revoked s.now r)).append
    { kind := .cardRevoked, cred := some c.number, serial := some c.serial, detail1 := some (.revReason r) }
  have revoc : v.revoc = s.revoc := by simp [v]
  have listed : v.entry? c.serial = some e := by rw [State.entry?, revoc]; exact he
  have acts : s.revoke c.number r = v.reformEntry e e.cred .revoked := by
    simp only [State.revoke, hc, suspended, CredState.current, if_true, if_neg other]
    rw [show State.entry? _ _ = some e from listed]
  obtain ⟨gen, entries, -, -⟩ := (v.setEntries (dropKey ListEntry.serial e.serial v.revoc.entries)).pushEntry_added
    e.serial e.cred .revoked e.retireAt
  have before : (v.setEntries (dropKey ListEntry.serial e.serial v.revoc.entries)).revoc.gen = s.revoc.gen :=
    (congrArg Revoc.gen revoc : v.revoc.gen = s.revoc.gen)
  rw [acts]
  refine ⟨?_, gen.trans (by rw [before])⟩
  have absent : (dropKey ListEntry.serial e.serial v.revoc.entries).find? (fun x => x.serial == c.serial) = none := by
    rw [← serial]
    exact findKey_dropKey ListEntry.serial _ _
  unfold State.entry?
  rw [show (v.reformEntry e e.cred .revoked).revoc.entries = _ from entries]
  refine List.find?_append.trans ?_
  rw [show (v.setEntries (dropKey ListEntry.serial e.serial v.revoc.entries)).revoc.entries.find? (fun x => x.serial == c.serial) = none
    from absent]
  simp [serial, State.reformEntry]

theorem CardRevoked.revoked_rest {r : RevReason} (s : State) (k : Nat) :
    let u := s.revoke k r
    u = { s with store := u.store, revoc := u.revoc, nodes := u.nodes, journal := u.journal, port := u.port } := State.eq_of_fields

theorem State.listed_rest (c : Cred) (s : State) :
    let u := (s.askRoom.revoke c.number .revokedByDesk).pushEntry c.serial (some c.number) .revoked c.validEnd
    u = { s with store := u.store, revoc := u.revoc, nodes := u.nodes, journal := u.journal, port := u.port } := State.eq_of_fields

theorem State.foreign_rest (x until_ : Nat) (s : State) :
    let u := s.askRoom.pushEntry x none .foreign until_
    u = { s with store := u.store, revoc := u.revoc, nodes := u.nodes, journal := u.journal, port := u.port } := State.eq_of_fields

theorem State.rekeyed_rest (p : Nat) (s : State) :
    let u := (s.askRoom.rekey p).countRekey
    u = { s with store := u.store, revoc := u.revoc, nodes := u.nodes, journal := u.journal, port := u.port } := by
  unfold State.countRekey
  exact State.eq_of_fields

/-! ### REVOKE_CARD by its cases (05:R96) -/

theorem serveRevoke_suspended {w : Bool} {at_ : Nat} (suspended : c.st = .suspended w at_) (s : State) :
    serveRevoke c s = (s.revoke c.number .revokedByDesk, .plain .ok) := by simp [serveRevoke, suspended]

theorem serveRevoke_current (current : c.st = .issued ∨ c.st = .active) (s : State) : serveRevoke c s = s.revokeCurrent c := by
  obtain h | h := current <;> simp [serveRevoke, h]

theorem serveRevoke_other (live : ∀ w at_, c.st ≠ .suspended w at_) (current : ¬ (c.st = .issued ∨ c.st = .active)) (s : State) :
    serveRevoke c s = (s, .plain .wrongState) := by
  obtain ⟨issued, active⟩ := not_or.mp current
  unfold serveRevoke
  split
  · exact absurd ‹_› (live _ _)
  · exact absurd ‹_› issued
  · exact absurd ‹_› active
  · rfl

theorem State.revokeCurrent_past (past : c.validEnd ≤ s.now) : s.revokeCurrent c = (s.revoke c.number .revokedByDesk, .plain .ok) :=
  if_pos past

theorem State.revokeCurrent_room (valid : s.now < c.validEnd) (room : s.askRoom.revoc.entries.length < 256) : s.revokeCurrent c =
    ((s.askRoom.revoke c.number .revokedByDesk).pushEntry c.serial (some c.number) .revoked c.validEnd, .plain .ok) := by
  simp [State.revokeCurrent, Nat.not_le.mpr valid, State.listHasRoom, room]

theorem State.revokeCurrent_full (valid : s.now < c.validEnd) (full : 256 ≤ s.askRoom.revoc.entries.length) :
    s.revokeCurrent c = s.askRoom.revokeByRekey c := by
  simp [State.revokeCurrent, Nat.not_le.mpr valid, State.listHasRoom, Nat.not_lt.mpr full]

theorem State.revokeByRekey_other (other : c.kind ≠ .guest) (t : State) : t.revokeByRekey c = (t, .plain .listFull) := by
  unfold State.revokeByRekey
  split
  · exact absurd ‹_› other
  · rfl

theorem State.revokeByRekey_guest {g : GuestPart} (kind : c.kind = .guest) (guest : c.guest = some g) (t : State) : t.revokeByRekey c =
    match t.roomOf? g.entry with
    | none => refuse .listFull t
    | some room =>
      if room.stay = 65535 then refuse .sequenceExhausted t else ((t.rekey g.entry).countRekey, .plain .rekeyed) := by
  simp only [State.revokeByRekey, kind, guest] <;> rfl

/-! ### The room asked for, as the acts see it -/

theorem State.askRoom_enrolled (s : State) : s.askRoom.enrolled = s.enrolled := s.askRoom_reloadOnly.cacheOnly.enrolled

theorem State.askRoom_roomOf? (s : State) (p : Nat) : s.askRoom.roomOf? p = s.roomOf? p :=
  State.roomOf?_congr s.askRoom_enrolled s.askRoom_kept.1 p

theorem GuestsEnded.of_source {p : Nat} {test : Nat → Bool} {r : RevReason} (h : GuestsEnded p test r t u) (store : t.store = s.store)
    (time : t.time = s.time) : GuestsEnded p test r s u := by
  have now := State.now_eq time
  obtain ⟨creds, free⟩ := h
  simp only [State.cred?, State.encodingOf, State.guestsOf, store, now] at creds free
  exact ⟨creds, free⟩

/-! ### REVOKE_SERIAL (05:R97) -/

theorem State.extendEntry_entry? (s : State) (x y until_ : Nat) : (s.extendEntry x until_).entry? y =
    (s.entry? y).map (fun e => if y = x then { e with retireAt := max e.retireAt until_ } else e) := by
  have serial (e : ListEntry) : (if e.serial = x then { e with retireAt := max e.retireAt until_ } else e).serial = e.serial := by
    split <;> rfl
  unfold State.entry? State.extendEntry State.setEntries
  simp only [List.find?_map, Function.comp_def, serial]
  cases found : s.revoc.entries.find? (fun e => e.serial == y) with
  | none => rfl
  | some e => rw [Option.map_some, Option.map_some, show e.serial = y from State.entry?_serial found]

theorem serveRevokeSerial_held {x : Nat} (bound : x < 4294967296) (held : s.holder? x = some c) :
    serveRevokeSerial (le32 x) s = serveRevoke c s := by
  simp [serveRevokeSerial, u32At_le32 bound, held]

theorem serveRevokeSerial_listed {x : Nat} (bound : x < 4294967296) (unheld : s.holder? x = none) {e : ListEntry}
    (listed : s.entry? x = some e) : serveRevokeSerial (le32 x) s = (s.extendEntry x (s.now + 34560000), .plain .ok) := by
  simp [serveRevokeSerial, u32At_le32 bound, unheld, listed, fourHundredDays]

theorem serveRevokeSerial_unlisted {x : Nat} (bound : x < 4294967296) (unheld : s.holder? x = none) (unlisted : s.entry? x = none) :
    serveRevokeSerial (le32 x) s = if s.askRoom.revoc.entries.length < 256
      then (s.askRoom.pushEntry x none .foreign (s.now + 34560000), .plain .ok) else (s.askRoom, .plain .listFull) := by
  simp [serveRevokeSerial, u32At_le32 bound, unheld, unlisted, State.listHasRoom, fourHundredDays, refuse]

end Rooms

/-- Settles O52: each case is one act of the store, or the rekey of the room, on the list that has been asked for room. -/
theorem revokeCardFollowsItsCases : Obligations.RevokeCardFollowsItsCases := by
  intro tag s takes law t rest
  have notices (c : Cred) : Evolves Rights.desk s (serveRevoke c s).1 := .serveRevoke c trivial
  have asked : s.CacheOnly t := s.askRoom_reloadOnly.cacheOnly
  refine ⟨s.askRoom_asked, fun k st refusal => ?_, ?_, ?_⟩
  · obtain ⟨high, bound, rfl⟩ | ⟨low, vacant, rfl⟩ := refusal
    · exact State.takes_row takes rfl (State.onCred_high high bound) rfl
    · exact State.takes_row takes rfl (State.onCred_vacant low vacant) rfl
  · intro k c low hc revEntry gives revoked current
    obtain rfl := State.cred?_is hc
    have answers {u : State} {st : Status} (serves : serveRevoke c s = (u, .plain st)) : gives u st :=
      State.takes_row takes rfl ((State.onCred_held low hc).trans serves) rfl
    have whole {u : State} (serves : serveRevoke c s = (u, .plain .ok)) (h : CardRevoked c .revokedByDesk s u) (caches : s.CacheOnly u)
        (frame : u = { s with store := u.store, revoc := u.revoc, nodes := u.nodes, journal := u.journal, port := u.port }) : revoked u := by
      have notices := (notices c).notices
      rw [serves] at notices
      exact ⟨answers serves, h.card, h.others, h.retired, h.free, h.rooms, h.journal, notices, caches.touched, frame⟩
    refine ⟨fun w at_ suspended => ?_, fun use past => ?_, fun use valid room => ?_, fun use valid full => ⟨fun other => ?_, fun g guest part absent => ?_, fun g room guest part found => ?_⟩,
      fun live other => answers (serveRevoke_other live other s), fun held bound => ⟨?_, ?_⟩⟩
    · refine ⟨_, whole (serveRevoke_suspended suspended s) (State.revoke_revoked hc (by simp [suspended, CredState.current]) _)
        (s.revoke_cacheOnly _ _) (CardRevoked.revoked_rest s _), fun e he => State.revoke_suspended hc suspended he (by decide)⟩
    · have serves := (serveRevoke_current use s).trans (State.revokeCurrent_past past)
      refine ⟨_, whole serves (State.revoke_revoked hc (CredState.current_of_usable use) _)
        (s.revoke_cacheOnly _ _) (CardRevoked.revoked_rest s _), State.revoke_revoc s _ _ (.inr fun d hd w at_ suspended => ?_)⟩
      cases hc.symm.trans hd
      obtain h | h := use <;> cases h.symm.trans suspended
    · have serves := (serveRevoke_current use s).trans (State.revokeCurrent_room valid room)
      have hct : t.cred? c.number = some c := (State.cred?_congr s.askRoom_store _).trans hc
      have base := (State.revoke_revoked hct (CredState.current_of_usable use) .revokedByDesk).of s.askRoom_time s.askRoom_store
        s.askRoom_kept.1 s.askRoom_journal
      have list : (t.revoke c.number .revokedByDesk).revoc = t.revoc := State.revoke_revoc t _ _ (.inr fun d hd w at_ suspended => by
        cases hct.symm.trans hd
        obtain h | h := use <;> cases h.symm.trans suspended)
      obtain ⟨gen, entries, -, -⟩ := (t.revoke c.number .revokedByDesk).pushEntry_added c.serial (some c.number) .revoked c.validEnd
      rw [list] at gen entries
      refine ⟨_, whole serves (base.to (State.pushEntry_store _ _ _ _ _) (State.pushEntry_rooms _ _ _ _ _) (State.pushEntry_journal _ _ _ _ _))
        ((asked.trans (t.revoke_cacheOnly _ _)).trans (State.pushEntry_cacheOnly _ _ _ _ _)) (s.listed_rest c), entries, gen⟩
    · exact answers ((serveRevoke_current use s).trans ((State.revokeCurrent_full valid full).trans (State.revokeByRekey_other other _)))
    · refine answers ((serveRevoke_current use s).trans ((State.revokeCurrent_full valid full).trans ((State.revokeByRekey_guest guest part _).trans ?_)))
      rw [s.askRoom_roomOf?, absent]
      rfl
    · have byRekey := (serveRevoke_current use s).trans ((State.revokeCurrent_full valid full).trans (State.revokeByRekey_guest guest part _))
      rw [s.askRoom_roomOf?, found] at byRekey
      refine ⟨fun exhausted => answers (byRekey.trans (if_pos exhausted)), fun short => ?_⟩
      have serves := byRekey.trans (if_neg (show room.stay ≠ 65535 by omega))
      have notices := (notices c).notices
      rw [serves] at notices
      have roomT : t.room? g.entry = some room := (State.room?_rooms s.askRoom_kept.1 _).trans (State.roomOf?_room found).1
      have ascT : t.store.recs.Pairwise (fun c d => c.number < d.number) := by rw [s.askRoom_store]; exact law.ascending
      obtain ⟨guests, moved, others, told, stood, journal⟩ := State.rekey_spec ascT roomT
      have time : t.time = s.time := s.askRoom_time
      have ended := guests.of_source s.askRoom_store time
      have cardsT : t.guestsOf g.entry (fun stay => decide (room.floor ≠ room.stay + 1 ∧ stay < room.stay + 1))
          = s.guestsOf g.entry (fun stay => decide (room.floor ≠ room.stay + 1 ∧ stay < room.stay + 1)) := by
        simp only [State.guestsOf, t, s.askRoom_store]
      refine ⟨_, answers serves, ended.of_store rfl, fun low high => ?_, ?_, fun q ne => ?_, fun ne => ?_, fun same => stood same, ?_, ?_, ?_,
        notices, (asked.trans (t.rekey_cacheOnly g.entry)).touched, s.rekeyed_rest g.entry⟩
      · refine (ended.creds c.number).trans ?_
        have idle : c ∉ s.encodingOf g.entry := fun h => by
          have encoding := (Bool.and_eq_true_iff.mp (List.mem_filter.mp (List.mem_of_mem_take h)).2).2
          obtain h | h := use <;> rw [h] at encoding <;> cases encoding
        have among : c ∈ s.guestsOf g.entry (fun stay => decide (room.floor ≠ room.stay + 1 ∧ stay < room.stay + 1)) := by
          refine List.mem_filter.mpr ⟨(findKey_some Cred.number hc).2, ?_⟩
          have names : c.guestOf g.entry = true := by simp [Cred.guestOf, guest, part]
          simp [names, CredState.current_of_usable use, part]
          omega
        rw [hc, Option.bind_some, if_neg idle, if_pos among]
      · exact moved.trans (by rw [State.now_eq time])
      · exact (others q ne).trans (State.room?_rooms s.askRoom_kept.1 q)
      · exact cardsT ▸ told ne
      · refine journal.trans ?_
        rw [cardsT]
        simp only [t, s.askRoom_journal, State.lapsedRecords, State.revokedRecords, State.encodingOf, s.askRoom_store, State.now, s.askRoom_time]
      · exact congrArg (fun n => min 65535 (n + 1)) ((t.rekey_rekeys g.entry).trans s.askRoom_kept.2)
      · exact (t.rekey_minibar g.entry).trans s.askRoom_minibar
    · exact exec_takes rfl takes rfl (serveRevokeSerial_held bound held) rfl
    · exact State.takes_row takes rfl (State.onCred_held low hc) rfl
  · intro x bound unheld
    have notices : Port.noticesOnly s.port (serveRevokeSerial (le32 x) s).1.port :=
      Evolves.notices (.serveRevokeSerial (le32 x) trivial)
    refine ⟨fun e listed => ?_, fun unlisted room => ?_, fun unlisted full => ?_⟩
    · refine ⟨_, exec_takes rfl takes rfl (serveRevokeSerial_listed bound unheld listed) rfl, ?_, fun y ne => ?_, rfl⟩
      · rw [State.extendEntry_entry?, listed]
        simp
      · rw [State.extendEntry_entry?]
        simp [ne]
    · have serves := (serveRevokeSerial_unlisted bound unheld unlisted).trans (if_pos room)
      rw [serves] at notices
      obtain ⟨gen, entries, -, -⟩ := t.pushEntry_added x none .foreign (s.now + 34560000)
      refine ⟨_, exec_takes rfl takes rfl serves rfl, entries, gen,
        (State.pushEntry_store _ _ _ _ _).trans s.askRoom_store, (State.pushEntry_journal _ _ _ _ _).trans s.askRoom_journal, notices, (asked.trans (t.pushEntry_cacheOnly _ _ _ _)).touched,
        s.foreign_rest x _⟩
    · exact exec_takes rfl takes rfl ((serveRevokeSerial_unlisted bound unheld unlisted).trans (if_neg (Nat.not_lt.mpr full))) rfl

end Sys2Proof.Machine

/-! PROOF of O54. REKEY_ROOM, CHECKOUT and RESEQUENCE (05:R90 to R92, 08:R162). -/

namespace Sys2Proof.Machine

open Sys2Proof

section Rooms
variable {s t u : State} {p : Nat} {room : Room}

/-! ### Commands that name a room -/

theorem State.onRoom_high {f : Room → State → State × Reply} (high : 4095 < p) (bound : p < 65536) :
    s.onRoom (le16 p) f = (s, .plain .badField) := by
  rw [State.onRoom, u16At_le16_zero bound, if_pos high]
  rfl

theorem State.onRoom_absent {f : Room → State → State × Reply} (low : p ≤ 4095) (absent : s.roomOf? p = none) :
    s.onRoom (le16 p) f = (s, .plain .notFound) := by
  simp only [State.onRoom, u16At_le16_zero (show p < 65536 by omega), if_neg (Nat.not_lt.mpr low), absent]
  rfl

theorem State.onRoom_found {f : Room → State → State × Reply} (low : p ≤ 4095) (found : s.roomOf? p = some room) :
    s.onRoom (le16 p) f = f room s := by
  simp only [State.onRoom, u16At_le16_zero (show p < 65536 by omega), if_neg (Nat.not_lt.mpr low), found]

theorem State.takes_room {i : Instr} {kind tag : Byte} {serve : Room → State → State × Reply} {r : Reply}
    (takes : s.takes) (row : exec i s = .next (s.command kind tag 2 (· == 2) (State.onRoom (le16 p) serve) []))
    (gives : s.onRoom (le16 p) serve = (u, r)) (other : (kind == 0x06) = false) : exec i s = .next (u.answer kind tag false r) :=
  exec_takes row takes rfl gives other

theorem State.stayAndFloor_of {m : Room} (h : s.room? p = some m) : s.stayAndFloor p = le16 m.stay ++ le16 m.floor := by
  simp [State.stayAndFloor, h]

/-! ### Guests that a room command leaves -/

/-- A current card left is one that was there and did not pass the test. -/
theorem GuestsEnded.left {test : Nat → Bool} {r : RevReason} (h : GuestsEnded p test r s u) (slots : u.store.Law) {c : Cred}
    (hc : c ∈ u.store.recs) (guest : c.guestOf p = true) (current : c.st.current = true) {g : GuestPart} (part : c.guest = some g) :
    test g.stay = false := by
  have creds := h.creds c.number
  rw [slots.cred?.mp hc] at creds
  obtain ⟨d, hd, here⟩ := Option.bind_eq_some_iff.mp creds.symm
  have left : d ∉ s.guestsOf p test ∧ d = c := by
    split at here
    · cases here
    · split at here
      · rw [← Option.some.inj here] at current
        cases current
      · exact ⟨‹_›, Option.some.inj here⟩
  obtain ⟨stays, rfl⟩ := left
  refine Bool.eq_false_iff.mpr fun passes => stays (List.mem_filter.mpr ⟨(findKey_some Cred.number hd).2, ?_⟩)
  simp [guest, current, part, passes]

theorem GuestsEnded.none_left {r : RevReason} (h : GuestsEnded p (fun _ => true) r s u) (slots : u.store.Law) {c : Cred}
    (hc : c ∈ u.store.recs) (guest : c.guestOf p = true) : c.st.current = false := by
  refine Bool.eq_false_iff.mpr fun current => ?_
  cases part : c.guest with
  | none => simp [Cred.guestOf, part] at guest
  | some g => exact absurd (h.left slots hc guest current part) (by simp)

/-! ### Rooms reset -/

theorem State.markRoomNodes_reloadOnly (s : State) (p : Nat) : s.ReloadOnly (s.markRoomNodes p) := by
  refine Nodewise.of_map rfl fun n => ?_
  split
  · exact .marked n
  · exact .refl n

theorem State.resetRoom_cacheOnly (s : State) (p : Nat) : s.CacheOnly (s.resetRoom p) := by
  unfold State.resetRoom
  exact (State.CacheOnly.of_eq (State.modRoom_nodes s p _)).trans
    (((State.revokeAll_cacheOnly _ .superseded _).trans (State.emit_reloadOnly _ (.floor p 1)).cacheOnly).trans
      (State.markRoomNodes_reloadOnly _ p).cacheOnly)

theorem State.modRoom_id (s : State) (p : Nat) : s.modRoom p id = s := by simp [State.modRoom, modKey]

/-! ### Sessions that a checkout ends -/

/-- A GUEST session of folio `p`. -/
def Node.guestOf (p : Nat) (n : Node) : Bool := n.session.any (fun x => x.mode == .guest && x.folio == some p)

theorem State.checkoutFolio_nodes (t : State) (p : Nat) : (t.checkoutFolio p).nodes =
    t.nodes.map (fun n => if (t.folio? p).any (·.isOpen) && n.guestOf p then n.endSession else n) := by
  unfold State.checkoutFolio
  split
  · rename_i f hf
    split
    · rename_i isOpen
      simp [hf, isOpen, State.endSessionsOf, Node.guestOf]
    · rename_i closed
      simp [hf, closed]
  · rename_i absent
    simp [absent]

theorem State.CacheOnly.ends {ended : Node → Bool} (h : s.CacheOnly t) (same : ∀ n m, m.session = n.session → ended m = ended n)
    (nodes : u.nodes = t.nodes.map (fun n => if ended n then n.endSession else n)) : CachesTouched ended s u := by
  unfold CachesTouched
  rw [nodes, List.forall₂_map_right_iff]
  refine List.Forall₂.imp (fun n m cache => ?_) h
  obtain ⟨reload, mode, rest⟩ := cache
  have session : m.session = n.session := by rw [rest]
  rw [same n m session]
  cases ended n with
  | true => exact ⟨reload, mode, by rw [rest]; rfl⟩
  | false =>
    refine ⟨reload, mode, ?_⟩
    conv_lhs => rw [if_neg (by simp), rest]
    simp

/-! ### The commands -/

theorem Room.hasStay_iff (room : Room) : room.hasStay = true ↔ room.floor = room.stay := by simp [Room.hasStay]

theorem serveRekey_noStay (gone : room.floor ≠ room.stay) (s : State) : serveRekey room s = (s, .plain .noStay) := by
  simp [serveRekey, Room.hasStay_iff, gone, refuse]

theorem serveRekey_exhausted (stay : room.floor = room.stay) (last : room.stay = 65535) (s : State) :
    serveRekey room s = (s, .plain .sequenceExhausted) := by
  simp [serveRekey, Room.hasStay, stay, last, refuse]

theorem serveRekey_rekeys (stay : room.floor = room.stay) (short : room.stay < 65535) (s : State) :
    serveRekey room s = (s.rekey room.point, ⟨.ok, (s.rekey room.point).stayAndFloor room.point⟩) := by
  simp [serveRekey, Room.hasStay, stay, show room.stay ≠ 65535 by omega]

theorem serveCheckout_noStay (gone : room.floor ≠ room.stay) (s : State) : serveCheckout room s = (s, .plain .noStay) := by
  simp [serveCheckout, Room.hasStay_iff, gone, refuse]

theorem serveCheckout_checks (stay : room.floor = room.stay) (s : State) : serveCheckout room s = (s.checkout room,
    ⟨.ok, le32 ((s.checkout room).balanceOf room.point) ++ (s.checkout room).stayAndFloor room.point⟩) := by
  simp [serveCheckout, Room.hasStay, stay]

/-- What steps 1 and 2 of CHECKOUT leave, from a room with a current stay. -/
structure StayEnded (room m : Room) (test : Nat → Bool) (s u : State) : Prop where
  here : u.room? room.point = some m
  others : ∀ q, q ≠ room.point → u.room? q = s.room? q
  guests : GuestsEnded room.point test .superseded s u
  told : FloorTold room.point m.floor (s.guestsOf room.point test) s u
  journal : u.journal = s.journal.pushAll (s.lapsedRecords (s.encodingOf room.point) .checkout
    ++ s.revokedRecords (s.guestsOf room.point test) .superseded)
  minibar : u.minibar = s.minibar
  now : u.now = s.now
  enrolled : u.enrolled = s.enrolled
  caches : s.CacheOnly u

/-- The room after CHECKOUT, and the test of the guest cards that it ends. -/
def Room.checkedOut (room : Room) (now : Nat) : Room :=
  if room.stay < 65535 then
    { room with
      floor := room.stay + 1
      history := (⟨room.stay + 1, now⟩ :: room.history).take 4
      fromCreation := room.fromCreation && decide (room.history.length < 4) }
  else ⟨room.point, 0, 1, [⟨1, now⟩], false⟩

def Room.ends (room : Room) : Nat → Bool := if room.stay < 65535 then fun stay => decide (stay < room.stay + 1) else fun _ => true

theorem State.endStay_ended (slots : s.store.Law) (held : s.room? room.point = some room) (stay : room.floor = room.stay) :
    StayEnded room (room.checkedOut s.now) room.ends s (s.endStay room) := by
  unfold State.endStay Room.checkedOut Room.ends
  dsimp only
  split
  · obtain ⟨here, others, guests, told, journal, minibar, now, enrolled⟩ :=
      State.floor_moved slots.ascending held (show room.floor ≠ room.stay + 1 by omega) .checkout .superseded id (fun _ => ⟨rfl, rfl⟩)
    rw [State.modRoom_id] at here others guests told journal minibar now enrolled
    exact ⟨here, others, guests, told, journal, minibar, now, enrolled,
      (s.cancelPending_cacheOnly _ .checkout).trans (State.setFloor_cacheOnly _ _ _ _)⟩
  · obtain ⟨here, others, guests, told, journal, -, minibar, now, enrolled⟩ := State.room_reset slots.ascending held .checkout
    exact ⟨here, others, guests, told, journal, minibar, now, enrolled,
      (s.cancelPending_cacheOnly _ .checkout).trans (State.resetRoom_cacheOnly _ _)⟩

theorem State.endStay_marks (slots : s.store.Law) (held : s.room? room.point = some room) (last : room.stay = 65535) :
    ∀ n ∈ (s.endStay room).nodes, n.enrol.entry = some room.point → n.reload = .marked := by
  obtain ⟨-, -, -, -, -, marks, -⟩ := State.room_reset slots.ascending held .checkout
  simpa [State.endStay, last] using marks

theorem State.checkout_balance (s : State) (room : Room) :
    (s.checkout room).balanceOf room.point = ((s.endStay room).checkoutFolio room.point).balanceOf room.point := by
  simp [State.checkout, State.balanceOf]

theorem State.checkout_rest (s : State) (room : Room) :
    let u := s.checkout room
    u = { s with store := u.store, revoc := u.revoc, nodes := u.nodes, minibar := u.minibar, journal := u.journal, port := u.port } := by
  unfold State.checkout State.endStay
  dsimp only
  split <;> exact State.eq_of_fields

theorem State.rekey_rest (s : State) (p : Nat) :
    let u := s.rekey p
    u = { s with store := u.store, revoc := u.revoc, nodes := u.nodes, minibar := u.minibar, journal := u.journal, port := u.port } :=
  State.eq_of_fields

theorem State.resequence_rest (s : State) (room : Room) :
    let u := s.resequence room
    u = { s with store := u.store, revoc := u.revoc, nodes := u.nodes, minibar := u.minibar, journal := u.journal, port := u.port } := by
  unfold State.resequence
  exact State.eq_of_fields

end Rooms

/-- Settles O54: each command is a floor change or a reset of the room, then the folio's checkout for CHECKOUT. -/
theorem roomCommandsMoveStayAndFloor : Obligations.RoomCommandsMoveStayAndFloor := by
  intro tag p s takes refused
  refine ⟨fun high bound => ?_, fun low absent => ?_, ?_⟩
  · exact ⟨State.takes_room takes rfl (State.onRoom_high high bound) rfl, State.takes_room takes rfl (State.onRoom_high high bound) rfl,
      State.takes_room takes rfl (State.onRoom_high high bound) rfl⟩
  · have gone := State.roomOf?_absent absent
    exact ⟨State.takes_room takes rfl (State.onRoom_absent low gone) rfl, State.takes_room takes rfl (State.onRoom_absent low gone) rfl,
      State.takes_room takes rfl (State.onRoom_absent low gone) rfl⟩
  intro room low found slots below noneCurrent others records written every next raised fresh marked rest
  obtain ⟨held, rfl⟩ := State.roomOf?_room found
  refine ⟨fun gone => ⟨?_, ?_⟩, fun stay => ⟨fun last => ?_, fun short => ?_, ?_⟩, ?_⟩
  · exact State.takes_room takes rfl ((State.onRoom_found low found).trans (serveRekey_noStay gone s)) rfl
  · exact State.takes_room takes rfl ((State.onRoom_found low found).trans (serveCheckout_noStay gone s)) rfl
  · exact State.takes_room takes rfl ((State.onRoom_found low found).trans (serveRekey_exhausted stay last s)) rfl
  · have serves := serveRekey_rekeys stay short s
    have notices : Port.noticesOnly s.port (serveRekey room s).1.port := Evolves.notices (.serveRekey room)
    have laws : (serveRekey room s).1.store.Law := Evolves.keeps_slots (.serveRekey room) slots
    rw [serves] at notices laws
    have moves : room.floor ≠ room.stay + 1 := by omega
    obtain ⟨guests, moved, others, told, -, journal⟩ := State.rekey_spec slots.ascending held
    have test : (fun stay => decide (room.floor ≠ room.stay + 1 ∧ stay < room.stay + 1)) = next := by
      funext x
      simp [moves, next]
    rw [test] at guests told journal
    rw [if_neg moves] at moved
    refine ⟨_, ?_, moved, others, fun c hc guest current g part => ?_, guests, told moves, s.rekey_minibar _, journal, notices,
      (s.rekey_cacheOnly _).touched, s.rekey_rest _⟩
    · refine (State.takes_room takes rfl ((State.onRoom_found low found).trans serves) rfl).trans ?_
      rw [State.stayAndFloor_of moved]
    · simpa [next] using guests.left laws hc guest current part
  · have serves := serveCheckout_checks stay s
    have notices : Port.noticesOnly s.port (serveCheckout room s).1.port := Evolves.notices (.serveCheckout held)
    have laws : (serveCheckout room s).1.store.Law := Evolves.keeps_slots (.serveCheckout held) slots
    rw [serves] at notices laws
    have ended := State.endStay_ended slots held stay
    obtain ⟨folio, charges, balance⟩ := State.checkoutFolio_spec ended.minibar ended.now ended.enrolled room.point
    have marksLast : room.stay = 65535 → marked (s.checkout room) := fun last n hn entry => by
      rw [State.checkout, State.append_nodes] at hn
      obtain ⟨m, hm, enrol, reload⟩ := State.checkoutFolio_node _ _ n hn
      exact reload.trans (State.endStay_marks slots held last m hm (enrol ▸ entry))
    have sessions (n : Node) (hn : n ∈ (s.checkout room).nodes) (isOpen : (s.folio? room.point).any (·.isOpen) = true) :
        n.guestOf room.point = false := by
      rw [State.checkout, State.append_nodes, State.checkoutFolio_nodes, State.folio?, ended.minibar] at hn
      obtain ⟨m, -, rfl⟩ := List.mem_map.mp hn
      split
      · rfl
      · rename_i stays
        rw [show (findKey Folio.point room.point s.minibar.folios).any (·.isOpen) = true from isOpen] at stays
        simpa using stays
    have here : (s.checkout room).room? room.point = some (room.checkedOut s.now) := by
      rw [State.checkout, State.append_room?, State.room?_rooms (congrArg Revoc.rooms (State.checkoutFolio_revoc _ _)), ended.here]
    have store : (s.checkout room).store = (s.endStay room).store := by simp [State.checkout]
    have revoc : (s.checkout room).revoc = (s.endStay room).revoc := by simp [State.checkout]
    have guests := ended.guests.of_store store
    refine ⟨s.checkout room, ?_, here, fun q ne => ?_, fun short c hc guest current g part => ?_,
      fun last => ⟨fun c hc guest => ?_, marksLast last⟩, guests, ended.told.of_revoc revoc, folio.of_minibar (State.append_minibar _ _),
      fun f hf isOpen n hn x session mode names => ?_, ?_, notices, ?_, s.checkout_rest room⟩
    · refine (State.takes_room takes rfl ((State.onRoom_found low found).trans serves) rfl).trans ?_
      rw [State.stayAndFloor_of here, s.checkout_balance, balance, ← List.append_assoc]
      rfl
    · rw [State.room?_rooms (congrArg Revoc.rooms revoc), ended.others q ne]
    · have passes := guests.left laws hc guest current part
      rw [Room.ends, if_pos short] at passes
      simpa using passes
    · have test : room.ends = fun _ => true := if_neg (by omega)
      exact (test ▸ guests).none_left laws hc guest
    · have none := sessions n hn (by rw [hf]; exact isOpen)
      simp [Node.guestOf, session, mode, names] at none
    · have append : (s.checkout room).journal = ((s.endStay room).checkoutFolio room.point).journal.push
          ((s.endStay room).checkoutFolio room.point).now
          { kind := .stayCheckout, point := some room.point, amount := some (((s.endStay room).checkoutFolio room.point).balanceOf room.point) } :=
        State.append_journal _ _
      have now : ((s.endStay room).checkoutFolio room.point).now = s.now := (State.now_eq (by simp)).trans ended.now
      refine append.trans ?_
      rw [balance, charges, ended.journal, now, ← Journal.pushAll_append]
      rfl
    · refine ended.caches.ends (fun n m session => by rw [session]) ?_
      rw [State.checkout, State.append_nodes, State.checkoutFolio_nodes, State.folio?, ended.minibar]
      rfl
  · have notices : Port.noticesOnly s.port (serveResequence room s).1.port := Evolves.notices (.serveResequence room)
    have laws : (serveResequence room s).1.store.Law := Evolves.keeps_slots (.serveResequence room) slots
    obtain ⟨here, others, guests, told, journal, marks, minibar, now, -⟩ := State.room_reset slots.ascending held .resequence
    have store : (s.resequence room).store = ((s.cancelPending room.point .resequence).resetRoom room.point).store := State.append_store _ _
    have revoc : (s.resequence room).revoc = ((s.cancelPending room.point .resequence).resetRoom room.point).revoc := State.append_revoc _ _
    have nodes : (s.resequence room).nodes = ((s.cancelPending room.point .resequence).resetRoom room.point).nodes := State.append_nodes _ _
    have ended := guests.of_store store
    have append : (s.resequence room).journal = ((s.cancelPending room.point .resequence).resetRoom room.point).journal.push
        ((s.cancelPending room.point .resequence).resetRoom room.point).now
        { kind := .roomRekeyed, point := some room.point, value1 := some 0, value2 := some 1 } := State.append_journal _ _
    refine ⟨s.resequence room, State.takes_room takes rfl (State.onRoom_found low found) rfl, (State.append_room? _ _ _).trans here,
      fun q ne => (State.append_room? _ _ _).trans (others q ne), fun c hc guest => ended.none_left laws hc guest, ended, told.of_revoc revoc,
      (State.append_minibar _ _).trans minibar, fun n hn entry => marks n (nodes ▸ hn) entry, ?_, notices, ?_, s.resequence_rest room⟩
    · exact append.trans (by rw [now, journal])
    · exact (((s.cancelPending_cacheOnly _ .resequence).trans (State.resetRoom_cacheOnly _ _)).trans (.of_eq nodes)).touched

end Sys2Proof.Machine

/-! PROOF of O50. CONFIRM_CARD: the other holders of the serial recycled, the stay advanced, the folio reopened (04:R75, R76,
05:R89, 08:R161). -/

namespace Sys2Proof.Machine

open Sys2Proof

section Confirm
variable {s v : State} {c : Cred}

/-! ### A serial off the list stays off it -/

theorem State.reformEntry_unlisted {e : ListEntry} {x : Nat} (listed : v.entry? e.serial = some e) (absent : v.entry? x = none)
    (cred : Option Nat) (r : ListReason) : (v.reformEntry e cred r).entry? x = none := by
  have other : e.serial ≠ x := by
    rintro rfl
    cases listed.symm.trans absent
  obtain ⟨-, entries, -, -⟩ := (v.setEntries (dropKey ListEntry.serial e.serial v.revoc.entries)).pushEntry_added e.serial cred r e.retireAt
  have gone : (dropKey ListEntry.serial e.serial v.revoc.entries).find? (fun e => e.serial == x) = none :=
    (findKey_dropKey_ne ListEntry.serial other.symm v.revoc.entries).trans absent
  unfold State.entry?
  rw [show (v.reformEntry e cred r).revoc.entries = _ from entries]
  refine List.find?_append.trans ?_
  rw [show (v.setEntries (dropKey ListEntry.serial e.serial v.revoc.entries)).revoc.entries.find? (fun e => e.serial == x) = none from gone]
  simp [other]

theorem State.revoke_unlisted {x : Nat} (absent : s.entry? x = none) (k : Nat) (r : RevReason) : (s.revoke k r).entry? x = none := by
  have quiet (e : Entry) : ((s.retireSlot k s.now (.revoked s.now r)).append e).entry? x = none := by
    simpa [State.entry?] using absent
  unfold State.revoke
  split
  · exact absent
  · split
    · dsimp only
      split
      · split
        · exact quiet _
        · split
          · rename_i e listed
            exact State.reformEntry_unlisted (State.entry?_serial listed ▸ listed) (quiet _) _ _
          · exact quiet _
      · exact quiet _
    · exact absent

theorem State.revokeAll_unlisted {x : Nat} (ks : List Nat) (r : RevReason) (absent : s.entry? x = none) :
    (s.revokeAll ks r).entry? x = none := by
  induction ks generalizing s with
  | nil => exact absent
  | cons k ks ih => exact ih (State.revoke_unlisted absent k r)

/-! ### The card issued and the other holders recycled (04:R75) -/

/-- The other current cards that hold the serial. -/
def State.recycled (s : State) (c : Cred) : List Cred :=
  s.store.recs.filter (fun d => d.number != c.number && d.st.current && d.serial == c.serial)

/-- What becomes of a card where `c` is confirmed. -/
def State.afterConfirm (s : State) (c d : Cred) : Cred :=
  { d with st := if d.number = c.number then .issued else if d ∈ s.recycled c then .revoked s.now .recycled else d.st }

/-- A CONFIRM_CARD before the stay. -/
def State.confirmed (c : Cred) (s : State) : State :=
  let t := (s.setCredState c.number .issued).append (c.entry .cardConfirmed)
  (t.revokeAll (t.holdersBut c.number c.serial) .recycled).removeSerial c.serial

theorem State.confirm_eq (c : Cred) (s : State) : s.confirm c = (s.confirmed c).confirmStay c := rfl

structure Confirmed (c : Cred) (s v : State) : Prop where
  recs : v.store.recs = s.store.recs.map (s.afterConfirm c)
  free : v.store.free = s.store.free
  entries : v.revoc.entries = s.revoc.entries.filter (fun e => e.serial != c.serial)
  rooms : v.revoc.rooms = s.revoc.rooms
  journal : v.journal = (s.journal.push s.now { kind := .cardConfirmed, cred := some c.number, serial := some c.serial }).pushAll
    (s.revokedRecords (s.recycled c) .recycled)
  caches : s.CacheOnly v
  rest : v = { s with store := v.store, revoc := v.revoc, nodes := v.nodes, journal := v.journal, port := v.port }

/-- `State.revokeAll_recs` for the cards that pass a test. -/
theorem State.revokeAll_where_recs {t : State} (asc : t.store.recs.Pairwise (fun c d => c.number < d.number)) (P : Cred → Bool)
    (r : RevReason) : (t.revokeAll ((t.store.recs.filter P).map Cred.number) r).store.recs
      = t.store.recs.map (fun d => if P d && d.st.current then { d with st := .revoked t.now r } else d) := by
  rw [State.revokeAll_recs r _ t asc]
  refine List.map_congr_left fun d hd => ?_
  have named : d.number ∈ (t.store.recs.filter P).map Cred.number ↔ P d = true := by
    constructor
    · intro h
      obtain ⟨y, hy, eq⟩ := List.mem_map.mp h
      obtain ⟨hy, passes⟩ := List.mem_filter.mp hy
      have one := (findKey_of_mem Cred.number asc hy).symm.trans (eq ▸ findKey_of_mem Cred.number asc hd)
      exact Option.some.inj one ▸ passes
    · exact fun passes => List.mem_map_of_mem (List.mem_filter.mpr ⟨hd, passes⟩)
  simp only [named, Bool.and_eq_true]

/-- `c` ISSUED, with its record. -/
def State.issuedCard (c : Cred) (s : State) : State := (s.setCredState c.number .issued).append (c.entry .cardConfirmed)

/-- The card of `c`'s slot as an issue leaves it. -/
def Cred.issuedAs (c d : Cred) : Cred := if d.number = c.number then { d with st := .issued } else d

/-- Another current card that holds the serial. -/
def Cred.sharesSerial (c d : Cred) : Bool := d.number != c.number && d.st.current && d.serial == c.serial

theorem State.issuedCard_recs (s : State) (c : Cred) : (s.issuedCard c).store.recs = s.store.recs.map c.issuedAs := by
  simp [State.issuedCard, State.setCredState, State.modCred, modKey, Cred.issuedAs]

theorem Cred.issuedAs_number (c d : Cred) : (c.issuedAs d).number = d.number := by
  unfold Cred.issuedAs
  split <;> rfl

/-- The issue of `c` neither makes nor ends another holder of the serial. -/
theorem Cred.sharesSerial_issuedAs (c d : Cred) : c.sharesSerial (c.issuedAs d) = c.sharesSerial d := by
  by_cases self : d.number = c.number
  · simp [Cred.sharesSerial, Cred.issuedAs_number, self]
  · rw [Cred.issuedAs, if_neg self]

theorem Cred.issuedAs_of_sharesSerial {c d : Cred} (h : c.sharesSerial d = true) : c.issuedAs d = d := by
  refine if_neg fun self => ?_
  simp [Cred.sharesSerial, self] at h

theorem Cred.sharesSerial_current (c d : Cred) : (c.sharesSerial d && d.st.current) = c.sharesSerial d := by
  unfold Cred.sharesSerial
  cases d.st.current <;> simp

theorem State.recycled_eq (s : State) (c : Cred) : s.recycled c = s.store.recs.filter c.sharesSerial := rfl

theorem State.recycled_issuedCard (s : State) (c : Cred) :
    (s.issuedCard c).store.recs.filter (fun d => c.sharesSerial d && d.st.current) = s.recycled c := by
  simp only [Cred.sharesSerial_current, State.issuedCard_recs, List.filter_map, s.recycled_eq]
  have same : s.store.recs.filter (c.sharesSerial ∘ c.issuedAs) = s.store.recs.filter c.sharesSerial :=
    List.filter_congr fun d _ => c.sharesSerial_issuedAs d
  rw [same]
  refine (List.map_congr_left fun d hd => ?_).trans (List.map_id _)
  exact Cred.issuedAs_of_sharesSerial (List.mem_filter.mp hd).2

theorem State.confirmed_spec (slots : s.store.Law) (c : Cred) : Confirmed c s (s.confirmed c) := by
  have asc : (s.issuedCard c).store.recs.Pairwise (fun c d => c.number < d.number) := by
    rw [State.issuedCard_recs, List.pairwise_map]
    exact slots.ascending.imp (fun h => by simpa only [Cred.issuedAs_number] using h)
  have now : (s.issuedCard c).now = s.now := State.now_eq (by simp [State.issuedCard])
  obtain ⟨-, journal, list⟩ := State.revokeAll_where asc c.sharesSerial .recycled
  have recs := State.revokeAll_where_recs asc c.sharesSerial .recycled
  have store : (s.confirmed c).store = ((s.issuedCard c).revokeAll ((s.issuedCard c).holdersBut c.number c.serial) .recycled).store :=
    State.removeSerial_store _ _
  have revoc : ((s.issuedCard c).revokeAll ((s.issuedCard c).holdersBut c.number c.serial) .recycled).revoc = s.revoc :=
    (list (.inl rfl)).trans (by simp [State.issuedCard])
  have removed := State.removeSerial_removed ((s.issuedCard c).revokeAll ((s.issuedCard c).holdersBut c.number c.serial) .recycled) c.serial
  have quiet := State.removeSerial_quiet ((s.issuedCard c).revokeAll ((s.issuedCard c).holdersBut c.number c.serial) .recycled) c.serial
  refine ⟨?_, ?_, ?_, ?_, ?_, ?_, ?_⟩
  · rw [store]
    refine recs.trans ?_
    rw [State.issuedCard_recs, List.map_map]
    refine List.map_congr_left fun d hd => ?_
    have test : (c.sharesSerial (c.issuedAs d) && (c.issuedAs d).st.current) = c.sharesSerial d :=
      (c.sharesSerial_current _).trans (c.sharesSerial_issuedAs d)
    simp only [Function.comp, test, now]
    by_cases shares : c.sharesSerial d = true
    · have other : d.number ≠ c.number := fun self => by simp [Cred.sharesSerial, self] at shares
      have among : d ∈ s.recycled c := List.mem_filter.mpr ⟨hd, shares⟩
      rw [if_pos shares, Cred.issuedAs_of_sharesSerial shares, State.afterConfirm, if_neg other, if_pos among]
    · have stays : d ∉ s.recycled c := fun h => shares (List.mem_filter.mp h).2
      rw [if_neg shares, Cred.issuedAs, State.afterConfirm, if_neg stays]
      split <;> rfl
  · rw [store, State.revokeAll_free]
    simp [State.issuedCard, State.setCredState, State.modCred]
  · exact removed.entries.trans (by rw [revoc])
  · exact removed.kept.1.trans (by rw [revoc])
  · refine quiet.2.trans (journal.trans ?_)
    rw [State.recycled_issuedCard]
    simp [State.issuedCard, State.revokedRecords, State.now, Cred.entry]
  · exact ((State.CacheOnly.of_eq (show (s.issuedCard c).nodes = s.nodes by simp [State.issuedCard])).trans
      (State.revokeAll_cacheOnly _ _ _)).trans (State.removeSerial_reloadOnly _ _).cacheOnly
  · unfold State.confirmed State.removeSerial
    dsimp only
    split <;> exact State.eq_of_fields

/-! ### The stay advanced (05:R89) -/

/-- The cards that an advance of the stay of room `p` ends. -/
def State.supersededBy (v : State) (p stay : Nat) : List Cred :=
  v.store.recs.filter (fun d => (d.guestOf p && d.guest.any (fun g => decide (g.stay < stay))) && d.st.current)

/-- The room with its stay advanced: also a floor change, where the floor is not the new stay already. -/
def Room.advanced (room : Room) (now : Nat) : Room :=
  let stayed : Room := { room with stay := room.stay + 1 }
  if room.floor = room.stay + 1 then stayed
  else
    { stayed with
      floor := room.stay + 1
      history := (⟨room.stay + 1, now⟩ :: room.history).take 4
      fromCreation := room.fromCreation && decide (room.history.length < 4) }

/-- What an advance of the stay leaves. -/
structure StayAdvanced (p : Nat) (room : Room) (sup : List Cred) (v u : State) : Prop where
  here : u.room? p = some (room.advanced v.now)
  others : ∀ q, q ≠ p → u.room? q = v.room? q
  creds : ∀ j, u.cred? j = (v.cred? j).map (fun d => if d ∈ sup then { d with st := .revoked v.now .superseded } else d)
  free : u.store.free = v.store.free
  journal : u.journal = v.journal.pushAll (v.revokedRecords sup .superseded)
  list : (∀ d ∈ sup, ∀ w t, d.st ≠ .suspended w t) → u.revoc.entries = v.revoc.entries ∧
    (room.floor ≠ room.stay + 1 → u.revoc.changes.getLast? = some ⟨u.revoc.gen, .floor p (room.stay + 1)⟩)
  unlisted : ∀ x, v.entry? x = none → u.entry? x = none
  caches : v.CacheOnly u
  rest : u = { v with store := u.store, revoc := u.revoc, nodes := u.nodes, journal := u.journal, port := u.port }

theorem State.advanceStay_rest (p : Nat) (v : State) :
    let u := v.advanceStay p
    u = { v with store := u.store, revoc := u.revoc, nodes := u.nodes, journal := u.journal, port := u.port } := by
  unfold State.advanceStay
  split
  · rfl
  · exact State.eq_of_fields

theorem State.advanceStay_cacheOnly (p : Nat) (v : State) : v.CacheOnly (v.advanceStay p) := by
  unfold State.advanceStay
  split
  · exact .refl v
  · rename_i room _
    exact (State.CacheOnly.of_eq (State.modRoom_nodes v p (fun r => { r with stay := room.stay + 1 }))).trans (State.setFloor_cacheOnly _ _ _ _)

theorem State.advanceStay_advanced (asc : v.store.recs.Pairwise (fun c d => c.number < d.number)) {p : Nat} {room : Room}
    (held : v.room? p = some room) :
    StayAdvanced p room (if room.floor = room.stay + 1 then [] else v.supersededBy p (room.stay + 1)) v (v.advanceStay p) := by
  let stayed : State := v.modRoom p (fun r => { r with stay := room.stay + 1 })
  have acts : v.advanceStay p = stayed.setFloor p (room.stay + 1) .superseded := by simp only [State.advanceStay, held]; rfl
  have heldT : stayed.room? p = some { room with stay := room.stay + 1 } := by
    refine (State.modRoom_room? v p (fun r => { r with stay := room.stay + 1 }) (fun _ => rfl)).trans ?_
    rw [held]
    rfl
  have othersT (q : Nat) (ne : q ≠ p) : stayed.room? q = v.room? q := State.modRoom_room?_ne v _ (fun _ => rfl) ne
  have caches := v.advanceStay_cacheOnly p
  have rest := v.advanceStay_rest p
  by_cases same : room.floor = room.stay + 1
  · have stands : v.advanceStay p = stayed := by
      rw [acts, State.setFloor, heldT]
      exact if_pos same
    rw [if_pos same]
    rw [stands] at caches rest ⊢
    refine ⟨?_, othersT, fun j => ?_, rfl, rfl, fun _ => ⟨rfl, fun ne => absurd same ne⟩, fun x h => h, caches, rest⟩
    · rw [heldT, Room.advanced, if_pos same]
    · exact (Option.map_id_fun' ▸ rfl : v.cred? j = (v.cred? j).map (fun d => d)).trans (by simp)
  · let floored : State := (stayed.modRoom p (Room.pushFloor (room.stay + 1) v.now)).emit (.floor p (room.stay + 1))
    have moves : v.advanceStay p = floored.revokeAll (floored.guestsWhere p (fun stay => stay < room.stay + 1)) .superseded := by
      rw [acts, State.setFloor, heldT]
      exact if_neg same
    have storeT : floored.store = v.store := by simp [floored, stayed]
    have timeT : floored.time = v.time := by simp [floored, stayed]
    have nowT := State.now_eq timeT
    have ascT : floored.store.recs.Pairwise (fun c d => c.number < d.number) := storeT ▸ asc
    obtain ⟨creds, journal, list⟩ := State.revokeAll_where ascT (fun d => d.guestOf p && d.guest.any (fun g => decide (g.stay < room.stay + 1)))
      .superseded
    obtain ⟨-, entries, last⟩ := State.emit_revoc (stayed.modRoom p (Room.pushFloor (room.stay + 1) v.now)) (.floor p (room.stay + 1))
    have gone : floored.store.recs.filter (fun d => (d.guestOf p && d.guest.any (fun g => decide (g.stay < room.stay + 1))) && d.st.current)
        = v.supersededBy p (room.stay + 1) := by rw [storeT]; rfl
    rw [gone] at creds journal list
    rw [if_neg same]
    rw [moves] at caches rest ⊢
    have rooms (q : Nat) : floored.room? q = (stayed.modRoom p (Room.pushFloor (room.stay + 1) v.now)).room? q :=
      State.room?_rooms (State.emit_rooms _ _) q
    refine ⟨?_, fun q ne => ?_, fun j => ?_, ?_, ?_, fun none => ?_, fun x absent => State.revokeAll_unlisted _ _ ?_, caches, rest⟩
    · rw [State.room?_rooms (State.revokeAll_rooms _ _ _), rooms]
      refine (State.modRoom_room? stayed p (Room.pushFloor (room.stay + 1) v.now) (fun _ => rfl)).trans ?_
      rw [heldT, Room.advanced, if_neg same]
      rfl
    · rw [State.room?_rooms (State.revokeAll_rooms _ _ _), rooms,
        State.modRoom_room?_ne stayed (Room.pushFloor (room.stay + 1) v.now) (fun _ => rfl) ne, othersT q ne]
    · exact (creds j).trans (by rw [State.cred?_congr storeT, nowT])
    · rw [State.revokeAll_free, storeT]
    · refine journal.trans ?_
      simp only [State.revokedRecords, nowT]
      simp [floored, stayed]
    · have revoc : (floored.revokeAll (floored.guestsWhere p (fun stay => stay < room.stay + 1)) .superseded).revoc = floored.revoc :=
        list (.inr none)
      rw [revoc]
      exact ⟨entries, fun _ => last⟩
    · rw [State.entry?, entries]
      exact absent

/-! ### The cards after a CONFIRM_CARD -/

/-- The cards that a CONFIRM_CARD of `c` leaves, `superseded` being those that the advance of the stay ends. -/
def State.EndsAs (s : State) (c : Cred) (superseded : List Cred) (u : State) : Prop := ∀ j, u.cred? j = (s.cred? j).map (fun d =>
  { d with st := if j = c.number then .issued else if d ∈ s.recycled c then .revoked s.now .recycled
                 else if d ∈ superseded then .revoked s.now .superseded else d.st })

theorem Confirmed.cred? (h : Confirmed c s v) (j : Nat) : v.cred? j = (s.cred? j).map (s.afterConfirm c) := by
  rw [State.cred?, h.recs]
  exact findKey_map Cred.number (s.afterConfirm c) (fun _ => rfl) j s.store.recs

theorem State.mem_recycled {d : Cred} : d ∈ s.recycled c ↔ d ∈ s.store.recs ∧ d.number ≠ c.number ∧ d.st.current = true ∧ d.serial = c.serial := by
  simp [State.recycled, and_assoc]

section Ends
variable {superseded : List Cred} {u : State} (ends : s.EndsAs c superseded u)
include ends

theorem State.EndsAs.card (held : s.cred? c.number = some c) : u.cred? c.number = some { c with st := .issued } := by
  rw [ends, held]
  simp

theorem State.EndsAs.holder {j : Nat} {d : Cred} (other : j ≠ c.number) (hd : s.cred? j = some d) (current : d.st.current = true)
    (serial : d.serial = c.serial) : u.cred? j = some { d with st := .revoked s.now .recycled } := by
  obtain ⟨rfl, mem⟩ := findKey_some Cred.number hd
  rw [ends, hd, Option.map_some, if_neg other, if_pos (State.mem_recycled.mpr ⟨mem, other, current, serial⟩)]

theorem State.EndsAs.alone (slots : u.store.Law) {d : Cred} (hd : d ∈ u.store.recs) (current : d.st.current = true)
    (serial : d.serial = c.serial) : d.number = c.number := by
  by_contra other
  have here := ends d.number
  rw [slots.cred?.mp hd] at here
  obtain ⟨d₀, hd₀, eq⟩ := Option.map_eq_some_iff.mp here.symm
  obtain ⟨number, mem⟩ := findKey_some Cred.number hd₀
  have idle : (CredState.revoked s.now .recycled).current = false ∧ (CredState.revoked s.now .superseded).current = false := ⟨rfl, rfl⟩
  have card : d₀.serial = d.serial := (congrArg Cred.serial eq :)
  have st := congrArg Cred.st eq
  dsimp only at st
  rw [← st, if_neg other] at current
  split at current
  · exact Bool.noConfusion (idle.1.symm.trans current)
  · rename_i stays
    split at current
    · exact Bool.noConfusion (idle.2.symm.trans current)
    · exact stays (State.mem_recycled.mpr ⟨mem, number ▸ other, current, card.trans serial⟩)

end Ends

theorem Confirmed.endsAs_nil (h : Confirmed c s v) : s.EndsAs c [] v := fun j => by
  rw [h.cred? j]
  cases hd : s.cred? j with
  | none => rfl
  | some d =>
    obtain rfl := State.cred?_is hd
    simp [State.afterConfirm]

theorem filter_map_fixed {α : Type} {f : α → α} {P Q : α → Bool} {l : List α} (same : ∀ x ∈ l, Q (f x) = P x)
    (fixed : ∀ x ∈ l, P x = true → f x = x) : (l.map f).filter Q = l.filter P := by
  rw [List.filter_map, show l.filter (Q ∘ f) = l.filter P from List.filter_congr same]
  refine (List.map_congr_left fun x hx => ?_).trans (List.map_id _)
  obtain ⟨hx, passes⟩ := List.mem_filter.mp hx
  exact fixed x hx passes

theorem State.afterConfirm_other {d : Cred} (other : d.number ≠ c.number) (stays : d ∉ s.recycled c) : s.afterConfirm c d = d := by
  rw [State.afterConfirm, if_neg other, if_neg stays]

/-- The guests below the new stay, those that share the serial aside. -/
def State.belowStay (s : State) (c : Cred) (g : GuestPart) : List Cred :=
  (s.guestsOf g.entry (fun stay => decide (stay < g.stay))).filter (fun d => d.serial != c.serial)

theorem State.mem_belowStay (slots : s.store.Law) (held : s.cred? c.number = some c) {lapse : Nat} (encoding : c.st = .encoding lapse)
    {d : Cred} {g : GuestPart} (h : d ∈ s.belowStay c g) : d.st.current = true ∧ d.number ≠ c.number := by
  obtain ⟨mem, passes⟩ := List.mem_filter.mp (List.mem_filter.mp h).1
  have current : d.st.current = true := by
    simp only [Bool.and_eq_true] at passes
    exact passes.1.2
  refine ⟨current, fun same => ?_⟩
  obtain rfl : d = c := Option.some.inj ((slots.cred?.mp mem).symm.trans (same ▸ held))
  rw [encoding] at current
  cases current

/-- The cards that the advance ends are guests as they stood before: neither `c` nor a recycled one is among them. -/
theorem Confirmed.supersededBy (h : Confirmed c s v) (slots : s.store.Law) (held : s.cred? c.number = some c) {lapse : Nat}
    (encoding : c.st = .encoding lapse) {g : GuestPart} (part : c.guest = some g) :
    v.supersededBy g.entry g.stay = s.belowStay c g := by
  rw [State.supersededBy, h.recs, State.belowStay, State.guestsOf, List.filter_filter]
  have self {d : Cred} (hd : d ∈ s.store.recs) (same : d.number = c.number) : d = c :=
    Option.some.inj ((slots.cred?.mp hd).symm.trans (same ▸ held))
  refine filter_map_fixed (fun d hd => ?_) (fun d hd passes => ?_)
  · by_cases same : d.number = c.number
    · obtain rfl := self hd same
      simp [State.afterConfirm, part, encoding, CredState.current]
    · by_cases gone : d ∈ s.recycled c
      · obtain ⟨-, -, -, serial⟩ := State.mem_recycled.mp gone
        simp [State.afterConfirm, same, gone, serial, CredState.current]
      · rw [State.afterConfirm_other same gone]
        cases current : d.st.current with
        | false => simp
        | true =>
          have serial : d.serial ≠ c.serial := fun serial => gone (State.mem_recycled.mpr ⟨hd, same, current, serial⟩)
          simp [serial]
  · obtain ⟨serial, ⟨-, current⟩, -⟩ : (d.serial != c.serial) = true ∧ (d.guestOf g.entry = true ∧ d.st.current = true) ∧ _ := by
      simpa only [Bool.and_eq_true] using passes
    refine State.afterConfirm_other (fun same => ?_) (fun gone => ?_)
    · rw [self hd same, encoding] at current
      cases current
    · simp [(State.mem_recycled.mp gone).2.2.2] at serial

theorem Confirmed.endsAs (h : Confirmed c s v) {sup : List Cred} (live : ∀ d ∈ sup, d.st.current = true ∧ d.number ≠ c.number)
    {u : State} (creds : ∀ j, u.cred? j = (v.cred? j).map (fun d => if d ∈ sup then { d with st := .revoked s.now .superseded } else d)) :
    s.EndsAs c sup u := fun j => by
  rw [creds j, h.cred? j, Option.map_map]
  cases hd : s.cred? j with
  | none => rfl
  | some d =>
    obtain rfl := State.cred?_is hd
    refine congrArg some ?_
    dsimp only [Function.comp]
    by_cases same : d.number = c.number
    · have idle : s.afterConfirm c d ∉ sup := fun among => (live _ among).2 same
      rw [if_neg idle, if_pos same, State.afterConfirm, if_pos same]
    · by_cases gone : d ∈ s.recycled c
      · have idle : s.afterConfirm c d ∉ sup := fun among => by
          have := (live _ among).1
          rw [State.afterConfirm, if_neg same, if_pos gone] at this
          cases this
        rw [if_neg idle, if_neg same, if_pos gone, State.afterConfirm, if_neg same, if_pos gone]
      · rw [State.afterConfirm_other same gone, if_neg same, if_neg gone]
        split <;> rfl

/-! ### The folio reopened -/

theorem State.reopenFolio_nodes (v : State) (p : Nat) : (v.reopenFolio p).nodes = (v.checkoutFolio p).nodes := by
  unfold State.reopenFolio
  split
  · rename_i none
    simp [State.checkoutFolio, none]
  · rename_i f hf
    dsimp only
    split
    · simp
    · rename_i closed
      simp [State.checkoutFolio, hf, closed]

theorem State.reopenFolio_rest (v : State) (p : Nat) :
    let u := v.reopenFolio p
    u = { v with nodes := u.nodes, minibar := u.minibar, journal := u.journal, port := u.port } := State.eq_of_fields

theorem State.confirmStay_rest (c : Cred) (v : State) :
    let u := v.confirmStay c
    u = { v with store := u.store, revoc := u.revoc, nodes := u.nodes, minibar := u.minibar, journal := u.journal, port := u.port } := by
  unfold State.confirmStay
  split
  · split
    · exact State.eq_of_fields
    · rfl
  · rfl

theorem Confirmed.frame (h : Confirmed c s v) {u : State} (rest : u = { v with
      store := u.store, revoc := u.revoc, nodes := u.nodes, minibar := u.minibar, journal := u.journal, port := u.port }) :
    u = { s with store := u.store, revoc := u.revoc, nodes := u.nodes, minibar := u.minibar, journal := u.journal, port := u.port } :=
  State.eq_of_fields
    (pending := (congrArg State.pending rest :).trans (congrArg State.pending h.rest :))
    (part := (congrArg State.part rest :).trans (congrArg State.part h.rest :))
    (supply := (congrArg State.supply rest :).trans (congrArg State.supply h.rest :))
    (loader := (congrArg State.loader rest :).trans (congrArg State.loader h.rest :))
    (time := (congrArg State.time rest :).trans (congrArg State.time h.rest :))
    (lines := (congrArg State.lines rest :).trans (congrArg State.lines h.rest :))
    (inviter := (congrArg State.inviter rest :).trans (congrArg State.inviter h.rest :))
    (nodes := rfl) (store := rfl) (revoc := rfl) (minibar := rfl) (journal := rfl) (port := rfl)
    (choices := (congrArg State.choices rest :).trans (congrArg State.choices h.rest :))

end Confirm

/-- Settles O50: the confirm, the advance of the stay and the reopening of the folio, each by what it leaves. -/
theorem confirmCardMakesTheCardCurrent : Obligations.ConfirmCardMakesTheCardCurrent := by
  intro tag k s takes refused
  refine ⟨fun high bound => State.takes_row takes rfl (State.onCred_high high bound) rfl,
    fun low vacant => State.takes_row takes rfl (State.onCred_vacant low vacant) rfl, ?_⟩
  intro c low hc
  obtain rfl := State.cred?_is hc
  constructor
  · intro other
    have idle : c.st.isEncoding = false := by
      cases h : c.st with
      | encoding t => exact absurd h (other t)
      | _ => rfl
    exact State.takes_row takes rfl ((State.onCred_held low hc).trans (by simp [serveConfirm, idle, refuse])) rfl
  intro lapse encoding slots guests recycled ends written unlisted
  have serves : serveConfirm c s = (s.confirm c, .plain .ok) := by simp [serveConfirm, encoding, CredState.isEncoding]
  have answers := State.takes_row (i := .confirmCard tag (le16 c.number)) (kind := 0x21) takes rfl ((State.onCred_held low hc).trans serves) rfl
  have notices : Port.noticesOnly s.port (serveConfirm c s).1.port := Evolves.notices (.serveConfirm trivial hc)
  have laws : (serveConfirm c s).1.store.Law := Evolves.keeps_slots (.serveConfirm trivial hc) slots
  rw [serves] at notices laws
  have conf := State.confirmed_spec slots c
  have gone : (s.confirmed c).entry? c.serial = none := by
    rw [State.entry?, conf.entries]
    exact findKey_dropKey ListEntry.serial c.serial s.revoc.entries
  by_cases stay : ∃ g, c.guest = some g ∧ g.mode = .newStay
  · obtain ⟨g, part, mode⟩ := stay
    obtain ⟨-, room, roomS, next⟩ := guests g part mode
    have acts : s.confirm c = ((s.confirmed c).advanceStay g.entry).reopenFolio g.entry := by
      simp only [State.confirm_eq, State.confirmStay, part, mode]
    have nowV : (s.confirmed c).now = s.now := (congrArg State.now conf.rest :)
    have roomV : (s.confirmed c).room? g.entry = some room := (State.room?_rooms conf.rooms _).trans roomS
    have ascV : (s.confirmed c).store.recs.Pairwise (fun c d => c.number < d.number) := by
      rw [conf.recs, List.pairwise_map]
      exact slots.ascending
    have adv := State.advanceStay_advanced ascV roomV
    rw [← next, conf.supersededBy slots hc encoding part] at adv
    have live : ∀ d ∈ (if room.floor = g.stay then [] else s.belowStay c g), d.st.current = true ∧ d.number ≠ c.number := by
      split
      · simp
      · exact fun d hd => State.mem_belowStay slots hc encoding hd
    have records (L : List Cred) : (s.confirmed c).revokedRecords L .superseded = s.revokedRecords L .superseded := by
      rw [State.revokedRecords, nowV]
      rfl
    have minibarA : ((s.confirmed c).advanceStay g.entry).minibar = s.minibar :=
      ((congrArg State.minibar adv.rest :)).trans ((congrArg State.minibar conf.rest :))
    have nowA : ((s.confirmed c).advanceStay g.entry).now = s.now := ((congrArg State.now adv.rest :)).trans nowV
    have settingsA : ((s.confirmed c).advanceStay g.entry).settings = s.settings :=
      ((congrArg State.settings adv.rest :)).trans ((congrArg State.settings conf.rest :))
    have cachesA := conf.caches.trans adv.caches
    obtain ⟨folio, journal⟩ := State.reopenFolio_spec minibarA nowA cachesA.enrolled settingsA g.entry
    have reopened := State.reopenFolio_rest ((s.confirmed c).advanceStay g.entry) g.entry
    have store : (s.confirm c).store = ((s.confirmed c).advanceStay g.entry).store := by
      rw [acts]
      exact (congrArg State.store reopened :)
    have revoc : (s.confirm c).revoc = ((s.confirmed c).advanceStay g.entry).revoc := by
      rw [acts]
      exact (congrArg State.revoc reopened :)
    have e : s.EndsAs c (if room.floor = g.stay then [] else s.belowStay c g) (s.confirm c) := by
      refine conf.endsAs live fun j => ?_
      rw [State.cred?_congr store, adv.creds j, nowV]
    refine ⟨s.confirm c, answers, e.card hc, fun j d other hd => e.holder other hd, fun d hd => e.alone laws hd, ?_, fun g' room' part' mode' held' => ?_, fun other => ?_, ?_, ?_, notices, ?_⟩
    · rw [State.entry?, revoc]
      exact adv.unlisted _ gone
    · cases part.symm.trans part'
      cases roomS.symm.trans held'
      refine ⟨?_, fun q ne => ?_, e, fun none => ⟨?_, fun moves => ?_⟩, ?_, ?_⟩
      · refine (State.room?_rooms (congrArg Revoc.rooms revoc) _).trans (adv.here.trans ?_)
        rw [Room.advanced, nowV, next]
      · exact (State.room?_rooms (congrArg Revoc.rooms revoc) q).trans ((adv.others q ne).trans (State.room?_rooms conf.rooms q))
      · exact (congrArg Revoc.entries revoc).trans ((adv.list none).1.trans conf.entries)
      · rw [revoc]
        rw [(adv.list none).2 (next ▸ moves), next]
      · rw [acts]
        exact folio
      · refine (congrArg State.journal acts).trans (journal.trans ?_)
        rw [adv.journal, conf.journal, ← acts, ← Journal.pushAll_append, ← Journal.pushAll_append, records]
        simp only [written, List.append_assoc]
        rfl
    · exact absurd (mode.symm.trans (other g part)) (by decide)
    · refine cachesA.ends (fun n m session => by rw [session]) ?_
      have folios : ((s.confirmed c).advanceStay g.entry).folio? g.entry = s.folio? g.entry := by rw [State.folio?, minibarA]; rfl
      rw [acts, State.reopenFolio_nodes, State.checkoutFolio_nodes, folios]
      refine List.map_congr_left fun n _ => ?_
      rw [part]
      simp [mode, Node.guestOf]
    · rw [store, adv.free, conf.free]
    · exact conf.frame (State.confirmStay_rest c _)
  · have same : s.confirm c = s.confirmed c := by
      rw [State.confirm_eq, State.confirmStay]
      split
      · split
        · exact absurd ⟨_, ‹_›, ‹_›⟩ stay
        · rfl
      · rfl
    have nobody : (fun n : Node => c.guest.any (fun g => g.mode == .newStay && (s.folio? g.entry).any (·.isOpen) &&
        n.session.any (fun x => x.mode == .guest && x.folio == some g.entry))) = fun _ => false := by
      funext n
      cases part : c.guest with
      | none => rfl
      | some g =>
        have other : g.mode ≠ .newStay := fun mode => stay ⟨g, part, mode⟩
        simp [other]
    have e : s.EndsAs c [] (s.confirm c) := same ▸ conf.endsAs_nil
    rw [nobody]
    have card := e.card hc
    have holders := fun j d (other : j ≠ c.number) (hd : s.cred? j = some d) => e.holder other hd
    have alone := fun d (hd : d ∈ (s.confirm c).store.recs) => e.alone laws hd
    rw [same] at answers notices card holders alone e
    have minibar : (s.confirmed c).minibar = s.minibar := (congrArg State.minibar conf.rest :)
    refine ⟨_, answers, card, holders, alone, gone, fun g room part mode => absurd ⟨g, part, mode⟩ stay,
      fun _ => ⟨conf.rooms, minibar, e, conf.entries, ?_⟩, conf.caches.touched, conf.free, notices, ?_⟩
    · exact conf.journal.trans (by rw [List.append_nil]; rfl)
    · exact conf.rest.trans (by rw [minibar])

end Sys2Proof.Machine

/-! PROOF of O56. SET_COMPARTMENT, SET_CEILING, SETTLE and FOLIO_STATUS (08:R147, R163 to R165). -/

namespace Sys2Proof.Machine

open Sys2Proof

section Folio
variable {s : State} {p v : Nat} {f : Folio}

/-! ### Commands that name a folio -/

theorem State.onFolio_found {serve : Folio → State → State × Reply} (low : p ≤ 4095) (rest : List Byte) (held : s.folio? p = some f) :
    s.onFolio (le16 p ++ rest) serve = serve f s := by
  have word : u16At (le16 p ++ rest) 0 = p := le16_value (show p < 65536 by omega)
  simp only [State.onFolio, word, if_neg (Nat.not_lt.mpr low), held]

theorem u32At_le16_le32 (bound : v < 4294967296) : u32At (le16 p ++ le32 v) 2 = v := u32At_le32 bound

theorem serveSetCeiling_closed (closed : f.isOpen = false) (s : State) : serveSetCeiling v f s = (s, .plain .wrongState) := by
  simp [serveSetCeiling, closed, refuse]

/-- A folio with its ceiling set. -/
def State.ceiled (v : Nat) (f : Folio) (s : State) : State :=
  (s.modFolio f.point (fun g => { g with ceiling := min 9999999 v })).judgeHeld f.point f.held

theorem serveSetCeiling_open (isOpen : f.isOpen = true) (s : State) :
    serveSetCeiling v f s = (s.ceiled v f, .plain (if 9999999 < v then .clamped else .ok)) := by
  rw [serveSetCeiling, if_neg (by simp [isOpen])]
  rfl

theorem State.ceiled_minibar (v : Nat) (f : Folio) (s : State) : (s.ceiled v f).minibar =
    (s.modFolio f.point (fun g => { g with ceiling := min 9999999 v })).minibar := State.judgeHeld_minibar _ _ _

theorem State.modFolio_folio?_ne (s : State) {q : Nat} (g : Folio → Folio) (point : ∀ x, (g x).point = x.point) (ne : q ≠ p) :
    (s.modFolio p g).folio? q = s.folio? q := findKey_modKey_ne Folio.point g point ne _

theorem State.ceiled_journal (held : s.folio? p = some f) (isOpen : f.isOpen = true) (v : Nat) : (s.ceiled v f).journal =
    if f.balance + f.pendingTotal < f.ceiling ∧ min 9999999 v ≤ f.balance + f.pendingTotal
    then s.journal.push s.now
      { kind := .folioHeld, point := some p, node := (s.roomNode? p).map Node.addr,
        amount := some (min 9999999 (f.balance + f.pendingTotal)) }
    else s.journal := by
  obtain ⟨rfl, -⟩ := State.folio?_mem held
  have ceiling := (State.modFolio_folio? s f.point (fun g => { g with ceiling := min 9999999 v }) (fun _ => rfl)).trans
    (congrArg (Option.map _) held)
  have records := State.judgeHeld_journal s (s.modFolio f.point (fun g => { g with ceiling := min 9999999 v })) f.point rfl rfl
  rw [held] at records
  refine records.trans ?_
  rw [State.heldRecords, ceiling, held]
  simp only [Option.map_some, Option.any_some, isOpen, Bool.true_and]
  by_cases before : f.ceiling ≤ f.balance + f.pendingTotal
  · simp [before, Nat.not_lt.mpr before]
  · by_cases after : min 9999999 v ≤ f.balance + f.pendingTotal
    · simp [before, after, Nat.lt_of_not_le before]
    · simp [before, after]

/-- What a command leaves of the folios and lines beside its own folio. -/
structure FolioSet (p : Nat) (g : Folio → Folio) (s u : State) : Prop where
  folio : u.folio? p = (s.folio? p).map g
  others : ∀ q, q ≠ p → u.folio? q = s.folio? q
  pool : u.minibar.pool = s.minibar.pool

theorem FolioSet.of_minibar {u : State} {g : Folio → Folio} (point : ∀ x, (g x).point = x.point)
    (minibar : u.minibar = (s.modFolio p g).minibar) : FolioSet p g s u := by
  have same (q : Nat) : u.folio? q = (s.modFolio p g).folio? q := by rw [State.folio?, minibar]; rfl
  exact ⟨(same p).trans (s.modFolio_folio? p g point), fun q ne => (same q).trans (s.modFolio_folio?_ne g point ne), by rw [minibar]; rfl⟩

/-! ### SETTLE -/

/-- A folio with an amount settled. -/
def State.folioSettled (v : Nat) (f : Folio) (s : State) : State :=
  (s.modFolio f.point (fun g => { g with balance := f.balance - v })).append
    { kind := .folioSettled, point := some f.point, amount := some (min v f.balance) }

theorem serveSettleBody_above (above : 9999999 < v) (bound : v < 4294967296) (p : Nat) (s : State) :
    serveSettleBody (le16 p ++ le32 v) s = (s, .plain .badField) := by
  simp only [serveSettleBody, u32At_le16_le32 bound, folioLimit, if_pos above]
  rfl

theorem serveSettleBody_settles (low : p ≤ 4095) (amount : v ≤ 9999999) (held : s.folio? p = some f) :
    serveSettleBody (le16 p ++ le32 v) s
      = (s.folioSettled v f, ⟨if f.balance < v then .clamped else .ok, le32 (f.balance - v)⟩) := by
  simp only [serveSettleBody, u32At_le16_le32 (show v < 4294967296 by omega), folioLimit, if_neg (Nat.not_lt.mpr amount),
    State.onFolio_found low _ held]
  rfl

/-! ### FOLIO_STATUS -/

theorem fields_flatMap {α : Type} (f : α → List (Nat × Nat)) (l : List α) : fields (l.flatMap f) = l.flatMap (fun x => fields (f x)) := by
  induction l with
  | nil => rfl
  | cons x l ih => rw [List.flatMap_cons, fields_append, ih, List.flatMap_cons]

theorem Node.minibarBytes_eq (n : Node) : n.minibarBytes = fields [(1, n.addr), (1, n.session.isSome.toNat),
    (1, (n.session.map (fun x => [SessionMode.guest, .restock].idxOf x.mode)).getD 0),
    (2, (n.session.map (·.cred)).getD 0), (4, (n.session.map (·.openedAt)).getD 0)] := by
  have mode (x : SessionMode) : x.code = [SessionMode.guest, .restock].idxOf x := by cases x <;> rfl
  simp [Node.minibarBytes, flagByte_eq, optByte, optLe16, optLe32, mode]

theorem State.folioContent_eq (s : State) (f : Folio) : s.folioContent f = fields (folioFields f (s.linesOf f.point) (s.minibarsOf f.point)) := by
  have held : f.held.toNat = if f.isOpen = true ∧ f.ceiling ≤ f.balance + f.pendingTotal then 1 else 0 := by
    unfold Folio.held
    by_cases above : f.ceiling ≤ f.balance + f.pendingTotal <;> cases f.isOpen <;> simp [above]
  have lines : ChargeLine.bytes = _ := funext ChargeLine.bytes_eq
  have minibars : Node.minibarBytes = _ := funext Node.minibarBytes_eq
  simp [State.folioContent, folioFields, fields_flatMap, lines, minibars, presLe32_eq, flagByte_eq, held]

theorem folioFields_length (f : Folio) (lines : List ChargeLine) (minibars : List Node) :
    (fields (folioFields f lines minibars)).length = 21 + 13 * lines.length + 9 * min 16 minibars.length := by
  simp [folioFields, fields_flatMap, optional, List.length_flatMap, List.map_const']
  omega

end Folio

/-- Settles O56: each command changes its compartment or its folio and leaves the others. -/
theorem minibarCommandsActOnTheirFolio : Obligations.MinibarCommandsActOnTheirFolio := by
  intro tag s takes
  refine ⟨?_, ?_⟩
  · intro a c cap stock item price n lo hi hn cls cLo cHi comps itemBound priceBound capLo capHi i
    obtain ⟨addr, -⟩ := findKey_some Node.addr hn
    have itemAt : u16At ([a, c] ++ le16 item ++ le32 price ++ [cap, stock]) 2 = item := le16_value itemBound
    have priceAt : u32At ([a, c] ++ le16 item ++ le32 price ++ [cap, stock]) 4 = price := u32At_le32 (show price < 4294967296 by omega)
    have valid : ¬ (¬ addressOk a.toNat = true ∨ 65535 < price ∨ cap.toNat < 1 ∨ 15 < cap.toNat) := by
      rw [addressOk_of lo hi]
      simp only [not_true, false_or]
      omega
    have takesComp : n.takesComp c.toNat = true := by simp [Node.takesComp, cls, comps, cLo, cHi]
    have reaches : serveSetCompartment ([a, c] ++ le16 item ++ le32 price ++ [cap, stock]) s
        = if (s.lineFor? n.addr c.toNat).isSome then refuse .wrongState s
          else (s.modNode n.addr (Node.setComp c.toNat ⟨item, price, cap.toNat, min cap.toNat stock.toNat⟩),
            .plain (if cap.toNat < stock.toNat then .clamped else .ok)) := by
      have compartment : compartmentAt ([a, c] ++ le16 item ++ le32 price ++ [cap, stock])
          = ⟨item, price, cap.toNat, min cap.toNat stock.toNat⟩ := by
        rw [compartmentAt, itemAt, priceAt]
        rfl
      have byte (k : Nat) (b : Byte) (h : byteAt ([a, c] ++ le16 item ++ le32 price ++ [cap, stock]) k = b.toNat) := h
      rw [serveSetCompartment, priceAt, compartment, byte 0 a rfl, byte 1 c rfl, byte 8 cap rfl, byte 9 stock rfl, if_neg valid, hn]
      simp [takesComp]
    refine ⟨fun line => ?_, fun free => ?_⟩
    · refine exec_takes rfl takes rfl (reaches.trans ?_) rfl
      rw [addr, if_pos (Option.isSome_iff_ne_none.mpr line)]
      rfl
    · refine ⟨_, exec_takes rfl takes rfl (reaches.trans (if_neg (by simp [addr, free]))) rfl, ?_, fun b ne => ?_, rfl⟩
      · conv_lhs => rw [addr]
        rw [State.modNode_node? _ _ (Node.setComp c.toNat ⟨item, price, cap.toNat, min cap.toNat stock.toNat⟩) (fun _ => rfl), hn]
        rfl
      · rw [addr, State.modNode_node?_ne _ (Node.setComp c.toNat ⟨item, price, cap.toNat, min cap.toNat stock.toNat⟩) (fun _ => rfl) ne]
  · intro p v f low bound held rest
    obtain ⟨rfl, -⟩ := State.folio?_mem held
    refine ⟨fun closed => ?_, fun isOpen => ?_, fun above => ?_, fun amount => ?_, ?_⟩
    · refine exec_takes rfl takes rfl ((State.onFolio_found low _ held).trans ?_) rfl
      rw [serveSetCeiling_closed closed]
    · have word := u32At_le16_le32 (p := f.point) bound
      have serves : s.onFolio (le16 f.point ++ le32 v) (serveSetCeiling (u32At (le16 f.point ++ le32 v) 2))
          = (s.ceiled v f, .plain (if 9999999 < v then .clamped else .ok)) := by
        rw [State.onFolio_found low _ held, word, serveSetCeiling_open isOpen]
      have notices : Port.noticesOnly s.port (serveSetCeiling v f s).1.port := Evolves.notices (.serveSetCeiling v f)
      rw [serveSetCeiling_open isOpen] at notices
      have set : FolioSet f.point (fun g => { g with ceiling := min 9999999 v }) s (s.ceiled v f) :=
        .of_minibar (fun _ => rfl) (s.ceiled_minibar v f)
      refine ⟨_, exec_takes rfl takes rfl serves rfl, ?_, State.ceiled_journal held isOpen v, set.others, set.pool, notices, ?_⟩
      · rw [set.folio, held]
        rfl
      · unfold State.ceiled
        exact State.eq_of_fields
    · exact exec_takes rfl takes rfl (serveSettleBody_above above bound _ s) rfl
    · have serves := serveSettleBody_settles low amount held
      have notices : Port.noticesOnly s.port (serveSettle v f s).1.port := Evolves.notices (.serveSettle held)
      have set : FolioSet f.point (fun g => { g with balance := f.balance - v }) s (s.folioSettled v f) :=
        .of_minibar (fun _ => rfl) (State.append_minibar _ _)
      refine ⟨_, exec_takes rfl takes rfl serves rfl, ?_, ?_, set.others, set.pool, notices, ?_⟩
      · rw [set.folio, held]
        rfl
      · exact State.append_journal _ _
      · unfold State.folioSettled
        exact State.eq_of_fields
    · intro lines minibars content
      refine ⟨folioFields_length f lines minibars, ?_⟩
      refine exec_takes rfl takes rfl ((State.onFolio_found low [] held).trans ?_) rfl
      rw [serveFolioStatus, State.folioContent_eq]
      rfl

end Sys2Proof.Machine

/-! PROOF of O57. A record appended, READ_JOURNAL and ACK_JOURNAL (09:R170 to R176, 07:R134). -/

namespace Sys2Proof.Machine

open Sys2Proof

/-! ### A record appended -/

theorem Journal.push_full {secs : Nat} {e : Entry} {j : Journal} {r : Rec} {rs : List Rec} (recs : j.recs = r :: rs)
    (full : 2048 ≤ j.recs.length) : j.push secs e
      = ⟨rs ++ [⟨j.next, secs, e, if j.acked = 0 then some (min 65535 (1 + r.gap.getD 0)) else none⟩],
        j.acked - 1, (j.next + 1) % 4294967296⟩ := by
  unfold Journal.push Journal.makeRoom
  rw [if_neg (Nat.not_lt.mpr full), recs]
  by_cases unacked : j.acked = 0
  · simp [unacked, wrap32, satAdd]
  · simp [unacked, Nat.pos_of_ne_zero unacked, wrap32]

theorem Journal.push_room {secs : Nat} {e : Entry} {j : Journal} (room : j.recs.length < 2048) :
    j.push secs e = ⟨j.recs ++ [⟨j.next, secs, e, none⟩], j.acked, (j.next + 1) % 4294967296⟩ := by
  unfold Journal.push Journal.makeRoom
  rw [if_pos room]
  rfl

section Append
variable {s : State}

theorem State.raise_quiet_port {k : NoticeKind} (h : s.part ≠ .running ∨ s.port.arm.get k = false) : (s.raise k).port = s.port := by
  unfold State.raise
  split
  · rename_i both
    obtain h | h := h
    · exact absurd both.1 h
    · exact absurd both.2 (by simp [h])
  · rfl

theorem State.raise_told {k : NoticeKind} (running : s.part = .running) (armed : s.port.arm.get k = true) :
    noticeFrame k s ∈ (s.raise k).port.frames := by
  unfold State.raise
  rw [if_pos ⟨running, armed⟩]
  exact (Port.ready_frames (noticeFrame k s) s.port).mem_iff.mpr (by simp)

theorem State.raise_arm {k : NoticeKind} (running : s.part = .running) : (s.raise k).port.arm = s.port.arm.put false k := by
  unfold State.raise
  split
  · unfold Port.ready
    split <;> rfl
  · rename_i unarmed
    have off : s.port.arm.get k = false := by simpa [running] using unarmed
    generalize s.port.arm = arm at off
    obtain ⟨journalWaiting, nodeChange, lineChange, alarm⟩ := arm
    cases k <;> simp_all [Arming.get, Arming.put]

theorem noticeFrame_waiting (s : State) : noticeFrame .journalWaiting s
    = .notice 0x61 (fields [(2, s.journal.recs.length - s.journal.acked), (4, s.journal.next)]) := by
  simp [noticeFrame, Journal.unacked]

/-- The state with the record written, before the condition of 09:R176 is judged. -/
def State.recorded (e : Entry) (s : State) : State := { s with journal := s.journal.push (e.secs.getD s.now) e }

theorem State.append_eq (s : State) (e : Entry) : s.append e =
    if s.settings.journalThreshold ≤ (s.recorded e).journal.unacked then (s.recorded e).raise .journalWaiting else s.recorded e := rfl

end Append

/-! ### READ_JOURNAL -/

section Read
variable {j : Journal} {x : Nat}

theorem numbered_at {j : Journal} (law : j.Law) {x : Nat} (bound : x < 4294967296) (lo : 1 ≤ sub32 j.next x)
    (hi : sub32 j.next x ≤ j.recs.length) :
    ∃ q rs, q.seq = x ∧ j.recs.drop (j.recs.length - sub32 j.next x) = q :: rs := by
  have dropped := numbered_drop law.numbers (j.recs.length - sub32 j.next x)
  have length : (j.recs.drop (j.recs.length - sub32 j.next x)).length = sub32 j.next x := by
    rw [List.length_drop]
    omega
  cases h : j.recs.drop (j.recs.length - sub32 j.next x) with
  | nil =>
    rw [h] at length
    simp only [List.length_nil] at length
    omega
  | cons q rs =>
    rw [h] at dropped length
    obtain ⟨inRange, place, -⟩ := dropped
    refine ⟨q, rs, ?_, rfl⟩
    have next := law.next
    rw [List.length_cons, ← place] at length
    unfold sub32 at length
    omega

theorem Journal.reading_held (max : Nat) (lo : 1 ≤ sub32 j.next x) (hi : sub32 j.next x ≤ j.recs.length) :
    j.reading x max = ((j.recs.drop (j.recs.length - sub32 j.next x)).take max, false) := by
  simp [Journal.reading, Journal.locate, show sub32 j.next x ≠ 0 by omega, hi]

theorem Journal.locate_behind (lo : j.recs.length < sub32 j.next x) (hi : sub32 j.next x ≤ 2147483648) : j.locate x = .behind := by
  simp [Journal.locate, show sub32 j.next x ≠ 0 by omega, Nat.not_le.mpr lo, hi]

theorem Journal.locate_outside (law : j.Law) (h : sub32 j.next x = 0 ∨ 2147483648 < sub32 j.next x) :
    j.locate x = .next ∨ j.locate x = .ahead := by
  obtain h | h := h
  · exact .inl (by simp [Journal.locate, h])
  · have size := law.size
    refine .inr ?_
    simp [Journal.locate, show sub32 j.next x ≠ 0 by omega, show ¬ sub32 j.next x ≤ j.recs.length by omega, Nat.not_le.mpr h]

theorem Journal.reading_outside (max : Nat) (h : j.locate x = .next ∨ j.locate x = .ahead) : j.reading x max = ([], false) := by
  obtain h | h := h <;> simp [Journal.reading, h]

theorem Journal.locate_empty (empty : j.recs = []) : j.locate x = .next ∨ j.locate x = .behind ∨ j.locate x = .ahead := by
  simp only [Journal.locate, empty, List.length_nil]
  split
  · exact .inl rfl
  · rw [if_neg (by omega)]
    split <;> simp

theorem Journal.reading_empty (max : Nat) (empty : j.recs = []) :
    j.reading x max = ([], decide (1 ≤ sub32 j.next x ∧ sub32 j.next x ≤ 2147483648)) := by
  by_cases next : sub32 j.next x = 0
  · simp [Journal.reading, Journal.locate, next]
  · have above : ¬ sub32 j.next x ≤ 0 := by omega
    by_cases near : sub32 j.next x ≤ 2147483648
    · simp [Journal.reading, Journal.locate, next, empty, above, near, Nat.one_le_iff_ne_zero]
    · simp [Journal.reading, Journal.locate, next, empty, above, near]

theorem Journal.oldestSeq_head {r : Rec} (head : j.recs.head? = some r) : j.oldestSeq = le32 r.seq := by
  obtain ⟨rs, recs⟩ := List.head?_eq_some_iff.mp head
  rw [Journal.oldestSeq, recs]

theorem Journal.readContent_eq {max : Nat} {rs : List Rec} {skipped : Bool} {oldest : Nat} (reading : j.reading x max = (rs, skipped))
    (first : j.oldestSeq = le32 oldest) : j.readContent x max =
      fields ([(1, skipped.toNat), (4, oldest), (4, j.next), (2, j.acked), (2, j.recs.length - j.acked),
        (1, rs.length)] ++ rs.flatMap recFields) := by
  have bytes : Rec.bytes = fun r => fields (recFields r) := funext Rec.bytes_eq
  simp [Journal.readContent, reading, first, flagByte_eq, Journal.unacked, fields_flatMap, bytes]

theorem recFields_length (r : Rec) : (fields (recFields r)).length = 42 := by simp [recFields]

theorem exec_readJournal {s : State} (takes : s.takes) (tag : Byte) {max : Byte} (lo : 1 ≤ max.toNat) (hi : max.toNat ≤ 16)
    (bound : x < 4294967296) {rs : List Rec} {skipped : Bool} {oldest : Nat} (reading : s.journal.reading x max.toNat = (rs, skipped))
    (first : s.journal.oldestSeq = le32 oldest) :
    exec (.readJournal tag (le32 x ++ [max])) s = .next ({ s with port := { s.port with
        arm := { s.port.arm with journalWaiting := true, alarm := true } } }.answer 0x3A tag false
      ⟨.ok, fields ([(1, skipped.toNat), (4, oldest), (4, s.journal.next), (2, s.journal.acked), (2, s.journal.recs.length - s.journal.acked),
        (1, rs.length)] ++ rs.flatMap recFields)⟩) ∧ ∀ q ∈ rs, (fields (recFields q)).length = 42 := by
  refine ⟨?_, fun q _ => recFields_length q⟩
  have word : u32At (le32 x ++ [max]) 0 = x := u32At_le32 bound
  have count : byteAt (le32 x ++ [max]) 4 = max.toNat := rfl
  have serves : serveReadJournal (le32 x ++ [max]) s = (s, ⟨.ok, s.journal.readContent x max.toNat⟩) := by
    rw [serveReadJournal, word, count, if_neg (by omega)]
  rw [← Journal.readContent_eq reading first]
  exact exec_gives (i := .readJournal tag (le32 x ++ [max])) (tag := tag) (rearms := [.journalWaiting, .alarm]) (kind := 0x3A) (len := (le32 x ++ [max]).length) (lenOk := (· == 5)) rfl (by rw [takes.1]; rfl) takes.2 rfl serves

end Read

/-! ### ACK_JOURNAL -/

section Ack
variable {s : State}

/-- A node whose upload waits for room, with its permit latched where there is room (07:R134). -/
def Node.permitted (free : Nat) (n : Node) : Node :=
  if n.upload.isSome = true ∧ n.permit = .none ∧ 64 ≤ free then { n with permit := .latched, latchPermit := true } else n

theorem Node.permitted_addr (free : Nat) (n : Node) : (n.permitted free).addr = n.addr := by
  unfold Node.permitted
  split <;> rfl

theorem Node.permitted_twice (free : Nat) (n : Node) : (n.permitted free).permitted free = n.permitted free := by
  unfold Node.permitted
  split <;> simp_all

theorem Permit.isNone_iff (p : Permit) : p.isNone = true ↔ p = .none := by cases p <;> simp [Permit.isNone]

theorem State.judgePermit_eq (s : State) (a : Nat) : (s.judgePermit a).node? a = (s.node? a).map (Node.permitted s.journal.freeSpace) ∧
    (∀ b, b ≠ a → (s.judgePermit a).node? b = s.node? b) ∧ s.judgePermit a = { s with nodes := (s.judgePermit a).nodes } := by
  unfold State.judgePermit
  cases hn : s.node? a with
  | none => exact ⟨hn, fun _ _ => rfl, rfl⟩
  | some n =>
    dsimp only
    simp only [Permit.isNone_iff]
    split
    · rename_i waits
      refine ⟨?_, fun b ne => State.modNode_node?_ne _ (fun n => { n with permit := .latched, latchPermit := true }) (fun _ => rfl) ne, rfl⟩
      rw [State.modNode_node? _ _ (fun n => { n with permit := .latched, latchPermit := true }) (fun _ => rfl), hn]
      exact congrArg some (if_pos waits).symm
    · rename_i idle
      exact ⟨hn.trans (congrArg some (if_neg idle).symm), fun _ _ => rfl, rfl⟩

/-- What changes the node table alone, twice. -/
theorem State.nodes_frame {s t u : State} (first : t = { s with nodes := t.nodes }) (second : u = { t with nodes := u.nodes }) :
    u = { s with nodes := u.nodes } :=
  second.trans (by rw [first])

theorem State.judgePermits_on (as : List Nat) (s : State) : let u := s.forEach as State.judgePermit
    (∀ a n, s.node? a = some n → u.node? a = some (if a ∈ as then n.permitted s.journal.freeSpace else n)) ∧
    u = { s with nodes := u.nodes } := by
  induction as generalizing s with
  | nil => exact ⟨fun a n hn => by simpa [State.forEach] using hn, rfl⟩
  | cons b as ih =>
    obtain ⟨here, others, frame⟩ := s.judgePermit_eq b
    obtain ⟨each, rest⟩ := ih (s.judgePermit b)
    have free : (s.judgePermit b).journal.freeSpace = s.journal.freeSpace := by rw [frame]
    rw [free] at each
    refine ⟨fun a n hn => ?_, ?_⟩
    · by_cases same : a = b
      · subst same
        refine (each a _ (here.trans (congrArg _ hn))).trans ?_
        rw [if_pos List.mem_cons_self]
        split
        · rw [Node.permitted_twice]
        · rfl
      · refine (each a n ((others a same).trans hn)).trans ?_
        simp [same]
    · exact State.nodes_frame frame rest

theorem State.judgePermits_spec (s : State) : (∀ a n, s.node? a = some n → s.judgePermits.node? a = some (n.permitted s.journal.freeSpace)) ∧
    s.judgePermits = { s with nodes := s.judgePermits.nodes } := by
  obtain ⟨each, rest⟩ := State.judgePermits_on s.addrs s
  refine ⟨fun a n hn => (each a n hn).trans ?_, rest⟩
  obtain ⟨rfl, mem⟩ := findKey_some Node.addr hn
  rw [if_pos (show n.addr ∈ s.addrs from List.mem_map_of_mem mem)]

theorem exec_ackJournal (takes : s.takes) (tag : Byte) {x : Nat} (bound : x < 4294967296) {acked : Nat} {st : Status}
    (acks : s.journal.acknowledged x = (acked, st)) : ∃ u : State, exec (.ackJournal tag (le32 x)) s
      = .next (u.answer 0x3B tag false ⟨st, fields [(2, acked), (2, s.journal.recs.length - acked),
        (2, 2048 - (s.journal.recs.length - acked)), (4, s.journal.next)]⟩) ∧
    (∀ a n, s.node? a = some n → u.node? a = some (
      if n.upload.isSome = true ∧ n.permit = .none ∧ 64 ≤ 2048 - (s.journal.recs.length - acked)
      then { n with permit := .latched, latchPermit := true } else n)) ∧
    u = { s with journal := { s.journal with acked := acked }, nodes := u.nodes } := by
  have acts : s.ackJournal x = { s with journal := { s.journal with acked := acked } } := by rw [State.ackJournal, acks]
  have serves : serveAckJournal (le32 x) s = (({ s with journal := { s.journal with acked := acked } } : State).judgePermits,
      ⟨st, fields [(2, acked), (2, s.journal.recs.length - acked), (2, 2048 - (s.journal.recs.length - acked)), (4, s.journal.next)]⟩) := by
    simp only [serveAckJournal, u32At_le32 bound, acts, acks]
    simp [Journal.ackContent, Journal.unacked, Journal.freeSpace]
  obtain ⟨each, rest⟩ := ({ s with journal := { s.journal with acked := acked } } : State).judgePermits_spec
  exact ⟨_, exec_takes rfl takes rfl serves rfl, each, rest⟩

end Ack

/-- Settles O57: the append by the room the journal has, the two commands by where the number stands. -/
theorem journalReadsAndAcknowledges : Obligations.JournalReadsAndAcknowledges := by
  refine ⟨fun secs e j r rs recs full => Journal.push_full recs full, fun secs e j room => Journal.push_room room, ?_, ?_⟩
  · intro e s u unacked
    have appended := s.append_eq e
    have journal : (s.append e).journal = (s.recorded e).journal := s.append_journal e
    refine ⟨State.append_journal _ _, (s.append_noticed e).notices, s.append_frame e, fun quiet => ?_, fun running full => ?_⟩
    · show (s.append e).port = s.port
      rw [appended]
      split
      · rename_i full
        refine State.raise_quiet_port (.inl (quiet.resolve_right (Nat.not_lt.mpr ?_)))
        rwa [Journal.unacked, ← journal] at full
      · rfl
    · have raised : u = (s.recorded e).raise .journalWaiting :=
        appended.trans (if_pos (by rwa [Journal.unacked, ← journal]))
      refine ⟨(congrArg (·.port.arm) raised).trans (State.raise_arm (s := s.recorded e) running), fun armed => ?_, fun unarmed =>
        (congrArg State.port raised).trans (State.raise_quiet_port (.inr unarmed))⟩
      have told : noticeFrame .journalWaiting (s.recorded e) ∈ u.port.frames :=
        raised ▸ State.raise_told (k := .journalWaiting) (s := s.recorded e) running armed
      rw [noticeFrame_waiting, ← journal] at told
      exact told
  · intro tag x s takes bound law j k reads acks
    refine ⟨fun max r lo hi head => ⟨fun held inside => ?_, fun behind near => ?_, fun outside => ?_⟩, fun max lo hi none => ?_,
      fun some => ⟨fun held inside => ?_, fun behind near => ?_, fun outside => ?_⟩, fun none => ?_⟩
    · obtain ⟨q, rs, seq, dropped⟩ := numbered_at law bound held inside
      refine ⟨q, rs, seq, dropped, exec_readJournal takes tag lo hi bound ?_ (Journal.oldestSeq_head head)⟩
      rw [Journal.reading_held _ held inside, dropped]
    · exact exec_readJournal takes tag lo hi bound (by simp [Journal.reading, Journal.locate_behind behind near, j]) (Journal.oldestSeq_head head)
    · exact exec_readJournal takes tag lo hi bound (Journal.reading_outside _ (Journal.locate_outside law outside))
        (Journal.oldestSeq_head head)
    · exact exec_readJournal takes tag lo hi bound (Journal.reading_empty _ none) (by simp [Journal.oldestSeq, show s.journal.recs = [] from none])
    · refine exec_ackJournal takes tag bound ?_
      simp [Journal.acknowledged, Journal.locate, show sub32 s.journal.next x ≠ 0 from Nat.ne_of_gt held, show sub32 s.journal.next x ≤ _ from inside, j, k]
    · exact exec_ackJournal takes tag bound (by simp [Journal.acknowledged, Journal.locate_behind behind near, j])
    · refine exec_ackJournal takes tag bound ?_
      obtain h | h := Journal.locate_outside law outside <;> simp [Journal.acknowledged, h, show s.journal.recs ≠ [] from some, j]
    · refine exec_ackJournal takes tag bound ?_
      obtain h | h | h := Journal.locate_empty (x := x) none <;> simp [Journal.acknowledged, h, show s.journal.recs = [] from none, j]

end Sys2Proof.Machine

/-! PROOF of O33 and O32. Second events: encodings that lapse, lines that are due, and the minute sweep (03:R43, R44). -/

namespace Sys2Proof.Machine

open Sys2Proof

/-! ### The expiry sweep (04:R83) -/

/-- The order of 04:R64: by retired_at, and at an equal one in the order of `all`. -/
def RetiredBefore (at_ : Nat → Nat) (all : List Nat) (j k : Nat) : Prop :=
  at_ j < at_ k ∨ at_ j = at_ k ∧ all.idxOf j < all.idxOf k

theorem insertRetired_before {f g : Nat → Nat} {t k : Nat} {l all : List Nat} (sub : ∀ j ∈ l, j ∈ all) (fresh : k ∉ all)
    (here : g k = t) (others : ∀ j ∈ l, g j = f j) (before : l.Pairwise (RetiredBefore f all)) :
    (insertRetired f t k l).Pairwise (RetiredBefore g (all ++ [k])) := by
  have kept : ∀ {i j}, i ∈ l → j ∈ l → RetiredBefore f all i j → RetiredBefore g (all ++ [k]) i j := fun {i j} hi hj h => by
    rw [RetiredBefore, others i hi, others j hj, List.idxOf_append_of_mem (sub i hi), List.idxOf_append_of_mem (sub j hj)]
    exact h
  have last : ∀ {j}, j ∈ l → f j ≤ t → RetiredBefore g (all ++ [k]) j k := fun {j} hj h => by
    rw [RetiredBefore, others j hj, here, List.idxOf_append_of_mem (sub j hj), List.idxOf_append_of_notMem fresh]
    have := List.idxOf_lt_length_of_mem (sub j hj)
    omega
  induction l with
  | nil => exact List.pairwise_singleton ..
  | cons x xs ih =>
    obtain ⟨first, rest⟩ := List.pairwise_cons.mp before
    have tail : ∀ {i j}, i ∈ x :: xs → j ∈ xs → RetiredBefore f all i j → RetiredBefore g (all ++ [k]) i j :=
      fun hi hj => kept hi (List.mem_cons_of_mem _ hj)
    unfold insertRetired
    split
    · rename_i early
      have ahead : ∀ j ∈ x :: xs, t < f j := fun j hj => by
        obtain rfl | hj := List.mem_cons.mp hj
        · exact early
        · obtain h | h := first j hj
          · exact early.trans h
          · exact h.1 ▸ early
      refine List.pairwise_cons.mpr ⟨fun j hj => .inl ?_, before.imp_of_mem (fun hi hj => kept hi hj)⟩
      rw [here, others j hj]
      exact ahead j hj
    · rename_i late
      refine List.pairwise_cons.mpr ⟨fun j hj => ?_, ih (fun j hj => sub j (List.mem_cons_of_mem _ hj))
        (fun j hj => others j (List.mem_cons_of_mem _ hj)) rest (fun hi hj => kept (List.mem_cons_of_mem _ hi) (List.mem_cons_of_mem _ hj))
        (fun hj => last (List.mem_cons_of_mem _ hj))⟩
      obtain rfl | hj := List.mem_cons.mp ((insertRetired_perm f t k xs).mem_iff.mp hj)
      · exact last List.mem_cons_self (Nat.not_lt.mp late)
      · exact tail List.mem_cons_self hj (first j hj)

/-- A retired order that holds each number once and rises by retired_at. -/
theorem retiredBefore_of_sorted {f : Nat → Nat} {l : List Nat} (once : l.Nodup) (sorted : l.Pairwise (fun j k => f j ≤ f k)) :
    l.Pairwise (RetiredBefore f l) := by
  refine List.pairwise_iff_getElem.mpr (fun i j hi hj lt => ?_)
  have le := List.pairwise_iff_getElem.mp sorted i j hi hj lt
  rw [RetiredBefore, once.idxOf_getElem, once.idxOf_getElem]
  omega

section Expiry
variable {s t : State} {now : Nat}

theorem State.expire_cred? {k : Nat} {c : Cred} (hc : s.cred? k = some c) (j : Nat) : (s.expire k).cred? j =
    if j = k then some { c with st := .expired c.validEnd } else s.cred? j := by
  rw [State.cred?, State.expire_store hc]
  split
  · subst j
    exact (findKey_modKey Cred.number (fun d => { d with st := .expired c.validEnd }) (fun _ => rfl) k _).trans (congrArg _ hc)
  · rename_i ne
    exact findKey_modKey_ne Cred.number (fun d => { d with st := .expired c.validEnd }) (fun _ => rfl) ne _

theorem State.retiredAt_congr (h : t.cred? = s.cred?) : t.retiredAt = s.retiredAt := funext fun k => by
  rw [State.retiredAt, State.retiredAt, h]

/-- Current credentials made EXPIRED one after another. -/
theorem State.expireAll (cs : List Cred) : ∀ {s : State} {all : List Nat}, (cs.map Cred.number).Nodup →
    (∀ c ∈ cs, s.cred? c.number = some c ∧ c.number ∉ all) → s.store.retired.Perm all →
    s.store.retired.Pairwise (RetiredBefore s.retiredAt all) →
    let t := (cs.map Cred.number).foldl (fun t k => t.expire k) s
    (∀ c ∈ cs, t.cred? c.number = some { c with st := .expired c.validEnd }) ∧
    (∀ k, k ∉ cs.map Cred.number → t.cred? k = s.cred? k) ∧ t.store.free = s.store.free ∧
    t.store.retired.Perm (all ++ cs.map Cred.number) ∧
    t.store.retired.Pairwise (RetiredBefore t.retiredAt (all ++ cs.map Cred.number)) := by
  induction cs with
  | nil => exact fun _ _ perm before => ⟨by simp, fun _ _ => rfl, rfl, by simpa using perm, by simpa using before⟩
  | cons c cs ih =>
    intro s all once held perm before
    rw [List.map_cons, List.nodup_cons] at once
    obtain ⟨hc, fresh⟩ := held c (by simp)
    have creds := State.expire_cred? hc
    have store := State.expire_store hc
    have apart : ∀ d ∈ cs, d.number ≠ c.number := fun d hd e => once.1 (e ▸ List.mem_map_of_mem hd)
    have retired : (s.expire c.number).store.retired = insertRetired s.retiredAt c.validEnd c.number s.store.retired := by
      rw [store]
      rfl
    have at_ : ∀ j ∈ s.store.retired, (s.expire c.number).retiredAt j = s.retiredAt j := fun j hj => by
      have ne : j ≠ c.number := fun e => fresh (e ▸ perm.mem_iff.mp hj)
      rw [State.retiredAt, State.retiredAt, creds, if_neg ne]
    obtain ⟨taken, others, free, order, sorted⟩ := ih (s := s.expire c.number) (all := all ++ [c.number]) once.2 (fun d hd => by
        obtain ⟨found, out⟩ := held d (by simp [hd])
        refine ⟨by rw [creds, if_neg (apart d hd), found], ?_⟩
        simp [out, apart d hd])
      (by rw [retired]; exact (insertRetired_perm _ _ _ _).trans ((List.perm_append_singleton _ _).symm.trans (perm.append_right _)))
      (by
        rw [retired]
        refine insertRetired_before (fun j hj => perm.mem_iff.mp hj) fresh ?_ at_ before
        simp [State.retiredAt, creds, CredState.retiredAt])
    rw [List.append_assoc] at order sorted
    refine ⟨fun d hd => ?_, fun k out => ?_, free.trans (by rw [store]), order, sorted⟩
    · obtain rfl | hd := List.mem_cons.mp hd
      · exact (others _ once.1).trans (by rw [creds, if_pos rfl])
      · exact taken d hd
    · rw [List.map_cons, List.mem_cons, not_or] at out
      exact (others k out.2).trans (by rw [creds, if_neg out.1])

/-- The credentials that the expiry sweep at `now` takes. -/
def Cred.overdue (now : Nat) (c : Cred) : Bool := c.st.current && decide (c.validEnd < now)

theorem State.expirySweep_expired (law : s.store.Law) : CredsExpired s.now s s.expirySweep := by
  have mem : ∀ c, c ∈ s.store.recs.filter (Cred.overdue s.now) ↔ s.cred? c.number = some c ∧ c.st.current = true ∧ c.validEnd < s.now :=
    fun c => by simp [Cred.overdue, law.cred?]
  obtain ⟨taken, others, free, order, sorted⟩ := State.expireAll (s.store.recs.filter (Cred.overdue s.now)) (s := s)
    (all := s.store.retired) (numbers_nodup law.ascending List.filter_sublist) (fun c hc => by
      obtain ⟨found, current, -⟩ := (mem c).mp hc
      refine ⟨found, law.not_retired (law.cred?.mpr found) (CredState.retiredAt_of_current current)⟩) (.refl _)
    (retiredBefore_of_sorted law.retiredOnce law.sorted)
  refine ⟨fun k c hc current past => ?_, fun k c hc stands => ?_, fun k vacant => ?_, free, order, sorted⟩
  · obtain rfl := State.cred?_is hc
    exact taken c ((mem c).mpr ⟨hc, current, past⟩)
  · refine (others k (fun listed => ?_)).trans hc
    obtain ⟨d, hd, rfl⟩ := List.mem_map.mp listed
    obtain ⟨found, current, past⟩ := (mem d).mp hd
    obtain rfl := Option.some.inj (found.symm.trans hc)
    obtain h | h := stands
    · simp [h] at current
    · omega
  · refine (others k (fun listed => ?_)).trans vacant
    obtain ⟨d, hd, rfl⟩ := List.mem_map.mp listed
    rw [((mem d).mp hd).1] at vacant
    cases vacant

/-- The records of the store after cards were made EXPIRED: each EXPIRED, or as it was and of none of their numbers. -/
theorem State.expireAll_recs (ks : List Nat) (s : State) : ∀ c ∈ (ks.foldl (fun t k => t.expire k) s).store.recs,
    (∃ e, c.st = .expired e) ∨ c ∈ s.store.recs ∧ c.number ∉ ks := by
  induction ks generalizing s with
  | nil => exact fun c hc => .inr ⟨hc, by simp⟩
  | cons k ks ih =>
    intro c hc
    obtain expired | ⟨mem, out⟩ := ih _ c hc
    · exact .inl expired
    · cases found : s.cred? k with
      | none =>
        have idle : s.expire k = s := by rw [State.expire, found]
        replace mem : c ∈ (s.expire k).store.recs := mem
        rw [idle] at mem
        have ne : c.number ≠ k := (findKey_none Cred.number).mp found c mem
        exact .inr ⟨mem, by simp [ne, out]⟩
      | some d =>
        replace mem : c ∈ (s.expire k).store.recs := mem
        rw [State.expire_store found] at mem
        obtain ⟨x, hx, rfl⟩ := (mem_modKey Cred.number).mp mem
        split
        · exact .inl ⟨_, rfl⟩
        · rename_i ne
          rw [if_neg ne] at out
          exact .inr ⟨hx, by simp [ne, out]⟩

theorem State.expirySweep_recs : ∀ c ∈ s.expirySweep.store.recs, (∃ e, c.st = .expired e) ∨
    c ∈ s.store.recs ∧ (c.st.current = true → s.now ≤ c.validEnd) := fun c hc => by
  obtain expired | ⟨mem, out⟩ := State.expireAll_recs _ _ c hc
  · exact .inl expired
  · refine .inr ⟨mem, fun current => Nat.not_lt.mp (fun past => out ?_)⟩
    exact List.mem_map_of_mem (List.mem_filter.mpr ⟨mem, by simp [current, past]⟩)

end Expiry

/-! ### The minute sweep -/

section Sweep
variable {s t u v : State} {now : Nat}

theorem CredsExpired.of_stores (h : CredsExpired now s t) (source : u.store = s.store) (target : v.store = t.store) :
    CredsExpired now u v := by
  have su : u.cred? = s.cred? := funext fun k => by rw [State.cred?, source]; rfl
  have tv : v.cred? = t.cred? := funext fun k => by rw [State.cred?, target]; rfl
  refine ⟨?_, ?_, ?_, ?_, ?_⟩
  · rw [su, tv]
    exact h.taken
  · rw [su, tv]
    exact h.others
  · rw [su, tv]
    exact h.vacant
  · rw [source, target]
    exact h.free
  · rw [source, target, State.retiredAt_congr tv]
    exact h.retired

theorem EntriesRetired.of_fields (h : EntriesRetired now s t) (source : u.revoc = s.revoc) (nodes : u.nodes = s.nodes)
    (target : v.revoc = t.revoc) (after : v.nodes = t.nodes) : EntriesRetired now u v := by
  have su : u.node? = s.node? := funext fun k => by rw [State.node?, nodes]; rfl
  have tv : v.node? = t.node? := funext fun k => by rw [State.node?, after]; rfl
  refine ⟨?_, ?_, ?_, ?_, ?_⟩
  · rw [source, target, nodes, after]
    exact h.stands
  · rw [source, target]
    exact h.entries
  · rw [source, target]
    exact h.changes
  · rw [source, target]
    exact h.rooms
  · rw [State.addrs, State.addrs, nodes, after, su, tv]
    exact h.nodes

/-- What a minute sweep at the second of `s` leaves (03:R44). -/
structure Swept (s t : State) : Prop where
  creds : s.store.Law → CredsExpired s.now s t
  entries : EntriesRetired s.now s t
  caches : CachesTouched (fun _ => false) s t
  current : ∀ c ∈ t.store.recs, c.st.current = true → s.now ≤ c.validEnd
  list : ∀ e ∈ t.revoc.entries, s.now ≤ e.retireAt
  lapsed : ∀ c ∈ t.store.recs, c.lapsed s.now = true → c ∈ s.store.recs
  rest : t = { s with nodes := t.nodes, store := t.store, revoc := t.revoc }

theorem State.retireEntries_past (s : State) : ∀ e ∈ s.retireEntries.revoc.entries, s.now ≤ e.retireAt := fun e he => by
  rw [State.retireEntries, (State.removeEntries _ s).entries, List.mem_filter] at he
  obtain ⟨mem, out⟩ := he
  refine Nat.not_lt.mp (fun past => ?_)
  have listed : (s.revoc.entries.filter (fun e => e.retireAt < s.now)).any (fun f => e.serial == f.serial) = true :=
    List.any_eq_true.mpr ⟨e, List.mem_filter.mpr ⟨mem, by simpa using past⟩, by simp⟩
  rw [Bool.not_eq_true', Bool.eq_false_iff] at out
  exact out listed

theorem State.minuteSweep_swept (s : State) : Swept s s.minuteSweep := by
  have now : s.expirySweep.now = s.now := State.now_eq s.expirySweep_time
  have retired := s.expirySweep.retireEntries_retired
  have past := s.expirySweep.retireEntries_past
  rw [now] at retired past
  have touched := (s.expirySweep.retireEntries_reloadOnly.cacheOnly).touched
  have store : s.minuteSweep.store = s.expirySweep.store := s.expirySweep.retireEntries_store
  have recs := State.expirySweep_recs (s := s)
  rw [← store] at recs
  refine ⟨fun law => (State.expirySweep_expired law).of_stores rfl store,
    retired.of_fields s.expirySweep_revoc.symm s.expirySweep_nodes.symm rfl rfl, ?_, fun c hc current => ?_, past,
    fun c hc lapsed => ?_, State.eq_of_fields (by simp [State.minuteSweep]) (by simp [State.minuteSweep]) (by simp [State.minuteSweep])
      (by simp [State.minuteSweep]) (by simp [State.minuteSweep]) (by simp [State.minuteSweep]) (by simp [State.minuteSweep])
      rfl rfl rfl (by simp [State.minuteSweep]) (by simp [State.minuteSweep]) (by simp [State.minuteSweep]) (by simp [State.minuteSweep])⟩
  · rw [CachesTouched, s.expirySweep_nodes] at touched
    exact touched
  · obtain ⟨e, expired⟩ | ⟨-, standing⟩ := recs c hc
    · simp [expired, CredState.current] at current
    · exact standing current
  · obtain ⟨e, expired⟩ | ⟨mem, -⟩ := recs c hc
    · simp [expired, Cred.lapsed] at lapsed
    · exact mem

end Sweep

/-! ### One part of a coming second event -/

section Parts
variable {s : State}

theorem State.secondPart_due {due : State → Bool} {act : State → State} (running : s.part = .running) (now : due s.beginSecond = true) :
    s.secondPart due act = act s.beginSecond := if_pos ⟨running, now⟩

theorem State.beginSecond_isSet (s : State) : s.beginSecond.time.isSet = s.time.isSet := by
  obtain ⟨-, eq⟩ | ⟨-, -, eq⟩ | ⟨k, -, -, eq⟩ := s.beginSecond_cases <;> rw [eq]
  rw [State.quietFor_time]

/-- The first line of the pool that names a compartment, and the lines ahead of it. -/
theorem lineFor?_of_first {a c : Nat} {l : ChargeLine} {ahead behind : List ChargeLine} (pool : s.minibar.pool = ahead ++ l :: behind)
    (first : ∀ x ∈ ahead, ¬ (x.node = a ∧ x.comp = c)) (node : l.node = a) (comp : l.comp = c) :
    s.lineFor? a c = some l ∧ linesAhead a c s.minibar.pool = ahead := by
  have names : l.names a c = true := by simp [ChargeLine.names, node, comp]
  have others : ∀ x ∈ ahead, x.names a c = false := fun x hx => by
    rw [Bool.eq_false_iff]
    exact fun h => first x hx (by simpa [ChargeLine.names] using h)
  rw [State.lineFor?, linesAhead, pool]
  refine ⟨List.find?_eq_some_iff_append.mpr ⟨names, ahead, behind, rfl, fun x hx => by simp [others x hx]⟩, ?_⟩
  rw [List.takeWhile_append_of_pos (fun x hx => by simp [others x hx])]
  simp [names]

end Parts

/-- Settles O33: each row from the state in which the coming second boundary is reached. -/
theorem secondEventPartsActAlone : Obligations.SecondEventPartsActAlone := by
  intro s running unbegun u₀ u
  have reached : s.beginSecond = u := by
    obtain ⟨begun, -⟩ | ⟨-, owed, eq⟩ | ⟨k, -, owed, eq⟩ := s.beginSecond_cases
    · simp [unbegun] at begun
    · refine eq.trans ((if_pos owed).trans ?_).symm
      simp only [u₀, owed, if_true, nextBoundary]
      rfl
    · refine eq.trans ((if_neg (by omega)).trans ?_).symm
      simp only [u₀, owed, wrap32]
      simp
  have store : u.store = s.store := by rw [← reached, State.beginSecond_store]
  have minibar : u.minibar = s.minibar := by rw [← reached, State.beginSecond_minibar]
  have journal : u.journal = s.journal := by rw [← reached, State.beginSecond_journal]
  have creds : u.cred? = s.cred? := funext fun k => by rw [State.cred?, store]; rfl
  refine ⟨fun k c lapse hc encoding due => ?_, fun node comp l ahead behind pool first node_eq comp_eq due => ?_, fun isSet minute => ?_⟩
  · have found : u.cred? k.toNat = some c := (congrFun creds _).trans hc
    have lapsed : (u.cred? k.toNat).any (fun c => c.lapsed u.now) = true := by
      simpa [found, Cred.lapsed, encoding] using due
    have returned := State.returnEncoding_returned found .lapsed
    have number := State.cred?_is found
    obtain ⟨vacant, others, free, retired, taken, rest⟩ := returned
    rw [number] at vacant others free taken
    refine ⟨_, congrArg Host.Outcome.next ((State.secondPart_due running (by rw [reached]; exact lapsed)).trans (by rw [reached])), ?_⟩
    refine ⟨vacant, fun j ne => (others j ne).trans (congrFun creds j), ?_, ?_, ?_,
      (Dealt.returnEncoding u k.toNat .lapsed).noticed.notices, rest⟩
    · rw [free, store]
    · rw [retired, store]
    · rw [taken, journal]
  · have pool : u.minibar.pool = ahead ++ l :: behind := by rw [minibar, pool]
    obtain ⟨found, before⟩ := lineFor?_of_first pool first node_eq comp_eq
    refine congrArg Host.Outcome.next ((State.secondPart_due running (by rw [reached, found]; simpa [ChargeLine.due] using due)).trans ?_)
    rw [reached, found]
    show u.commitThrough l = _
    rw [State.commitThrough, node_eq, comp_eq, before]
    rfl
  · have swept := u.minuteSweep_swept
    have sweeps : u.sweepDue = true := by
      have set : u.time.isSet = true := by
        rw [← reached, State.beginSecond_isSet, isSet]
      simp [State.sweepDue, set, minute]
    have after : u.minuteSweep.now = u.now := State.now_eq (congrArg State.time swept.rest :)
    refine ⟨_, congrArg Host.Outcome.next ((State.secondPart_due running (by rw [reached]; exact sweeps)).trans (by rw [reached])), ?_⟩
    exact ⟨fun law => swept.creds (by rwa [store]), swept.entries, by rw [after]; exact swept.current, by rw [after]; exact swept.list, swept.caches, swept.rest⟩

end Sys2Proof.Machine

/-! PROOF of O32. A second event whole: encodings that lapse and lines that are due, in either order, then the sweep. -/

namespace Sys2Proof.Machine

open Sys2Proof

/-! ### Encodings that lapse and lines that are due -/

theorem State.returnAll_recs (cause : LapseCause) (ks : List Nat) (s : State) :
    ∀ c ∈ (ks.foldl (fun t k => t.returnEncoding k cause) s).store.recs, c ∈ s.store.recs ∧ c.number ∉ ks := by
  induction ks generalizing s with
  | nil => exact fun c hc => ⟨hc, by simp⟩
  | cons k ks ih =>
    intro c hc
    obtain ⟨mem, out⟩ := ih _ c hc
    replace mem : c ∈ (s.returnEncoding k cause).store.recs := mem
    cases found : s.cred? k with
    | none =>
      have idle : s.returnEncoding k cause = s := by rw [State.returnEncoding, found]
      rw [idle] at mem
      have ne : c.number ≠ k := (findKey_none Cred.number).mp found c mem
      exact ⟨mem, by simp [ne, out]⟩
    | some d =>
      rw [State.returnEncoding_store s cause found] at mem
      obtain ⟨mem, ne⟩ := (mem_dropKey Cred.number).mp mem
      exact ⟨mem, by simp [ne, out]⟩

/-- What the lapse of every due encoding leaves (04:R78). -/
structure Lapsed (s u : State) : Prop where
  store : s.store.Law → u.store = { s.store with
    recs := s.store.recs.filter (fun c => !c.lapsed s.now)
    free := s.store.free ++ (s.store.recs.filter (fun c => c.lapsed s.now)).map Cred.number }
  journal : s.store.Law → u.journal = s.journal.pushAll (s.lapsedRecords (s.store.recs.filter (fun c => c.lapsed s.now)) .lapsed)
  gone : ∀ c ∈ u.store.recs, c.lapsed s.now = false
  notices : Port.noticesOnly s.port u.port
  rest : u = { s with store := u.store, journal := u.journal, port := u.port }

theorem State.lapseEncodings_lapsed (s : State) : Lapsed s s.lapseEncodings := by
  obtain ⟨⟨rs, records, -, exact_⟩, retired, slots⟩ := State.returnWhere (fun c => c.lapsed s.now) .lapsed s
  have dealt : Dealt s s.lapseEncodings := Dealt.foldl (fun t k => Dealt.returnEncoding t k .lapsed) _ s
  refine ⟨fun law => ?_, fun law => ?_, fun c hc => ?_, dealt.noticed.notices, dealt.rest⟩
  · obtain ⟨recs, free⟩ := slots law.ascending
    have whole : ∀ {a b : Store}, a.recs = b.recs → a.free = b.free → a.retired = b.retired → a = b := by
      rintro ⟨_, _, _⟩ ⟨_, _, _⟩ rfl rfl rfl
      rfl
    exact whole recs free retired
  · rw [← exact_ law.ascending]
    exact records.journal
  · obtain ⟨mem, out⟩ := State.returnAll_recs .lapsed _ s c hc
    refine Bool.eq_false_iff.mpr (fun lapsed => out ?_)
    exact List.mem_map_of_mem (List.mem_filter.mpr ⟨mem, lapsed⟩)

/-- What the commit of every due line leaves (08:R157). -/
structure DueCommitted (s u : State) : Prop where
  pool : Once s.minibar.pool → u.minibar.pool = s.minibar.pool.filter (fun l => !ChargeLine.due s.now l)
  folios : ∀ p, u.folio? p = (s.folio? p).map (Folio.committed ((s.minibar.pool.filter (ChargeLine.due s.now)).filter (fun l => l.folio == p)))
  journal : u.journal = s.journal.pushAll (s.chargeRecords (s.minibar.pool.filter (ChargeLine.due s.now)))
  gone : ∀ l ∈ u.minibar.pool, s.now < l.deadline
  notices : Port.noticesOnly s.port u.port
  rest : u = { s with minibar := u.minibar, journal := u.journal, port := u.port }

theorem State.commitDue_committed (s : State) : DueCommitted s s.commitDue := by
  obtain ⟨-, once, folios⟩ := s.commitWhere_spec (ChargeLine.due s.now)
  obtain ⟨pool, -, -, journal⟩ := State.commitLines (s.minibar.pool.filter (ChargeLine.due s.now)) s
  have charged : Charged s s.commitDue := Charged.commitLines _ s
  refine ⟨once, folios, journal, fun l hl => ?_, charged.noticed.notices, charged.rest⟩
  rw [State.commitDue, State.commitWhere, pool, List.mem_filter] at hl
  obtain ⟨mem, out⟩ := hl
  refine Nat.not_le.mp (fun due => ?_)
  rw [Bool.not_eq_true', Bool.eq_false_iff] at out
  exact out (List.any_eq_true.mpr ⟨l, List.mem_filter.mpr ⟨mem, by simpa [ChargeLine.due] using due⟩, by simp [ChargeLine.names]⟩)

/-- What both leave, either first (log 14). -/
structure DeadlinesMet (s u : State) : Prop where
  store : s.store.Law → u.store = { s.store with
    recs := s.store.recs.filter (fun c => !c.lapsed s.now)
    free := s.store.free ++ (s.store.recs.filter (fun c => c.lapsed s.now)).map Cred.number }
  pool : Once s.minibar.pool → u.minibar.pool = s.minibar.pool.filter (fun l => !ChargeLine.due s.now l)
  folios : ∀ p, u.folio? p = (s.folio? p).map (Folio.committed ((s.minibar.pool.filter (ChargeLine.due s.now)).filter (fun l => l.folio == p)))
  journal : s.store.Law →
    let lapses := s.lapsedRecords (s.store.recs.filter (fun c => c.lapsed s.now)) .lapsed
    let charges := s.chargeRecords (s.minibar.pool.filter (ChargeLine.due s.now))
    u.journal = s.journal.pushAll (lapses ++ charges) ∨ u.journal = s.journal.pushAll (charges ++ lapses)
  lapsed : ∀ c ∈ u.store.recs, c.lapsed s.now = false
  due : ∀ l ∈ u.minibar.pool, s.now < l.deadline
  notices : Port.noticesOnly s.port u.port
  rest : u = { s with store := u.store, minibar := u.minibar, journal := u.journal, port := u.port, choices := u.choices }

section Deadlines
variable {s t u : State}

theorem DeadlinesMet.lapse_commit (first : Lapsed s t) (then_ : DueCommitted t u) : DeadlinesMet s u := by
  have kept := first.rest
  have now : t.now = s.now := State.now_eq (congrArg State.time kept :)
  have minibar : t.minibar = s.minibar := (congrArg State.minibar kept :)
  have store : u.store = t.store := (congrArg State.store then_.rest :)
  have enrolled : t.enrolled = s.enrolled := by rw [kept]; rfl
  obtain ⟨pool, folios, journal, gone, notices, rest⟩ := then_
  rw [minibar, now] at pool folios journal
  rw [State.chargeRecords_congr now enrolled] at journal
  refine ⟨fun law => store.trans (first.store law), pool, fun p => (folios p).trans ?_, fun law => .inl ?_,
    fun c hc => first.gone c (store ▸ hc), fun l hl => now ▸ gone l hl, Port.noticesOnly_trans first.notices notices, ?_⟩
  · rw [State.folio?, minibar]
    rfl
  · rw [journal, first.journal law, Journal.pushAll_append]
  · rw [rest, kept]

theorem DeadlinesMet.commit_lapse (first : DueCommitted s t) (then_ : Lapsed t u) : DeadlinesMet s u := by
  have kept := first.rest
  have now : t.now = s.now := State.now_eq (congrArg State.time kept :)
  have store : t.store = s.store := (congrArg State.store kept :)
  have minibar : u.minibar = t.minibar := (congrArg State.minibar then_.rest :)
  obtain ⟨slots, journal, gone, notices, rest⟩ := then_
  rw [store, now] at slots journal
  refine ⟨slots, fun once => by rw [minibar, first.pool once], fun p => ?_, fun law => .inr ?_,
    fun c hc => now ▸ gone c hc, fun l hl => first.gone l (minibar ▸ hl), Port.noticesOnly_trans first.notices notices, ?_⟩
  · rw [State.folio?, minibar]
    exact first.folios p
  · rw [journal law, first.journal, Journal.pushAll_append]
    simp [State.lapsedRecords, now]
  · rw [rest, kept]

theorem DeadlinesMet.of_chose (h : DeadlinesMet s.chose u) : DeadlinesMet s u :=
  ⟨h.store, h.pool, h.folios, h.journal, h.lapsed, h.due, h.notices, h.rest⟩

theorem State.deadlines_met (s : State) : DeadlinesMet s s.deadlines := by
  unfold State.deadlines
  split
  · split
    · exact (DeadlinesMet.lapse_commit s.chose.lapseEncodings_lapsed (State.commitDue_committed _)).of_chose
    · exact (DeadlinesMet.commit_lapse s.chose.commitDue_committed (State.lapseEncodings_lapsed _)).of_chose
  · exact .lapse_commit s.lapseEncodings_lapsed (State.commitDue_committed _)

end Deadlines

/-! ### The boundary -/

theorem State.secondWork_off {s : State} (off : s.part ≠ .running) : s.secondWork = s := by
  unfold State.secondWork
  split
  · exact absurd ‹_› off
  · rfl

theorem State.secondWork_running {s : State} (running : s.part = .running) :
    s.secondWork = if s.deadlines.sweepDue then s.deadlines.minuteSweep else s.deadlines := by
  rw [State.secondWork, running]


section Boundary
variable {s : State}

/-- The receive timeout and the time base do not touch each other. -/
theorem State.quietFor_time_put (k : Nat) (s : State) (time : TimeBase) :
    { s with time := time }.quietFor k = { s.quietFor k with time := time } := by
  have off : ({ s with time := time } : State).lineOff = s.lineOff := rfl
  unfold State.quietFor
  rw [off]
  by_cases idle : (s.port.rx.isHunting || s.lineOff) = true
  · rw [if_pos idle, if_pos idle]
  · rw [if_neg idle, if_neg idle]
    by_cases long : 1639 ≤ s.port.silence + k
    · have busy : ¬ s.port.rx.isHunting = true := fun h => idle (by simp [h])
      rw [if_pos long, if_pos long, State.rxTimeout, State.rxTimeout, if_neg busy, if_neg busy]
      rfl
    · rw [if_neg long, if_neg long]

/-- The time base with the coming second boundary reached (03:R43, R45). -/
def TimeBase.secondReached (t : TimeBase) : TimeBase := { t with
  tick := if t.owed = 0 then (t.tick / 32768 + 1) * 32768 % 281474976710656 else t.tick
  secs := (t.secs + 1) % 4294967296
  owed := t.owed - 1 }

/-- The receive timeout measured on the way to the coming boundary (10:R182); one reached before needs none. -/
def State.quietTill (s u : State) : State := if s.time.owed = 0 then u.quietFor (32768 - s.time.tick % 32768) else u

theorem State.beginSecond_eq (unbegun : s.time.begun = false) :
    s.beginSecond = s.quietTill { s with time := { s.time.secondReached with begun := true } } := by
  obtain ⟨begun, -⟩ | ⟨-, owed, eq⟩ | ⟨k, -, owed, eq⟩ := s.beginSecond_cases
  · simp [unbegun] at begun
  · rw [eq, State.quietTill, if_pos owed]
    simp [TimeBase.secondReached, owed, nextBoundary, wrap32]
  · rw [eq, State.quietTill, if_neg (by omega)]
    simp [TimeBase.secondReached, owed, wrap32]

theorem State.quietTill_time_put (u : State) (time : TimeBase) : s.quietTill { u with time := time } = { s.quietTill u with time := time } := by
  unfold State.quietTill
  split
  · exact State.quietFor_time_put _ _ _
  · rfl

theorem State.quietTill_kept (u : State) : s.quietTill u = { u with port := (s.quietTill u).port } := by
  unfold State.quietTill
  split
  · exact State.eq_of_fields
  · rfl

end Boundary

/-- Settles O32: the boundary reached, the deadlines met, and the sweep where the minute stands. -/
theorem secondEventLeavesNothingDue : Obligations.SecondEventLeavesNothingDue := by
  intro s unbegun time quiet
  have begins := s.beginSecond_eq unbegun
  rw [State.quietTill_time_put] at begins
  have ended : { s.beginSecond.time with begun := false } = time := by
    rw [begins, ← unbegun]
    rfl
  have now : s.beginSecond.now = time.secs := by
    rw [begins]
    rfl
  refine ⟨fun off => ?_, fun running => ?_⟩
  · have part : s.beginSecond.part ≠ .running := by rwa [State.beginSecond_part]
    show Host.Outcome.next s.secondEvent = .next (s.quietTill { s with time := time })
    rw [State.secondEvent, State.secondWork_off part, State.quietTill_time_put, State.endSecond, ended, begins]
  · have part : s.beginSecond.part = .running := by rw [State.beginSecond_part, running]
    have met := s.beginSecond.deadlines_met
    have port : s.beginSecond.port = (s.quietTill s).port := (congrArg State.port begins :)
    have points : s.beginSecond.pointOf = s.pointOf := funext fun a => by
      rw [State.pointOf, State.node?, s.beginSecond_nodes]
      rfl
    have folios : s.beginSecond.folio? = s.folio? := funext fun p => by
      rw [State.folio?, s.beginSecond_minibar]
      rfl
    have vnow : s.beginSecond.deadlines.now = time.secs := (State.now_eq s.beginSecond.deadlines_time).trans now
    have sweepDue : s.beginSecond.deadlines.sweepDue = (s.time.isSet && time.secs % 60 == 0) := by
      rw [State.sweepDue, vnow, s.beginSecond.deadlines_time, s.beginSecond_isSet]
    obtain ⟨slots, pool, committed, journal, lapsed, due, notices, rest⟩ := met
    rw [now] at slots pool committed journal lapsed due
    rw [s.beginSecond_store] at slots journal
    rw [s.beginSecond_minibar] at pool committed journal
    rw [port] at notices
    have works : s.secondEvent = (if s.beginSecond.deadlines.sweepDue then s.beginSecond.deadlines.minuteSweep
        else s.beginSecond.deadlines).endSecond := by
      rw [State.secondEvent, State.secondWork_running part]
    obtain ⟨creds, entries, caches, current, list, kept, swept⟩ := s.beginSecond.deadlines.minuteSweep_swept
    rw [vnow] at creds entries current list kept
    refine ⟨s.beginSecond.deadlines.endSecond, s.secondEvent, rfl, fun law once => ⟨slots law, pool once, fun p => ?_, ?_⟩, notices,
      State.eq_of_fields (time := ?_), fun idle => ?_, fun isSet minute => ?_, fun c hc => ?_, fun l hl => ?_⟩
    · exact (committed p).trans (by rw [folios]; rfl)
    · have orders := journal law
      simp only [State.lapsedRecords, State.chargeRecords, now, points, s.beginSecond_journal] at orders
      exact orders
    · exact (by rw [s.beginSecond.deadlines_time] : { s.beginSecond.deadlines.time with begun := false } = _).trans ended
    · rw [works, sweepDue, if_neg (by simpa using idle)]
    · rw [works, sweepDue, if_pos (by simp [isSet, minute])]
      refine ⟨fun law => (creds ?_).of_stores rfl rfl, entries.of_fields rfl rfl rfl rfl, caches, current, list,
        congrArg State.endSecond swept⟩
      exact Evolves.deadlines.keeps_slots (by rwa [State.beginSecond_store])
    · rw [works] at hc
      split at hc
      · exact Bool.eq_false_iff.mpr (fun h => Bool.eq_false_iff.mp (lapsed c (kept c hc h)) h)
      · exact lapsed c hc
    · rw [works] at hl
      split at hl
      · exact due l ((State.minuteSweep_minibar _) ▸ hl)
      · exact due l hl

end Sys2Proof.Machine

/-! PROOF of O34. Stock, sessions and charge lines at a minibar's items, and the commits of lines (08:R149 to R158, R160). -/

namespace Sys2Proof.Machine

open Sys2Proof

/-! ### A state ready to bill -/

/-- What a change of stock and its records keep of a state: everything that a charge looks at. -/
structure Readied (s t : State) (rs : List (Nat × Entry)) : Prop where
  time : t.time = s.time
  minibar : t.minibar = s.minibar
  journal : t.journal = s.journal.pushAll rs
  enrolled : t.enrolled = s.enrolled
  settings : t.settings = s.settings

section Readied
variable {s t u : State} {rs es : List (Nat × Entry)}

theorem Readied.append (r : Readied s t rs) (e : Entry) (clock : e.secs = none) : Readied s (t.append e) (rs ++ [(s.now, e)]) where
  time := (State.append_time _ _).trans r.time
  minibar := (State.append_minibar _ _).trans r.minibar
  journal := by
    rw [State.append_journal, clock, r.journal, Journal.pushAll_append, State.now_eq r.time]
    rfl
  enrolled := (State.append_enrolled _ _).trans r.enrolled
  settings := by rw [State.settings, State.append_loader]; exact r.settings

theorem Readied.now (r : Readied s t rs) : t.now = s.now := State.now_eq r.time

theorem Readied.folio? (r : Readied s t rs) (p : Nat) : t.folio? p = s.folio? p := by
  rw [State.folio?, r.minibar]
  rfl

theorem Readied.lineFor? (r : Readied s t rs) (a c : Nat) : t.lineFor? a c = s.lineFor? a c := by
  rw [State.lineFor?, r.minibar]
  rfl

theorem Readied.folioHeld (r : Readied s t rs) (p : Nat) : t.folioHeld p = s.folioHeld p := by
  rw [State.folioHeld, r.folio?]
  rfl

theorem Readied.openFolio? (r : Readied s t rs) (entry : Option Nat) : t.openFolio? entry = s.openFolio? entry := by
  simp only [State.openFolio?, r.folio?]

end Readied

/-! ### What a charge leaves -/

/-- A folio after a charge, the pool, the other folios and the records, FOLIO_HELD where the folio has become held. -/
structure Billed (p : Nat) (pool : List ChargeLine) (folio : Option Folio) (others : Nat → Option Folio)
    (rs : List (Nat × Entry)) (s u : State) : Prop where
  pool : u.minibar.pool = pool
  folio : u.folio? p = folio
  others : ∀ q, q ≠ p → u.folio? q = others q
  journal : u.journal = s.journal.pushAll (rs ++ s.heldRecords u p)

section Billing
variable {s t v : State} {rs es : List (Nat × Entry)} {p a c n price item : Nat} {l : ChargeLine}

theorem State.folio?_congr {s t : State} (h : t.minibar = s.minibar) (p : Nat) : t.folio? p = s.folio? p := by
  rw [State.folio?, h]
  rfl

theorem Billed.of_judged (now : v.now = s.now) (enrolled : v.enrolled = s.enrolled) (journal : v.journal = s.journal.pushAll rs) :
    Billed p v.minibar.pool (v.folio? p) v.folio? rs s (v.judgeHeld p (s.folioHeld p)) := by
  have minibar := v.judgeHeld_minibar p (s.folioHeld p)
  have folio := State.folio?_congr minibar
  refine ⟨by rw [minibar], folio p, fun q _ => folio q, ?_⟩
  have records := State.judgeHeld_journal s v p now enrolled
  rw [journal, ← Journal.pushAll_append] at records
  have same : s.heldRecords v p = s.heldRecords (v.judgeHeld p (s.folioHeld p)) p := by
    simp only [State.heldRecords, folio]
  rw [← same]
  exact records

theorem State.heldRecords_of {f g : Folio} (before : s.folio? p = some f) (after : v.folio? p = some g) : s.heldRecords v p =
    if (f.isOpen = true → f.balance + f.pendingTotal < f.ceiling) ∧ g.isOpen = true ∧ g.ceiling ≤ g.balance + g.pendingTotal then
      [(s.now, { kind := .folioHeld, point := some p, node := (s.roomNode? p).map Node.addr,
                 amount := some (min 9999999 (g.balance + g.pendingTotal)) })]
    else [] := by
  simp only [State.heldRecords, before, after, Option.any_some]
  refine if_congr ?_ rfl rfl
  simp only [Bool.and_eq_true, decide_eq_true_eq, Bool.not_eq_true', Bool.and_eq_false_iff, decide_eq_false_iff_not, Nat.not_le]
  cases f.isOpen <;> simp [and_comm]

/-- The compartment's line rises (08:R152). -/
theorem Readied.charge_line (r : Readied s t es) (line : s.lineFor? a c = some l) (folio : l.folio = p) :
    let m : ChargeLine := { l with count := min 15 (l.count + n), amount := price * min 15 (l.count + n) }
    Billed p (s.minibar.pool.map (fun x => if x.node = a ∧ x.comp = c then m else x))
      ((s.folio? p).map (fun f => { f with pendingTotal := f.pendingTotal + m.amount - l.amount })) s.folio? es s
      (t.charge p a c n price item) := by
  intro m
  obtain ⟨-, rfl, rfl⟩ := lineFor?_mem line
  subst folio
  have billed := Billed.of_judged (p := l.folio) (v := t.setLine l m) (s := s) (rs := es) r.now r.enrolled r.journal
  rw [State.charge_eq, r.lineFor?, line, r.folioHeld]
  refine ⟨billed.pool.trans ?_, billed.folio.trans ?_, fun q ne => (billed.others q ne).trans ?_, billed.journal⟩
  · rw [State.setLine, State.modFolio_minibar, ← r.minibar]
    simp [State.setPool, ChargeLine.names]
  · refine (State.modFolio_folio? (t.setPool _) l.folio (fun f => { f with pendingTotal := f.pendingTotal + m.amount - l.amount })
      (fun _ => rfl)).trans ?_
    rw [← r.folio?]
    rfl
  · refine (State.modFolio_folio?_ne (t.setPool _) (fun f => { f with pendingTotal := f.pendingTotal + m.amount - l.amount })
      (fun _ => rfl) ne).trans ?_
    rw [← r.folio?]
    rfl

/-- The line of a removal with no line yet (08:R152). -/
def State.freshLine (s : State) (p a c n price item : Nat) : ChargeLine :=
  ⟨p, a, c, item, min 15 n, price * min 15 n, s.now, s.now + s.settings.returnWindow⟩

theorem Readied.freshLine (r : Readied s t es) : t.freshLine p a c n price item = s.freshLine p a c n price item := by
  rw [State.freshLine, r.now, r.settings]
  rfl

theorem State.chargeNow_journal (s : State) (l : ChargeLine) : (s.chargeNow l).journal = s.journal.pushAll (s.chargeRecords [l]) :=
  State.append_journal _ _

/-- With a return window of 0 the balance rises at once. -/
theorem Readied.charge_now (r : Readied s t es) (none : s.lineFor? a c = none) (window : s.settings.returnWindow = 0) :
    let l := s.freshLine p a c n price item
    Billed p s.minibar.pool ((s.folio? p).map (fun f => { f with balance := min 9999999 (f.balance + l.amount) })) s.folio?
      (es ++ s.chargeRecords [l]) s (t.charge p a c n price item) := by
  intro l
  have billed := Billed.of_judged (p := p) (v := t.chargeNow l) (s := s) (rs := es ++ s.chargeRecords [l])
    ((State.now_eq (State.append_time _ _)).trans r.now) ((State.append_enrolled _ _).trans r.enrolled) (by
      rw [State.chargeNow_journal, r.journal, Journal.pushAll_append, State.chargeRecords_congr r.now r.enrolled])
  have minibar : (t.chargeNow l).minibar = (s.modFolio p (Folio.charged l.amount)).minibar := by
    rw [State.chargeNow, State.append_minibar, State.modFolio_minibar, r.minibar]
    rfl
  have charges : t.charge p a c n price item = (t.chargeNow l).judgeHeld p (s.folioHeld p) := by
    rw [State.charge_eq, r.lineFor?, none, r.folioHeld]
    exact (if_pos (r.settings ▸ window)).trans (congrArg (fun l => (t.chargeNow l).judgeHeld p (s.folioHeld p)) r.freshLine)
  rw [charges]
  refine ⟨billed.pool.trans (by rw [minibar]; rfl), billed.folio.trans ?_, fun q ne => (billed.others q ne).trans ?_, billed.journal⟩
  · exact (State.folio?_congr minibar p).trans (State.modFolio_folio? s p (Folio.charged l.amount) (fun _ => rfl))
  · exact (State.folio?_congr minibar q).trans (s.modFolio_folio?_ne (Folio.charged l.amount) (fun _ => rfl) ne)

/-- Else a new line joins the tail of the pool that `w` holds once there is room. -/
theorem Readied.charge_joins (r : Readied s t es) (none : s.lineFor? a c = none) (window : s.settings.returnWindow ≠ 0) {w : State}
    (minibar : t.makeLineRoom.minibar = w.minibar) (journal : t.makeLineRoom.journal = s.journal.pushAll rs) :
    let l := s.freshLine p a c n price item
    Billed p (w.minibar.pool ++ [l]) ((w.folio? p).map (fun f => { f with pendingTotal := f.pendingTotal + l.amount })) w.folio? rs s
      (t.charge p a c n price item) := by
  intro l
  let joined := (t.makeLineRoom.setPool (t.makeLineRoom.minibar.pool ++ [l])).modFolio p (fun f => { f with pendingTotal := f.pendingTotal + l.amount })
  have kept : t.makeLineRoom.time = t.time ∧ t.makeLineRoom.enrolled = t.enrolled := by
    obtain ⟨eq, -⟩ | ⟨h, -, eq⟩ := t.makeLineRoom_cases
    · rw [eq]
      exact ⟨rfl, rfl⟩
    · rw [eq]
      exact ⟨by simp, by simp [State.enrolled]⟩
  have billed := Billed.of_judged (p := p) (v := joined) (s := s) (rs := rs)
    ((State.now_eq kept.1).trans r.now) (kept.2.trans r.enrolled) journal
  have after : joined.minibar = ((w.setPool (w.minibar.pool ++ [l])).modFolio p (fun f => { f with pendingTotal := f.pendingTotal + l.amount })).minibar := by
    simp only [joined, State.modFolio_minibar, State.setPool, minibar]
  have charges : t.charge p a c n price item = joined.judgeHeld p (s.folioHeld p) := by
    rw [State.charge_eq, r.lineFor?, none, r.folioHeld]
    exact (if_neg (r.settings ▸ window)).trans (by simp only [joined, l, ← r.freshLine]; rfl)
  rw [charges]
  refine ⟨billed.pool.trans (by rw [after]; rfl), billed.folio.trans ?_, fun q ne => (billed.others q ne).trans ?_, billed.journal⟩
  · exact (State.folio?_congr after p).trans
      (State.modFolio_folio? (w.setPool _) p (fun f => { f with pendingTotal := f.pendingTotal + l.amount }) (fun _ => rfl))
  · exact (State.folio?_congr after q).trans
      ((w.setPool _).modFolio_folio?_ne (fun f => { f with pendingTotal := f.pendingTotal + l.amount }) (fun _ => rfl) ne)

theorem Readied.room (r : Readied s t es) (room : s.minibar.pool.length < 64) :
    t.makeLineRoom.minibar = s.minibar ∧ t.makeLineRoom.journal = s.journal.pushAll es := by
  have same : t.makeLineRoom = t := by
    unfold State.makeLineRoom
    split
    · exact if_neg (by rw [r.minibar]; omega)
    · rfl
  rw [same]
  exact ⟨r.minibar, r.journal⟩

/-- A full pool loses its head, committed. -/
theorem Readied.full (r : Readied s t es) {h : ChargeLine} (head : s.minibar.pool.head? = some h) (full : 64 ≤ s.minibar.pool.length) :
    t.makeLineRoom.minibar = (s.commitLine h).minibar ∧ t.makeLineRoom.journal = s.journal.pushAll (es ++ s.chargeRecords [h]) := by
  have commits : t.makeLineRoom = t.commitLine h := by
    obtain ⟨tail, pool⟩ := List.head?_eq_some_iff.mp head
    rw [← r.minibar] at pool full
    unfold State.makeLineRoom
    rw [pool]
    exact if_pos (pool ▸ full)
  rw [commits, State.commitLine_journal, r.journal, Journal.pushAll_append, State.chargeRecords_congr r.now r.enrolled]
  refine ⟨?_, rfl⟩
  simp only [State.commitLine, State.append_minibar, State.modFolio_minibar, State.setPool, r.minibar]

/-! ### Returns (08:R153) -/

theorem Readied.giveBack_none (r : Readied s t es) (none : s.lineFor? a c = none) (cred : Option Nat) :
    let u := t.giveBack a c n price cred
    u.minibar = s.minibar ∧ u.journal = s.journal.pushAll (es ++ [(s.now,
      { kind := .returnAfterCommit, node := some a, point := s.pointOf a, cred := cred, value1 := some c, value2 := some n })]) := by
  have appends : t.giveBack a c n price cred = t.append
      { kind := .returnAfterCommit, node := some a, point := t.pointOf a, cred := cred, value1 := some c, value2 := some n } := by
    rw [State.giveBack, r.lineFor?, none]
  rw [appends, State.pointOf_congr r.enrolled]
  exact ⟨(r.append _ rfl).minibar, (r.append _ rfl).journal⟩

/-- A line that all of is returned leaves the pool. -/
theorem Readied.giveBack_all (r : Readied s t es) (line : s.lineFor? a c = some l) (all : l.count ≤ n) (cred : Option Nat) :
    let u := t.giveBack a c n price cred
    u.minibar.pool = s.minibar.pool.filter (fun x => !(x.node == a && x.comp == c)) ∧
    u.folio? l.folio = (s.folio? l.folio).map (fun f => { f with pendingTotal := f.pendingTotal - l.amount }) ∧
    (∀ q, q ≠ l.folio → u.folio? q = s.folio? q) ∧ u.journal = s.journal.pushAll es := by
  intro u
  obtain ⟨-, rfl, rfl⟩ := lineFor?_mem line
  have cancels : u = t.cancelLine l := by
    show t.giveBack l.node l.comp n price cred = _
    rw [State.giveBack, r.lineFor?, line]
    exact if_pos all
  rw [cancels]
  refine ⟨?_, ?_, fun q ne => ?_, r.journal⟩
  · rw [← r.minibar]
    rfl
  · rw [← r.folio?]
    exact State.modFolio_folio? (t.setPool _) l.folio (fun f => { f with pendingTotal := f.pendingTotal - l.amount }) (fun _ => rfl)
  · rw [← r.folio?]
    exact (t.setPool _).modFolio_folio?_ne (fun f => { f with pendingTotal := f.pendingTotal - l.amount }) (fun _ => rfl) ne

/-- A line that some of is returned falls. -/
theorem Readied.giveBack_some (r : Readied s t es) (line : s.lineFor? a c = some l) (some : n < l.count) (cred : Option Nat) :
    let u := t.giveBack a c n price cred
    let m : ChargeLine := { l with count := l.count - n, amount := price * (l.count - n) }
    u.minibar.pool = s.minibar.pool.map (fun x => if x.node = a ∧ x.comp = c then m else x) ∧
    u.folio? l.folio = (s.folio? l.folio).map (fun f => { f with pendingTotal := f.pendingTotal + m.amount - l.amount }) ∧
    (∀ q, q ≠ l.folio → u.folio? q = s.folio? q) ∧ u.journal = s.journal.pushAll es := by
  intro u m
  obtain ⟨-, rfl, rfl⟩ := lineFor?_mem line
  have sets : u = t.setLine l m := by
    show t.giveBack l.node l.comp n price cred = _
    rw [State.giveBack, r.lineFor?, line]
    exact if_neg (Nat.not_le.mpr some)
  rw [sets]
  refine ⟨?_, ?_, fun q ne => ?_, r.journal⟩
  · rw [State.setLine, State.modFolio_minibar, ← r.minibar]
    simp [State.setPool, ChargeLine.names]
  · rw [← r.folio?]
    exact State.modFolio_folio? (t.setPool _) l.folio (fun f => { f with pendingTotal := f.pendingTotal + m.amount - l.amount })
      (fun _ => rfl)
  · rw [← r.folio?]
    exact (t.setPool _).modFolio_folio?_ne (fun f => { f with pendingTotal := f.pendingTotal + m.amount - l.amount }) (fun _ => rfl) ne

end Billing

/-! ### Stock (08:R151) -/

/-- The STOCK_ANOMALY record of a clamp. -/
def anomalyRecords (s : State) (n : Node) (c : Nat) (clamped : Bool) : List (Nat × Entry) :=
  if clamped then [(s.now, { kind := .stockAnomaly, node := some n.addr, point := some n.enrol.point, value1 := some c })] else []

/-- A node with the stock of one compartment changed, a clamp recorded. -/
def State.restocked (n : Node) (c stock : Nat) (clamped : Bool) (s : State) : State :=
  if clamped then (s.modNode n.addr (Node.setStock c stock)).stockAnomaly n.addr c else s.modNode n.addr (Node.setStock c stock)

section Stock
variable {s : State} {n : Node} {c k : Nat} {box : Compartment}

theorem State.stockFall_eq (hb : n.comps[c - 1]? = some box) (s : State) (k : Nat) :
    s.stockFall n c k = s.restocked n c (box.stock - k) (decide (box.stock < k)) := by
  have comp : n.comp c = box := by simp [Node.comp, List.getD, hb]
  simp [State.stockFall, State.restocked, comp]

theorem State.stockRise_eq (hb : n.comps[c - 1]? = some box) (s : State) (k : Nat) :
    s.stockRise n c k = s.restocked n c (min box.capacity (box.stock + k)) (decide (box.capacity < box.stock + k)) := by
  have comp : n.comp c = box := by simp [Node.comp, List.getD, hb]
  simp [State.stockRise, State.restocked, comp]

theorem State.restocked_nodes (s : State) (n : Node) (c stock : Nat) (b : Bool) :
    (s.restocked n c stock b).nodes = (s.modNode n.addr (Node.setStock c stock)).nodes := by
  unfold State.restocked
  split
  · exact State.append_nodes _ _
  · rfl

theorem State.restocked_readied (hn : s.node? n.addr = some n) (c stock : Nat) (b : Bool) :
    Readied s (s.restocked n c stock b) (anomalyRecords s n c b) := by
  have enrolled := s.enrolled_modNode n.addr (Node.setStock c stock) (fun _ => ⟨rfl, rfl⟩)
  have first : Readied s (s.modNode n.addr (Node.setStock c stock)) [] := ⟨rfl, rfl, rfl, enrolled, rfl⟩
  have point : (s.modNode n.addr (Node.setStock c stock)).pointOf n.addr = some n.enrol.point := by
    rw [State.pointOf_congr enrolled, State.pointOf, hn]
    rfl
  unfold State.restocked anomalyRecords
  split
  · rw [State.stockAnomaly, point]
    exact first.append _ rfl
  · exact first

theorem State.restocked_node (hn : s.node? n.addr = some n) (hb : n.comps[c - 1]? = some box) (stock : Nat) (b : Bool) :
    (s.restocked n c stock b).node? n.addr = some { n with comps := n.comps.set (c - 1) { box with stock := stock } } ∧
    ∀ x, x ≠ n.addr → (s.restocked n c stock b).node? x = s.node? x := by
  have nodes : ∀ x, (s.restocked n c stock b).node? x = (s.modNode n.addr (Node.setStock c stock)).node? x := fun x => by
    rw [State.node?, State.restocked_nodes]
    rfl
  refine ⟨?_, fun x ne => (nodes x).trans (State.modNode_node?_ne _ (Node.setStock c stock) (fun _ => rfl) ne)⟩
  rw [nodes, State.modNode_node? _ _ (Node.setStock c stock) (fun _ => rfl), hn]
  simp [Node.setStock, List.modify_eq_set_getElem?, hb]

/-- A table that holds the node with the stock changed, and every other node as it was. -/
theorem State.restocked_table (hn : s.node? n.addr = some n) (hb : n.comps[c - 1]? = some box) {u : State} {stock : Nat} {b : Bool}
    (nodes : u.nodes = (s.restocked n c stock b).nodes) :
    u.node? n.addr = some { n with comps := n.comps.set (c - 1) { box with stock := stock } } ∧ ∀ x, x ≠ n.addr → u.node? x = s.node? x := by
  have same (x : Nat) : u.node? x = (s.restocked n c stock b).node? x := by
    rw [State.node?, nodes]
    rfl
  obtain ⟨here, others⟩ := State.restocked_node hn hb stock b
  exact ⟨(same _).trans here, fun x ne => (same x).trans (others x ne)⟩

end Stock

/-! ### Items and sessions -/

section Items
variable {s t : State} {n : Node} {a : Nat} {c k : Byte} {es : List (Nat × Entry)}

theorem Node.takesComp_iff (n : Node) (c : Nat) :
    n.takesComp c = true ↔ n.enrol.cls = .minibar ∧ 1 ≤ c ∧ c ≤ n.enrol.comps.getD 0 := by
  simp [Node.takesComp, and_assoc]

theorem State.item_removed_idle (hn : s.node? a = some n) (no : ¬ (n.takesComp c.toNat = true ∧ k ≠ 0)) : s.item a (.removed c k) = s := by
  simp only [State.item, hn]
  exact if_neg no

theorem State.item_returned_idle (hn : s.node? a = some n) (no : ¬ (n.takesComp c.toNat = true ∧ k ≠ 0)) : s.item a (.returned c k) = s := by
  simp only [State.item, hn]
  exact if_neg no

theorem State.item_removed (hn : s.node? a = some n) (on : n.takesComp c.toNat = true) (some : k ≠ 0) :
    s.item a (.removed c k) = s.removedItem n c.toNat k.toNat := by
  simp only [State.item, hn]
  exact if_pos ⟨on, some⟩

theorem State.item_returned (hn : s.node? a = some n) (on : n.takesComp c.toNat = true) (some : k ≠ 0) :
    s.item a (.returned c k) = s.returnedItem n c.toNat k.toNat := by
  simp only [State.item, hn]
  exact if_pos ⟨on, some⟩

theorem State.item_closed (hn : s.node? a = some n) :
    s.item a .minibarClosed = if n.enrol.cls = .minibar then s.modNode a Node.endSession else s := by
  simp only [State.item, hn]

/-- The folio that a removal charges (08:R152, R154, R155). -/
def State.payer (s : State) (n : Node) : Option Nat :=
  match n.session with
  | some x => if x.mode = .guest then x.folio else none
  | none => n.enrol.entry.bind (fun p => if (s.folio? p).any (fun f => f.isOpen) then some p else none)

/-- The state of a removal ahead of its charge: stock, and outside a session UNATTENDED_REMOVAL. -/
def State.unstocked (n : Node) (c k : Nat) (s : State) : State :=
  if n.session.isNone then (s.stockFall n c k).append
    { kind := .unattendedRemoval, node := some n.addr, point := (s.stockFall n c k).pointOf n.addr, value1 := some c, value2 := some k }
  else s.stockFall n c k

theorem State.unstocked_readied (hn : s.node? n.addr = some n) {box : Compartment} {c : Nat} (hb : n.comps[c - 1]? = some box) (k : Nat) :
    Readied s (s.unstocked n c k) (anomalyRecords s n c (decide (box.stock < k)) ++ if n.session.isNone then
      [(s.now, { kind := .unattendedRemoval, node := some n.addr, point := some n.enrol.point, value1 := some c, value2 := some k })]
      else []) := by
  have first := State.restocked_readied hn c (box.stock - k) (decide (box.stock < k))
  rw [← State.stockFall_eq hb] at first
  have point : (s.stockFall n c k).pointOf n.addr = some n.enrol.point := by
    rw [State.pointOf_congr first.enrolled, State.pointOf, hn]
    rfl
  unfold State.unstocked
  split
  · rw [point]
    exact first.append _ rfl
  · rw [List.append_nil]
    exact first

theorem State.unstocked_nodes (s : State) (n : Node) (c k : Nat) : (s.unstocked n c k).nodes = (s.stockFall n c k).nodes := by
  unfold State.unstocked
  split
  · exact State.append_nodes _ _
  · rfl

theorem State.removedItem_eq (r : Readied s (s.unstocked n c.toNat k.toNat) es) : s.removedItem n c.toNat k.toNat =
    match s.payer n with
    | some p => (s.unstocked n c.toNat k.toNat).charge p n.addr c.toNat k.toNat (n.comp c.toNat).price (n.comp c.toNat).item
    | none => s.unstocked n c.toNat k.toNat := by
  have opens := r.openFolio? n.enrol.entry
  unfold State.removedItem State.payer
  cases hs : n.session with
  | some x =>
    have stands : s.unstocked n c.toNat k.toNat = s.stockFall n c.toNat k.toNat := by simp [State.unstocked, hs]
    dsimp only
    rw [stands]
    cases hm : x.mode with
    | restock => rfl
    | guest => cases hf : x.folio <;> rfl
  | none =>
    have noted : s.unstocked n c.toNat k.toNat = _ := if_pos (by rw [hs]; rfl)
    rw [noted] at opens ⊢
    dsimp only
    rw [opens]
    rfl

theorem State.removedItem_nodes_of (n : Node) (c k : Nat) (s : State) : (s.removedItem n c k).nodes = (s.stockFall n c k).nodes := by
  unfold State.removedItem
  dsimp only
  split
  · split
    · exact State.charge_nodes ..
    · rfl
  · split
    · exact (State.charge_nodes ..).trans (State.append_nodes _ _)
    · exact State.append_nodes _ _

theorem State.returnedItem_nodes_of (n : Node) (c k : Nat) (s : State) : (s.returnedItem n c k).nodes = (s.stockRise n c k).nodes := by
  unfold State.returnedItem
  dsimp only
  split
  · split
    · exact State.giveBack_nodes ..
    · rfl
  · exact State.giveBack_nodes ..

/-- Outside a RESTOCK session a return gives back to the compartment's line. -/
theorem State.returnedItem_gives {box : Compartment} {c k : Nat} (boxed : n.comp c = box) (guest : ∀ x, n.session = some x → x.mode = .guest) :
    s.returnedItem n c k = (s.stockRise n c k).giveBack n.addr c k box.price (n.session.map (·.cred)) := by
  subst boxed
  unfold State.returnedItem
  cases hs : n.session with
  | none => rfl
  | some x =>
    simp only [guest x hs]
    rfl

end Items

/-- Settles O34: each row by its own lemma, a removal by the folio that pays and by the line and the room it finds. -/
theorem minibarItemsAndCommitsMoveStockAndLines : Obligations.MinibarItemsAndCommitsMoveStockAndLines := by
  refine ⟨?_, ?_, ?_, ?_⟩
  · intro l f s held t
    refine ⟨s.commitLine_pool l, ?_, fun p ne => ?_, s.commitLine_journal l, (Charged.commitLine s l).noticed.notices,
      (Charged.commitLine s l).rest⟩
    · rw [State.commitLine_folio?, if_pos rfl, held]
      rfl
    · rw [State.commitLine_folio?, if_neg ne]
  · intro a c k n s hn
    have idle (no : ¬ (n.takesComp c.toNat = true ∧ k ≠ 0)) : s.item a (.removed c k) = s ∧ s.item a (.returned c k) = s :=
      ⟨State.item_removed_idle hn no, State.item_returned_idle hn no⟩
    refine ⟨fun other => ?_, fun none => idle ?_, fun cls => ?_⟩
    · obtain ⟨removed, returned⟩ := idle (fun h => other ((n.takesComp_iff _).mp h.1).1)
      exact ⟨removed, returned, (State.item_closed hn).trans (if_neg other)⟩
    · rw [Node.takesComp_iff]
      rintro ⟨⟨-, lo, hi⟩, some⟩
      have zero : k.toNat ≠ 0 := fun h => some (BitVec.eq_of_toNat_eq h)
      omega
    · rw [State.item_closed hn, if_pos cls]
      refine ⟨?_, fun b ne => State.modNode_node?_ne _ Node.endSession (fun _ => rfl) ne, rfl⟩
      rw [State.modNode_node? _ _ Node.endSession (fun _ => rfl), hn]
      rfl
  · intro a c k n box s hn cls comps lo hb some entry counted anomaly stocked held
    obtain ⟨rfl, -⟩ := findKey_some Node.addr hn
    have hi := (List.getElem?_eq_some_iff.mp hb).1
    have on : n.takesComp c.toNat = true := (n.takesComp_iff _).mpr ⟨cls, lo, by rw [comps]; simp; omega⟩
    have carried : k ≠ 0 := fun h => some (by rw [h]; rfl)
    have boxed : n.comp c.toNat = box := by simp [Node.comp, List.getD, hb]
    have point : s.pointOf n.addr = Option.some n.enrol.point := by rw [State.pointOf, hn]; rfl
    have heldIs {p : Nat} {u : State} {f g : Folio} (hf : s.folio? p = Option.some f) (hg : u.folio? p = Option.some g) :
        held p u = s.heldRecords u p := by
      simp only [held, hf, hg]
      exact (State.heldRecords_of hf hg).symm
    have readied := State.unstocked_readied hn hb k.toNat
    refine ⟨?_, ?_⟩
    · intro u es entryFolio payer fresh
      have removed : u = s.removedItem n c.toNat k.toNat := State.item_removed hn on carried
      have acts := State.removedItem_eq readied
      rw [← removed, boxed] at acts
      have pays : s.payer n = payer := rfl
      rw [pays] at acts
      refine ⟨?_, fun none => ?_, fun p f pay hf => ?_⟩
      · have nodes : u.nodes = (s.restocked n c.toNat (box.stock - k.toNat) (decide (box.stock < k.toNat))).nodes := by
          rw [removed, State.removedItem_nodes_of, State.stockFall_eq hb]
        obtain ⟨here, others⟩ := State.restocked_table hn hb nodes
        refine ⟨here, others, ?_, ?_⟩
        · rw [removed]
          exact Evolves.notices (.removedItem hn c.toNat k.toNat)
        · rw [removed]
          exact State.eq_of_fields
      · rw [none] at acts
        rw [acts]
        exact ⟨readied.minibar, readied.journal⟩
      · rw [pay] at acts
        rw [acts]
        refine ⟨fun l line payee => ?_, fun none window => ?_, fun none window room => ?_, fun h none window full head => ?_⟩
        · obtain ⟨pool, folio, others, journal⟩ := readied.charge_line (n := k.toNat) (price := box.price) (item := box.item) line payee
          rw [hf] at folio
          exact ⟨pool, folio, others, journal.trans (by rw [← heldIs hf folio]; rfl)⟩
        · obtain ⟨pool, folio, others, journal⟩ := readied.charge_now (p := p) (n := k.toNat) (price := box.price) (item := box.item) none window
          rw [hf] at folio
          refine ⟨pool, folio, others, journal.trans ?_⟩
          have charged : s.chargeRecords [fresh p] = [(s.now,
              { (entry .minibarCharge).2 with amount := Option.some (fresh p).amount, value2 := Option.some (fresh p).count })] := by
            simp [State.chargeRecords, fresh, entry, point]
          rw [← heldIs hf folio, ← charged]
          rfl
        · obtain ⟨minibar, journal⟩ := readied.room room
          obtain ⟨pool, folio, others, records⟩ := readied.charge_joins (p := p) (n := k.toNat) (price := box.price) (item := box.item)
            none window minibar journal
          rw [hf] at folio
          exact ⟨pool, folio, others, records.trans (by rw [← heldIs hf folio]; rfl)⟩
        · obtain ⟨minibar, journal⟩ := readied.full head full
          obtain ⟨pool, folio, others, records⟩ := readied.charge_joins (p := p) (n := k.toNat) (price := box.price) (item := box.item)
            none window minibar journal
          refine ⟨pool, folio, others, records.trans ?_⟩
          obtain ⟨g, hg⟩ : ∃ g, (s.commitLine h).folio? p = Option.some g := by
            rw [State.commitLine_folio?, hf]
            split <;> exact ⟨_, rfl⟩
          rw [hg] at folio
          rw [← heldIs hf folio]
          rfl
    · intro u es
      have returned : u = s.returnedItem n c.toNat k.toNat := State.item_returned hn on carried
      have stock := State.stockRise_eq hb s k.toNat
      have readied := State.restocked_readied hn c.toNat (min box.capacity (box.stock + k.toNat)) (decide (box.capacity < box.stock + k.toNat))
      refine ⟨?_, fun x session restock => ?_, fun guest => ⟨fun none => ?_, fun l f line hf => ?_⟩⟩
      · have nodes : u.nodes = (s.restocked n c.toNat (min box.capacity (box.stock + k.toNat)) (decide (box.capacity < box.stock + k.toNat))).nodes := by
          rw [returned, State.returnedItem_nodes_of, stock]
        obtain ⟨here, others⟩ := State.restocked_table hn hb nodes
        refine ⟨here, others, ?_, ?_⟩
        · rw [returned]
          exact Evolves.notices (.returnedItem n c.toNat k.toNat)
        · rw [returned]
          exact State.eq_of_fields
      · have acts : u = s.stockRise n c.toNat k.toNat := by
          rw [returned, State.returnedItem, session]
          simp only [restock]
        rw [acts, stock]
        exact ⟨readied.minibar, readied.journal⟩
      all_goals
        have acts : u = (s.stockRise n c.toNat k.toNat).giveBack n.addr c.toNat k.toNat box.price (n.session.map (·.cred)) := by
          rw [returned]
          exact State.returnedItem_gives boxed guest
        rw [acts, stock]
      · obtain ⟨minibar, journal⟩ := readied.giveBack_none (n := k.toNat) (price := box.price) none (n.session.map (·.cred))
        rw [point] at journal
        exact ⟨minibar, journal⟩
      · obtain some | all := Nat.lt_or_ge k.toNat l.count
        · obtain ⟨pool, folio, others, journal⟩ := readied.giveBack_some (price := box.price) line some (n.session.map (·.cred))
          rw [hf] at folio
          exact ⟨journal, others, fun more => absurd some (Nat.not_lt.mpr more), fun _ => ⟨pool, folio⟩⟩
        · obtain ⟨pool, folio, others, journal⟩ := readied.giveBack_all (price := box.price) line all (n.session.map (·.cred))
          rw [hf] at folio
          exact ⟨journal, others, fun _ => ⟨pool, folio⟩, fun less => absurd all (Nat.not_le.mpr less)⟩
  · intro a cred n s hn opens
    have sets {mode : SessionMode} {x : Option Session} (eq : s.openSession a mode cred = s.modNode a (fun m => { m with session := x })) :
        opens mode x := by
      refine ⟨?_, fun b ne => ?_, ?_⟩
      · rw [eq, State.modNode_node? _ _ (fun m => { m with session := x }) (fun _ => rfl), hn]
        rfl
      · rw [eq, State.modNode_node?_ne _ (fun m => { m with session := x }) (fun _ => rfl) ne]
      · rw [eq]
        rfl
    refine ⟨sets ?_, fun p entry isOpen => sets ?_, fun closed => sets ?_⟩
    · simp only [State.openSession, hn]
    · simp only [State.openSession, hn, State.openFolio?, entry, Option.bind_some, isOpen, if_true]
    · have none : s.openFolio? n.enrol.entry = Option.none := by
        cases entry : n.enrol.entry with
        | none => rfl
        | some p => simp [State.openFolio?, closed p entry]
      simp only [State.openSession, hn, none]
      rfl

end Sys2Proof.Machine

/-! PROOF of O25. Banks judged and the bank taken (11:R194, R195). -/

namespace Sys2Proof.Machine

open Sys2Proof

/-! ### The bank taken -/

section Choice
variable {b1 b2 : Option (List Byte)} {l1 l2 : Loaded} {c c1 c2 : Cause}

theorem chooseBank_none (first : judgeBank b1 = .error c1) (second : judgeBank b2 = .error c2) : chooseBank b1 b2 = none := by
  simp only [chooseBank, first, second]

theorem chooseBank_first (first : judgeBank b1 = .ok l1) (second : judgeBank b2 = .error c) :
    chooseBank b1 b2 = some (⟨.first, bankCount b1⟩, l1) := by
  simp only [chooseBank, first, second]

theorem chooseBank_second (first : judgeBank b1 = .error c) (second : judgeBank b2 = .ok l2) :
    chooseBank b1 b2 = some (⟨.second, bankCount b2⟩, l2) := by
  simp only [chooseBank, first, second]

theorem chooseBank_newer (first : judgeBank b1 = .ok l1) (second : judgeBank b2 = .ok l2)
    (lo : 1 ≤ sub32 (bankCount b2) (bankCount b1)) (hi : sub32 (bankCount b2) (bankCount b1) < 2147483648) :
    chooseBank b1 b2 = some (⟨.second, bankCount b2⟩, l2) := by
  have newer : genBelow (bankCount b1) (bankCount b2) = true := by
    simp only [genBelow, Bool.and_eq_true, decide_eq_true_eq]
    omega
  simp only [chooseBank, first, second, newer, if_true]

theorem chooseBank_older (first : judgeBank b1 = .ok l1) (second : judgeBank b2 = .ok l2)
    (older : sub32 (bankCount b2) (bankCount b1) = 0 ∨ 2147483648 ≤ sub32 (bankCount b2) (bankCount b1)) :
    chooseBank b1 b2 = some (⟨.first, bankCount b1⟩, l1) := by
  have not : ¬ genBelow (bankCount b1) (bankCount b2) = true := by
    simp only [genBelow, Bool.and_eq_true, decide_eq_true_eq]
    omega
  simp only [chooseBank, first, second]
  exact if_neg not

/-- With no bank taken the part is UNCONFIGURED, the first bank's judgement its cause. -/
theorem State.loadComplete_none {s : State} (order : List StartActor) (first : judgeBank b1 = .error c1) (second : judgeBank b2 = .error c2) :
    s.loadComplete order b1 b2 = { s with
      part := .unconfigured
      loader := { s.loader with bank1 := b1, bank2 := b2, recent := none, cause := c1 } } := by
  simp only [State.loadComplete, chooseBank_none first second, unconfiguredCause, first]

end Choice

/-! ### A bank judged -/

/-- The fields that 16 bytes and what follows them hold. -/
theorem RawImage.of_bytes (img : List Byte) (long : 16 ≤ img.length) : ∃ i : RawImage, i.bytes = img := by
  match img, long with
  | a :: b :: c :: d :: e :: f :: g :: h :: i :: j :: k :: l :: m :: n :: o :: p :: rest, _ =>
    refine ⟨⟨BitVec.ofNat 16 (a.toNat + 256 * b.toNat), BitVec.ofNat 16 (c.toNat + 256 * d.toNat), BitVec.ofNat 16 (e.toNat + 256 * f.toNat),
      BitVec.ofNat 32 (g.toNat + 256 * h.toNat + 65536 * (i.toNat + 256 * j.toNat)),
      BitVec.ofNat 32 (k.toNat + 256 * l.toNat + 65536 * (m.toNat + 256 * n.toNat)),
      BitVec.ofNat 16 (o.toNat + 256 * p.toNat), rest⟩, ?_⟩
    rw [RawImage.bytes_eq, RawImage.start_eq]
    simp only [two_bytes, four_bytes, List.cons_append, List.nil_append]

section Judged
variable (i : RawImage)

theorem judgeBank_short {img : List Byte} (short : img.length < 16) : judgeBank (some img) = .error .format := by
  have bad : ¬ headerFormatOk img = true := by
    rw [headerFormatOk]
    simp [Nat.not_le.mpr short]
  exact if_pos (.inl bad)

/-- The format of a bank is good: header, length and layout (10 Table 10.14). -/
theorem RawImage.whole_iff : (i.FormatOk ∧ i.length.toNat ≤ i.rest.length ∧ bodyEndsWell i.length.toNat) ↔
    ¬ (¬ headerFormatOk i.bytes = true ∨ i.bytes.length < 16 + headerLength i.bytes ∨ ¬ layoutOk (headerLength i.bytes) = true) := by
  obtain ⟨length, -, -, header, -⟩ := i.read
  rw [i.judged.1, length, header, layout_iff]
  refine ⟨fun ⟨format, room, ends⟩ => ?_, fun h => ?_⟩
  · rintro (bad | short | bad)
    · exact bad format
    · omega
    · exact bad ends
  · rw [not_or, not_or, not_not, not_not] at h
    exact ⟨h.1, by omega, h.2.2⟩

theorem judgeBank_format (bad : ¬ (i.FormatOk ∧ i.length.toNat ≤ i.rest.length ∧ bodyEndsWell i.length.toNat)) :
    judgeBank (some i.bytes) = .error .format := by
  rw [i.whole_iff, not_not] at bad
  exact if_pos bad

theorem judgeBank_check (whole : i.FormatOk ∧ i.length.toNat ≤ i.rest.length ∧ bodyEndsWell i.length.toNat)
    (bad : ¬ (i.HeaderOk ∧ i.BodyOk)) : judgeBank (some i.bytes) = .error .check := by
  refine (if_neg (i.whole_iff.mp whole)).trans (if_pos ?_)
  rw [i.judged.2.1, i.judged.2.2.2]
  exact not_and_or.mp bad

/-- A bank that passes its checks is what its body gives. -/
theorem judgeBank_body (whole : i.FormatOk ∧ i.length.toNat ≤ i.rest.length ∧ bodyEndsWell i.length.toNat) (header : i.HeaderOk)
    (body : i.BodyOk) : (∀ l, loadBody i.body = some l → judgeBank (some i.bytes) = .ok l) ∧
      (loadBody i.body = none → judgeBank (some i.bytes) = .error .check) := by
  have passed : ¬ (¬ headerCheckOk i.bytes = true ∨ ¬ bodyCheckOk i.bytes = true) := by
    rw [i.judged.2.1, i.judged.2.2.2]
    exact not_or.mpr ⟨not_not.mpr header, not_not.mpr body⟩
  simp only [judgeBank, if_neg (i.whole_iff.mp whole), if_neg passed, i.judged.2.2.1]
  exact ⟨fun l h => by rw [h], fun h => by rw [h]⟩

theorem RawImage.body_length (room : i.length.toNat ≤ i.rest.length) : i.body.length = i.length.toNat := by
  simpa [RawImage.body] using room

end Judged

/-- Settles O25: the judgement by the first check that fails, the choice by the two judgements and counts. -/
theorem unusableBanksLeaveThePartUnconfigured : Obligations.UnusableBanksLeaveThePartUnconfigured := by
  refine ⟨fun b1 b2 c1 c2 s loading first second => ?_, fun b1 b2 l1 l2 c first => ⟨fun second =>
      ⟨chooseBank_first first second, chooseBank_second second first⟩, fun second equal => chooseBank_older first second (.inl equal),
      fun second lo hi => chooseBank_newer first second lo hi, fun second far => chooseBank_older first second (.inr far)⟩,
    rfl, fun img short => judgeBank_short short, RawImage.of_bytes, cutTo_exists, fun i => ?_⟩
  · show execLoadComplete b1 b2 s = _
    rw [execLoadComplete, loading]
    exact congrArg Host.Outcome.next (State.loadComplete_none s.startOrder first second)
  · refine ⟨judgeBank_format i, judgeBank_check i, fun b whole header body cut => ?_⟩
    obtain ⟨loads, fails⟩ := judgeBank_body i whole header body
    obtain ⟨bad, good⟩ := loadBody_of b i.body cut
    refine ⟨fun h => fails (bad h), fun h => ?_⟩
    obtain ⟨l, load, gives⟩ := good h
    exact ⟨l, loads l load, i.body_length whole.2.1 ▸ gives⟩

end Sys2Proof.Machine

/-! PROOF of O58. Admission: the first test that fails, and the acts of a decision (06:R112 to R123). -/

namespace Sys2Proof.Machine

open Sys2Proof

/-! ### The first of some tests -/

/-- `o` is the reason of the first test that holds, none where none does. -/
def FirstOf : List (Prop × Reason) → Option Reason → Prop
  | [], o => o = none
  | q :: rest, o => (q.1 → o = some q.2) ∧ (¬ q.1 → FirstOf rest o)

section FirstOf
variable {l m : List (Prop × Reason)} {o x : Option Reason} {p : Prop} {r : Reason}

theorem FirstOf.first (h : FirstOf l o) {passed : List (Prop × Reason)} {stage : Prop × Reason} {rest : List (Prop × Reason)}
    (split : l = passed ++ stage :: rest) (fails : ∀ q ∈ passed, ¬ q.1) (holds : stage.1) : o = some stage.2 := by
  subst split
  induction passed with
  | nil => exact h.1 holds
  | cons q qs ih => exact ih (fun y hy => fails y (by simp [hy])) (h.2 (fails q (by simp)))

theorem FirstOf.none (h : FirstOf l o) (fails : ∀ q ∈ l, ¬ q.1) : o = .none := by
  induction l with
  | nil => exact h
  | cons q qs ih => exact ih (h.2 (fails q (by simp))) (fun y hy => fails y (by simp [hy]))

theorem FirstOf.reason (h : FirstOf l (some r)) : ∃ q ∈ l, q.2 = r := by
  induction l with
  | nil => cases h
  | cons q qs ih =>
    by_cases holds : q.1
    · exact ⟨q, by simp, (Option.some.inj (h.1 holds)).symm⟩
    · obtain ⟨y, hy, eq⟩ := ih (h.2 holds)
      exact ⟨y, by simp [hy], eq⟩

theorem FirstOf.append (h : FirstOf l o) (g : FirstOf m x) : FirstOf (l ++ m) (o.or x) := by
  induction l with
  | nil =>
    cases h
    exact g
  | cons q qs ih => exact ⟨fun holds => by rw [h.1 holds]; rfl, fun fails => ih (h.2 fails)⟩

theorem FirstOf.single (holds : p → o = some r) (fails : ¬ p → o = .none) : FirstOf [(p, r)] o := ⟨holds, fails⟩

theorem firstFailure_cons (o : Option Reason) (os : List (Option Reason)) : firstFailure (o :: os) = o.or (firstFailure os) := by
  cases o <;> rfl

end FirstOf

/-! ### The stages (06:R113 to R122) -/

section Stages
variable {s : State} {c : Cred} {n : Node} {now : Nat}

theorem State.checkTest_iff (s : State) (c : Cred) (stay code : Nat) : s.checkTest c stay code = true ↔
    stay = (c.guest.map (·.stay)).getD 0 ∧
      (code = crc32 (c.body ++ s.settings.currentKey) ∨ code = crc32 (c.body ++ s.settings.previousKey)) := by
  simp only [State.checkTest, Bool.and_eq_true, Bool.or_eq_true, beq_iff_eq]
  exact Iff.rfl

/-- An identity stage that finds no card. -/
theorem State.identify_unknown {number serial stay code : Nat}
    (unknown : 767 < number ∨ ¬ ∃ c, s.cred? number = some c ∧ c.serial = serial) :
    s.identify number serial stay code = .error .unknownCard := by
  unfold State.identify
  by_cases high : 767 < number
  · exact if_pos high
  · rw [if_neg high]
    cases hc : s.cred? number with
    | none => rfl
    | some c => exact if_pos (fun same => unknown.resolve_left high ⟨c, hc, same⟩)

/-- One that finds the card. -/
theorem State.identify_known {number serial stay code : Nat} (low : number ≤ 767) (hc : s.cred? number = some c)
    (same : c.serial = serial) :
    s.identify number serial stay code = if s.checkTest c stay code then .ok c else .error .checkFailed := by
  unfold State.identify
  rw [if_neg (Nat.not_lt.mpr low), hc]
  exact if_neg (not_not.mpr same)

theorem State.identify_ok_iff {number serial stay code : Nat} : s.identify number serial stay code = .ok c ↔
    s.cred? number = some c ∧ number ≤ 767 ∧ c.serial = serial ∧ s.checkTest c stay code = true := by
  by_cases known : 767 < number ∨ ¬ ∃ c, s.cred? number = some c ∧ c.serial = serial
  · rw [State.identify_unknown known]
    refine ⟨fun h => (by cases h), fun ⟨hc, low, same, _⟩ => ?_⟩
    exact absurd ⟨c, hc, same⟩ (known.resolve_left (Nat.not_lt.mpr low))
  · rw [not_or, not_not] at known
    obtain ⟨low, d, hd, same⟩ := known
    rw [State.identify_known (Nat.not_lt.mp low) hd same]
    refine ⟨fun h => ?_, fun ⟨hc, _, _, test⟩ => ?_⟩
    · split at h
      · cases h
        exact ⟨hd, Nat.not_lt.mp low, same, ‹_›⟩
      · cases h
    · obtain rfl := Option.some.inj (hd.symm.trans hc)
      exact if_pos test

theorem stateStage_first (c : Cred) : FirstOf [((∃ lapse, c.st = .encoding lapse), .notConfirmed),
    ((∃ w at_, c.st = .suspended w at_), .suspended), ((∃ at_ why, c.st = .revoked at_ why), .revoked),
    ((∃ at_, c.st = .expired at_), .expired)] (stateStage c) := by
  unfold stateStage
  cases c.st <;> simp [FirstOf]

theorem stateStage_none : stateStage c = none ↔ c.st = .issued ∨ c.st = .active := by
  unfold stateStage
  cases c.st <;> simp

theorem windowStage_first (c : Cred) (now : Nat) :
    FirstOf [(now < c.validStart, .notYetValid), (c.validEnd < now, .expired)] (windowStage c now) := by
  unfold windowStage
  by_cases early : now < c.validStart <;> by_cases past : c.validEnd < now <;> simp [FirstOf, early, past]

theorem windowStage_none : windowStage c now = none ↔ c.validStart ≤ now ∧ now ≤ c.validEnd := by
  unfold windowStage
  split
  · rename_i early
    simp [Nat.not_le.mpr early]
  · split <;> simp <;> omega

theorem State.floorStage_none : s.floorStage c = none ↔
    (c.kind = .guest → ∀ g, c.guest = some g → ∃ room, s.room? g.entry = some room ∧ room.floor ≤ g.stay) := by
  unfold State.floorStage
  split
  · rename_i g kind guest
    cases hr : s.room? g.entry with
    | none => simp [kind, guest, hr]
    | some room => simp [kind, guest, hr]
  · rename_i other
    simp only [true_iff]
    exact fun kind g guest => absurd guest (other g kind)

/-- A stage that fails with one reason. -/
theorem FirstOf.of_stage {p : Prop} {r : Reason} {o : Option Reason} (one : o = .none ∨ o = some r) (none : o = .none ↔ ¬ p) :
    FirstOf [(p, r)] o := by
  refine .single (fun holds => one.resolve_left (fun h => none.mp h holds)) none.mpr

theorem State.floorStage_first (s : State) (c : Cred) : FirstOf [((c.kind = .guest ∧ ∃ g, c.guest = some g ∧
    ∀ room, s.room? g.entry = some room → g.stay < room.floor), .superseded)] (s.floorStage c) := by
  refine .of_stage ?_ (State.floorStage_none.trans ?_)
  · unfold State.floorStage
    split
    · split
      · exact .inr rfl
      · split
        · exact .inr rfl
        · exact .inl rfl
    · exact .inl rfl
  · push Not
    rfl

theorem State.scheduleStage_none : s.scheduleStage c now = none ↔
    ∀ h, c.schedule = some h → h.inside (localMinute s.settings.localOffset now) = true := by
  unfold State.scheduleStage
  cases c.schedule with
  | none => simp
  | some h => simp

theorem State.scheduleStage_first (s : State) (c : Cred) (now : Nat) : FirstOf [((∃ h, c.schedule = some h ∧
    h.inside (localMinute s.settings.localOffset now) = false), .outsideSchedule)] (s.scheduleStage c now) := by
  refine .of_stage ?_ (State.scheduleStage_none.trans (by simp))
  unfold State.scheduleStage
  split <;> simp

theorem Cred.claims_iff (c : Cred) (n : Node) : c.claims n = true ↔ c.image1.covers n.enrol.point n.enrol.cls = true
    ∨ (∃ i, c.image2 = some i ∧ i.covers n.enrol.point n.enrol.cls = true) ∨ c.kind = .emergency := by
  rw [Cred.claims, Bool.or_eq_true, Bool.or_eq_true, or_assoc, Option.any_eq_true, beq_iff_eq]

theorem claimStage_none : claimStage c n = none ↔ c.image1.covers n.enrol.point n.enrol.cls = true
    ∨ (∃ i, c.image2 = some i ∧ i.covers n.enrol.point n.enrol.cls = true) ∨ c.kind = .emergency := by
  rw [← Cred.claims_iff, claimStage]
  cases c.claims n <;> simp

theorem claimStage_first (c : Cred) (n : Node) : FirstOf [((c.image1.covers n.enrol.point n.enrol.cls = false ∧
    (∀ i, c.image2 = some i → i.covers n.enrol.point n.enrol.cls = false) ∧ c.kind ≠ .emergency), .noAccess)] (claimStage c n) := by
  refine .of_stage ?_ (claimStage_none.trans ?_)
  · unfold claimStage
    split <;> simp
  · simp only [not_and_or, Bool.not_eq_false, not_forall, exists_prop, not_not]

theorem outOfServiceStage_none : outOfServiceStage c n = none ↔ (c.kind = .guest → n.enrol.oos = false) := by
  unfold outOfServiceStage
  cases n.enrol.oos <;> simp

theorem outOfServiceStage_first (c : Cred) (n : Node) :
    FirstOf [((c.kind = .guest ∧ n.enrol.oos = true), .outOfService)] (outOfServiceStage c n) := by
  refine .of_stage ?_ (outOfServiceStage_none.trans (by simp))
  unfold outOfServiceStage
  split <;> simp

theorem State.hoursStage_none : s.hoursStage c n now = none ↔
    (c.kind = .guest → ∀ h, n.enrol.hours = some h → h.inside (localMinute s.settings.localOffset now) = true) := by
  unfold State.hoursStage
  cases n.enrol.hours <;> simp

theorem State.hoursStage_first (s : State) (c : Cred) (n : Node) (now : Nat) : FirstOf [((c.kind = .guest ∧
    ∃ h, n.enrol.hours = some h ∧ h.inside (localMinute s.settings.localOffset now) = false), .afterHours)] (s.hoursStage c n now) := by
  refine .of_stage ?_ (State.hoursStage_none.trans (by simp))
  unfold State.hoursStage
  split <;> simp

theorem privacyStage_none : privacyStage c n = none ↔ (c.kind ≠ .emergency → ∀ b, n.status = some b → b.privacy = false) := by
  unfold privacyStage
  cases n.status with
  | none => simp
  | some b => cases hb : b.privacy <;> simp [hb]

theorem privacyStage_first (c : Cred) (n : Node) :
    FirstOf [((c.kind ≠ .emergency ∧ ∃ b, n.status = some b ∧ b.privacy = true), .privacy)] (privacyStage c n) := by
  refine .of_stage ?_ (privacyStage_none.trans (by simp))
  unfold privacyStage
  split <;> simp

/-- The minibar stage with no folio to charge, and with one (06:R122). -/
theorem State.minibarStage_unpaid (cls : n.enrol.cls = .minibar) (kind : c.kind = .guest) (none : n.enrol.entry.bind s.folio? = none) :
    s.minibarStage c n = some .noFolio := by
  simp only [State.minibarStage, cls, kind, none]

theorem State.minibarStage_folio (cls : n.enrol.cls = .minibar) (kind : c.kind = .guest) {e : Nat} {f : Folio} (entry : n.enrol.entry = some e)
    (folio : s.folio? e = some f) : s.minibarStage c n =
    if f.isOpen = true ∧ c.guest.map (·.entry) = some e then
      if f.ceiling ≤ f.balance + f.pendingTotal then some .creditHeld else none
    else some .noFolio := by
  simp only [State.minibarStage, cls, kind, entry, Option.bind_some, folio, Folio.held]
  by_cases isOpen : f.isOpen = true <;> by_cases own : c.guest.map (·.entry) = some e <;> simp [isOpen, own]

theorem State.minibarStage_other (other : ¬ (n.enrol.cls = .minibar ∧ c.kind = .guest)) : s.minibarStage c n = none := by
  unfold State.minibarStage
  split
  · exact absurd ⟨‹_›, ‹_›⟩ other
  · rfl

theorem State.minibarStage_none : s.minibarStage c n = none ↔ (n.enrol.cls = .minibar → c.kind = .guest →
    ∃ e f, n.enrol.entry = some e ∧ s.folio? e = some f ∧ f.isOpen = true ∧ c.guest.map (·.entry) = some e ∧
      f.balance + f.pendingTotal < f.ceiling) := by
  by_cases concerned : n.enrol.cls = .minibar ∧ c.kind = .guest
  · obtain ⟨cls, kind⟩ := concerned
    cases hf : n.enrol.entry.bind s.folio? with
    | none =>
      rw [State.minibarStage_unpaid cls kind hf]
      refine ⟨fun h => (by cases h), fun h => ?_⟩
      obtain ⟨e, f, entry, folio, -⟩ := h cls kind
      simp [entry, folio] at hf
    | some f =>
      obtain ⟨e, entry, folio⟩ := Option.bind_eq_some_iff.mp hf
      have found : (∃ e f, n.enrol.entry = some e ∧ s.folio? e = some f ∧ f.isOpen = true ∧ c.guest.map (·.entry) = some e ∧
          f.balance + f.pendingTotal < f.ceiling) ↔
          (f.isOpen = true ∧ c.guest.map (·.entry) = some e) ∧ ¬ f.ceiling ≤ f.balance + f.pendingTotal := by
        simp [entry, folio, and_assoc]
      simp only [cls, kind, true_implies, found, State.minibarStage_folio cls kind entry folio]
      split
      · split <;> simp_all
      · simp_all
  · rw [State.minibarStage_other concerned]
    exact ⟨fun _ cls kind => absurd ⟨cls, kind⟩ concerned, fun _ => rfl⟩

theorem State.minibarStage_first (s : State) (c : Cred) (n : Node) : FirstOf
    [((n.enrol.cls = .minibar ∧ c.kind = .guest ∧ ∀ e f, n.enrol.entry = some e → s.folio? e = some f →
        f.isOpen = false ∨ c.guest.map (·.entry) ≠ some e), .noFolio),
     ((n.enrol.cls = .minibar ∧ c.kind = .guest ∧ ∃ e f, n.enrol.entry = some e ∧
        s.folio? e = some f ∧ f.ceiling ≤ f.balance + f.pendingTotal), .creditHeld)] (s.minibarStage c n) := by
  by_cases concerned : n.enrol.cls = .minibar ∧ c.kind = .guest
  · obtain ⟨cls, kind⟩ := concerned
    cases hf : n.enrol.entry.bind s.folio? with
    | none =>
      rw [State.minibarStage_unpaid cls kind hf]
      refine ⟨fun _ => rfl, fun other => absurd ⟨cls, kind, fun e f entry folio => ?_⟩ other⟩
      simp [entry, folio] at hf
    | some f =>
      obtain ⟨e, entry, folio⟩ := Option.bind_eq_some_iff.mp hf
      have paid : (∀ x g, n.enrol.entry = some x → s.folio? x = some g → g.isOpen = false ∨ c.guest.map (·.entry) ≠ some x) ↔
          ¬ (f.isOpen = true ∧ c.guest.map (·.entry) = some e) := by
        simp only [entry, Option.some.injEq, not_and_or, Bool.not_eq_true]
        exact ⟨fun h => h e f rfl folio, fun h x g same hg => by
          subst same
          obtain rfl := Option.some.inj (folio.symm.trans hg)
          exact h⟩
      have full : (∃ x g, n.enrol.entry = some x ∧ s.folio? x = some g ∧ g.ceiling ≤ g.balance + g.pendingTotal) ↔
          f.ceiling ≤ f.balance + f.pendingTotal := by
        simp [entry, folio]
      simp only [FirstOf, cls, kind, true_and, paid, full, State.minibarStage_folio cls kind entry folio]
      refine ⟨fun unpaid => if_neg unpaid, fun pays => ?_⟩
      rw [if_pos (not_not.mp pays)]
      exact ⟨fun h => if_pos h, fun h => if_neg h⟩
  · rw [State.minibarStage_other concerned]
    exact ⟨fun h => absurd ⟨h.1, h.2.1⟩ concerned, fun _ => ⟨fun h => absurd ⟨h.1, h.2.1⟩ concerned, fun _ => rfl⟩⟩

/-- The tests of stages 2 to 10 in order (06 Table 6.1). -/
def State.stageTests (s : State) (c : Cred) (n : Node) (now : Nat) : List (Prop × Reason) :=
  let minute := localMinute s.settings.localOffset now
  [((∃ lapse, c.st = .encoding lapse), .notConfirmed), ((∃ w at_, c.st = .suspended w at_), .suspended),
   ((∃ at_ why, c.st = .revoked at_ why), .revoked), ((∃ at_, c.st = .expired at_), .expired),
   (now < c.validStart, .notYetValid), (c.validEnd < now, .expired),
   ((c.kind = .guest ∧ ∃ g, c.guest = some g ∧ ∀ room, s.room? g.entry = some room → g.stay < room.floor), .superseded),
   ((∃ h, c.schedule = some h ∧ h.inside minute = false), .outsideSchedule),
   ((c.image1.covers n.enrol.point n.enrol.cls = false ∧
     (∀ i, c.image2 = some i → i.covers n.enrol.point n.enrol.cls = false) ∧ c.kind ≠ .emergency), .noAccess),
   ((c.kind = .guest ∧ n.enrol.oos = true), .outOfService),
   ((c.kind = .guest ∧ ∃ h, n.enrol.hours = some h ∧ h.inside minute = false), .afterHours),
   ((c.kind ≠ .emergency ∧ ∃ b, n.status = some b ∧ b.privacy = true), .privacy),
   ((n.enrol.cls = .minibar ∧ c.kind = .guest ∧ ∀ e f, n.enrol.entry = some e → s.folio? e = some f →
      f.isOpen = false ∨ c.guest.map (·.entry) ≠ some e), .noFolio),
   ((n.enrol.cls = .minibar ∧ c.kind = .guest ∧ ∃ e f, n.enrol.entry = some e ∧
      s.folio? e = some f ∧ f.ceiling ≤ f.balance + f.pendingTotal), .creditHeld)]

theorem State.stages_first (s : State) (c : Cred) (n : Node) (now : Nat) :
    FirstOf (s.stageTests c n now) (firstFailure (s.stages c n now)) := by
  simp only [State.stages, firstFailure_cons]
  exact (stateStage_first c).append ((windowStage_first c now).append ((s.floorStage_first c).append ((s.scheduleStage_first c now).append
    ((claimStage_first c n).append ((outOfServiceStage_first c n).append ((s.hoursStage_first c n now).append
    ((privacyStage_first c n).append ((s.minibarStage_first c n).append (show FirstOf [] (firstFailure []) from rfl)))))))))

theorem State.stages_none (s : State) (c : Cred) (n : Node) (now : Nat) : firstFailure (s.stages c n now) = none ↔
    stateStage c = none ∧ windowStage c now = none ∧ s.floorStage c = none ∧ s.scheduleStage c now = none ∧ claimStage c n = none ∧
    outOfServiceStage c n = none ∧ s.hoursStage c n now = none ∧ privacyStage c n = none ∧ s.minibarStage c n = none := by
  simp [State.stages, firstFailure]

end Stages

/-! ### An evaluation -/

section Evaluation
variable {s : State} {n : Node} {p : Presentation} {now : Nat} {r : Reason}

/-- The reason for which an evaluation denies, none where it grants. -/
def State.denial (s : State) (n : Node) (p : Presentation) (now : Nat) : Option Reason :=
  match s.identify p.cred.toNat p.serial.toNat p.stay.toNat p.code.toNat with
  | .error r => some r
  | .ok c => firstFailure (s.stages c n now)

theorem State.evaluate_denied (h : s.denial n p now = some r) : s.evaluate n p now = ⟨false, r, none⟩ := by
  cases found : s.identify p.cred.toNat p.serial.toNat p.stay.toNat p.code.toNat with
  | error e =>
    simp only [State.denial, found] at h
    simp only [State.evaluate, found, Option.some.inj h]
  | ok c =>
    simp only [State.denial, found] at h
    simp only [State.evaluate, found, h]

theorem State.evaluate_granted (h : s.denial n p now = none) :
    ∃ c, s.identify p.cred.toNat p.serial.toNat p.stay.toNat p.code.toNat = .ok c ∧ firstFailure (s.stages c n now) = none ∧
      s.evaluate n p now = ⟨true, .none, sessionModeOf c n⟩ := by
  unfold State.denial at h
  split at h
  · cases h
  · rename_i c found
    refine ⟨c, found, h, ?_⟩
    rw [State.evaluate, found]
    dsimp only
    rw [h]

theorem State.granted_iff_denial : (s.evaluate n p now).granted = true ↔ s.denial n p now = none := by
  cases h : s.denial n p now with
  | none =>
    obtain ⟨c, -, -, eq⟩ := State.evaluate_granted h
    simp [eq]
  | some r => simp [State.evaluate_denied h]

theorem State.granted_iff : (s.evaluate n p now).granted = true ↔
    ∃ c, s.identify p.cred.toNat p.serial.toNat p.stay.toNat p.code.toNat = .ok c ∧ firstFailure (s.stages c n now) = none := by
  rw [State.granted_iff_denial]
  refine ⟨fun h => ?_, fun ⟨c, found, passes⟩ => ?_⟩
  · obtain ⟨c, found, passes, -⟩ := State.evaluate_granted h
    exact ⟨c, found, passes⟩
  · rw [State.denial, found]
    exact passes

theorem State.granted_current {c : Cred} (h : (s.evaluate n p now).granted = true) (hc : s.cred? p.cred.toNat = some c) :
    c.st = .issued ∨ c.st = .active := by
  obtain ⟨d, found, passes⟩ := State.granted_iff.mp h
  obtain rfl := Option.some.inj ((State.identify_ok_iff.mp found).1.symm.trans hc)
  exact stateStage_none.mp ((State.stages_none ..).mp passes).1

/-- With the card found, the check code and then the stages decide. -/
theorem State.denial_known {c : Cred} (low : p.cred.toNat ≤ 767) (hc : s.cred? p.cred.toNat = some c) (same : c.serial = p.serial.toNat) :
    s.denial n p now = if s.checkTest c p.stay.toNat p.code.toNat then firstFailure (s.stages c n now) else some .checkFailed := by
  rw [State.denial, State.identify_known low hc same]
  by_cases test : s.checkTest c p.stay.toNat p.code.toNat = true <;> simp [test]

/-- The tests of an evaluation in order (06 Table 6.1). -/
def State.denialTests (s : State) (n : Node) (p : Presentation) (now : Nat) : List (Prop × Reason) :=
  let held (f : Cred → Prop) : Prop := ∃ c, s.cred? p.cred.toNat = some c ∧ f c
  let minute := localMinute s.settings.localOffset now
  [(767 < p.cred.toNat ∨ ¬ held (fun c => c.serial = p.serial.toNat), .unknownCard),
   (held (fun c => ¬ (p.stay.toNat = (c.guest.map (·.stay)).getD 0 ∧
      (p.code.toNat = crc32 (c.body ++ s.settings.currentKey) ∨ p.code.toNat = crc32 (c.body ++ s.settings.previousKey)))), .checkFailed),
   (held (fun c => ∃ lapse, c.st = .encoding lapse), .notConfirmed), (held (fun c => ∃ w at_, c.st = .suspended w at_), .suspended),
   (held (fun c => ∃ at_ why, c.st = .revoked at_ why), .revoked), (held (fun c => ∃ at_, c.st = .expired at_), .expired),
   (held (fun c => now < c.validStart), .notYetValid), (held (fun c => c.validEnd < now), .expired),
   (held (fun c => c.kind = .guest ∧ ∃ g, c.guest = some g ∧ ∀ room, s.room? g.entry = some room → g.stay < room.floor), .superseded),
   (held (fun c => ∃ h, c.schedule = some h ∧ h.inside minute = false), .outsideSchedule),
   (held (fun c => c.image1.covers n.enrol.point n.enrol.cls = false ∧
      (∀ i, c.image2 = some i → i.covers n.enrol.point n.enrol.cls = false) ∧ c.kind ≠ .emergency), .noAccess),
   (held (fun c => c.kind = .guest ∧ n.enrol.oos = true), .outOfService),
   (held (fun c => c.kind = .guest ∧ ∃ h, n.enrol.hours = some h ∧ h.inside minute = false), .afterHours),
   (held (fun c => c.kind ≠ .emergency ∧ ∃ b, n.status = some b ∧ b.privacy = true), .privacy),
   (held (fun c => n.enrol.cls = .minibar ∧ c.kind = .guest ∧ ∀ e f, n.enrol.entry = some e → s.folio? e = some f →
      f.isOpen = false ∨ c.guest.map (·.entry) ≠ some e), .noFolio),
   (held (fun c => n.enrol.cls = .minibar ∧ c.kind = .guest ∧ ∃ e f, n.enrol.entry = some e ∧
      s.folio? e = some f ∧ f.ceiling ≤ f.balance + f.pendingTotal), .creditHeld)]

theorem State.denialTests_first (s : State) (n : Node) (p : Presentation) (now : Nat) :
    FirstOf (s.denialTests n p now) (s.denial n p now) := by
  refine ⟨fun unknown => ?_, fun known => ?_⟩
  · rw [State.denial, State.identify_unknown unknown]
  · obtain ⟨low, c, hc, same⟩ : ¬ 767 < p.cred.toNat ∧ ∃ c, s.cred? p.cred.toNat = some c ∧ c.serial = p.serial.toNat := by
      simpa only [not_or, not_not] using known
    have heldIs (f : Cred → Prop) : (∃ d, s.cred? p.cred.toNat = some d ∧ f d) ↔ f c :=
      ⟨fun ⟨d, hd, h⟩ => Option.some.inj (hd.symm.trans hc) ▸ h, fun h => ⟨c, hc, h⟩⟩
    simp only [heldIs, ← State.checkTest_iff]
    rw [State.denial_known (Nat.not_lt.mp low) hc same]
    refine ⟨fun failed => if_neg failed, fun passed => ?_⟩
    rw [if_pos (not_not.mp passed)]
    exact s.stages_first c n now

theorem State.denial_ne_none (h : s.denial n p now = some r) : r ≠ .none := by
  have first := s.denialTests_first n p now
  rw [h] at first
  obtain ⟨q, hq, rfl⟩ := first.reason
  have listed : q.2 ∈ (s.denialTests n p now).map Prod.snd := List.mem_map_of_mem hq
  have reasons : (s.denialTests n p now).map Prod.snd = [.unknownCard, .checkFailed, .notConfirmed, .suspended, .revoked, .expired,
    .notYetValid, .expired, .superseded, .outsideSchedule, .noAccess, .outOfService, .afterHours, .privacy, .noFolio, .creditHeld] := rfl
  rw [reasons] at listed
  intro none
  rw [none] at listed
  revert listed
  decide

end Evaluation

/-! ### The acts after a decision -/

section Decision
variable {s : State} {n : Node} {a origin : Nat} {p : Presentation}

/-- The decision of a presentation at a node. -/
def decisionOf (a origin : Nat) (p : Presentation) (n : Node) (s : State) : Decision :=
  let v := s.evaluate n p s.now
  { node := a, pres := p.number.toNat, granted := v.granted, reason := v.reason, mode := v.mode, origin := origin,
    age := 0, point := n.enrol.point, cred := numberCarried p.cred.toNat, serial := p.serial.toNat, arrival := s.now }

/-- The memory entry of that decision (06:R126). -/
def memoryOf (p : Presentation) (n : Node) (s : State) : MemEntry :=
  let v := s.evaluate n p s.now
  ⟨p.number.toNat, numberCarried p.cred.toNat, p.serial.toNat, s.now, v.granted, v.reason, false⟩

/-- The state with the grant counted and the decision remembered, before it is offered. -/
def State.decided (a : Nat) (p : Presentation) (n : Node) (s : State) : State :=
  (if (s.evaluate n p s.now).granted then s.modCred p.cred.toNat (Cred.granted s.now) else s).modNode a (Node.remember (memoryOf p n s))

theorem State.decideAdmission_eq (hn : s.node? a = some n) :
    s.decideAdmission a p origin = (s.decided a p n).offerDecision (decisionOf a origin p n s) := by
  rw [State.decideAdmission, hn]
  rfl

theorem State.decided_kept (a : Nat) (p : Presentation) (n : Node) (s : State) :
    s.decided a p n = { s with nodes := (s.decided a p n).nodes, store := (s.decided a p n).store } := by
  unfold State.decided
  split <;> rfl

theorem State.decided_node (hn : s.node? a = some n) :
    (s.decided a p n).node? a = some { n with memory := (memoryOf p n s :: n.memory).take 2 } ∧
    ∀ b, b ≠ a → (s.decided a p n).node? b = s.node? b := by
  have kept (b : Nat) : (if (s.evaluate n p s.now).granted then s.modCred p.cred.toNat (Cred.granted s.now) else s).node? b = s.node? b := by
    split <;> rfl
  refine ⟨?_, fun b ne => (State.modNode_node?_ne _ (Node.remember (memoryOf p n s)) (fun _ => rfl) ne).trans (kept b)⟩
  refine (State.modNode_node? _ _ (Node.remember (memoryOf p n s)) (fun _ => rfl)).trans ?_
  rw [kept, hn]
  rfl

theorem State.decided_store (a : Nat) (p : Presentation) (n : Node) (s : State) : (s.decided a p n).store =
    if (s.evaluate n p s.now).granted then (s.modCred p.cred.toNat (Cred.granted s.now)).store else s.store := by
  unfold State.decided
  rw [State.modNode_store]
  split <;> rfl

/-- A decision offered to a queue that is full or holds its number already, and to another (01:R12). -/
theorem State.offerDecision_late {d : Decision} (late : 32 ≤ s.lines.urgent.length ∨ s.lines.urgent.any (Urgent.isDecision d.node d.pres) = true) :
    s.offerDecision d = s.append (d.entry .decisionLate) := if_pos late

theorem State.offerDecision_queued {d : Decision} (room : ¬ (32 ≤ s.lines.urgent.length ∨ s.lines.urgent.any (Urgent.isDecision d.node d.pres) = true)) :
    s.offerDecision d = { s with lines := { s.lines with urgent := s.lines.urgent ++ [.decision d] } } := if_neg room

theorem State.offerDecision_kept (d : Decision) (s : State) : Port.noticesOnly s.port (s.offerDecision d).port ∧
    s.offerDecision d = { s with lines := (s.offerDecision d).lines, journal := (s.offerDecision d).journal, port := (s.offerDecision d).port } := by
  unfold State.offerDecision
  split
  · exact ⟨s.append_noticesOnly _, State.eq_of_fields (by simp [State.decisionLate]) (by simp [State.decisionLate]) (by simp [State.decisionLate])
      (by simp [State.decisionLate]) (by simp [State.decisionLate]) rfl (by simp [State.decisionLate]) (by simp [State.decisionLate])
      (by simp [State.decisionLate]) (by simp [State.decisionLate]) (by simp [State.decisionLate]) rfl rfl (by simp [State.decisionLate])⟩
  · exact ⟨rfl, rfl⟩

theorem State.decision_frame {s t u : State} (first : t = { s with nodes := t.nodes, store := t.store })
    (second : u = { t with lines := u.lines, journal := u.journal, port := u.port }) :
    u = { s with lines := u.lines, nodes := u.nodes, store := u.store, journal := u.journal, port := u.port } := by
  rw [second, first]

theorem anyDecision_iff {us : List Urgent} {b x : Nat} :
    us.any (Urgent.isDecision b x) = true ↔ ∃ e, Urgent.decision e ∈ us ∧ e.node = b ∧ e.pres = x := by
  rw [List.any_eq_true]
  constructor
  · rintro ⟨u, hu, is⟩
    cases u with
    | decision e => exact ⟨e, hu, by simpa [Urgent.isDecision] using is⟩
    | remoteOpen y => cases is
  · rintro ⟨e, he, node, pres⟩
    exact ⟨_, he, by simp [Urgent.isDecision, node, pres]⟩

end Decision

/-- Settles O58: the tests in order against the stages, then the acts of a decision. -/
theorem grantsPassEveryStage : Obligations.GrantsPassEveryStage := by
  refine ⟨fun n p now s => ?_, fun a origin p n s hn => ?_⟩
  · intro v
    refine ⟨?_, ?_, ?_, ?_, ?_⟩
    · refine State.granted_iff.trans (exists_congr fun c => ?_)
      rw [State.identify_ok_iff, State.checkTest_iff, State.stages_none, stateStage_none, windowStage_none, State.floorStage_none,
        State.scheduleStage_none, claimStage_none, outOfServiceStage_none, State.hoursStage_none, privacyStage_none, State.minibarStage_none]
      simp only [and_assoc, imp_and]
    · intro held minute fails passed stage rest split clear holds
      exact State.evaluate_denied ((s.denialTests_first n p now).first split clear holds)
    · intro granted
      obtain ⟨c, -, -, eq⟩ := State.evaluate_granted (State.granted_iff_denial.mp granted)
      exact congrArg Verdict.reason eq
    · intro denied
      cases h : s.denial n p now with
      | none => exact absurd (State.granted_iff_denial.mpr h) (by simpa [v] using denied)
      | some r =>
        have denies : v = ⟨false, r, none⟩ := State.evaluate_denied h
        rw [denies]
        exact ⟨State.denial_ne_none h, rfl⟩
    · intro granted c hc
      obtain ⟨d, found, -, eq⟩ := State.evaluate_granted (State.granted_iff_denial.mp granted)
      obtain rfl := Option.some.inj ((State.identify_ok_iff.mp found).1.symm.trans hc)
      refine (congrArg Verdict.mode eq).trans ?_
      unfold sessionModeOf
      split
      · rename_i bar
        exact (if_pos bar).symm
      · rename_i other
        exact (if_neg other).symm
  · intro v u carried d late
    have offers : u = (s.decided a p n).offerDecision d := State.decideAdmission_eq hn
    obtain ⟨here, others⟩ := State.decided_node (p := p) hn
    have kept := State.decided_kept a p n s
    have store := State.decided_store a p n s
    have lines : (s.decided a p n).lines = s.lines := (congrArg State.lines kept :)
    have journal : (s.decided a p n).journal = s.journal := (congrArg State.journal kept :)
    have port : (s.decided a p n).port = s.port := (congrArg State.port kept :)
    have lateIs : late ↔ 32 ≤ (s.decided a p n).lines.urgent.length ∨
        (s.decided a p n).lines.urgent.any (Urgent.isDecision d.node d.pres) = true := by
      rw [lines, anyDecision_iff]
    obtain ⟨notices, rest⟩ := State.offerDecision_kept d (s.decided a p n)
    rw [← offers] at notices rest
    rw [port] at notices
    have nodes (b : Nat) : u.node? b = (s.decided a p n).node? b := by
      rw [rest]
      rfl
    have stored : u.store = _ := ((congrArg State.store rest :)).trans store
    refine ⟨(nodes a).trans here, fun b ne => (nodes b).trans (others b ne), fun denied => ?_, fun c granted hc => ?_, fun k ne => ?_,
      fun isLate => ?_, fun inTime => ?_, notices, State.decision_frame kept rest⟩
    · rw [stored, if_neg (by simpa [v] using denied)]
    · have counted : u.cred? p.cred.toNat = (s.modCred p.cred.toNat (Cred.granted s.now)).cred? p.cred.toNat := by
        rw [State.cred?, stored, if_pos granted]
        rfl
      rw [counted, State.modCred_cred? _ _ (Cred.granted s.now) (fun _ => rfl), hc]
      obtain st | st := State.granted_current granted hc <;> simp [Cred.granted, st, satAdd]
    · rw [State.cred?, stored]
      split
      · exact findKey_modKey_ne Cred.number (Cred.granted s.now) (fun _ => rfl) ne _
      · rfl
    · rw [offers, State.offerDecision_late (lateIs.mp isLate)]
      refine ⟨(State.append_lines _ _).trans lines, (State.append_journal _ _).trans ?_⟩
      rw [journal]
      rfl
    · rw [offers, State.offerDecision_queued (fun h => inTime (lateIs.mpr h))]
      refine ⟨?_, journal⟩
      rw [lines]

end Sys2Proof.Machine

/-! PROOF of O59. Local decisions, door alarms and offline records (06:R127, R128, 07:R137 to R143). -/

namespace Sys2Proof.Machine

open Sys2Proof

/-! ### A record with its alarm -/

section Alarm
variable {s u : State} {e : Entry} {b : Bool}

theorem State.append_alarm (s : State) (e : Entry) : (s.append e).port.arm.alarm = s.port.arm.alarm := by
  rw [State.append_eq]
  split
  · unfold State.raise
    split <;> rfl
  · rfl

theorem State.alarmIf_alarm (s : State) (b : Bool) :
    (s.alarmIf b).port.arm.alarm = (s.port.arm.alarm && !(b && decide (s.part = .running))) := by
  unfold State.alarmIf
  split
  · rename_i on
    by_cases running : s.part = .running
    · rw [State.raise_arm running]
      simp [Arming.put, on, running]
    · rw [State.raise_quiet_port (.inl running)]
      simp [running]
  · rename_i off
    simp [off]

theorem State.alarmIf_told (running : s.part = .running) (armed : s.port.arm.alarm = true) (on : b = true) :
    .notice 0x64 [] ∈ (s.alarmIf b).port.frames := by
  rw [State.alarmIf, if_pos on]
  exact State.raise_told running armed

/-- A record written, and ALARM raised where it is to be. -/
structure Alarmed (e : Entry) (b : Bool) (s u : State) : Prop where
  journal : u.journal = s.journal.push (e.secs.getD s.now) e
  alarm : u.port.arm.alarm = (s.port.arm.alarm && !(b && decide (s.part = .running)))
  told : s.part = .running → s.port.arm.alarm = true → b = true → .notice 0x64 [] ∈ u.port.frames
  notices : Port.noticesOnly s.port u.port
  rest : u = { s with journal := u.journal, port := u.port }

theorem State.alarmed (s : State) (e : Entry) (b : Bool) : Alarmed e b s ((s.append e).alarmIf b) where
  journal := by
    have kept : ((s.append e).alarmIf b).journal = (s.append e).journal := by
      unfold State.alarmIf
      split <;> simp
    rw [kept, State.append_journal]
  alarm := by rw [State.alarmIf_alarm, State.append_alarm, State.append_part]
  told := fun running armed on =>
    State.alarmIf_told ((State.append_part s e).trans running) ((s.append_alarm e).trans armed) on
  notices := Port.noticesOnly_trans (s.append_noticesOnly e) (by
    unfold State.alarmIf
    split
    · exact (State.raise_noticed _ _).notices
    · rfl)
  rest := by
    unfold State.alarmIf
    split <;> exact State.eq_of_fields

end Alarm

/-! ### Local decisions (06:R127) and door alarms (06:R128) -/

section Local
variable {s : State} {n : Node} {a : Nat} {p : Byte} {granted : Bool}

theorem markReported_split {newer older : List MemEntry} {e : MemEntry} {p : Nat} (first : ∀ x ∈ newer, x.pres ≠ p) (here : e.pres = p) :
    markReported p (newer ++ e :: older) = newer ++ { e with reported := true } :: older := by
  induction newer with
  | nil => exact if_pos here
  | cons x xs ih =>
    rw [List.cons_append, markReported, if_neg (first x (by simp)), ih (fun y hy => first y (by simp [hy]))]
    rfl

theorem find_newest {newer older : List MemEntry} {e : MemEntry} {p : Nat} (first : ∀ x ∈ newer, x.pres ≠ p) (here : e.pres = p) :
    (newer ++ e :: older).find? (fun x => x.pres == p) = some e :=
  List.find?_eq_some_iff_append.mpr ⟨by simpa using here, newer, older, rfl, fun x hx => by simpa using first x hx⟩

theorem State.localDecision_unknown (hn : s.node? a = some n) (none : ∀ e ∈ n.memory, e.pres ≠ p.toNat) :
    s.item a (.localDecision p granted) = s.append
      { kind := .localAdmit, quality := .unreliable, node := some a, point := some n.enrol.point,
        outcome := some (nodeOutcome granted), mark := if granted then .ambiguous else .none } := by
  have missing : n.memory.find? (fun e => e.pres == p.toNat) = Option.none :=
    List.find?_eq_none.mpr (fun e he => by simpa using none e he)
  simp only [State.item, hn, State.localDecision, missing]

theorem State.localDecision_held {newer older : List MemEntry} {e : MemEntry} (hn : s.node? a = some n)
    (memory : n.memory = newer ++ e :: older) (first : ∀ x ∈ newer, x.pres ≠ p.toNat) (here : e.pres = p.toNat) :
    s.item a (.localDecision p granted) = if e.reported then s else
      ((s.modNode a (fun n => { n with memory := markReported p.toNat n.memory })).append
        { kind := .localAdmit, secs := some e.arrival, node := some a, point := some n.enrol.point, cred := e.cred,
          serial := some e.serial, outcome := some (nodeOutcome granted), reason := some e.reason,
          mark := if granted && !e.granted then .conflict else .none }).alarmIf (granted && !e.granted) := by
  have found : n.memory.find? (fun e => e.pres == p.toNat) = some e := by rw [memory, find_newest first here]
  simp only [State.item, hn, State.localDecision, found]

theorem State.item_door (hn : s.node? a = some n) {i : Item} {kind : RecKind}
    (door : i = .forcedOpen ∧ kind = .forcedOpen ∨ i = .heldOpen ∧ kind = .heldOpen) :
    s.item a i = (s.append { kind := kind, node := some a, point := some n.enrol.point }).alarmIf true := by
  have point : s.pointOf a = some n.enrol.point := by rw [State.pointOf, hn]; rfl
  obtain ⟨rfl, rfl⟩ | ⟨rfl, rfl⟩ := door <;> simp only [State.item, hn, State.doorAlarm, point] <;> rfl

end Local

/-! ### Offline records (07:R137) -/

section Offline
variable {s : State} {n : Node} {a k : Nat} {r : OfflineRecord} {up : Upload}

theorem State.offlineRecord_idle (hn : s.node? a = some n) (idle : n.upload = none ∨ ∀ k, n.permit ≠ .opened (k + 1)) :
    s.offlineRecord a r = s := by
  rw [State.offlineRecord, hn]
  dsimp only
  split
  · rename_i up k upload permit
    obtain none | closed := idle
    · rw [none] at upload
      cases upload
    · exact absurd permit (closed k)
  · rfl

/-- A node with a record taken (07:R137). -/
def Node.received1 (k : Nat) (n : Node) : Node := { n with received := satAdd 65535 n.received 1, permit := .opened k }

/-- The OFFLINE_ADMIT record of a record taken (07:R143). -/
def offlineEntry (n : Node) (r : OfflineRecord) (time : RecordTime) (v : Audit) : Entry :=
  { kind := .offlineAdmit, secs := some time.secs, quality := time.quality, node := some n.addr,
    point := some n.enrol.point, cred := numberCarried r.cred.toNat, serial := some r.serial.toNat,
    outcome := some (nodeOutcome r.granted), reason := v.reason, mark := v.mark }

/-- The state with a record taken, before the permit is judged anew. -/
def State.recordTaken (a k : Nat) (n : Node) (r : OfflineRecord) (time : RecordTime) (s : State) : State :=
  ((s.modNode a (Node.received1 k)).append (offlineEntry n r time (s.audit n r time))).alarmIf ((s.audit n r time).mark == .conflict)

theorem State.offlineRecord_taken (hn : s.node? a = some n) (upload : n.upload = some up) (permit : n.permit = .opened (k + 1)) :
    s.offlineRecord a r = if k = 0 then (s.recordTaken a k n r (up.timeOf n.clock r.stamp.toNat)).closePermit a
      else s.recordTaken a k n r (up.timeOf n.clock r.stamp.toNat) := by
  have same : (s.modNode a (Node.received1 k)).audit n r (up.timeOf n.clock r.stamp.toNat) = s.audit n r (up.timeOf n.clock r.stamp.toNat) := rfl
  simp only [State.offlineRecord, hn, upload, permit]
  rfl

theorem State.recordTaken_alarmed (a k : Nat) (n : Node) (r : OfflineRecord) (time : RecordTime) (s : State) :
    Alarmed (offlineEntry n r time (s.audit n r time)) ((s.audit n r time).mark == .conflict) (s.modNode a (Node.received1 k))
      (s.recordTaken a k n r time) := State.alarmed _ _ _

theorem State.recordTaken_node (hn : s.node? a = some n) (time : RecordTime) :
    (s.recordTaken a k n r time).node? a = some (n.received1 k) ∧ ∀ b, b ≠ a → (s.recordTaken a k n r time).node? b = s.node? b := by
  have nodes (b : Nat) : (s.recordTaken a k n r time).node? b = (s.modNode a (Node.received1 k)).node? b := by
    rw [(s.recordTaken_alarmed a k n r time).rest]
    rfl
  refine ⟨?_, fun b ne => (nodes b).trans (State.modNode_node?_ne _ (Node.received1 k) (fun _ => rfl) ne)⟩
  rw [nodes, State.modNode_node? _ _ (Node.received1 k) (fun _ => rfl), hn]
  rfl

theorem State.taken_frame {w u : State} {ns : List Node} (first : w = { s with nodes := ns, journal := w.journal, port := w.port })
    (second : u = { w with nodes := u.nodes }) : u = { s with nodes := u.nodes, journal := u.journal, port := u.port } := by
  rw [second, first]

/-- A permit closed, and a new one judged (07:R134, R136). -/
theorem State.closePermit_spec (hn : s.node? a = some n) (held : n.upload.isSome = true) :
    (∃ m, (s.closePermit a).node? a = some m ∧ m.received = n.received ∧
      m.permit = if 64 ≤ s.journal.freeSpace then .latched else .none) ∧
    (∀ b, b ≠ a → (s.closePermit a).node? b = s.node? b) ∧ s.closePermit a = { s with nodes := (s.closePermit a).nodes } := by
  obtain ⟨here, others, rest⟩ := (s.modNode a (fun n => { n with permit := .none })).judgePermit_eq a
  have closed := State.modNode_node? s a (fun n => { n with permit := .none }) (fun _ => rfl)
  rw [hn] at closed
  rw [closed] at here
  refine ⟨⟨_, here, ?_, ?_⟩, fun b ne => (others b ne).trans
    (State.modNode_node?_ne _ (fun n => { n with permit := .none }) (fun _ => rfl) ne), rest⟩
  · unfold Node.permitted
    split <;> rfl
  · simp only [Node.permitted, held, true_and, State.modNode_journal]
    split <;> rfl

theorem State.closePermit_rest (hn : s.node? a = some n) (held : n.upload.isSome = true) :
    (s.closePermit a).journal = s.journal ∧ (s.closePermit a).port = s.port := by
  obtain ⟨-, -, rest⟩ := State.closePermit_spec hn held
  exact ⟨(congrArg State.journal rest :), (congrArg State.port rest :)⟩

end Offline

/-! ### The audit of a record (07:R138, R142) -/

section Audit
variable {s : State} {n : Node} {r : OfflineRecord}

theorem auditAtMark_iff (j : Judgement) : ((auditAtMark j).mark = .none ↔ j = .grant) ∧ (auditAtMark j).mark ≠ .conflict := by
  cases j <;> simp [auditAtMark]

theorem auditBand_iff (early late : Judgement) :
    ((auditBand early late).mark = .none ↔ early = .grant ∧ late = .grant) ∧
    ((auditBand early late).mark = .conflict ↔ (∃ x, early = .deny x) ∧ ∃ y, late = .deny y ∧ (auditBand early late).reason = some y) := by
  cases early <;> cases late <;> simp [auditBand]

end Audit

/-! ### The judgement at a moment (07:R139 to R141) -/

section Judgement
variable {s : State} {c : Cred} {n : Node} {r : OfflineRecord} {stay t : Nat}

/-- 07:R140: the floor stage at a moment; a floor unknown passes it. -/
def State.floorStageAt (s : State) (c : Cred) (stay t : Nat) : Option Reason :=
  match c.kind, c.guest with
  | .guest, some g =>
    match s.room? g.entry with
    | none => some .superseded
    | some room => if (room.floorAt t).any (fun f => decide (stay < f)) then some .superseded else none
  | _, _ => none

/-- The floor of the room that a guest card names is unknown at a moment. -/
def State.floorOpen (s : State) (c : Cred) (t : Nat) : Bool :=
  match c.kind, c.guest with
  | .guest, some g => (s.room? g.entry).any (fun room => (room.floorAt t).isNone)
  | _, _ => false

/-- The reason of the first stage that fails at a moment, the identity stage passed. -/
def State.denialAt (s : State) (c : Cred) (n : Node) (stay t : Nat) : Option Reason :=
  firstFailure [stateStageAt c t, windowStage c t, s.floorStageAt c stay t, s.scheduleStage c t, claimStage c n, outOfServiceStage c n,
    s.hoursStage c n t]

/-- The judgement of a reason, or of none. -/
def Judgement.of (o : Option Reason) (open_ : Bool) : Judgement :=
  match o with
  | some x => .deny x
  | none => if open_ then .undecided else .grant

theorem State.judgeLate_eq (s : State) (c : Cred) (n : Node) (t : Nat) (b : Bool) : s.judgeLate c n t (if b then .undecided else .grant)
    = Judgement.of (firstFailure [s.scheduleStage c t, claimStage c n, outOfServiceStage c n, s.hoursStage c n t]) b := by
  unfold State.judgeLate State.lateStagesAt Judgement.of
  cases firstFailure [s.scheduleStage c t, claimStage c n, outOfServiceStage c n, s.hoursStage c n t] <;> rfl

theorem State.floorStageAt_guest {g : GuestPart} (kind : c.kind = .guest) (guest : c.guest = some g) : s.floorStageAt c stay t =
    (s.room? g.entry).elim (some .superseded)
      (fun room => if (room.floorAt t).any (fun f => decide (stay < f)) then some .superseded else none) := by
  simp only [State.floorStageAt, kind, guest]
  cases s.room? g.entry <;> rfl

theorem State.floorOpen_guest {g : GuestPart} (kind : c.kind = .guest) (guest : c.guest = some g) :
    s.floorOpen c t = (s.room? g.entry).any (fun room => (room.floorAt t).isNone) := by
  simp only [State.floorOpen, kind, guest]

theorem State.floorStageAt_other (other : ¬ (c.kind = .guest ∧ ∃ g, c.guest = some g)) : s.floorStageAt c stay t = none := by
  unfold State.floorStageAt
  split
  · rename_i g kind guest
    exact absurd ⟨kind, g, guest⟩ other
  · rfl

theorem State.floorOpen_other (other : ¬ (c.kind = .guest ∧ ∃ g, c.guest = some g)) : s.floorOpen c t = false := by
  unfold State.floorOpen
  split
  · rename_i g kind guest
    exact absurd ⟨kind, g, guest⟩ other
  · rfl

theorem State.judgeAt_eq (s : State) (c : Cred) (n : Node) (stay t : Nat) :
    s.judgeAt c n stay t = Judgement.of (s.denialAt c n stay t) (s.floorOpen c t) := by
  have split2 : s.denialAt c n stay t = (firstFailure [stateStageAt c t, windowStage c t]).or ((s.floorStageAt c stay t).or
      (firstFailure [s.scheduleStage c t, claimStage c n, outOfServiceStage c n, s.hoursStage c n t])) := by
    simp only [State.denialAt, firstFailure_cons]
    cases stateStageAt c t <;> cases windowStage c t <;> rfl
  rw [split2, State.judgeAt]
  cases firstFailure [stateStageAt c t, windowStage c t] with
  | some r => rfl
  | none =>
    dsimp only
    by_cases guest : c.kind = .guest ∧ ∃ g, c.guest = some g
    · obtain ⟨kind, g, guest⟩ := guest
      rw [State.floorStageAt_guest kind guest, State.floorOpen_guest kind guest]
      simp only [kind, guest]
      cases hr : s.room? g.entry with
      | none => rfl
      | some room =>
        cases hf : room.floorAt t with
        | none => simpa [hr, hf] using s.judgeLate_eq c n t true
        | some f =>
          by_cases below : stay < f
          · simp [hf, below, Judgement.of]
          · simpa [hr, hf, below] using s.judgeLate_eq c n t false
    · rw [State.floorStageAt_other guest, State.floorOpen_other guest]
      split
      · rename_i g kind held
        exact absurd ⟨kind, g, held⟩ guest
      · exact s.judgeLate_eq c n t false

/-- The floor that stands in a room's history at a moment (07:R140). -/
def Room.Stands (room : Room) (t f : Nat) : Prop :=
  (∃ newer i older, room.history = newer ++ i :: older ∧ (∀ x ∈ newer, t < x.at_) ∧ i.at_ ≤ t ∧ f = i.floor) ∨
  (∀ x ∈ room.history, t < x.at_) ∧ room.fromCreation = true ∧ f = 1

theorem Room.stands_iff {room : Room} {f : Nat} : room.Stands t f ↔ room.floorAt t = some f := by
  unfold Room.Stands Room.floorAt
  cases h : room.history.find? (fun i => i.at_ ≤ t) with
  | none =>
    have later : ∀ x ∈ room.history, t < x.at_ := fun x hx => by simpa using List.find?_eq_none.mp h x hx
    cases hc : room.fromCreation
    · simp only [Bool.false_eq_true, false_and, and_false, or_false, if_false, reduceCtorEq, iff_false]
      rintro ⟨newer, i, older, split, -, now, -⟩
      exact absurd (later i (by simp [split])) (Nat.not_lt.mpr now)
    · simp only [if_true, true_and, Option.some.injEq]
      refine ⟨?_, fun h => .inr ⟨later, h.symm⟩⟩
      rintro (⟨newer, i, older, split, -, now, -⟩ | ⟨-, rfl⟩)
      · exact absurd (later i (by simp [split])) (Nat.not_lt.mpr now)
      · rfl
  | some i =>
    have found := List.find?_eq_some_iff_append.mp h
    obtain ⟨now, newer, older, split, ahead⟩ := found
    simp only [Option.some.injEq]
    refine ⟨?_, fun same => .inl ⟨newer, i, older, split, fun x hx => by simpa using ahead x hx, by simpa using now, same.symm⟩⟩
    rintro (⟨newer', j, older', split', ahead', now', rfl⟩ | ⟨later, -⟩)
    · have again : room.history.find? (fun i => i.at_ ≤ t) = some j := by
        rw [split']
        exact List.find?_eq_some_iff_append.mpr ⟨by simpa using now', newer', older', rfl, fun x hx => by simpa using ahead' x hx⟩
      exact congrArg FloorItem.floor (Option.some.inj (h.symm.trans again))
    · exact absurd (later i (by simp [split])) (Nat.not_lt.mpr (by simpa using now))

theorem stateStageAt_first (c : Cred) (t : Nat) : FirstOf [(((∃ lapse, c.st = .encoding lapse) ∨ t < c.issuedAt), .notConfirmed),
    ((∃ w at_, c.st = .suspended w at_ ∧ at_ ≤ t), .suspended), ((∃ at_ why, c.st = .revoked at_ why ∧ at_ ≤ t), .revoked)]
    (stateStageAt c t) := by
  unfold stateStageAt
  by_cases early : t < c.issuedAt
  · cases c.st <;> simp [FirstOf, early]
  · cases c.st <;> simp [FirstOf, early]

theorem State.floorStageAt_first (s : State) (c : Cred) (stay t : Nat) : FirstOf [((c.kind = .guest ∧ ∃ g, c.guest = some g ∧
    ∀ room, s.room? g.entry = some room → ∃ f, room.Stands t f ∧ stay < f), .superseded)] (s.floorStageAt c stay t) := by
  by_cases guest : c.kind = .guest ∧ ∃ g, c.guest = some g
  · obtain ⟨kind, g, guest⟩ := guest
    rw [State.floorStageAt_guest kind guest]
    simp only [Room.stands_iff]
    cases hr : s.room? g.entry with
    | none => simp [FirstOf, kind, guest, hr]
    | some room => cases hf : room.floorAt t <;> simp [FirstOf, kind, guest, hr, hf]
  · rw [State.floorStageAt_other guest]
    exact ⟨fun h => absurd ⟨h.1, h.2.choose, h.2.choose_spec.1⟩ guest, fun _ => rfl⟩

theorem State.floorOpen_iff : s.floorOpen c t = true ↔
    c.kind = .guest ∧ ∃ g room, c.guest = some g ∧ s.room? g.entry = some room ∧ ∀ f, ¬ room.Stands t f := by
  simp only [Room.stands_iff]
  by_cases guest : c.kind = .guest ∧ ∃ g, c.guest = some g
  · obtain ⟨kind, g, guest⟩ := guest
    rw [State.floorOpen_guest kind guest]
    simp [kind, guest, Option.any_eq_true, Option.eq_none_iff_forall_ne_some]
  · rw [State.floorOpen_other guest]
    simp only [Bool.false_eq_true, false_iff]
    rintro ⟨kind, g, -, held, -⟩
    exact guest ⟨kind, g, held⟩

/-- The stages at a moment in order (07:R139, R140). -/
def State.stageTestsAt (s : State) (c : Cred) (n : Node) (stay t : Nat) : List (Prop × Reason) :=
  let minute := localMinute s.settings.localOffset t
  [(((∃ lapse, c.st = .encoding lapse) ∨ t < c.issuedAt), .notConfirmed),
   ((∃ w at_, c.st = .suspended w at_ ∧ at_ ≤ t), .suspended), ((∃ at_ why, c.st = .revoked at_ why ∧ at_ ≤ t), .revoked),
   (t < c.validStart, .notYetValid), (c.validEnd < t, .expired),
   ((c.kind = .guest ∧ ∃ g, c.guest = some g ∧ ∀ room, s.room? g.entry = some room → ∃ f, room.Stands t f ∧ stay < f), .superseded),
   ((∃ h, c.schedule = some h ∧ h.inside minute = false), .outsideSchedule),
   ((c.image1.covers n.enrol.point n.enrol.cls = false ∧
     (∀ i, c.image2 = some i → i.covers n.enrol.point n.enrol.cls = false) ∧ c.kind ≠ .emergency), .noAccess),
   ((c.kind = .guest ∧ n.enrol.oos = true), .outOfService),
   ((c.kind = .guest ∧ ∃ h, n.enrol.hours = some h ∧ h.inside minute = false), .afterHours)]

theorem State.stagesAt_first (s : State) (c : Cred) (n : Node) (stay t : Nat) :
    FirstOf (s.stageTestsAt c n stay t) (s.denialAt c n stay t) := by
  simp only [State.denialAt, firstFailure_cons]
  exact (stateStageAt_first c t).append ((windowStage_first c t).append ((s.floorStageAt_first c stay t).append
    ((s.scheduleStage_first c t).append ((claimStage_first c n).append ((outOfServiceStage_first c n).append
    ((s.hoursStage_first c n t).append (show FirstOf [] (firstFailure []) from rfl)))))))

/-- The reason of a record's denial at a moment, the identity stage included. -/
def State.recordDenial (s : State) (n : Node) (r : OfflineRecord) (t : Nat) : Option Reason :=
  match s.identify r.cred.toNat r.serial.toNat r.stay.toNat r.code.toNat with
  | .error e => some (s.definiteReason r.serial.toNat e)
  | .ok c => s.denialAt c n r.stay.toNat t

theorem State.judgeRecord_denied {x : Reason} (h : s.recordDenial n r t = some x) : s.judgeRecord n r t = .deny x := by
  cases found : s.identify r.cred.toNat r.serial.toNat r.stay.toNat r.code.toNat with
  | error e =>
    simp only [State.recordDenial, found] at h
    simp only [State.judgeRecord, found]
    exact congrArg Judgement.deny (Option.some.inj h)
  | ok c =>
    simp only [State.recordDenial, found] at h
    simp only [State.judgeRecord, found, State.judgeAt_eq, h]
    rfl

theorem State.judgeRecord_passed (h : s.recordDenial n r t = none) :
    ∃ c, s.cred? r.cred.toNat = some c ∧ s.judgeRecord n r t = if s.floorOpen c t then .undecided else .grant := by
  unfold State.recordDenial at h
  split at h
  · cases h
  · rename_i c found
    refine ⟨c, (State.identify_ok_iff.mp found).1, ?_⟩
    rw [State.judgeRecord, found]
    dsimp only
    rw [State.judgeAt_eq, h]
    rfl

theorem State.definiteReason_unknown (x : Nat) : s.definiteReason x .unknownCard =
    if ∃ e ∈ s.revoc.entries, e.serial = x then .revoked else .unknownCard := by
  have listed : (s.entry? x).isSome = true ↔ ∃ e ∈ s.revoc.entries, e.serial = x := by
    simp [State.entry?]
  simp only [State.definiteReason, true_and, listed]

/-- The tests of a record at a moment in order (07:R139 to R141). -/
def State.recordTests (s : State) (n : Node) (r : OfflineRecord) (t : Nat) : List (Prop × Reason) :=
  let held (f : Cred → Prop) : Prop := ∃ c, s.cred? r.cred.toNat = some c ∧ f c
  let minute := localMinute s.settings.localOffset t
  let unknown : Prop := 767 < r.cred.toNat ∨ ¬ held (fun c => c.serial = r.serial.toNat)
  [(unknown ∧ ∃ e ∈ s.revoc.entries, e.serial = r.serial.toNat, .revoked), (unknown, .unknownCard),
   (held (fun c => ¬ (r.stay.toNat = (c.guest.map (·.stay)).getD 0 ∧
      (r.code.toNat = crc32 (c.body ++ s.settings.currentKey) ∨ r.code.toNat = crc32 (c.body ++ s.settings.previousKey)))), .checkFailed),
   (held (fun c => (∃ lapse, c.st = .encoding lapse) ∨ t < c.issuedAt), .notConfirmed),
   (held (fun c => ∃ w at_, c.st = .suspended w at_ ∧ at_ ≤ t), .suspended),
   (held (fun c => ∃ at_ why, c.st = .revoked at_ why ∧ at_ ≤ t), .revoked),
   (held (fun c => t < c.validStart), .notYetValid), (held (fun c => c.validEnd < t), .expired),
   (held (fun c => c.kind = .guest ∧ ∃ g, c.guest = some g ∧
     ∀ room, s.room? g.entry = some room → ∃ f, room.Stands t f ∧ r.stay.toNat < f), .superseded),
   (held (fun c => ∃ h, c.schedule = some h ∧ h.inside minute = false), .outsideSchedule),
   (held (fun c => c.image1.covers n.enrol.point n.enrol.cls = false ∧
     (∀ i, c.image2 = some i → i.covers n.enrol.point n.enrol.cls = false) ∧ c.kind ≠ .emergency), .noAccess),
   (held (fun c => c.kind = .guest ∧ n.enrol.oos = true), .outOfService),
   (held (fun c => c.kind = .guest ∧ ∃ h, n.enrol.hours = some h ∧ h.inside minute = false), .afterHours)]

theorem State.recordTests_first (s : State) (n : Node) (r : OfflineRecord) (t : Nat) :
    FirstOf (s.recordTests n r t) (s.recordDenial n r t) := by
  by_cases unknown : 767 < r.cred.toNat ∨ ¬ ∃ c, s.cred? r.cred.toNat = some c ∧ c.serial = r.serial.toNat
  · have denial : s.recordDenial n r t = some (if ∃ e ∈ s.revoc.entries, e.serial = r.serial.toNat then .revoked else .unknownCard) := by
      rw [State.recordDenial, State.identify_unknown unknown, ← State.definiteReason_unknown]
    rw [denial]
    exact ⟨fun listed => by rw [if_pos listed.2], fun unlisted => ⟨fun _ => by rw [if_neg (fun h => unlisted ⟨unknown, h⟩)],
      fun h => absurd unknown h⟩⟩
  · refine ⟨fun h => absurd h.1 unknown, fun _ => ⟨fun h => absurd h unknown, fun _ => ?_⟩⟩
    obtain ⟨low, c, hc, same⟩ : ¬ 767 < r.cred.toNat ∧ ∃ c, s.cred? r.cred.toNat = some c ∧ c.serial = r.serial.toNat := by
      simpa only [not_or, not_not] using unknown
    have heldIs (f : Cred → Prop) : (∃ d, s.cred? r.cred.toNat = some d ∧ f d) ↔ f c :=
      ⟨fun ⟨d, hd, h⟩ => Option.some.inj (hd.symm.trans hc) ▸ h, fun h => ⟨c, hc, h⟩⟩
    simp only [heldIs, ← State.checkTest_iff]
    have denial : s.recordDenial n r t = if s.checkTest c r.stay.toNat r.code.toNat then s.denialAt c n r.stay.toNat t else some .checkFailed := by
      rw [State.recordDenial, State.identify_known (Nat.not_lt.mp low) hc same]
      by_cases test : s.checkTest c r.stay.toNat r.code.toNat = true <;> simp [test, State.definiteReason]
    rw [denial]
    refine ⟨fun failed => if_neg failed, fun passed => ?_⟩
    rw [if_pos (not_not.mp passed)]
    exact s.stagesAt_first c n r.stay.toNat t

end Judgement

/-- Settles O59: items and records by their acts, the judgement by the first stage that fails. -/
theorem offlineRecordsAreTakenAndMarked : Obligations.OfflineRecordsAreTakenAndMarked := by
  refine ⟨fun a p granted n s hn => ?_, fun a n i kind s hn door => ?_, fun a r n s hn => ⟨State.offlineRecord_idle hn, ?_, ?_⟩, ?_⟩
  · intro u outcome
    refine ⟨fun none => ?_, fun newer e older memory first here => ⟨fun reported => ?_, fun unreported => ?_⟩⟩
    · have acts : u = _ := State.localDecision_unknown (granted := granted) hn none
      rw [acts]
      exact ⟨State.append_journal _ _, State.append_alarm _ _, State.append_noticesOnly _ _, State.append_frame _ _⟩
    · exact (State.localDecision_held hn memory first here).trans (if_pos reported)
    · have acts : u = _ := (State.localDecision_held (granted := granted) hn memory first here).trans (if_neg (by simp [unreported]))
      have alarmed := State.alarmed (s.modNode a (fun n => { n with memory := markReported p.toNat n.memory }))
        { kind := .localAdmit, secs := some e.arrival, node := some a, point := some n.enrol.point, cred := e.cred,
          serial := some e.serial, outcome := some (nodeOutcome granted), reason := some e.reason,
          mark := if granted && !e.granted then .conflict else .none } (granted && !e.granted)
      rw [← acts] at alarmed
      obtain ⟨journal, alarm, told, notices, rest⟩ := alarmed
      have nodes (b : Nat) : u.node? b = (s.modNode a (fun n => { n with memory := markReported p.toNat n.memory })).node? b := by
        rw [rest]
        rfl
      refine ⟨?_, fun b ne => ?_, journal, alarm, fun _ => told, notices, State.taken_frame rest rfl⟩
      · rw [nodes, State.modNode_node? _ _ (fun n => { n with memory := markReported p.toNat n.memory }) (fun _ => rfl), hn]
        simp only [Option.map_some, memory, markReported_split first here]
      · rw [nodes, State.modNode_node?_ne _ (fun n => { n with memory := markReported p.toNat n.memory }) (fun _ => rfl) ne]
  · intro u
    have acts : u = _ := State.item_door hn door
    rw [acts]
    obtain ⟨journal, alarm, told, notices, rest⟩ := s.alarmed { kind := kind, node := some a, point := some n.enrol.point } true
    exact ⟨journal, alarm, fun _ running armed => told running armed rfl, notices, rest⟩
  · intro up k upload permit u v
    obtain ⟨rfl, -⟩ := findKey_some Node.addr hn
    have acts : u = _ := State.offlineRecord_taken hn upload permit
    obtain ⟨journal, alarm, told, notices, rest⟩ := s.recordTaken_alarmed n.addr k n r (up.timeOf n.clock r.stamp.toNat)
    obtain ⟨here, others⟩ := State.recordTaken_node (k := k) (r := r) hn (up.timeOf n.clock r.stamp.toNat)
    have mark : (v.mark == Mark.conflict) = decide (v.mark = .conflict) := by cases v.mark <;> rfl
    rw [mark] at alarm told
    by_cases last : k = 0
    · have closes : u = (s.recordTaken n.addr k n r (up.timeOf n.clock r.stamp.toNat)).closePermit n.addr := acts.trans (if_pos last)
      obtain ⟨⟨m, hm, received, permit⟩, apart, frame⟩ := State.closePermit_spec here (by rw [Node.received1, upload]; rfl)
      obtain ⟨kept, ported⟩ := State.closePermit_rest here (by rw [Node.received1, upload]; rfl)
      rw [← closes] at hm apart frame kept ported
      rw [← kept] at journal permit
      rw [← ported] at alarm told notices
      exact ⟨journal, fun more => absurd last (Nat.ne_of_gt more), fun _ => ⟨m, hm, received, permit⟩, alarm,
        fun _ running armed conflict => told running armed (by simpa using conflict), fun b ne => (apart b ne).trans (others b ne), notices,
        State.taken_frame rest frame⟩
    · have stands : u = s.recordTaken n.addr k n r (up.timeOf n.clock r.stamp.toNat) := acts.trans (if_neg last)
      rw [← stands] at journal alarm told notices rest here others
      exact ⟨journal, fun _ => here, fun none => absurd none last, alarm,
        fun _ running armed conflict => told running armed (by simpa using conflict), others, notices, State.taken_frame rest rfl⟩
  · intro time v
    refine ⟨fun denied => ?_, fun granted => ?_⟩
    · simp [v, State.audit, denied]
    · cases time with
      | unreliable w1 =>
        have audit : v = auditAtMark (s.judgeRecord n r w1) := by simp [v, State.audit, granted]
        rw [audit]
        refine ⟨(auditAtMark_iff _).1, (auditAtMark_iff _).2, ?_⟩
        cases s.judgeRecord n r w1 <;> rfl
      | reconstructed t u w1 =>
        have audit : v = auditBand (s.judgeRecord n r (t - u)) (s.judgeRecord n r (min (t + u) w1)) := by simp [v, State.audit, granted]
        rw [audit]
        refine ⟨(auditBand_iff _ _).1, (auditBand_iff _ _).2, ?_⟩
        cases s.judgeRecord n r (t - u) <;> cases s.judgeRecord n r (min (t + u) w1) <;> rfl
  · intro n r t s held minute unknown stands open_ fails v
    have tests : FirstOf fails (s.recordDenial n r t) := s.recordTests_first n r t
    refine ⟨fun passed stage rest split clear holds => State.judgeRecord_denied (tests.first split clear holds), fun clear => ?_, fun b m => rfl⟩
    obtain ⟨c, hc, judged⟩ := State.judgeRecord_passed (tests.none clear)
    have openIs : open_ ↔ s.floorOpen c t = true := by
      rw [State.floorOpen_iff]
      exact ⟨fun ⟨d, hd, h⟩ => Option.some.inj (hd.symm.trans hc) ▸ h, fun h => ⟨c, hc, h⟩⟩
    rw [openIs]
    exact ⟨fun h => judged.trans (if_pos h), fun h => judged.trans (if_neg h)⟩

end Sys2Proof.Machine

/-! What a change of one node record leaves: its records, NODE_CHANGE and the rest of the state; the invitation window: O40. -/

namespace Sys2Proof.Machine

open Sys2Proof

/-! ### NODE_CHANGE in the arming flags -/

section NodeChange
variable {s : State}

theorem State.append_nodeChange (s : State) (e : Entry) : (s.append e).port.arm.nodeChange = s.port.arm.nodeChange := by
  rw [State.append_eq]
  split
  · unfold State.raise
    split <;> rfl
  · rfl

theorem State.raise_nodeChange (running : s.part = .running) : (s.raise .nodeChange).port.arm.nodeChange = false :=
  State.raise_disarms running .nodeChange

end NodeChange

/-! ### One node record changed -/

/-- The record of node `a` alone changes, from `n` to `m`; records `rs` stand, and NODE_CHANGE is raised where `b` says so. -/
structure NodeBecomes (a : Nat) (n m : Node) (rs : List (Nat × Entry)) (b : Bool) (s u : State) : Prop where
  nodes : ∃ g : Node → Node, g n = m ∧ (∀ x, (g x).addr = x.addr) ∧ u.nodes = modKey Node.addr a g s.nodes
  journal : u.journal = s.journal.pushAll rs
  arm : u.port.arm.nodeChange = (s.port.arm.nodeChange && !b)
  quiet : Port.Quiet s.port u.port
  rest : u = { s with nodes := u.nodes, journal := u.journal, port := u.port }

section Becomes
variable {a : Nat} {n m k : Node} {s t u : State} {rs ts : List (Nat × Entry)} {b c : Bool}

theorem NodeBecomes.refl (a : Nat) (n : Node) (s : State) : NodeBecomes a n n [] false s s where
  nodes := ⟨id, rfl, fun _ => rfl, by simp [modKey]⟩
  journal := rfl
  arm := by simp
  quiet := .refl _
  rest := rfl

/-- What changes node table, journal and port alone, twice. -/
theorem State.moved_frame (first : t = { s with nodes := t.nodes, journal := t.journal, port := t.port })
    (second : u = { t with nodes := u.nodes, journal := u.journal, port := u.port }) :
    u = { s with nodes := u.nodes, journal := u.journal, port := u.port } :=
  second.trans (by rw [first])

theorem NodeBecomes.trans (h : NodeBecomes a n m rs b s t) (g : NodeBecomes a m k ts c t u) :
    NodeBecomes a n k (rs ++ ts) (b || c) s u where
  nodes := by
    obtain ⟨f, here, addr, nodes⟩ := h.nodes
    obtain ⟨f', here', addr', nodes'⟩ := g.nodes
    refine ⟨f' ∘ f, by rw [Function.comp_apply, here, here'], fun x => (addr' _).trans (addr x), ?_⟩
    rw [nodes', nodes]
    simp only [modKey, List.map_map]
    refine List.map_congr_left fun x _ => ?_
    by_cases hx : x.addr = a <;> simp [hx, addr]
  journal := by rw [g.journal, h.journal, Journal.pushAll_append]
  arm := by rw [g.arm, h.arm, Bool.and_assoc, Bool.not_or]
  quiet := h.quiet.trans g.quiet
  rest := State.moved_frame h.rest g.rest

/-- The record of the node, where one is listed. -/
theorem NodeBecomes.node? (h : NodeBecomes a n m rs b s u) (hn : s.node? a = some n) : u.node? a = some m := by
  obtain ⟨f, here, addr, nodes⟩ := h.nodes
  rw [State.node?, nodes, findKey_modKey Node.addr f addr, ← State.node?, hn, Option.map_some, here]

theorem NodeBecomes.others (h : NodeBecomes a n m rs b s u) {x : Nat} (ne : x ≠ a) : u.node? x = s.node? x := by
  obtain ⟨f, -, addr, nodes⟩ := h.nodes
  rw [State.node?, nodes, findKey_modKey_ne Node.addr f addr ne]
  rfl

theorem NodeBecomes.modNode (a : Nat) (n : Node) (f : Node → Node) (addr : ∀ x, (f x).addr = x.addr) (s : State) :
    NodeBecomes a n (f n) [] false s (s.modNode a f) where
  nodes := ⟨f, rfl, addr, rfl⟩
  journal := rfl
  arm := by simp
  quiet := .refl _
  rest := rfl

/-- A change of a node's state (02:R29): its record of 02:R29, and NODE_CHANGE. -/
theorem NodeBecomes.changeNode (hn : s.node? a = some n) {st : NodeState} (ne : n.st ≠ st) (running : s.part = .running) :
    NodeBecomes a n (n.enter st) [(s.now, nodeStateEntry n (.nodeState st))] true s (s.changeNode a st) where
  nodes := ⟨Node.enter st, rfl, fun x => (x.enter_shape st).1.addr, by simp [State.changeNode_eq hn ne]⟩
  journal := (State.changeNode_records hn ne).journal
  arm := by
    rw [State.changeNode_eq hn ne, State.raise_nodeChange (by simpa using running)]
    simp
  quiet := (State.changeNode_records hn ne).port
  rest := by
    rw [State.changeNode_eq hn ne]
    exact State.eq_of_fields (nodes := rfl) (journal := rfl) (port := rfl)

end Becomes

/-! ### The invitation window (01:R8, 02:R31) -/

section Invitation
variable {a : Nat} {n : Node} {u : State}

theorem State.seen_lines (s : State) (ja jb : CopyJudgement) : (s.seenIf .a ja).seenIf .b jb = { s with lines := { s.lines with
    lineA := if ja = .good then s.lines.lineA.seen else s.lines.lineA
    lineB := if jb = .good then s.lines.lineB.seen else s.lines.lineB } } := by
  cases ja <;> cases jb <;> rfl

/-- The record of an invited node that answers (02:R31, 07:R136). -/
def Node.joined (n : Node) : Node :=
  { n with
    st := .probation, good := 0, missed := 0, joins := if n.st = .dormant then 16 else n.joins
    permit := .none, received := 0, latchFallback := true
    latchComp := n.latchComp || n.enrol.cls == .minibar }

theorem State.invitationReport_joined (hn : u.node? a = some n) (away : n.st = .absent ∨ n.st = .dormant) (running : u.part = .running) :
    NodeBecomes a n n.joined [(u.now, nodeStateEntry n (.nodeState .probation))] true u (u.invitationReport a true) := by
  have entered := NodeBecomes.changeNode hn (st := .probation) (by obtain h | h := away <;> simp [h]) running
  have counted := entered.trans (.modNode a _ (Node.counts 0 0 n.silent) (fun _ => rfl) _)
  simp only [State.invitationReport, hn]
  obtain ⟨_, _, st, _, _, _, _, _, _, _, _, _, _, _, _, _, _, _, _, _, _, _, _⟩ := n
  obtain rfl | rfl := away
  · exact counted
  · exact counted.trans (.modNode a _ (fun m => { m with joins := 16 }) (fun _ => rfl) _)

theorem State.invitationReport_dormant (hn : u.node? a = some n) (absent : n.st = .absent) (last : n.joins ≤ 1)
    (running : u.part = .running) :
    NodeBecomes a n { n with st := .dormant, joins := 0, session := none } [(u.now, nodeStateEntry n (.nodeState .dormant))] true u
      (u.invitationReport a false) := by
  have tried : NodeBecomes a n _ [] false u _ := .modNode a n (fun m => { m with joins := n.joins - 1 }) (fun _ => rfl) u
  have entered := tried.trans (.changeNode (tried.node? hn) (st := .dormant) (by simp [absent]) running)
  simp only [State.invitationReport, hn]
  obtain ⟨_, _, st, _, _, _, _, _, _, _, _, _, _, _, _, _, _, _, _, _, _, _, _⟩ := n
  obtain rfl : st = .absent := absent
  have gone : ∀ k : Nat, k ≤ 1 → k - 1 = 0 := by omega
  simpa [Node.enter, Node.leaveFor, Node.endSession, NodeState.answering, gone _ last, if_pos last, nodeStateEntry, State.now] using entered

theorem State.invitationReport_absent (hn : u.node? a = some n) (absent : n.st = .absent) (more : 2 ≤ n.joins) :
    NodeBecomes a n { n with joins := n.joins - 1 } [] false u (u.invitationReport a false) := by
  have tries : u.invitationReport a false = u.modNode a (fun m => { m with joins := n.joins - 1 }) := by
    simp only [State.invitationReport, hn, absent, if_neg (show ¬ n.joins ≤ 1 by omega)]
  rw [tries]
  exact .modNode a n (fun m => { m with joins := n.joins - 1 }) (fun _ => rfl) u

theorem State.invitationReport_alone {b : Bool} (h : ∀ n, u.node? a = some n →
    n.st = .dormant ∧ b = false ∨ n.st ≠ .absent ∧ n.st ≠ .dormant) : u.invitationReport a b = u := by
  unfold State.invitationReport
  cases hn : u.node? a with
  | none => rfl
  | some n =>
    obtain ⟨dormant, rfl⟩ | ⟨absent, dormant⟩ := h n hn
    · simp only [dormant]
    · cases st : n.st <;> simp_all

/-- Whatever the report, the invited node's record alone changes. -/
theorem State.invitationReport_becomes (hn : u.node? a = some n) (b : Bool) (running : u.part = .running) :
    ∃ m rs c, NodeBecomes a n m rs c u (u.invitationReport a b) := by
  by_cases away : n.st = .absent ∨ n.st = .dormant ∧ b = true
  · cases b with
    | true => exact ⟨_, _, _, State.invitationReport_joined hn (away.imp_right And.left) running⟩
    | false =>
      have absent : n.st = .absent := by simpa using away
      by_cases last : n.joins ≤ 1
      · exact ⟨_, _, _, State.invitationReport_dormant hn absent last running⟩
      · exact ⟨_, _, _, State.invitationReport_absent hn absent (by omega)⟩
  · rw [State.invitationReport_alone (a := a) (b := b)]
    · exact ⟨_, _, _, .refl a n u⟩
    · intro n' hn'
      obtain rfl : n = n' := Option.some.inj (hn.symm.trans hn')
      cases b with
      | true => exact .inr (by simpa using away)
      | false =>
        have absent : n.st ≠ .absent := by simpa using away
        by_cases dormant : n.st = .dormant
        · exact .inl ⟨dormant, rfl⟩
        · exact .inr ⟨absent, dormant⟩

theorem State.invitationReport_frame (a : Nat) (b : Bool) (running : u.part = .running) : let t := u.invitationReport a b
    (∀ x, x ≠ a → t.node? x = u.node? x) ∧ Port.noticesOnly u.port t.port ∧
    t = { u with nodes := t.nodes, journal := t.journal, port := t.port } := by
  cases hn : u.node? a with
  | none => rw [State.invitationReport_alone (a := a) (b := b) (by simp [hn])]; exact ⟨fun _ _ => rfl, rfl, rfl⟩
  | some n =>
    obtain ⟨m, rs, c, moved⟩ := State.invitationReport_becomes hn b running
    exact ⟨fun _ => moved.others, moved.quiet.only, moved.rest⟩

end Invitation

/-- Settles O40: the copies judged, the node invited reported on. -/
theorem invitationsMoveANodeByItsState : Obligations.InvitationsMoveANodeByItsState := by
  unfold Obligations.InvitationsMoveANodeByItsState
  intro copyA copyB r s running round isOpen
  have ended : exec (.invitationClose copyA copyB) s = .next (s.resolveInvitation r copyA copyB) := by
    show execInvitationClose copyA copyB s = _
    simp only [execInvitationClose, running, round, isOpen, if_true]
  have closed : s.endInvitation = { s with lines := { s.lines with round := some { r with inviteOpen := false } } } := by
    rw [State.endInvitation, round]
    rfl
  refine ⟨fun nobody => ?_, fun a invited => ?_⟩
  · rw [ended]
    simp only [State.resolveInvitation, nobody, closed]
  intro good answered shows
  let ja := judgeCopy a r.number s.lines.lineA.st.inService copyA
  let jb := judgeCopy a r.number s.lines.lineB.st.inService copyB
  let u := (s.endInvitation.seenIf .a ja).seenIf .b jb
  let t := if r.inviteDead then u else u.invitationReport a (ja == .good || jb == .good)
  have lines : u = { s with lines := { s.lines with
      lineA := if ja = .good then s.lines.lineA.seen else s.lines.lineA
      lineB := if jb = .good then s.lines.lineB.seen else s.lines.lineB
      round := some { r with inviteOpen := false } } } := by
    rw [show u = _ from State.seen_lines _ ja jb, closed]
  have part : u.part = .running := by rw [lines]; exact running
  have heard : (ja == .good || jb == .good) = true ↔ answered := by
    rw [Bool.or_eq_true, beq_iff_eq, beq_iff_eq]
    rfl
  have frame : (∀ x, x ≠ a → t.node? x = u.node? x) ∧ Port.noticesOnly u.port t.port ∧
      t = { u with nodes := t.nodes, journal := t.journal, port := t.port } := by
    by_cases dead : r.inviteDead = true
    · rw [show t = u from if_pos dead]
      exact ⟨fun _ _ => rfl, rfl, rfl⟩
    · rw [show t = u.invitationReport a _ from if_neg dead]
      exact State.invitationReport_frame a _ part
  have node (x : Nat) : u.node? x = s.node? x := by rw [lines]; rfl
  have still (h : t = u) : t.nodes = s.nodes ∧ t.journal = s.journal ∧ t.port = s.port := by
    rw [h, lines]
    exact ⟨rfl, rfl, rfl⟩
  have entersOf {n m : Node} {st : NodeState} (hn : s.node? a = some n) (enrol : m.enrol = n.enrol) (state : m.st = st)
      (moved : NodeBecomes a n m [(u.now, nodeStateEntry n (.nodeState st))] true u t) :
      t.node? a = some m ∧ t.port.arm.nodeChange = false ∧ t.journal = s.journal.push s.now
        { kind := .nodeState, node := some a, point := some m.enrol.point, detail1 := some (.nodeState m.st) } := by
    refine ⟨moved.node? ((node a).trans hn), moved.arm.trans (by simp), ?_⟩
    rw [moved.journal, lines, enrol, state, ← (findKey_some Node.addr hn).1]
    rfl
  refine ⟨t, ?_, ⟨fun h => ?_, fun n hn living => ?_⟩, fun x ne => (frame.1 x ne).trans (node x), ?_, ?_, ?_, ?_, ?_⟩
  · rw [ended]
    simp only [State.resolveInvitation, invited]
    rfl
  · by_cases dead : r.inviteDead = true
    · exact still (if_pos dead)
    · have none := h.resolve_left dead
      exact still ((if_neg dead).trans (State.invitationReport_alone (by simp [node, none])))
  · have reported : t = u.invitationReport a (ja == .good || jb == .good) := if_neg (by simp [living])
    have hu := (node a).trans hn
    have silent (h : ¬ answered) : (ja == .good || jb == .good) = false := by simpa using mt heard.mp h
    refine ⟨fun away told => ?_, fun absent untold last => ?_, fun absent untold more => ?_, fun dormant untold => ?_,
      fun notAbsent notDormant => ?_⟩
    · rw [heard.mpr told] at reported
      exact entersOf hn rfl rfl (reported ▸ State.invitationReport_joined hu away part)
    · rw [silent untold] at reported
      exact entersOf hn rfl rfl (reported ▸ State.invitationReport_dormant hu absent last part)
    · rw [silent untold] at reported
      have moved := State.invitationReport_absent hu absent more
      rw [← reported] at moved
      refine ⟨moved.node? hu, moved.journal.trans (by rw [lines]; rfl), ?_⟩
      rw [reported, State.invitationReport, hu]
      simp only [absent, if_neg (show ¬ n.joins ≤ 1 by omega)]
      rw [lines]
      rfl
    · rw [silent untold] at reported
      refine still (reported.trans (State.invitationReport_alone fun n' hn' => .inl ⟨?_, rfl⟩))
      rw [← Option.some.inj (hu.symm.trans hn'), dormant]
    · refine still (reported.trans (State.invitationReport_alone fun n' hn' => .inr ?_))
      rw [← Option.some.inj (hu.symm.trans hn')]
      exact ⟨notAbsent, notDormant⟩
  all_goals
    obtain ⟨-, notices, rest⟩ := frame
    have kept : t.lines = u.lines := (congrArg State.lines rest :)
  · rw [kept, lines]
    exact ⟨fun h => if_pos h, fun h => if_neg h⟩
  · rw [kept, lines]
    exact ⟨fun h => if_pos h, fun h => if_neg h⟩
  · rw [kept, lines]
  · rw [lines] at notices
    exact notices
  · rw [kept]
    exact rest.trans (by rw [lines])

end Sys2Proof.Machine

/-! A missed answer window (01:R7 to R11, 02:R33): O38. -/

namespace Sys2Proof.Machine

open Sys2Proof

/-! ### The permit of a node -/

section Permits
variable {a : Nat} {n : Node} {s : State}

theorem NodeBecomes.judgePermit (hn : s.node? a = some n) :
    NodeBecomes a n (n.permitted s.journal.freeSpace) [] false s (s.judgePermit a) := by
  unfold State.judgePermit Node.permitted
  simp only [hn, Permit.isNone_iff]
  split
  · exact .modNode a n (fun n => { n with permit := .latched, latchPermit := true }) (fun _ => rfl) s
  · exact .refl a n s

/-- A node whose permit is closed, and judged anew (07:R136). -/
def Node.reopened (free : Nat) (n : Node) : Node := ({ n with permit := .none } : Node).permitted free

theorem NodeBecomes.closePermit (hn : s.node? a = some n) :
    NodeBecomes a n (n.reopened s.journal.freeSpace) [] false s (s.closePermit a) := by
  have closed := NodeBecomes.modNode a n (fun n => { n with permit := .none }) (fun _ => rfl) s
  exact closed.trans (.judgePermit (closed.node? hn))

/-- A node whose PLACED or OPEN permit a miss has closed. -/
def Node.permitClosed (free : Nat) (n : Node) : Node := if n.permit.granted then n.reopened free else n

theorem Node.permitClosed_kept (free : Nat) (n : Node) : n.permitClosed free = { n with
    permit := (n.permitClosed free).permit, latchPermit := (n.permitClosed free).latchPermit } := by
  unfold Node.permitClosed Node.reopened Node.permitted
  split
  · split <;> rfl
  · rfl

theorem NodeBecomes.permitMissed (hn : s.node? a = some n) :
    NodeBecomes a n (n.permitClosed s.journal.freeSpace) [] false s (s.permitMissed a) := by
  unfold State.permitMissed Node.permitClosed
  simp only [hn]
  split
  · exact .closePermit hn
  · exact .refl a n s

end Permits

/-! ### The state rule of a miss (02:R33) -/

/-- What the state rule of a miss makes of a node record. -/
def Node.missMoved (n : Node) : Node :=
  match n.st with
  | .probation => if 3 ≤ n.missed + 1 then n.enter .absent else n.counts 0 (n.missed + 1) n.silent
  | .online => if 6 ≤ n.missed + 1 then (n.enter .silent).counts 0 0 0 else n.counts 0 (n.missed + 1) n.silent
  | .silent => if 64 ≤ n.silent + 1 then { n.enter .absent with silent := 0 } else { n with silent := n.silent + 1 }
  | _ => n

/-- The NODE_STATE record of a miss that changes the node's state. -/
def Node.missRecords (now : Nat) (n : Node) : List (Nat × Entry) :=
  if n.missMoved.st = n.st then [] else [(now, nodeStateEntry n (.nodeState n.missMoved.st))]

section Miss
variable {n : Node} {s : State}

theorem Node.hasWindow_cases (h : n.st.hasWindow = true) : n.st = .probation ∨ n.st = .online ∨ n.st = .silent := by
  cases st : n.st <;> simp_all [NodeState.hasWindow]

/-- A node is closed so as 02:R33 and 07:R136 leave it. -/
theorem Node.permitClosed_eq (free : Nat) (m : Node) : m.permitClosed free = (match m.permit with
    | .placed _ => if m.upload.isSome ∧ 64 ≤ free then { m with permit := .latched, latchPermit := true } else { m with permit := .none }
    | .opened _ => if m.upload.isSome ∧ 64 ≤ free then { m with permit := .latched, latchPermit := true } else { m with permit := .none }
    | _ => m) := by
  unfold Node.permitClosed Node.reopened Node.permitted
  cases h : m.permit <;> simp [Permit.granted]

theorem Node.missMoved_stays (h : n.st = .probation ∧ n.missed + 1 < 3 ∨ n.st = .online ∧ n.missed + 1 < 6) :
    n.missMoved = { n with good := 0, missed := n.missed + 1 } := by
  unfold Node.missMoved
  obtain ⟨st, few⟩ | ⟨st, few⟩ := h
  · simp only [st, if_neg (Nat.not_le.mpr few), Node.counts]
  · simp only [st, if_neg (Nat.not_le.mpr few), Node.counts]

theorem Node.missMoved_silent (st : n.st = .silent) (few : n.silent + 1 < 64) : n.missMoved = { n with silent := n.silent + 1 } := by
  simp only [Node.missMoved, st, if_neg (Nat.not_le.mpr few)]

/-- The node that leaves ONLINE or PROBATION, without its upload and its reload under way. -/
def Node.left (n : Node) : Node :=
  let m : Node := if n.upload.isSome then { n with upload := none, received := 0, permit := .none } else n
  { m with reload := match n.reload with | .sending _ _ => .marked | .awaiting _ _ => .marked | r => r }

theorem Node.left_eq (n : Node) : n.dropInProgress.reloadLeft = n.left := by
  obtain ⟨_, _, _, _, _, _, _, _, _, _, _, reload, _, _, _, _, _, _, upload, _, _, _, _⟩ := n
  cases upload <;> cases reload <;> rfl

theorem Node.missMoved_leaves (st : n.st = .probation) (third : 3 ≤ n.missed + 1) : n.missMoved =
    { n.left with st := .absent, joins := 16, good := 0, missed := 0, lastPres := none, session := none } := by
  simp only [Node.missMoved, st, if_pos third, Node.enter, Node.leaveFor, NodeState.answering, Node.left_eq, Bool.not_false,
    Bool.and_self, if_true]

theorem Node.missMoved_falls (st : n.st = .online) (sixth : 6 ≤ n.missed + 1) : n.missMoved =
    { n.left with st := .silent, good := 0, missed := 0, silent := 0 } := by
  simp only [Node.missMoved, st, if_pos sixth, Node.enter, Node.leaveFor, Node.counts, NodeState.answering, Node.left_eq,
    Bool.not_false, Bool.and_self, if_true]

theorem Node.missMoved_lost (st : n.st = .silent) (last : 64 ≤ n.silent + 1) : n.missMoved =
    { n with st := .absent, joins := 16, good := 0, missed := 0, lastPres := none, session := none, silent := 0 } := by
  simp only [Node.missMoved, st, if_pos last, Node.enter, Node.leaveFor, NodeState.answering, Bool.false_and, if_false,
    Bool.false_eq_true]

/-- A node that a miss takes to ABSENT holds no presentation number and no session (02:R37, 08:R150). -/
theorem Node.missMoved_absent (h : n.st.hasWindow = true) (absent : n.missMoved.st = .absent) :
    n.missMoved.lastPres = none ∧ n.missMoved.session = none := by
  have lost : ∀ m : Node, (m.enter .absent).lastPres = none ∧ (m.enter .absent).session = none := fun _ => ⟨rfl, rfl⟩
  unfold Node.missMoved at absent ⊢
  obtain st | st | st := Node.hasWindow_cases h <;> simp only [st] at absent ⊢ <;> split <;> rename_i enough
  · exact lost n
  · simp [enough, Node.counts, st] at absent
  · simp [enough, Node.counts, Node.enter] at absent
  · simp [enough, Node.counts, st] at absent
  · exact lost n
  · simp [enough] at absent

/-- A node that a miss takes out of ONLINE and PROBATION holds no upload and no reload under way (07:R133, 05:R108). -/
theorem Node.missMoved_dropped (h : n.st.hasWindow = true) (answering : n.st ≠ .silent) (moves : n.missMoved.st ≠ n.st) :
    n.missMoved.upload = none ∧ n.missMoved.reload.underWay = false := by
  have left : n.left.upload = none ∧ n.left.reload.underWay = false := by
    obtain ⟨_, _, _, _, _, _, _, _, _, _, _, reload, _, _, _, _, _, _, upload, _, _, _, _⟩ := n
    cases upload <;> cases reload <;> exact ⟨rfl, rfl⟩
  obtain st | st | st := Node.hasWindow_cases h
  · by_cases few : n.missed + 1 < 3
    · rw [Node.missMoved_stays (.inl ⟨st, few⟩)] at moves
      exact absurd rfl moves
    · rw [Node.missMoved_leaves st (Nat.not_lt.mp few)]
      exact left
  · by_cases few : n.missed + 1 < 6
    · rw [Node.missMoved_stays (.inr ⟨st, few⟩)] at moves
      exact absurd rfl moves
    · rw [Node.missMoved_falls st (Nat.not_lt.mp few)]
      exact left
  · exact absurd st answering

theorem Node.afterMiss_eq (h : n.st.hasWindow = true) (free : Nat) : n.afterMiss free = n.missMoved.permitClosed free := by
  have cases' := Node.hasWindow_cases h
  obtain ⟨_, _, state, _, _, missed, silent, _, _, _, _, _, _, _, _, _, _, _, _, _, _, _, _⟩ := n
  obtain st | st | st : state = .probation ∨ state = .online ∨ state = .silent := cases' <;> subst st
  · by_cases few : missed + 1 < 3
    · rw [Node.missMoved_stays (.inl ⟨rfl, few⟩), Node.permitClosed_eq]
      simp only [Node.afterMiss, if_pos few] <;> rfl
    · rw [Node.missMoved_leaves rfl (Nat.not_lt.mp few), Node.permitClosed_eq]
      simp only [Node.afterMiss, if_neg few] <;> rfl
  · by_cases few : missed + 1 < 6
    · rw [Node.missMoved_stays (.inr ⟨rfl, few⟩), Node.permitClosed_eq]
      simp only [Node.afterMiss, if_pos few] <;> rfl
    · rw [Node.missMoved_falls rfl (Nat.not_lt.mp few), Node.permitClosed_eq]
      simp only [Node.afterMiss, if_neg few] <;> rfl
  · by_cases few : silent + 1 < 64
    · rw [Node.missMoved_silent rfl few, Node.permitClosed_eq]
      simp only [Node.afterMiss, if_pos few] <;> rfl
    · rw [Node.missMoved_lost rfl (Nat.not_lt.mp few), Node.permitClosed_eq]
      simp only [Node.afterMiss, if_neg few] <;> rfl

theorem Node.afterMiss_st (h : n.st.hasWindow = true) (free : Nat) : (n.afterMiss free).st = n.missMoved.st := by
  rw [Node.afterMiss_eq h, Node.permitClosed_kept]

/-- The record of a node whose miss changes its state, and the counts of 02:R33 after it. -/
theorem NodeBecomes.entered {a : Nat} (hn : s.node? a = some n) (running : s.part = .running) {st : NodeState} (ne : n.st ≠ st)
    {f : Node → Node} (addr : ∀ x, (f x).addr = x.addr) :
    NodeBecomes a n (f (n.enter st)) [(s.now, nodeStateEntry n (.nodeState st))] true s ((s.changeNode a st).modNode a f) := by
  have changed := NodeBecomes.changeNode hn ne running
  exact changed.trans (.modNode a _ f addr _)

theorem Node.enter_st (st : NodeState) (n : Node) : (n.enter st).st = st := by cases st <;> rfl

theorem NodeBecomes.missState (hn : s.node? n.addr = some n) (window : n.st.hasWindow = true) (running : s.part = .running) :
    NodeBecomes n.addr n n.missMoved (n.missRecords s.now) (decide (n.missMoved.st ≠ n.st)) s (s.missState n) := by
  unfold State.missState Node.missRecords Node.missMoved
  have entered {st : NodeState} (ne : n.st ≠ st) {f : Node → Node} (addr : ∀ x, (f x).addr = x.addr) :=
    NodeBecomes.entered hn running ne addr
  have counted {f : Node → Node} (addr : ∀ x, (f x).addr = x.addr) := NodeBecomes.modNode n.addr n f addr s
  obtain st | st | st := Node.hasWindow_cases window <;> simp only [st]
  · by_cases third : 3 ≤ n.missed + 1
    · simp only [if_pos third, Node.enter_st]
      simpa [Node.enter] using NodeBecomes.changeNode hn (st := .absent) (by simp [st]) running
    · simp only [if_neg third]
      simpa [Node.counts, st] using counted (f := Node.counts 0 (n.missed + 1) n.silent) (fun _ => rfl)
  · by_cases sixth : 6 ≤ n.missed + 1
    · simp only [if_pos sixth]
      simpa [Node.counts, Node.enter_st] using entered (st := .silent) (by simp [st]) (f := Node.counts 0 0 0) (fun _ => rfl)
    · simp only [if_neg sixth]
      simpa [Node.counts, st] using counted (f := Node.counts 0 (n.missed + 1) n.silent) (fun _ => rfl)
  · by_cases last : 64 ≤ n.silent + 1
    · simp only [if_pos last]
      simpa [Node.enter_st] using entered (st := .absent) (by simp [st]) (f := fun m => { m with silent := 0 }) (fun _ => rfl)
    · simp only [if_neg last]
      simpa [st] using counted (f := fun m => { m with silent := n.silent + 1 }) (fun _ => rfl)

/-- A miss: the state rule, then the close of the permit (02:R33, 07:R136). -/
theorem NodeBecomes.miss (hn : s.node? n.addr = some n) (window : n.st.hasWindow = true) (running : s.part = .running) :
    NodeBecomes n.addr n (n.afterMiss (s.journal.pushAll (n.missRecords s.now)).freeSpace) (n.missRecords s.now)
      (decide (n.missMoved.st ≠ n.st)) s (s.miss n) := by
  have moved := NodeBecomes.missState hn window running
  rw [Node.afterMiss_eq window, ← moved.journal]
  have closed := moved.trans (.permitMissed (moved.node? hn))
  rw [List.append_nil, Bool.or_false] at closed
  exact closed

end Miss

/-! ### Faults with no good copy (01:R9 to R11) -/

/-- The fault kind of a faulty copy. -/
def CopyJudgement.fault : CopyJudgement → Option FaultKind
  | .faulty k => some k
  | .good => none
  | .absent => none

/-- A line after the uncorrectable fault of its copy, where it has one. -/
def Line.faulted (l : Line) (j : CopyJudgement) : Line :=
  match j.fault with
  | none => l
  | some k => { l with flags := l.flags.mark k }

/-- The first-fault record holds what the fault of a line leaves in it (01:R10). -/
def FirstFault.Captures (f : FirstFault) (l : LineId) (j : CopyJudgement) (number node now : Nat) (g : FirstFault) : Prop :=
  ∃ k, j.fault = some k ∧ g = if f.valid then f else ⟨true, l, number, node, k, .uncorrectable, now⟩

section Faults
variable {s : State} {ja jb : CopyJudgement}

/-- A second fault finds the record taken (01:R10). -/
theorem FirstFault.taken {f g : FirstFault} (valid : g.valid = true) (h : FirstFault) :
    (if (if f.valid then f else g).valid then (if f.valid then f else g) else h) = if f.valid then f else g := by
  by_cases held : f.valid = true <;> simp [held, valid]

/-- What a window with no good copy charges: each faulty copy to its line, the first-fault record taken by either. -/
theorem State.chargeFaults_missed (noA : ja ≠ .good) (noB : jb ≠ .good) (serveA serveB : Bool) (first : Completion) (number node : Nat) (s : State) :
    (resolve serveA serveB first ja jb).1 = .none ∧ ∃ f c, s.chargeFaults number node (resolve serveA serveB first ja jb).2
      = { s with choices := c, lines := { s.lines with
          lineA := s.lines.lineA.faulted ja, lineB := s.lines.lineB.faulted jb, first := f } } ∧
      (s.lines.first.Captures .a ja number node s.now f ∨ s.lines.first.Captures .b jb number node s.now f ∨
        ja.fault = none ∧ jb.fault = none ∧ f = s.lines.first) ∧
      (ja.fault = none ∨ jb.fault = none → c = s.choices) := by
  cases ja with
  | good => exact absurd rfl noA
  | absent =>
    cases jb with
    | good => exact absurd rfl noB
    | absent => exact ⟨rfl, s.lines.first, s.choices, rfl, .inr (.inr ⟨rfl, rfl, rfl⟩), fun _ => rfl⟩
    | faulty k => exact ⟨rfl, _, s.choices, rfl, .inr (.inl ⟨k, rfl, rfl⟩), fun _ => rfl⟩
  | faulty j =>
    cases jb with
    | good => exact absurd rfl noB
    | absent => exact ⟨rfl, _, s.choices, rfl, .inl ⟨j, rfl, rfl⟩, fun _ => rfl⟩
    | faulty k =>
      refine ⟨rfl, (s.chargeFaults number node (resolve serveA serveB first (.faulty j) (.faulty k)).2).lines.first, s.choices + 1, ?_, ?_, ?_⟩
      · simp only [resolve, State.chargeFaults]
        cases s.tie <;> rfl
      · simp only [resolve, State.chargeFaults]
        cases s.tie with
        | true => exact .inl ⟨j, rfl, FirstFault.taken rfl _⟩
        | false => exact .inr (.inl ⟨k, rfl, FirstFault.taken rfl _⟩)
      · rintro (h | h) <;> cases h

end Faults

/-- An answer window that closes with no good copy, its node in PROBATION, ONLINE or SILENT: faults and a miss. -/
theorem State.resolveWindow_missed {s : State} {r : Round} {a : Nat} {n : Node} {copyA copyB : Option Copy} {first : Completion}
    (hn : s.node? a = some n) (window : n.st.hasWindow = true)
    (noA : judgeCopy a r.number s.lines.lineA.st.inService copyA ≠ .good)
    (noB : judgeCopy a r.number s.lines.lineB.st.inService copyB ≠ .good) :
    let ja := judgeCopy a r.number s.lines.lineA.st.inService copyA
    let jb := judgeCopy a r.number s.lines.lineB.st.inService copyB
    s.resolveWindow r ⟨a, false⟩ copyA copyB first = ((s.dropWindow a).chargeFaults r.number a
      (resolve s.lines.lineA.st.inService s.lines.lineB.st.inService first ja jb).2).miss n := by
  intro ja jb
  have seen : ((s.dropWindow a).seenIf .a ja).seenIf .b jb = s.dropWindow a := by
    rw [State.seen_lines, if_neg noA, if_neg noB]
  obtain ⟨none, f, c, charged, -, -⟩ := State.chargeFaults_missed noA noB s.lines.lineA.st.inService s.lines.lineB.st.inService
    first r.number a (s.dropWindow a)
  have found : ((s.dropWindow a).chargeFaults r.number a
      (resolve s.lines.lineA.st.inService s.lines.lineB.st.inService first ja jb).2).node? a = some n := by
    rw [charged]
    exact hn
  show ((((((s.dropWindow a).seenIf .a ja).seenIf .b jb).chargeFaults r.number a
    (resolve s.lines.lineA.st.inService s.lines.lineB.st.inService first ja jb).2).choseIf
      ((resolve s.lines.lineA.st.inService s.lines.lineB.st.inService first ja jb).1 == .either)).windowResult a r
    (usedAnswer (resolve s.lines.lineA.st.inService s.lines.lineB.st.inService first ja jb).1 _ copyA copyB)) = _
  rw [seen, none]
  show State.windowResult a r Option.none _ = _
  simp only [State.windowResult, State.choseIf, show (Used.none == Used.either) = false from rfl, if_false, found, window, if_true,
    Bool.false_eq_true]

/-- What changes lines and the free choice, and then node table, journal and port. -/
theorem State.charged_frame {s u t : State} (first : u = { s with lines := u.lines, choices := u.choices })
    (second : t = { u with nodes := t.nodes, journal := t.journal, port := t.port }) :
    t = { s with lines := t.lines, nodes := t.nodes, journal := t.journal, port := t.port, choices := t.choices } := by
  rw [second, first]

/-- Settles O38: the faults of the copies, the state rule of the miss, then the close of the permit. -/
theorem missesMoveANodeByItsState : Obligations.MissesMoveANodeByItsState := by
  unfold Obligations.MissesMoveANodeByItsState
  intro a copyA copyB first r n s running round held hn state jA jB noA noB fault lineAfter captures moved
  have window : n.st.hasWindow = true := by obtain h | h | h := state <;> rw [h] <;> rfl
  have addr : n.addr = a.toNat := (findKey_some Node.addr hn).1
  have closes : exec (.windowClose a copyA copyB first) s = .next (s.resolveWindow r ⟨a.toNat, false⟩ copyA copyB first) := by
    show execWindowClose a copyA copyB first s = _
    simp only [execWindowClose, running, round, held]
  obtain ⟨-, f, c, charged, captured, chosen⟩ := State.chargeFaults_missed noA noB s.lines.lineA.st.inService
    s.lines.lineB.st.inService first r.number a.toNat (s.dropWindow a.toNat)
  let u : State := { s.dropWindow a.toNat with choices := c, lines := { (s.dropWindow a.toNat).lines with
    lineA := s.lines.lineA.faulted jA, lineB := s.lines.lineB.faulted jB, first := f } }
  have resolved : s.resolveWindow r ⟨a.toNat, false⟩ copyA copyB first = u.miss n :=
    (State.resolveWindow_missed hn window noA noB).trans (congrArg (State.miss n) charged)
  have hu : u.node? n.addr = some n := by rw [addr]; exact hn
  have miss := NodeBecomes.miss hu window running
  have st (free : Nat) : (n.afterMiss free).st = n.missMoved.st := Node.afterMiss_st window free
  have after (free : Nat) : n.afterMiss free = { n.missMoved with
      permit := (n.afterMiss free).permit, latchPermit := (n.afterMiss free).latchPermit } := by
    rw [Node.afterMiss_eq window]
    exact Node.permitClosed_kept _ _
  have journal : (u.miss n).journal = s.journal.pushAll (n.missRecords s.now) := miss.journal
  rw [show (u.journal.pushAll (n.missRecords u.now)).freeSpace = 2048 - ((u.miss n).journal.recs.length - (u.miss n).journal.acked)
    by rw [journal]; rfl] at miss
  have lines : (u.miss n).lines = u.lines := (congrArg State.lines miss.rest :)
  have dropped : (s.dropWindow a.toNat).lines = { s.lines with
      round := some { r with windows := r.windows.filter (fun w => w.addr != a.toNat) } } := by
    rw [State.dropWindow, round]
    rfl
  have captures_of (l : LineId) (j : CopyJudgement) (h : s.lines.first.Captures l j r.number a.toNat s.now f) : captures l j f := by
    obtain ⟨k, kind, eq⟩ := h
    have faulty : fault j = some k := kind
    simp only [captures, faulty]
    exact eq
  generalize room : 2048 - ((u.miss n).journal.recs.length - (u.miss n).journal.acked) = free at miss
  refine ⟨u.miss n, n.afterMiss free, closes.trans (congrArg Host.Outcome.next resolved), addr ▸ miss.node? hu,
    ?_, ?_, ?_, ?_, ?_, ?_, ?_, ?_, ?_, ?_, ?_, ?_, ?_, ?_, ?_, ?_, ?_, ?_, ?_⟩
  · intro st few
    rw [after, Node.missMoved_stays (.inl ⟨st, few⟩)]
    exact ⟨st, rfl, rfl, rfl⟩
  · intro st third
    rw [after, Node.missMoved_leaves st third]
    exact ⟨rfl, rfl, rfl, rfl⟩
  · intro st few
    rw [after, Node.missMoved_stays (.inr ⟨st, few⟩)]
    exact ⟨st, rfl, rfl, rfl⟩
  · intro st sixth
    rw [after, Node.missMoved_falls st sixth]
    exact ⟨rfl, rfl, rfl, rfl⟩
  · intro st few
    rw [after, Node.missMoved_silent st few]
    exact ⟨st, rfl⟩
  · intro st last
    rw [after, Node.missMoved_lost st last]
    exact ⟨rfl, rfl, rfl⟩
  · intro absent
    rw [st] at absent
    rw [after]
    exact Node.missMoved_absent window absent
  · intro answering moves
    rw [st] at moves
    rw [after]
    exact Node.missMoved_dropped window answering moves
  · rw [← room]
  · rw [journal, st]
    unfold Node.missRecords
    split
    · rfl
    · rw [nodeStateEntry, addr]
      rfl
  · rw [miss.arm, st, decide_not, Bool.not_not]
    rfl
  · exact fun b ne => miss.others (by rwa [addr])
  · rw [lines]
    rfl
  · rw [lines]
    rfl
  · rw [lines]
    exact captured.imp (captures_of .a jA) (Or.imp_left (captures_of .b jB))
  · rw [lines]
    show ({ (s.dropWindow a.toNat).lines with lineA := _, lineB := _, first := f } : LineEngine) = _
    rw [dropped]
  · exact fun none => (congrArg State.choices miss.rest :).trans (chosen none)
  · exact miss.quiet.only
  · exact State.charged_frame rfl miss.rest

end Sys2Proof.Machine

/-! Parts of the coming round-start event taken alone (01:R14, 03:R53, 05:R106, R110): O43. -/

namespace Sys2Proof.Machine

open Sys2Proof

section Clocks
variable {a : Nat} {n : Node} {s : State}

/-- NODE_CHANGE raised with no record changed. -/
theorem NodeBecomes.raise (a : Nat) (n : Node) (running : s.part = .running) : NodeBecomes a n n [] true s (s.raise .nodeChange) where
  nodes := ⟨id, rfl, fun _ => rfl, by simp [modKey]⟩
  journal := by simp
  arm := by rw [State.raise_nodeChange running]; simp
  quiet := s.raise_quiet .nodeChange (by simp)
  rest := State.eq_of_fields

/-- A node with its clock changed by `f` (03:R57). -/
def Node.clocked (f : Clock → Clock) (n : Node) : Node :=
  { n with clock := f n.clock, latchFallback := n.latchFallback || decide ((f n.clock).grace ≠ n.clock.grace) }

theorem NodeBecomes.setClock (hn : s.node? a = some n) (running : s.part = .running) (f : Clock → Clock) :
    NodeBecomes a n (n.clocked f) [] ((f n.clock).suspect && !n.clock.suspect) s (s.setClock a f) := by
  have set := NodeBecomes.modNode a n (fun m =>
    { m with clock := f n.clock, latchFallback := m.latchFallback || decide ((f n.clock).grace ≠ n.clock.grace) }) (fun _ => rfl) s
  simp only [State.setClock, hn]
  cases newly : (f n.clock).suspect && !n.clock.suspect with
  | false => exact set
  | true => exact set.trans (.raise a _ running)

end Clocks

/-- A part of the coming round start that is due acts alone. -/
theorem State.roundPart_due {s : State} (running : s.part = .running) {due : State → Bool} {act : State → State}
    (now : due s.beginRoundStart = true) : s.roundPart due act = act s.beginRoundStart := if_pos ⟨running, now⟩

/-- The opening of a round start leaves the part RUNNING. -/
theorem State.beginRoundStart_running {s : State} (running : s.part = .running) : s.beginRoundStart.part = .running := by
  simpa using running

/-- Settles O43: each part due acts on the state at the opening of the round start. -/
theorem roundStartPartsActAlone : Obligations.RoundStartPartsActAlone := by
  unfold Obligations.RoundStartPartsActAlone
  intro s running u
  refine ⟨?_, fun a n hn => ⟨fun idle waits full => ?_, fun g w reload full => ?_,
    fun sp span long => ?_⟩⟩
  · intro a p d queued node pres old late
    have test : Urgent.dueFor a.toNat p.toNat = late := by
      funext x
      cases x <;> rfl
    have due : u.lines.urgent.any (Urgent.dueFor a.toNat p.toNat) = true := by
      refine List.any_eq_true.mpr ⟨_, queued, ?_⟩
      simp [Urgent.dueFor, Urgent.isDecision, Urgent.older, Urgent.agedOut, node, pres, old]
    refine ⟨u.removeUrgent (Urgent.dueFor a.toNat p.toNat), congrArg Host.Outcome.next (State.roundPart_due running due), ?_, ?_, ?_⟩
    · rw [State.removeUrgent_lines, test]
    · rw [State.removeUrgent, State.discardUrgents_journal, test]
      refine congrArg (fun f => u.journal.pushAll ((u.lines.urgent.filter late).filterMap f)) (funext fun x => ?_)
      cases x <;> rfl
    · exact State.eq_of_fields (lines := rfl) (journal := rfl) (port := rfl)
  · have due : u.stallDue a.toNat = true := by
      simp [State.stallDue, hn, idle, waits]
      omega
    have moved := NodeBecomes.modNode a.toNat n u.stallStep (fun n => (u.stallStep_inert n).addr) u
    refine ⟨_, congrArg Host.Outcome.next (State.roundPart_due running due), (moved.node? hn).trans ?_, fun b => moved.others, rfl⟩
    simp [State.stallStep, idle, waits, full]
  · have due : u.waitDue a.toNat = true := by
      simp [State.waitDue, hn, reload]
      omega
    have moved := NodeBecomes.modNode a.toNat n Node.waitStep (fun n => n.waitStep_inert.addr) u
    refine ⟨_, congrArg Host.Outcome.next (State.roundPart_due running due), (moved.node? hn).trans ?_, fun b => moved.others, rfl⟩
    simp [Node.waitStep, Node.marked, reload, full]
  · have due : u.spanDueAt a.toNat = true := by
      simp [State.spanDueAt, hn, Clock.spanDue, span]
      omega
    have moved := NodeBecomes.setClock hn (State.beginRoundStart_running running) Clock.failSpan
    refine ⟨_, congrArg Host.Outcome.next (State.roundPart_due running due), (moved.node? hn).trans ?_, fun b => moved.others,
      moved.quiet.only, ?_⟩
    · simp [Node.clocked, Clock.failSpan, Clock.failure, Clock.discardSpan, satAdd]
    · exact moved.rest.trans (by rw [moved.journal]; rfl)

end Sys2Proof.Machine

/-! The item that the revocation unit offers a node next (05:R105, R109). -/

namespace Sys2Proof.Machine

open Sys2Proof

/-! ### The head of what is left above the part taken -/

section Head
variable {α : Type} {p : α → Bool}

theorem drop_takeWhile (p : α → Bool) (l : List α) : l.drop (l.takeWhile p).length = l.dropWhile p := by
  induction l with
  | nil => rfl
  | cons x l ih =>
    by_cases hx : p x = true <;> simp [hx, ih]

/-- An element of a filtered list stands in the list behind those filtered that precede it. -/
theorem filter_split {q : α → Bool} {l earlier later : List α} {x : α} (h : l.filter q = earlier ++ x :: later) :
    ∃ before after, l = before ++ x :: after ∧ before.filter q = earlier ∧ q x = true := by
  induction l generalizing earlier with
  | nil => cases earlier <;> cases h
  | cons y l ih =>
    rw [List.filter_cons] at h
    split at h
    · rename_i hy
      cases earlier with
      | nil =>
        obtain ⟨rfl, -⟩ := List.cons.inj h
        exact ⟨[], l, rfl, rfl, hy⟩
      | cons z earlier =>
        obtain ⟨rfl, rest⟩ := List.cons.inj h
        obtain ⟨before, after, split, same, hx⟩ := ih rest
        exact ⟨y :: before, after, by rw [split]; rfl, by rw [List.filter_cons, if_pos hy, same], hx⟩
    · rename_i hy
      obtain ⟨before, after, split, same, hx⟩ := ih h
      exact ⟨y :: before, after, by rw [split]; rfl, by rw [List.filter_cons, if_neg hy, same], hx⟩

end Head

section Changes
variable {s : State} {n m : Node} {d : Directive}

theorem State.mem_deliverables_iff {c : Change} : c ∈ s.deliverables n ↔ c ∈ s.revoc.changes ∧ s.Unacked n c := by
  rw [State.deliverables, List.mem_filter, s.unacked_iff]

/-- Fewer than 4 are outstanding exactly when no 4 of the changes are. -/
theorem State.outstanding_few (k : Nat) : s.outstanding n < k ↔ ∀ l : List Change, l.Sublist s.revoc.changes →
    (∀ c ∈ l, s.Unacked n c ∧ genBelow n.cursor.sent c.gen = false) → l.length < k := by
  have test (c : Change) : (s.deliverable c n && genBelow n.cursor.acked c.gen && !genBelow n.cursor.sent c.gen) = true ↔
      s.Unacked n c ∧ genBelow n.cursor.sent c.gen = false := by
    rw [Bool.and_eq_true, s.unacked_iff, Bool.not_eq_true']
  have eq : s.outstanding n = (s.revoc.changes.filter
      (fun c => s.deliverable c n && genBelow n.cursor.acked c.gen && !genBelow n.cursor.sent c.gen)).length := by
    rw [State.outstanding, State.deliverables, List.filter_filter]
    refine congrArg List.length (List.filter_congr fun c _ => ?_)
    rw [Bool.and_comm]
  rw [eq]
  refine ⟨fun few l sub all => Nat.lt_of_le_of_lt ?_ few, fun all => all _ List.filter_sublist fun c hc => (test c).mp (List.mem_filter.mp hc).2⟩
  have kept := sub.filter (fun c => s.deliverable c n && genBelow n.cursor.acked c.gen && !genBelow n.cursor.sent c.gen)
  rw [List.filter_eq_self.mpr fun c hc => (test c).mpr (all c hc)] at kept
  exact kept.length_le

/-- The change offered is the oldest deliverable one above sent_upto (05:R105). -/
theorem State.offerChange_next (h : s.offerChange n = some (d, m)) :
    s.NextChange n d m.cursor ∧ m = { n with cursor := m.cursor } := by
  unfold State.offerChange at h
  split at h
  · cases h
  · rename_i few
    dsimp only at h
    rw [drop_takeWhile] at h
    split at h
    · cases h
    · rename_i c later rest
      obtain ⟨rfl, rfl⟩ := Prod.mk.inj (Option.some.inj h)
      have whole : s.deliverables n = (s.deliverables n).takeWhile (fun c => !genBelow n.cursor.sent c.gen) ++ c :: later := by
        rw [← rest, List.takeWhile_append_dropWhile]
      have above : genBelow n.cursor.sent c.gen = true := by
        have := List.head_dropWhile_not (p := fun c => !genBelow n.cursor.sent c.gen) (l := s.deliverables n) (by rw [rest]; simp)
        simpa [rest] using this
      have sent : ∀ b ∈ (s.deliverables n).takeWhile (fun c => !genBelow n.cursor.sent c.gen), genBelow n.cursor.sent b.gen = false :=
        fun b hb => by simpa using List.mem_takeWhile_imp hb
      obtain ⟨before, after, split, earlier, here⟩ := filter_split whole
      have mine (b : Change) : b ∈ (s.deliverables n).takeWhile (fun c => !genBelow n.cursor.sent c.gen) ↔ b ∈ before ∧ s.Unacked n b := by
        rw [← earlier, List.mem_filter, s.unacked_iff]
      refine ⟨⟨(State.outstanding_few 4).mp (Nat.not_le.mp few), before, c, after,
        linkOf n.cursor.acked ((s.deliverables n).takeWhile (fun c => !genBelow n.cursor.sent c.gen)), split, (s.unacked_iff n c).mp here, above,
        fun b hb unacked => sent b ((mine b).mpr ⟨hb, unacked⟩), ?_, ?_, rfl⟩, rfl⟩
      · generalize took : (s.deliverables n).takeWhile (fun c => !genBelow n.cursor.sent c.gen) = l at earlier mine
        obtain rfl | ⟨front, b, rfl⟩ := l.eq_nil_or_concat
        · exact .inl ⟨rfl, fun b hb unacked => by simpa using (mine b).mpr ⟨hb, unacked⟩⟩
        · obtain ⟨older, newer, apart, front', hb⟩ := filter_split (by simpa using earlier)
          refine .inr ⟨older, b, newer, apart, (s.unacked_iff n b).mp hb, fun x hx unacked => ?_, by simp [linkOf]⟩
          have twice : before.filter (fun c => s.deliverable c n && genBelow n.cursor.acked c.gen)
              = front ++ b :: newer.filter (fun c => s.deliverable c n && genBelow n.cursor.acked c.gen) := by
            rw [apart, List.filter_append, front', List.filter_cons, if_pos hb]
          rw [earlier] at twice
          have none : newer.filter (fun c => s.deliverable c n && genBelow n.cursor.acked c.gen) = [] := by
            simpa using twice.symm
          have := (List.filter_eq_nil_iff.mp none) x hx
          exact this ((s.unacked_iff n x).mpr unacked)
      · unfold Change.item
        cases c.body <;> rfl

/-- With no change offered there is none to offer. -/
theorem State.offerChange_none (h : s.offerChange n = none) (d : Directive) (c : Cursor) : ¬ s.NextChange n d c := by
  rintro ⟨few, before, x, after, link, split, unacked, above, -⟩
  have room : ¬ 4 ≤ s.outstanding n := Nat.not_le.mpr ((State.outstanding_few 4).mpr few)
  simp only [State.offerChange, if_neg room, drop_takeWhile] at h
  split at h
  · rename_i none
    have all := List.dropWhile_eq_nil_iff.mp none x (State.mem_deliverables_iff.mpr ⟨by rw [split]; simp, unacked⟩)
    rw [above] at all
    cases all
  · cases h

end Changes

/-! ### Reloads (05:R109) -/

section Reloads
variable {s : State} {n m : Node} {d : Directive} {g : Nat} {p : ReloadProgress}

theorem State.floorFor_iff {f : Nat} : s.floorFor n = some f ↔
    ∃ point room, n.enrol.entry = some point ∧ s.room? point = some room ∧ room.floor = f := by
  simp only [State.floorFor, Option.map_eq_some_iff, Option.bind_eq_some_iff]
  constructor
  · rintro ⟨room, ⟨point, entry, found⟩, floor⟩
    exact ⟨point, room, entry, found, floor⟩
  · rintro ⟨point, room, entry, found, floor⟩
    exact ⟨room, ⟨point, entry, found⟩, floor⟩

theorem State.reloads_iff (s : State) (n : Node) (g : Nat) (p : ReloadProgress) (e : ListEntry) :
    (p.last.all (fun l => genBelow l e.gen) && !genBelow g e.gen && s.credRelevant e.cred n) = true ↔ s.Reloads n g p e := by
  rw [Bool.and_eq_true, Bool.and_eq_true, State.credRelevant_iff, Bool.not_eq_true', Option.all_eq_true, and_assoc]
  rfl

/-- From step 3 on: the next list entry, or RELOAD_END. -/
theorem State.offerEntry_next (s : State) (n : Node) (g : Nat) (p : ReloadProgress) (done : p.floorDone = true) :
    let o := s.offerEntry n g p
    ((p.entries < 256 ∧ ∃ (before : List ListEntry) (e : ListEntry) (after : List ListEntry),
        s.revoc.entries = before ++ e :: after ∧ s.Reloads n g p e ∧ (∀ b ∈ before, ¬ s.Reloads n g p b) ∧
        o.1 = .reloadSerial n.addr e.serial ∧ o.2.reload = .sending g
          { floorDone := true, last := some e.gen, entries := p.entries + 1, count := p.count + 1 }) ∨
      ((256 ≤ p.entries ∨ ∀ e ∈ s.revoc.entries, ¬ s.Reloads n g p e) ∧
        o.1 = .reloadEnd n.addr g p.count ∧ o.2.reload = .awaiting g 0)) ∧ o.2 = { n with reload := o.2.reload } := by
  intro o
  cases next : s.nextEntry n g p with
  | some e =>
    have offered : o = (.reloadSerial n.addr e.serial,
        { n with reload := .sending g { p with last := some e.gen, entries := p.entries + 1, count := p.count + 1 } }) := by
      simp only [o, State.offerEntry, next]
    unfold State.nextEntry at next
    split at next
    · cases next
    · rename_i few
      obtain ⟨holds, before, after, split, fails⟩ := List.find?_eq_some_iff_append.mp next
      rw [offered]
      refine ⟨.inl ⟨Nat.not_le.mp few, before, e, after, split, (s.reloads_iff n g p e).mp holds, fun b hb reloads => ?_, rfl, ?_⟩, rfl⟩
      · have := fails b hb
        rw [(s.reloads_iff n g p b).mpr reloads] at this
        cases this
      · simp only [done]
  | none =>
    have offered : o = (.reloadEnd n.addr g p.count, { n with reload := .awaiting g 0 }) := by
      simp only [o, State.offerEntry, next]
    rw [offered]
    refine ⟨.inr ⟨?_, rfl, rfl⟩, rfl⟩
    unfold State.nextEntry at next
    split at next
    · rename_i full
      exact .inl full
    · exact .inr fun e he reloads => (List.find?_eq_none.mp next) e he ((s.reloads_iff n g p e).mpr reloads)

theorem State.offerReload_next (s : State) (n : Node) (g : Nat) (p : ReloadProgress) :
    let o := s.offerReload n g p
    s.NextReload n g p o.1 o.2.reload ∧ o.2 = { n with reload := o.2.reload } := by
  intro o
  have past (skips : ∀ f, ¬ (p.floorDone = false ∧ s.floorFor n = some f)) (entry : o = s.offerEntry n g { p with floorDone := true }) :
      s.NextReload n g p o.1 o.2.reload ∧ o.2 = { n with reload := o.2.reload } := by
    obtain ⟨next, rest⟩ := s.offerEntry_next n g { p with floorDone := true } rfl
    rw [entry]
    exact ⟨.inr ⟨fun f floor => skips f (floor.imp_right State.floorFor_iff.mpr), next⟩, rest⟩
  cases done : p.floorDone with
  | true => exact past (by simp [done]) (by simp only [o, State.offerReload, done])
  | false =>
    cases floor : s.floorFor n with
    | none => exact past (by simp [floor]) (by simp only [o, State.offerReload, done, floor])
    | some f =>
      have offered : o = (.reloadFloor n.addr f, { n with reload := .sending g { p with floorDone := true, count := p.count + 1 } }) := by
        simp only [o, State.offerReload, done, floor]
      rw [offered]
      exact ⟨.inl ⟨f, ⟨done, State.floorFor_iff.mp floor⟩, rfl, rfl⟩, rfl⟩

/-- The item offered is the next one of 05:R105 or R109, and what its placing leaves. -/
theorem State.offerItem_next (h : s.offerItem n = some (d, m)) :
    s.NextItem n d m.cursor m.reload ∧ m = { n with cursor := m.cursor, reload := m.reload } := by
  unfold State.NextItem
  unfold State.offerItem at h
  cases reload : n.reload with
  | none =>
    simp only [reload] at h
    obtain ⟨next, rest⟩ := State.offerChange_next h
    have still : m.reload = .none := by rw [rest]; exact reload
    exact ⟨⟨next, still⟩, by rw [still, ← reload]; exact rest⟩
  | marked =>
    simp only [reload] at h
    obtain ⟨rfl, rfl⟩ := Prod.mk.inj (Option.some.inj h)
    exact ⟨⟨rfl, rfl, rfl⟩, rfl⟩
  | sending g p =>
    simp only [reload] at h
    obtain ⟨next, rest⟩ := s.offerReload_next n g p
    rw [Option.some.inj h] at next rest
    have still : m.cursor = n.cursor := (congrArg Node.cursor rest :)
    exact ⟨⟨next, still⟩, by rw [still]; exact rest⟩
  | awaiting g w =>
    simp only [reload] at h
    cases h

theorem State.offerItem_none (h : s.offerItem n = none) (d : Directive) (c : Cursor) (q : Reload) : ¬ s.NextItem n d c q := by
  unfold State.NextItem
  unfold State.offerItem at h
  cases reload : n.reload with
  | none =>
    simp only [reload] at h
    exact fun next => State.offerChange_none h d c next.1
  | marked => simp only [reload] at h; cases h
  | sending g p => simp only [reload] at h; cases h
  | awaiting g w => exact id

end Reloads

end Sys2Proof.Machine

/-! The walk of a composition over the nodes (01:R17 to R19). -/

namespace Sys2Proof.Machine

open Sys2Proof

/-! ### One node record replaced -/

section Replace
variable {s : State} {a : Nat} {n m : Node}

theorem State.replace_node? (hn : s.node? a = some n) (addr : m.addr = a) (b : Nat) :
    (s.modNode a (fun _ => m)).node? b = if b = a then some m else s.node? b := by
  unfold State.node? findKey at hn ⊢
  rw [State.modNode_nodes, modKey, List.find?_map]
  by_cases here : b = a
  · subst here
    rw [if_pos rfl]
    have test : (fun x : Node => x.addr == b) ∘ (fun x => if x.addr = b then m else x) = fun x => x.addr == b := by
      funext x
      by_cases hx : x.addr = b <;> simp [hx, addr]
    rw [test, hn, Option.map_some, if_pos (by simpa using List.find?_some hn)]
  · rw [if_neg here]
    have test : (fun x : Node => x.addr == b) ∘ (fun x => if x.addr = a then m else x) = fun x => x.addr == b := by
      funext x
      by_cases hx : x.addr = a
      · simp [hx, addr]
      · simp [hx]
    rw [test]
    cases found : s.nodes.find? (fun x => x.addr == b) with
    | none => rfl
    | some x =>
      have at_ : x.addr = b := by simpa using List.find?_some found
      rw [Option.map_some, if_neg (at_ ▸ here)]

/-- With addresses listed once, an update of the node found is its replacement. -/
theorem State.modNode_replaces (once : s.addrs.Nodup) (hn : s.node? a = some n) (f : Node → Node) :
    s.modNode a f = s.modNode a (fun _ => f n) := by
  obtain ⟨addr, mem⟩ := findKey_some Node.addr hn
  have same : modKey Node.addr a f s.nodes = modKey Node.addr a (fun _ => f n) s.nodes := by
    refine List.map_congr_left fun x hx => ?_
    split
    · rename_i here
      rw [List.inj_on_of_nodup_map once hx mem (here.trans addr.symm)]
    · rfl
  rw [State.modNode, State.modNode, same]

end Replace

/-! ### What one node is offered -/

/-- An offer made to a node: a directive for it, and the node once that is placed. -/
abbrev Offer := Node → Option (Directive × Node)

/-- The offers made in turn to a node with some slots left: the directives placed, and the node after them. -/
def served : List Offer → Nat → Node → List Directive × Node
  | [], _, n => ([], n)
  | o :: os, k, n =>
    match k, o n with
    | k + 1, some (d, m) => (d :: (served os k m).1, (served os k m).2)
    | k, _ => served os k n

/-- One offer made to the node of an address. -/
def Compose.visit (a : Nat) (c : Compose) (o : Offer) : Compose :=
  match c.state.node? a with
  | some n =>
    if c.free && n.st.answering then
      match o n with
      | some (d, m) => c.place d a (c.state.modNode a (fun _ => m))
      | none => c
    else c
  | none => c

/-- What is placed for a node names it, and leaves its address and state. -/
def Offer.Fair (tgt : Directive → Option Nat) (o : Offer) : Prop :=
  ∀ n d m, o n = some (d, m) → tgt d = some n.addr ∧ m.addr = n.addr ∧ m.st = n.st

section Served
variable {tgt : Directive → Option Nat} {os : List Offer} {n : Node} {k : Nat}

theorem served_zero (os : List Offer) (n : Node) : served os 0 n = ([], n) := by
  induction os with
  | nil => rfl
  | cons o os ih => exact ih

theorem served_none {o : Offer} (h : o n = none) : served (o :: os) k n = served os k n := by
  cases k <;> simp only [served, h]

theorem served_some {o : Offer} {d : Directive} {m : Node} (h : o n = some (d, m)) :
    served (o :: os) (k + 1) n = (d :: (served os k m).1, (served os k m).2) := by
  simp only [served, h]

theorem served_length (os : List Offer) (k : Nat) (n : Node) : (served os k n).1.length ≤ k := by
  induction os generalizing k n with
  | nil => exact Nat.zero_le k
  | cons o os ih =>
    cases k with
    | zero => rw [served_zero]; exact Nat.zero_le 0
    | succ k =>
      cases h : o n with
      | none => rw [served_none h]; exact ih _ _
      | some p =>
        rw [served_some h]
        exact Nat.succ_le_succ (ih k p.2)

theorem served_offers (os : List Offer) (k : Nat) (n : Node) : (served os k n).1.length ≤ os.length := by
  induction os generalizing k n with
  | nil => exact Nat.le_refl _
  | cons o os ih =>
    cases k with
    | zero => rw [served_zero]; exact Nat.zero_le _
    | succ k =>
      cases h : o n with
      | none => rw [served_none h]; exact Nat.le_succ_of_le (ih _ _)
      | some p =>
        rw [served_some h]
        exact Nat.succ_le_succ (ih k p.2)

theorem served_fair (fair : ∀ o ∈ os, Offer.Fair tgt o) : ∀ (k : Nat) (n : Node),
    (∀ d ∈ (served os k n).1, tgt d = some n.addr) ∧ (served os k n).2.addr = n.addr ∧ (served os k n).2.st = n.st := by
  induction os with
  | nil => exact fun k n => ⟨by simp [served], rfl, rfl⟩
  | cons o os ih =>
    intro k n
    have rest := ih fun o ho => fair o (List.mem_cons_of_mem _ ho)
    cases k with
    | zero => rw [served_zero]; exact ⟨by simp, rfl, rfl⟩
    | succ k =>
      cases h : o n with
      | none => rw [served_none h]; exact rest (k + 1) n
      | some p =>
        obtain ⟨d, m⟩ := p
        obtain ⟨names, addr, st⟩ := fair o List.mem_cons_self n d m h
        obtain ⟨others, addr', st'⟩ := rest k m
        rw [served_some h]
        refine ⟨fun x hx => ?_, addr'.trans addr, st'.trans st⟩
        obtain rfl | hx := List.mem_cons.mp hx
        · exact names
        · rw [others x hx, addr]

end Served

/-! ### A node visited -/

/-- What visits to one address or to several leave of a composition: directives placed at its end, of nodes the record of
those addresses. -/
structure Compose.Visited (as : List Nat) (ds : List Directive) (c d : Compose) : Prop where
  segment : d.segment = c.segment ++ ds
  slots : ds.length ≤ 8 - c.segment.length
  others : ∀ b, b ∉ as → d.state.node? b = c.state.node? b
  addrs : d.state.addrs = c.state.addrs
  state : d.state = { c.state with nodes := d.state.nodes }

theorem Compose.Visited.refl (as : List Nat) (c : Compose) : Compose.Visited as [] c c :=
  ⟨by simp, Nat.zero_le _, fun _ _ => rfl, rfl, rfl⟩

theorem Compose.Visited.trans {as bs : List Nat} {ds es : List Directive} {c d e : Compose} (h : Compose.Visited as ds c d)
    (g : Compose.Visited bs es d e) : Compose.Visited (as ++ bs) (ds ++ es) c e where
  segment := by rw [g.segment, h.segment, List.append_assoc]
  slots := by
    have one := h.slots
    have two := g.slots
    rw [h.segment, List.length_append] at two
    rw [List.length_append]
    omega
  others b away := by
    rw [List.mem_append, not_or] at away
    exact (g.others b away.2).trans (h.others b away.1)
  addrs := g.addrs.trans h.addrs
  state := State.nodes_frame h.state g.state

section Visits
variable {tgt : Directive → Option Nat} {os : List Offer} {n : Node} {a : Nat} {c : Compose}

theorem Compose.visits_idle (idle : ∀ n, c.state.node? a = some n → n.st.answering = false) (os : List Offer) :
    os.foldl (Compose.visit a) c = c := by
  induction os with
  | nil => rfl
  | cons o os ih =>
    have stays : c.visit a o = c := by
      unfold Compose.visit
      cases hn : c.state.node? a with
      | none => rfl
      | some n => simp only [idle n hn, Bool.and_false, Bool.false_eq_true, if_false]
    rw [List.foldl_cons, stays, ih]

/-- The offers made to one node that answers, slots being left as the segment stands. -/
theorem Compose.visits_served (fair : ∀ o ∈ os, Offer.Fair tgt o) : ∀ {n : Node} {c : Compose}, c.state.node? a = some n →
    n.st.answering = true →
    let p := served os (8 - c.segment.length) n
    let d := os.foldl (Compose.visit a) c
    Compose.Visited [a] p.1 c d ∧ d.state.node? a = some p.2 ∧ d.last = if p.1 = [] then c.last else some a := by
  induction os with
  | nil => exact fun {n} {c} hn _ => ⟨.refl [a] c, hn, rfl⟩
  | cons o os ih =>
    intro n c hn answers
    have rest := @ih fun o ho => fair o (List.mem_cons_of_mem _ ho)
    have addr := (findKey_some Node.addr hn).1
    intro p d
    by_cases room : c.segment.length < 8
    · obtain ⟨k, left⟩ : ∃ k, 8 - c.segment.length = k + 1 := ⟨7 - c.segment.length, by omega⟩
      have free : c.free = true := decide_eq_true room
      cases h : o n with
      | none =>
        have stays : c.visit a o = c := by simp only [Compose.visit, hn, free, answers, Bool.and_self, if_true, h]
        simp only [p, d, served_none h, List.foldl_cons, stays]
        exact rest hn answers
      | some q =>
        obtain ⟨x, m⟩ := q
        obtain ⟨-, same, st⟩ := fair o List.mem_cons_self n x m h
        have moved := State.replace_node? hn (m := m) (same.trans addr)
        have placed : c.visit a o = c.place x a (c.state.modNode a (fun _ => m)) := by
          simp only [Compose.visit, hn, free, answers, Bool.and_self, if_true, h]
        obtain ⟨visited, found, last⟩ := rest (c := c.place x a (c.state.modNode a (fun _ => m))) ((moved a).trans (if_pos rfl))
          (by rw [st]; exact answers)
        have one : Compose.Visited [a] [x] c (c.place x a (c.state.modNode a (fun _ => m))) :=
          ⟨rfl, by rw [List.length_singleton]; omega, fun b away => (moved b).trans (if_neg (by simpa using away)), by
            rw [Compose.place, State.addrs, State.addrs, State.modNode_nodes, modKey, List.map_map]
            refine List.map_congr_left fun y _ => ?_
            by_cases hy : y.addr = a <;> simp [hy, same, addr], rfl⟩
        have slots : 8 - (c.place x a (c.state.modNode a (fun _ => m))).segment.length = k := by
          simp only [Compose.place, List.length_append, List.length_singleton]
          omega
        rw [slots] at visited found last
        simp only [p, d, List.foldl_cons, placed, left, served_some h]
        refine ⟨⟨?_, ?_, ?_, ?_, ?_⟩, found, ?_⟩
        · exact (one.trans visited).segment
        · exact (one.trans visited).slots
        · exact fun b away => (one.trans visited).others b (by simpa using away)
        · exact (one.trans visited).addrs
        · exact (one.trans visited).state
        · rw [last, if_neg (List.cons_ne_nil _ _)]
          simp [Compose.place]
    · have stays : c.visit a o = c := by
        have taken : c.free = false := decide_eq_false room
        simp only [Compose.visit, hn, taken, Bool.false_and, Bool.false_eq_true, if_false]
      have full : 8 - c.segment.length = 0 := by omega
      have after := rest hn answers
      rw [full, served_zero] at after
      simp only [p, d, List.foldl_cons, stays, full, served_zero]
      exact after

end Visits

/-! ### The walk -/

/-- What a walk over some addresses places: for each node that answers what its offers give, in the order of the walk, the
last of it named. -/
structure Compose.Walked (tgt : Directive → Option Nat) (os : List Offer) (as : List Nat) (ds : List Directive) (c d : Compose) : Prop where
  visited : Compose.Visited as ds c d
  idle : ∀ a ∈ as, ∀ n, c.state.node? a = some n → n.st.answering = false →
    ds.filter (fun x => tgt x == some a) = [] ∧ d.state.node? a = some n
  served : ∀ a ∈ as, ∀ n, c.state.node? a = some n → n.st.answering = true → ∃ k,
    ds.filter (fun x => tgt x == some a) = (served os k n).1 ∧ d.state.node? a = some (served os k n).2 ∧
    (d.segment.length < 8 → (Machine.served os k n).1.length < k)
  named : ∀ x ∈ ds, ∃ a ∈ as, tgt x = some a ∧ ∃ n, c.state.node? a = some n ∧ n.st.answering = true
  order : ∀ (R : Nat → Nat → Prop) (Q : Directive → Directive → Prop), as.Pairwise R → (∀ a, R a a) →
    (∀ k n, (Machine.served os k n).1.Pairwise Q) →
    ds.Pairwise (fun x y => ∀ a b, tgt x = some a → tgt y = some b → R a b ∧ (a = b → Q x y))
  last : d.last = (ds.getLast?.bind tgt).orElse (fun _ => c.last)

theorem Compose.walked {tgt : Directive → Option Nat} {os : List Offer} (fair : ∀ o ∈ os, Offer.Fair tgt o) : ∀ (as : List Nat),
    as.Nodup → ∀ c : Compose, ∃ ds, Compose.Walked tgt os as ds c (as.foldl (fun c a => os.foldl (Compose.visit a) c) c) := by
  intro as
  induction as with
  | nil =>
    exact fun _ c => ⟨[], .refl [] c, by simp, by simp, by simp, fun _ _ _ _ _ => .nil, rfl⟩
  | cons a as ih =>
    intro once c
    obtain ⟨away, once⟩ := List.nodup_cons.mp once
    let d := os.foldl (Compose.visit a) c
    obtain ⟨es, walk⟩ := ih once d
    have others (b : Nat) (hb : b ∈ as) (h : ∀ x, x ≠ a → d.state.node? x = c.state.node? x) : d.state.node? b = c.state.node? b :=
      h b fun e => away (e ▸ hb)
    have none : es.filter (fun x => tgt x == some a) = [] := by
      refine List.filter_eq_nil_iff.mpr fun x hx same => ?_
      obtain ⟨b, hb, names, -⟩ := walk.named x hx
      rw [names, beq_iff_eq] at same
      exact away (Option.some.inj same ▸ hb)
    by_cases answers : ∃ n, c.state.node? a = some n ∧ n.st.answering = true
    · obtain ⟨n, hn, answers⟩ := answers
      obtain ⟨visited, found, last⟩ := Compose.visits_served fair hn answers
      have mine := (served_fair fair (8 - c.segment.length) n).1
      have addr := (findKey_some Node.addr hn).1
      rw [addr] at mine
      have kept (b : Nat) (hb : b ∈ as) := others b hb fun x ne => visited.others x (by simpa using ne)
      have allMine : (served os (8 - c.segment.length) n).1.filter (fun x => tgt x == some a) = (served os (8 - c.segment.length) n).1 :=
        List.filter_eq_self.mpr fun x hx => by rw [mine x hx, beq_self_eq_true]
      have notTheirs (b : Nat) (hb : b ∈ as) : (served os (8 - c.segment.length) n).1.filter (fun x => tgt x == some b) = [] := by
        refine List.filter_eq_nil_iff.mpr fun x hx same => away ?_
        rw [mine x hx, beq_iff_eq] at same
        exact Option.some.inj same ▸ hb
      refine ⟨(served os (8 - c.segment.length) n).1 ++ es, visited.trans walk.visited, ?_, ?_, ?_, ?_, ?_⟩
      · intro b hb m hm idle
        obtain rfl | hb := List.mem_cons.mp hb
        · rw [hn] at hm
          cases hm
          rw [answers] at idle
          cases idle
        · rw [List.filter_append, notTheirs b hb]
          exact walk.idle b hb m ((kept b hb).trans hm) idle
      · intro b hb m hm on
        obtain rfl | hb := List.mem_cons.mp hb
        · obtain rfl : n = m := Option.some.inj (hn.symm.trans hm)
          refine ⟨8 - c.segment.length, by rw [List.filter_append, none, List.append_nil, allMine],
            (walk.visited.others b away).trans found, fun room => ?_⟩
          rw [List.foldl_cons, walk.visited.segment, visited.segment] at room
          simp only [List.length_append] at room
          omega
        · rw [List.filter_append, notTheirs b hb]
          exact walk.served b hb m ((kept b hb).trans hm) on
      · intro x hx
        obtain hx | hx := List.mem_append.mp hx
        · exact ⟨a, List.mem_cons_self, mine x hx, n, hn, answers⟩
        · obtain ⟨b, hb, names, m, hm, on⟩ := walk.named x hx
          exact ⟨b, List.mem_cons_of_mem _ hb, names, m, (kept b hb).symm.trans hm, on⟩
      · intro R Q order refl pairs
        obtain ⟨before, order⟩ := List.pairwise_cons.mp order
        refine List.pairwise_append.mpr ⟨(pairs _ n).imp_of_mem fun {x y} hx hy q p r hp hr => ?_, walk.order R Q order refl pairs,
          fun x hx y hy p r hp hr => ?_⟩
        · rw [mine x hx] at hp
          rw [mine y hy] at hr
          cases hp
          cases hr
          exact ⟨refl a, fun _ => q⟩
        · obtain ⟨b, hb, names, -⟩ := walk.named y hy
          rw [mine x hx] at hp
          rw [names] at hr
          cases hp
          cases hr
          exact ⟨before _ hb, fun e => absurd (e ▸ hb) away⟩
      · rw [List.foldl_cons, walk.last, show d.last = _ from last]
        obtain rfl | ⟨front, x, rfl⟩ := es.eq_nil_or_concat
        · rw [List.append_nil]
          obtain none | ⟨front, x, eq⟩ := (served os (8 - c.segment.length) n).1.eq_nil_or_concat
          · rw [if_pos none, none]
          · rw [eq, List.concat_eq_append, if_neg (by simp), List.getLast?_append]
            simp [mine x (by rw [eq]; simp)]
        · obtain ⟨b, -, names, -⟩ := walk.named x (by simp)
          simp [List.getLast?_append, names]
    · have stays : d = c := Compose.visits_idle (fun n hn => by
        simpa using fun on => answers ⟨n, hn, on⟩) os
      rw [List.foldl_cons, show os.foldl (Compose.visit a) c = c from stays]
      rw [stays] at walk
      refine ⟨es, ⟨walk.visited.segment, walk.visited.slots, fun b far => walk.visited.others b fun h => far (List.mem_cons_of_mem _ h),
        walk.visited.addrs, walk.visited.state⟩, ?_, ?_, ?_, ?_, walk.last⟩
      · intro b hb m hm idle
        obtain rfl | hb := List.mem_cons.mp hb
        · exact ⟨none, (walk.visited.others b away).trans hm⟩
        · exact walk.idle b hb m hm idle
      · intro b hb m hm on
        obtain rfl | hb := List.mem_cons.mp hb
        · exact absurd ⟨m, hm, on⟩ answers
        · exact walk.served b hb m hm on
      · intro x hx
        obtain ⟨b, hb, rest⟩ := walk.named x hx
        exact ⟨b, List.mem_cons_of_mem _ hb, rest⟩
      · exact fun R Q order refl pairs => walk.order R Q (List.pairwise_cons.mp order).2 refl pairs

end Sys2Proof.Machine

/-! The composition of a segment: O44. -/

namespace Sys2Proof.Machine

open Sys2Proof

/-! ### The latched items of a node (01:R18) -/

/-- The latched items of a node, in the order of 01:R18. -/
inductive Latch where
  | fallback
  | permit
  | comp
  deriving DecidableEq

/-- The item is latched at a node. -/
def Latch.flag : Latch → Node → Bool
  | .fallback, n => n.latchFallback
  | .permit, n => n.latchPermit
  | .comp, n => n.latchComp

/-- The directive of a latched item. -/
def Latch.content (s : State) : Latch → Node → Directive
  | .fallback, n => s.fallbackParams n
  | .permit, n => uploadPermit n
  | .comp, n => .compartmentSet n.addr n.comps

/-- A node once the item is placed. -/
def Latch.placed : Latch → Node → Node
  | .fallback, n => { n with latchFallback := false }
  | .permit, n => n.permitPlaced
  | .comp, n => { n with latchComp := false }

/-- The node that a directive carries a latched item for. -/
def latchedFor : Directive → Option Nat
  | .fallbackParams a _ _ _ _ => some a
  | .uploadPermit a _ _ => some a
  | .compartmentSet a _ => some a
  | _ => none

/-- The place of a latched item's directive in the order of 01:R18. -/
def latchRank : Directive → Nat
  | .fallbackParams _ _ _ _ _ => 0
  | .uploadPermit _ _ _ => 1
  | _ => 2

/-- The place of a latched item in the order of 01:R18. -/
def Latch.rank : Latch → Nat
  | .fallback => 0
  | .permit => 1
  | .comp => 2

/-- The offer of a latched item. -/
def Latch.offer (s : State) (l : Latch) : Offer := fun n => if l.flag n then some (l.content s n, l.placed n) else none

section Latches
variable {s : State} {n : Node} {ls : List Latch}

theorem uploadPermit_eq (n : Node) : ∃ base count, uploadPermit n = .uploadPermit n.addr base count := by
  unfold uploadPermit
  split <;> exact ⟨_, _, rfl⟩

theorem Latch.content_for (s : State) (l : Latch) (n : Node) : latchedFor (l.content s n) = some n.addr := by
  cases l with
  | permit =>
    obtain ⟨base, count, eq⟩ := uploadPermit_eq n
    rw [Latch.content, eq]
    rfl
  | _ => rfl

theorem Latch.content_rank (s : State) (l : Latch) (n : Node) : latchRank (l.content s n) = l.rank := by
  cases l with
  | permit =>
    obtain ⟨base, count, eq⟩ := uploadPermit_eq n
    rw [Latch.content, eq]
    rfl
  | _ => rfl

theorem Latch.content_inj {l k : Latch} {n : Node} (h : l.content s n = k.content s n) : l = k := by
  have ranks := congrArg latchRank h
  rw [Latch.content_rank, Latch.content_rank] at ranks
  cases l <;> cases k <;> simp_all [Latch.rank]

theorem Latch.flag_placed (l k : Latch) (n : Node) : l.flag (k.placed n) = (l.flag n && decide (l ≠ k)) := by
  cases l <;> cases k <;> simp [Latch.flag, Latch.placed, Node.permitPlaced]

theorem Latch.content_placed {l k : Latch} (ne : l ≠ k) (n : Node) : l.content s (k.placed n) = l.content s n := by
  cases l <;> cases k <;> simp_all [Latch.content, Latch.placed, State.fallbackParams, uploadPermit, Node.permitPlaced]

theorem Latch.placed_permit {k : Latch} (ne : k ≠ .permit) (n : Node) : (k.placed n).permit = n.permit := by
  cases k <;> simp_all [Latch.placed]

theorem Latch.offer_fair (s : State) (l : Latch) : Offer.Fair latchedFor (l.offer s) := by
  intro n d m h
  unfold Latch.offer at h
  split at h
  · cases h
    exact ⟨l.content_for s n, by cases l <;> rfl, by cases l <;> rfl⟩
  · cases h

/-- What the placing of latched items may change of a node. -/
def Node.Unlatches (n m : Node) : Prop := m = { n with
  latchFallback := m.latchFallback, latchPermit := m.latchPermit, latchComp := m.latchComp, permit := m.permit }

theorem Latch.placed_unlatches (l : Latch) (n : Node) : n.Unlatches (l.placed n) := by cases l <;> rfl

/-- What the latched items of a node placed with some slots left come to. -/
structure Unlatched (s : State) (ls : List Latch) (k : Nat) (n : Node) (mine : List Directive) (m : Node) : Prop where
  kinds : ∀ d ∈ mine, ∃ l : Latch, l ∈ ls ∧ d = l.content s n ∧ l.flag n = true ∧ l.flag m = false
  kept : ∀ l : Latch, l.content s n ∉ mine → l.flag m = l.flag n
  permit : m.permit = if Latch.permit.content s n ∈ mine then n.permitPlaced.permit else n.permit
  done : mine.length < k → ∀ l ∈ ls, l.flag m = false
  frame : n.Unlatches m

theorem served_unlatched (once : ls.Nodup) : ∀ (k : Nat) (n : Node),
    Unlatched s ls k n (served (ls.map (Latch.offer s)) k n).1 (served (ls.map (Latch.offer s)) k n).2 := by
  induction ls with
  | nil => exact fun k n => ⟨by simp [served], fun _ _ => rfl, by simp [served], by simp, rfl⟩
  | cons l ls ih =>
    intro k n
    obtain ⟨new, once⟩ := List.nodup_cons.mp once
    rw [List.map_cons]
    cases k with
    | zero =>
      rw [served_zero]
      exact ⟨by simp, fun _ _ => rfl, by simp, fun h => absurd h (Nat.not_lt_zero _), rfl⟩
    | succ k =>
      by_cases on : l.flag n = true
      · have rest := ih once k (l.placed n)
        rw [served_some (show l.offer s n = some (l.content s n, l.placed n) from if_pos on)]
        generalize (served (ls.map (Latch.offer s)) k (l.placed n)).1 = mine at rest
        generalize (served (ls.map (Latch.offer s)) k (l.placed n)).2 = m at rest
        have notMine : l.content s (l.placed n) ∉ mine := fun h => by
          obtain ⟨j, hj, eq, -⟩ := rest.kinds _ h
          exact new (Latch.content_inj eq ▸ hj)
        have off : l.flag m = false := by rw [rest.kept l notMine, Latch.flag_placed]; simp
        refine ⟨fun d hd => ?_, fun j hj => ?_, ?_, fun short j hj => ?_, ?_⟩
        · obtain rfl | hd := List.mem_cons.mp hd
          · exact ⟨l, List.mem_cons_self, rfl, on, off⟩
          · obtain ⟨j, hj, eq, flag, cleared⟩ := rest.kinds d hd
            have ne : j ≠ l := fun e => new (e ▸ hj)
            rw [Latch.content_placed ne] at eq
            rw [Latch.flag_placed, Bool.and_eq_true] at flag
            exact ⟨j, List.mem_cons_of_mem _ hj, eq, flag.1, cleared⟩
        · have ne : j ≠ l := fun e => hj (e ▸ List.mem_cons_self)
          rw [rest.kept j (by rw [Latch.content_placed ne]; exact fun h => hj (List.mem_cons_of_mem _ h)), Latch.flag_placed]
          simp [ne]
        · rw [rest.permit]
          by_cases here : l = .permit
          · subst here
            rw [if_neg notMine, if_pos List.mem_cons_self]
            rfl
          · have others : Latch.permit.content s n ≠ l.content s n := fun e => here (Latch.content_inj e).symm
            rw [Latch.content_placed (Ne.symm here), Latch.placed_permit here]
            simp only [List.mem_cons, others, false_or]
            cases l with
            | permit => exact absurd rfl here
            | _ => rfl
        · obtain rfl | hj := List.mem_cons.mp hj
          · exact off
          · exact rest.done (by simpa using short) j hj
        · exact rest.frame.trans (by rw [l.placed_unlatches n])
      · have rest := ih once (k + 1) n
        rw [served_none (show l.offer s n = none from if_neg on)]
        refine ⟨fun d hd => ?_, rest.kept, rest.permit, fun short j hj => ?_, rest.frame⟩
        · obtain ⟨j, hj, found⟩ := rest.kinds d hd
          exact ⟨j, List.mem_cons_of_mem _ hj, found⟩
        · obtain rfl | hj := List.mem_cons.mp hj
          · rw [rest.kept j fun h => ?_]
            · simpa using on
            · obtain ⟨_, _, eq, flag, _⟩ := rest.kinds _ h
              exact on (Latch.content_inj eq ▸ flag)
          · exact rest.done short j hj

/-- The latched items placed stand in the order of 01:R18. -/
theorem served_ranked (order : ls.Pairwise (fun l k => l.rank < k.rank)) (k : Nat) (n : Node) :
    (served (ls.map (Latch.offer s)) k n).1.Pairwise (fun d e => latchRank d < latchRank e) := by
  induction ls generalizing k n with
  | nil => exact .nil
  | cons l ls ih =>
    obtain ⟨before, order⟩ := List.pairwise_cons.mp order
    cases k with
    | zero => rw [served_zero]; exact .nil
    | succ k =>
      by_cases on : l.flag n = true
      · have once : ls.Nodup := order.imp fun h e => absurd (e ▸ h) (Nat.lt_irrefl _)
        rw [List.map_cons, served_some (show l.offer s n = some (l.content s n, l.placed n) from if_pos on)]
        refine List.pairwise_cons.mpr ⟨fun d hd => ?_, ih order k _⟩
        obtain ⟨j, hj, rfl, -⟩ := (served_unlatched once k (l.placed n)).kinds d hd
        rw [Latch.content_rank, Latch.content_rank]
        exact before j hj
      · rw [List.map_cons, served_none (show l.offer s n = none from if_neg on)]
        exact ih order _ n

end Latches

end Sys2Proof.Machine

/-! The composition of a segment, from its urgent directives to its items: O44. -/

namespace Sys2Proof.Machine

open Sys2Proof

/-! ### The urgent directives sent (01:R16, 06:R124) -/

/-- The record of an urgent directive first sent. -/
def Urgent.sentRecord (s : State) : Urgent → Nat × Entry
  | .decision d => (d.arrival, d.entry .admission)
  | .remoteOpen a => (s.now, { kind := .remoteOpen, node := some a, point := s.pointOf a })

/-- The session that an urgent directive first sent opens (08:R149). -/
def State.openedBy (s : State) (u : Urgent) : State :=
  match u with
  | .decision d =>
    match d.granted, d.mode, d.cred with
    | true, some mode, some k => s.openSession d.node mode k
    | _, _, _ => s
  | .remoteOpen _ => s

/-- At most the session of a node is another. -/
def Node.SessionOnly (n m : Node) : Prop := m = { n with session := m.session }

theorem Node.SessionOnly.refl (n : Node) : n.SessionOnly n := rfl

theorem Node.SessionOnly.trans (n m k : Node) (h : n.SessionOnly m) (g : m.SessionOnly k) : n.SessionOnly k := by
  unfold Node.SessionOnly at *
  rw [g, h]

theorem Node.SessionOnly.addr (n m : Node) (h : n.SessionOnly m) : m.addr = n.addr := (congrArg Node.addr h :)

section Urgents
variable {s t u v w : State}

theorem State.openSession_nodewise (s : State) (a : Nat) (mode : SessionMode) (k : Nat) :
    s.Nodewise Node.SessionOnly (s.openSession a mode k) := by
  unfold State.openSession
  split
  · exact .of_eq Node.SessionOnly.refl rfl
  · split
    · exact .modNode Node.SessionOnly.refl s a fun _ => rfl
    · split
      · exact .modNode Node.SessionOnly.refl s a fun _ => rfl
      · exact .modNode Node.SessionOnly.refl s a fun _ => rfl

theorem State.openSession_frame (s : State) (a : Nat) (mode : SessionMode) (k : Nat) :
    s.openSession a mode k = { s with nodes := (s.openSession a mode k).nodes } := by
  unfold State.openSession
  split
  · rfl
  · split
    · rfl
    · split <;> rfl

theorem State.openSession_congr (nodes : v.nodes = w.nodes) (minibar : v.minibar = w.minibar) (time : v.time = w.time)
    (a : Nat) (mode : SessionMode) (k : Nat) : (v.openSession a mode k).nodes = (w.openSession a mode k).nodes := by
  have node : v.node? a = w.node? a := by rw [State.node?, nodes]; rfl
  have folio (e : Option Nat) : v.openFolio? e = w.openFolio? e := by
    unfold State.openFolio? State.folio?
    rw [minibar]
  have now : v.now = w.now := congrArg TimeBase.secs time
  unfold State.openSession
  rw [node]
  cases w.node? a with
  | none => exact nodes
  | some n =>
    cases mode with
    | restock => simp only [State.modNode_nodes, nodes, now]
    | guest =>
      simp only [folio]
      cases w.openFolio? n.enrol.entry with
      | none => simp only [State.modNode_nodes, nodes]
      | some f => simp only [State.modNode_nodes, nodes, now]

theorem State.openedBy_nodewise (s : State) (x : Urgent) : s.Nodewise Node.SessionOnly (s.openedBy x) := by
  unfold State.openedBy
  split
  · split
    · exact s.openSession_nodewise _ _ _
    · exact .of_eq Node.SessionOnly.refl rfl
  · exact .of_eq Node.SessionOnly.refl rfl

theorem State.openedBy_frame (s : State) (x : Urgent) : s.openedBy x = { s with nodes := (s.openedBy x).nodes } := by
  unfold State.openedBy
  split
  · split
    · exact s.openSession_frame _ _ _
    · rfl
  · rfl

theorem State.openedBy_congr (nodes : v.nodes = w.nodes) (minibar : v.minibar = w.minibar) (time : v.time = w.time) (x : Urgent) :
    (v.openedBy x).nodes = (w.openedBy x).nodes := by
  unfold State.openedBy
  split
  · split
    · exact State.openSession_congr nodes minibar time _ _ _
    · exact nodes
  · exact nodes

theorem State.openedBy_pointOf (s : State) (x : Urgent) (a : Nat) : (s.openedBy x).pointOf a = s.pointOf a := by
  unfold State.pointOf
  cases hn : s.node? a with
  | none =>
    have gone : (s.openedBy x).node? a = none := by
      have addrs := (s.openedBy_nodewise x).addrs Node.SessionOnly.addr
      rw [State.node?, findKey_none] at hn ⊢
      intro m hm e
      have : a ∈ s.addrs := by rw [← addrs, ← e]; exact List.mem_map_of_mem hm
      obtain ⟨n, hn', e'⟩ := List.mem_map.mp this
      exact hn n hn' e'
    rw [gone]
  | some n =>
    obtain ⟨m, hm, only⟩ := (s.openedBy_nodewise x).node? Node.SessionOnly.addr hn
    rw [hm, only]
    rfl

/-- A directive first sent: its record, then its session. -/
theorem State.urgentSent_eq (s : State) (x : Urgent) : (s.urgentSent x).nodes = (s.openedBy x).nodes ∧
    Records s (s.urgentSent x) [x.sentRecord s] ∧
    s.urgentSent x = { s with nodes := (s.urgentSent x).nodes, journal := (s.urgentSent x).journal, port := (s.urgentSent x).port } := by
  cases x with
  | remoteOpen a =>
    exact ⟨by simp [State.urgentSent, State.remoteOpenSent, State.openedBy], Records.append s _ rfl, by
      exact State.eq_of_fields (nodes := rfl) (journal := rfl) (port := rfl)⟩
  | decision d =>
    let t := s.append (d.entry .admission)
    have sent : s.urgentSent (.decision d) = t.openedBy (.decision d) := rfl
    have frame := t.openedBy_frame (.decision d)
    rw [sent]
    refine ⟨State.openedBy_congr (s.append_nodes _) (s.append_minibar _) (s.append_time _) _, ⟨?_, ?_, ?_⟩, ?_⟩
    · rw [frame]
      exact s.append_time _
    · rw [frame]
      exact s.append_journal _
    · rw [frame]
      exact s.append_quiet _
    · exact frame.trans (State.eq_of_fields (by simp [t]) (by simp [t]) (by simp [t]) (by simp [t]) (by simp [t]) (by simp [t]) (by simp [t])
        rfl (by simp [t]) (by simp [t]) (by simp [t]) (by rw [frame]) (by rw [frame]) (by simp [t]))

/-- The directives first sent, one after another: the sessions, from another state of the same nodes, folios and time. -/
theorem State.urgents_sent (us : List Urgent) : ∀ v w : State, v.nodes = w.nodes → v.minibar = w.minibar → v.time = w.time →
    let t := us.foldl State.urgentSent v
    t.nodes = (us.foldl State.openedBy w).nodes ∧ Records v t (us.map (Urgent.sentRecord w)) ∧
    w.Nodewise Node.SessionOnly (us.foldl State.openedBy w) ∧
    t = { v with nodes := t.nodes, journal := t.journal, port := t.port } := by
  induction us with
  | nil => exact fun v w nodes _ _ => ⟨nodes, .refl v, .of_eq Node.SessionOnly.refl rfl, rfl⟩
  | cons x us ih =>
    intro v w nodes minibar time
    obtain ⟨opened, record, frame⟩ := v.urgentSent_eq x
    have still := w.openedBy_frame x
    obtain ⟨nodes', records, sessions, rest⟩ := ih (v.urgentSent x) (w.openedBy x)
      (opened.trans (State.openedBy_congr nodes minibar time x))
      ((congrArg State.minibar frame).trans (minibar.trans (congrArg State.minibar still :).symm))
      ((congrArg State.time frame).trans (time.trans (congrArg State.time still :).symm))
    have point (a : Nat) : v.pointOf a = w.pointOf a := by rw [State.pointOf, State.node?, nodes]; rfl
    have now : v.now = w.now := congrArg TimeBase.secs time
    have first : x.sentRecord v = x.sentRecord w := by
      cases x with
      | decision d => rfl
      | remoteOpen a => rw [Urgent.sentRecord, Urgent.sentRecord, point, now]
    have later : us.map (Urgent.sentRecord (w.openedBy x)) = us.map (Urgent.sentRecord w) := by
      refine List.map_congr_left fun y _ => ?_
      cases y with
      | decision d => rfl
      | remoteOpen a =>
        rw [Urgent.sentRecord, Urgent.sentRecord, State.openedBy_pointOf, still]
        rfl
    refine ⟨nodes', ?_, Nodewise.trans Node.SessionOnly.trans (w.openedBy_nodewise x) sessions, ?_⟩
    · rw [List.map_cons, ← first, ← later]
      exact record.trans records
    · exact State.moved_frame frame rest

end Urgents

/-! ### Change and reload items (01:R19) -/

/-- The node that a directive carries a change or reload item for. -/
def itemFor : Directive → Option Nat
  | .change a _ _ _ => some a
  | .reloadBegin a _ => some a
  | .reloadFloor a _ => some a
  | .reloadSerial a _ => some a
  | .reloadEnd a _ _ => some a
  | _ => none

section Items
variable {s : State} {n : Node} {k : Nat}

theorem State.nextItem_for {d : Directive} {c : Cursor} {q : Reload} (h : s.NextItem n d c q) : itemFor d = some n.addr := by
  unfold State.NextItem at h
  split at h
  · obtain ⟨⟨-, _, _, _, _, -, -, -, -, -, rfl, -⟩, -⟩ := h
    rfl
  · obtain ⟨rfl, -⟩ := h
    rfl
  · obtain ⟨⟨_, -, rfl, -⟩ | ⟨-, ⟨-, _, _, _, -, -, -, rfl, -⟩ | ⟨-, rfl, -⟩⟩, -⟩ := h
    · rfl
    · rfl
    · rfl
  · exact h.elim

theorem State.offerItem_fair (s : State) : Offer.Fair itemFor s.offerItem := by
  intro n d m h
  obtain ⟨next, rest⟩ := State.offerItem_next h
  exact ⟨State.nextItem_for next, by rw [rest], by rw [rest]⟩

/-- At most two items of one node, and fewer only where a slot is left and none is offered. -/
theorem served_items (s : State) (k : Nat) (n : Node) :
    ∃ mine m, served [s.offerItem, s.offerItem] k n = (mine, m) ∧ m = { n with cursor := m.cursor, reload := m.reload } ∧
      (mine = [] ∧ m.cursor = n.cursor ∧ m.reload = n.reload ∨
        (∃ d, mine = [d] ∧ s.NextItem n d m.cursor m.reload) ∨
        ∃ d e c q, mine = [d, e] ∧ s.NextItem n d c q ∧ s.NextItem { n with cursor := c, reload := q } e m.cursor m.reload) ∧
      (mine.length < k → mine.length = 2 ∨ ∀ d c q, ¬ s.NextItem m d c q) := by
  cases k with
  | zero => exact ⟨[], n, served_zero _ n, rfl, .inl ⟨rfl, rfl, rfl⟩, fun h => absurd h (Nat.not_lt_zero _)⟩
  | succ k =>
    cases first : s.offerItem n with
    | none =>
      refine ⟨[], n, ?_, rfl, .inl ⟨rfl, rfl, rfl⟩, fun _ => .inr fun d c q => State.offerItem_none first d c q⟩
      rw [served_none first, served_none first]
      rfl
    | some p =>
      obtain ⟨d, m⟩ := p
      obtain ⟨next, rest⟩ := State.offerItem_next first
      rw [served_some first]
      cases k with
      | zero =>
        rw [served_zero]
        exact ⟨[d], m, rfl, rest, .inr (.inl ⟨d, rfl, next⟩), fun h => absurd h (Nat.lt_irrefl 1)⟩
      | succ k =>
        cases second : s.offerItem m with
        | none =>
          rw [served_none second]
          exact ⟨[d], m, rfl, rest, .inr (.inl ⟨d, rfl, next⟩), fun _ => .inr fun e c q => State.offerItem_none second e c q⟩
        | some p =>
          obtain ⟨e, l⟩ := p
          obtain ⟨next', rest'⟩ := State.offerItem_next second
          rw [served_some second]
          refine ⟨[d, e], l, rfl, rest'.trans (by rw [rest]), .inr (.inr ⟨d, e, m.cursor, m.reload, rfl, next, ?_⟩), fun _ => .inl rfl⟩
          rw [← rest]
          exact next'

theorem State.offerItem_congr {s t : State} (store : t.store = s.store) (revoc : t.revoc = s.revoc) : t.offerItem = s.offerItem := by
  funext n
  have cred (k : Nat) : t.cred? k = s.cred? k := by rw [State.cred?, store]; rfl
  have relevant (c : Option Nat) (n : Node) : t.credRelevant c n = s.credRelevant c n := by
    unfold State.credRelevant
    simp only [cred]
  have change (c : Change) (n : Node) : t.deliverable c n = s.deliverable c n := by
    unfold State.deliverable State.relevant
    simp only [relevant]
  have changes (n : Node) : t.deliverables n = s.deliverables n := by
    unfold State.deliverables
    simp only [change, revoc]
  have floor (n : Node) : t.floorFor n = s.floorFor n := by
    unfold State.floorFor State.room?
    rw [revoc]
  have entry (n : Node) (g : Nat) (p : ReloadProgress) : t.offerEntry n g p = s.offerEntry n g p := by
    unfold State.offerEntry State.nextEntry
    simp only [revoc, relevant]
  unfold State.offerItem State.offerChange State.offerReload State.outstanding
  simp only [changes, floor, entry, revoc]

end Items

/-! ### The phases of a composition (01:R15) -/

/-- The offers of latched items, and those of change and reload items. -/
def State.latchOffers (s : State) : List Offer := [Latch.fallback, .permit, .comp].map (Latch.offer s)

def State.itemOffers (s : State) : List Offer := [s.offerItem, s.offerItem]

section Phases
variable {s : State} {c : Compose}

theorem Compose.latched_visit (once : c.state.addrs.Nodup) (settings : c.state.settings = s.settings) (a : Nat) (l : Latch) :
    c.latched a l.flag (fun t => l.content t) l.placed = c.visit a (l.offer s) := by
  unfold Compose.latched Compose.visit Latch.offer
  cases hn : c.state.node? a with
  | none => rfl
  | some n =>
    have content : l.content c.state n = l.content s n := by
      cases l with
      | fallback => simp only [Latch.content, State.fallbackParams, settings]
      | _ => rfl
    simp only [State.modNode_replaces once hn, content]
    cases l.flag n <;> cases c.free && n.st.answering <;> rfl

theorem Compose.latchedItems_visits (once : c.state.addrs.Nodup) (settings : c.state.settings = s.settings) (a : Nat) :
    c.latchedItems a = s.latchOffers.foldl (Compose.visit a) c := by
  have step (l : Latch) {c : Compose} (once : c.state.addrs.Nodup) (settings : c.state.settings = s.settings) :
      let d := c.latched a l.flag (fun t => l.content t) l.placed
      d = c.visit a (l.offer s) ∧ d.state.addrs.Nodup ∧ d.state.settings = s.settings := by
    refine ⟨Compose.latched_visit once settings a l, ?_, ?_⟩
    · rw [(Compose.Grows.latched (a := Rights.desk) a l.flag (fun t => l.content t) l.placed (fun n => by cases l <;> exact {})).addrs]
      exact once
    · rw [State.settings, Compose.latched_loader]
      exact settings
  obtain ⟨one, once', settings'⟩ := step .fallback once settings
  obtain ⟨two, once'', settings''⟩ := step .permit once' settings'
  obtain ⟨three, -, -⟩ := step .comp once'' settings''
  have folded : s.latchOffers.foldl (Compose.visit a) c
      = ((c.visit a (Latch.fallback.offer s)).visit a (Latch.permit.offer s)).visit a (Latch.comp.offer s) := rfl
  rw [folded, ← one, ← two, ← three]
  rfl

theorem Compose.deliveries_visits (store : c.state.store = s.store) (revoc : c.state.revoc = s.revoc) (a : Nat) :
    c.deliveries a = s.itemOffers.foldl (Compose.visit a) c := by
  have step {c : Compose} (store : c.state.store = s.store) (revoc : c.state.revoc = s.revoc) :
      c.deliver a = c.visit a s.offerItem := by
    rw [← State.offerItem_congr store revoc]
    rfl
  have folded : s.itemOffers.foldl (Compose.visit a) c = (c.visit a s.offerItem).visit a s.offerItem := rfl
  rw [folded, ← step store revoc, ← step (c := c.deliver a) (by simpa using store) (by simpa using revoc)]
  rfl

/-- Folds of acts that agree where what the first keeps holds. -/
theorem foldl_congr_of {α β : Type} {f g : α → β → α} {K : α → Prop} (keeps : ∀ c b, K c → K (f c b)) (same : ∀ c b, K c → f c b = g c b)
    (l : List β) {c : α} (holds : K c) : l.foldl f c = l.foldl g c := by
  induction l generalizing c with
  | nil => rfl
  | cons b l ih => rw [List.foldl_cons, List.foldl_cons, ih (keeps c b holds), same c b holds]

/-- A composition after its urgent directives: latched items, then change and reload items, each by the walk. -/
theorem State.compose_phases (once : s.addrs.Nodup) : ∃ ls ds c4,
    Compose.Walked latchedFor s.latchOffers (walkFrom s.lines.pointer s.addrs) ls s.composeUrgent
      ((walkFrom s.lines.pointer s.addrs).foldl Compose.latchedItems s.composeUrgent) ∧
    Compose.Walked itemFor s.itemOffers (walkFrom s.lines.pointer s.addrs) ds
      { (walkFrom s.lines.pointer s.addrs).foldl Compose.latchedItems s.composeUrgent with last := none } c4 ∧
    s.compose = (c4.state.parkPointer
      (((ds.getLast?.bind itemFor).orElse (fun _ => ls.getLast?.bind latchedFor)).getD s.lines.pointer), c4.segment) := by
  have walkOnce : (walkFrom s.lines.pointer s.addrs).Nodup := by
    unfold walkFrom
    refine List.Nodup.append (once.filter _) (once.filter _) fun a ha hb => ?_
    have lo := (List.mem_filter.mp ha).2
    have hi := (List.mem_filter.mp hb).2
    simp only [decide_eq_true_eq] at lo hi
    omega
  have settings : s.composeUrgent.state.settings = s.settings := congrArg Loader.settings s.composeUrgent_loader
  have third := foldl_congr_of (f := Compose.latchedItems) (g := fun c a => s.latchOffers.foldl (Compose.visit a) c)
    (K := fun c => c.state.addrs.Nodup ∧ c.state.settings = s.settings)
    (fun c b h => ⟨by rw [(Compose.Grows.latchedItems (a := Rights.desk) (c := c) b).addrs]; exact h.1, by
      rw [State.settings, Compose.latchedItems_loader]; exact h.2⟩)
    (fun c b h => Compose.latchedItems_visits h.1 h.2 b) (walkFrom s.lines.pointer s.addrs) (c := s.composeUrgent)
    ⟨by rw [s.composeUrgent_addrs]; exact once, settings⟩
  obtain ⟨ls, latched⟩ := Compose.walked (tgt := latchedFor) (os := s.latchOffers)
    (fun o ho => by
      obtain ⟨l, -, rfl⟩ := List.mem_map.mp ho
      exact l.offer_fair s) _ walkOnce s.composeUrgent
  rw [← third] at latched
  let c3 : Compose := { (walkFrom s.lines.pointer s.addrs).foldl Compose.latchedItems s.composeUrgent with last := none }
  have fourth := foldl_congr_of (f := Compose.deliveries) (g := fun c a => s.itemOffers.foldl (Compose.visit a) c)
    (K := fun c => c.state.store = s.store ∧ c.state.revoc = s.revoc)
    (fun c b h => ⟨(Compose.deliveries_store c b).trans h.1, (Compose.deliveries_revoc c b).trans h.2⟩)
    (fun c b h => Compose.deliveries_visits h.1 h.2 b) (walkFrom s.lines.pointer s.addrs) (c := c3)
    ⟨(Compose.foldl_frame (·.state.store) _ (fun c b => Compose.latchedItems_store c b) _ _).trans s.composeUrgent_store,
      (Compose.foldl_frame (·.state.revoc) _ (fun c b => Compose.latchedItems_revoc c b) _ _).trans s.composeUrgent_revoc⟩
  obtain ⟨ds, items⟩ := Compose.walked (tgt := itemFor) (os := s.itemOffers)
    (fun o ho => by
      obtain rfl | rfl := by simpa [State.itemOffers] using ho
      exact s.offerItem_fair) _ walkOnce c3
  rw [← fourth] at items
  refine ⟨ls, ds, _, latched, items, ?_⟩
  show (_, _) = (_, _)
  have last3 : ((walkFrom s.lines.pointer s.addrs).foldl Compose.latchedItems s.composeUrgent).last = ls.getLast?.bind latchedFor := by
    rw [latched.last]
    simp [State.composeUrgent]
  have last4 : ((walkFrom s.lines.pointer s.addrs).foldl Compose.deliveries c3).last = ds.getLast?.bind itemFor := by
    rw [items.last]
    simp [c3]
  rw [← last3, ← last4]

end Phases

end Sys2Proof.Machine

/-! What a composed segment holds, and for which nodes: O44. -/

namespace Sys2Proof.Machine

open Sys2Proof

section Walk

/-- The order of the walk from the node after the pointer (01:R17). -/
def WalkBefore (p a b : Nat) : Prop := p < a ∧ (b ≤ p ∨ a ≤ b) ∨ a ≤ p ∧ b ≤ p ∧ a ≤ b

theorem WalkBefore.refl (p a : Nat) : WalkBefore p a a := by
  unfold WalkBefore
  omega

theorem walkFrom_before (p : Nat) {as : List Nat} (asc : as.Pairwise (fun a b => a < b)) :
    (walkFrom p as).Pairwise (WalkBefore p) := by
  unfold walkFrom
  refine List.pairwise_append.mpr ⟨(asc.filter _).imp_of_mem fun {a b} ha hb lt => ?_,
    (asc.filter _).imp_of_mem fun {a b} ha hb lt => ?_, fun a ha b hb => ?_⟩ <;>
  · have lo := (List.mem_filter.mp ha).2
    have hi := (List.mem_filter.mp hb).2
    simp only [decide_eq_true_eq] at lo hi
    unfold WalkBefore
    omega

theorem mem_walkFrom (p : Nat) (as : List Nat) (a : Nat) : a ∈ walkFrom p as ↔ a ∈ as := by
  unfold walkFrom
  rw [List.mem_append, List.mem_filter, List.mem_filter, ← and_or_left]
  simp only [decide_eq_true_eq]
  exact and_iff_left (Nat.lt_or_ge p a)

end Walk

section Composed
variable {s : State}

/-- The urgent directives of a segment as they are composed (01:R16). -/
theorem State.composeUrgent_spec (s : State) :
    let copies := s.lines.repeats.take 8
    let sent := s.lines.urgent.take (8 - copies.length)
    let u := s.composeUrgent.state
    s.composeUrgent.segment = (copies ++ sent).map Urgent.directive ∧
    u.lines = { s.lines with urgent := s.lines.urgent.drop (8 - copies.length), repeats := if s.anyDegraded then sent else [] } ∧
    u.nodes = (sent.foldl State.openedBy s).nodes ∧ s.Nodewise Node.SessionOnly u ∧
    u.journal = s.journal.pushAll (sent.map (Urgent.sentRecord s)) ∧ Port.Quiet s.port u.port ∧
    u = { s with lines := u.lines, nodes := u.nodes, journal := u.journal, port := u.port } := by
  intro copies sent u
  let v : State := { s with lines := { s.lines with
    urgent := s.lines.urgent.drop (8 - copies.length), repeats := if s.anyDegraded then sent else [] } }
  obtain ⟨nodes, records, sessions, frame⟩ := State.urgents_sent sent v s rfl rfl rfl
  change u.nodes = _ at nodes
  refine ⟨rfl, (congrArg State.lines frame :), nodes, ?_, records.journal, records.port, frame.trans rfl |>.trans ?_⟩
  · unfold State.Nodewise at sessions ⊢
    rwa [nodes]
  · rw [show u.lines = v.lines from (congrArg State.lines frame :)]
    rfl

theorem Urgent.directive_untargeted (x : Urgent) : latchedFor x.directive = none ∧ itemFor x.directive = none := by
  cases x <;> exact ⟨rfl, rfl⟩

theorem latchedFor_item {d : Directive} {a : Nat} (h : latchedFor d = some a) : itemFor d = none := by
  cases d <;> simp_all [latchedFor, itemFor]

/-- The items of one node in a segment: `b` is the node after its urgent directives, `c` after its latched items, `m` after
the items of its cache. -/
structure NodeServed (s : State) (full : Prop) (n : Node) (latches items : List Directive) (b c m : Node) : Prop where
  session : n.SessionOnly b
  latched : n.st.answering = true → ∃ k, Unlatched s [.fallback, .permit, .comp] k b latches c ∧ (full ∨ latches.length < k)
  placed : n.st.answering = true → ∃ k, served s.itemOffers k c = (items, m) ∧ (full ∨ items.length < k)
  idle : n.st.answering = false → latches = [] ∧ items = [] ∧ c = b ∧ m = b

theorem State.latchOffers_fair (s : State) : ∀ o ∈ s.latchOffers, Offer.Fair latchedFor o := by
  intro o ho
  obtain ⟨l, -, rfl⟩ := List.mem_map.mp ho
  exact l.offer_fair s

theorem State.node?_of_once (once : s.addrs.Nodup) {n : Node} (hn : n ∈ s.nodes) : s.node? n.addr = some n :=
  findKey_of_once Node.addr (List.pairwise_map.mp once) hn

/-- What the walks of a composition leave of each node. -/
theorem State.compose_served (once : s.addrs.Nodup) {ls ds : List Directive} {c3 c4 : Compose}
    (latched : Compose.Walked latchedFor s.latchOffers (walkFrom s.lines.pointer s.addrs) ls s.composeUrgent c3)
    (items : Compose.Walked itemFor s.itemOffers (walkFrom s.lines.pointer s.addrs) ds { c3 with last := none } c4)
    {n : Node} (hn : n ∈ s.nodes) : ∃ b c m, s.composeUrgent.state.node? n.addr = some b ∧ c4.state.node? n.addr = some m ∧
      NodeServed s (8 ≤ c4.segment.length) n (ls.filter (fun d => latchedFor d == some n.addr))
        (ds.filter (fun d => itemFor d == some n.addr)) b c m := by
  have here : n.addr ∈ walkFrom s.lines.pointer s.addrs := (mem_walkFrom _ _ _).mpr (List.mem_map_of_mem hn)
  obtain ⟨-, -, -, sessions, -⟩ := s.composeUrgent_spec
  obtain ⟨b, hb, only⟩ := sessions.node? Node.SessionOnly.addr (s.node?_of_once once hn)
  have st : b.st = n.st := (congrArg Node.st only :)
  cases answers : n.st.answering with
  | false =>
    obtain ⟨noLatch, hc⟩ := latched.idle _ here b hb (by rw [st]; exact answers)
    obtain ⟨noItem, hm⟩ := items.idle _ here b hc (by rw [st]; exact answers)
    exact ⟨b, b, b, hb, hm, only, fun h => absurd (answers.symm.trans h) (by simp), fun h => absurd (answers.symm.trans h) (by simp),
      fun _ => ⟨noLatch, noItem, rfl, rfl⟩⟩
  | true =>
    obtain ⟨k, placed, hc, left⟩ := latched.served _ here b hb (by rw [st]; exact answers)
    have stays : (served s.latchOffers k b).2.st = n.st := ((served_fair s.latchOffers_fair k b).2.2).trans st
    obtain ⟨j, sent, hm, room⟩ := items.served _ here _ hc (by rw [stays]; exact answers)
    have longer : c3.segment.length ≤ c4.segment.length := by
      rw [items.visited.segment, List.length_append]
      exact Nat.le_add_right _ _
    refine ⟨b, _, _, hb, hm, only, fun _ => ⟨k, ?_, ?_⟩, fun _ => ⟨j, Prod.ext sent.symm rfl, ?_⟩, fun h => absurd (answers.symm.trans h) (by simp)⟩
    · rw [placed]
      exact served_unlatched (by decide) k b
    · rw [placed]
      by_cases full : 8 ≤ c4.segment.length
      · exact .inl full
      · exact .inr (left (by omega))
    · rw [sent]
      by_cases full : 8 ≤ c4.segment.length
      · exact .inl full
      · exact .inr (room (by omega))

theorem NodeState.answering_iff (st : NodeState) : st.answering = true ↔ st = .online ∨ st = .probation := by
  cases st <;> simp [NodeState.answering]

/-- The node of a directive placed by the walks is one that answers. -/
theorem State.named_answers (once : s.addrs.Nodup) {ls : List Directive} {c3 : Compose}
    (latched : Compose.Walked latchedFor s.latchOffers (walkFrom s.lines.pointer s.addrs) ls s.composeUrgent c3)
    {a : Nat} (ha : a ∈ walkFrom s.lines.pointer s.addrs) {c : Compose} (same : c = s.composeUrgent ∨ c = { c3 with last := none })
    {m : Node} (hm : c.state.node? a = some m) (answers : m.st.answering = true) :
    ∃ n ∈ s.nodes, n.addr = a ∧ (n.st = .online ∨ n.st = .probation) := by
  obtain ⟨n, hn, rfl⟩ := List.mem_map.mp ((mem_walkFrom _ _ _).mp ha)
  obtain ⟨-, -, -, sessions, -⟩ := s.composeUrgent_spec
  obtain ⟨b, hb, only⟩ := sessions.node? Node.SessionOnly.addr (s.node?_of_once once hn)
  have st : b.st = n.st := (congrArg Node.st only :)
  refine ⟨n, hn, rfl, (NodeState.answering_iff _).mp ?_⟩
  rw [← st]
  obtain rfl | rfl := same
  · rwa [Option.some.inj (hb.symm.trans hm)]
  · cases on : b.st.answering with
    | true => rfl
    | false =>
      have still := (latched.idle _ ha b hb on).2
      rw [← Option.some.inj (still.symm.trans hm), on] at answers
      cases answers

/-- A latched item in a segment, from the node's items. -/
theorem Unlatched.of_content {k : Nat} {n m : Node} {mine : List Directive} {d : Directive}
    (h : Unlatched s [.fallback, .permit, .comp] k n mine m) (hd : d ∈ mine) {l : Latch} (rank : latchRank d = l.rank) :
    d = l.content s n ∧ l.flag n = true ∧ l.flag m = false := by
  obtain ⟨j, -, rfl, flags⟩ := h.kinds d hd
  rw [Latch.content_rank] at rank
  obtain rfl : j = l := by cases j <;> cases l <;> simp_all [Latch.rank]
  exact ⟨rfl, flags⟩

/-- The content of an UPLOAD_PERMIT, and the permit once it is placed (07:R135). -/
theorem uploadPermit_placed {n : Node} {base count : Nat} (h : .uploadPermit n.addr base count = uploadPermit n) :
    (n.permit = .latched → base = n.received ∧ count = 16 ∧ n.permitPlaced.permit = .placed 16) ∧
    (n.permit ≠ .latched → base = 0 ∧ count = 0 ∧ n.permitPlaced.permit = n.permit) := by
  unfold uploadPermit at h
  unfold Node.permitPlaced
  cases permit : n.permit <;> simp_all

namespace NodeServed
variable {full : Prop} {n b c m : Node} {latches items : List Directive}

/-- The node after its latched items is the node but for its session, its latches and its permit. -/
theorem latch_frame (h : NodeServed s full n latches items b c m) : c = { n with
    session := b.session, latchFallback := c.latchFallback, latchPermit := c.latchPermit, latchComp := c.latchComp, permit := c.permit } := by
  have base := h.session
  cases on : n.st.answering with
  | false =>
    obtain ⟨-, -, rfl, -⟩ := h.idle on
    unfold Node.SessionOnly at base
    rw [base]
  | true =>
    obtain ⟨k, u, -⟩ := h.latched on
    have frame := u.frame
    unfold Node.Unlatches at frame
    unfold Node.SessionOnly at base
    rw [base] at frame
    exact frame

theorem item_frame (h : NodeServed s full n latches items b c m) : m = { c with cursor := m.cursor, reload := m.reload } := by
  cases on : n.st.answering with
  | false =>
    obtain ⟨-, -, rfl, rfl⟩ := h.idle on
    rfl
  | true =>
    obtain ⟨k, served, -⟩ := h.placed on
    obtain ⟨_, _, served', rest, -⟩ := served_items s k c
    obtain ⟨-, rfl⟩ := Prod.mk.inj (served.symm.trans served')
    exact rest

theorem session_eq (h : NodeServed s full n latches items b c m) : m.session = b.session := by
  rw [h.item_frame, h.latch_frame]

theorem frame (h : NodeServed s full n latches items b c m) : m = { n with
    session := m.session, latchFallback := m.latchFallback, latchPermit := m.latchPermit, latchComp := m.latchComp
    permit := m.permit, cursor := m.cursor, reload := m.reload } := by
  rw [h.session_eq]
  exact h.item_frame.trans (by rw [h.item_frame, h.latch_frame])

/-- The items of the node's cache, each the next one (05:R105, R109). -/
theorem offered (h : NodeServed s full n latches items b c m) :
    (items = [] ∧ m.cursor = n.cursor ∧ m.reload = n.reload ∨
      (∃ d, items = [d] ∧ s.NextItem n d m.cursor m.reload) ∨
      ∃ d e c q, items = [d, e] ∧ s.NextItem n d c q ∧ s.NextItem { n with cursor := c, reload := q } e m.cursor m.reload) ∧
    (¬ full → n.st.answering = true →
      items.length = 2 ∨ ∀ d c q, ¬ s.NextItem { n with cursor := m.cursor, reload := m.reload } d c q) := by
  have frame := h.latch_frame
  have moved := h.item_frame
  cases on : n.st.answering with
  | false =>
    obtain ⟨-, none, rfl, rfl⟩ := h.idle on
    exact ⟨.inl ⟨none, by rw [frame], by rw [frame]⟩, fun _ h => absurd h (by simp)⟩
  | true =>
    obtain ⟨k, served, room⟩ := h.placed on
    obtain ⟨_, _, served', -, placed, left⟩ := served_items s k c
    obtain ⟨rfl, rfl⟩ := Prod.mk.inj (served.symm.trans served')
    rw [frame] at placed
    refine ⟨placed, fun notFull _ => (left (room.resolve_left notFull)).imp_right fun none d x q => ?_⟩
    have := none d x q
    rw [moved, frame] at this
    exact this

theorem content (h : NodeServed s full n latches items b c m) {d : Directive} (hd : d ∈ latches) {l : Latch} (rank : latchRank d = l.rank) :
    d = l.content s n ∧ l.flag n = true ∧ l.flag m = false := by
  cases on : n.st.answering with
  | false =>
    rw [(h.idle on).1] at hd
    cases hd
  | true =>
    obtain ⟨k, u, -⟩ := h.latched on
    have found := u.of_content hd rank
    rw [h.item_frame]
    rw [h.session] at found
    cases l <;> exact found

theorem permit_of (h : NodeServed s full n latches items b c m) {base count : Nat}
    (hd : .uploadPermit n.addr base count ∈ latches) :
    (n.permit = .latched → base = n.received ∧ count = 16 ∧ m.permit = .placed 16) ∧
    (n.permit ≠ .latched → base = 0 ∧ count = 0 ∧ m.permit = n.permit) := by
  have eq := (h.content hd (l := .permit) rfl).1
  cases on : n.st.answering with
  | false =>
    rw [(h.idle on).1] at hd
    cases hd
  | true =>
    obtain ⟨k, u, -⟩ := h.latched on
    have placed : m.permit = n.permitPlaced.permit := by
      rw [h.item_frame]
      show c.permit = _
      have content : Latch.permit.content s b = .uploadPermit n.addr base count := by
        rw [eq, h.session]
        rfl
      rw [u.permit, content, if_pos hd, h.session]
      rfl
    rw [placed]
    exact uploadPermit_placed eq

theorem unlatched (h : NodeServed s full n latches items b c m) (none : latches = []) :
    m.latchFallback = n.latchFallback ∧ m.latchPermit = n.latchPermit ∧ m.latchComp = n.latchComp ∧ m.permit = n.permit := by
  rw [h.item_frame]
  show c.latchFallback = _ ∧ c.latchPermit = _ ∧ c.latchComp = _ ∧ c.permit = _
  cases on : n.st.answering with
  | false =>
    obtain ⟨-, -, rfl, -⟩ := h.idle on
    rw [h.session]
    exact ⟨rfl, rfl, rfl, rfl⟩
  | true =>
    obtain ⟨k, u, -⟩ := h.latched on
    rw [none] at u
    have permit := u.permit
    rw [if_neg (by simp)] at permit
    have kept (l : Latch) := u.kept l (by simp)
    have base := h.session
    exact ⟨(kept .fallback).trans (congrArg Node.latchFallback base :), (kept .permit).trans (congrArg Node.latchPermit base :),
      (kept .comp).trans (congrArg Node.latchComp base :), permit.trans (congrArg Node.permit base :)⟩

theorem all (h : NodeServed s full n latches items b c m) (notFull : ¬ full) (on : n.st.answering = true) :
    m.latchFallback = false ∧ m.latchPermit = false ∧ m.latchComp = false := by
  obtain ⟨k, u, room⟩ := h.latched on
  have off := u.done (room.resolve_left notFull)
  rw [h.item_frame]
  exact ⟨off .fallback (by simp), off .permit (by simp), off .comp (by simp)⟩

end NodeServed

/-- Settles O44: the urgent directives, then two walks over the nodes that answer. -/
theorem segmentsServeAnsweringNodesOnly : Obligations.SegmentsServeAnsweringNodesOnly := by
  unfold Obligations.SegmentsServeAnsweringNodesOnly
  intro s once item latched
  obtain ⟨ls, ds, c4, third, fourth, composed⟩ := State.compose_phases once
  have itemIs : item = itemFor := funext fun d => by cases d <;> rfl
  have latchedIs : latched = latchedFor := funext fun d => by cases d <;> rfl
  rw [itemIs, latchedIs]
  generalize (walkFrom s.lines.pointer s.addrs).foldl Compose.latchedItems s.composeUrgent = c3 at third fourth
  obtain ⟨urgent, lines, nodes, sessions, journal, port, frame⟩ := s.composeUrgent_spec
  have segment : s.compose.2 = ((s.lines.repeats.take 8) ++ s.lines.urgent.take (8 - (s.lines.repeats.take 8).length)).map Urgent.directive
      ++ ls ++ ds := by
    rw [composed, fourth.visited.segment]
    show c3.segment ++ ds = _
    rw [third.visited.segment, urgent]
  have short : s.compose.2.length ≤ 8 := by
    have one := third.visited.slots
    have two := fourth.visited.slots
    have three : ({ c3 with last := none } : Compose).segment = s.composeUrgent.segment ++ ls := third.visited.segment
    have first := s.composeUrgent_slots
    rw [three, List.length_append] at two
    rw [composed, fourth.visited.segment, three, List.length_append, List.length_append]
    omega
  have noneLatched (x : Directive) (hx : x ∈ ((s.lines.repeats.take 8) ++ s.lines.urgent.take (8 - (s.lines.repeats.take 8).length)).map
      Urgent.directive) : latchedFor x = none ∧ itemFor x = none := by
    obtain ⟨u, -, rfl⟩ := List.mem_map.mp hx
    exact u.directive_untargeted
  have inLs (x : Directive) (hx : x ∈ ls) : itemFor x = none := by
    obtain ⟨a, -, names, -⟩ := third.named x hx
    exact latchedFor_item names
  refine ⟨fun d hd a names => ?_, fun a => ?_, fun _ => short, fun few asc => ?_⟩
  · rw [segment, List.mem_append, List.mem_append] at hd
    obtain (hd | hd) | hd := hd
    · obtain ⟨noLatch, noItem⟩ := noneLatched d hd
      rw [noLatch, noItem] at names
      simp at names
    · obtain ⟨b, hb, mine, n, hn, answers⟩ := third.named d hd
      rw [mine, inLs d hd] at names
      obtain rfl : b = a := by simpa using names
      exact State.named_answers once third hb (.inl rfl) hn answers
    · obtain ⟨b, hb, mine, n, hn, answers⟩ := fourth.named d hd
      have other : latchedFor d ≠ some a := fun h => by
        rw [latchedFor_item h] at mine
        cases mine
      obtain rfl : b = a := by simpa [mine, other] using names
      exact State.named_answers once third hb (.inr rfl) hn answers
  · rw [segment, List.filter_append, List.filter_append, List.filter_eq_nil_iff.mpr fun x hx => by rw [(noneLatched x hx).2]; simp,
      List.filter_eq_nil_iff.mpr fun x hx => by rw [inLs x hx]; simp, List.nil_append, List.nil_append]
    by_cases here : a ∈ s.addrs
    · obtain ⟨n, hn, rfl⟩ := List.mem_map.mp here
      obtain ⟨b, c, m, -, -, serve⟩ := State.compose_served once third fourth hn
      cases answers : n.st.answering with
      | false =>
        rw [(serve.idle answers).2.1]
        exact Nat.zero_le _
      | true =>
        obtain ⟨k, placed, -⟩ := serve.placed answers
        rw [← (Prod.mk.inj placed).1]
        exact served_offers s.itemOffers k c
    · rw [List.filter_eq_nil_iff.mpr fun x hx => ?_]
      · exact Nat.zero_le _
      · obtain ⟨b, hb, mine, -⟩ := fourth.named x hx
        rw [mine, beq_iff_eq]
        exact fun same => here (Option.some.inj same ▸ (mem_walkFrom _ _ _).mp hb)
  · intro u copies sent directive report opened before rank
    have all : s.lines.repeats.take 8 = s.lines.repeats := List.take_of_length_le few
    rw [all] at segment urgent lines nodes journal noneLatched
    have sameDirective : directive = Urgent.directive := funext fun x => by cases x <;> rfl
    have sameReport : report = Urgent.sentRecord s := funext fun x => by cases x <;> rfl
    have sameOpened : opened = sent.foldl State.openedBy s := by
      refine congrArg (fun f => sent.foldl f s) (funext fun v => funext fun x => ?_)
      cases x <;> rfl
    have uEq : u = c4.state.parkPointer
        (((ds.getLast?.bind itemFor).orElse (fun _ => ls.getLast?.bind latchedFor)).getD s.lines.pointer) := by
      show s.compose.1 = _
      rw [composed]
    have states : c4.state = { s.composeUrgent.state with nodes := c4.state.nodes } :=
      State.nodes_frame third.visited.state fourth.visited.state
    have uNode (a : Nat) : u.node? a = c4.state.node? a := by rw [uEq]; rfl
    have full : s.compose.2.length < 8 → ¬ 8 ≤ c4.segment.length := by rw [composed]; exact Nat.not_le.mpr
    refine ⟨ls, ds, ?_, fun d hd => ?_, fun d hd => ?_, ?_, ?_, ?_, ?_, fun n hn => ?_, ?_, ?_, ?_⟩
    · rw [segment, sameDirective]
    · obtain ⟨a, -, names, -⟩ := third.named d hd
      rw [names]
      rfl
    · obtain ⟨a, -, names, -⟩ := fourth.named d hd
      rw [names]
      rfl
    · refine (third.order (WalkBefore s.lines.pointer) (fun d e => latchRank d < latchRank e) (walkFrom_before _ asc)
        (WalkBefore.refl _) fun k n => served_ranked (by decide) k n)
    · exact (fourth.order (WalkBefore s.lines.pointer) (fun _ _ => True) (walkFrom_before _ asc) (WalkBefore.refl _)
        fun k n => List.pairwise_of_forall fun _ _ => trivial).imp fun h a b ha hb => (h a b ha hb).1
    · have degraded : s.anyDegraded = true ↔ s.lines.lineA.st = .degraded ∨ s.lines.lineB.st = .degraded := by
        simp [State.anyDegraded]
      rw [uEq, State.parkPointer, states]
      show ({ s.composeUrgent.state.lines with pointer := _ } : LineEngine) = _
      rw [lines]
      simp only [degraded]
      rfl
    · rw [uEq, sameReport, State.parkPointer, states]
      exact journal
    · obtain ⟨b, c, m, hb, hm, serve⟩ := State.compose_served once third fourth hn
      have sessionOf : (opened.node? n.addr).map (·.session) = some b.session := by
        rw [sameOpened, State.node?, ← nodes, ← State.node?, hb]
        rfl
      refine ⟨m, (uNode _).trans hm, ?_⟩
      have mineLs {d : Directive} (hd : d ∈ ls) (names : latchedFor d = some n.addr) :
          d ∈ ls.filter (fun d => latchedFor d == some n.addr) := List.mem_filter.mpr ⟨hd, by rw [names, beq_self_eq_true]⟩
      obtain ⟨items, more⟩ := serve.offered
      refine ⟨sessionOf.trans (congrArg some serve.session_eq.symm), serve.frame, ⟨items, fun left on => more (full left) on⟩,
        fun grace mode oos hours hd => ?_, fun base count hd => ?_, fun comps hd => ?_, fun none => ?_, fun left on => ?_⟩
      · obtain ⟨eq, flags⟩ := serve.content (l := .fallback) (mineLs hd rfl) rfl
        injection eq with _ grace mode oos hours
        exact ⟨flags.1, flags.2, grace, mode, oos, hours⟩
      · obtain ⟨eq, flags⟩ := serve.content (l := .permit) (mineLs hd rfl) rfl
        exact ⟨flags.1, flags.2, serve.permit_of (mineLs hd rfl)⟩
      · obtain ⟨eq, flags⟩ := serve.content (l := .comp) (mineLs hd rfl) rfl
        injection eq with _ comps
        exact ⟨flags.1, flags.2, comps⟩
      · exact serve.unlatched (List.filter_eq_nil_iff.mpr fun d hd => by simpa using none d hd)
      · exact serve.all (full left) on
    · rw [State.addrs, uEq]
      show c4.state.addrs = _
      exact (fourth.visited.addrs.trans third.visited.addrs).trans s.composeUrgent_addrs
    · rw [uEq, State.parkPointer, states]
      exact port.only
    · rw [uEq, State.parkPointer, states, frame]

end Composed

end Sys2Proof.Machine

/-! The end of a round at a round start: windows left open, and the invitation (01:R4, R7, R8). -/

namespace Sys2Proof.Machine

open Sys2Proof

/-! ### An answer window that closes with no copies -/

/-- The records of a window that closes with no copies (02:R33). -/
def Window.misses (s : State) (w : Window) : List (Nat × Entry) :=
  if w.dead then [] else (s.node? w.addr).elim [] (Node.missRecords s.now)

/-- What windows that close with no copies leave, in their order. -/
structure WindowsMissed (ws : List Window) (s u : State) : Prop where
  node : ∀ w ∈ ws, ∀ n, s.node? w.addr = some n → u.node? w.addr = some (if w.dead then n else
    n.afterMiss (s.journal.pushAll ((ws.filter (fun v => v.addr ≤ w.addr)).flatMap (Window.misses s))).freeSpace)
  others : ∀ b, (∀ w ∈ ws, w.addr ≠ b) → u.node? b = s.node? b
  addrs : u.addrs = s.addrs
  records : Records s u (ws.flatMap (Window.misses s))
  lines : u.lines = { s.lines with round := u.lines.round }
  number : u.lines.round.map Round.number = s.lines.round.map Round.number
  rest : u = { s with lines := u.lines, nodes := u.nodes, journal := u.journal, port := u.port }

section Windows
variable {s u : State} {r : Round} {a : Nat} {n : Node}

theorem Node.missMoved_none (h : n.st.hasWindow = false) : n.missMoved = n ∧ ∀ free, n.afterMiss free = n := by
  unfold Node.missMoved Node.afterMiss
  cases st : n.st <;> simp_all [NodeState.hasWindow]

theorem Node.afterMiss_state (n : Node) (free : Nat) : (n.afterMiss free).st = n.missMoved.st := by
  cases window : n.st.hasWindow with
  | true => exact Node.afterMiss_st window free
  | false =>
    obtain ⟨moved, after⟩ := Node.missMoved_none window
    rw [moved, after]

theorem NodeBecomes.records {m : Node} {rs : List (Nat × Entry)} {b : Bool} (h : NodeBecomes a n m rs b s u) : Records s u rs :=
  ⟨(congrArg State.time h.rest :), h.journal, h.quiet⟩

theorem NodeBecomes.addrs {m : Node} {rs : List (Nat × Entry)} {b : Bool} (h : NodeBecomes a n m rs b s u) : u.addrs = s.addrs := by
  obtain ⟨g, -, addr, nodes⟩ := h.nodes
  have := s.modNode_addrs a g addr
  rw [State.addrs, nodes, ← this]
  rfl

theorem judgeCopy_none (a number : Nat) (b : Bool) : judgeCopy a number b none = .absent := by cases b <;> rfl

theorem State.resolveWindow_silent (s : State) (r : Round) (w : Window) : s.resolveWindow r w none none .together =
    if w.dead then s.dropWindow w.addr else (s.dropWindow w.addr).windowResult w.addr r none := by
  simp only [State.resolveWindow, judgeCopy_none]
  rfl

theorem State.windowResult_none (hn : s.node? a = some n) (running : s.part = .running) (r : Round) :
    NodeBecomes a n (n.afterMiss (s.journal.pushAll (n.missRecords s.now)).freeSpace) (n.missRecords s.now)
      (decide (n.missMoved.st ≠ n.st)) s (s.windowResult a r none) := by
  obtain ⟨rfl, -⟩ := findKey_some Node.addr hn
  cases window : n.st.hasWindow with
  | true =>
    have missed : s.windowResult n.addr r none = s.miss n := by
      simp only [State.windowResult, hn, window, if_true]
    rw [missed]
    exact .miss hn window running
  | false =>
    have stays : s.windowResult n.addr r none = s := by
      simp only [State.windowResult, hn, window, Bool.false_eq_true, if_false]
    obtain ⟨moved, after⟩ := Node.missMoved_none window
    rw [stays, after, Node.missRecords, if_pos (by rw [moved]), moved]
    simpa using NodeBecomes.refl n.addr n s

theorem State.dropWindow_missed (s : State) (a : Nat) (ws : List Window) (gone : ws.flatMap (Window.misses s) = [])
    (away : ∀ w ∈ ws, w.dead = true ∨ s.node? w.addr = none) : WindowsMissed ws s (s.dropWindow a) where
  node w hw n hn := by
    obtain dead | none := away w hw
    · rw [if_pos dead]
      exact hn
    · rw [none] at hn
      cases hn
  others _ _ := rfl
  addrs := rfl
  records := by rw [gone]; exact .of_eq rfl rfl rfl
  lines := rfl
  number := by rw [State.dropWindow, Option.map_map]; rfl
  rest := rfl

/-- The close of one window with no copies. -/
theorem State.resolveWindow_misses (running : s.part = .running) (r : Round) (w : Window) :
    WindowsMissed [w] s (s.resolveWindow r w none none .together) := by
  have single (rs : List (Nat × Entry)) (h : w.misses s = rs) : [w].flatMap (Window.misses s) = rs := by simp [h]
  rw [State.resolveWindow_silent]
  by_cases dead : w.dead = true
  · rw [if_pos dead]
    exact s.dropWindow_missed w.addr [w] (single [] (if_pos dead)) (by simp [dead])
  · rw [if_neg dead]
    cases hn : s.node? w.addr with
    | none =>
      have stays : (s.dropWindow w.addr).windowResult w.addr r none = s.dropWindow w.addr := by
        simp only [State.windowResult, show (s.dropWindow w.addr).node? w.addr = none from hn]
      rw [stays]
      exact s.dropWindow_missed w.addr [w] (single [] (by simp [Window.misses, hn])) (by simp [hn])
    | some n =>
      have moved := State.windowResult_none (s := s.dropWindow w.addr) hn running r
      have misses : [w].flatMap (Window.misses s) = n.missRecords s.now := single _ (by simp [Window.misses, hn, dead])
      refine ⟨fun v hv m hm => ?_, fun b ne => ?_, moved.addrs, ?_, ?_, ?_, ?_⟩
      · obtain rfl := List.mem_singleton.mp hv
        obtain rfl : n = m := Option.some.inj (hn.symm.trans hm)
        rw [if_neg dead, List.filter_eq_self.mpr (by simp), misses]
        exact moved.node? hn
      · exact moved.others (Ne.symm (ne w List.mem_cons_self))
      · rw [misses]
        exact (Records.of_eq (s := s) (v := s.dropWindow w.addr) rfl rfl rfl).trans moved.records
      · rw [(congrArg State.lines moved.rest :)]
        rfl
      · rw [(congrArg State.lines moved.rest :), State.dropWindow, Option.map_map]
        rfl
      · rw [(congrArg State.lines moved.rest :)]
        exact moved.rest.trans rfl

/-- What changes lines, node table, journal and port alone, twice. -/
theorem State.round_frame {t : State} (first : t = { s with lines := t.lines, nodes := t.nodes, journal := t.journal, port := t.port })
    (second : u = { t with lines := u.lines, nodes := u.nodes, journal := u.journal, port := u.port }) :
    u = { s with lines := u.lines, nodes := u.nodes, journal := u.journal, port := u.port } :=
  second.trans (by rw [first])

theorem State.resolveWindows_missed (r : Round) : ∀ (ws : List Window) (s : State), s.part = .running →
    ws.Pairwise (fun v w => v.addr < w.addr) →
    WindowsMissed ws s (ws.foldl (fun t w => t.resolveWindow r w none none .together) s) := by
  intro ws
  induction ws with
  | nil => exact fun s _ _ => ⟨by simp, fun _ _ => rfl, rfl, .refl s, rfl, rfl, rfl⟩
  | cons w ws ih =>
    intro s running asc
    obtain ⟨above, asc⟩ := List.pairwise_cons.mp asc
    have one := State.resolveWindow_misses running r w
    have more := ih (s.resolveWindow r w none none .together) (by simpa using running) asc
    rw [List.foldl_cons]
    generalize s.resolveWindow r w none none .together = t at one more
    have same (v : Window) (hv : v ∈ ws) : t.node? v.addr = s.node? v.addr :=
      one.others _ (by simpa using Nat.ne_of_lt (above v hv))
    have now : t.now = s.now := State.now_eq one.records.time
    have missesOf {vs : List Window} (sub : ∀ v ∈ vs, v ∈ ws) : vs.flatMap (Window.misses t) = vs.flatMap (Window.misses s) := by
      refine List.flatMap_congr fun v hv => ?_
      rw [Window.misses, Window.misses, same v (sub v hv), now]
    have journal : t.journal = s.journal.pushAll (w.misses s) := by simpa using one.records.journal
    refine ⟨fun v hv n hn => ?_, fun b away => ?_, more.addrs.trans one.addrs, ?_, ?_, more.number.trans one.number,
      State.round_frame one.rest more.rest⟩
    · obtain rfl | hv := List.mem_cons.mp hv
      · have first : (v :: ws).filter (fun x => x.addr ≤ v.addr) = [v] := by
          rw [List.filter_cons, if_pos (by simp), List.filter_eq_nil_iff.mpr fun x hx => by simpa using above x hx]
        have here := one.node v List.mem_cons_self n hn
        rw [List.filter_eq_self.mpr (by simp)] at here
        rw [first, more.others v.addr fun x hx => (Nat.ne_of_gt (above x hx)), here]
      · have behind : (w :: ws).filter (fun x => x.addr ≤ v.addr) = w :: ws.filter (fun x => x.addr ≤ v.addr) := by
          rw [List.filter_cons, if_pos (by simpa using Nat.le_of_lt (above v hv))]
        rw [more.node v hv n ((same v hv).trans hn), journal, missesOf fun x hx => (List.mem_filter.mp hx).1, behind, List.flatMap_cons,
          Journal.pushAll_append]
    · rw [more.others b fun x hx => away x (List.mem_cons_of_mem _ hx), one.others b fun x hx => by
        obtain rfl := List.mem_singleton.mp hx
        exact away x List.mem_cons_self]
    · rw [List.flatMap_cons, ← missesOf fun v hv => hv]
      exact (show Records s t (w.misses s) by simpa using one.records).trans more.records
    · rw [more.lines, one.lines]

end Windows

/-! ### The records of the misses in the order of the node table -/

/-- Of items in ascending order of their keys, those of one key before those of greater ones. -/
theorem filter_key_first {α : Type} (key : α → Nat) {l : List α} (asc : l.Pairwise (fun a b => key a < key b)) (x : Nat)
    (p q : α → Bool) (above : ∀ y ∈ l, q y = true → x < key y) :
    l.filter (fun y => (key y == x && p y) || q y) = ((findKey key x l).filter p).toList ++ l.filter q := by
  induction l with
  | nil => rfl
  | cons y l ih =>
    obtain ⟨less, asc⟩ := List.pairwise_cons.mp asc
    have rest := ih asc fun z hz => above z (List.mem_cons_of_mem _ hz)
    rw [List.filter_cons, List.filter_cons]
    by_cases here : key y = x
    · have notAbove : q y = false := by
        cases hq : q y with
        | false => rfl
        | true => exact absurd (above y List.mem_cons_self hq) (by omega)
      have none : findKey key x l = none := (findKey_none key).mpr fun z hz => by have := less z hz; omega
      have found : findKey key x (y :: l) = some y := by simp [findKey, here]
      rw [none] at rest
      rw [found, notAbove, rest, here]
      cases hp : p y <;> simp [hp, Option.filter]
    · have skip : findKey key x (y :: l) = findKey key x l := by simp [findKey, here]
      have no : (key y == x) = false := by simpa using here
      rw [skip, no, rest, Bool.false_and, Bool.false_or]
      cases hq : q y with
      | false => rfl
      | true =>
        have none : findKey key x l = none := (findKey_none key).mpr fun z hz => by
          have := less z hz
          have := above y List.mem_cons_self hq
          omega
        rw [none]
        rfl

section Misses
variable {s : State}

/-- The records of windows that close with no copies stand in the order of the node table. -/
theorem misses_eq (asc : s.nodes.Pairwise (fun m n => m.addr < n.addr)) : ∀ ws : List Window,
    ws.Pairwise (fun v w => v.addr < w.addr) → ws.flatMap (Window.misses s) = (s.nodes.filter (fun k =>
      ws.any (fun w => w.addr == k.addr && !w.dead) && (k.afterMiss 0).st != k.st)).map (fun k =>
        (s.now, nodeStateEntry k (.nodeState (k.afterMiss 0).st))) := by
  intro ws
  induction ws with
  | nil => simp
  | cons w ws ih =>
    intro order
    obtain ⟨above, order⟩ := List.pairwise_cons.mp order
    have split := filter_key_first Node.addr asc w.addr (fun k => !w.dead && (k.afterMiss 0).st != k.st)
      (fun k => ws.any (fun w => w.addr == k.addr && !w.dead) && (k.afterMiss 0).st != k.st) (fun k _ hk => by
        obtain ⟨v, hv, same⟩ := List.any_eq_true.mp (Bool.and_eq_true .. ▸ hk).1
        rw [Bool.and_eq_true, beq_iff_eq] at same
        exact same.1 ▸ above v hv)
    have test : (fun k : Node => (w :: ws).any (fun w => w.addr == k.addr && !w.dead) && (k.afterMiss 0).st != k.st)
        = fun k => (k.addr == w.addr && (!w.dead && (k.afterMiss 0).st != k.st))
          || (ws.any (fun w => w.addr == k.addr && !w.dead) && (k.afterMiss 0).st != k.st) := by
      funext k
      rw [List.any_cons, Bool.and_or_distrib_right, Bool.and_assoc, show (w.addr == k.addr) = (k.addr == w.addr) from Bool.beq_comm]
    rw [List.flatMap_cons, ih order, test, split, List.map_append]
    congr 1
    unfold Window.misses State.node?
    cases dead : w.dead with
    | true => simp
    | false =>
      cases findKey Node.addr w.addr s.nodes with
      | none => rfl
      | some n =>
        simp only [Bool.false_eq_true, if_false, Option.elim_some, Bool.not_false, Bool.true_and, Option.filter_some, Node.missRecords,
          Node.afterMiss_state]
        by_cases moves : n.missMoved.st = n.st <;> simp [moves]

end Misses

/-! ### The whole end of a round (01:R4) -/

/-- The invitation of a round that ends, unanswered (02:R31). -/
def Round.asks (r : Round) (a : Nat) : Bool := r.inviteOpen && !r.inviteDead && r.invited == some a

section Ending
variable {s : State} {r : Round} {a : Nat} {n : Node}

theorem Node.afterUnanswered_absent (h : n.st = .absent) : n.afterUnanswered = if n.joins ≤ 1
    then { n with joins := n.joins - 1, st := .dormant, session := none } else { n with joins := n.joins - 1 } := by
  unfold Node.afterUnanswered
  split
  · rfl
  · rename_i other
    exact absurd h other

theorem Node.afterUnanswered_other (h : n.st ≠ .absent) : n.afterUnanswered = n := by
  unfold Node.afterUnanswered
  split
  · rename_i absent
    exact absurd absent h
  · rfl

/-- An invitation unanswered (02:R31). -/
theorem State.invitationReport_unanswered (hn : s.node? a = some n) (running : s.part = .running) : ∃ rs b,
    NodeBecomes a n n.afterUnanswered rs b s (s.invitationReport a false) ∧ ∀ e ∈ rs, e.2.kind = .nodeState := by
  by_cases absent : n.st = .absent
  · rw [Node.afterUnanswered_absent absent]
    by_cases last : n.joins ≤ 1
    · have zero : n.joins - 1 = 0 := by omega
      simp only [if_pos last, zero]
      exact ⟨_, _, State.invitationReport_dormant hn absent last running, by simp [nodeStateEntry]⟩
    · simp only [if_neg last]
      exact ⟨_, _, State.invitationReport_absent hn absent (by omega), by simp⟩
  · rw [Node.afterUnanswered_other absent, State.invitationReport_alone fun m hm => ?_]
    · exact ⟨_, _, .refl a n s, by simp⟩
    · obtain rfl : n = m := Option.some.inj (hn.symm.trans hm)
      by_cases dormant : n.st = .dormant
      · exact .inl ⟨dormant, rfl⟩
      · exact .inr ⟨absent, dormant⟩

/-- What an invitation window that closes with no copies leaves. -/
structure InvitationMissed (r : Round) (s u : State) : Prop where
  node : ∀ b n, s.node? b = some n → u.node? b = some (if !r.inviteDead && r.invited == some b then n.afterUnanswered else n)
  addrs : u.addrs = s.addrs
  records : ∃ rs, Records s u rs ∧ ∀ e ∈ rs, e.2.kind = .nodeState
  lines : u.lines = { s.lines with round := u.lines.round }
  number : u.lines.round.map Round.number = s.lines.round.map Round.number
  rest : u = { s with lines := u.lines, nodes := u.nodes, journal := u.journal, port := u.port }

theorem State.endInvitation_missed (s : State) (r : Round) (alone : ∀ b n, s.node? b = some n → r.inviteDead = true ∨ r.invited ≠ some b) :
    InvitationMissed r s s.endInvitation where
  node b n hn := by
    rw [if_neg]
    · exact hn
    · obtain dead | other := alone b n hn
      · simp [dead]
      · simp [other]
  addrs := rfl
  records := ⟨[], .of_eq rfl rfl rfl, by simp⟩
  lines := rfl
  number := by rw [State.endInvitation, Option.map_map]; rfl
  rest := rfl

theorem State.resolveInvitation_missed (running : s.part = .running) (r : Round) : InvitationMissed r s (s.resolveInvitation r none none) := by
  unfold State.resolveInvitation
  cases invited : r.invited with
  | none => exact s.endInvitation_missed r (by simp [invited])
  | some a =>
    simp only [judgeCopy_none]
    by_cases dead : r.inviteDead = true
    · rw [if_pos dead]
      exact s.endInvitation_missed r (by simp [dead])
    · rw [if_neg dead]
      show InvitationMissed r s (s.endInvitation.invitationReport a false)
      cases hn : s.node? a with
      | none =>
        rw [State.invitationReport_alone (u := s.endInvitation) (by
          intro n hn'
          rw [show s.endInvitation.node? a = s.node? a from rfl, hn] at hn'
          cases hn')]
        refine s.endInvitation_missed r fun b n hb => .inr ?_
        rw [invited]
        rintro ⟨rfl⟩
        rw [hn] at hb
        cases hb
      | some n =>
        obtain ⟨rs, c, moved, kinds⟩ := State.invitationReport_unanswered (s := s.endInvitation) hn running
        have lines : (s.endInvitation.invitationReport a false).lines = s.endInvitation.lines := (congrArg State.lines moved.rest :)
        refine ⟨fun b m hb => ?_, moved.addrs, ⟨rs, (Records.of_eq (s := s) (v := s.endInvitation) rfl rfl rfl).trans moved.records, kinds⟩,
          by rw [lines]; rfl, by rw [lines, State.endInvitation, Option.map_map]; rfl, ?_⟩
        · rw [invited]
          by_cases same : b = a
          · subst same
            obtain rfl : n = m := Option.some.inj (hn.symm.trans hb)
            rw [if_pos (by simp [dead])]
            exact moved.node? hn
          · rw [if_neg (by simp [Ne.symm same])]
            exact (moved.others same).trans hb
        · rw [lines]
          exact moved.rest.trans rfl

/-- What the close of windows with no copies leaves besides node records: NODE_STATE records, and the round's windows. -/
structure RoundClosed (s u : State) : Prop where
  addrs : u.addrs = s.addrs
  records : ∃ rs, Records s u rs ∧ ∀ e ∈ rs, e.2.kind = .nodeState
  lines : u.lines = { s.lines with round := u.lines.round }
  number : u.lines.round.map Round.number = s.lines.round.map Round.number
  rest : u = { s with lines := u.lines, nodes := u.nodes, journal := u.journal, port := u.port }

theorem RoundClosed.refl (s : State) : RoundClosed s s := ⟨rfl, ⟨[], .refl s, by simp⟩, rfl, rfl, rfl⟩

theorem RoundClosed.trans {t u : State} (h : RoundClosed s t) (g : RoundClosed t u) : RoundClosed s u where
  addrs := g.addrs.trans h.addrs
  records := by
    obtain ⟨rs, one, kinds⟩ := h.records
    obtain ⟨ts, two, more⟩ := g.records
    exact ⟨rs ++ ts, one.trans two, fun e he => (List.mem_append.mp he).elim (kinds e) (more e)⟩
  lines := by rw [g.lines, h.lines]
  number := g.number.trans h.number
  rest := State.round_frame h.rest g.rest

theorem State.resolveWindow_closed (running : s.part = .running) (r : Round) (w : Window) :
    RoundClosed s (s.resolveWindow r w none none .together) := by
  have missed := State.resolveWindow_misses running r w
  refine ⟨missed.addrs, ⟨_, missed.records, fun e he => ?_⟩, missed.lines, missed.number, missed.rest⟩
  simp only [List.flatMap_cons, List.flatMap_nil, List.append_nil, Window.misses] at he
  split at he
  · cases he
  · cases hn : s.node? w.addr with
    | none =>
      rw [hn] at he
      cases he
    | some n =>
      rw [hn, Option.elim_some, Node.missRecords] at he
      split at he
      · cases he
      · obtain rfl := List.mem_singleton.mp he
        rfl

/-- The end of the round in progress (01:R4). -/
theorem State.endRound_closed (running : s.part = .running) : RoundClosed s s.endRound := by
  have windows (r : Round) (ws : List Window) : ∀ s : State, s.part = .running →
      RoundClosed s (ws.foldl (fun t w => t.resolveWindow r w none none .together) s) := by
    induction ws with
    | nil => exact fun s _ => .refl s
    | cons w ws ih =>
      exact fun s running => (State.resolveWindow_closed running r w).trans (ih _ (by simpa using running))
  unfold State.endRound
  cases s.lines.round with
  | none => exact .refl s
  | some r =>
    have closed := windows r r.windows s running
    dsimp only
    generalize r.windows.foldl (fun t w => t.resolveWindow r w none none .together) s = t at closed
    by_cases isOpen : r.inviteOpen = true
    · rw [if_pos isOpen]
      have asked := State.resolveInvitation_missed ((congrArg State.part closed.rest).trans running) r
      exact closed.trans ⟨asked.addrs, asked.records, asked.lines, asked.number, asked.rest⟩
    · rw [if_neg isOpen]
      exact closed

/-- The node records that the end of the round leaves: a window still open counts as a miss, an open invitation as unanswered,
with the places the journal has free once the records of the misses up to that address stand. -/
theorem State.endRound_nodes (running : s.part = .running) (nodes : s.nodes.Pairwise (fun m n => m.addr < n.addr))
    (windows : ∀ old, s.lines.round = some old → old.windows.Pairwise (fun v w => v.addr < w.addr)) {n : Node} (hn : n ∈ s.nodes) :
    s.endRound.node? n.addr = some (
      let missed := s.journal.pushAll ((s.nodes.filter (fun k => decide (k.addr ≤ n.addr)
        && s.lines.round.any (fun old => old.windows.any (fun w => w.addr == k.addr && !w.dead)) && (k.afterMiss 0).st != k.st)).map
          (fun k => (s.now, nodeStateEntry k (.nodeState (k.afterMiss 0).st))))
      let m := if s.lines.round.any (fun old => old.windows.any (fun w => w.addr == n.addr && !w.dead)) then n.afterMiss missed.freeSpace else n
      if s.lines.round.any (fun old => old.asks n.addr) then m.afterUnanswered else m) := by
  have find : s.node? n.addr = some n := findKey_of_once Node.addr (nodes.imp Nat.ne_of_lt) hn
  unfold State.endRound
  cases round : s.lines.round with
  | none =>
    simpa [round] using find
  | some r =>
    have asc := windows r round
    have missed := State.resolveWindows_missed r r.windows s running asc
    dsimp only
    generalize r.windows.foldl (fun t w => t.resolveWindow r w none none .together) s = t at missed
    have running' : t.part = .running := (congrArg State.part missed.rest).trans running
    have node : t.node? n.addr = some (
        if r.windows.any (fun w => w.addr == n.addr && !w.dead) then n.afterMiss (s.journal.pushAll ((s.nodes.filter (fun k =>
          decide (k.addr ≤ n.addr) && r.windows.any (fun w => w.addr == k.addr && !w.dead) && (k.afterMiss 0).st != k.st)).map
            (fun k => (s.now, nodeStateEntry k (.nodeState (k.afterMiss 0).st))))).freeSpace else n) := by
      have behind (b : Nat) (k : Node) : (r.windows.filter (fun v => v.addr ≤ b)).any (fun w => w.addr == k.addr && !w.dead)
          = (decide (k.addr ≤ b) && r.windows.any (fun w => w.addr == k.addr && !w.dead)) := by
        rw [List.any_filter, Bool.eq_iff_iff]
        simp only [List.any_eq_true, Bool.and_eq_true, decide_eq_true_eq, beq_iff_eq]
        constructor
        · rintro ⟨w, hw, le, same, live⟩
          exact ⟨same ▸ le, w, hw, same, live⟩
        · rintro ⟨le, w, hw, same, live⟩
          exact ⟨w, hw, same ▸ le, same, live⟩
      by_cases live : r.windows.any (fun w => w.addr == n.addr && !w.dead) = true
      · rw [if_pos live]
        obtain ⟨w, hw, both⟩ := List.any_eq_true.mp live
        rw [Bool.and_eq_true, beq_iff_eq, Bool.not_eq_true'] at both
        have here := missed.node w hw n (by rw [both.1]; exact find)
        rw [both.1, if_neg (by simp [both.2]), misses_eq nodes _ (asc.filter _)] at here
        simp only [behind] at here
        exact here
      · rw [if_neg live]
        by_cases window : ∃ w ∈ r.windows, w.addr = n.addr
        · obtain ⟨w, hw, same⟩ := window
          have dead : w.dead = true := by
            by_contra alive
            exact live (List.any_eq_true.mpr ⟨w, hw, by simp [same, alive]⟩)
          have here := missed.node w hw n (by rw [same]; exact find)
          rwa [same, if_pos dead] at here
        · rw [missed.others n.addr fun w hw same => window ⟨w, hw, same⟩, find]
    by_cases isOpen : r.inviteOpen = true
    · have asked := State.resolveInvitation_missed running' r
      rw [if_pos isOpen, asked.node _ _ node]
      simp only [Option.any_some, Round.asks, isOpen, Bool.true_and]
    · rw [if_neg isOpen, node]
      simp [Round.asks, isOpen]

end Ending

end Sys2Proof.Machine

/-! Lines turned at a round start: the tally period and the end of training (01:R2, R11). -/

namespace Sys2Proof.Machine

open Sys2Proof

/-! ### A line turned to a state in service -/

/-- The record of line `l` becomes `x`, with records `rs`; LINE_CHANGE is raised exactly where there are any. -/
structure LineTurned (l : LineId) (x : Line) (rs : List (Nat × Entry)) (s u : State) : Prop where
  line : u.line l = x
  others : ∀ m, m ≠ l → u.line m = s.line m
  lines : u.lines = { s.lines with lineA := u.lines.lineA, lineB := u.lines.lineB }
  journal : u.journal = s.journal.pushAll rs
  disarmed : rs ≠ [] → u.port.arm.lineChange = false
  told : rs ≠ [] → s.port.arm.lineChange = true → lineChangeNotice u.lines.lineA.st u.lines.lineB.st ∈ u.port.frames
  falls : s.port.arm.lineChange = false → u.port.arm.lineChange = false
  frames : ∀ f ∈ s.port.frames, f ∈ u.port.frames
  still : rs = [] → u.port = s.port
  notices : Port.noticesOnly s.port u.port
  rest : u = { s with lines := u.lines, journal := u.journal, port := u.port }

section Turned
variable {s t u : State} {l : LineId} {st : LineState}

/-- A line's own record changed, its state standing. -/
theorem LineTurned.modLine (s : State) (l : LineId) (f : Line → Line) : LineTurned l (f (s.line l)) [] s (s.modLine l f) where
  line := s.modLine_line l f
  others m ne := State.modLine_line_ne s l m f ne
  lines := by cases l <;> rfl
  journal := by simp
  disarmed h := absurd rfl h
  told h := absurd rfl h
  falls h := by simpa using h
  frames f h := by simpa using h
  still _ := by simp
  notices := by rw [State.modLine_port]; rfl
  rest := by cases l <;> rfl

theorem State.raise_frames (s : State) (k : NoticeKind) {f : OutFrame} (h : f ∈ s.port.frames) : f ∈ (s.raise k).port.frames := by
  unfold State.raise
  split
  · exact (Port.ready_frames _ s.port).symm.subset (List.mem_append_left _ h)
  · exact h

theorem State.append_frames (s : State) (e : Entry) {f : OutFrame} (h : f ∈ s.port.frames) : f ∈ (s.append e).port.frames := by
  obtain ⟨fs, perm, -⟩ := (s.append_quiet e).frames
  exact perm.symm.subset (List.mem_append_left _ h)

theorem LineTurned.turnLine (running : s.part = .running) (l : LineId) (st : LineState) :
    LineTurned l { s.line l with st := st } [(s.now, lineStateEntry l st)] s (s.turnLine l st) where
  line := by
    have := s.modLine_line l (fun x => { x with st := st })
    cases l <;> simpa [State.turnLine, State.line] using this
  others m ne := by
    have := State.modLine_line_ne s l m (fun x => { x with st := st }) ne
    rw [← this]
    cases m <;> simp [State.turnLine, State.line]
  lines := by
    have lines : (s.turnLine l st).lines = (s.modLine l (fun x => { x with st := st })).lines := by simp [State.turnLine]
    rw [lines]
    cases l <;> rfl
  journal := by simp [State.turnLine, State.now, lineStateEntry]
  disarmed _ := (State.turnLine_raises running).1
  told _ := (State.turnLine_raises running).2
  falls _ := (State.turnLine_raises running).1
  frames f h := State.raise_frames _ _ (State.append_frames _ _ (by simpa using h))
  still h := by cases h
  notices := by
    have one := ((s.modLine l (fun x => { x with st := st })).append_noticed (lineStateEntry l st)).trans
      (State.raise_noticed _ .lineChange)
    rw [State.modLine_port] at one
    exact one.notices
  rest := State.eq_of_fields (lines := rfl) (journal := rfl) (port := rfl) (pending := by simp [State.turnLine]) (part := by simp [State.turnLine])
    (supply := by simp [State.turnLine]) (loader := by simp [State.turnLine]) (time := by simp [State.turnLine])
    (inviter := by simp [State.turnLine]) (nodes := by simp [State.turnLine]) (store := by simp [State.turnLine])
    (revoc := by simp [State.turnLine]) (minibar := by simp [State.turnLine]) (choices := by simp [State.turnLine])

/-- A line that changes to a state in service leaves service standing: no node falls silent. -/
theorem State.setLineState_serves (ne : (s.line l).st ≠ st) (running : s.part = .running) (serves : st.inService = true) :
    s.setLineState l st = s.turnLine l st := by
  have on : (s.turnLine l st).service = true := by
    have here := congrArg Line.st (LineTurned.turnLine running l st).line
    cases l
    · rw [State.service, show (s.turnLine .a st).lines.lineA.st = st from here, serves, Bool.true_or]
    · rw [State.service, show (s.turnLine .b st).lines.lineB.st = st from here, serves, Bool.or_true]
  rw [State.setLineState_eq ne, on, Bool.not_true, Bool.and_false]
  rfl

theorem LineTurned.setLineState (running : s.part = .running) (serves : (s.line l).st ≠ st → st.inService = true) :
    LineTurned l { s.line l with st := st } (if (s.line l).st = st then [] else [(s.now, lineStateEntry l st)]) s (s.setLineState l st) := by
  by_cases same : (s.line l).st = st
  · rw [if_pos same, State.setLineState, if_pos same, ← same]
    have still := LineTurned.modLine s l id
    have eq : s.modLine l id = s := by cases l <;> rfl
    rw [eq] at still
    exact still
  · rw [if_neg same, State.setLineState_serves same running (serves same)]
    exact .turnLine running l st

/-- One change of a line after another, of the same line. -/
theorem LineTurned.after {x y : Line} {rs : List (Nat × Entry)} (h : LineTurned l x [] s t) (g : LineTurned l y rs t u) :
    LineTurned l y rs s u where
  line := g.line
  others m ne := (g.others m ne).trans (h.others m ne)
  lines := by rw [g.lines, h.lines]
  journal := by rw [g.journal, h.journal]; rfl
  disarmed := g.disarmed
  told some armed := g.told some (by rw [h.still rfl]; exact armed)
  falls off := g.falls (h.falls off)
  frames f hf := g.frames f (h.frames f hf)
  still none := (g.still none).trans (h.still rfl)
  notices := Port.noticesOnly_trans h.notices g.notices
  rest := by rw [g.rest, h.rest]

theorem judgedState_serves {threshold tally : Nat} (moves : st ≠ judgedState threshold tally st) :
    (judgedState threshold tally st).inService = true := by
  unfold judgedState at moves ⊢
  cases st with
  | up => dsimp only; split <;> rfl
  | degraded => dsimp only; split <;> rfl
  | _ => exact absurd rfl moves

/-- A line at the end of its tally period (01:R11). -/
def Line.tallied (threshold : Nat) (x : Line) : Line :=
  { x with tally := x.running, running := 0, st := judgedState threshold x.running x.st }

/-- The record of a line whose state changes to that of `x`. -/
def Line.turnRecord (now : Nat) (l : LineId) (old x : Line) : List (Nat × Entry) :=
  if old.st = x.st then [] else [(now, lineStateEntry l x.st)]

theorem LineTurned.tallyLine (running : s.part = .running) (l : LineId) :
    LineTurned l ((s.line l).tallied s.settings.degradeThreshold)
      (Line.turnRecord s.now l (s.line l) ((s.line l).tallied s.settings.degradeThreshold)) s (s.tallyLine l) := by
  have counted := LineTurned.modLine s l (fun x => { x with tally := x.running, running := 0 })
  have judged := LineTurned.setLineState (s := s.modLine l (fun x => { x with tally := x.running, running := 0 })) (l := l)
    (st := judgedState s.settings.degradeThreshold (s.line l).running (s.line l).st) (by simpa using running) (by
      rw [counted.line]
      exact judgedState_serves)
  have now : (s.modLine l (fun x => { x with tally := x.running, running := 0 })).now = s.now := State.now_eq (by simp)
  have turned := counted.after judged
  have acts : s.tallyLine l = (s.modLine l (fun x => { x with tally := x.running, running := 0 })).setLineState l
      (judgedState s.settings.degradeThreshold (s.line l).running (s.line l).st) := by
    unfold State.tallyLine
    dsimp only
    rw [counted.line]
  rw [acts]
  rw [counted.line, now] at turned
  exact turned

/-- A line after its training, where that has ended (01:R2). -/
def Line.released (x : Line) : Line := if x.trained then { x with st := .up } else x

theorem LineTurned.trainingEnd (running : s.part = .running) (l : LineId) :
    LineTurned l (s.line l).released (Line.turnRecord s.now l (s.line l) (s.line l).released) s (s.trainingEnd l) := by
  unfold State.trainingEnd Line.released Line.turnRecord
  by_cases trained : (s.line l).trained = true
  · rw [if_pos trained, if_pos trained]
    exact .setLineState running fun _ => rfl
  · rw [if_neg trained, if_neg trained, if_pos rfl]
    have still := LineTurned.modLine s l id
    have eq : s.modLine l id = s := by cases l <;> rfl
    rwa [eq] at still

end Turned

end Sys2Proof.Machine

/-! The stages of a round start and what each leaves: O42. -/

namespace Sys2Proof.Machine

open Sys2Proof

/-! ### Both lines turned -/

/-- The records of the lines become `xa` and `xb`, with records `rs`; LINE_CHANGE is raised exactly where there are any. -/
structure LinesTurned (xa xb : Line) (rs : List (Nat × Entry)) (s u : State) : Prop where
  lineA : u.lines.lineA = xa
  lineB : u.lines.lineB = xb
  lines : u.lines = { s.lines with lineA := u.lines.lineA, lineB := u.lines.lineB, tallyDone := u.lines.tallyDone }
  journal : u.journal = s.journal.pushAll rs
  disarmed : rs ≠ [] → u.port.arm.lineChange = false
  falls : s.port.arm.lineChange = false → u.port.arm.lineChange = false
  still : rs = [] → u.port = s.port
  notices : Port.noticesOnly s.port u.port
  rest : u = { s with lines := u.lines, journal := u.journal, port := u.port }

section Both
variable {s t u : State} {xa xb ya yb : Line} {rs ts : List (Nat × Entry)}

theorem LinesTurned.trans (h : LinesTurned xa xb rs s t) (g : LinesTurned ya yb ts t u) : LinesTurned ya yb (rs ++ ts) s u where
  lineA := g.lineA
  lineB := g.lineB
  lines := by rw [g.lines, h.lines]
  journal := by rw [g.journal, h.journal, Journal.pushAll_append]
  disarmed some := by
    by_cases none : ts = []
    · rw [g.still none]
      exact h.disarmed (by simpa [none] using some)
    · exact g.disarmed none
  falls off := g.falls (h.falls off)
  still none := (g.still (List.append_eq_nil_iff.mp none).2).trans (h.still (List.append_eq_nil_iff.mp none).1)
  notices := Port.noticesOnly_trans h.notices g.notices
  rest := by rw [g.rest, h.rest]

theorem LineTurned.bothA (h : LineTurned .a xa rs s u) : LinesTurned xa s.lines.lineB rs s u where
  lineA := h.line
  lineB := h.others .b (by simp)
  lines := by rw [h.lines]
  journal := h.journal
  disarmed := h.disarmed
  falls := h.falls
  still := h.still
  notices := h.notices
  rest := h.rest

theorem LineTurned.bothB (h : LineTurned .b xb rs s u) : LinesTurned s.lines.lineA xb rs s u where
  lineA := h.others .a (by simp)
  lineB := h.line
  lines := by rw [h.lines]
  journal := h.journal
  disarmed := h.disarmed
  falls := h.falls
  still := h.still
  notices := h.notices
  rest := h.rest

/-- Line A and then line B, each from what it held before. -/
theorem LinesTurned.ofEach {act : LineId → State → State} {f : Line → Line} {rec : LineId → Line → List (Nat × Entry)}
    (each : ∀ (l : LineId) (t : State), t.part = s.part → t.time = s.time → t.loader = s.loader →
      LineTurned l (f (t.line l)) (rec l (t.line l)) t (act l t)) :
    LinesTurned (f s.lines.lineA) (f s.lines.lineB) (rec .a s.lines.lineA ++ rec .b s.lines.lineB) s (act .b (act .a s)) := by
  have first := (each .a s rfl rfl rfl).bothA
  have second := (each .b (act .a s) (congrArg State.part first.rest :) (congrArg State.time first.rest :)
    (congrArg State.loader first.rest :)).bothB
  have same : (act .a s).line .b = s.lines.lineB := first.lineB
  rw [same, first.lineA] at second
  exact first.trans second

/-- A tally period is to end at the coming round start (01:R11). -/
def State.tallyDue (s : State) : Bool := decide (s.nextNumber = 0) && !s.lines.tallyDone

/-- The records of both lines turned by `f`. -/
def State.turnRecords (s : State) (f : Line → Line) : List (Nat × Entry) :=
  Line.turnRecord s.now .a s.lines.lineA (f s.lines.lineA) ++ Line.turnRecord s.now .b s.lines.lineB (f s.lines.lineB)

theorem State.tallyEnd_turned (running : s.part = .running) (due : s.tallyDue = true) :
    LinesTurned (s.lines.lineA.tallied s.settings.degradeThreshold) (s.lines.lineB.tallied s.settings.degradeThreshold)
      (s.turnRecords (Line.tallied s.settings.degradeThreshold)) s s.tallyEnd ∧ s.tallyEnd.lines.tallyDone = true := by
  have both := LinesTurned.ofEach (s := s) (act := fun l t => t.tallyLine l) (f := Line.tallied s.settings.degradeThreshold)
    (rec := fun l x => Line.turnRecord s.now l x (x.tallied s.settings.degradeThreshold)) (fun l t part time loader => by
      have one := LineTurned.tallyLine (part.trans running) l
      rw [show t.settings = s.settings from congrArg Loader.settings loader, State.now_eq time] at one
      exact one)
  have acts : s.tallyEnd = { (s.tallyLine .a).tallyLine .b with lines := { ((s.tallyLine .a).tallyLine .b).lines with tallyDone := true } } := by
    unfold State.tallyDue at due
    rw [Bool.and_eq_true, decide_eq_true_eq, Bool.not_eq_true'] at due
    exact if_pos ⟨due.1, by simp [due.2]⟩
  rw [acts]
  refine ⟨⟨both.lineA, both.lineB, ?_, both.journal, both.disarmed, both.falls, both.still, both.notices, ?_⟩, rfl⟩
  · show ({ ((s.tallyLine .a).tallyLine .b).lines with tallyDone := true } : LineEngine) = _
    rw [both.lines]
  · exact congrArg (fun x : State => { x with lines := { ((s.tallyLine .a).tallyLine .b).lines with tallyDone := true } }) both.rest

theorem State.trainingEnds_turned (running : s.part = .running) :
    LinesTurned s.lines.lineA.released s.lines.lineB.released (s.turnRecords Line.released) s ((s.trainingEnd .a).trainingEnd .b) :=
  LinesTurned.ofEach (act := fun l t => t.trainingEnd l) (f := Line.released)
    (rec := fun l x => Line.turnRecord s.now l x x.released) fun l t part time _ => by
      have one := LineTurned.trainingEnd (part.trans running) l
      rwa [State.now_eq time] at one

/-- A line as the tally period and the training leave it at a round start. -/
def State.turnedLine (s : State) (x : Line) : Line := (if s.tallyDue then x.tallied s.settings.degradeThreshold else x).released

/-- The records of the line changes of a round start. -/
def State.turnedRecords (s : State) : List (Nat × Entry) :=
  (if s.tallyDue then s.turnRecords (Line.tallied s.settings.degradeThreshold) else []) ++ s.tallyEnd.turnRecords Line.released

theorem LinesTurned.refl (s : State) : LinesTurned s.lines.lineA s.lines.lineB [] s s where
  lineA := rfl
  lineB := rfl
  lines := rfl
  journal := rfl
  disarmed h := absurd rfl h
  falls := id
  still _ := rfl
  notices := rfl
  rest := rfl

theorem State.tallyEnd_idle (idle : s.tallyDue = false) : s.tallyEnd = s := by
  unfold State.tallyDue at idle
  refine if_neg fun both => ?_
  simp [both.1] at idle
  exact both.2 idle

theorem State.lines_turned (running : s.part = .running) : LinesTurned (s.turnedLine s.lines.lineA) (s.turnedLine s.lines.lineB)
    s.turnedRecords s ((s.tallyEnd.trainingEnd .a).trainingEnd .b) := by
  have trained := State.trainingEnds_turned (s := s.tallyEnd) (by simpa using running)
  unfold State.turnedLine State.turnedRecords
  cases due : s.tallyDue with
  | true =>
    have tallied := (State.tallyEnd_turned running due).1
    have both := tallied.trans trained
    rw [tallied.lineA, tallied.lineB] at both
    simpa using both
  | false =>
    rw [State.tallyEnd_idle due] at trained ⊢
    simpa using trained

end Both

/-! ### The drift spans at a round start (03:R52, R53) -/

/-- A clock whose span alone, with the failures, is another. -/
def Clock.Spanned (c d : Clock) : Prop := d = { c with span := d.span, failed := d.failed, suspect := d.suspect }

/-- A node with its open drift span risen, failed or discarded. -/
def Node.Spanned (n m : Node) : Prop :=
  m = { n with clock := { n.clock with span := m.clock.span, failed := m.clock.failed, suspect := m.clock.suspect } }

theorem Node.Spanned.refl (n : Node) : n.Spanned n := rfl

theorem Node.Spanned.trans {n m k : Node} (h : n.Spanned m) (g : m.Spanned k) : n.Spanned k := by
  unfold Node.Spanned at *
  rw [g, h]

theorem Clock.spans (c : Clock) : c.Spanned c.failSpan ∧ c.Spanned c.discardSpan ∧ c.Spanned c.spanRise := by
  refine ⟨rfl, rfl, ?_⟩
  unfold Clock.spanRise
  split
  · rfl
  · split <;> rfl

theorem Node.clocked_spanned {f : Clock → Clock} (h : ∀ c : Clock, c.Spanned (f c)) (n : Node) : n.Spanned (n.clocked f) := by
  have spanned := h n.clock
  unfold Clock.Spanned at spanned
  have grace : (f n.clock).grace = n.clock.grace := (congrArg Clock.grace spanned :)
  unfold Node.Spanned Node.clocked
  simp only [grace, ne_eq, not_true, decide_false, Bool.or_false]
  rw [← spanned]

/-- What the drift spans of a round start leave. -/
structure SpansStepped (s u : State) : Prop where
  addrs : u.addrs = s.addrs
  node : ∀ a n, s.node? a = some n → ∃ k, u.node? a = some k ∧ n.Spanned k
  port : Port.Quiet s.port u.port
  rest : u = { s with nodes := u.nodes, port := u.port, choices := u.choices }

section Spans
variable {s t u : State}

theorem SpansStepped.refl (s : State) : SpansStepped s s := ⟨rfl, fun _ n hn => ⟨n, hn, .refl n⟩, .refl _, rfl⟩

theorem SpansStepped.trans (h : SpansStepped s t) (g : SpansStepped t u) : SpansStepped s u where
  addrs := g.addrs.trans h.addrs
  node a n hn := by
    obtain ⟨m, hm, one⟩ := h.node a n hn
    obtain ⟨k, hk, two⟩ := g.node a m hm
    exact ⟨k, hk, one.trans two⟩
  port := h.port.trans g.port
  rest := by rw [g.rest, h.rest]

theorem SpansStepped.setClock (running : s.part = .running) (a : Nat) {f : Clock → Clock} (h : ∀ c : Clock, c.Spanned (f c)) :
    SpansStepped s (s.setClock a f) := by
  cases hn : s.node? a with
  | none =>
    have stays : s.setClock a f = s := by simp only [State.setClock, hn]
    rw [stays]
    exact .refl s
  | some n =>
    have set := NodeBecomes.setClock hn running f
    refine ⟨set.addrs, fun b m hb => ?_, set.quiet, set.rest.trans ?_⟩
    · by_cases same : b = a
      · subst same
        obtain rfl : n = m := Option.some.inj (hn.symm.trans hb)
        exact ⟨_, set.node? hn, Node.clocked_spanned h n⟩
      · exact ⟨m, (set.others same).trans hb, .refl m⟩
    · rw [set.journal, Journal.pushAll_nil, (congrArg State.choices set.rest :)]

theorem SpansStepped.chose (s : State) : SpansStepped s s.chose := ⟨rfl, fun _ n hn => ⟨n, hn, .refl n⟩, .refl _, rfl⟩

theorem SpansStepped.spanStep (running : s.part = .running) (newLength : Bool) (a : Nat) :
    SpansStepped s (s.spanStep newLength a) := by
  have chosen {f : Clock → Clock} (h : ∀ c : Clock, c.Spanned (f c)) : SpansStepped s (s.chose.setClock a f) :=
    (SpansStepped.chose s).trans (SpansStepped.setClock (s := s.chose) running a h)
  unfold State.spanStep
  split
  · exact .refl s
  · split
    · split
      · split
        · exact chosen fun c => c.spans.1
        · exact chosen fun c => c.spans.2.1
      · exact .setClock running a fun c => c.spans.2.1
    · exact .setClock running a fun c => c.spans.2.2

theorem SpansStepped.forEach (newLength : Bool) (as : List Nat) : ∀ s : State, s.part = .running →
    SpansStepped s (s.forEach as (State.spanStep newLength)) := by
  induction as with
  | nil => exact fun s _ => .refl s
  | cons a as ih =>
    intro s running
    have one := SpansStepped.spanStep running newLength a
    exact one.trans (ih _ ((congrArg State.part one.rest).trans running))

end Spans

/-! ### The nodes and the queue before the new round (01:R14) -/

/-- The urgent queue one round start older, the decisions of the third gone. -/
def agedQueue (queue : List Urgent) : List Urgent := (queue.map Urgent.older).filter (fun x => !x.agedOut)

/-- What the spans, the counts of the nodes and the ageing of the queue leave. -/
structure NodesReadied (s v : State) : Prop where
  addrs : v.addrs = s.addrs
  node : ∀ a n, s.node? a = some n → ∃ k, n.Spanned k ∧ v.node? a = some (s.stallStep k).waitStep.openPermit
  records : ∃ rs, Records s v rs ∧ ∀ e ∈ rs, e.2.kind = .decisionLate
  lines : v.lines = { s.lines with urgent := agedQueue s.lines.urgent }
  rest : v = { s with lines := v.lines, nodes := v.nodes, journal := v.journal, port := v.port, choices := v.choices }

section Nodes
variable {s : State}

theorem State.nodes_readied (running : s.part = .running) (newLength : Bool) (as : List Nat) :
    NodesReadied s ((s.forEach as (State.spanStep newLength)).nodesStep.ageOut) := by
  have spans := SpansStepped.forEach newLength as s running
  generalize s.forEach as (State.spanStep newLength) = u at spans
  have addr (n : Node) : ((u.stallStep n).waitStep.openPermit).addr = n.addr :=
    (((u.stallStep_inert n).trans (Node.waitStep_inert _)).trans (Node.openPermit_inert _)).addr
  have step : u.stallStep = s.stallStep := by rw [spans.rest]; rfl
  have late := State.removeUrgent_records
    ({ u.nodesStep with lines := { u.nodesStep.lines with urgent := u.nodesStep.lines.urgent.map Urgent.older } }) Urgent.agedOut
  have lines : u.nodesStep.ageOut.lines = { s.lines with urgent := agedQueue s.lines.urgent } := by
    rw [State.ageOut, State.removeUrgent_lines]
    show ({ u.lines with urgent := _ } : LineEngine) = _
    rw [spans.rest]
    rfl
  refine ⟨?_, fun a n hn => ?_, ?_, lines, ?_⟩
  · rw [← spans.addrs]
    simp only [State.addrs, State.ageOut_nodes, State.nodesStep, List.map_map]
    exact List.map_congr_left fun n _ => addr n
  · obtain ⟨k, hk, spanned⟩ := spans.node a n hn
    refine ⟨k, spanned, ?_⟩
    rw [← step]
    have found := findKey_map Node.addr _ addr a u.nodes
    rw [State.node?, State.ageOut_nodes, State.nodesStep]
    exact found.trans (congrArg _ hk)
  · obtain ⟨rs, records, kinds⟩ := late
    refine ⟨rs, ⟨records.time.trans (congrArg State.time spans.rest :), records.journal.trans ?_, spans.port.trans records.port⟩,
      fun e he => (kinds e he).1⟩
    rw [show u.nodesStep.journal = s.journal from (congrArg State.journal spans.rest :)]
  · have kept {α : Type} (g : State → α) (same : g u.nodesStep.ageOut = g u) (hg : g u = g s) : g u.nodesStep.ageOut = g s := same.trans hg
    exact State.eq_of_fields (lines := rfl) (nodes := rfl) (journal := rfl) (port := rfl) (choices := rfl)
      (pending := kept State.pending (by simp) (congrArg State.pending spans.rest :))
      (part := kept State.part (by simp) (congrArg State.part spans.rest :))
      (supply := kept State.supply (by simp) (congrArg State.supply spans.rest :))
      (loader := kept State.loader (by simp) (congrArg State.loader spans.rest :))
      (time := kept State.time (by simp) (congrArg State.time spans.rest :))
      (inviter := kept State.inviter (by simp) (congrArg State.inviter spans.rest :))
      (store := kept State.store (by simp) (congrArg State.store spans.rest :))
      (revoc := kept State.revoc (by simp) (congrArg State.revoc spans.rest :))
      (minibar := kept State.minibar (by simp) (congrArg State.minibar spans.rest :))

end Nodes

end Sys2Proof.Machine

/-! The composition as it leaves all else, and the lines at a round start: O42. -/

namespace Sys2Proof.Machine

open Sys2Proof

/-! ### What a composition leaves (01:R15) -/

/-- The node records of the same addresses in the same states. -/
def State.StatesStand (s u : State) : Prop := ∀ a, (u.node? a).map Node.st = (s.node? a).map Node.st

/-- A segment composed: node records in their states, the urgent queue, the repeat list, the pointer, the records of first
sends, and nothing else. -/
structure Composed (s u : State) : Prop where
  addrs : u.addrs = s.addrs
  states : s.StatesStand u
  lines : u.lines = { s.lines with urgent := u.lines.urgent, repeats := u.lines.repeats, pointer := u.lines.pointer }
  records : ∃ rs, Records s u rs
  rest : u = { s with lines := u.lines, nodes := u.nodes, journal := u.journal, port := u.port }

section States
variable {s t u : State} {a : Nat} {n m : Node}

theorem State.StatesStand.of_eq (h : u.nodes = s.nodes) : s.StatesStand u := fun a => by rw [State.node?, h, State.node?]

theorem State.StatesStand.trans (h : s.StatesStand t) (g : t.StatesStand u) : s.StatesStand u := fun a => (g a).trans (h a)

theorem State.Nodewise.statesStand {R : Node → Node → Prop} (h : s.Nodewise R u) (addr : ∀ n m, R n m → m.addr = n.addr)
    (st : ∀ n m, R n m → m.st = n.st) : s.StatesStand u := by
  intro a
  unfold State.Nodewise at h
  unfold State.node? findKey
  generalize s.nodes = ns at h
  generalize u.nodes = ms at h
  induction h with
  | nil => rfl
  | @cons n m ns ms same _ ih =>
    rw [List.find?_cons, List.find?_cons, addr n m same]
    cases n.addr == a with
    | true => exact congrArg some (st n m same)
    | false => exact ih

theorem State.StatesStand.replace (hn : s.node? a = some n) (inert : NodeInert n m) : s.StatesStand (s.modNode a (fun _ => m)) := by
  intro b
  rw [State.replace_node? hn (inert.addr.trans (findKey_some Node.addr hn).1)]
  split
  · rename_i here
    rw [here, hn, Option.map_some, Option.map_some, inert.st]
  · rfl

theorem State.StatesStand.modNode (s : State) (a : Nat) {f : Node → Node} (inert : ∀ n, NodeInert n (f n)) : s.StatesStand (s.modNode a f) :=
  (State.Nodewise.modNode (R := NodeInert) NodeInert.refl s a inert).statesStand (fun _ _ h => h.addr) (fun _ _ h => h.st)

theorem Compose.latched_stands (c : Compose) (a : Nat) (p : Node → Bool) (x : State → Node → Directive) {q : Node → Node}
    (inert : ∀ n, NodeInert n (q n)) : c.state.StatesStand (c.latched a p x q).state := by
  unfold Compose.latched
  split
  · split
    · exact .modNode _ a inert
    · exact .of_eq rfl
  · exact .of_eq rfl

theorem Compose.latchedItems_stands (c : Compose) (a : Nat) : c.state.StatesStand (c.latchedItems a).state :=
  ((c.latched_stands a _ _ (fun _ => {})).trans (Compose.latched_stands _ a _ _ (fun _ => {}))).trans
    (Compose.latched_stands _ a _ _ (fun _ => {}))

theorem Compose.deliver_stands (c : Compose) (a : Nat) : c.state.StatesStand (c.deliver a).state := by
  unfold Compose.deliver
  split
  · rename_i n hn
    split
    · split
      · exact .replace hn (State.offerItem_inert ‹_›)
      · exact .of_eq rfl
    · exact .of_eq rfl
  · exact .of_eq rfl

theorem Compose.foldl_stands {f : Compose → Nat → Compose} (each : ∀ (c : Compose) a, c.state.StatesStand (f c a).state) (as : List Nat) :
    ∀ c : Compose, c.state.StatesStand (as.foldl f c).state := by
  induction as with
  | nil => exact fun c => .of_eq rfl
  | cons a as ih => exact fun c => (each c a).trans (ih _)

theorem State.compose_composed (running : s.part = .running) : Composed s s.compose.1 := by
  obtain ⟨-, lines, -, sessions, journal, port, frame⟩ := s.composeUrgent_spec
  let c3 := (walkFrom s.lines.pointer s.addrs).foldl Compose.latchedItems s.composeUrgent
  let c4 := (walkFrom s.lines.pointer s.addrs).foldl Compose.deliveries { c3 with last := none }
  have kept {α : Type} (g : State → α) (latched : ∀ (c : Compose) a, g (c.latchedItems a).state = g c.state)
      (items : ∀ (c : Compose) a, g (c.deliveries a).state = g c.state) : g c4.state = g s.composeUrgent.state :=
    (Compose.foldl_frame (fun c => g c.state) _ items _ _).trans (Compose.foldl_frame (fun c => g c.state) _ latched _ _)
  have sends : s.compose.1.lines = { c4.state.lines with pointer := s.compose.1.lines.pointer } := rfl
  have sameLines := kept State.lines Compose.latchedItems_lines Compose.deliveries_lines
  have latched : s.composeUrgent.state.StatesStand c3.state := Compose.foldl_stands Compose.latchedItems_stands _ _
  have items : c3.state.StatesStand c4.state := Compose.foldl_stands
    (fun (c : Compose) a => (c.deliver_stands a).trans (Compose.deliver_stands _ a)) _ { c3 with last := none }
  refine ⟨(s.compose_grows ⟨True, True, True, True⟩ running).2.2, ?_, ?_, ⟨_, ⟨?_, (kept State.journal Compose.latchedItems_journal Compose.deliveries_journal).trans journal, ?_⟩⟩, ?_⟩
  · exact ((sessions.statesStand Node.SessionOnly.addr fun n m only => (congrArg Node.st only :)).trans latched).trans items
  · rw [sends, sameLines, lines]
  · simp
  · exact (kept State.port Compose.latchedItems_port Compose.deliveries_port).symm ▸ port
  · exact State.eq_of_fields (lines := rfl) (nodes := rfl) (journal := rfl) (port := rfl) (choices := by simp)
      (pending := by simp) (part := by simp) (supply := by simp) (loader := by simp) (time := by simp) (inviter := by simp)
      (store := by simp) (revoc := by simp) (minibar := by simp)

theorem State.segmentFor_composed (running : s.part = .running) : Composed s s.segmentFor.1 := by
  unfold State.segmentFor
  split
  · exact State.compose_composed running
  · exact ⟨rfl, .of_eq rfl, rfl, ⟨[], .of_eq rfl rfl rfl⟩, rfl⟩

end States

end Sys2Proof.Machine

/-! The lines at a round start: O42. -/

namespace Sys2Proof.Machine

open Sys2Proof

section Stages
variable {s t u : State} {l : LineId} {x y : Line}

/-! ### The stages of a round start (01:R4) -/

theorem State.toMark_frame (s : State) : s.toMark = { s with time := s.toMark.time, port := s.toMark.port } :=
  State.eq_of_fields (time := rfl) (port := rfl) (lines := by simp) (nodes := by simp) (journal := by simp) (choices := by simp)
    (pending := by simp) (part := by simp) (supply := by simp) (loader := by simp) (inviter := by simp) (store := by simp)
    (revoc := by simp) (minibar := by simp)

/-- The opening of a round start: the round in progress has ended at the mark. -/
theorem State.beginRoundStart_closed (running : s.part = .running) : RoundClosed s.toMark s.beginRoundStart :=
  State.endRound_closed (by simpa using running)

theorem State.beginRoundStart_lines (running : s.part = .running) :
    s.beginRoundStart.lines = { s.lines with round := s.beginRoundStart.lines.round } := by
  have closed := (State.beginRoundStart_closed running).lines
  rwa [State.toMark_lines] at closed

theorem State.beginRoundStart_line (running : s.part = .running) (l : LineId) : s.beginRoundStart.line l = s.line l := by
  have lines := State.beginRoundStart_lines running
  cases l
  · exact (congrArg LineEngine.lineA lines :)
  · exact (congrArg LineEngine.lineB lines :)

theorem State.beginRoundStart_now (running : s.part = .running) : s.beginRoundStart.now = s.now := by
  have time := (congrArg State.time (State.beginRoundStart_closed running).rest :)
  rw [State.now, time]
  exact s.toMark_secs

theorem State.beginRoundStart_settings (s : State) : s.beginRoundStart.settings = s.settings := congrArg Loader.settings s.beginRoundStart_loader

theorem State.beginRoundStart_nextNumber (running : s.part = .running) : s.beginRoundStart.nextNumber = s.nextNumber := by
  have number := (State.beginRoundStart_closed running).number
  rw [State.toMark_lines] at number
  have next (v : State) : v.nextNumber = (v.lines.round.map Round.number).elim 0 (fun n => (n + 1) % 64) := by
    unfold State.nextNumber
    cases v.lines.round <;> rfl
  rw [next, next, number]

theorem State.beginRoundStart_journal (running : s.part = .running) : ∃ rs,
    s.beginRoundStart.journal = s.journal.pushAll rs ∧ ∀ e ∈ rs, e.2.kind = .nodeState := by
  obtain ⟨rs, records, kinds⟩ := (State.beginRoundStart_closed running).records
  have journal := records.journal
  rw [State.toMark_journal] at journal
  exact ⟨rs, journal, kinds⟩

/-- A round start after its lines are turned. -/
def State.linesSettled (s : State) : State := (s.beginRoundStart.tallyEnd.trainingEnd .a).trainingEnd .b

theorem State.linesSettled_turned (running : s.part = .running) :
    LinesTurned (s.beginRoundStart.turnedLine (s.line .a)) (s.beginRoundStart.turnedLine (s.line .b))
      s.beginRoundStart.turnedRecords s.beginRoundStart s.linesSettled := by
  have turned := State.lines_turned (State.beginRoundStart_running running)
  rw [show s.beginRoundStart.lines.lineA = s.line .a from State.beginRoundStart_line running .a,
    show s.beginRoundStart.lines.lineB = s.line .b from State.beginRoundStart_line running .b] at turned
  exact turned

theorem State.beforeNewRound_readied (running : s.part = .running) : NodesReadied s.linesSettled s.beforeNewRound :=
  State.nodes_readied ((congrArg State.part (State.linesSettled_turned running).rest).trans (State.beginRoundStart_running running)) _ _

@[simp] theorem State.beforeNewRound_part (s : State) : s.beforeNewRound.part = s.part := by
  simp [State.beforeNewRound, State.forEach, State.foldl_frame (·.part)]

theorem State.beforeNewRound_line (running : s.part = .running) (l : LineId) :
    s.beforeNewRound.line l = s.beginRoundStart.turnedLine (s.line l) := by
  have lines := (State.beforeNewRound_readied running).lines
  have turned := State.linesSettled_turned running
  cases l
  · exact (congrArg LineEngine.lineA lines).trans turned.lineA
  · exact (congrArg LineEngine.lineB lines).trans turned.lineB

/-- What a line carries of a round. -/
def Round.carried (l : LineId) (r : Round) : Carried := match l with | .a => r.carriedA | .b => r.carriedB

theorem State.newRound_line (running : s.part = .running) (l : LineId) : s.newRound.line l = (s.line l).header := by
  have lines := (State.segmentFor_composed running).lines
  cases l
  · exact congrArg Line.header (congrArg LineEngine.lineA lines :)
  · exact congrArg Line.header (congrArg LineEngine.lineB lines :)

theorem State.newRound_carried (s : State) (l : LineId) :
    s.newRound.lines.round.map (Round.carried l) = some (s.line l).st.carries := by
  cases l <;> rfl

theorem State.newRound_journal (s : State) : s.newRound.journal = s.segmentFor.1.journal := rfl

theorem State.newRound_port (s : State) : s.newRound.port = s.segmentFor.1.port := rfl

/-- The records of a round start: those of its lines among them. -/
theorem State.roundStart_records (running : s.part = .running) : ∃ before after,
    s.roundStart.journal = s.journal.pushAll (before ++ s.beginRoundStart.turnedRecords ++ after) ∧
    Port.Quiet s.linesSettled.port s.roundStart.port := by
  obtain ⟨before, closed, -⟩ := State.beginRoundStart_journal running
  have turned := (State.linesSettled_turned running).journal
  obtain ⟨late, readied, -⟩ := (State.beforeNewRound_readied running).records
  obtain ⟨sent, composed⟩ := (State.segmentFor_composed (s.beforeNewRound_part.trans running)).records
  rw [State.roundStart_eq, State.newRound_journal, State.newRound_port]
  refine ⟨before, late ++ sent, ?_, readied.port.trans composed.port⟩
  rw [composed.journal, readied.journal, turned, closed]
  simp only [Journal.pushAll_append, List.append_assoc]

theorem State.roundStart_line (running : s.part = .running) (l : LineId) :
    s.roundStart.line l = (s.beginRoundStart.turnedLine (s.line l)).header ∧
    s.roundStart.lines.round.map (Round.carried l)
      = some (s.beginRoundStart.turnedLine (s.line l)).st.carries := by
  rw [State.roundStart_eq, State.newRound_line (s.beforeNewRound_part.trans running), State.newRound_carried,
    State.beforeNewRound_line running]
  exact ⟨rfl, rfl⟩

theorem exec_roundStart (running : s.part = .running) : exec .roundStart s = .next s.roundStart := by
  change execRoundStart s = _
  rw [execRoundStart, running]

/-! ### The tally and the training of one line -/

theorem Line.tallied_training (h : x.st = .training) (threshold : Nat) : (x.tallied threshold).st = .training ∧ (x.tallied threshold).retrain = x.retrain := by
  simp [Line.tallied, judgedState, h]

/-- A line in training before and after a tally period that may end. -/
theorem State.turnedLine_training (h : x.st = .training) : ∃ y : Line, s.turnedLine x = y.released ∧ y.st = .training ∧ y.retrain = x.retrain := by
  refine ⟨_, rfl, ?_⟩
  split
  · exact Line.tallied_training h _
  · exact ⟨h, rfl⟩

theorem Line.released_training (h : x.st = .training) : x.released = if x.retrain = 0 then { x with st := .up } else x := by
  simp [Line.released, Line.trained, h]

theorem Line.released_other (h : x.st ≠ .training) : x.released = x := by
  simp [Line.released, Line.trained, h]

theorem State.turnRecord_mem (s : State) (f : Line → Line) (l : LineId) :
    ∀ e ∈ Line.turnRecord s.now l (s.line l) (f (s.line l)), e ∈ s.turnRecords f := by
  cases l
  · exact fun e he => List.mem_append_left _ he
  · exact fun e he => List.mem_append_right _ he

theorem State.tallyEnd_line (running : s.part = .running) (l : LineId) :
    s.tallyEnd.line l = if s.tallyDue then (s.line l).tallied s.settings.degradeThreshold else s.line l := by
  cases due : s.tallyDue with
  | false => rw [State.tallyEnd_idle due]; rfl
  | true =>
    have turned := (State.tallyEnd_turned running due).1
    cases l
    · exact turned.lineA
    · exact turned.lineB

/-- The judgement of a line, written out (01:R11). -/
theorem Line.tallied_st (x : Line) (threshold : Nat) : (x.tallied threshold).st =
    if x.st = .up ∧ threshold ≤ x.running then .degraded else if x.st = .degraded ∧ x.running ≤ 4 then .up else x.st := by
  unfold Line.tallied judgedState
  cases h : x.st <;> simp

theorem Line.turnRecord_now (now : Nat) (l : LineId) (moves : x.st ≠ y.st) : Line.turnRecord now l x y = [(now, lineStateEntry l y.st)] :=
  if_neg moves

/-- The records of both lines in their order. -/
theorem State.turnRecords_eq (s : State) (f : Line → Line) : s.turnRecords f
    = ([LineId.a, .b].filter (fun l => (f (s.line l)).st != (s.line l).st)).map (fun l => (s.now, lineStateEntry l (f (s.line l)).st)) := by
  have each (l : LineId) : Line.turnRecord s.now l (s.line l) (f (s.line l))
      = ([l].filter (fun l => (f (s.line l)).st != (s.line l).st)).map (fun l => (s.now, lineStateEntry l (f (s.line l)).st)) := by
    by_cases same : (s.line l).st = (f (s.line l)).st
    · simp [Line.turnRecord, same]
    · simp [Line.turnRecord, same, Ne.symm same]
  calc s.turnRecords f = Line.turnRecord s.now .a (s.line .a) (f (s.line .a)) ++ Line.turnRecord s.now .b (s.line .b) (f (s.line .b)) := rfl
    _ = _ := by rw [each, each, ← List.map_append, ← List.filter_append]; rfl

/-- The notice of the first line that a tally period moves. -/
theorem State.tallyEnd_told (running : s.part = .running) (due : s.tallyDue = true) (armed : s.port.arm.lineChange = true) :
    let x (l : LineId) := (s.line l).tallied s.settings.degradeThreshold
    (x .a).st ≠ (s.line .a).st ∨ (x .b).st ≠ (s.line .b).st →
      lineChangeNotice (x .a).st (if (x .a).st ≠ (s.line .a).st then (s.line .b).st else (x .b).st) ∈ s.tallyEnd.port.frames := by
  intro x moves
  have first := LineTurned.tallyLine running .a
  have second := LineTurned.tallyLine (s := s.tallyLine .a) (by simpa using running) .b
  have settings : (s.tallyLine .a).settings = s.settings := congrArg Loader.settings (State.tallyLine_loader s .a)
  rw [first.others .b (by simp), settings, State.now_eq (State.tallyLine_time s .a)] at second
  have port : s.tallyEnd.port = ((s.tallyLine .a).tallyLine .b).port := by
    unfold State.tallyDue at due
    rw [Bool.and_eq_true, decide_eq_true_eq, Bool.not_eq_true'] at due
    unfold State.tallyEnd
    rw [if_pos ⟨due.1, by simp [due.2]⟩]
  rw [port]
  by_cases moved : (x .a).st = (s.line .a).st
  · rw [if_neg (by simpa using moved)]
    have stays : (s.tallyLine .a).port = s.port := first.still (if_pos moved.symm)
    have told := second.told (by rw [Line.turnRecord_now _ _ (Ne.symm (moves.resolve_left (· moved)))]; simp) (by rwa [stays])
    rw [show ((s.tallyLine .a).tallyLine .b).lines.lineA = x .a from (second.others .a (by simp)).trans first.line,
      show ((s.tallyLine .a).tallyLine .b).lines.lineB = x .b from second.line] at told
    exact told
  · rw [if_pos moved]
    have told := first.told (by rw [Line.turnRecord_now _ _ (Ne.symm moved)]; simp) armed
    rw [show (s.tallyLine .a).lines.lineA = x .a from first.line,
      show (s.tallyLine .a).lines.lineB = s.line .b from first.others .b (by simp)] at told
    exact second.frames _ told

end Stages

end Sys2Proof.Machine

/-! O42: training and tally periods at a round start. -/

namespace Sys2Proof.Machine

open Sys2Proof

section Rows
variable {s : State} {l : LineId}

/-- A line in training whose count is above 0 carries a training header of this round. -/
theorem State.roundStart_trains (running : s.part = .running) {k : Nat} (st : (s.line l).st = .training) (count : (s.line l).retrain = k + 1) :
    (s.roundStart.line l).st = .training ∧ (s.roundStart.line l).retrain = k ∧
    s.roundStart.lines.round.map (Round.carried l) = some .training := by
  obtain ⟨line, carried⟩ := State.roundStart_line running l
  obtain ⟨y, turned, training, same⟩ := State.turnedLine_training (s := s.beginRoundStart) st
  have stays : s.beginRoundStart.turnedLine (s.line l) = y := by
    rw [turned, Line.released_training training, same, count, if_neg (Nat.succ_ne_zero k)]
  rw [stays] at line carried
  have header : y.header = { y with retrain := k } := by
    rw [Line.header, if_pos training, same, count, Nat.add_sub_cancel]
  rw [line, carried, header, training]
  exact ⟨rfl, rfl, rfl⟩

/-- A line in training whose count is 0 carries the round in full. -/
theorem State.roundStart_trained (running : s.part = .running) (st : (s.line l).st = .training) (count : (s.line l).retrain = 0) :
    (s.roundStart.line l).st = .up ∧ s.roundStart.port.arm.lineChange = false ∧
    (∃ es, s.roundStart.journal = s.journal.pushAll es ∧ (s.now, lineStateEntry l .up) ∈ es) ∧
    s.roundStart.lines.round.map (Round.carried l) = some .full := by
  obtain ⟨line, carried⟩ := State.roundStart_line running l
  obtain ⟨before, after, journal, quiet⟩ := State.roundStart_records running
  obtain ⟨y, turned, training, same⟩ := State.turnedLine_training (s := s.beginRoundStart) st
  have up : (s.beginRoundStart.turnedLine (s.line l)).st = .up := by
    rw [turned, Line.released_training training, same, count, if_pos rfl]
  have tallied : (s.beginRoundStart.tallyEnd.line l).st = .training ∧ (s.beginRoundStart.tallyEnd.line l).retrain = 0 := by
    rw [State.tallyEnd_line (State.beginRoundStart_running running), State.beginRoundStart_line running]
    split
    · rw [(Line.tallied_training st _).1, (Line.tallied_training st _).2, count]
      exact ⟨rfl, rfl⟩
    · exact ⟨st, count⟩
  have released : (s.beginRoundStart.tallyEnd.line l).released.st = .up := by
    rw [Line.released_training tallied.1, tallied.2, if_pos rfl]
  have now : s.beginRoundStart.tallyEnd.now = s.now :=
    (State.now_eq (by simp)).trans (State.beginRoundStart_now running)
  have here : (s.now, lineStateEntry l .up) ∈ s.beginRoundStart.turnedRecords := by
    refine List.mem_append_right _ (State.turnRecord_mem _ _ l _ ?_)
    rw [Line.turnRecord_now _ _ (by rw [tallied.1, released]; simp), released, now]
    exact List.mem_singleton_self _
  refine ⟨?_, ?_, ⟨_, journal, by simp [here]⟩, ?_⟩
  · rw [line, Line.header, if_neg (by rw [up]; simp), up]
  · rw [quiet.arm]
    exact (State.linesSettled_turned running).disarmed (List.ne_nil_of_mem here)
  · rw [carried, up]
    rfl

/-- The end of training taken alone (log 10). -/
theorem exec_trainingEnd (running : s.part = .running) (st : (s.line l).st = .training) (count : (s.line l).retrain = 0) :
    ∃ t : State, exec (.trainingEnd l) s = .next t ∧ t.line l = { s.line l with st := .up } ∧
      LineMoved l .up s.beginRoundStart t ∧ t.nodes = s.beginRoundStart.nodes := by
  have line := State.beginRoundStart_line running l
  have trained : (s.beginRoundStart.line l).trained = true := by simp [line, Line.trained, st, count]
  have acts : s.beginRoundStart.trainingEnd l = s.beginRoundStart.setLineState l .up := if_pos trained
  have moved := State.setLineState_moved (l := l) (st := .up) (.refl l s.beginRoundStart) (State.beginRoundStart_running running)
    (by rw [line, st]; simp)
  have turned := LineTurned.trainingEnd (State.beginRoundStart_running running) l
  refine ⟨_, congrArg Host.Outcome.next (State.roundPart_due running trained), ?_, by rw [acts]; exact moved, (congrArg State.nodes turned.rest :)⟩
  rw [turned.line, line, Line.released_training st, if_pos count]

theorem State.beginRoundStart_tallyDue (running : s.part = .running) (next : s.beginRoundStart.nextNumber = 0) (done : s.lines.tallyDone = false) :
    s.beginRoundStart.tallyDue = true := by
  have lines := State.beginRoundStart_lines running
  have same : s.beginRoundStart.lines.tallyDone = s.lines.tallyDone := (congrArg LineEngine.tallyDone lines :)
  rw [State.tallyDue, next, same, done]
  rfl

theorem exec_tallyPeriodEnd (running : s.part = .running) (due : s.beginRoundStart.tallyDue = true) :
    exec .tallyPeriodEnd s = .next s.beginRoundStart.tallyEnd := congrArg Host.Outcome.next (State.roundPart_due running due)

end Rows

/-- Settles O42: the lines at a round start are the tally period and then the end of training on each line, from what the
ending round left. -/
theorem trainingAndTallyPeriodsMoveTheLines : Obligations.TrainingAndTallyPeriodsMoveTheLines := by
  unfold Obligations.TrainingAndTallyPeriodsMoveTheLines
  refine ⟨fun l s running st => ⟨fun k count => ⟨_, exec_roundStart running, State.roundStart_trains running st count⟩,
    fun count => ⟨⟨_, exec_roundStart running, State.roundStart_trained running st count⟩, exec_trainingEnd running st count⟩⟩, ?_⟩
  intro s running next done b judged moves
  have due := State.beginRoundStart_tallyDue running next done
  have brun := State.beginRoundStart_running running
  have judges (l : LineId) : ((s.line l).tallied s.settings.degradeThreshold).st = judged l := Line.tallied_st _ _
  obtain ⟨tallied, ended⟩ := State.tallyEnd_turned brun due
  have line (l : LineId) : b.tallyEnd.line l = (s.line l).tallied s.settings.degradeThreshold := by
    rw [State.tallyEnd_line brun, due, if_pos rfl, State.beginRoundStart_line running, State.beginRoundStart_settings]
  have records : b.turnRecords (Line.tallied b.settings.degradeThreshold)
      = (([LineId.a, .b].filter (fun l => judged l != (s.line l).st)).map (fun l => (s.now, lineStateEntry l (judged l)))) := by
    rw [State.turnRecords_eq]
    simp only [b, State.beginRoundStart_now running, State.beginRoundStart_line running, State.beginRoundStart_settings, judges]
  have some_records (l : LineId) (h : moves l) : (s.now, lineStateEntry l (judged l)) ∈ b.turnRecords (Line.tallied b.settings.degradeThreshold) := by
    rw [records, List.mem_map]
    exact ⟨l, List.mem_filter.mpr ⟨by cases l <;> simp, by simpa using h⟩, rfl⟩
  refine ⟨⟨b.tallyEnd, exec_tallyPeriodEnd running due, ended, ?_, by rw [← records]; exact tallied.journal, ?_, ?_, tallied.notices,
    (congrArg State.nodes tallied.rest :), tallied.rest, ?_⟩, ?_⟩
  · intro l
    rw [line, ← judges]
    rfl
  · intro any
    have told := State.tallyEnd_told brun due
    simp only [State.beginRoundStart_line running, State.beginRoundStart_settings, judges] at told
    refine ⟨tallied.disarmed ?_, fun armed => told armed any⟩
    exact any.elim (fun h => List.ne_nil_of_mem (some_records _ h)) (fun h => List.ne_nil_of_mem (some_records _ h))
  · intro a b'
    refine tallied.still ?_
    rw [records]
    simp only [moves, ne_eq, not_not] at a b'
    simp [a, b']
  · rw [tallied.lines, ended]
  · obtain ⟨before, after, journal, quiet⟩ := State.roundStart_records running
    have turned : b.turnedRecords = b.turnRecords (Line.tallied b.settings.degradeThreshold) ++ b.tallyEnd.turnRecords Line.released := by
      rw [State.turnedRecords, due, if_pos rfl]
    refine ⟨_, exec_roundStart running, fun l => ?_, ⟨_, journal, fun l h => ?_⟩, fun any => ?_⟩
    · obtain ⟨line, -⟩ := State.roundStart_line running l
      have here : b.turnedLine (s.line l) = ((s.line l).tallied s.settings.degradeThreshold).released := by
        rw [State.turnedLine, due, if_pos rfl, State.beginRoundStart_settings]
      rw [line, here]
      refine ⟨?_, ?_, fun other => ?_⟩
      · unfold Line.header Line.released
        split <;> split <;> rfl
      · unfold Line.header Line.released
        split <;> split <;> rfl
      · have stays : ((s.line l).tallied s.settings.degradeThreshold).st ≠ .training := by
          rw [Line.tallied_st]
          split
          · simp
          · split
            · simp
            · exact other
        rw [Line.released_other stays, Line.header, if_neg stays]
        exact judges l
    · show _ ∈ before ++ b.turnedRecords ++ after
      rw [turned]
      simp [some_records l h]
    · rw [quiet.arm]
      refine (State.linesSettled_turned running).disarmed ?_
      show b.turnedRecords ≠ []
      rw [turned]
      exact any.elim (fun h => by simp [List.ne_nil_of_mem (some_records _ h)]) (fun h => by simp [List.ne_nil_of_mem (some_records _ h)])

end Sys2Proof.Machine

/-! The invitation of a round (02:R30) and what a round start does to a node before its round: lemmas for O41. -/

namespace Sys2Proof.Machine

open Sys2Proof

/-! ### The states of the nodes by address -/

section Tables
variable {s u : State} {a : Nat} {st : NodeState}

theorem State.node_in_state (once : s.addrs.Nodup) (a : Nat) (st : NodeState) :
    (∃ n ∈ s.nodes, n.addr = a ∧ n.st = st) ↔ (s.node? a).map Node.st = some st := by
  rw [Option.map_eq_some_iff]
  constructor
  · rintro ⟨n, hn, rfl, rfl⟩
    exact ⟨n, s.node?_of_once once hn, rfl⟩
  · rintro ⟨n, hn, rfl⟩
    exact ⟨n, (findKey_some Node.addr hn).2, (findKey_some Node.addr hn).1, rfl⟩

/-- The node table as its addresses with their states. -/
theorem State.nodes_by_address (once : s.addrs.Nodup) : s.nodes.map (fun n => (n.addr, some n.st))
    = s.addrs.map (fun a => (a, (s.node? a).map Node.st)) := by
  rw [State.addrs, List.map_map]
  refine List.map_congr_left fun n hn => ?_
  show _ = (n.addr, (s.node? n.addr).map Node.st)
  rw [s.node?_of_once once hn, Option.map_some]

theorem State.StatesStand.table (stand : s.StatesStand u) (addrs : u.addrs = s.addrs) (once : s.addrs.Nodup) :
    u.nodes.map (fun n => (n.addr, some n.st)) = s.nodes.map (fun n => (n.addr, some n.st)) := by
  rw [State.nodes_by_address once, State.nodes_by_address (addrs ▸ once), addrs]
  exact List.map_congr_left fun a _ => by rw [stand a]

/-- The windows of a round, from any table with the same addresses in the same states. -/
theorem State.StatesStand.windowsFor (stand : s.StatesStand u) (addrs : u.addrs = s.addrs) (once : s.addrs.Nodup) :
    s.windowsFor = (u.nodes.filter (fun n => n.st == .probation || n.st == .online || n.st == .silent)).map (fun n => ⟨n.addr, false⟩) := by
  have read (v : State) : (v.nodes.filter (fun n => n.st.hasWindow)).map (fun n => (⟨n.addr, false⟩ : Window))
      = ((v.nodes.map (fun n => (n.addr, some n.st))).filter (fun x => x.2.any NodeState.hasWindow)).map (fun x => ⟨x.1, false⟩) := by
    rw [List.filter_map, List.map_map]
    rfl
  have test : (fun n : Node => n.st == .probation || n.st == .online || n.st == .silent) = fun n => n.st.hasWindow := by
    funext n
    cases n.st <;> rfl
  rw [State.windowsFor, test, read, read, stand.table addrs once]

end Tables

/-! ### The choice of the invited node -/

section Invited
variable {s : State} {number a b : Nat}

theorem State.mem_dormantFor : a ∈ s.dormantFor number ↔ (∃ n ∈ s.nodes, n.addr = a ∧ n.st = .dormant) ∧ a % 64 = number := by
  simp only [State.dormantFor, List.mem_map, List.mem_filter, Bool.and_eq_true, beq_iff_eq]
  constructor
  · rintro ⟨n, ⟨hn, st, class_⟩, rfl⟩
    exact ⟨⟨n, hn, rfl, st⟩, class_⟩
  · rintro ⟨⟨n, hn, rfl, st⟩, class_⟩
    exact ⟨n, ⟨hn, st, class_⟩, rfl⟩

theorem State.dormantFor_ascends (asc : s.addrs.Pairwise (· < ·)) : (s.dormantFor number).Pairwise (· < ·) := by
  unfold State.dormantFor
  exact asc.sublist ((List.filter_sublist).map _)

/-- The turn after a choice (02:R30). -/
def Inviter.turned (x : Inviter) (number : Nat) : Bool := if number = 0 then !x.turn else x.turn

theorem State.chooseInvited_turn : (s.chooseInvited number).2.turn = s.inviter.turned number := by
  unfold State.chooseInvited
  cases s.dormantFor number with
  | nil => cases s.absentNext <;> rfl
  | cons a more => cases more <;> rfl

/-- The one DORMANT node of the round's address class is invited. -/
theorem State.chooseInvited_one (ha : a ∈ s.dormantFor number) (one : ∀ b ∈ s.dormantFor number, b = a)
    (asc : s.addrs.Pairwise (· < ·)) :
    (s.chooseInvited number).1 = some a ∧ (s.chooseInvited number).2.pointer = s.inviter.pointer := by
  have ascends := State.dormantFor_ascends (number := number) asc
  match list : s.dormantFor number with
  | [] =>
    rw [list] at ha
    cases ha
  | [x] =>
    rw [list] at ha
    simp only [State.chooseInvited, list, List.mem_singleton.mp ha]
    exact ⟨trivial, trivial⟩
  | x :: y :: rest =>
    rw [list] at one ascends
    have hx := one x (by simp)
    have hy := one y (by simp)
    have := (List.pairwise_cons.mp ascends).1 y (by simp)
    omega

/-- Of two DORMANT nodes of the class the turn picks. -/
theorem State.chooseInvited_two (ha : a ∈ s.dormantFor number) (hb : b ∈ s.dormantFor number) (lt : a < b)
    (two : ∀ c ∈ s.dormantFor number, c = a ∨ c = b) (asc : s.addrs.Pairwise (· < ·)) :
    (s.chooseInvited number).1 = some (if s.inviter.turned number then b else a) ∧
    (s.chooseInvited number).2.pointer = s.inviter.pointer := by
  have ascends := State.dormantFor_ascends (number := number) asc
  match list : s.dormantFor number with
  | [] =>
    rw [list] at ha
    cases ha
  | [x] =>
    rw [list] at ha hb
    have hx := List.mem_singleton.mp ha
    have hy := List.mem_singleton.mp hb
    omega
  | x :: y :: rest =>
    rw [list] at two ascends
    have hx := two x (by simp)
    have hy := two y (by simp)
    have := (List.pairwise_cons.mp ascends).1 y (by simp)
    obtain rfl : x = a := by omega
    obtain rfl : y = b := by omega
    simp only [State.chooseInvited, list]
    exact ⟨rfl, trivial⟩

/-- The walk of 01:R17 in its order: ahead of the pointer first, each part ascending. -/
theorem walkFrom_ordered (p : Nat) {as : List Nat} (asc : as.Pairwise (· < ·)) :
    (walkFrom p as).Pairwise (fun x y => p < x ∧ (p < y → x < y) ∨ x ≤ p ∧ y ≤ p ∧ x < y) := by
  unfold walkFrom
  refine List.pairwise_append.mpr ⟨(asc.filter _).imp_of_mem fun hx hy lt => ?_, (asc.filter _).imp_of_mem fun hx hy lt => ?_, fun x hx y hy => ?_⟩
  all_goals
    simp only [List.mem_filter, decide_eq_true_eq] at hx hy
    omega

theorem State.absent_iff : (s.node? a).any (fun n => n.st == .absent) = true ↔ (s.node? a).map Node.st = some .absent := by
  cases s.node? a <;> simp

/-- With no DORMANT node of the class the first ABSENT node after the pointer is invited. -/
theorem State.chooseInvited_absent (none : s.dormantFor number = []) (ha : (s.node? a).map Node.st = some .absent)
    (first : ∀ b, (s.node? b).map Node.st = some .absent →
      s.inviter.pointer < a ∧ (s.inviter.pointer < b → a ≤ b) ∨ a ≤ s.inviter.pointer ∧ b ≤ s.inviter.pointer ∧ a ≤ b)
    (asc : s.addrs.Pairwise (· < ·)) :
    (s.chooseInvited number).1 = some a ∧ (s.chooseInvited number).2.pointer = a := by
  have here : a ∈ walkFrom s.inviter.pointer s.addrs := by
    obtain ⟨n, hn, -⟩ := Option.map_eq_some_iff.mp ha
    obtain ⟨rfl, mem⟩ := findKey_some Node.addr hn
    exact (mem_walkFrom _ _ _).mpr (List.mem_map_of_mem mem)
  have next : s.absentNext = some a := by
    cases found : s.absentNext with
    | none =>
      have passed := List.find?_eq_none.mp found a here
      exact absurd (State.absent_iff.mpr ha) passed
    | some x =>
      obtain ⟨absent, before, after, walk, passed⟩ := List.find?_eq_some_iff_append.mp found
      rw [walk, List.mem_append, List.mem_cons] at here
      obtain early | rfl | late := here
      · exact absurd (State.absent_iff.mpr ha) (by simpa using passed a early)
      · rfl
      · have ordered := walkFrom_ordered s.inviter.pointer asc
        rw [walk] at ordered
        have ahead := (List.pairwise_cons.mp (List.pairwise_append.mp ordered).2.1).1 a late
        have behind := first x (State.absent_iff.mp absent)
        omega
  simp only [State.chooseInvited, none, next]
  exact ⟨trivial, trivial⟩

theorem State.chooseInvited_none (none : s.dormantFor number = []) (noAbsent : ∀ b, (s.node? b).map Node.st ≠ some .absent) :
    (s.chooseInvited number).1 = Option.none ∧ (s.chooseInvited number).2.pointer = s.inviter.pointer := by
  have next : s.absentNext = Option.none := by
    refine List.find?_eq_none.mpr fun b _ absent => noAbsent b (State.absent_iff.mp absent)
  simp only [State.chooseInvited, none, next]
  exact ⟨trivial, trivial⟩

end Invited

/-! ### A node before composition (03:R52, 05:R106, R110, 07:R135) -/

section Readied
variable {s : State} {n k : Node}

theorem State.outstanding_zero : s.outstanding n = 0 ↔ ∀ c ∈ s.revoc.changes, s.Unacked n c → genBelow n.cursor.sent c.gen = true := by
  rw [State.outstanding, List.length_eq_zero_iff, List.filter_eq_nil_iff]
  simp only [State.mem_deliverables_iff, Bool.not_eq_true', Bool.not_eq_false, and_imp]

/-- A reload a round start later (05:R110). -/
def Reload.waited (x : Reload) : Reload :=
  match x with
  | .awaiting g w => if 8 ≤ w + 1 then .marked else .awaiting g (w + 1)
  | x => x

/-- A permit after the segment that placed it (07:R135). -/
def Permit.opens (x : Permit) : Permit :=
  match x with
  | .placed q => .opened q
  | x => x

theorem Node.waitStep_eq (n : Node) : n.waitStep = { n with reload := n.reload.waited } := by
  unfold Node.waitStep Node.marked
  split
  · rename_i g w awaits
    rw [awaits, Reload.waited]
    split <;> rfl
  · rename_i idle
    have stays : n.reload.waited = n.reload := by
      unfold Reload.waited
      split
      · rename_i g w awaits
        exact absurd awaits (idle g w)
      · rfl
    rw [stays]

theorem Node.openPermit_eq (n : Node) : n.openPermit = { n with permit := n.permit.opens } := by
  unfold Node.openPermit
  split
  · rename_i q placed
    rw [placed, Permit.opens]
  · rename_i other
    have stays : n.permit.opens = n.permit := by
      unfold Permit.opens
      split
      · rename_i q placed
        exact absurd placed (other q)
      · rfl
    rw [stays]

/-- The steps of a node at a round start, its cursor aside. -/
theorem Node.readied_eq (n : Node) (s : State) : (s.stallStep n).waitStep.openPermit =
    { n with cursor := (s.stallStep n).cursor, reload := n.reload.waited, permit := n.permit.opens } := by
  have stall : s.stallStep n = { n with cursor := (s.stallStep n).cursor } := by
    unfold State.stallStep
    (repeat' split) <;> rfl
  rw [Node.openPermit_eq, Node.waitStep_eq, stall]

theorem State.stallStep_clocked (s : State) (n : Node) (x : Clock) :
    (s.stallStep { n with clock := x }).cursor = (s.stallStep n).cursor := by
  have same : s.outstanding { n with clock := x } = s.outstanding n := rfl
  unfold State.stallStep
  rw [same]
  (repeat' split) <;> rfl

/-- The stall count, the wait count and the permit of a node whose spans have been taken. -/
theorem Node.Spanned.readied {i : Node} (spanned : i.Spanned k) (s : State) :
    let m := (s.stallStep k).waitStep.openPermit
    m = { i with
      clock := { i.clock with span := m.clock.span, failed := m.clock.failed, suspect := m.clock.suspect }
      cursor := m.cursor
      reload := i.reload.waited
      permit := i.permit.opens } ∧
    m.cursor = (s.stallStep i).cursor := by
  intro m
  have eq : m = _ := Node.readied_eq k s
  have clock : m.clock = k.clock := (congrArg Node.clock eq :)
  have cursor : m.cursor = (s.stallStep k).cursor := (congrArg Node.cursor eq :)
  rw [clock, cursor]
  unfold Node.Spanned at spanned
  refine ⟨?_, ?_⟩
  · rw [eq]
    rw [spanned]
  · rw [spanned]
    exact s.stallStep_clocked i _

/-- The stall count of a node without a reload under way (05:R106). -/
theorem State.stallStep_cursor (s : State) (i : Node) :
    (i.reload.underWay = true → (s.stallStep i).cursor = i.cursor) ∧
    (i.reload.underWay = false → (∀ c ∈ s.revoc.changes, s.Unacked i c → genBelow i.cursor.sent c.gen = true) →
      (s.stallStep i).cursor = { i.cursor with stall := 0 }) ∧
    (i.reload.underWay = false → (∃ c ∈ s.revoc.changes, s.Unacked i c ∧ genBelow i.cursor.sent c.gen = false) →
      (s.stallStep i).cursor = if 8 ≤ i.cursor.stall + 1 then { i.cursor with sent := i.cursor.acked, stall := 0 }
        else { i.cursor with stall := i.cursor.stall + 1 }) := by
  refine ⟨fun busy => by simp [State.stallStep, busy], fun idle none => ?_, fun idle ⟨c, hc, unacked, above⟩ => ?_⟩
  · simp [State.stallStep, idle, State.outstanding_zero.mpr none]
  · have waits : s.outstanding i ≠ 0 := fun zero => by
      rw [State.outstanding_zero.mp zero c hc unacked] at above
      cases above
    simp only [State.stallStep, idle, Bool.false_eq_true, if_false, if_neg waits]
    split <;> rfl

end Readied

end Sys2Proof.Machine

/-! O41: what a round start fixes. -/

namespace Sys2Proof.Machine

open Sys2Proof

section Before
variable {s : State} {mark : Nat}

/-- The mark reached (03:R45), the receive timeout measured over the ticks passed. -/
theorem State.toMark_reached (marked : s.time.mark = some mark) (near : sub48 mark s.time.tick ≤ 16384) :
    s.toMark.time = { s.time with tick := mark, owed := s.time.owed + boundariesTo s.time.tick mark } ∧
    s.toMark.port = (s.quietFor (sub48 mark s.time.tick)).port := by
  have reached : s.toMark = ({ s with time := { s.time with tick := mark, owed := s.time.owed + boundariesTo s.time.tick mark } } : State).quietFor
      (sub48 mark s.time.tick) := by
    simp only [State.toMark, marked, TimeBase.markAhead, decide_eq_true near, if_true]
  rw [reached, State.quietFor_time_put]
  exact ⟨rfl, rfl⟩

theorem State.beforeNewRound_lines (running : s.part = .running) : s.beforeNewRound.lines = { s.lines with
    lineA := s.beforeNewRound.lines.lineA, lineB := s.beforeNewRound.lines.lineB, round := s.beginRoundStart.lines.round
    tallyDone := s.beforeNewRound.lines.tallyDone, urgent := agedQueue s.lines.urgent } := by
  have readied := (State.beforeNewRound_readied running).lines
  rw [(State.linesSettled_turned running).lines, State.beginRoundStart_lines running] at readied
  rw [readied]

theorem State.beforeNewRound_addrs (running : s.part = .running) : s.beforeNewRound.addrs = s.addrs := by
  have settled : s.linesSettled.addrs = s.beginRoundStart.addrs :=
    State.addrs_congr (congrArg State.nodes (State.linesSettled_turned running).rest :)
  rw [(State.beforeNewRound_readied running).addrs, settled, (State.beginRoundStart_closed running).addrs]
  exact State.addrs_congr (by simp)

/-- The records of a line change (01:R3, R11). -/
theorem Line.turnRecord_kind {now : Nat} {l : LineId} {x y : Line} : ∀ e ∈ Line.turnRecord now l x y, e.2.kind = .lineState := by
  unfold Line.turnRecord
  split
  · simp
  · intro e he
    rw [List.mem_singleton.mp he]
    rfl

theorem State.turnedRecords_kind (s : State) : ∀ e ∈ s.turnedRecords, e.2.kind = .lineState := by
  have both (t : State) (f : Line → Line) : ∀ e ∈ t.turnRecords f, e.2.kind = .lineState := fun e he =>
    (List.mem_append.mp he).elim (Line.turnRecord_kind e) (Line.turnRecord_kind e)
  intro e he
  obtain tally | trained := List.mem_append.mp he
  · split at tally
    · exact both _ _ e tally
    · cases tally
  · exact both _ _ e trained

theorem State.beforeNewRound_journal (running : s.part = .running) : ∃ es, s.beforeNewRound.journal = s.journal.pushAll es ∧
    ∀ e ∈ es, e.2.kind = .nodeState ∨ e.2.kind = .lineState ∨ e.2.kind = .decisionLate := by
  obtain ⟨before, closed, missed⟩ := State.beginRoundStart_journal running
  have turned := (State.linesSettled_turned running).journal
  obtain ⟨late, readied, aged⟩ := (State.beforeNewRound_readied running).records
  refine ⟨before ++ s.beginRoundStart.turnedRecords ++ late, ?_, fun e he => ?_⟩
  · rw [readied.journal, turned, closed]
    simp only [Journal.pushAll_append, List.append_assoc]
  · simp only [List.mem_append] at he
    obtain (h | h) | h := he
    · exact .inl (missed e h)
    · exact .inr (.inl (State.turnedRecords_kind _ e h))
    · exact .inr (.inr (aged e h))

theorem State.beforeNewRound_port (running : s.part = .running) : Port.noticesOnly s.toMark.port s.beforeNewRound.port := by
  obtain ⟨_, closed, -⟩ := (State.beginRoundStart_closed running).records
  obtain ⟨_, readied, -⟩ := (State.beforeNewRound_readied running).records
  exact Port.noticesOnly_trans (Port.noticesOnly_trans closed.port.only (State.linesSettled_turned running).notices) readied.port.only

theorem State.beforeNewRound_frame (running : s.part = .running) : s.beforeNewRound = { s with
    time := s.toMark.time, lines := s.beforeNewRound.lines, nodes := s.beforeNewRound.nodes, journal := s.beforeNewRound.journal
    port := s.beforeNewRound.port, choices := s.beforeNewRound.choices } := by
  have closed := (State.beginRoundStart_closed running).rest
  have turned := (State.linesSettled_turned running).rest
  have readied := (State.beforeNewRound_readied running).rest
  have frame {a b c d : State} (h : b = { a with time := b.time, port := b.port })
      (g : c = { b with lines := c.lines, nodes := c.nodes, journal := c.journal, port := c.port })
      (k : d = { c with lines := d.lines, journal := d.journal, port := d.port }) : d = { a with
        time := b.time, lines := d.lines, nodes := c.nodes, journal := d.journal, port := d.port } := by
    rw [k, g, h]
  have settled := frame s.toMark_frame closed turned
  have last {a b : State} {time : TimeBase} {nodes : List Node} (h : a = { s with
      time := time, lines := a.lines, nodes := nodes, journal := a.journal, port := a.port })
      (g : b = { a with lines := b.lines, nodes := b.nodes, journal := b.journal, port := b.port, choices := b.choices }) : b = { s with
        time := time, lines := b.lines, nodes := b.nodes, journal := b.journal, port := b.port, choices := b.choices } := by
    rw [g, h]
  exact last settled readied

/-- The node records before the new round (O41). -/
theorem State.beforeNewRound_node (running : s.part = .running) (nodes : s.nodes.Pairwise (fun m n => m.addr < n.addr))
    (windows : ∀ old, s.lines.round = some old → old.windows.Pairwise (fun v w => v.addr < w.addr)) {n : Node} (hn : n ∈ s.nodes) :
    ∃ i k : Node, s.toMark.endRound.node? n.addr = some i ∧ i.Spanned k ∧
      s.beforeNewRound.node? n.addr = some (s.beforeNewRound.stallStep k).waitStep.openPermit := by
  have ended := State.endRound_nodes (s := s.toMark) (by simpa using running) (by simpa using nodes) (by simpa using windows)
    (n := n) (by simpa using hn)
  have same : s.linesSettled.nodes = s.toMark.endRound.nodes := (congrArg State.nodes (State.linesSettled_turned running).rest :)
  obtain ⟨k, spanned, node⟩ := (State.beforeNewRound_readied running).node n.addr _
    (show s.linesSettled.node? n.addr = _ by rw [State.node?, same]; exact ended)
  refine ⟨_, k, ended, spanned, ?_⟩
  have step : s.beforeNewRound.stallStep = s.linesSettled.stallStep := by
    rw [(State.beforeNewRound_readied running).rest]
    rfl
  rw [step]
  exact node

end Before

end Sys2Proof.Machine

/-! O41: what a round start fixes. -/

namespace Sys2Proof.Machine

open Sys2Proof

section Fixed
variable {s : State} {mark : Nat}

theorem State.newRound_service (running : s.part = .running) : s.newRound.service = s.service := by
  have st (l : LineId) : (s.newRound.line l).st = (s.line l).st := by
    rw [State.newRound_line running]
    unfold Line.header
    split <;> rfl
  have a : s.newRound.lines.lineA.st = s.lines.lineA.st := st .a
  have b : s.newRound.lines.lineB.st = s.lines.lineB.st := st .b
  rw [State.service, State.service, a, b]

theorem State.segmentFor_slots (running : s.part = .running) : s.segmentFor.2.length ≤ 8 := by
  unfold State.segmentFor
  split
  · exact (s.compose_grows ⟨True, True, True, True⟩ running).2.1
  · exact Nat.zero_le _

/-- A composition takes entries off the head of the urgent queue. -/
theorem State.segmentFor_urgent (s : State) : ∃ k, s.segmentFor.1.lines.urgent = s.lines.urgent.drop k := by
  unfold State.segmentFor
  split
  · obtain ⟨-, lines, -⟩ := s.composeUrgent_spec
    have kept : s.compose.1.lines.urgent = s.composeUrgent.state.lines.urgent := by
      simp [State.compose, State.parkPointer, Compose.foldl_frame (·.state.lines)]
    exact ⟨_, kept.trans (congrArg LineEngine.urgent lines)⟩
  · exact ⟨0, rfl⟩

theorem agedQueue_young {queue : List Urgent} {d : Decision} (h : Urgent.decision d ∈ agedQueue queue) : d.age < 3 := by
  obtain ⟨-, young⟩ := List.mem_filter.mp h
  simpa [Urgent.agedOut] using young

/-- The choice of the invited node by the table that the new round leaves. -/
theorem State.newRound_invites (running : s.part = .running) (asc : s.addrs.Pairwise (· < ·)) (service : s.service = true)
    {number : Nat} (next : s.nextNumber = number) :
    let t := s.newRound
    let dormant (a : Nat) : Prop := ∃ n ∈ t.nodes, n.addr = a ∧ n.st = .dormant ∧ a % 64 = number
    let absent (a : Nat) : Prop := ∃ n ∈ t.nodes, n.addr = a ∧ n.st = .absent
    let p := s.inviter.pointer
    let invited := (s.invitation number).1
    t.inviter.turn = (if number = 0 then !s.inviter.turn else s.inviter.turn) ∧
    (∀ a, dormant a → (∀ b, dormant b → b = a) → invited = some a ∧ t.inviter.pointer = p) ∧
    (∀ a b, dormant a → dormant b → a < b → (∀ c, dormant c → c = a ∨ c = b) →
      invited = some (if t.inviter.turn then b else a) ∧ t.inviter.pointer = p) ∧
    (∀ a, (∀ b, ¬ dormant b) → absent a →
      (∀ b, absent b → p < a ∧ (p < b → a ≤ b) ∨ a ≤ p ∧ b ≤ p ∧ a ≤ b) → invited = some a ∧ t.inviter.pointer = a) ∧
    ((∀ b, ¬ dormant b) → (∀ b, ¬ absent b) → invited = none ∧ t.inviter.pointer = p) := by
  intro t dormant absent p invited
  subst next
  have composed := State.segmentFor_composed running
  have once : s.addrs.Nodup := asc.imp Nat.ne_of_lt
  have states (a : Nat) (st : NodeState) : (∃ n ∈ t.nodes, n.addr = a ∧ n.st = st) ↔ (s.node? a).map Node.st = some st := by
    rw [State.node_in_state (s := t) (by rw [show t.addrs = s.addrs from composed.addrs]; exact once)]
    rw [show (t.node? a).map Node.st = (s.node? a).map Node.st from composed.states a]
  have inDormant (a : Nat) : dormant a ↔ a ∈ s.dormantFor s.nextNumber := by
    rw [State.mem_dormantFor, State.node_in_state once, ← states]
    constructor
    · rintro ⟨n, hn, addr, st, class_⟩
      exact ⟨⟨n, hn, addr, st⟩, class_⟩
    · rintro ⟨⟨n, hn, addr, st⟩, class_⟩
      exact ⟨n, hn, addr, st, class_⟩
  have isAbsent (a : Nat) : absent a ↔ (s.node? a).map Node.st = some .absent := states a .absent
  have chosen : s.invitation s.nextNumber = s.chooseInvited s.nextNumber := if_pos service
  have inviter : t.inviter = (s.chooseInvited s.nextNumber).2 := congrArg Prod.snd chosen
  have noDormant (h : ∀ b, ¬ dormant b) : s.dormantFor s.nextNumber = [] :=
    List.eq_nil_iff_forall_not_mem.mpr fun b hb => h b ((inDormant b).mpr hb)
  have turn : t.inviter.turn = s.inviter.turned s.nextNumber := by rw [inviter, State.chooseInvited_turn]
  have named : invited = (s.chooseInvited s.nextNumber).1 := congrArg Prod.fst chosen
  rw [named, turn, inviter]
  refine ⟨rfl, fun a ha one => ?_, fun a b ha hb lt two => ?_, fun a none ha first => ?_, fun none noAbsent => ?_⟩
  · exact State.chooseInvited_one ((inDormant a).mp ha) (fun b hb => one b ((inDormant b).mpr hb)) asc
  · exact State.chooseInvited_two ((inDormant a).mp ha) ((inDormant b).mp hb) lt (fun c hc => two c ((inDormant c).mpr hc)) asc
  · exact State.chooseInvited_absent (noDormant none) ((isAbsent a).mp ha) (fun b hb => first b ((isAbsent b).mpr hb)) asc
  · exact State.chooseInvited_none (noDormant none) fun b hb => noAbsent b ((isAbsent b).mpr hb)

/-- The state before the new round, as O41 speaks of it. -/
structure RoundReady (mark : Nat) (s v : State) : Prop where
  part : v.part = .running
  time : v.time = { s.time with tick := mark, owed := s.time.owed + boundariesTo s.time.tick mark }
  lines : v.lines = { s.lines with
    lineA := v.lines.lineA, lineB := v.lines.lineB, round := v.lines.round, tallyDone := v.lines.tallyDone
    urgent := agedQueue s.lines.urgent }
  number : v.nextNumber = s.nextNumber
  addrs : v.addrs = s.addrs
  journal : ∃ es, v.journal = s.journal.pushAll es ∧
    ∀ e ∈ es, e.2.kind = .nodeState ∨ e.2.kind = .lineState ∨ e.2.kind = .decisionLate
  port : Port.noticesOnly (s.quietFor (sub48 mark s.time.tick)).port v.port
  rest : v = { s with
    time := v.time, lines := v.lines, nodes := v.nodes, journal := v.journal, port := v.port, choices := v.choices }
  node : ∀ n ∈ s.nodes, ∃ i k : Node, s.toMark.endRound.node? n.addr = some i ∧ i.Spanned k ∧
    v.node? n.addr = some (v.stallStep k).waitStep.openPermit

theorem State.beforeNewRound_ready (running : s.part = .running) (marked : s.time.mark = some mark) (near : sub48 mark s.time.tick ≤ 16384)
    (nodes : s.nodes.Pairwise (fun m n => m.addr < n.addr))
    (windows : ∀ old, s.lines.round = some old → old.windows.Pairwise (fun v w => v.addr < w.addr)) :
    RoundReady mark s s.beforeNewRound where
  part := s.beforeNewRound_part.trans running
  time := s.beforeNewRound_time.trans (State.toMark_reached marked near).1
  lines := by
    have lines := State.beforeNewRound_lines running
    rw [lines]
  number := by
    have round : s.beforeNewRound.lines.round = s.beginRoundStart.lines.round :=
      (congrArg LineEngine.round (State.beforeNewRound_lines running) :)
    rw [← State.beginRoundStart_nextNumber running, State.nextNumber, State.nextNumber, round]
  addrs := State.beforeNewRound_addrs running
  journal := State.beforeNewRound_journal running
  port := by
    rw [← (State.toMark_reached marked near).2]
    exact State.beforeNewRound_port running
  rest := by
    have frame := State.beforeNewRound_frame running
    rwa [← s.beforeNewRound_time] at frame
  node n hn := State.beforeNewRound_node running nodes windows hn

/-- A node before the new round, from the record that the end of the old round leaves of it. -/
theorem RoundReady.node_eq {v : State} (ready : RoundReady mark s v) (running : s.part = .running)
    (nodes : s.nodes.Pairwise (fun m n => m.addr < n.addr))
    (windows : ∀ old, s.lines.round = some old → old.windows.Pairwise (fun v w => v.addr < w.addr)) {n : Node} (hn : n ∈ s.nodes) :
    ∃ k : Node, v.node? n.addr = some k ∧
      let missed := s.journal.pushAll ((s.nodes.filter (fun k => decide (k.addr ≤ n.addr)
        && s.lines.round.any (fun old => old.windows.any (fun w => w.addr == k.addr && !w.dead)) && (k.afterMiss 0).st != k.st)).map
          (fun k => (s.now, nodeStateEntry k (.nodeState (k.afterMiss 0).st))))
      let m := if s.lines.round.any (fun old => old.windows.any (fun w => w.addr == n.addr && !w.dead)) then n.afterMiss missed.freeSpace else n
      let i := if s.lines.round.any (fun old => old.asks n.addr) then m.afterUnanswered else m
      k = { i with
        clock := { i.clock with span := k.clock.span, failed := k.clock.failed, suspect := k.clock.suspect }
        cursor := k.cursor
        reload := i.reload.waited
        permit := i.permit.opens } ∧
      (i.reload.underWay = true → k.cursor = i.cursor) ∧
      (i.reload.underWay = false → (∀ c ∈ s.revoc.changes, s.Unacked i c → genBelow i.cursor.sent c.gen = true) →
        k.cursor = { i.cursor with stall := 0 }) ∧
      (i.reload.underWay = false → (∃ c ∈ s.revoc.changes, s.Unacked i c ∧ genBelow i.cursor.sent c.gen = false) →
        k.cursor = if 8 ≤ i.cursor.stall + 1 then { i.cursor with sent := i.cursor.acked, stall := 0 }
          else { i.cursor with stall := i.cursor.stall + 1 }) := by
  obtain ⟨i, k, ended, spanned, found⟩ := ready.node n hn
  have after := State.endRound_nodes (s := s.toMark) (by simpa using running) (by simpa using nodes) (by simpa using windows)
    (n := n) (by simpa using hn)
  have now : s.toMark.now = s.now := s.toMark_secs
  rw [State.toMark_nodes, State.toMark_lines, State.toMark_journal, now] at after
  obtain ⟨busy, still, counts⟩ := s.stallStep_cursor i
  have known := Option.some.inj (ended.symm.trans after)
  subst known
  obtain ⟨eq, cursor⟩ := spanned.readied v
  have same : v.stallStep = s.stallStep := by
    rw [ready.rest]
    rfl
  refine ⟨_, found, eq, ?_, ?_, ?_⟩
  · rw [cursor, same]
    exact busy
  · rw [cursor, same]
    exact still
  · rw [cursor, same]
    exact counts

end Fixed

/-- Settles O41: the new round is fixed on the state that the ending round, the lines, the nodes and the queue leave. -/
theorem roundStartFixesTheRound : Obligations.RoundStartFixesTheRound := by
  unfold Obligations.RoundStartFixesTheRound
  intro mark s running marked near repeats nodes windows
  have ready := State.beforeNewRound_ready running marked near nodes windows
  have runs : exec .roundStart s = .next s.beforeNewRound.newRound := exec_roundStart running
  generalize s.beforeNewRound = v at ready runs
  have composed := State.segmentFor_composed ready.part
  have asc : v.addrs.Pairwise (· < ·) := by rw [ready.addrs]; exact List.pairwise_map.mpr nodes
  have once : v.addrs.Nodup := asc.imp Nat.ne_of_lt
  have service : v.newRound.service = v.service := State.newRound_service ready.part
  have time := ready.time
  have rest := ready.rest
  have number := ready.number
  have aged : agedQueue s.lines.urgent = (s.lines.urgent.map (fun x => match x with
      | .decision d => .decision { d with age := d.age + 1 }
      | .remoteOpen b => .remoteOpen b)).filter (fun x => match x with
      | .decision d => decide (d.age < 3)
      | .remoteOpen _ => true) := by
    have older : Urgent.older = fun x => match x with
        | .decision d => .decision { d with age := d.age + 1 }
        | .remoteOpen b => .remoteOpen b := by
      funext x
      cases x <;> rfl
    rw [agedQueue, older]
    refine List.filter_congr fun x _ => ?_
    cases x with
    | decision d => exact (decide_not (p := 3 ≤ d.age)).symm.trans (decide_eq_decide.mpr Nat.not_le)
    | remoteOpen b => rfl
  have urgent : v.lines.urgent = agedQueue s.lines.urgent := (congrArg LineEngine.urgent ready.lines :)
  have idle (off : v.service = false) : v.segmentFor = ({ v with lines := { v.lines with repeats := [] } }, []) := by
    rw [State.segmentFor, off]
    rfl
  have served (on : v.service = true) : v.segmentFor = v.compose := by
    rw [State.segmentFor, on]
    rfl
  have settings : v.settings = s.settings := (congrArg State.settings rest :)
  have revoc : v.revoc = s.revoc := (congrArg State.revoc rest :)
  have inviter : v.inviter = s.inviter := (congrArg State.inviter rest :)
  have onward : v.newRound.time = { v.time with mark := some ((v.time.tick + v.settings.roundLength) % 281474976710656) } := by
    show ({ v.segmentFor.1.time with mark := _ } : TimeBase) = _
    rw [(congrArg State.time composed.rest :)]
  refine ⟨v.newRound, _, runs, rfl, number, (congrArg TimeBase.secs time :), (congrArg TimeBase.tick time :), congrArg Revoc.gen revoc,
    (congrArg (fun x : TimeBase => !x.isSet) time :), congrArg Settings.roundLength settings, ?_,
    composed.states.windowsFor composed.addrs once, State.segmentFor_slots ready.part, ?_, ?_, ⟨?_, ?_⟩, ?_, ?_, ?_, ?_, ?_, ?_, ?_, ?_, ?_⟩
  · rw [onward, time, settings]
    rfl
  · intro off
    rw [service] at off
    refine ⟨congrArg Prod.snd (idle off), ?_⟩
    exact congrArg (fun x : State × List Directive => x.1.lines.repeats) (idle off)
  · intro d hd
    obtain ⟨k, drop⟩ := v.segmentFor_urgent
    refine agedQueue_young (queue := s.lines.urgent) (List.mem_of_mem_drop (i := k) ?_)
    rw [← urgent, ← drop]
    exact hd
  · intro off
    rw [service] at off
    have none : v.invitation v.nextNumber = (.none, v.inviter) := if_neg (by simp [off])
    exact ⟨congrArg Prod.fst none, (congrArg Prod.snd none).trans inviter⟩
  · intro on
    rw [service] at on
    have invites := State.newRound_invites ready.part asc on rfl
    rw [inviter] at invites
    exact invites
  · refine ⟨v, urgent.trans aged, (congrArg LineEngine.repeats ready.lines :), (congrArg LineEngine.pointer ready.lines :), fun l => ?_, ready.addrs,
      ready.journal, ready.port, ?_, fun n hn => ready.node_eq running nodes windows hn, fun off => ?_, fun on => ?_⟩
    · rw [State.newRound_line ready.part]
      unfold Line.header
      split <;> rfl
    · rw [onward, time]
      rw [time] at rest
      exact rest
    · rw [service] at off
      have stays := congrArg Prod.fst (idle off)
      exact ⟨(congrArg (fun x : State => x.lines.urgent) stays :).trans (urgent.trans aged),
        (congrArg (fun x : State => x.lines.pointer) stays :).trans (congrArg LineEngine.pointer ready.lines :),
        (congrArg State.nodes stays :), (congrArg State.journal stays :), (congrArg State.port stays :)⟩
    · rw [service] at on
      have same := served on
      have one := congrArg Prod.fst same
      exact ⟨congrArg Prod.snd same, (congrArg (fun x : State => x.lines.urgent) one :), (congrArg (fun x : State => x.lines.repeats) one :),
        (congrArg (fun x : State => x.lines.pointer) one :), (congrArg State.nodes one :), (congrArg State.journal one :),
        (congrArg State.port one :)⟩
  · obtain ⟨_, records⟩ := composed.records
    exact Port.noticesOnly_trans ready.port records.port.only
  · exact (congrArg State.part composed.rest :).trans ready.part
  · exact (congrArg State.loader composed.rest :).trans (congrArg State.loader rest :)
  · exact (congrArg State.store composed.rest :).trans (congrArg State.store rest :)
  · exact (congrArg State.minibar composed.rest :).trans (congrArg State.minibar rest :)
  · exact (congrArg State.revoc composed.rest :).trans revoc
  · exact (congrArg State.supply composed.rest :).trans (congrArg State.supply rest :)
  · exact (congrArg State.pending composed.rest :).trans (congrArg State.pending rest :)

end Sys2Proof.Machine

/-! What the acts of a start take away and leave aside: lemmas for O26 and O28 (11:R195, 02:R42). -/

namespace Sys2Proof.Machine

open Sys2Proof

/-! ### Encodings returned and lines committed, in any state -/

section Falls
variable {s t u : State} {es : List EnrolReq} {lost : List Nat}

/-- Credentials and charge lines only go, and no frame goes. -/
structure Falls (s u : State) : Prop where
  recs : ∀ c ∈ u.store.recs, c ∈ s.store.recs
  pool : ∀ x ∈ u.minibar.pool, x ∈ s.minibar.pool
  frames : ∀ f ∈ s.port.frames, f ∈ u.port.frames
  time : u.time = s.time
  supply : u.supply = s.supply

theorem Falls.refl (s : State) : Falls s s := ⟨fun _ => id, fun _ => id, fun _ => id, rfl, rfl⟩

theorem Falls.trans (h : Falls s t) (g : Falls t u) : Falls s u :=
  ⟨fun c hc => h.recs c (g.recs c hc), fun x hx => h.pool x (g.pool x hx), fun f hf => g.frames f (h.frames f hf), g.time.trans h.time,
    g.supply.trans h.supply⟩

theorem Port.Quiet.keeps {p q : Port} (h : Port.Quiet p q) : ∀ f ∈ p.frames, f ∈ q.frames := by
  obtain ⟨fs, perm, -⟩ := h.frames
  exact fun f hf => perm.symm.subset (List.mem_append_left _ hf)

theorem State.stored_frame (first : t = { s with store := t.store, journal := t.journal, port := t.port })
    (second : u = { t with store := u.store, journal := u.journal, port := u.port }) :
    u = { s with store := u.store, journal := u.journal, port := u.port } := by
  rw [second, first]

theorem State.returnAll_gone (cause : LapseCause) : ∀ (ks : List Nat) (s : State),
    ∀ c ∈ (ks.foldl (fun t k => t.returnEncoding k cause) s).store.recs, c ∈ s.store.recs ∧ c.number ∉ ks := by
  intro ks
  induction ks with
  | nil => exact fun s c hc => ⟨hc, by simp⟩
  | cons k ks ih =>
    intro s c hc
    obtain ⟨mem, away⟩ := ih _ c hc
    change c ∈ (s.returnEncoding k cause).store.recs at mem
    have one : c ∈ s.store.recs ∧ c.number ≠ k := by
      cases found : s.cred? k with
      | none =>
        have stays : s.returnEncoding k cause = s := by simp only [State.returnEncoding, found]
        rw [stays] at mem
        exact ⟨mem, (findKey_none Cred.number).mp found c mem⟩
      | some d =>
        rw [s.returnEncoding_store cause found] at mem
        exact (mem_dropKey Cred.number).mp mem
    exact ⟨one.1, by simp [one.2, away]⟩

/-- The encodings that a test takes are gone. -/
theorem State.returnWhere_falls (P : Cred → Bool) (cause : LapseCause) (s : State) :
    let u := ((s.store.recs.filter P).map Cred.number).foldl (fun t k => t.returnEncoding k cause) s
    Falls s u ∧ (∀ c ∈ u.store.recs, P c = false) ∧ u = { s with store := u.store, journal := u.journal, port := u.port } := by
  intro u
  obtain ⟨⟨rs, records, -⟩, -⟩ := State.returnAll cause ((s.store.recs.filter P).map Cred.number) s
  have gone := State.returnAll_gone cause ((s.store.recs.filter P).map Cred.number) s
  have rest : ∀ (ks : List Nat) (s : State), ks.foldl (fun t k => t.returnEncoding k cause) s = { s with
      store := (ks.foldl (fun t k => t.returnEncoding k cause) s).store, journal := (ks.foldl (fun t k => t.returnEncoding k cause) s).journal
      port := (ks.foldl (fun t k => t.returnEncoding k cause) s).port } := by
    intro ks
    induction ks with
    | nil => exact fun _ => rfl
    | cons k ks ih =>
      intro s
      have one : s.returnEncoding k cause = { s with store := (s.returnEncoding k cause).store, journal := (s.returnEncoding k cause).journal, port := (s.returnEncoding k cause).port } := by
        unfold State.returnEncoding
        split
        · rfl
        · exact (State.append_frame _ _).trans (by simp)
      exact State.stored_frame one (ih _)
  have frame : u = _ := rest ((s.store.recs.filter P).map Cred.number) s
  refine ⟨⟨fun c hc => (gone c hc).1, fun x hx => ?_, records.port.keeps, records.time, (congrArg State.supply frame :)⟩, fun c hc => ?_, frame⟩
  · rw [frame] at hx
    exact hx
  · by_contra some
    rw [Bool.not_eq_false] at some
    exact (gone c hc).2 (List.mem_map_of_mem (List.mem_filter.mpr ⟨(gone c hc).1, some⟩))

/-- The lines that a test takes are gone, and of the rest only their folios change. -/
theorem State.commitWhere_falls (P : ChargeLine → Bool) (s : State) :
    Falls s (s.commitWhere P) ∧ (∀ x ∈ (s.commitWhere P).minibar.pool, P x = false) ∧
    s.commitWhere P = { s with minibar := (s.commitWhere P).minibar, journal := (s.commitWhere P).journal, port := (s.commitWhere P).port } := by
  obtain ⟨⟨rs, records, -⟩, -⟩ := State.commitWhere_spec P s
  obtain ⟨pool, -⟩ := State.commitLines (s.minibar.pool.filter P) s
  have left : ∀ x ∈ (s.commitWhere P).minibar.pool, x ∈ s.minibar.pool ∧ P x = false := by
    intro x hx
    obtain ⟨mem, away⟩ := List.mem_filter.mp (pool ▸ hx : x ∈ s.minibar.pool.filter _)
    refine ⟨mem, ?_⟩
    by_contra due
    rw [Bool.not_eq_false] at due
    rw [Bool.not_eq_true', List.any_eq_false] at away
    exact away x (List.mem_filter.mpr ⟨mem, due⟩) (by simp [ChargeLine.names])
  refine ⟨⟨fun c hc => by simpa using hc, fun x hx => (left x hx).1, records.port.keeps, records.time, by simp⟩, fun x hx => (left x hx).2, ?_⟩
  exact State.eq_of_fields (minibar := rfl) (journal := rfl) (port := rfl) (lines := by simp) (nodes := by simp) (choices := by simp)
    (pending := by simp) (part := by simp) (supply := by simp) (loader := by simp) (time := by simp) (inviter := by simp)
    (store := by simp) (revoc := by simp)

/-! ### The acts beside the tables -/

/-- An act of a start that leaves the tables aside: nodes, rooms and settings stand, and a folio changes only by lines that name it. -/
structure Aside (s u : State) : Prop where
  falls : Falls s u
  nodes : u.nodes = s.nodes
  revoc : u.revoc = s.revoc
  supply : u.supply = s.supply
  loader : u.loader = s.loader
  service : u.service = s.service
  folio : ∀ p, (∀ x ∈ s.minibar.pool, x.folio ≠ p) → u.folio? p = s.folio? p
  noFolio : ∀ p, s.folio? p = none → u.folio? p = none

theorem Aside.refl (s : State) : Aside s s := ⟨.refl s, rfl, rfl, rfl, rfl, rfl, fun _ _ => rfl, fun _ => id⟩

theorem Aside.trans (h : Aside s t) (g : Aside t u) : Aside s u where
  falls := h.falls.trans g.falls
  nodes := g.nodes.trans h.nodes
  revoc := g.revoc.trans h.revoc
  supply := g.supply.trans h.supply
  loader := g.loader.trans h.loader
  service := g.service.trans h.service
  folio p away := (g.folio p fun x hx => away x (h.falls.pool x hx)).trans (h.folio p away)
  noFolio p none := g.noFolio p (h.noFolio p none)

/-- An act on the port, the journal, the store, the part state or the lines, the lines out of service. -/
theorem Aside.of_fields (falls : Falls s u) (nodes : u.nodes = s.nodes) (revoc : u.revoc = s.revoc) (supply : u.supply = s.supply)
    (loader : u.loader = s.loader) (service : u.service = s.service) (minibar : u.minibar = s.minibar) : Aside s u :=
  have folio (p : Nat) : u.folio? p = s.folio? p := by rw [State.folio?, minibar]; rfl
  ⟨falls, nodes, revoc, supply, loader, service, fun p _ => folio p, fun p none => (folio p).trans none⟩

theorem Aside.returnWhere (P : Cred → Bool) (cause : LapseCause) (s : State) :
    Aside s (((s.store.recs.filter P).map Cred.number).foldl (fun t k => t.returnEncoding k cause) s) := by
  obtain ⟨falls, -, frame⟩ := State.returnWhere_falls P cause s
  exact .of_fields falls (congrArg State.nodes frame :) (congrArg State.revoc frame :) (congrArg State.supply frame :)
    (congrArg State.loader frame :) (State.service_congr (congrArg State.lines frame :)) (congrArg State.minibar frame :)

theorem Aside.commitWhere (P : ChargeLine → Bool) (s : State) : Aside s (s.commitWhere P) := by
  obtain ⟨falls, -, frame⟩ := State.commitWhere_falls P s
  obtain ⟨-, -, folio⟩ := State.commitWhere_spec P s
  refine ⟨falls, (congrArg State.nodes frame :), (congrArg State.revoc frame :), (congrArg State.supply frame :), (congrArg State.loader frame :),
    State.service_congr (congrArg State.lines frame :), fun p away => ?_, fun p none => ?_⟩
  · have unnamed : (s.minibar.pool.filter P).filter (fun x => x.folio == p) = [] :=
      List.filter_eq_nil_iff.mpr fun x hx => by simpa using away x (List.mem_filter.mp hx).1
    rw [folio, unnamed, ← Folio.committed_none]
  · rw [folio, none]
    rfl

theorem State.enterTraining_falls (s : State) (l : LineId) : Falls s (s.enterTraining l) := by
  refine ⟨fun c hc => by simpa using hc, fun x hx => by simpa using hx, fun f hf => ?_, by simp, by simp⟩
  have kept : f ∈ (s.modLine l (fun x => { x with retrain := 4, running := 0 })).port.frames := by simpa using hf
  by_cases stays : ((s.modLine l (fun x => { x with retrain := 4, running := 0 })).line l).st = .training
  · rw [State.enterTraining, State.setLineState, if_pos stays]
    exact kept
  · rw [State.enterTraining, State.setLineState_eq stays]
    have turned : f ∈ ((s.modLine l (fun x => { x with retrain := 4, running := 0 })).turnLine l .training).port.frames :=
      State.raise_frames _ _ (State.append_frames _ _ (by simpa using kept))
    split
    · obtain ⟨rs, lost, -⟩ := State.serviceLost_records
        ((s.modLine l (fun x => { x with retrain := 4, running := 0 })).turnLine l .training)
      exact lost.port.keeps f turned
    · exact turned

theorem Aside.enterTraining (out : s.service = false) (l : LineId) : Aside s (s.enterTraining l) := by
  have retrained : (s.modLine l (fun x => { x with retrain := 4, running := 0 })).service = false := by
    cases l <;> exact out
  have acts (t : State) (still : t.service = false) : t.setLineState l .training = if (t.line l).st = .training then t
      else ((t.modLine l (fun x => { x with st := .training })).append (lineStateEntry l .training)).raise .lineChange := by
    unfold State.setLineState
    split
    · rfl
    · rw [still]
      rfl
  refine .of_fields (State.enterTraining_falls s l) ?_ (by simp) (by simp) (by simp) ?_ (by simp)
  · rw [State.enterTraining, acts _ retrained]
    split <;> simp
  · rw [out, State.enterTraining, acts _ retrained]
    split
    · exact retrained
    · have after : ((s.modLine l (fun x => { x with retrain := 4, running := 0 })).modLine l (fun x => { x with st := .training })).service = false := by
        simp only [State.service, Bool.or_eq_false_iff] at out
        cases l
        · exact (Bool.false_or _).trans out.2
        · exact (Bool.or_false _).trans out.1
      exact (State.service_congr (by simp)).trans after

theorem Aside.startAct (out : s.service = false) {a : StartActor} (other : a ≠ .tables) : Aside s (s.startAct es lost a) := by
  cases a with
  | tables => exact absurd rfl other
  | orphans => exact .returnWhere _ _ s
  | lapses => exact .returnWhere _ _ s
  | charges => exact .commitWhere _ s
  | lineA => exact .enterTraining out .a
  | lineB => exact .enterTraining out .b
  | entry => exact .of_fields ⟨fun _ => id, fun _ => id, fun _ => id, rfl, rfl⟩ rfl rfl rfl rfl rfl rfl
  | notice =>
    exact .of_fields ⟨fun _ => id, fun _ => id, fun f hf => (Port.ready_frames _ _).symm.subset (List.mem_append_left _ hf), rfl, rfl⟩ rfl rfl rfl rfl rfl rfl

theorem Aside.startActs (as : List StartActor) : ∀ s : State, s.service = false → .tables ∉ as →
    Aside s (as.foldl (State.startAct es lost) s) := by
  induction as with
  | nil => exact fun s _ _ => .refl s
  | cons a as ih =>
    intro s out away
    have one : Aside s (s.startAct es lost a) := .startAct out fun h => away (by simp [h])
    exact one.trans (ih _ (one.service.trans out) fun h => away (by simp [h]))

/-! ### The tables reconciled -/

theorem findKey_dropKey_none {α : Type} (key : α → Nat) {j : Nat} (k : Nat) {l : List α} (none : findKey key j l = none) :
    findKey key j (dropKey key k l) = Option.none :=
  (findKey_none key).mpr fun x hx => (findKey_none key).mp none x ((mem_dropKey key).mp hx).1

/-- What a node's withdrawal takes of the minibar unit and of the rooms. -/
structure Unroomed (n : Node) (s u : State) : Prop where
  pool : ∀ x ∈ u.minibar.pool, x ∈ s.minibar.pool
  noFolio : ∀ p, s.folio? p = none → u.folio? p = none
  noRoom : ∀ p, s.room? p = none → u.room? p = none
  gone : n.enrol.cls = .roomEntry → u.folio? n.enrol.point = none ∧ u.room? n.enrol.point = none ∧
    ∀ x ∈ u.minibar.pool, x.folio ≠ n.enrol.point

theorem State.displace_unrooms (s : State) (n : Node) : Unroomed n s (s.displace n) := by
  obtain ⟨t, ht⟩ : ∃ t, t = s.leaveLine n.addr := ⟨_, rfl⟩
  have minibar : t.minibar = s.minibar := by rw [ht]; simp
  have revoc : t.revoc = s.revoc := by rw [ht]; simp
  have folio (p : Nat) : t.folio? p = s.folio? p := by rw [State.folio?, minibar]; rfl
  have room (p : Nat) : t.room? p = s.room? p := State.room?_rooms (by rw [revoc]) p
  have other (cls : n.enrol.cls ≠ .roomEntry) (same : s.displace n = t.forgetNode n.addr) : Unroomed n s (s.displace n) := by
    rw [same]
    exact ⟨fun x hx => minibar ▸ hx, fun p none => (folio p).trans none, fun p none => (room p).trans none, fun h => absurd h cls⟩
  cases cls : n.enrol.cls with
  | minibar =>
    have acts : s.displace n = (t.minibarLeaves n.addr).forgetNode n.addr := by simp only [State.displace, State.releaseNode, cls, ht]
    have aside := Aside.commitWhere (fun l => l.node == n.addr) t
    rw [acts]
    exact ⟨fun x hx => minibar ▸ aside.falls.pool x hx, fun p none => aside.noFolio p ((folio p).trans none),
      fun p none => (State.room?_rooms (congrArg Revoc.rooms aside.revoc) p).trans ((room p).trans none), fun h => by simp [cls] at h⟩
  | roomEntry =>
    let u := t.commitWhere (fun l => l.folio == n.enrol.point)
    have acts : s.displace n = { t.discardFolio n.enrol.point with
        revoc := { (t.discardFolio n.enrol.point).revoc with rooms := dropKey Room.point n.enrol.point (t.discardFolio n.enrol.point).revoc.rooms } }.forgetNode n.addr := by
      simp only [State.displace, State.releaseNode, cls, ht]
    obtain ⟨falls, away, -⟩ := State.commitWhere_falls (fun l => l.folio == n.enrol.point) t
    have aside := Aside.commitWhere (fun l => l.folio == n.enrol.point) t
    have rooms : (t.discardFolio n.enrol.point).revoc.rooms = s.revoc.rooms := by
      simp [State.discardFolio, State.endSessionsOf, revoc]
    rw [acts]
    refine ⟨fun x hx => minibar ▸ falls.pool x hx, fun p none => ?_, fun p none => ?_, fun _ => ⟨?_, ?_, fun x hx => by simpa using away x hx⟩⟩
    · exact findKey_dropKey_none Folio.point _ (aside.noFolio p ((folio p).trans none))
    · exact findKey_dropKey_none Room.point _ (by rw [rooms]; exact none)
    · exact findKey_dropKey Folio.point _ _
    · exact findKey_dropKey Room.point _ _
  | _ => exact other (by simp [cls]) (by simp only [State.displace, State.releaseNode, cls, ht])

theorem State.displaces_unroom (ds : List Node) : ∀ s : State, ∀ u, u = ds.foldl State.displace s →
    (∀ x ∈ u.minibar.pool, x ∈ s.minibar.pool) ∧ (∀ p, s.folio? p = none → u.folio? p = none) ∧
    (∀ p, s.room? p = none → u.room? p = none) ∧
    ∀ d ∈ ds, d.enrol.cls = .roomEntry → u.folio? d.enrol.point = none ∧ u.room? d.enrol.point = none ∧
      ∀ x ∈ u.minibar.pool, x.folio ≠ d.enrol.point := by
  induction ds with
  | nil => exact fun s u hu => by rw [hu]; exact ⟨fun _ => id, fun _ => id, fun _ => id, by simp⟩
  | cons d ds ih =>
    intro s u hu
    have one := s.displace_unrooms d
    obtain ⟨pool, noFolio, noRoom, gone⟩ := ih (s.displace d) u hu
    refine ⟨fun x hx => one.pool x (pool x hx), fun p none => noFolio p (one.noFolio p none), fun p none => noRoom p (one.noRoom p none), ?_⟩
    intro e he cls
    obtain rfl | he := List.mem_cons.mp he
    · obtain ⟨folio, room, away⟩ := one.gone cls
      exact ⟨noFolio _ folio, noRoom _ room, fun x hx => away x (pool x hx)⟩
    · exact gone e he cls

theorem State.displace_falls (s : State) (n : Node) : Falls s (s.displace n) := by
  obtain ⟨⟨rs, records, -⟩, -, -, -, -, -, -, rest⟩ := s.displace_spec n
  exact ⟨fun c hc => (congrArg (fun x : State => x.store.recs) rest :) ▸ hc, (s.displace_unrooms n).pool, records.port.keeps, records.time,
    (congrArg State.supply rest :)⟩

theorem State.reconcile_falls (es : List EnrolReq) (s : State) : Falls s (s.reconcile es) := by
  have displaced : ∀ (ds : List Node) (s : State), Falls s (ds.foldl State.displace s) := by
    intro ds
    induction ds with
    | nil => exact .refl
    | cons d ds ih => exact fun s => (s.displace_falls d).trans (ih _)
  have taken := (State.takeUps es ((s.displaced es).foldl State.displace s)).rest
  refine (displaced _ s).trans ⟨fun c hc => ?_, fun x hx => ?_, fun f hf => ?_, (congrArg State.time taken :), (congrArg State.supply taken :)⟩
  · exact (congrArg (fun x : State => x.store.recs) taken :) ▸ hc
  · exact (congrArg (fun x : State => x.minibar.pool) taken :) ▸ hx
  · exact (congrArg (fun x : State => x.port.frames) taken :) ▸ hf

theorem State.reconcile_service (es : List EnrolReq) (s : State) : (s.reconcile es).service = s.service := by
  have taken := (congrArg State.lines (State.takeUps es ((s.displaced es).foldl State.displace s)).rest :)
  have displaced := (State.displaces (s.displaced es) s).lines
  have a : (s.reconcile es).lines.lineA = s.lines.lineA := (congrArg LineEngine.lineA taken :).trans (congrArg LineEngine.lineA displaced :)
  have b : (s.reconcile es).lines.lineB = s.lines.lineB := (congrArg LineEngine.lineB taken :).trans (congrArg LineEngine.lineB displaced :)
  rw [State.service, State.service, a, b]

/-- Every act of a start. -/
theorem State.startAct_falls (s : State) (a : StartActor) : Falls s (s.startAct es lost a) := by
  cases a with
  | tables => exact s.reconcile_falls es
  | orphans => exact (State.returnWhere_falls _ _ s).1
  | lapses => exact (State.returnWhere_falls _ _ s).1
  | charges => exact (State.commitWhere_falls _ s).1
  | lineA => exact s.enterTraining_falls .a
  | lineB => exact s.enterTraining_falls .b
  | entry => exact ⟨fun _ => id, fun _ => id, fun _ => id, rfl, rfl⟩
  | notice => exact ⟨fun _ => id, fun _ => id, fun f hf => (Port.ready_frames _ _).symm.subset (List.mem_append_left _ hf), rfl, rfl⟩

theorem State.startActs_fall (as : List StartActor) : ∀ s : State, Falls s (as.foldl (State.startAct es lost) s) := by
  induction as with
  | nil => exact .refl
  | cons a as ih => exact fun s => (s.startAct_falls a).trans (ih _)

/-- What the act `a` leaves of every state, the acts after it leave too, where it speaks of what only falls. -/
theorem State.startActs_after {a : StartActor} {as : List StartActor} (mem : a ∈ as) (s : State) :
    ∃ x : State, Falls s x ∧ Falls (x.startAct es lost a) (as.foldl (State.startAct es lost) s) := by
  obtain ⟨before, after, rfl⟩ := List.append_of_mem mem
  rw [List.foldl_append, List.foldl_cons]
  exact ⟨_, State.startActs_fall before s, State.startActs_fall after _⟩

end Falls

end Sys2Proof.Machine

/-! The node table, the rooms and the folios that a start's reconciliation leaves (02:R42, 05:R111, 08:R166). -/

namespace Sys2Proof.Machine

open Sys2Proof

section Reconciled
variable {s u : State} {es : List EnrolReq} {r : EnrolReq}

theorem Node.enrolledAlike_iff (n : Node) (r : EnrolReq) : n.enrolledAlike r ↔ (r.addr == n.addr && r.enrol.copy == n.copy) = true := by
  rw [Bool.and_eq_true, beq_iff_eq, beq_iff_eq]
  exact ⟨fun ⟨a, c⟩ => ⟨a.symm, c.symm⟩, fun ⟨a, c⟩ => ⟨a.symm, c.symm⟩⟩

theorem State.mem_displaced {n : Node} : n ∈ s.displaced es ↔ n ∈ s.nodes ∧ ∀ r ∈ es, ¬ n.enrolledAlike r := by
  simp only [State.displaced, List.mem_filter, Bool.not_eq_true', List.any_eq_false, Node.enrolledAlike_iff]

/-- An address that no retained node names alike is free once the displaced nodes are gone. -/
theorem State.displaced_free (d : Described es) (hr : r ∈ es) (new : ∀ n ∈ s.nodes, ¬ n.enrolledAlike r) :
    ((s.displaced es).foldl State.displace s).node? r.addr = none := by
  refine (findKey_none Node.addr).mpr fun m hm same => ?_
  have described := State.displaceAll_described es s m hm
  obtain ⟨q, hq, addr, copy⟩ := described
  obtain rfl : q = r := eq_of_pairwise_ne EnrolReq.addr (d.ascending.imp Nat.ne_of_lt) hq hr (addr.trans same)
  rw [(State.displaces (s.displaced es) s).nodes] at hm
  obtain ⟨n, hn, rfl⟩ := List.mem_map.mp hm
  exact new n (List.mem_filter.mp hn).1 ⟨addr.symm, copy.symm⟩

theorem State.createNode_node? (s : State) (r : EnrolReq) (at_ : Nat) : (s.createNode r at_).node? r.addr = some (Node.fresh r s.revoc.gen) := by
  rw [State.node?, State.createNode_nodes]
  exact findKey_putKey Node.addr (Node.fresh r s.revoc.gen) s.nodes

theorem State.createNode_new_room (s : State) (at_ : Nat) (entry : r.enrol.cls = .roomEntry) :
    (s.createNode r at_).room? r.enrol.point = some (Room.initial r.enrol.point at_) ∧
    (s.createNode r at_).folio? r.enrol.point = some (Folio.initial r.enrol.point s.settings.defaultCeiling) := by
  unfold State.createNode
  dsimp only
  rw [if_pos entry]
  exact ⟨findKey_putKey Room.point (Room.initial r.enrol.point at_) _,
    findKey_putKey Folio.point (Folio.initial r.enrol.point s.settings.defaultCeiling) _⟩

/-- An enrolment of a free address, taken up among others. -/
theorem State.takeUps_created (d : Described es) (hr : r ∈ es) (free : s.node? r.addr = none) :
    let u := es.foldl State.takeUp s
    u.node? r.addr = some (Node.fresh r s.revoc.gen) ∧
    (r.enrol.cls = .roomEntry →
      u.room? r.enrol.point = some (Room.initial r.enrol.point (if s.supply.startKind = .cold then 0 else s.now)) ∧
      u.folio? r.enrol.point = some (Folio.initial r.enrol.point s.settings.defaultCeiling)) := by
  intro u
  obtain ⟨before, after, rfl⟩ := List.append_of_mem hr
  have once := d.ascending.imp Nat.ne_of_lt
  rw [List.pairwise_append, List.pairwise_cons] at once
  obtain ⟨-, ⟨later, -⟩, earlier⟩ := once
  have first := State.takeUps before s
  obtain ⟨x, hx⟩ : ∃ x, x = before.foldl State.takeUp s := ⟨_, rfl⟩
  rw [← hx] at first
  have still : x.node? r.addr = none := (first.others _ fun q hq => earlier q hq r (by simp)).trans free
  have whole : u = after.foldl State.takeUp (x.takeUp r) := by
    show (before ++ r :: after).foldl State.takeUp s = _
    rw [List.foldl_append, List.foldl_cons, hx]
  have acts : x.takeUp r = x.createNode r (if x.supply.startKind = .cold then 0 else x.now) := by
    simp only [State.takeUp, still]
  have gen : x.revoc.gen = s.revoc.gen := (congrArg (fun x : State => x.revoc.gen) first.rest :)
  have at_ : (if x.supply.startKind = .cold then 0 else x.now) = if s.supply.startKind = .cold then 0 else s.now := by
    rw [first.rest]
    rfl
  have settings : x.settings = s.settings := (congrArg State.settings first.rest :)
  have second := State.takeUps after (x.takeUp r)
  rw [← whole] at second
  refine ⟨?_, fun entry => ?_⟩
  · rw [second.others _ fun q hq => (later q hq).symm, acts, State.createNode_node?, gen]
  · obtain ⟨room, folio⟩ := second.rooms r.enrol.point fun q hq _ point =>
      absurd (congrArg EnrolReq.addr (d.point q (by simp [hq]) r hr point)) (later q hq).symm
    obtain ⟨newRoom, newFolio⟩ := x.createNode_new_room (if x.supply.startKind = .cold then 0 else x.now) entry
    rw [room, folio, acts, newRoom, newFolio, at_, settings]
    exact ⟨rfl, rfl⟩

theorem State.reconcile_created (d : Described es) (hr : r ∈ es) (new : ∀ n ∈ s.nodes, ¬ n.enrolledAlike r) :
    (s.reconcile es).node? r.addr = some (Node.fresh r s.revoc.gen) ∧
    (r.enrol.cls = .roomEntry →
      (s.reconcile es).room? r.enrol.point = some (Room.initial r.enrol.point (if s.supply.startKind = .cold then 0 else s.now)) ∧
      (s.reconcile es).folio? r.enrol.point = some (Folio.initial r.enrol.point s.settings.defaultCeiling)) := by
  have rest := (State.displaces (s.displaced es) s).rest
  have created := State.takeUps_created d hr (State.displaced_free d hr new)
  rw [show ((s.displaced es).foldl State.displace s).revoc.gen = s.revoc.gen from (congrArg (fun x : State => x.revoc.gen) rest :),
    show ((s.displaced es).foldl State.displace s).settings = s.settings from (congrArg State.settings rest :),
    show ((s.displaced es).foldl State.displace s).supply = s.supply from (congrArg State.supply rest :),
    show ((s.displaced es).foldl State.displace s).now = s.now from (congrArg State.now rest :)] at created
  exact created

theorem State.reconcile_described (s : State) (es : List EnrolReq) : (s.reconcile es).describedBy es := by
  have taken : ∀ (qs : List EnrolReq), (∀ q ∈ qs, q ∈ es) → ∀ s : State, s.describedBy es → (qs.foldl State.takeUp s).describedBy es := by
    intro qs
    induction qs with
    | nil => exact fun _ _ h => h
    | cons q qs ih =>
      exact fun all s h => ih (fun x hx => all x (by simp [hx])) _ (State.takeUp_described h (all q (by simp)))
  exact taken es (fun _ h => h) _ (State.displaceAll_described es s)

/-- The room of a node that leaves, where no enrolment makes it again. -/
theorem State.reconcile_unrooms {n : Node} (hn : n ∈ s.displaced es) (entry : n.enrol.cls = .roomEntry) :
    (∀ x ∈ (s.reconcile es).minibar.pool, x.folio ≠ n.enrol.point) ∧
    ((∀ q ∈ es, q.enrol.cls = .roomEntry → q.enrol.point ≠ n.enrol.point) →
      (s.reconcile es).room? n.enrol.point = none ∧ (s.reconcile es).folio? n.enrol.point = none) := by
  obtain ⟨-, -, -, gone⟩ := State.displaces_unroom (s.displaced es) s _ rfl
  obtain ⟨folio, room, away⟩ := gone n hn entry
  have taken := State.takeUps es ((s.displaced es).foldl State.displace s)
  refine ⟨fun x hx => away x ((congrArg (fun x : State => x.minibar.pool) taken.rest :) ▸ hx), fun unmade => ?_⟩
  obtain ⟨sameRoom, sameFolio⟩ := taken.rooms n.enrol.point fun q hq cls point => absurd point (unmade q hq cls)
  exact ⟨sameRoom.trans room, sameFolio.trans folio⟩

/-- Two ascending lists with the same items are one. -/
theorem ascending_eq {α : Type} (key : α → Nat) {l k : List α} (hl : l.Pairwise (fun a b => key a < key b))
    (hk : k.Pairwise (fun a b => key a < key b)) (same : ∀ x, x ∈ l ↔ x ∈ k) : l = k := by
  have perm : l.Perm k := (List.perm_ext_iff_of_nodup (hl.imp fun lt eq => Nat.ne_of_lt lt (congrArg key eq))
    (hk.imp fun lt eq => Nat.ne_of_lt lt (congrArg key eq))).mpr same
  exact perm.eq_of_pairwise (fun a b _ _ lt gt => absurd lt (Nat.lt_asymm gt)) hl hk

/-- A table whose records are those of an image's enrolments enrols just these. -/
theorem State.enrolled_eq (d : Described es) (asc : s.nodes.Pairwise (fun m n => m.addr < n.addr)) (described : s.describedBy es)
    (each : ∀ r ∈ es, ∃ m, s.node? r.addr = some m ∧ m.enrol = r.enrol) : s.enrolled = es := by
  refine ascending_eq EnrolReq.addr (List.pairwise_map.mpr asc) d.ascending fun r => ⟨fun hr => ?_, fun hr => ?_⟩
  · obtain ⟨m, hm, rfl⟩ := List.mem_map.mp hr
    obtain ⟨q, hq, addr, -⟩ := described m hm
    obtain ⟨k, hk, enrol⟩ := each q hq
    rw [addr, State.node?, findKey_of_mem Node.addr asc hm] at hk
    obtain rfl := Option.some.inj hk
    rw [enrol, ← addr]
    exact hq
  · obtain ⟨m, hm, enrol⟩ := each r hr
    obtain ⟨addr, mem⟩ := findKey_some Node.addr hm
    exact List.mem_map.mpr ⟨m, mem, by rw [addr, enrol]⟩

end Reconciled

end Sys2Proof.Machine

/-! O26: a loaded part reaches RUNNING. -/

namespace Sys2Proof.Machine

open Sys2Proof

/-! ### The acts of a start taken together -/

section Together
variable {s : State} {es : List EnrolReq} {seq : List StartActor}

theorem State.leaving_eq (s : State) (es : List EnrolReq) : s.leaving es = s.displaced es := by
  refine List.filter_congr fun n _ => congrArg (! ·) (congrArg es.any (funext fun q => ?_))
  exact congrArg (q.addr == n.addr && ·) (Bool.beq_comm (a := n.copy))

theorem State.lostRooms_eq (s : State) (es : List EnrolReq) : s.lostRooms es = s.leavingRooms es := by
  rw [State.lostRooms, State.leavingRooms, State.leaving_eq]

theorem any_startActors (perm : seq.Perm startActors) (P : StartActor → Bool) : seq.any P = startActors.any P :=
  perm.any_eq

theorem State.returned_eq (perm : seq.Perm startActors) (s : State) (es : List EnrolReq) (c : Cred) :
    seq.any (fun a => StartActor.returned (s.leavingRooms es) s.now a c) = s.returned es c := by
  rw [any_startActors perm]
  unfold State.returned
  cases st : c.st <;> simp [startActors, StartActor.returned, Cred.lapsed, CredState.isEncoding, st, Bool.or_comm]

theorem leavesWith_rooms (s : State) (es : List EnrolReq) (x : ChargeLine) : leavesWith (s.displaced es) x
    = ((s.leaving es).any (fun n => n.enrol.cls == .minibar && n.addr == x.node) || (s.leavingRooms es).contains x.folio) := by
  rw [leavesWith, State.leavingRooms, State.leaving_eq, List.contains_eq_any_beq, List.any_map, List.any_filter]
  congr 2
  funext n
  exact congrArg (n.enrol.cls == .roomEntry && ·) Bool.beq_comm

theorem State.committed_eq (perm : seq.Perm startActors) (s : State) (es : List EnrolReq) (x : ChargeLine) :
    seq.any (fun a => StartActor.committed (s.displaced es) s.now a x) = s.committed es x := by
  rw [any_startActors perm]
  have acts : startActors.any (fun a => StartActor.committed (s.displaced es) s.now a x) = (leavesWith (s.displaced es) x || x.due s.now) := by
    simp [startActors, StartActor.committed]
  rw [acts, leavesWith_rooms, State.committed, ChargeLine.due, Bool.or_comm, ← Bool.or_assoc]

theorem Node.withoutFolios_session (s : State) (es : List EnrolReq) (n : Node) : n.withoutFolios (s.displaced es) =
    { n with session := n.session.filter (fun x => !(x.mode == .guest && (s.leavingRooms es).any (fun p => x.folio == some p))) } := by
  have rooms (x : Session) : (s.displaced es).any (fun d => d.enrol.cls == .roomEntry && x.folio == some d.enrol.point)
      = (s.leavingRooms es).any (fun p => x.folio == some p) := by
    rw [State.leavingRooms, State.leaving_eq, List.any_map, List.any_filter]
    rfl
  rw [Node.withoutFolios]
  simp only [rooms]

end Together

/-! ### What every act leaves of the tables -/

section Reached
variable {s : State} {l : Loaded} {order : List StartActor}

/-- The state in which the acts of a start begin. -/
def State.loaded (l : Loaded) (s : State) : State := { s with loader := { s.loader with settings := l.settings } }

/-- The work of the blocks at a start. -/
def State.startWork (order : List StartActor) (l : Loaded) (s : State) : State :=
  (startSequence order).foldl (State.startAct l.enrolments (s.leavingRooms l.enrolments)) (s.loaded l)

theorem State.reachRunning_eq (order : List StartActor) (l : Loaded) (s : State) :
    s.reachRunning order l = (s.startWork order l).firstMark := by
  have lost : (s.loaded l).lostRooms l.enrolments = s.leavingRooms l.enrolments := (s.loaded l).lostRooms_eq l.enrolments
  rw [State.startWork, ← lost]
  rfl

/-- The tables of a start are those of the reconciliation, from the tables as they stood. -/
theorem State.startWork_tables (perm : order.Perm startActors) (out : s.service = false) : ∃ x,
    Aside (s.loaded l) x ∧ Aside (x.reconcile l.enrolments) (s.startWork order l) := by
  have perm' := (startSequence_perm order).trans perm
  have once : (startSequence order).Nodup := perm'.nodup_iff.mpr (by decide)
  obtain ⟨before, after, split⟩ := List.append_of_mem (perm'.mem_iff.mpr (by decide : StartActor.tables ∈ startActors))
  rw [split, List.nodup_append, List.nodup_cons] at once
  obtain ⟨-, ⟨later, -⟩, apart⟩ := once
  have first : Aside (s.loaded l) (before.foldl (State.startAct l.enrolments (s.leavingRooms l.enrolments)) (s.loaded l)) :=
    .startActs before _ out fun h => apart _ h _ (by simp) rfl
  refine ⟨_, first, ?_⟩
  rw [State.startWork, split, List.foldl_append, List.foldl_cons]
  exact .startActs after _ (((State.reconcile_service _ _).trans first.service).trans out) later

/-- An address that no retained node names alike, after a start. -/
theorem State.startWork_created (perm : order.Perm startActors) (d : Described l.enrolments) (out : s.service = false)
    {r : EnrolReq} (hr : r ∈ l.enrolments) (new : ∀ n ∈ s.nodes, ¬ n.enrolledAlike r) :
    (s.startWork order l).node? r.addr = some (enrolledNode r s.revoc.gen false) ∧
    (r.enrol.cls = .roomEntry →
      (s.startWork order l).room? r.enrol.point
        = some ⟨r.enrol.point, 0, 1, [⟨1, if s.supply.startKind = .cold then 0 else s.now⟩], true⟩ ∧
      (s.FolioLaw → (s.startWork order l).folio? r.enrol.point = some ⟨r.enrol.point, false, 0, l.settings.defaultCeiling, 0, none⟩)) := by
  obtain ⟨x, before, after⟩ := State.startWork_tables (l := l) perm out
  have nodes : x.nodes = s.nodes := before.nodes
  obtain ⟨node, rooms⟩ := State.reconcile_created (s := x) d hr (by rw [nodes]; exact new)
  refine ⟨?_, fun entry => ?_⟩
  · rw [State.node?, after.nodes]
    refine node.trans ?_
    rw [before.revoc]
    rfl
  · obtain ⟨room, folio⟩ := rooms entry
    have now : x.now = s.now := State.now_eq before.falls.time
    have supply : x.supply = s.supply := before.supply
    refine ⟨?_, fun law => ?_⟩
    · rw [State.room?_rooms (congrArg Revoc.rooms after.revoc), room, now, supply]
      rfl
    · have away : ∀ y ∈ (x.reconcile l.enrolments).minibar.pool, y.folio ≠ r.enrol.point := by
        intro y hy named
        have held : y ∈ s.minibar.pool := before.falls.pool y ((x.reconcile_falls l.enrolments).pool y hy)
        obtain ⟨f, hf, point, -⟩ := law.lines y held
        obtain ⟨n, hn, entry, owner⟩ := law.owners f hf
        have here : n.enrol.point = r.enrol.point := owner.trans (point.trans named)
        have leaves : n ∈ x.displaced l.enrolments := by
          refine State.mem_displaced.mpr ⟨nodes ▸ hn, fun q hq alike => ?_⟩
          have copy : n.enrol.point = q.enrol.point := congrArg EnrolCopy.point ((law.copies n hn).symm.trans alike.2)
          have same : q = r := d.point q hq r hr (copy.symm.trans here)
          exact new n hn (same ▸ alike)
        exact (State.reconcile_unrooms leaves entry).1 y hy (named.trans here.symm)
      rw [after.folio _ away, folio]
      exact congrArg (fun v : Loader => some (Folio.initial r.enrol.point v.settings.defaultCeiling)) before.loader

/-- The room of a retained node that leaves, where no enrolment makes it again, after a start. -/
theorem State.startWork_unrooms (perm : order.Perm startActors) (out : s.service = false) {p : Nat}
    (leaves : p ∈ s.leavingRooms l.enrolments)
    (unmade : ∀ q ∈ l.enrolments, q.enrol.cls = .roomEntry → q.enrol.point ≠ p) :
    (s.startWork order l).room? p = none ∧ (s.startWork order l).folio? p = none := by
  obtain ⟨x, before, after⟩ := State.startWork_tables (l := l) perm out
  have nodes : x.nodes = s.nodes := before.nodes
  rw [State.leavingRooms, State.leaving_eq] at leaves
  obtain ⟨n, hn, rfl⟩ := List.mem_map.mp leaves
  obtain ⟨hn, entry⟩ := List.mem_filter.mp hn
  have here : n ∈ x.displaced l.enrolments := by rw [State.displaced, nodes]; exact hn
  obtain ⟨room, folio⟩ := (State.reconcile_unrooms here (eq_of_beq entry)).2 unmade
  exact ⟨(State.room?_rooms (congrArg Revoc.rooms after.revoc) _).trans room, after.noFolio _ folio⟩

theorem State.startWork_described (perm : order.Perm startActors) (out : s.service = false) :
    (s.startWork order l).describedBy l.enrolments := by
  obtain ⟨x, -, after⟩ := State.startWork_tables (l := l) perm out
  exact State.describedBy_congr (x.reconcile_described l.enrolments) after.nodes

/-- Nothing is due after a start, and no encoding of a room that left stands. -/
theorem State.startWork_done (perm : order.Perm startActors) :
    (∀ c ∈ (s.startWork order l).store.recs, c.lapsed s.now = false) ∧
    (∀ x ∈ (s.startWork order l).minibar.pool, s.now < x.deadline) ∧
    (∀ p ∈ s.leavingRooms l.enrolments, ∀ c ∈ (s.startWork order l).store.recs, c.guestOf p = true → c.st.isEncoding = false) ∧
    OutFrame.notice 0x60 [byteOf s.supply.startKind.code] ∈ (s.startWork order l).port.frames := by
  have perm' := (startSequence_perm order).trans perm
  have after {a : StartActor} (mem : a ∈ startActors) := State.startActs_after (es := l.enrolments)
    (lost := s.leavingRooms l.enrolments) (perm'.mem_iff.mpr mem) (s.loaded l)
  refine ⟨fun c hc => ?_, fun x hx => ?_, fun p hp c hc guest => ?_, ?_⟩
  · obtain ⟨x, before, later⟩ := after (a := .lapses) (by decide)
    have none := (State.returnWhere_falls (fun c => c.lapsed x.now) .lapsed x).2.1 c (later.recs c hc)
    rwa [State.now_eq before.time] at none
  · obtain ⟨y, before, later⟩ := after (a := .charges) (by decide)
    have none := (State.commitWhere_falls (ChargeLine.due y.now) y).2.1 x (later.pool x hx)
    rw [State.now_eq before.time] at none
    exact Nat.not_le.mp (of_decide_eq_false none)
  · obtain ⟨x, before, later⟩ := after (a := .orphans) (by decide)
    have none := (State.returnWhere_falls (fun c => c.st.isEncoding && (s.leavingRooms l.enrolments).any (fun p => c.guestOf p)) .lapsed x).2.1 c
      (later.recs c hc)
    rw [Bool.and_eq_false_iff] at none
    refine none.resolve_right fun no => ?_
    exact absurd (List.any_eq_true.mpr ⟨p, hp, guest⟩) (by simp [no])
  · obtain ⟨x, before, later⟩ := after (a := .notice) (by decide)
    refine later.frames _ ((Port.ready_frames _ x.port).symm.subset (List.mem_append_right _ ?_))
    rw [before.supply]
    exact List.mem_singleton_self _

end Reached

end Sys2Proof.Machine

/-! O26: a loaded part reaches RUNNING. -/

namespace Sys2Proof.Machine

open Sys2Proof

section Reached
variable {s : State} {l : Loaded} {order : List StartActor}

/-- The acts of a start together. -/
theorem State.startWork_acted (perm : order.Perm startActors) (offA : s.lines.lineA.st = .off) (offB : s.lines.lineB.st = .off) :
    Acted l.enrolments (s.leavingRooms l.enrolments) (s.displaced l.enrolments) (startSequence order) (s.loaded l) (s.startWork order l) :=
  State.startActs (s.loaded l) offA offB _ ((startSequence_perm order).trans perm)

/-- The records of a start, as O26 counts them. -/
theorem State.startWork_records (perm : order.Perm startActors) (offA : s.lines.lineA.st = .off) (offB : s.lines.lineB.st = .off) :
    ∃ rs, (s.startWork order l).journal = s.journal.pushAll rs ∧ StartRecords s l.enrolments rs := by
  have perm' := (startSequence_perm order).trans perm
  obtain ⟨rs, journal, kinds, lines, lapsed, charges⟩ := (State.startWork_acted (s := s) (l := l) perm offA offB).records
  refine ⟨rs, journal, kinds, ?_, fun law => ?_, fun once => ?_⟩
  · exact lines.trans ((perm'.flatMap_right _).trans (by exact .refl _))
  · have counted := lapsed law.ascending
    rw [show (fun c => (startSequence order).any (fun a => StartActor.returned (s.leavingRooms l.enrolments) (s.loaded l).now a c))
      = s.returned l.enrolments from funext fun c => State.returned_eq perm' s l.enrolments c] at counted
    exact counted
  · have counted := charges once
    rw [show (fun x => (startSequence order).any (fun a => StartActor.committed (s.displaced l.enrolments) (s.loaded l).now a x))
      = s.committed l.enrolments from funext fun x => State.committed_eq perm' s l.enrolments x] at counted
    exact counted

/-- The table after a start: ascending, with just the image's enrolments, every node ABSENT. -/
theorem State.startWork_table (perm : order.Perm startActors) (d : Described l.enrolments) (offA : s.lines.lineA.st = .off)
    (offB : s.lines.lineB.st = .off) (round : s.lines.round = none) (asc : s.nodes.Pairwise (fun m n => m.addr < n.addr))
    (absent : ∀ n ∈ s.nodes, n.st = .absent) :
    (∀ r ∈ l.enrolments, ∀ n ∈ s.nodes, n.enrolledAlike r → (s.startWork order l).node? r.addr = some { n with
      enrol := r.enrol
      session := n.session.filter (fun x => !(x.mode == .guest && (s.leavingRooms l.enrolments).any (fun p => x.folio == some p))) }) ∧
    (s.startWork order l).enrolled = l.enrolments ∧ ∀ n ∈ (s.startWork order l).nodes, n.st = .absent := by
  have out : s.service = false := by simp [State.service, offA, offB, LineState.inService]
  have perm' := (startSequence_perm order).trans perm
  have acted := State.startWork_acted (s := s) (l := l) perm offA offB
  have kept : ∀ r ∈ l.enrolments, ∀ n ∈ s.nodes, n.enrolledAlike r → (s.startWork order l).node? r.addr = some { n with
      enrol := r.enrol
      session := n.session.filter (fun x => !(x.mode == .guest && (s.leavingRooms l.enrolments).any (fun p => x.folio == some p))) } := by
    intro r hr n hn alike
    have node := acted.kept rfl (perm'.mem_iff.mpr (by decide)) (perm'.nodup_iff.mpr (by decide)) asc
      (d.ascending.imp Nat.ne_of_lt) r hr n hn alike
    rw [node, Node.withoutFolios_session]
  have each : ∀ r ∈ l.enrolments, ∃ m, (s.startWork order l).node? r.addr = some m ∧ m.enrol = r.enrol ∧ m.st = .absent := by
    intro r hr
    by_cases old : ∃ n ∈ s.nodes, n.enrolledAlike r
    · obtain ⟨n, hn, alike⟩ := old
      exact ⟨_, kept r hr n hn alike, rfl, absent n hn⟩
    · exact ⟨_, (State.startWork_created perm d out hr fun n hn alike => old ⟨n, hn, alike⟩).1, rfl, rfl⟩
  have law : Starting s := ⟨asc, out, fun n hn => by rw [absent n hn]; rfl, by rw [round]; simp⟩
  have after := (Evolves.reachRunning (a := .starting) d trivial order).keeps (fun _ _ e => e.keeps_starting id) law
  rw [State.reachRunning_eq] at after
  have ascends : (s.startWork order l).nodes.Pairwise (fun m n => m.addr < n.addr) := after.ascending
  have described := State.startWork_described (l := l) perm out
  refine ⟨kept, State.enrolled_eq d ascends described fun r hr => ?_, fun n hn => ?_⟩
  · obtain ⟨m, hm, enrol, -⟩ := each r hr
    exact ⟨m, hm, enrol⟩
  · obtain ⟨r, hr, addr, -⟩ := described n hn
    obtain ⟨m, hm, -, st⟩ := each r hr
    rw [addr, State.node?, findKey_of_mem Node.addr ascends hn] at hm
    rw [Option.some.inj hm, st]

/-- The rooms and folios that a start leaves as they stood, but for lines committed. -/
theorem State.startWork_standing (perm : order.Perm startActors) (offA : s.lines.lineA.st = .off) (offB : s.lines.lineB.st = .off)
    (asc : s.nodes.Pairwise (fun m n => m.addr < n.addr)) {p : Nat} (stays : p ∉ s.leavingRooms l.enrolments)
    (held : ∀ q ∈ l.enrolments, q.enrol.cls = .roomEntry → q.enrol.point = p → ∃ n ∈ s.nodes, n.enrolledAlike q) :
    (s.startWork order l).room? p = s.room? p ∧ (Once s.minibar.pool → (s.startWork order l).folio? p = (s.folio? p).map (fun f =>
      f.committed (s.minibar.pool.filter (fun x => s.committed l.enrolments x && x.folio == p)))) := by
  have perm' := (startSequence_perm order).trans perm
  have unnamed : ∀ n ∈ s.displaced l.enrolments, n.enrol.cls = .roomEntry → n.enrol.point ≠ p := by
    rintro n hn entry rfl
    refine stays ?_
    rw [State.leavingRooms, State.leaving_eq]
    exact List.mem_map_of_mem (List.mem_filter.mpr ⟨hn, by simp [entry]⟩)
  obtain ⟨room, folio⟩ := (State.startWork_acted (s := s) (l := l) perm offA offB).point p unnamed (perm'.nodup_iff.mpr (by decide))
    fun _ => ⟨rfl, asc, held⟩
  refine ⟨room, fun once => (folio once).trans ?_⟩
  rw [show (fun x => (startSequence order).any (fun a => StartActor.committed (s.displaced l.enrolments) (s.loaded l).now a x))
    = s.committed l.enrolments from funext fun x => State.committed_eq perm' s l.enrolments x, List.filter_filter]
  refine congrArg (fun f => (s.folio? p).map f) (funext fun f => congrArg (fun k => Folio.committed k f) ?_)
  exact List.filter_congr fun x _ => Bool.and_comm _ _

theorem State.startWork_lines (perm : order.Perm startActors) (offA : s.lines.lineA.st = .off) (offB : s.lines.lineB.st = .off)
    (round : s.lines.round = none) : (s.startWork order l).lines = { s.lines with
      lineA := { s.lines.lineA with st := .training, retrain := 4, running := 0 }
      lineB := { s.lines.lineB with st := .training, retrain := 4, running := 0 }
      urgent := s.lines.urgent.filter (fun u => !(s.leaving l.enrolments).any (fun n => u.node == n.addr))
      repeats := s.lines.repeats.filter (fun u => !(s.leaving l.enrolments).any (fun n => u.node == n.addr)) } := by
  have perm' := (startSequence_perm order).trans perm
  have acted := State.startWork_acted (s := s) (l := l) perm offA offB
  have lines := acted.lines
  have all : ∀ x ∈ startActors, (startSequence order).contains x = true := fun x hx => by simpa using perm'.mem_iff.mpr hx
  rw [all .lineA (by decide), all .lineB (by decide), all .tables (by decide), acted.round round] at lines
  rw [lines, State.leaving_eq]
  simp only [Bool.true_and, if_true]
  rw [← round]
  rfl

theorem State.startWork_store (perm : order.Perm startActors) (offA : s.lines.lineA.st = .off) (offB : s.lines.lineB.st = .off)
    (law : s.store.Law) : (s.startWork order l).store.recs = s.store.recs.filter (fun c => !s.returned l.enrolments c) ∧
    ∃ ks, (s.startWork order l).store.free = s.store.free ++ ks ∧
      ks.Perm ((s.store.recs.filter (s.returned l.enrolments)).map Cred.number) := by
  have perm' := (startSequence_perm order).trans perm
  have recs := (State.startWork_acted (s := s) (l := l) perm offA offB).recs law.ascending
  have same (c : Cred) : (startSequence order).any (fun a => StartActor.returned (s.leavingRooms l.enrolments) (s.loaded l).now a c)
      = s.returned l.enrolments c := State.returned_eq perm' s l.enrolments c
  simp only [same] at recs
  exact recs

/-- The part reaches RUNNING with a loaded image, whatever order the blocks act in. -/
theorem State.reachRunning_reached (perm : order.Perm startActors) (d : Described l.enrolments) (offA : s.lines.lineA.st = .off)
    (offB : s.lines.lineB.st = .off) (round : s.lines.round = none) (asc : s.nodes.Pairwise (fun m n => m.addr < n.addr))
    (absent : ∀ n ∈ s.nodes, n.st = .absent) : ReachedRunning l s (s.reachRunning order l) := by
  have out : s.service = false := by simp [State.service, offA, offB, LineState.inService]
  have perm' := (startSequence_perm order).trans perm
  have acted := State.startWork_acted (s := s) (l := l) perm offA offB
  obtain ⟨kept, enrolled, still⟩ := State.startWork_table (order := order) perm d offA offB round asc absent
  obtain ⟨lapsed, due, orphans, started⟩ := State.startWork_done (s := s) (l := l) perm
  have rest := acted.rest
  have time : (s.startWork order l).time = s.time := (congrArg State.time rest :)
  have settings : (s.startWork order l).settings = l.settings := (congrArg State.settings rest :)
  rw [State.reachRunning_eq]
  refine
    { part := ?_, settings := settings, enrolled := enrolled, absent := still, kept := kept
      created := fun r hr new => State.startWork_created perm d out hr new
      withdrawn := fun p hp => ⟨orphans p hp, State.startWork_unrooms perm out hp⟩
      standing := fun p stays held => State.startWork_standing perm offA offB asc stays held
      pool := fun once => ?_, creds := fun law => (State.startWork_store perm offA offB law).1
      free := fun law => (State.startWork_store perm offA offB law).2
      retired := acted.retired, list := acted.revoc, journal := State.startWork_records perm offA offB
      lines := State.startWork_lines perm offA offB round, time := ?_, lapsed := ?_, due := ?_
      port := acted.port, started := started, notified := acted.notified, rest := ?_ }
  · have part := acted.part
    rw [show (startSequence order).contains .entry = true by simpa using perm'.mem_iff.mpr (by decide)] at part
    exact part
  · refine (acted.pool once).trans (List.filter_congr fun x _ => congrArg (! ·) ?_)
    exact State.committed_eq perm' s l.enrolments x
  · show ({ (s.startWork order l).time with mark := _ } : TimeBase) = _
    rw [time, settings]
  · have now : (s.startWork order l).firstMark.now = s.now := (congrArg TimeBase.secs time :)
    rw [now]
    exact lapsed
  · have now : (s.startWork order l).firstMark.now = s.now := (congrArg TimeBase.secs time :)
    rw [now]
    exact due
  · exact State.eq_of_fields (part := rfl) (loader := rfl) (time := rfl) (lines := rfl) (nodes := rfl) (store := rfl) (revoc := rfl)
      (minibar := rfl) (journal := rfl) (port := rfl) (choices := rfl) (pending := (congrArg State.pending rest :))
      (supply := (congrArg State.supply rest :)) (inviter := (congrArg State.inviter rest :))

/-- The start work reads nothing of the loader and the free choice. -/
theorem ReachedRunning.of_loader {s t u : State} (h : ReachedRunning l t u)
    (same : t = { s with loader := t.loader, choices := t.choices }) : ReachedRunning l s u := by
  generalize t.loader = loader at same
  generalize t.choices = choices at same
  subst same
  have law (h : s.FolioLaw) : ({ s with loader := loader, choices := choices } : State).FolioLaw :=
    ⟨h.nodesAscending, h.foliosAscending, h.copies, h.owners, h.total, h.balance, h.lines, h.once, h.sessions⟩
  exact
    { h with
      created := fun r hr new => ⟨(h.created r hr new).1, fun entry => ⟨((h.created r hr new).2 entry).1,
        fun folios => ((h.created r hr new).2 entry).2 (law folios)⟩⟩
      journal := h.journal.imp fun rs both => ⟨both.1, both.2.kinds, both.2.lines, both.2.lapsed, both.2.charges⟩ }

end Reached

/-- Settles O26: the acts of the start leave each table what O26 says, in any order. -/
theorem loadedPartReachesRunning : Obligations.LoadedPartReachesRunning := by
  unfold Obligations.LoadedPartReachesRunning
  intro b1 b2 recent l s loading offA offB round asc absent chosen
  let t : State := { s.chose with loader := { s.loader with bank1 := b1, bank2 := b2, recent := some recent, cause := .none } }
  have runs : exec (.loadComplete b1 b2) s = .next (t.reachRunning s.startOrder l) := by
    change execLoadComplete b1 b2 s = _
    simp only [execLoadComplete, loading, State.loadComplete, chosen]
    rfl
  have reached := State.reachRunning_reached (s := t) (startOrder_perm s) (.of_choice chosen) offA offB round asc absent
  refine ⟨_, runs, reached.of_loader rfl, ?_⟩
  rw [State.reachRunning_eq]
  exact (congrArg State.loader (State.startWork_acted (s := t) (l := l) (startOrder_perm s) offA offB).rest :)

end Sys2Proof.Machine

/-! O28: staging images judged, refused and held, and the start from UNCONFIGURED (11:R197). -/

namespace Sys2Proof.Machine

open Sys2Proof

/-! ### A staging image judged -/

section Judged
variable (i : RawImage)

/-- A staging image whose header passes and that holds no more than its length. -/
theorem RawImage.header_iff : (i.FormatOk ∧ i.HeaderOk ∧ i.rest.length ≤ i.length.toNat) ↔
    ¬ (¬ headerFormatOk i.bytes = true ∨ ¬ headerCheckOk i.bytes = true ∨ 16 + headerLength i.bytes < i.bytes.length) := by
  obtain ⟨length, -, -, header, -⟩ := i.read
  rw [i.judged.1, i.judged.2.1, length, header, not_or, not_or, not_not, not_not, Nat.not_lt]
  exact and_congr_right' (and_congr_right' (by omega))

theorem RawImage.long (i : RawImage) : ¬ i.bytes.length < 16 := by
  rw [i.read.1]
  omega

theorem judgeStaged_header (bad : ¬ (i.FormatOk ∧ i.HeaderOk ∧ i.rest.length ≤ i.length.toNat)) : judgeStaged i.bytes = .refused := by
  rw [i.header_iff, not_not] at bad
  exact (if_neg i.long).trans (if_pos bad)

theorem judgeStaged_partial (header : i.FormatOk ∧ i.HeaderOk ∧ i.rest.length ≤ i.length.toNat) (short : i.rest.length < i.length.toNat) :
    judgeStaged i.bytes = .incomplete := by
  refine (if_neg i.long).trans ((if_neg (i.header_iff.mp header)).trans (if_pos ?_))
  rw [i.read.1, i.read.2.2.2.1]
  omega

/-- A complete staging image of a good body is what the body gives, any other is refused. -/
theorem judgeStaged_whole (header : i.FormatOk ∧ i.HeaderOk ∧ i.rest.length ≤ i.length.toNat) (whole : i.rest.length = i.length.toNat) :
    (¬ (i.BodyOk ∧ bodyEndsWell i.length.toNat) → judgeStaged i.bytes = .refused) ∧
    (i.BodyOk → bodyEndsWell i.length.toNat → (loadBody i.body = none → judgeStaged i.bytes = .refused) ∧
      ∀ l, loadBody i.body = some l → judgeStaged i.bytes = .complete l) := by
  have full : ¬ i.bytes.length < 16 + headerLength i.bytes := by
    rw [i.read.1, i.read.2.2.2.1]
    omega
  have bad : (¬ bodyCheckOk i.bytes = true ∨ ¬ layoutOk (headerLength i.bytes) = true) ↔ ¬ (i.BodyOk ∧ bodyEndsWell i.length.toNat) := by
    rw [i.judged.2.2.2, i.read.2.2.2.1, layout_iff, not_and_or]
  refine ⟨fun no => (if_neg i.long).trans ((if_neg (i.header_iff.mp header)).trans ((if_neg full).trans (if_pos (bad.mpr no)))),
    fun body ends => ?_⟩
  simp only [judgeStaged, if_neg i.long, if_neg (i.header_iff.mp header), if_neg full, if_neg (mt bad.mp (not_not.mpr ⟨body, ends⟩)),
    i.judged.2.2.1]
  exact ⟨fun none => by rw [none], fun l some => by rw [some]⟩

theorem RawImage.body_whole (whole : i.rest.length = i.length.toNat) : i.body = i.rest := by
  rw [RawImage.body, ← whole, List.take_length]

theorem judgeStaged_under16 {img : List Byte} (short : img.length < 16) : judgeStaged img = .incomplete := if_pos short

end Judged

/-! ### The commands that hold or refuse an image -/

section Staging
variable {s u : State} {tag : Byte} {body : List Byte} {r : Reply}

/-- LOAD_SETTINGS served in RUNNING or UNCONFIGURED. -/
theorem exec_loadSettings (part : s.part = .running ∨ s.part = .unconfigured) (idle : s.port.service = none)
    (lo : 4 ≤ body.length) (hi : body.length ≤ 1024) (gives : serveLoadSettings body s = (u, r)) :
    exec (.loadSettings tag body) s = .next (u.answer 0x03 tag false r) := by
  have served : servedIn s.part 0x03 = true := by
    obtain part | part := part <;> rw [part] <;> rfl
  refine congrArg Host.Outcome.next ((State.command_of_servedIn tag (serveLoadSettings body) [] served idle (by simp [lo, hi])).trans ?_)
  rw [gives]
  cases r.status.success <;> rfl

theorem serveLoadSettings_offset (zero : u32At body 0 ≠ 0) (fill : u32At body 0 ≠ s.loader.staging.length) :
    serveLoadSettings body s = refuse .badField s := by
  simp only [serveLoadSettings, stagedBy, if_neg zero, if_neg fill]

/-- An image that an accepted offset gives. -/
theorem serveLoadSettings_image {img : List Byte} (is : img = if u32At body 0 = 0 then body.drop 4 else s.loader.staging ++ body.drop 4)
    (offset : u32At body 0 = 0 ∨ u32At body 0 = s.loader.staging.length) : serveLoadSettings body s = match judgeStaged img with
      | .refused => refuse .badField s
      | .incomplete => (s.stage img, ⟨.ok, le16 img.length⟩)
      | .complete l => s.takeImage s.startOrder l := by
  have staged : stagedBy s.loader.staging (u32At body 0) (body.drop 4) = some img := by
    rw [is]
    unfold stagedBy
    split
    · rfl
    · rename_i zero
      rw [if_pos (offset.resolve_left zero)]
  simp only [serveLoadSettings, staged] <;> rfl

/-- 11:R197: the implied withdrawal of a node is refused exactly for a room in use, judged against the new enrolment. -/
theorem State.loadRefused_iff (es : List EnrolReq) (s : State) : s.loadRefused es = true ↔ ∃ n ∈ s.nodes, (∀ r ∈ es, ¬ n.enrolledAlike r) ∧
    n.enrol.cls = .roomEntry ∧
    ((∃ r ∈ es, r.addr ≠ n.addr ∧ r.enrol.entry = some n.enrol.point) ∨
     (∃ f, s.folio? n.enrol.point = some f ∧ f.isOpen = true) ∨
     ∃ c ∈ s.store.recs, c.st.live = true ∧ c.guestOf n.enrol.point = true) := by
  have refused (n : Node) : s.withdrawRefused n (othersOf es n.addr) = true ↔ n.enrol.cls = .roomEntry ∧
      ((∃ r ∈ es, r.addr ≠ n.addr ∧ r.enrol.entry = some n.enrol.point) ∨
       (∃ f, s.folio? n.enrol.point = some f ∧ f.isOpen = true) ∨
       ∃ c ∈ s.store.recs, c.st.live = true ∧ c.guestOf n.enrol.point = true) := by
    simp only [State.withdrawRefused, othersOf, State.liveGuest, Bool.and_eq_true, Bool.or_eq_true, beq_iff_eq, List.any_map, List.any_filter,
      List.any_eq_true, bne_iff_ne, Function.comp, or_assoc, Option.any_eq_true]
  simp only [State.loadRefused, State.impliedWithdrawals, List.any_eq_true, refused, State.mem_displaced, and_assoc]

/-- An act of a start leaves the loader, and the part but for its entry into RUNNING. -/
theorem State.startAct_part (es : List EnrolReq) (lost : List Nat) (s : State) (a : StartActor) :
    (s.startAct es lost a).loader = s.loader ∧ (s.startAct es lost a).part = if a = .entry then .running else s.part := by
  cases a with
  | tables =>
    have taken := (State.takeUps es ((s.displaced es).foldl State.displace s)).rest
    have displaced := (State.displaces (s.displaced es) s).rest
    exact ⟨(congrArg State.loader taken :).trans (congrArg State.loader displaced :),
      (congrArg State.part taken :).trans (congrArg State.part displaced :)⟩
  | orphans =>
    have frame := (State.returnWhere_falls (fun c => c.st.isEncoding && lost.any (fun p => c.guestOf p)) .lapsed s).2.2
    exact ⟨(congrArg State.loader frame :), (congrArg State.part frame :)⟩
  | lapses =>
    have frame := (State.returnWhere_falls (fun c => c.lapsed s.now) .lapsed s).2.2
    exact ⟨(congrArg State.loader frame :), (congrArg State.part frame :)⟩
  | charges =>
    have frame := (State.commitWhere_falls (ChargeLine.due s.now) s).2.2
    exact ⟨(congrArg State.loader frame :), (congrArg State.part frame :)⟩
  | lineA => exact ⟨s.enterTraining_loader .a, s.enterTraining_part .a⟩
  | lineB => exact ⟨s.enterTraining_loader .b, s.enterTraining_part .b⟩
  | entry => exact ⟨rfl, rfl⟩
  | notice => exact ⟨rfl, rfl⟩

theorem State.startActs_part (es : List EnrolReq) (lost : List Nat) (as : List StartActor) : ∀ s : State,
    (as.foldl (State.startAct es lost) s).loader = s.loader ∧
    (.entry ∈ as ∨ s.part = .running → (as.foldl (State.startAct es lost) s).part = .running) := by
  induction as with
  | nil => exact fun s => ⟨rfl, fun h => h.resolve_left (by simp)⟩
  | cons a as ih =>
    intro s
    obtain ⟨loader, part⟩ := s.startAct_part es lost a
    obtain ⟨later, runs⟩ := ih (s.startAct es lost a)
    refine ⟨later.trans loader, fun h => runs ?_⟩
    by_cases entry : a = .entry
    · exact .inr (part.trans (if_pos entry))
    · exact h.imp (fun mem => (List.mem_cons.mp mem).resolve_left fun e => entry e.symm) (part.trans (if_neg entry)).trans

/-- The start from UNCONFIGURED reaches RUNNING, with STARTED ready. -/
theorem State.reachRunning_starts {order : List StartActor} (perm : order.Perm startActors) (l : Loaded) (s : State) :
    (s.reachRunning order l).part = .running ∧ (s.reachRunning order l).loader = { s.loader with settings := l.settings } ∧
    OutFrame.notice 0x60 [byteOf s.supply.startKind.code] ∈ (s.reachRunning order l).port.frames := by
  have perm' := (startSequence_perm order).trans perm
  obtain ⟨loader, part⟩ := State.startActs_part l.enrolments (s.leavingRooms l.enrolments) (startSequence order) (s.loaded l)
  rw [State.reachRunning_eq]
  exact ⟨part (.inl (perm'.mem_iff.mpr (by decide))), loader, (State.startWork_done perm).2.2.2⟩

end Staging

end Sys2Proof.Machine

/-! O28: the withdrawals, the enrolments and the fields of an image applied in RUNNING (11:R197). -/

namespace Sys2Proof.Machine

open Sys2Proof

/-! ### Changes of state recorded -/

/-- The NODE_STATE records of 02:R29 at a moment. -/
def movedRecord (now a p : Nat) (d : Detail) : Nat × Entry :=
  (now, { kind := .nodeState, node := some a, point := some p, detail1 := some d })

/-- `u` comes from `s` by acts that write the NODE_STATE records `es`, with decisions and charge lines dropped before them. -/
structure Moved (es : List (Nat × Entry)) (s u : State) : Prop where
  time : u.time = s.time
  part : u.part = s.part
  journal : ∃ rs, u.journal = s.journal.pushAll rs ∧ rs.filter (fun e => e.2.kind == .nodeState) = es ∧
    ∀ e ∈ rs, e.2.kind = .nodeState ∨ e.2.kind = .decisionLate ∨ e.2.kind = .minibarCharge
  port : Port.noticesOnly s.port u.port
  told : s.part = .running → es ≠ [] → u.port.arm.nodeChange = false
  quiet : es = [] → u.port = s.port ∧ u.lines = s.lines

theorem Moved.refl (s : State) : Moved [] s s := ⟨rfl, rfl, ⟨[], rfl, rfl, by simp⟩, rfl, fun _ h => absurd rfl h, fun _ => ⟨rfl, rfl⟩⟩

theorem Moved.trans {as bs : List (Nat × Entry)} {s t u : State} (h : Moved as s t) (g : Moved bs t u) : Moved (as ++ bs) s u := by
  obtain ⟨rs, journal, kept, kinds⟩ := h.journal
  obtain ⟨qs, journal', kept', kinds'⟩ := g.journal
  refine ⟨g.time.trans h.time, g.part.trans h.part, ⟨rs ++ qs, ?_, ?_, fun e he => (List.mem_append.mp he).elim (kinds e) (kinds' e)⟩,
    Port.noticesOnly_trans h.port g.port, fun running some => ?_, fun none => ?_⟩
  · rw [journal', journal, Journal.pushAll_append]
  · rw [List.filter_append, kept, kept']
  · by_cases last : bs = []
    · subst last
      rw [(g.quiet rfl).1]
      exact h.told running (by simpa using some)
    · exact g.told (h.part.trans running) last
  · obtain ⟨rfl, rfl⟩ := List.append_eq_nil_iff.mp none
    exact ⟨(g.quiet rfl).1.trans (h.quiet rfl).1, (g.quiet rfl).2.trans (h.quiet rfl).2⟩

theorem State.noted_notices (s : State) (e : Entry) : Port.noticesOnly s.port (s.noted e).port :=
  ((s.append_noticed e).trans (State.raise_noticed _ _)).notices

/-! ### The withdrawals -/

/-- A withdrawal in RUNNING is that of a start with its NODE_STATE record. -/
theorem State.withdraw_displace (s : State) (n : Node) : s.withdraw n = { s.displace n with
    journal := (s.displace n).journal.push s.now (nodeStateEntry n .withdrawn), port := (s.withdraw n).port } := by
  have rest := (s.settled n).released_rest n
  have displaced : s.displace n = ((s.settled n).released n).forgetNode n.addr := by
    rw [State.displace, State.releaseNode_eq]
    rfl
  have now : ((s.settled n).released n).now = s.now := (congrArg State.now rest :).trans (s.settled_spec n).2.2.2.2.2.2
  rw [s.withdraw_eq n, State.noted_rest, displaced]
  exact State.eq_of_fields rfl rfl rfl rfl rfl rfl rfl rfl rfl rfl rfl (congrArg (fun now => Journal.push now _ _) now) rfl rfl

theorem State.withdraw_moved (s : State) (n : Node) : Moved [movedRecord s.now n.addr n.enrol.point .withdrawn] s (s.withdraw n) := by
  obtain ⟨rs, records, kinds, -⟩ := (s.displace_spec n).records
  have whole := s.withdraw_displace n
  obtain ⟨-, -, -, port, -, -, -⟩ := s.settled_spec n
  have rest := (s.settled n).released_rest n
  have part : ((s.settled n).released n).part = s.part := (congrArg State.part rest :).trans (by simp [State.settled])
  refine ⟨(congrArg State.time whole :).trans records.time, (congrArg State.part whole :).trans ?_, ?_, ?_, fun running _ => ?_, by simp⟩
  · exact (congrArg State.part (s.displace_spec n).rest :)
  · refine ⟨rs ++ [movedRecord s.now n.addr n.enrol.point .withdrawn], (congrArg State.journal whole :).trans ?_, ?_, fun e he => ?_⟩
    · rw [Journal.pushAll_append, ← records.journal]
      rfl
    · rw [List.filter_append, List.filter_eq_nil_iff.mpr fun e he => ?_]
      · rfl
      · rcases kinds e he with kind | ⟨kind, -⟩ <;> simp [kind]
    · rcases List.mem_append.mp he with he | he
      · exact .inr ((kinds e he).symm.imp And.left id)
      · exact .inl (List.mem_singleton.mp he ▸ rfl)
  · rw [s.withdraw_eq n]
    have noted := ((s.settled n).released n).noted_notices (nodeStateEntry n .withdrawn)
    rw [show ((s.settled n).released n).port = (s.settled n).port from (congrArg State.port rest :)] at noted
    exact Port.noticesOnly_trans port noted
  · rw [s.withdraw_eq n]
    exact (State.noted_port (part.trans running) _).1

/-- What the withdrawals of a start do in the tables does not depend on the journal and the port. -/
theorem Displaced.replant {ds : List Node} {w x y : State} (h : Displaced ds w y) (same : w = { x with journal := w.journal, port := w.port }) :
    ∃ z, Displaced ds x z ∧ y = { z with journal := y.journal, port := y.port } := by
  generalize w.journal = journal at same
  generalize w.port = port at same
  subst same
  obtain ⟨rs, records, kinds, charges⟩ := h.records
  refine ⟨{ y with journal := x.journal.pushAll rs, port := x.port },
    ⟨⟨rs, ⟨records.time, rfl, .refl _⟩, kinds, charges⟩, h.pool, h.folios, h.rooms, h.nodes, h.lines, h.round, ?_⟩, rfl⟩
  rw [h.rest]

/-- The withdrawals of an image applied in RUNNING. -/
structure Withdrawn (ds : List Node) (s u : State) : Prop where
  tables : ∃ x, Displaced ds s x ∧ u = { x with journal := u.journal, port := u.port }
  moved : Moved (ds.map (fun n => movedRecord s.now n.addr n.enrol.point .withdrawn)) s u

theorem State.withdraws (ds : List Node) : ∀ s : State, Withdrawn ds s (ds.foldl (fun t n => t.withdraw n) s) := by
  induction ds with
  | nil => exact fun s => ⟨⟨s, .refl s, rfl⟩, .refl s⟩
  | cons d ds ih =>
    intro s
    obtain ⟨⟨x, displaced, tables⟩, moved⟩ := ih (s.withdraw d)
    have beside : s.withdraw d = { s.displace d with journal := (s.withdraw d).journal, port := (s.withdraw d).port } := by
      rw [s.withdraw_displace d]
    obtain ⟨z, later, whole⟩ := displaced.replant beside
    have one := s.withdraw_moved d
    rw [State.now_eq one.time] at moved
    refine ⟨⟨z, (s.displace_spec d).trans later, ?_⟩, one.trans moved⟩
    rw [List.foldl_cons, tables, whole]

end Sys2Proof.Machine

/-! O28: the enrolments and the fields of an image applied in RUNNING (11:R197). -/

namespace Sys2Proof.Machine

open Sys2Proof

/-! ### The enrolments -/

section Enrolments
variable {s : State} {r : EnrolReq} {es : List EnrolReq}

/-- The record of an enrolment (02:R25). -/
def enrolEntry (r : EnrolReq) : Entry :=
  { kind := .nodeState, node := some r.addr, point := some r.enrol.point, detail1 := some (.nodeState .absent) }

theorem State.enrolNew_held {n : Node} (held : s.node? r.addr = some n) : s.enrolNew r = s := by
  simp only [State.enrolNew, held]

theorem State.enrolNew_free (free : s.node? r.addr = none) : s.enrolNew r = (s.enrolled_ r).noted (enrolEntry r) := by
  simp only [State.enrolNew, free]
  rfl

theorem State.enrolledRecords_node? (s : State) (r : EnrolReq) : (s.enrolled_ r).node? r.addr = some (enrolledNode r s.revoc.gen true) := by
  rw [State.enrolled_, State.modNode_node? _ _ (Node.latchedAtEnrolment r) (fun _ => rfl), State.createNode_node?]
  rfl

theorem State.enrolledRecords_node?_ne (s : State) {a : Nat} (ne : a ≠ r.addr) : (s.enrolled_ r).node? a = s.node? a := by
  rw [State.enrolled_, State.modNode_node?_ne _ (Node.latchedAtEnrolment r) (fun _ => rfl) ne, State.node?, State.createNode_nodes]
  exact findKey_putKey_ne Node.addr (Node.fresh r s.revoc.gen) ne _

theorem State.createNode_rest (r : EnrolReq) (v : Nat) (s : State) : s.createNode r v = { s with
    nodes := (s.createNode r v).nodes, revoc := { s.revoc with rooms := (s.createNode r v).revoc.rooms }
    minibar := { s.minibar with folios := (s.createNode r v).minibar.folios } } := by
  unfold State.createNode
  dsimp only
  split <;> rfl

theorem State.enrolledRecords_rest (r : EnrolReq) (s : State) : s.enrolled_ r = { s with
    nodes := (s.enrolled_ r).nodes, revoc := { s.revoc with rooms := (s.enrolled_ r).revoc.rooms }
    minibar := { s.minibar with folios := (s.enrolled_ r).minibar.folios } } := by
  exact congrArg (State.modNode r.addr (Node.latchedAtEnrolment r)) (State.createNode_rest r s.now s)

/-- `u` holds what the enrolments `es` make of `s`, those of held addresses skipped. -/
structure EnrolledNew (es : List EnrolReq) (s u : State) : Prop where
  rest : u = { s with
    nodes := u.nodes, revoc := { s.revoc with rooms := u.revoc.rooms }, minibar := { s.minibar with folios := u.minibar.folios }
    journal := u.journal, port := u.port }
  rooms : ∀ p, (∀ r ∈ es, r.enrol.cls = .roomEntry → r.enrol.point = p → ∃ n, s.node? r.addr = some n) →
    u.room? p = s.room? p ∧ u.folio? p = s.folio? p
  held : ∀ a n, s.node? a = some n → u.node? a = some n
  others : ∀ a, (∀ r ∈ es, r.addr ≠ a) → u.node? a = s.node? a
  ascending : s.nodes.Pairwise (fun m n => m.addr < n.addr) → u.nodes.Pairwise (fun m n => m.addr < n.addr)

theorem EnrolledNew.refl (es : List EnrolReq) (s : State) : EnrolledNew es s s :=
  ⟨rfl, fun _ _ => ⟨rfl, rfl⟩, fun _ _ => id, fun _ _ => rfl, id⟩

theorem EnrolledNew.trans {as bs : List EnrolReq} {s t u : State} (h : EnrolledNew as s t) (g : EnrolledNew bs t u) :
    EnrolledNew (as ++ bs) s u := by
  refine ⟨?_, fun p all => ?_, fun a n held => g.held a n (h.held a n held), fun a away => ?_, fun asc => g.ascending (h.ascending asc)⟩
  · rw [g.rest, h.rest]
  · obtain ⟨room, folio⟩ := h.rooms p fun r hr => all r (by simp [hr])
    obtain ⟨room', folio'⟩ := g.rooms p fun r hr cls point => (all r (by simp [hr]) cls point).imp fun n => h.held _ n
    exact ⟨room'.trans room, folio'.trans folio⟩
  · exact (g.others a fun r hr => away r (by simp [hr])).trans (h.others a fun r hr => away r (by simp [hr]))

theorem State.enrolNew_one (r : EnrolReq) (s : State) : EnrolledNew [r] s (s.enrolNew r) := by
  cases found : s.node? r.addr with
  | some n =>
    rw [State.enrolNew_held found]
    exact .refl _ s
  | none =>
    rw [State.enrolNew_free found]
    have rest := State.enrolledRecords_rest r s
    refine ⟨?_, fun p all => ?_, fun a n held => ?_, fun a away => ?_, fun asc => ?_⟩
    · rw [State.noted_rest, rest]
    · have other (cls : r.enrol.cls = .roomEntry) : p ≠ r.enrol.point := by
        rintro rfl
        obtain ⟨n, hn⟩ := all r (by simp) cls rfl
        rw [found] at hn
        cases hn
      rw [State.noted_room?, State.noted_folio?]
      by_cases cls : r.enrol.cls = .roomEntry
      · exact (s.createNode_lookups r s.now).2 p (other cls)
      · obtain ⟨revoc, minibar⟩ := State.createNode_other cls s.now s
        exact ⟨State.room?_rooms (congrArg Revoc.rooms revoc) p, congrArg (fun m : Minibar => findKey Folio.point p m.folios) minibar⟩
    · rw [State.noted_node?, s.enrolledRecords_node?_ne, held]
      rintro rfl
      rw [found] at held
      cases held
    · rw [State.noted_node?, s.enrolledRecords_node?_ne (away r (by simp)).symm]
    · rw [State.noted_rest]
      refine ascending_map (f := fun m => if m.addr = r.addr then m.latchedAtEnrolment r else m) ?_ fun m _ => ?_
      · rw [State.createNode_nodes]
        exact putKey_ascending Node.addr asc
      · split <;> rfl

theorem State.enrolNews (es : List EnrolReq) : ∀ s : State, EnrolledNew es s (es.foldl State.enrolNew s) := by
  induction es with
  | nil => exact .refl []
  | cons r es ih => exact fun s => (s.enrolNew_one r).trans (ih (s.enrolNew r))

/-- The records of the enrolments made. -/
theorem State.enrolNews_moved (es : List EnrolReq) (once : es.Pairwise (fun q r => q.addr ≠ r.addr)) : ∀ s : State,
    Moved ((es.filter (fun r => (s.node? r.addr).isNone)).map (fun r => movedRecord s.now r.addr r.enrol.point (.nodeState .absent)))
      s (es.foldl State.enrolNew s) := by
  induction es with
  | nil => exact .refl
  | cons r es ih =>
    intro s
    obtain ⟨away, once⟩ := List.pairwise_cons.mp once
    have later := ih once (s.enrolNew r)
    have same : es.filter (fun q => ((s.enrolNew r).node? q.addr).isNone) = es.filter (fun q => (s.node? q.addr).isNone) :=
      List.filter_congr fun q hq => by rw [(s.enrolNew_one r).others q.addr (by simpa using away q hq)]
    rw [same] at later
    cases found : s.node? r.addr with
    | some n =>
      rw [State.enrolNew_held found] at later
      rw [List.foldl_cons, State.enrolNew_held found, List.filter_cons_of_neg (by simp [found])]
      exact later
    | none =>
      have rest := State.enrolledRecords_rest r s
      have one : Moved [movedRecord s.now r.addr r.enrol.point (.nodeState .absent)] s (s.enrolNew r) := by
        rw [State.enrolNew_free found]
        refine ⟨?_, ?_, ⟨[movedRecord s.now r.addr r.enrol.point (.nodeState .absent)], ?_, rfl, by simp [movedRecord]⟩, ?_,
          fun running _ => ?_, by simp⟩
        · rw [State.noted_rest, rest]
        · rw [State.noted_rest, rest]
        · rw [State.noted_rest, rest]
          rfl
        · have noted := (s.enrolled_ r).noted_notices (enrolEntry r)
          rw [show (s.enrolled_ r).port = s.port from (congrArg State.port rest :)] at noted
          exact noted
        · exact (State.noted_port ((congrArg State.part rest :).trans running) _).1
      rw [State.now_eq one.time] at later
      rw [List.filter_cons_of_pos (by simp [found])]
      exact one.trans later

/-- An enrolment of a free address among others. -/
theorem State.enrolNews_created (d : Described es) {qs : List EnrolReq} (perm : qs.Perm es) (hr : r ∈ es) (free : s.node? r.addr = none) :
    let u := qs.foldl State.enrolNew s
    u.node? r.addr = some (enrolledNode r s.revoc.gen true) ∧
    (r.enrol.cls = .roomEntry → u.room? r.enrol.point = some (Room.initial r.enrol.point s.now) ∧
      u.folio? r.enrol.point = some (Folio.initial r.enrol.point s.settings.defaultCeiling)) := by
  intro u
  obtain ⟨before, after, rfl⟩ := List.append_of_mem (perm.mem_iff.mpr hr)
  have once : (before ++ r :: after).Pairwise (fun q r => q.addr ≠ r.addr) :=
    perm.symm.pairwise (d.ascending.imp Nat.ne_of_lt) Ne.symm
  rw [List.pairwise_append, List.pairwise_cons] at once
  obtain ⟨-, ⟨later, -⟩, earlier⟩ := once
  have first := State.enrolNews before s
  obtain ⟨x, hx⟩ : ∃ x, x = before.foldl State.enrolNew s := ⟨_, rfl⟩
  rw [← hx] at first
  have still : x.node? r.addr = none := (first.others _ fun q hq => earlier q hq r (by simp)).trans free
  have whole : u = after.foldl State.enrolNew (x.enrolNew r) := by
    show (before ++ r :: after).foldl State.enrolNew s = _
    rw [List.foldl_append, List.foldl_cons, hx]
  have second := State.enrolNews after (x.enrolNew r)
  rw [← whole] at second
  have gen : x.revoc.gen = s.revoc.gen := (congrArg (fun x : State => x.revoc.gen) first.rest :)
  have now : x.now = s.now := (congrArg State.now first.rest :)
  have settings : x.settings = s.settings := (congrArg State.settings first.rest :)
  refine ⟨?_, fun entry => ?_⟩
  · refine second.held _ _ ?_
    rw [State.enrolNew_free still, State.noted_node?, State.enrolledRecords_node?, gen]
  · obtain ⟨room, folio⟩ := second.rooms r.enrol.point fun q hq _ point =>
      absurd (congrArg EnrolReq.addr (d.point q (perm.mem_iff.mp (by simp [hq])) r hr point)) (later q hq).symm
    obtain ⟨newRoom, newFolio⟩ := x.createNode_new_room x.now entry
    rw [room, folio, State.enrolNew_free still, State.noted_room?, State.noted_folio?, ← now, ← settings]
    exact ⟨newRoom, newFolio⟩

end Enrolments

/-! ### The fields -/

/-- The flag and the hours of an enrolment in a node's record (11:R197). -/
def Node.refielded (r : EnrolReq) (n : Node) : Node :=
  { n with
    enrol := { n.enrol with oos := r.enrol.oos, hours := r.enrol.hours }
    latchFallback := n.latchFallback || decide (n.enrol.oos ≠ r.enrol.oos ∨ n.enrol.hours ≠ r.enrol.hours) }

theorem State.refields (es : List EnrolReq) : ∀ s : State,
    es.foldl State.refield s = { s with nodes := (es.foldl State.refield s).nodes } ∧
    (s.nodes.Pairwise (fun m n => m.addr < n.addr) → (es.foldl State.refield s).nodes.Pairwise (fun m n => m.addr < n.addr)) ∧
    (∀ a, (∀ r ∈ es, r.addr ≠ a) → (es.foldl State.refield s).node? a = s.node? a) ∧
    (es.Pairwise (fun q r => q.addr ≠ r.addr) → ∀ r ∈ es,
      (es.foldl State.refield s).node? r.addr = (s.node? r.addr).map (Node.refielded r)) := by
  induction es with
  | nil => exact fun s => ⟨rfl, id, fun _ _ => rfl, by simp⟩
  | cons q es ih =>
    intro s
    obtain ⟨rest, ascending, others, each⟩ := ih (s.refield q)
    have ne {a : Nat} (h : a ≠ q.addr) : (s.refield q).node? a = s.node? a :=
      State.modNode_node?_ne s (Node.refielded q) (fun _ => rfl) h
    refine ⟨rest, fun asc => ascending (ascending_map asc fun m _ => by split <;> rfl), fun a away => ?_, fun once r hr => ?_⟩
    · exact (others a fun r hr => away r (by simp [hr])).trans (ne (away q (by simp)).symm)
    · obtain ⟨away, once⟩ := List.pairwise_cons.mp once
      obtain rfl | hr := List.mem_cons.mp hr
      · refine (others _ fun x hx => (away x hx).symm).trans ?_
        exact State.modNode_node? s r.addr (Node.refielded r) (fun _ => rfl)
      · exact (each once r hr).trans (by rw [ne (away r hr).symm])

end Sys2Proof.Machine

/-! O28: LOAD_SETTINGS stages and applies an image (11:R197). -/

namespace Sys2Proof.Machine

open Sys2Proof

/-! ### The settings replaced -/

/-- FALLBACK_PARAMS latched for a node where it is asked. -/
def Node.latchedIf (b : Bool) (n : Node) : Node := { n with latchFallback := n.latchFallback || b }

theorem Settings.withKeysOf_eq (old new : Settings) : old.withKeysOf new = { new with
    previousKey := if new.currentKey = old.currentKey then old.previousKey else old.currentKey } := by
  unfold Settings.withKeysOf
  split
  · rename_i same
    rw [← same]
  · rfl

theorem State.replaceSettings_eq (v : Settings) (s : State) : s.replaceSettings v = { s with
    loader := { s.loader with settings := s.settings.withKeysOf v }
    nodes := s.nodes.map (Node.latchedIf (decide (v.localOffset ≠ s.settings.localOffset))) } := by
  unfold State.replaceSettings
  dsimp only
  split
  · rename_i same
    have kept : Node.latchedIf false = id := funext fun n => by simp [Node.latchedIf]
    rw [decide_eq_false (not_not.mpr same.symm), kept, List.map_id]
  · rename_i differ
    have all : Node.latchedIf true = fun n => { n with latchFallback := true } := funext fun n => by simp [Node.latchedIf]
    rw [decide_eq_true (Ne.symm differ), all]
    rfl

/-! ### The tables after the withdrawals -/

section Applied
variable {s : State} {l : Loaded} {r : EnrolReq} {n : Node}

/-- The state of an image's application once its withdrawals are made. -/
def State.afterWithdrawals (l : Loaded) (s : State) : State :=
  (s.displaced l.enrolments).foldl (fun t n => t.withdraw n) (s.replaceSettings l.settings)

/-- The state of an image's application once its enrolments are made. -/
def State.afterEnrolments (l : Loaded) (s : State) : State := (roomsFirst l.enrolments).foldl State.enrolNew (s.afterWithdrawals l)

theorem State.applyImage_eq (l : Loaded) (s : State) : s.applyImage l = l.enrolments.foldl State.refield (s.afterEnrolments l) := rfl

theorem roomsFirst_perm (es : List EnrolReq) : (roomsFirst es).Perm es := List.filter_append_perm (fun r : EnrolReq => r.enrol.cls == PointClass.roomEntry) es

theorem State.afterWithdrawals_withdrawn (l : Loaded) (s : State) :
    Withdrawn (s.displaced l.enrolments) (s.replaceSettings l.settings) (s.afterWithdrawals l) := State.withdraws _ _

theorem State.afterWithdrawals_nodes (l : Loaded) (s : State) : (s.afterWithdrawals l).nodes
    = (((s.replaceSettings l.settings).nodes.filter (fun m => !(s.displaced l.enrolments).any (fun d => d.addr == m.addr))).map
      (Node.withoutFolios (s.displaced l.enrolments))) := by
  obtain ⟨x, displaced, whole⟩ := (s.afterWithdrawals_withdrawn l).tables
  exact (congrArg State.nodes whole :).trans displaced.nodes

theorem State.replaceSettings_ascending (v : Settings) (asc : s.nodes.Pairwise (fun m n => m.addr < n.addr)) :
    (s.replaceSettings v).nodes.Pairwise (fun m n => m.addr < n.addr) := by
  rw [State.replaceSettings_eq]
  exact ascending_map asc fun _ _ => rfl

theorem State.afterWithdrawals_ascending (l : Loaded) (asc : s.nodes.Pairwise (fun m n => m.addr < n.addr)) :
    (s.afterWithdrawals l).nodes.Pairwise (fun m n => m.addr < n.addr) := by
  rw [State.afterWithdrawals_nodes]
  exact ascending_map ((State.replaceSettings_ascending _ asc).filter _) fun _ _ => rfl

/-- A node that the image names alike stands through the withdrawals. -/
theorem State.afterWithdrawals_kept (asc : s.nodes.Pairwise (fun m n => m.addr < n.addr)) (hr : r ∈ l.enrolments) (hn : n ∈ s.nodes)
    (alike : n.enrolledAlike r) : (s.afterWithdrawals l).node? r.addr
      = some ((n.latchedIf (decide (l.settings.localOffset ≠ s.settings.localOffset))).withoutFolios (s.displaced l.enrolments)) := by
  rw [State.node?, State.afterWithdrawals_nodes, findKey_map Node.addr (Node.withoutFolios _) (fun _ => rfl),
    findKey_filter Node.addr (State.replaceSettings_ascending _ asc), State.replaceSettings_eq,
    findKey_map Node.addr (Node.latchedIf _) (fun _ => rfl), ← alike.1, findKey_of_mem Node.addr asc hn, Option.map_some]
  have stays : (s.displaced l.enrolments).any (fun d => d.addr == n.addr) = false := by
    refine List.any_eq_false.mpr fun d hd same => ?_
    obtain ⟨hd, none⟩ := State.mem_displaced.mp hd
    obtain rfl : d = n := eq_of_pairwise_ne Node.addr (asc.imp Nat.ne_of_lt) hd hn (eq_of_beq same)
    exact none r hr alike
  rw [Option.filter_some_pos (by rw [Node.latchedIf, stays]; rfl)]
  rfl

/-- An address that no node names alike is free after the withdrawals. -/
theorem State.afterWithdrawals_free (d : Described l.enrolments) (hr : r ∈ l.enrolments) (new : ∀ n ∈ s.nodes, ¬ n.enrolledAlike r) :
    (s.afterWithdrawals l).node? r.addr = none := by
  refine (findKey_none Node.addr).mpr fun m hm same => ?_
  obtain ⟨q, hq, addr, copy⟩ := State.withdrawAll_described (es := l.enrolments) l.settings m hm
  obtain rfl : q = r := eq_of_pairwise_ne EnrolReq.addr (d.ascending.imp Nat.ne_of_lt) hq hr (addr.trans same)
  obtain ⟨k, hk, addr', copy', -⟩ := State.withdrawAll_nodes _ _ m hm
  rw [State.replaceSettings_eq] at hk
  obtain ⟨n, hn, rfl⟩ := List.mem_map.mp hk
  exact new n hn ⟨addr'.trans addr.symm, copy'.trans copy.symm⟩

theorem State.afterWithdrawals_free_iff (d : Described l.enrolments) (asc : s.nodes.Pairwise (fun m n => m.addr < n.addr))
    (hr : r ∈ l.enrolments) : ((s.afterWithdrawals l).node? r.addr).isNone
      = !s.nodes.any (fun n => r.addr == n.addr && r.enrol.copy == n.copy) := by
  by_cases old : ∃ n ∈ s.nodes, n.enrolledAlike r
  · obtain ⟨n, hn, alike⟩ := old
    rw [State.afterWithdrawals_kept asc hr hn alike, List.any_eq_true.mpr ⟨n, hn, (n.enrolledAlike_iff r).mp alike⟩]
    rfl
  · rw [State.afterWithdrawals_free d hr fun n hn alike => old ⟨n, hn, alike⟩, List.any_eq_false.mpr fun n hn alike =>
      old ⟨n, hn, (n.enrolledAlike_iff r).mpr alike⟩]
    rfl

/-! ### The tables after the image is applied -/

theorem State.frame_of_phases {s t x w y u : State} (settings : t = { s with loader := t.loader, nodes := t.nodes })
    (displaced : x = { t with lines := x.lines, nodes := x.nodes, revoc := { t.revoc with rooms := x.revoc.rooms }
                              minibar := x.minibar, journal := x.journal, port := x.port })
    (withdrawn : w = { x with journal := w.journal, port := w.port })
    (enrolled : y = { w with nodes := y.nodes, revoc := { w.revoc with rooms := y.revoc.rooms }
                             minibar := { w.minibar with folios := y.minibar.folios }, journal := y.journal, port := y.port })
    (fields : u = { y with nodes := u.nodes }) :
    u = { s with loader := t.loader, lines := w.lines, nodes := u.nodes, revoc := { s.revoc with rooms := y.revoc.rooms }
                 minibar := { w.minibar with folios := y.minibar.folios }, journal := y.journal, port := y.port } := by
  rw [fields, enrolled, withdrawn, displaced, settings]

/-- The state after an image is applied, its tables apart. -/
theorem State.applyImage_rest (l : Loaded) (s : State) : s.applyImage l = { s with
    loader := { s.loader with settings := s.settings.withKeysOf l.settings }, lines := (s.afterWithdrawals l).lines
    nodes := (s.applyImage l).nodes, revoc := { s.revoc with rooms := (s.afterEnrolments l).revoc.rooms }
    minibar := { (s.afterWithdrawals l).minibar with folios := (s.afterEnrolments l).minibar.folios }
    journal := (s.afterEnrolments l).journal, port := (s.afterEnrolments l).port } := by
  obtain ⟨x, displaced, whole⟩ := (s.afterWithdrawals_withdrawn l).tables
  have replaced := State.replaceSettings_eq l.settings s
  have frame := State.frame_of_phases (by rw [replaced]) displaced.rest whole
    (State.enrolNews (roomsFirst l.enrolments) (s.afterWithdrawals l)).rest (State.refields l.enrolments (s.afterEnrolments l)).1
  refine frame.trans ?_
  rw [replaced]
  rfl

theorem State.applyImage_ascending (l : Loaded) (asc : s.nodes.Pairwise (fun m n => m.addr < n.addr)) :
    (s.applyImage l).nodes.Pairwise (fun m n => m.addr < n.addr) :=
  (State.refields _ _).2.1 ((State.enrolNews _ _).ascending (State.afterWithdrawals_ascending l asc))

theorem State.applyImage_described (l : Loaded) (s : State) : (s.applyImage l).describedBy l.enrolments := by
  have enrolled : ∀ (qs : List EnrolReq), (∀ q ∈ qs, q ∈ l.enrolments) → ∀ t : State, t.describedBy l.enrolments →
      (qs.foldl State.enrolNew t).describedBy l.enrolments := by
    intro qs
    induction qs with
    | nil => exact fun _ _ h => h
    | cons q qs ih => exact fun all t h => ih (fun x hx => all x (by simp [hx])) _ (State.enrolNew_described h (all q (by simp)))
  have fields : ∀ (qs : List EnrolReq) (t : State), t.describedBy l.enrolments → (qs.foldl State.refield t).describedBy l.enrolments := by
    intro qs
    induction qs with
    | nil => exact fun _ h => h
    | cons q qs ih => exact fun t h => ih _ (State.describedBy_modNode h q.addr (Node.refielded q) (fun _ => rfl) (fun _ => rfl))
  exact fields _ _ (enrolled _ (fun q hq => mem_roomsFirst hq) _ (State.withdrawAll_described (es := l.enrolments) l.settings))

/-- The record that a node enrolled alike before and after keeps. -/
def Node.reapplied (l : Loaded) (s : State) (r : EnrolReq) (n : Node) : Node :=
  ((n.latchedIf (decide (l.settings.localOffset ≠ s.settings.localOffset))).withoutFolios (s.displaced l.enrolments)).refielded r

theorem State.applyImage_kept (d : Described l.enrolments) (asc : s.nodes.Pairwise (fun m n => m.addr < n.addr)) (hr : r ∈ l.enrolments)
    (hn : n ∈ s.nodes) (alike : n.enrolledAlike r) : (s.applyImage l).node? r.addr = some (n.reapplied l s r) := by
  have fields := (State.refields l.enrolments (s.afterEnrolments l)).2.2.2 (d.ascending.imp Nat.ne_of_lt) r hr
  have stands := (State.enrolNews (roomsFirst l.enrolments) _).held _ _ (State.afterWithdrawals_kept asc hr hn alike)
  exact fields.trans (congrArg (Option.map (Node.refielded r)) stands)

/-- Such a record is the old one but for its enrolment fields, its latched FALLBACK_PARAMS and its session. -/
theorem Node.reapplied_eq (alike : n.enrolledAlike r) (copy : n.copy = n.enrol.copy) : n.reapplied l s r = { n with
    enrol := r.enrol
    latchFallback := n.latchFallback || decide (n.enrol.oos ≠ r.enrol.oos ∨ n.enrol.hours ≠ r.enrol.hours ∨
      l.settings.localOffset ≠ s.settings.localOffset)
    session := (n.reapplied l s r).session } := by
  have same : n.enrol.copy = r.enrol.copy := copy.symm.trans alike.2
  have enrol : { n.enrol with oos := r.enrol.oos, hours := r.enrol.hours } = r.enrol := by
    simp only [Enrolment.copy, EnrolCopy.mk.injEq] at same
    obtain ⟨point, cls, entry, comps⟩ := same
    dsimp only
    rw [point, cls, entry, comps]
  have latch : ((n.latchFallback || decide (l.settings.localOffset ≠ s.settings.localOffset)) ||
      decide (n.enrol.oos ≠ r.enrol.oos ∨ n.enrol.hours ≠ r.enrol.hours)) = (n.latchFallback ||
      decide (n.enrol.oos ≠ r.enrol.oos ∨ n.enrol.hours ≠ r.enrol.hours ∨ l.settings.localOffset ≠ s.settings.localOffset)) := by
    rw [Bool.or_assoc, ← Bool.decide_or]
    congr 2
    exact propext ⟨fun h => h.elim (fun h => .inr (.inr h)) fun h => h.imp_right .inl, fun h => h.elim (fun h => .inr (.inl h)) fun h =>
      h.symm.imp_right .inr⟩
  exact congrArg₂ (fun e b => ({ n with enrol := e, latchFallback := b, session := (n.reapplied l s r).session } : Node)) enrol latch

theorem Node.reapplied_keepsSession : n.keepsSession l.enrolments s (n.reapplied l s r) := by
  show (n.session.filter _ = n.session) ∨ n.session.filter _ = none ∧ _
  cases session : n.session with
  | none => exact .inl rfl
  | some x =>
    cases ends : (x.mode == .guest && (s.displaced l.enrolments).any (fun d => d.enrol.cls == .roomEntry && x.folio == some d.enrol.point)) with
    | false => exact .inl (Option.filter_some_pos (by rw [ends]; rfl))
    | true =>
      rw [Bool.and_eq_true, List.any_eq_true] at ends
      obtain ⟨guest, k, hk, named⟩ := ends
      obtain ⟨cls, folio⟩ := Bool.and_eq_true_iff.mp named
      obtain ⟨hk', none⟩ := State.mem_displaced.mp hk
      refine .inr ⟨Option.filter_some_neg ?_, x, k.enrol.point, rfl, eq_of_beq folio, k, hk', eq_of_beq cls, rfl, none⟩
      rw [Bool.not_eq_false', Bool.and_eq_true, List.any_eq_true]
      exact ⟨guest, k, hk, named⟩

/-- The room of a node enrolled alike before and after stands. -/
theorem State.applyImage_room (d : Described l.enrolments) (law : s.EnrolmentLaw) (copies : ∀ n ∈ s.nodes, n.copy = n.enrol.copy)
    (hr : r ∈ l.enrolments) (hn : n ∈ s.nodes) (alike : n.enrolledAlike r) :
    (s.applyImage l).room? r.enrol.point = s.room? r.enrol.point := by
  have point : n.enrol.point = r.enrol.point := congrArg EnrolCopy.point ((copies n hn).symm.trans alike.2)
  have points : s.nodes.Pairwise (fun m n => m.enrol.point ≠ n.enrol.point) := by
    have ok := law.whole
    simp only [enrolmentOk, Bool.and_eq_true, distinct_iff] at ok
    obtain ⟨⟨-, points⟩, -⟩ := ok
    exact (List.pairwise_map.mp points).imp fun ne => Ne.symm ne
  obtain ⟨x, displaced, whole⟩ := (s.afterWithdrawals_withdrawn l).tables
  have away : ∀ k ∈ s.displaced l.enrolments, k.enrol.cls = .roomEntry → k.enrol.point ≠ r.enrol.point := by
    intro k hk _ same
    obtain ⟨hk, none⟩ := State.mem_displaced.mp hk
    obtain rfl : k = n := eq_of_pairwise_ne (fun n => n.enrol.point) points hk hn (same.trans point.symm)
    exact none r hr alike
  have room : (s.afterWithdrawals l).room? r.enrol.point = s.room? r.enrol.point := by
    refine (State.room?_rooms (congrArg (fun t : State => t.revoc.rooms) whole :) _).trans ((displaced.rooms _ away).trans ?_)
    rw [State.replaceSettings_eq]
    rfl
  refine Eq.trans (State.room?_rooms (congrArg (fun t : State => t.revoc.rooms) (State.applyImage_rest l s)) _) ?_
  refine ((State.enrolNews (roomsFirst l.enrolments) (s.afterWithdrawals l)).rooms r.enrol.point fun q hq _ same => ?_).1.trans room
  obtain rfl := d.point q (mem_roomsFirst hq) r hr same
  exact ⟨_, State.afterWithdrawals_kept law.ascending hr hn alike⟩

end Applied

end Sys2Proof.Machine

/-! PROOF of O28. LOAD_SETTINGS stages and applies an image (11:R197). -/

namespace Sys2Proof.Machine

open Sys2Proof

section Applied
variable {s : State} {l : Loaded} {r : EnrolReq}

/-- The node of an image's new enrolment, its room and its folio. -/
theorem State.applyImage_created (d : Described l.enrolments) (hr : r ∈ l.enrolments) (new : ∀ n ∈ s.nodes, ¬ n.enrolledAlike r) :
    (s.applyImage l).node? r.addr = some (enrolledNode r s.revoc.gen true) ∧
    (r.enrol.cls = .roomEntry →
      (s.applyImage l).room? r.enrol.point = some (Room.initial r.enrol.point s.now) ∧
      (s.applyImage l).folio? r.enrol.point = some (Folio.initial r.enrol.point l.settings.defaultCeiling)) := by
  obtain ⟨x, displaced, whole⟩ := (s.afterWithdrawals_withdrawn l).tables
  have replaced := State.replaceSettings_eq l.settings s
  have gen : (s.afterWithdrawals l).revoc.gen = s.revoc.gen := by
    refine (congrArg (fun t : State => t.revoc.gen) whole :).trans ((congrArg (fun t : State => t.revoc.gen) displaced.rest :).trans ?_)
    rw [replaced]
  have now : (s.afterWithdrawals l).now = s.now := by
    refine (congrArg State.now whole :).trans ((congrArg State.now displaced.rest :).trans ?_)
    rw [replaced]
    rfl
  have ceiling : (s.afterWithdrawals l).settings.defaultCeiling = l.settings.defaultCeiling := by
    refine (congrArg (fun t : State => t.settings.defaultCeiling) whole :).trans
      ((congrArg (fun t : State => t.settings.defaultCeiling) displaced.rest :).trans ?_)
    rw [replaced]
    show (s.settings.withKeysOf l.settings).defaultCeiling = _
    rw [Settings.withKeysOf_eq]
  obtain ⟨node, tables⟩ := State.enrolNews_created (s := s.afterWithdrawals l) d (roomsFirst_perm l.enrolments) hr
    (State.afterWithdrawals_free d hr new)
  rw [gen] at node
  rw [now, ceiling] at tables
  obtain ⟨fields, -, -, each⟩ := State.refields l.enrolments (s.afterEnrolments l)
  refine ⟨(each (d.ascending.imp Nat.ne_of_lt) r hr).trans ((congrArg (Option.map (Node.refielded r)) node).trans ?_), fun entry => ?_⟩
  · exact congrArg some (by simp [Node.refielded, enrolledNode])
  · obtain ⟨room, folio⟩ := tables entry
    exact ⟨(State.room?_rooms (congrArg (fun t : State => t.revoc.rooms) fields :) _).trans room,
      (congrArg (fun t : State => t.folio? r.enrol.point) fields :).trans folio⟩

/-- An image applied in RUNNING leaves just its enrolments. -/
theorem State.applyImage_enrolled (d : Described l.enrolments) (asc : s.nodes.Pairwise (fun m n => m.addr < n.addr))
    (copies : ∀ n ∈ s.nodes, n.copy = n.enrol.copy) : (s.applyImage l).enrolled = l.enrolments := by
  refine State.enrolled_eq d (State.applyImage_ascending l asc) (State.applyImage_described l s) fun r hr => ?_
  by_cases old : ∃ n ∈ s.nodes, n.enrolledAlike r
  · obtain ⟨n, hn, alike⟩ := old
    refine ⟨_, State.applyImage_kept d asc hr hn alike, ?_⟩
    rw [Node.reapplied_eq alike (copies n hn)]
  · exact ⟨_, (State.applyImage_created d hr fun n hn alike => old ⟨n, hn, alike⟩).1, rfl⟩

/-- The NODE_STATE records of an image applied in RUNNING: the withdrawals, then the enrolments of the addresses then free. -/
theorem State.applyImage_moves (d : Described l.enrolments) (s : State) :
    Moved ((s.displaced l.enrolments).map (fun n => movedRecord s.now n.addr n.enrol.point .withdrawn)
      ++ ((roomsFirst l.enrolments).filter (fun r => ((s.afterWithdrawals l).node? r.addr).isNone)).map
        (fun r => movedRecord s.now r.addr r.enrol.point (.nodeState .absent))) s (s.applyImage l) := by
  have replaced := State.replaceSettings_eq l.settings s
  have left := (s.afterWithdrawals_withdrawn l).moved
  have now : (s.replaceSettings l.settings).now = s.now := by
    rw [replaced]
    rfl
  have once : (roomsFirst l.enrolments).Pairwise (fun q r => q.addr ≠ r.addr) :=
    (roomsFirst_perm l.enrolments).symm.pairwise (d.ascending.imp Nat.ne_of_lt) Ne.symm
  have made := State.enrolNews_moved (roomsFirst l.enrolments) once (s.afterWithdrawals l)
  rw [State.now_eq left.time, now] at made
  rw [now] at left
  have first : Moved [] s (s.replaceSettings l.settings) := by
    rw [replaced]
    exact ⟨rfl, rfl, ⟨[], rfl, rfl, by simp⟩, rfl, fun _ h => absurd rfl h, fun _ => ⟨rfl, rfl⟩⟩
  have last : Moved [] (s.afterEnrolments l) (s.applyImage l) := by
    have fields := (State.refields l.enrolments (s.afterEnrolments l)).1
    exact ⟨(congrArg State.time fields :), (congrArg State.part fields :), ⟨[], (congrArg State.journal fields :), rfl, by simp⟩,
      (congrArg (Port.noticesOnly (s.afterEnrolments l).port) (congrArg State.port fields :)).mpr rfl, fun _ h => absurd rfl h,
      fun _ => ⟨(congrArg State.port fields :), (congrArg State.lines fields :)⟩⟩
  have whole := (first.trans left).trans (made.trans last)
  rwa [List.nil_append, List.append_nil] at whole

/-- These are the enrolments that no node names alike, rooms first. -/
theorem State.applyImage_fresh (d : Described l.enrolments) (asc : s.nodes.Pairwise (fun m n => m.addr < n.addr)) :
    let fresh := l.enrolments.filter (fun r => !s.nodes.any (fun n => r.addr == n.addr && r.enrol.copy == n.copy))
    (roomsFirst l.enrolments).filter (fun r => ((s.afterWithdrawals l).node? r.addr).isNone)
      = fresh.filter (fun r => r.enrol.cls == .roomEntry) ++ fresh.filter (fun r => r.enrol.cls != .roomEntry) := by
  intro fresh
  rw [List.filter_congr fun r hr => State.afterWithdrawals_free_iff d asc (mem_roomsFirst hr), roomsFirst, List.filter_append]
  exact congrArg₂ (· ++ ·) (List.filter_comm ..) (List.filter_comm ..)

theorem State.loaded_eq {u : State} {loader : Loader} {lines : LineEngine} {revoc : Revoc} {minibar : Minibar} {journal : Journal} {port : Port}
    (rest : u = { s with loader := loader, lines := lines, nodes := u.nodes, revoc := revoc, minibar := minibar, journal := journal, port := port }) :
    let w := u.stage []
    w = { s with loader := w.loader, lines := w.lines, nodes := w.nodes, revoc := w.revoc, minibar := w.minibar, journal := w.journal
                 port := w.port } := by
  intro w
  simp only [w]
  rw [rest]
  rfl

end Applied

/-- Settles O28: the judgement by the first check that fails, then the phases of an image's application in their order. -/
theorem loadSettingsStagesAndApplies : Obligations.LoadSettingsStagesAndApplies := by
  unfold Obligations.LoadSettingsStagesAndApplies
  refine ⟨?_, fun img short => judgeStaged_under16 short, fun i => ?_, State.loadRefused_iff⟩
  · intro tag body s lo hi idle part
    have answers {u : State} {r : Reply} (gives : serveLoadSettings body s = (u, r)) :
        exec (.loadSettings tag body) s = .next (u.answer 0x03 tag false r) := exec_loadSettings part idle lo hi gives
    refine ⟨fun zero fill => answers (serveLoadSettings_offset zero fill), fun img is offset => ?_⟩
    have serves := serveLoadSettings_image is offset
    refine ⟨fun judged => answers (by rw [serves, judged]; rfl), fun judged => answers (by rw [serves, judged]; rfl),
      fun l running judged refused => answers ?_, fun l running judged allowed => ?_, fun l unconfigured judged => ?_⟩
    · rw [serves, judged]
      simp only [State.takeImage, running, refused]
      rfl
    · have d := Described.of_staged judged
      have rest := State.applyImage_rest l s
      refine ⟨(s.applyImage l).stage [], answers ?_, ?_, fun asc copies => ⟨?_, fun r hr n hn alike => ⟨⟨n.reapplied l s r, ?_, ?_, ?_⟩, fun law _ => ?_⟩,
        fun r hr new => ?_, ?_⟩, ?_, ?_⟩
      · rw [serves, judged]
        simp only [State.takeImage, running, allowed]
        rfl
      · have loader : (s.applyImage l).loader = { s.loader with settings := s.settings.withKeysOf l.settings } := (congrArg State.loader rest :)
        rw [State.stage, loader, Settings.withKeysOf_eq]
      · exact State.applyImage_enrolled d asc copies
      · exact State.applyImage_kept d asc hr hn alike
      · exact Node.reapplied_keepsSession
      · exact Node.reapplied_eq alike (copies n hn)
      · exact State.applyImage_room d law copies hr hn alike
      · exact State.applyImage_created d hr new
      · obtain ⟨-, -, journal, -, told, quiet⟩ := State.applyImage_moves d s
        rw [State.applyImage_fresh d asc] at journal told quiet
        intro alike left fresh ordered moved
        have none (h : fresh = []) : ordered = [] := by simp only [ordered, h, List.filter_nil, List.append_nil]
        have some (h : fresh ≠ []) : ordered ≠ [] := fun nothing => h (List.nil_perm.mp (nothing ▸ roomsFirst_perm fresh))
        refine ⟨journal, fun moves => told running fun nothing => ?_, fun noLeft noFresh => quiet ?_⟩
        · obtain ⟨noLeft, noFresh⟩ := List.append_eq_nil_iff.mp nothing
          exact moves.elim (fun h => h (List.map_eq_nil_iff.mp noLeft)) fun h => some h (List.map_eq_nil_iff.mp noFresh)
        · exact List.append_eq_nil_iff.mpr ⟨List.map_eq_nil_iff.mpr noLeft, List.map_eq_nil_iff.mpr (none noFresh)⟩
      · exact (State.applyImage_moves d s).port
      · exact State.loaded_eq rest
    · have d := Described.of_staged judged
      obtain ⟨running, loader, started⟩ := State.reachRunning_starts (startOrder_perm s) l (s.stage []).chose
      refine ⟨(s.stage []).chose.reachRunning s.startOrder l, answers ?_, running, ?_, ?_, started, fun offA offB round asc absent => ?_⟩
      · rw [serves, judged]
        simp only [State.takeImage, unconfigured]
        rfl
      · rw [State.settings, loader]
      · rw [loader]
        rfl
      · exact (State.reachRunning_reached (s := (s.stage []).chose) (startOrder_perm s) d offA offB round asc absent).of_loader rfl
  · intro v header
    refine ⟨judgeStaged_header i, judgeStaged_partial i, fun good whole => ?_⟩
    obtain ⟨refused, takes⟩ := judgeStaged_whole i good whole
    refine ⟨refused, fun body ends b cut => ?_⟩
    obtain ⟨fails, gives⟩ := takes body ends
    rw [← i.body_whole whole] at cut
    obtain ⟨bad, loads⟩ := loadBody_of b i.body cut
    refine ⟨fun h => fails (bad h), fun h => ?_⟩
    obtain ⟨l, load, gave⟩ := loads h
    exact ⟨l, gives l load, i.body_length (le_of_eq whole.symm) ▸ gave⟩

end Sys2Proof.Machine

/-! O39: states on which the items of an answer act alike (02:R36 steps 4 and 5). -/

namespace Sys2Proof.Machine

open Sys2Proof

/-! ### What the items of an answer look at -/

/-- A node record with the fields that no item and no decision looks at left out. -/
def Node.itemView (n : Node) : Node :=
  { n with st := .absent, joins := 0, good := 0, missed := 0, silent := 0, lastPres := none, cursor := ⟨0, 0, 0⟩, reload := .none
           fallback := .full, latchFallback := false, latchComp := false }

theorem Node.of_itemView {n k : Node} (h : k.itemView = n.itemView) : k = { n with
    st := k.st, joins := k.joins, good := k.good, missed := k.missed, silent := k.silent, lastPres := k.lastPres, cursor := k.cursor
    reload := k.reload, fallback := k.fallback, latchFallback := k.latchFallback, latchComp := k.latchComp } := by
  cases n
  cases k
  simpa [Node.itemView] using h

/-- Two states that agree in all that the items of node `a` and the decision on its presentation look at. -/
structure Alike (a : Nat) (v u : State) : Prop where
  part : v.part = u.part
  loader : v.loader = u.loader
  time : v.time = u.time
  store : v.store = u.store
  revoc : v.revoc = u.revoc
  minibar : v.minibar = u.minibar
  journal : v.journal = u.journal
  urgent : v.lines.urgent = u.lines.urgent
  enrolled : v.enrolled = u.enrolled
  node : (v.node? a).map Node.itemView = (u.node? a).map Node.itemView

section Alike
variable {a : Nat} {v u v' u' : State}

theorem Alike.refl (a : Nat) (v : State) : Alike a v v := ⟨rfl, rfl, rfl, rfl, rfl, rfl, rfl, rfl, rfl, rfl⟩

theorem Alike.symm (h : Alike a v u) : Alike a u v :=
  ⟨h.part.symm, h.loader.symm, h.time.symm, h.store.symm, h.revoc.symm, h.minibar.symm, h.journal.symm, h.urgent.symm, h.enrolled.symm, h.node.symm⟩

theorem Alike.now (h : Alike a v u) : v.now = u.now := State.now_eq h.time

/-- The node in both states: the records differ in fields that no item looks at. -/
theorem Alike.node_of (h : Alike a v u) {n : Node} (hn : v.node? a = some n) : ∃ k, u.node? a = some k ∧ k.itemView = n.itemView := by
  have same := h.node
  rw [hn] at same
  obtain ⟨k, hk, view⟩ := Option.map_eq_some_iff.mp same.symm
  exact ⟨k, hk, view⟩

theorem Alike.append (h : Alike a v u) (e : Entry) : Alike a (v.append e) (u.append e) where
  part := by simpa using h.part
  loader := by simpa using h.loader
  time := by simpa using h.time
  store := by simpa using h.store
  revoc := by simpa using h.revoc
  minibar := by simpa using h.minibar
  journal := by rw [State.append_journal, State.append_journal, h.journal, h.now]
  urgent := by simpa using h.urgent
  enrolled := by rw [State.append_enrolled, State.append_enrolled, h.enrolled]
  node := by simpa [State.node?] using h.node

theorem Alike.raise (h : Alike a v u) (k : NoticeKind) : Alike a (v.raise k) (u.raise k) where
  part := by simpa using h.part
  loader := by simpa using h.loader
  time := by simpa using h.time
  store := by simpa using h.store
  revoc := by simpa using h.revoc
  minibar := by simpa using h.minibar
  journal := by simpa using h.journal
  urgent := by simpa using h.urgent
  enrolled := by simpa [State.enrolled] using h.enrolled
  node := by simpa [State.node?] using h.node

theorem Alike.alarmIf (h : Alike a v u) (b : Bool) : Alike a (v.alarmIf b) (u.alarmIf b) := by
  unfold State.alarmIf
  split
  · exact h.raise .alarm
  · exact h

theorem Alike.setMinibar (h : Alike a v u) (m : Minibar) : Alike a { v with minibar := m } { u with minibar := m } :=
  { h with minibar := rfl }

theorem Alike.setStore (h : Alike a v u) (c : Store) : Alike a { v with store := c } { u with store := c } :=
  { h with store := rfl }

theorem Alike.modNode (h : Alike a v u) {f : Node → Node} (enrol : ∀ x, (f x).addr = x.addr ∧ (f x).enrol = x.enrol)
    (view : ∀ x, (f x).itemView = (f x.itemView).itemView) : Alike a (v.modNode a f) (u.modNode a f) :=
  { h with
    enrolled := by rw [State.enrolled_modNode _ _ _ enrol, State.enrolled_modNode _ _ _ enrol, h.enrolled]
    node := by
      have factors : Node.itemView ∘ f = (Node.itemView ∘ f) ∘ Node.itemView := funext view
      rw [State.modNode_node? _ _ f (fun x => (enrol x).1), State.modNode_node? _ _ f (fun x => (enrol x).1), Option.map_map,
        Option.map_map, factors, ← Option.map_map, h.node, Option.map_map] }

theorem Alike.setPool (h : Alike a v u) (p : List ChargeLine) : Alike a (v.setPool p) (u.setPool p) := by
  rw [State.setPool, State.setPool, h.minibar]
  exact h.setMinibar _

theorem Alike.modFolio (h : Alike a v u) (p : Nat) (f : Folio → Folio) : Alike a (v.modFolio p f) (u.modFolio p f) := by
  rw [State.modFolio, State.modFolio, h.minibar]
  exact h.setMinibar _

theorem Alike.folio? (h : Alike a v u) (p : Nat) : v.folio? p = u.folio? p := State.folio?_congr h.minibar p

theorem Alike.lineFor? (h : Alike a v u) (x c : Nat) : v.lineFor? x c = u.lineFor? x c := by
  rw [State.lineFor?, h.minibar]
  rfl

theorem Alike.folioHeld (h : Alike a v u) (p : Nat) : v.folioHeld p = u.folioHeld p := by
  rw [State.folioHeld, h.folio?]
  rfl

theorem Alike.pointOf (h : Alike a v u) (x : Nat) : v.pointOf x = u.pointOf x := State.pointOf_congr h.enrolled x

theorem Alike.settings (h : Alike a v u) : v.settings = u.settings := congrArg Loader.settings h.loader

/-! ### Charges -/

theorem Alike.judgeHeld (h : Alike a v u) (p : Nat) (b : Bool) : Alike a (v.judgeHeld p b) (u.judgeHeld p b) := by
  unfold State.judgeHeld
  rw [h.folio?, State.roomNode_congr h.enrolled]
  split
  · split
    · exact h.append _
    · exact h
  · exact h

theorem Alike.commitLine (h : Alike a v u) (l : ChargeLine) : Alike a (v.commitLine l) (u.commitLine l) := by
  unfold State.commitLine
  rw [h.minibar, h.pointOf]
  exact ((h.setPool _).modFolio _ _).append _

theorem Alike.chargeNow (h : Alike a v u) (l : ChargeLine) : Alike a (v.chargeNow l) (u.chargeNow l) := by
  unfold State.chargeNow
  rw [h.pointOf]
  exact (h.modFolio _ _).append _

theorem Alike.setLine (h : Alike a v u) (old new : ChargeLine) : Alike a (v.setLine old new) (u.setLine old new) := by
  unfold State.setLine
  rw [h.minibar]
  exact (h.setPool _).modFolio _ _

theorem Alike.cancelLine (h : Alike a v u) (l : ChargeLine) : Alike a (v.cancelLine l) (u.cancelLine l) := by
  unfold State.cancelLine
  rw [h.minibar]
  exact (h.setPool _).modFolio _ _

theorem Alike.makeLineRoom (h : Alike a v u) : Alike a v.makeLineRoom u.makeLineRoom := by
  unfold State.makeLineRoom
  rw [h.minibar]
  split
  · split
    · exact h.commitLine _
    · exact h
  · exact h

theorem Alike.charge (h : Alike a v u) (p x c n price item : Nat) : Alike a (v.charge p x c n price item) (u.charge p x c n price item) := by
  rw [State.charge_eq, State.charge_eq, h.lineFor?, h.folioHeld]
  cases u.lineFor? x c with
  | some l => exact (h.setLine _ _).judgeHeld _ _
  | none =>
    dsimp only
    rw [h.settings, h.now, h.makeLineRoom.minibar]
    split
    · exact (h.chargeNow _).judgeHeld _ _
    · exact ((h.makeLineRoom.setPool _).modFolio _ _).judgeHeld _ _

theorem Alike.giveBack (h : Alike a v u) (x c n price : Nat) (cred : Option Nat) :
    Alike a (v.giveBack x c n price cred) (u.giveBack x c n price cred) := by
  unfold State.giveBack
  rw [h.lineFor?, h.pointOf]
  cases u.lineFor? x c with
  | some l =>
    dsimp only
    split
    · exact h.cancelLine l
    · exact h.setLine _ _
  | none => exact h.append _

/-! ### The items -/

variable {n : Node}

/-- A change of stock, a clamp recorded. -/
theorem Alike.stockFall (h : Alike a v u) (here : n.addr = a) (c k : Nat) : Alike a (v.stockFall n c k) (u.stockFall n c k) := by
  subst here
  have set := h.modNode (f := Node.setStock c ((n.comp c).stock - k)) (fun _ => ⟨rfl, rfl⟩) (fun _ => rfl)
  unfold State.stockFall State.stockAnomaly
  dsimp only
  rw [set.pointOf]
  split
  · exact set.append _
  · exact set

theorem Alike.stockRise (h : Alike a v u) (here : n.addr = a) (c k : Nat) : Alike a (v.stockRise n c k) (u.stockRise n c k) := by
  subst here
  have set := h.modNode (f := Node.setStock c (min (n.comp c).capacity ((n.comp c).stock + k))) (fun _ => ⟨rfl, rfl⟩) (fun _ => rfl)
  unfold State.stockRise State.stockAnomaly
  dsimp only
  rw [set.pointOf]
  split
  · exact set.append _
  · exact set

theorem Alike.openFolio? (h : Alike a v u) (entry : Option Nat) : v.openFolio? entry = u.openFolio? entry := by
  simp only [State.openFolio?, h.folio?]

theorem Alike.removedItem (h : Alike a v u) (here : n.addr = a) (c k : Nat) : Alike a (v.removedItem n c k) (u.removedItem n c k) := by
  have fall := h.stockFall here c k
  unfold State.removedItem
  dsimp only
  split
  · split
    · exact fall.charge ..
    · exact fall
  · rw [fall.pointOf]
    have noted := fall.append
      { kind := .unattendedRemoval, node := some n.addr, point := (u.stockFall n c k).pointOf n.addr, value1 := some c, value2 := some k }
    rw [noted.openFolio?]
    split
    · exact noted.charge ..
    · exact noted

theorem Alike.returnedItem (h : Alike a v u) (here : n.addr = a) (c k : Nat) : Alike a (v.returnedItem n c k) (u.returnedItem n c k) := by
  have rise := h.stockRise here c k
  unfold State.returnedItem
  dsimp only
  split
  · split
    · exact rise.giveBack ..
    · exact rise
  · exact rise.giveBack ..

theorem Alike.doorAlarm (h : Alike a v u) (kind : RecKind) : Alike a (v.doorAlarm kind a) (u.doorAlarm kind a) := by
  unfold State.doorAlarm
  rw [h.pointOf]
  exact (h.append _).raise _

theorem Alike.judgePermit (h : Alike a v u) (hn : v.node? a = some n) {k : Node} (hk : u.node? a = some k) (view : k.itemView = n.itemView) :
    Alike a (v.judgePermit a) (u.judgePermit a) := by
  have upload : k.upload = n.upload := (congrArg Node.upload view :)
  have permit : k.permit = n.permit := (congrArg Node.permit view :)
  simp only [State.judgePermit, hn, hk, upload, permit, h.journal]
  split
  · exact h.modNode (f := fun n => { n with permit := .latched, latchPermit := true }) (fun _ => ⟨rfl, rfl⟩) (fun _ => rfl)
  · exact h

theorem Alike.closePermit (h : Alike a v u) (hn : v.node? a = some n) : Alike a (v.closePermit a) (u.closePermit a) := by
  have closed := h.modNode (f := fun n => { n with permit := .none }) (fun _ => ⟨rfl, rfl⟩) (fun _ => rfl)
  have here := State.modNode_node? v a (fun n => { n with permit := .none }) (fun _ => rfl)
  rw [hn] at here
  obtain ⟨k, hk, view⟩ := closed.node_of here
  exact closed.judgePermit here hk view

/-- What an audit looks at besides the node. -/
theorem Alike.audit (h : Alike a v u) (n : Node) (r : OfflineRecord) (time : RecordTime) : v.audit n r time = u.audit n r time := by
  obtain ⟨-, loader, -, store, revoc, -⟩ := h
  cases v
  cases u
  cases loader
  cases store
  cases revoc
  rfl

theorem Alike.recordTaken (h : Alike a v u) (n : Node) (k : Nat) (r : OfflineRecord) (time : RecordTime) :
    Alike a (v.recordTaken a k n r time) (u.recordTaken a k n r time) := by
  unfold State.recordTaken
  rw [h.audit]
  exact ((h.modNode (f := Node.received1 k) (fun _ => ⟨rfl, rfl⟩) (fun _ => rfl)).append _).alarmIf _

/-- An offline record looks at nothing but the view of the node (07:R137). -/
theorem Alike.offlineRecord (h : Alike a v u) (hn : v.node? a = some n) {k : Node} (hk : u.node? a = some k) (view : k.itemView = n.itemView)
    (r : OfflineRecord) : Alike a (v.offlineRecord a r) (u.offlineRecord a r) := by
  have upload : k.upload = n.upload := (congrArg Node.upload view :)
  have permit : k.permit = n.permit := (congrArg Node.permit view :)
  by_cases takes : ∃ up j, n.upload = some up ∧ n.permit = .opened (j + 1)
  · obtain ⟨up, j, held, opened⟩ := takes
    have clock : k.clock = n.clock := (congrArg Node.clock view :)
    have same : u.recordTaken a j k r (up.timeOf n.clock r.stamp.toNat) = u.recordTaken a j n r (up.timeOf n.clock r.stamp.toNat) := by
      rw [Node.of_itemView view]
      rfl
    rw [State.offlineRecord_taken hn held opened, State.offlineRecord_taken hk (upload.trans held) (permit.trans opened), clock, same]
    have taken := h.recordTaken n j r (up.timeOf n.clock r.stamp.toNat)
    split
    · exact taken.closePermit (State.recordTaken_node hn _).1
    · exact taken
  · have idle : n.upload = none ∨ ∀ j, n.permit ≠ .opened (j + 1) := by
      cases held : n.upload with
      | none => exact .inl rfl
      | some up => exact .inr fun j opened => takes ⟨up, j, held, opened⟩
    rw [State.offlineRecord_idle hn idle, State.offlineRecord_idle hk (by rw [upload, permit]; exact idle)]
    exact h

theorem Alike.localDecision (h : Alike a v u) (hn : v.node? a = some n) {k : Node} (hk : u.node? a = some k) (view : k.itemView = n.itemView)
    (p : Nat) (granted : Bool) : Alike a (v.localDecision a p granted) (u.localDecision a p granted) := by
  have memory : k.memory = n.memory := (congrArg Node.memory view :)
  have enrol : k.enrol = n.enrol := (congrArg Node.enrol view :)
  simp only [State.localDecision, hn, hk, memory, enrol]
  split
  · exact h.append _
  · split
    · exact h
    · exact ((h.modNode (f := fun n => { n with memory := markReported p n.memory }) (fun _ => ⟨rfl, rfl⟩) (fun _ => rfl)).append _).alarmIf _

/-- An item acts alike on states that agree in what it looks at. -/
theorem Alike.item (h : Alike a v u) (i : Item) : Alike a (v.item a i) (u.item a i) := by
  cases hn : v.node? a with
  | none =>
    have none := h.node
    rw [hn] at none
    simp only [State.item, hn, Option.map_eq_none_iff.mp none.symm]
    exact h
  | some n =>
    obtain ⟨k, hk, view⟩ := h.node_of hn
    have addr : n.addr = a := (findKey_some Node.addr hn).1
    have whole := Node.of_itemView view
    cases i with
    | forcedOpen =>
      simp only [State.item, hn, hk]
      exact h.doorAlarm _
    | heldOpen =>
      simp only [State.item, hn, hk]
      exact h.doorAlarm _
    | localDecision p granted =>
      simp only [State.item, hn, hk]
      exact h.localDecision hn hk view _ _
    | removed c j =>
      simp only [State.item, hn, hk]
      have takes : k.takesComp c.toNat = n.takesComp c.toNat := by rw [whole]; rfl
      have removes : u.removedItem k c.toNat j.toNat = u.removedItem n c.toNat j.toNat := by rw [whole]; rfl
      rw [takes, removes]
      split
      · exact h.removedItem addr _ _
      · exact h
    | returned c j =>
      simp only [State.item, hn, hk]
      have takes : k.takesComp c.toNat = n.takesComp c.toNat := by rw [whole]; rfl
      have returns : u.returnedItem k c.toNat j.toNat = u.returnedItem n c.toNat j.toNat := by rw [whole]; rfl
      rw [takes, returns]
      split
      · exact h.returnedItem addr _ _
      · exact h
    | minibarClosed =>
      have cls : k.enrol.cls = n.enrol.cls := (congrArg (fun x : Node => x.enrol.cls) view :)
      rw [State.item_closed hn, State.item_closed hk, cls]
      split
      · exact h.modNode (fun _ => ⟨rfl, rfl⟩) (fun _ => rfl)
      · exact h
    | offlineRecord r =>
      simp only [State.item, hn, hk]
      exact h.offlineRecord hn hk view r

theorem Alike.items (items : List Item) : ∀ {v u : State}, Alike a v u → Alike a (items.foldl (State.item a) v) (items.foldl (State.item a) u) := by
  induction items with
  | nil => exact fun h => h
  | cons i items ih => exact fun h => ih (h.item i)

/-! ### The decision on a presentation -/

theorem Alike.evaluate (h : Alike a v u) (n : Node) (p : Presentation) (t : Nat) : v.evaluate n p t = u.evaluate n p t := by
  obtain ⟨-, loader, -, store, revoc, minibar, -⟩ := h
  cases v
  cases u
  cases loader
  cases store
  cases revoc
  cases minibar
  rfl

theorem Alike.decisionLate (h : Alike a v u) (d : Decision) : Alike a (v.decisionLate d) (u.decisionLate d) := h.append _

theorem Alike.offerDecision (h : Alike a v u) (d : Decision) : Alike a (v.offerDecision d) (u.offerDecision d) := by
  unfold State.offerDecision
  rw [h.urgent]
  split
  · exact h.decisionLate d
  · exact { h with urgent := congrArg (· ++ [Urgent.decision d]) h.urgent }

theorem Alike.modCred (h : Alike a v u) (k : Nat) (f : Cred → Cred) : Alike a (v.modCred k f) (u.modCred k f) := by
  rw [State.modCred, State.modCred, h.store]
  exact h.setStore _

theorem Alike.decideAdmission (h : Alike a v u) (p : Presentation) (origin : Nat) :
    Alike a (v.decideAdmission a p origin) (u.decideAdmission a p origin) := by
  cases hn : v.node? a with
  | none =>
    have none := h.node
    rw [hn] at none
    simp only [State.decideAdmission, hn, Option.map_eq_none_iff.mp none.symm]
    exact h
  | some n =>
    obtain ⟨k, hk, view⟩ := h.node_of hn
    have enrol : k.enrol = n.enrol := (congrArg Node.enrol view :)
    have same : u.evaluate k p u.now = u.evaluate n p u.now := by
      rw [Node.of_itemView view]
      rfl
    simp only [State.decideAdmission, hn, hk, h.evaluate, h.now, enrol, same]
    refine Alike.offerDecision (Alike.modNode (f := Node.remember _) ?_ (fun _ => ⟨rfl, rfl⟩) (fun _ => rfl)) _
    split
    · exact h.modCred _ _
    · exact h

end Alike

end Sys2Proof.Machine

/-! O39: what a good answer makes of its node's record ahead of its items (02:R32, R36, R38, 03:R51, 05:R106, R110). -/

namespace Sys2Proof.Machine

open Sys2Proof

/-! ### One node turned -/

/-- Node `a` holds the record `m` in `u`; records `rs` stand, NODE_CHANGE is raised where `b` says so, and nothing else changes. -/
structure NodeTurned (a : Nat) (m : Node) (rs : List (Nat × Entry)) (b : Bool) (s u : State) : Prop where
  node : u.node? a = some m
  others : ∀ x, x ≠ a → u.node? x = s.node? x
  enrolled : u.enrolled = s.enrolled
  journal : u.journal = s.journal.pushAll rs
  arm : u.port.arm.nodeChange = (s.port.arm.nodeChange && !b)
  port : Port.noticesOnly s.port u.port
  rest : u = { s with nodes := u.nodes, journal := u.journal, port := u.port }

section Turned
variable {a : Nat} {n m k : Node} {s t u : State} {rs ts : List (Nat × Entry)} {b c : Bool}

theorem NodeTurned.refl (hn : s.node? a = some n) : NodeTurned a n [] false s s :=
  ⟨hn, fun _ _ => rfl, rfl, rfl, by simp, rfl, rfl⟩

theorem NodeTurned.trans (h : NodeTurned a m rs b s t) (g : NodeTurned a k ts c t u) : NodeTurned a k (rs ++ ts) (b || c) s u where
  node := g.node
  others := fun x ne => (g.others x ne).trans (h.others x ne)
  enrolled := g.enrolled.trans h.enrolled
  journal := by rw [g.journal, h.journal, Journal.pushAll_append]
  arm := by rw [g.arm, h.arm, Bool.and_assoc, Bool.not_or]
  port := Port.noticesOnly_trans h.port g.port
  rest := State.moved_frame h.rest g.rest

/-- Further acts that write nothing and raise NODE_CHANGE where `c` says so. -/
theorem NodeTurned.andThen (h : NodeTurned a m rs b s t) (g : NodeTurned a k [] c t u) : NodeTurned a k rs (b || c) s u :=
  List.append_nil rs ▸ h.trans g

theorem NodeTurned.flagged (h : NodeTurned a m rs b s u) (same : b = c) : NodeTurned a m rs c s u := same ▸ h

theorem NodeTurned.modNode (hn : s.node? a = some n) (f : Node → Node) (keeps : ∀ x, (f x).addr = x.addr ∧ (f x).enrol = x.enrol) :
    NodeTurned a (f n) [] false s (s.modNode a f) where
  node := by rw [State.modNode_node? s a f fun x => (keeps x).1, hn]; rfl
  others := fun x ne => State.modNode_node?_ne s f (fun x => (keeps x).1) ne
  enrolled := State.enrolled_modNode s a f keeps
  journal := rfl
  arm := by simp
  port := rfl
  rest := rfl

theorem NodeTurned.raiseIf (hn : s.node? a = some n) (running : s.part = .running) (c : Bool) :
    NodeTurned a n [] c s (s.nodeChangeIf c) := by
  cases c with
  | false => exact .refl hn
  | true =>
    exact
      { node := by rw [State.node?, State.nodeChangeIf, if_pos rfl, State.raise_nodes]; exact hn
        others := fun x _ => by rw [State.node?, State.nodeChangeIf, if_pos rfl, State.raise_nodes]; rfl
        enrolled := State.enrolled_of_nodes (State.raise_nodes _ _)
        journal := State.raise_journal _ _
        arm := (State.raise_nodeChange running).trans (by simp)
        port := (State.raise_noticed _ _).notices
        rest := State.eq_of_fields (nodes := rfl) (journal := rfl) (port := rfl) (part := State.raise_part _ _) (supply := State.raise_supply _ _)
          (pending := State.raise_pending _ _) (loader := State.raise_loader _ _) (time := State.raise_time _ _) (lines := State.raise_lines _ _)
          (inviter := State.raise_inviter _ _) (store := State.raise_store _ _) (revoc := State.raise_revoc _ _)
          (minibar := State.raise_minibar _ _) (choices := State.raise_choices _ _) }

theorem NodeTurned.part (h : NodeTurned a m rs b s u) : u.part = s.part := (congrArg State.part h.rest :)

theorem Node.enter_keeps (st : NodeState) (x : Node) : (x.enter st).addr = x.addr ∧ (x.enter st).enrol = x.enrol :=
  ⟨(x.enter_shape st).1.addr, (x.enter_shape st).1.enrol⟩

/-- A record written that has no time of its own. -/
theorem NodeTurned.append (hn : s.node? a = some n) {e : Entry} (clock : e.secs = none) : NodeTurned a n [(s.now, e)] false s (s.append e) where
  node := by simpa [State.node?] using hn
  others := fun x _ => by simp [State.node?]
  enrolled := State.append_enrolled _ _
  journal := by rw [State.append_journal, clock]; rfl
  arm := by simp [State.append_nodeChange]
  port := (s.append_noticed e).notices
  rest := State.eq_of_fields (journal := rfl) (port := rfl)

/-- A change of the node's state (02:R29). -/
theorem NodeTurned.changeNode (hn : s.node? a = some n) {st : NodeState} (ne : n.st ≠ st) (running : s.part = .running) :
    NodeTurned a (n.enter st) [(s.now, nodeStateEntry n (.nodeState st))] true s (s.changeNode a st) := by
  rw [State.changeNode_eq hn ne]
  have entered := NodeTurned.modNode hn (Node.enter st) (Node.enter_keeps st)
  have noted := entered.trans (.append entered.node (e := nodeStateEntry n (.nodeState st)) rfl)
  exact noted.andThen (.raiseIf noted.node (noted.part.trans running) true)

end Turned

/-! ### The state rule and the status bits (02:R34, R38) -/

/-- The record that the state rule of a good answer leaves (02 Table 2.4). -/
def Node.answered (n : Node) : Node :=
  match n.st with
  | .silent => (n.enter .probation).counts 1 0 0
  | _ => n.counts (satAdd 255 n.good 1) 0 n.silent

/-- The NODE_STATE record of an answer of a SILENT node. -/
def Node.returnRecords (n : Node) (now : Nat) : List (Nat × Entry) :=
  if n.st = .silent then [(now, nodeStateEntry n (.nodeState .probation))] else []

/-- The status bits held, clear where none are. -/
def Node.heldStatus (n : Node) : StatusBits := n.status.getD StatusBits.clear

/-- Cache lost is newly set. -/
def Node.losesCache (n : Node) (b : StatusBits) : Bool := b.cacheLost && !n.heldStatus.cacheLost

/-- A node record with the status bits of an answer (02:R38). -/
def Node.withStatus (b : StatusBits) (n : Node) : Node :=
  { n with status := some b, reload := if n.losesCache b then .marked else n.reload }

section Settled
variable {a : Nat} {n : Node} {s : State}

theorem Node.enter_probation {n : Node} (silent : n.st = .silent) : n.enter .probation = { n with
    st := .probation, latchFallback := true, latchComp := n.latchComp || n.enrol.cls == .minibar, permit := .none, received := 0 } := by
  obtain ⟨_, _, st, _, _, _, _, _, _, _, _, _, _, _, _, _, _, _, _, _, _, _, _⟩ := n
  obtain rfl : st = .silent := silent
  rfl

theorem NodeTurned.goodAnswerState (hn : s.node? n.addr = some n) (window : n.st.hasWindow = true) (running : s.part = .running) :
    NodeTurned n.addr n.answered (n.returnRecords s.now) (decide (n.st = .silent)) s (s.goodAnswerState n) := by
  unfold State.goodAnswerState Node.answered Node.returnRecords
  obtain st | st | st := Node.hasWindow_cases window <;> simp only [st]
  · exact .modNode hn (Node.counts (satAdd 255 n.good 1) 0 n.silent) fun _ => ⟨rfl, rfl⟩
  · exact .modNode hn (Node.counts (satAdd 255 n.good 1) 0 n.silent) fun _ => ⟨rfl, rfl⟩
  · have entered := NodeTurned.changeNode hn (st := .probation) (by rw [st]; simp) running
    exact entered.andThen (.modNode entered.node (Node.counts 1 0 0) fun _ => ⟨rfl, rfl⟩)

theorem NodeTurned.storeStatus (hn : s.node? a = some n) (running : s.part = .running) (b : StatusBits) :
    NodeTurned a (n.withStatus b) [] ((n.heldStatus.batteryLow != b.batteryLow || n.heldStatus.fallbackActive != b.fallbackActive)
      || n.losesCache b) s (s.storeStatus a b) := by
  have stored := NodeTurned.modNode hn (fun n => { n with status := some b }) fun _ => ⟨rfl, rfl⟩
  have changed := stored.andThen (.raiseIf stored.node running
    (n.heldStatus.batteryLow != b.batteryLow || n.heldStatus.fallbackActive != b.fallbackActive))
  have acts : s.storeStatus a b = if n.losesCache b = true then (((s.modNode a (fun n => { n with status := some b })).nodeChangeIf
      (n.heldStatus.batteryLow != b.batteryLow || n.heldStatus.fallbackActive != b.fallbackActive)).raise .nodeChange).markReload a
      else (s.modNode a (fun n => { n with status := some b })).nodeChangeIf
        (n.heldStatus.batteryLow != b.batteryLow || n.heldStatus.fallbackActive != b.fallbackActive) := by
    simp only [State.storeStatus, hn]
    rfl
  rw [acts]
  cases lost : n.losesCache b with
  | false =>
    have kept : n.withStatus b = { n with status := some b } := by rw [Node.withStatus, lost]; rfl
    rw [kept, if_neg Bool.false_ne_true, Bool.or_false]
    exact changed
  | true =>
    have marked : n.withStatus b = ({ n with status := some b } : Node).marked := by rw [Node.withStatus, lost]; rfl
    have raised := changed.andThen (.raiseIf changed.node (changed.part.trans running) true)
    rw [marked, if_pos rfl]
    exact (raised.andThen (.modNode raised.node Node.marked fun _ => ⟨rfl, rfl⟩)).flagged (by simp)

/-! ### The clock (03:R51 to R57) -/

/-- A node record with the drift sample of an answer (03:R52, R57). -/
def Node.withSample (r : Round) (x : Answer) (n : Node) : Node :=
  { n with
    clock := n.clock.sample r.number r.tick x.ticks.toNat
    latchFallback := n.latchFallback || decide ((n.clock.sample r.number r.tick x.ticks.toNat).grace ≠ n.clock.grace) }

/-- A node record with the anchor of an answer, where it is refreshed (03:R51). -/
def Node.withAnchor (r : Round) (x : Answer) (epoch : Nat) (n : Node) : Node :=
  if x.pending || n.upload.isSome then n
  else { n with clock := { n.clock with anchor := some ⟨x.seconds.toNat, r.secs, epoch⟩ } }

theorem Node.withAnchor_keeps (r : Round) (x : Answer) (epoch : Nat) (n : Node) :
    (n.withAnchor r x epoch).addr = n.addr ∧ (n.withAnchor r x epoch).enrol = n.enrol := by
  unfold Node.withAnchor
  split <;> exact ⟨rfl, rfl⟩

theorem NodeTurned.clockReading (hn : s.node? a = some n) (running : s.part = .running) (r : Round) (x : Answer) :
    NodeTurned a ((n.withSample r x).withAnchor r x s.time.epoch) []
      ((n.clock.sample r.number r.tick x.ticks.toNat).suspect && !n.clock.suspect) s (s.clockReading a r x) := by
  have sampled := NodeTurned.modNode hn (fun m => { m with
    clock := n.clock.sample r.number r.tick x.ticks.toNat
    latchFallback := m.latchFallback || decide ((n.clock.sample r.number r.tick x.ticks.toNat).grace ≠ n.clock.grace) }) fun _ => ⟨rfl, rfl⟩
  have told := sampled.andThen (.raiseIf sampled.node running ((n.clock.sample r.number r.tick x.ticks.toNat).suspect && !n.clock.suspect))
  have acts : s.clockReading a r x = ((s.modNode a (fun m => { m with
      clock := n.clock.sample r.number r.tick x.ticks.toNat
      latchFallback := m.latchFallback || decide ((n.clock.sample r.number r.tick x.ticks.toNat).grace ≠ n.clock.grace) })).nodeChangeIf
        ((n.clock.sample r.number r.tick x.ticks.toNat).suspect && !n.clock.suspect)).modNode a (Node.withAnchor r x s.time.epoch) := by
    simp only [State.clockReading, State.setClock, hn]
    rfl
  rw [acts]
  exact (told.andThen (.modNode told.node (Node.withAnchor r x s.time.epoch) (Node.withAnchor_keeps r x s.time.epoch))).flagged (by simp)

/-! ### The acknowledged generation (05:R106, R107, R110) -/

/-- The record of a node whose reload an answer ends (05:R110). -/
def Node.reloaded (ack : Nat) (n : Node) : Node := { n with cursor := ⟨ack, ack, 0⟩, reload := .none }

/-- The record of a node whose cursor an answer moves (05:R106). -/
def Node.cursorMoved (gen ack : Nat) (n : Node) : Node := { n with cursor := n.cursor.acknowledge gen ack }

/-- The record that an acknowledged generation leaves. -/
def State.ackedNode (s : State) (ack : Nat) (cacheLost : Bool) (n : Node) : Node :=
  if n.reload.underWay then
    if n.endsReload ack cacheLost then
      if n.fallback = .restricted ∧ s.cacheCount (n.reloaded ack) ≤ 256 then
        { n.reloaded ack with fallback := .full, latchFallback := true }
      else n.reloaded ack
    else n
  else if n.fallback = .restricted ∧ n.reload.isNone ∧ s.cacheCount (n.cursorMoved s.revoc.gen ack) ≤ 256
      ∧ s.cacheCount (n.cursorMoved s.revoc.gen ack) < s.cacheCount n then (n.cursorMoved s.revoc.gen ack).marked
  else n.cursorMoved s.revoc.gen ack

theorem State.cacheCount_congr {s t : State} (store : t.store = s.store) (revoc : t.revoc = s.revoc) : t.cacheCount = s.cacheCount := by
  cases s
  cases t
  cases store
  cases revoc
  rfl

/-- A node record after the cache test of 05:R107 against the state before. -/
def State.relaxedNode (t before : State) (k : Node) : Node :=
  if k.fallback = .restricted ∧ k.reload.isNone ∧ t.cacheCount k ≤ 256
      ∧ t.cacheCount k < ((before.node? k.addr).map before.cacheCount).getD 0 then k.marked else k

theorem State.relaxedNode_keeps (t before : State) (k : Node) :
    (t.relaxedNode before k).addr = k.addr ∧ (t.relaxedNode before k).enrol = k.enrol := by
  unfold State.relaxedNode
  split <;> exact ⟨rfl, rfl⟩

/-- The cache test of 05:R107 after an act that leaves the lookups of the other nodes alone. -/
theorem NodeTurned.relaxCheck {t : State} {m : Node} (hn : s.node? a = some n) (here : t.node? a = some m)
    (others : ∀ x, x ≠ a → t.node? x = s.node? x) (store : t.store = s.store) (revoc : t.revoc = s.revoc) :
    NodeTurned a (if m.fallback = .restricted ∧ m.reload.isNone ∧ s.cacheCount m ≤ 256 ∧ s.cacheCount m < s.cacheCount n then m.marked else m)
      [] false t (t.relaxCheck s) := by
  have count := State.cacheCount_congr store revoc
  have found (x : Nat) : (t.relaxCheck s).node? x = (t.node? x).map (t.relaxedNode s) :=
    findKey_map Node.addr (t.relaxedNode s) (fun k => (t.relaxedNode_keeps s k).1) x t.nodes
  refine ⟨?_, fun x ne => ?_, State.enrolled_map t (t.relaxedNode s) (t.relaxedNode_keeps s), rfl, by simp, rfl, rfl⟩
  · rw [found, here, Option.map_some]
    simp only [State.relaxedNode, count, (findKey_some Node.addr here).1, hn, Option.map_some, Option.getD_some]
  · rw [found]
    cases hk : t.node? x with
    | none => rfl
    | some k =>
      have same : s.node? k.addr = some k := by rw [(findKey_some Node.addr hk).1, ← others x ne, hk]
      have stands : t.relaxedNode s k = k := if_neg (by
        rw [same, Option.map_some, Option.getD_some, count]
        exact fun h => Nat.lt_irrefl _ h.2.2.2)
      rw [Option.map_some, stands]

theorem NodeTurned.acknowledge (hn : s.node? a = some n) (running : s.part = .running) (ack : Nat) (cacheLost : Bool) :
    NodeTurned a (s.ackedNode ack cacheLost n) [] (decide ((s.ackedNode ack cacheLost n).fallback ≠ n.fallback)) s
      (s.acknowledge a ack cacheLost) := by
  unfold State.ackedNode
  by_cases under : n.reload.underWay = true
  · by_cases ends : n.endsReload ack cacheLost = true
    · have moved := NodeTurned.modNode hn (Node.reloaded ack) fun _ => ⟨rfl, rfl⟩
      have count : (s.modNode a (Node.reloaded ack)).cacheCount = s.cacheCount := State.cacheCount_congr rfl rfl
      have acts : s.acknowledge a ack cacheLost = if n.fallback = .restricted ∧ s.cacheCount (n.reloaded ack) ≤ 256 then
          (s.modNode a (Node.reloaded ack)).setFallback a .full else s.modNode a (Node.reloaded ack) := by
        have here : (s.modNode a (fun n => { n with cursor := ⟨ack, ack, 0⟩, reload := .none })).node? a = some (n.reloaded ack) := moved.node
        simp only [State.acknowledge, hn, if_pos under, if_pos ends, here]
        rw [← count]
        rfl
      rw [acts, if_pos under, if_pos ends]
      split
      · rename_i falls
        have set := moved.andThen (.modNode moved.node (fun n => { n with fallback := .full, latchFallback := true }) fun _ => ⟨rfl, rfl⟩)
        refine (set.andThen (.raiseIf set.node running true)).flagged ?_
        rw [falls.1]
        rfl
      · exact moved.flagged (by simp [Node.reloaded])
    · have acts : s.acknowledge a ack cacheLost = s := by simp only [State.acknowledge, hn, if_pos under, if_neg ends]
      rw [acts, if_pos under, if_neg ends]
      exact (NodeTurned.refl hn).flagged (by simp)
  · have moved := NodeTurned.modNode hn (Node.cursorMoved s.revoc.gen ack) fun _ => ⟨rfl, rfl⟩
    have acts : s.acknowledge a ack cacheLost = (s.modNode a (Node.cursorMoved s.revoc.gen ack)).relaxCheck s := by
      simp only [State.acknowledge, hn, if_neg under]
      rfl
    rw [acts, if_neg under]
    refine (moved.andThen (.relaxCheck hn moved.node moved.others rfl rfl)).flagged ?_
    split <;> simp [Node.cursorMoved, Node.marked]

end Settled

end Sys2Proof.Machine

/-! O39: a node's record once an answer is heard, its pending flag and the probation test (02:R34, R36, 07:R131 to R136). -/

namespace Sys2Proof.Machine

open Sys2Proof

section Heard
variable {a : Nat} {n : Node} {s : State}

/-! ### The answer heard -/

/-- The clock of a node once an answer is heard: its drift sample, and the anchor where it is refreshed. -/
def Node.clockHeard (r : Round) (x : Answer) (epoch : Nat) (n : Node) : Clock :=
  if x.pending || n.upload.isSome then n.clock.sample r.number r.tick x.ticks.toNat
  else { n.clock.sample r.number r.tick x.ticks.toNat with anchor := some ⟨x.seconds.toNat, r.secs, epoch⟩ }

/-- A node's record once an answer is heard, ahead of its acknowledged generation. -/
def Node.heard (r : Round) (x : Answer) (epoch : Nat) (n : Node) : Node :=
  { n with
    st := if n.st = .silent then .probation else n.st
    good := if n.st = .silent then 1 else satAdd 255 n.good 1
    missed := 0
    silent := if n.st = .silent then 0 else n.silent
    status := some x.status
    clock := n.clockHeard r x epoch
    reload := if n.losesCache x.status then .marked else n.reload
    latchFallback := n.latchFallback
      || decide (n.st = .silent ∨ (n.clock.sample r.number r.tick x.ticks.toNat).grace ≠ n.clock.grace)
    latchComp := n.latchComp || decide (n.st = .silent ∧ n.enrol.cls = .minibar)
    received := if n.st = .silent then 0 else n.received
    permit := if n.st = .silent then .none else n.permit }

theorem Node.withAnchor_clock (r : Round) (x : Answer) (epoch : Nat) (n : Node) : n.withAnchor r x epoch = { n with
    clock := if x.pending || n.upload.isSome then n.clock else { n.clock with anchor := some ⟨x.seconds.toNat, r.secs, epoch⟩ } } := by
  unfold Node.withAnchor
  split <;> rfl

theorem Node.heard_eq (window : n.st.hasWindow = true) (r : Round) (x : Answer) (epoch : Nat) :
    ((n.answered.withStatus x.status).withSample r x).withAnchor r x epoch = n.heard r x epoch := by
  rw [Node.withAnchor_clock]
  by_cases silent : n.st = .silent
  · have answered : n.answered = (n.enter .probation).counts 1 0 0 := by simp only [Node.answered, silent]
    rw [answered, Node.enter_probation silent]
    simp [Node.withSample, Node.withStatus, Node.heard, Node.clockHeard, Node.counts, Node.losesCache, Node.heldStatus, silent] <;> rfl
  · have answered : n.answered = n.counts (satAdd 255 n.good 1) 0 n.silent := by
      obtain st | st | st := Node.hasWindow_cases window <;> simp only [Node.answered, st]
      exact absurd st silent
    rw [answered]
    simp [Node.withSample, Node.withStatus, Node.heard, Node.clockHeard, Node.counts, Node.losesCache, Node.heldStatus, silent]

/-- What raises NODE_CHANGE as an answer is heard (02:R29, R38, 03:R56). -/
def Node.hearsChange (r : Round) (x : Answer) (n : Node) : Bool :=
  decide (n.st = .silent) || ((n.heldStatus.batteryLow != x.status.batteryLow || n.heldStatus.fallbackActive != x.status.fallbackActive)
    || n.losesCache x.status) || ((n.clock.sample r.number r.tick x.ticks.toNat).suspect && !n.clock.suspect)

theorem Node.answered_kept (window : n.st.hasWindow = true) : n.answered.status = n.status ∧ n.answered.clock = n.clock := by
  obtain st | st | st := Node.hasWindow_cases window
  · simp [Node.answered, st, Node.counts]
  · simp [Node.answered, st, Node.counts]
  · simp [Node.answered, st, Node.counts, Node.enter_probation st]

theorem NodeTurned.heard (hn : s.node? n.addr = some n) (window : n.st.hasWindow = true) (running : s.part = .running) (r : Round) (x : Answer) :
    NodeTurned n.addr (n.heard r x s.time.epoch) (n.returnRecords s.now) (n.hearsChange r x) s
      (((s.goodAnswerState n).storeStatus n.addr x.status).clockReading n.addr r x) := by
  obtain ⟨status, clock⟩ := Node.answered_kept window
  have moved := NodeTurned.goodAnswerState hn window running
  have stored := moved.andThen (.storeStatus moved.node (moved.part.trans running) x.status)
  have read := stored.andThen (.clockReading stored.node (stored.part.trans running) r x)
  rw [show ((s.goodAnswerState n).storeStatus n.addr x.status).time = s.time from (congrArg State.time stored.rest :), Node.heard_eq window] at read
  refine read.flagged ?_
  simp only [Node.hearsChange, Node.losesCache, Node.heldStatus, status, Node.withStatus, clock]

/-! ### The offline records pending flag (07:R131, R132, R136) -/

theorem NodeTurned.permitted (hn : s.node? a = some n) : NodeTurned a (n.permitted s.journal.freeSpace) [] false s (s.judgePermit a) := by
  unfold State.judgePermit Node.permitted
  simp only [hn, Permit.isNone_iff]
  split
  · exact .modNode hn (fun n => { n with permit := .latched, latchPermit := true }) fun _ => ⟨rfl, rfl⟩
  · exact .refl hn

theorem NodeTurned.reopened (hn : s.node? a = some n) : NodeTurned a (n.reopened s.journal.freeSpace) [] false s (s.closePermit a) := by
  have closed := NodeTurned.modNode hn (fun n => { n with permit := .none }) fun _ => ⟨rfl, rfl⟩
  exact closed.andThen (.permitted closed.node)

/-- A node record with a mark taken (07:R131). -/
def Node.withMark (s1 w1 epoch : Nat) (n : Node) : Node :=
  { n with upload := some (n.clock.takeMark s1 w1 epoch), received := 0, permit := .none }

/-- A node record with its upload drained (07:R132). -/
def Node.drained (up : Upload) (epoch : Nat) (n : Node) : Node :=
  { n with
    permit := .none
    upload := none
    clock := if epoch = up.epoch then { n.clock with anchor := some ⟨up.s1, up.w1, epoch⟩ } else n.clock }

/-- The record that the pending flag of an answer leaves; `before` is the permit ahead of its items. -/
def Node.pendingHeard (free epoch : Nat) (pending : Bool) (s1 w1 : Nat) (before : Permit) (n : Node) : Node :=
  match n.upload, pending with
  | none, true => (n.withMark s1 w1 epoch).permitted free
  | none, false => n
  | some up, false => n.drained up epoch
  | some _, true =>
    match n.permit with
    | .opened k => if before = .opened k then n.reopened free else n
    | _ => n

theorem NodeTurned.pendingFlag (hn : s.node? a = some n) (answering : n.st.answering = true) (pending : Bool) (s1 w1 : Nat) (before : Permit) :
    NodeTurned a (n.pendingHeard s.journal.freeSpace s.time.epoch pending s1 w1 before) [] false s (s.pendingFlag a pending s1 w1 before) := by
  unfold State.pendingFlag Node.pendingHeard
  simp only [hn]
  cases upload : n.upload with
  | none =>
    cases pending with
    | false => exact .refl hn
    | true =>
      simp only [answering, if_true]
      have marked := NodeTurned.modNode hn (Node.withMark s1 w1 s.time.epoch) fun _ => ⟨rfl, rfl⟩
      exact marked.andThen (.permitted marked.node)
  | some up =>
    cases pending with
    | false => exact .modNode hn (Node.drained up s.time.epoch) fun _ => ⟨rfl, rfl⟩
    | true =>
      cases permit : n.permit with
      | opened k =>
        dsimp only
        split
        · exact .reopened hn
        · exact .refl hn
      | none => exact .refl hn
      | latched => exact .refl hn
      | placed k => exact .refl hn

/-- A node record with its permit closed keeps all but the permit and the latched UPLOAD_PERMIT. -/
theorem Node.reopened_eq (free : Nat) (n : Node) : n.reopened free = { n with
    permit := if n.upload.isSome ∧ 64 ≤ free then .latched else .none
    latchPermit := n.latchPermit || decide (n.upload.isSome ∧ 64 ≤ free) } := by
  unfold Node.reopened Node.permitted
  by_cases takes : n.upload.isSome ∧ 64 ≤ free
  · rw [if_pos ⟨takes.1, rfl, takes.2⟩, if_pos takes, decide_eq_true takes, Bool.or_true]
  · rw [if_neg fun h => takes ⟨h.1, h.2.2⟩, if_neg takes, decide_eq_false takes, Bool.or_false]

theorem Node.withMark_permitted (free s1 w1 epoch : Nat) (n : Node) : (n.withMark s1 w1 epoch).permitted free = { n with
    upload := some (n.clock.takeMark s1 w1 epoch), received := 0
    permit := if 64 ≤ free then .latched else .none, latchPermit := n.latchPermit || decide (64 ≤ free) } := by
  unfold Node.withMark Node.permitted
  by_cases room : 64 ≤ free <;> simp [room]

/-! ### The probation test (02:R34) -/

/-- The record that the probation test leaves. -/
def Node.tested (passes : Bool) (n : Node) : Node := if passes then { n with st := .online } else n

/-- A node in PROBATION passes the test. -/
def State.passesProbation (s : State) (ended : Bool) (n : Node) : Bool :=
  decide (n.st = .probation ∧ 8 ≤ n.good ∧ n.upload.isNone ∧ (ended ∨ s.caughtUp n))

theorem Node.enter_online {n : Node} (probation : n.st = .probation) : n.enter .online = { n with st := .online } := by
  obtain ⟨_, _, st, _, _, _, _, _, _, _, _, _, _, _, _, _, _, _, _, _, _, _, _⟩ := n
  obtain rfl : st = .probation := probation
  rfl

theorem NodeTurned.probationTest (hn : s.node? a = some n) (running : s.part = .running) (ended : Bool) :
    NodeTurned a (n.tested (s.passesProbation ended n))
      (if s.passesProbation ended n then [(s.now, nodeStateEntry n (.nodeState .online))] else []) (s.passesProbation ended n) s
      (s.probationTest a ended) := by
  unfold State.probationTest Node.tested
  simp only [hn]
  by_cases passes : n.st = .probation ∧ 8 ≤ n.good ∧ n.upload.isNone = true ∧ (ended = true ∨ s.caughtUp n = true)
  · have decided : s.passesProbation ended n = true := decide_eq_true passes
    rw [decided, if_pos rfl, if_pos rfl, if_pos passes, ← Node.enter_online passes.1]
    exact .changeNode hn (by rw [passes.1]; simp) running
  · have decided : s.passesProbation ended n = false := decide_eq_false passes
    rw [decided, if_neg passes]
    exact .refl hn

end Heard

end Sys2Proof.Machine

/-! O39: what the items of an answer leave of a state and of the answering node (02:R36 step 5, 06:R127, 07:R137). -/

namespace Sys2Proof.Machine

open Sys2Proof

/-! ### Charges and records -/

/-- An act that charges and writes records, and leaves NODE_CHANGE as it is armed. -/
structure Booked (s t : State) : Prop extends Charged s t where
  nodeChange : t.port.arm.nodeChange = s.port.arm.nodeChange

section Booked
variable {s t u : State}

theorem Booked.refl (s : State) : Booked s s := ⟨.refl s, rfl⟩

theorem Booked.trans (h : Booked s t) (g : Booked t u) : Booked s u := ⟨h.toCharged.trans g.toCharged, g.nodeChange.trans h.nodeChange⟩

theorem Booked.append (s : State) (e : Entry) : Booked s (s.append e) := ⟨.append s e, s.append_nodeChange e⟩

theorem Booked.minibar (s : State) (m : Minibar) : Booked s { s with minibar := m } := ⟨.minibar s m, rfl⟩

theorem Booked.ite {b : Prop} [Decidable b] (h : b → Booked s t) (g : ¬ b → Booked s u) : Booked s (if b then t else u) := by
  split
  · exact h ‹_›
  · exact g ‹_›

theorem Booked.alarmIf (s : State) (b : Bool) : Booked s (s.alarmIf b) := by
  unfold State.alarmIf
  refine .ite (fun _ => ⟨⟨?_, fun h => by simpa using h, s.raise_noticed .alarm⟩, ?_⟩) fun _ => .refl s
  · exact State.eq_of_fields (minibar := rfl) (journal := rfl) (port := rfl)
  · unfold State.raise
    split <;> rfl

theorem Booked.judgeHeld (s : State) (p : Nat) (b : Bool) : Booked s (s.judgeHeld p b) := by
  unfold State.judgeHeld
  split
  · exact .ite (fun _ => .append s _) fun _ => .refl s
  · exact .refl s

theorem Booked.commitLine (s : State) (l : ChargeLine) : Booked s (s.commitLine l) := (Booked.minibar s _).trans (.append _ _)

theorem Booked.charge (s : State) (p a c n price item : Nat) : Booked s (s.charge p a c n price item) := by
  rw [State.charge_eq]
  split
  · exact (Booked.minibar s _).trans (.judgeHeld _ _ _)
  · refine .ite (fun _ => ?_) fun _ => ?_
    · exact ((Booked.minibar s _).trans (.append _ _)).trans (.judgeHeld _ _ _)
    · refine Booked.trans ?_ (.judgeHeld _ _ _)
      obtain ⟨eq, -⟩ | ⟨l, -, eq⟩ := s.makeLineRoom_cases
      · rw [eq]
        exact .minibar s _
      · rw [eq]
        exact (Booked.commitLine s l).trans (.minibar _ _)

theorem Booked.giveBack (s : State) (a c n price : Nat) (cred : Option Nat) : Booked s (s.giveBack a c n price cred) := by
  unfold State.giveBack
  split
  · exact .ite (fun _ => .minibar s _) fun _ => .minibar s _
  · exact .append s _

/-- A removal charges and records after the fall of the stock. -/
theorem Booked.removedItem (s : State) (n : Node) (c k : Nat) : Booked (s.stockFall n c k) (s.removedItem n c k) := by
  unfold State.removedItem
  dsimp only
  split
  · split
    · exact .charge ..
    · exact .refl _
  · split
    · exact (Booked.append _ _).trans (.charge ..)
    · exact .append _ _

theorem Booked.returnedItem (s : State) (n : Node) (c k : Nat) : Booked (s.stockRise n c k) (s.returnedItem n c k) := by
  unfold State.returnedItem
  dsimp only
  split
  · split
    · exact .giveBack ..
    · exact .refl _
  · exact .giveBack ..

end Booked

/-! ### Items handed on -/

/-- The items of an answer of node `a` leave the record `m` of `n`, and change nothing but folios, lines, records and notices. -/
structure Handed (a : Nat) (n m : Node) (s u : State) : Prop where
  node : u.node? a = some m
  others : ∀ x, x ≠ a → u.node? x = s.node? x
  nodeChange : u.port.arm.nodeChange = s.port.arm.nodeChange
  port : Port.noticesOnly s.port u.port
  rest : u = { s with nodes := u.nodes, minibar := u.minibar, journal := u.journal, port := u.port }
  kept : m = { n with memory := m.memory, received := m.received, permit := m.permit, latchPermit := m.latchPermit, comps := m.comps
                      session := m.session }
  memory : m.memory.map (fun e => { e with reported := false }) = n.memory.map (fun e => { e with reported := false })

section Handed
variable {a : Nat} {n m k : Node} {s t u : State}

theorem Handed.refl (hn : s.node? a = some n) : Handed a n n s s := ⟨hn, fun _ _ => rfl, rfl, rfl, rfl, rfl, rfl⟩

theorem State.handed_frame (first : t = { s with nodes := t.nodes, minibar := t.minibar, journal := t.journal, port := t.port })
    (second : u = { t with nodes := u.nodes, minibar := u.minibar, journal := u.journal, port := u.port }) :
    u = { s with nodes := u.nodes, minibar := u.minibar, journal := u.journal, port := u.port } := by
  rw [second, first]

theorem Node.handed_frame (first : m = { n with memory := m.memory, received := m.received, permit := m.permit, latchPermit := m.latchPermit
                                                comps := m.comps, session := m.session })
    (second : k = { m with memory := k.memory, received := k.received, permit := k.permit, latchPermit := k.latchPermit, comps := k.comps
                           session := k.session }) :
    k = { n with memory := k.memory, received := k.received, permit := k.permit, latchPermit := k.latchPermit, comps := k.comps
                 session := k.session } := by
  rw [second, first]

theorem Handed.trans (h : Handed a n m s t) (g : Handed a m k t u) : Handed a n k s u where
  node := g.node
  others := fun x ne => (g.others x ne).trans (h.others x ne)
  nodeChange := g.nodeChange.trans h.nodeChange
  port := Port.noticesOnly_trans h.port g.port
  rest := State.handed_frame h.rest g.rest
  kept := Node.handed_frame h.kept g.kept
  memory := g.memory.trans h.memory

theorem Handed.booked (hn : s.node? a = some n) (h : Booked s u) : Handed a n n s u where
  node := (congrArg (fun x : State => x.node? a) h.rest :).trans hn
  others := fun x _ => (congrArg (fun y : State => y.node? x) h.rest :)
  nodeChange := h.nodeChange
  port := h.noticed.notices
  rest := h.rest.trans (by rw [h.rest])
  kept := rfl
  memory := rfl

theorem Handed.modNode (hn : s.node? a = some n) (f : Node → Node) (addr : ∀ x, (f x).addr = x.addr)
    (kept : f n = { n with memory := (f n).memory, received := (f n).received, permit := (f n).permit, latchPermit := (f n).latchPermit
                           comps := (f n).comps, session := (f n).session })
    (memory : (f n).memory.map (fun e => { e with reported := false }) = n.memory.map (fun e => { e with reported := false })) :
    Handed a n (f n) s (s.modNode a f) where
  node := by rw [State.modNode_node? s a f addr, hn]; rfl
  others := fun x ne => State.modNode_node?_ne s f addr ne
  nodeChange := rfl
  port := rfl
  rest := rfl
  kept := kept
  memory := memory

theorem Handed.turned {rs : List (Nat × Entry)} (h : NodeTurned a m rs false s u)
    (kept : m = { n with memory := m.memory, received := m.received, permit := m.permit, latchPermit := m.latchPermit, comps := m.comps
                         session := m.session })
    (memory : m.memory.map (fun e => { e with reported := false }) = n.memory.map (fun e => { e with reported := false })) :
    Handed a n m s u where
  node := h.node
  others := h.others
  nodeChange := by simpa using h.arm
  port := h.port
  rest := h.rest.trans (by rw [h.rest])
  kept := kept
  memory := memory

theorem markReported_kept (p : Nat) (es : List MemEntry) :
    (markReported p es).map (fun e => { e with reported := false }) = es.map (fun e => { e with reported := false }) := by
  induction es with
  | nil => rfl
  | cons e es ih =>
    rw [markReported]
    split
    · rfl
    · rw [List.map_cons, ih, List.map_cons]

theorem Handed.closePermit (hn : s.node? a = some n) : Handed a n (n.reopened s.journal.freeSpace) s (s.closePermit a) :=
  .turned (.reopened hn) (by rw [Node.reopened_eq]) (by rw [Node.reopened_eq])

/-- An offline record taken (07:R137). -/
theorem Handed.recordTaken (hn : s.node? a = some n) (j : Nat) (r : OfflineRecord) (time : RecordTime) :
    Handed a n (n.received1 j) s (s.recordTaken a j n r time) := by
  have taken := Handed.modNode hn (Node.received1 j) (fun _ => rfl) rfl rfl
  exact taken.trans (.booked taken.node ((Booked.append _ _).trans (.alarmIf _ _)))

theorem Handed.stockFall (hn : s.node? a = some n) (c k : Nat) :
    ∃ m, Handed a n m s (s.stockFall n c k) ∧ m = { n with comps := m.comps } := by
  obtain rfl : n.addr = a := (findKey_some Node.addr hn).1
  have set := Handed.modNode hn (Node.setStock c ((n.comp c).stock - k)) (fun _ => rfl) rfl rfl
  refine ⟨Node.setStock c ((n.comp c).stock - k) n, ?_, rfl⟩
  unfold State.stockFall State.stockAnomaly
  dsimp only
  split
  · exact set.trans (.booked set.node (.append _ _))
  · exact set

theorem Handed.stockRise (hn : s.node? a = some n) (c k : Nat) :
    ∃ m, Handed a n m s (s.stockRise n c k) ∧ m = { n with comps := m.comps } := by
  obtain rfl : n.addr = a := (findKey_some Node.addr hn).1
  have set := Handed.modNode hn (Node.setStock c (min (n.comp c).capacity ((n.comp c).stock + k))) (fun _ => rfl) rfl rfl
  refine ⟨Node.setStock c (min (n.comp c).capacity ((n.comp c).stock + k)) n, ?_, rfl⟩
  unfold State.stockRise State.stockAnomaly
  dsimp only
  split
  · exact set.trans (.booked set.node (.append _ _))
  · exact set

theorem Handed.localDecision (hn : s.node? a = some n) (p : Nat) (granted : Bool) :
    ∃ m, Handed a n m s (s.localDecision a p granted) ∧ m = { n with memory := m.memory } := by
  simp only [State.localDecision, hn]
  split
  · exact ⟨n, .booked hn (.append _ _), rfl⟩
  · split
    · exact ⟨n, .refl hn, rfl⟩
    · have marked := Handed.modNode hn (fun n => { n with memory := markReported p n.memory }) (fun _ => rfl) rfl (markReported_kept p n.memory)
      exact ⟨_, marked.trans (.booked marked.node ((Booked.append _ _).trans (.alarmIf _ _))), rfl⟩

theorem Booked.doorAlarm (s : State) (kind : RecKind) (a : Nat) : Booked s (s.doorAlarm kind a) :=
  (Booked.append s _).trans (.alarmIf _ true)

/-- An item that is no offline record, or that is not taken, leaves the permit of the node. -/
def Node.samePermit (n m : Node) : Prop := m.permit = n.permit ∧ m.latchPermit = n.latchPermit ∧ m.received = n.received

theorem Handed.item_other (hn : s.node? a = some n) {i : Item} (other : isOfflineRecord i = false) :
    ∃ m, Handed a n m s (s.item a i) ∧ n.samePermit m := by
  cases i with
  | forcedOpen =>
    simp only [State.item, hn]
    exact ⟨n, .booked hn (.doorAlarm ..), rfl, rfl, rfl⟩
  | heldOpen =>
    simp only [State.item, hn]
    exact ⟨n, .booked hn (.doorAlarm ..), rfl, rfl, rfl⟩
  | localDecision p granted =>
    simp only [State.item, hn]
    obtain ⟨m, handed, kept⟩ := Handed.localDecision hn p.toNat granted
    exact ⟨m, handed, by rw [kept]; exact ⟨rfl, rfl, rfl⟩⟩
  | removed c j =>
    simp only [State.item, hn]
    split
    · obtain ⟨m, handed, kept⟩ := Handed.stockFall hn c.toNat j.toNat
      exact ⟨m, handed.trans (.booked handed.node (.removedItem ..)), by rw [kept]; exact ⟨rfl, rfl, rfl⟩⟩
    · exact ⟨n, .refl hn, rfl, rfl, rfl⟩
  | returned c j =>
    simp only [State.item, hn]
    split
    · obtain ⟨m, handed, kept⟩ := Handed.stockRise hn c.toNat j.toNat
      exact ⟨m, handed.trans (.booked handed.node (.returnedItem ..)), by rw [kept]; exact ⟨rfl, rfl, rfl⟩⟩
    · exact ⟨n, .refl hn, rfl, rfl, rfl⟩
  | minibarClosed =>
    rw [State.item_closed hn]
    split
    · exact ⟨n.endSession, .modNode hn Node.endSession (fun _ => rfl) rfl rfl, rfl, rfl, rfl⟩
    · exact ⟨n, .refl hn, rfl, rfl, rfl⟩
  | offlineRecord r => cases other

/-- An offline record with no upload or no OPEN permit with a remainder leaves the state. -/
theorem State.item_idle (hn : s.node? a = some n) (idle : n.upload = none ∨ ∀ k, n.permit ≠ .opened (k + 1)) (r : OfflineRecord) :
    s.item a (.offlineRecord r) = s := by
  simp only [State.item, hn]
  exact State.offlineRecord_idle hn idle

/-- An offline record taken: the remainder falls by one, and at 0 the permit is judged anew. -/
theorem Handed.item_taken (hn : s.node? a = some n) {up : Upload} {j : Nat} (upload : n.upload = some up) (permit : n.permit = .opened (j + 1))
    (r : OfflineRecord) : ∃ m, Handed a n m s (s.item a (.offlineRecord r)) ∧
      (j ≠ 0 → m.permit = .opened j ∧ m.latchPermit = n.latchPermit) ∧ (j = 0 → m.permit = .none ∨ m.permit = .latched) := by
  simp only [State.item, hn]
  rw [State.offlineRecord_taken hn upload permit]
  have taken := Handed.recordTaken hn j r (up.timeOf n.clock r.stamp.toNat)
  by_cases last : j = 0
  · rw [if_pos last]
    refine ⟨_, taken.trans (.closePermit taken.node), fun no => absurd last no, fun _ => ?_⟩
    rw [Node.reopened_eq]
    dsimp only
    split
    · exact .inr rfl
    · exact .inl rfl
  · rw [if_neg last]
    exact ⟨_, taken, fun _ => ⟨rfl, rfl⟩, fun zero => absurd zero last⟩

end Handed

end Sys2Proof.Machine

/-! O39: the presentation and the items of an answer together (02:R36 steps 4 and 5, R37). -/

namespace Sys2Proof.Machine

open Sys2Proof

section Items
variable {a : Nat} {n m : Node} {s t u : State}

/-- The permit that an answer with `taken` offline records leaves (07:R136, R137). -/
structure PermitLeft (taken : Nat) (n m : Node) : Prop where
  idle : (n.upload = none ∨ ∀ k, n.permit ≠ .opened (k + 1)) → n.samePermit m
  few : ∀ up k, n.upload = some up → n.permit = .opened (k + 1) → taken ≤ k →
    m.permit = .opened (k + 1 - taken) ∧ m.latchPermit = n.latchPermit
  many : ∀ up k, n.upload = some up → n.permit = .opened (k + 1) → k < taken → m.permit = .none ∨ m.permit = .latched

theorem Handed.upload (h : Handed a n m s u) : m.upload = n.upload := (congrArg Node.upload h.kept :)

theorem Node.samePermit.trans {n m k : Node} (h : n.samePermit m) (g : m.samePermit k) : n.samePermit k :=
  ⟨g.1.trans h.1, g.2.1.trans h.2.1, g.2.2.trans h.2.2⟩

/-- An act that leaves the permit, ahead of further items. -/
theorem PermitLeft.after {taken : Nat} {n m k : Node} (upload : m.upload = n.upload) (same : n.samePermit m) (h : PermitLeft taken m k) :
    PermitLeft taken n k where
  idle := fun none => same.trans (h.idle (by rw [upload, same.1]; exact none))
  few := fun up j held opened le => by
    obtain ⟨permit, latch⟩ := h.few up j (upload.trans held) (same.1.trans opened) le
    exact ⟨permit, latch.trans same.2.1⟩
  many := fun up j held opened lt => h.many up j (upload.trans held) (same.1.trans opened) lt

/-- The items of an answer in their order. -/
theorem Handed.items (items : List Item) : ∀ {s : State} {n : Node}, s.node? a = some n →
    ∃ m, Handed a n m s (items.foldl (State.item a) s) ∧ PermitLeft (items.filter isOfflineRecord).length n m := by
  induction items with
  | nil =>
    exact fun hn => ⟨_, .refl hn, fun _ => ⟨rfl, rfl, rfl⟩, fun _ k _ opened _ => ⟨opened, rfl⟩,
      fun _ _ _ _ lt => absurd lt (Nat.not_lt_zero _)⟩
  | cons i items ih =>
    intro s n hn
    cases offline : isOfflineRecord i with
    | false =>
      obtain ⟨m, handed, same⟩ := Handed.item_other hn offline
      obtain ⟨k, later, left⟩ := ih handed.node
      rw [List.filter_cons_of_neg (by simp [offline])]
      exact ⟨k, handed.trans later, left.after handed.upload same⟩
    | true =>
      obtain ⟨r, rfl⟩ : ∃ r, i = .offlineRecord r := by cases i <;> simp_all [isOfflineRecord]
      rw [List.filter_cons_of_pos offline, List.length_cons, List.foldl_cons]
      by_cases takes : ∃ up j, n.upload = some up ∧ n.permit = .opened (j + 1)
      · obtain ⟨up, j, upload, permit⟩ := takes
        obtain ⟨m, handed, more, last⟩ := Handed.item_taken hn upload permit r
        obtain ⟨k, later, left⟩ := ih handed.node
        have held : m.upload = some up := handed.upload.trans upload
        have here {j' : Nat} (opened : n.permit = .opened (j' + 1)) : j' = j := by
          rw [permit] at opened
          injection opened with eq
          omega
        refine ⟨k, handed.trans later, fun idle => ?_, fun _ j' _ opened le => ?_, fun _ j' _ opened lt => ?_⟩
        · obtain none | closed := idle
          · rw [upload] at none
            cases none
          · exact absurd permit (closed j)
        · obtain rfl := here opened
          obtain ⟨j, rfl⟩ : ∃ j, j' = j + 1 := ⟨j' - 1, by omega⟩
          obtain ⟨remains, latch⟩ := more (by omega)
          obtain ⟨permit', latch'⟩ := left.few up j held remains (by omega)
          exact ⟨permit'.trans (congrArg Permit.opened (by omega)), latch'.trans latch⟩
        · obtain rfl := here opened
          cases j' with
          | zero =>
            have closed := last rfl
            have same := left.idle (.inr fun i h => by rw [h] at closed; cases closed with | inl e => cases e | inr e => cases e)
            rw [same.1]
            exact closed
          | succ j => exact left.many up j held (more (by omega)).1 (by omega)
      · have idle : n.upload = none ∨ ∀ j, n.permit ≠ .opened (j + 1) := by
          cases held : n.upload with
          | none => exact .inl rfl
          | some up => exact .inr fun j opened => takes ⟨up, j, held, opened⟩
        rw [State.item_idle hn idle]
        obtain ⟨k, later, left⟩ := ih hn
        exact ⟨k, later, fun h => left.idle h, fun up j held opened => absurd ⟨up, j, held, opened⟩ takes,
          fun up j held opened => absurd ⟨up, j, held, opened⟩ takes⟩

/-! ### The presentation -/

/-- The presentation of an answer leaves the record `m` of `n`: its number and the decision memory. -/
structure Presented (a : Nat) (n m : Node) (s u : State) : Prop where
  node : u.node? a = some m
  others : ∀ x, x ≠ a → u.node? x = s.node? x
  nodeChange : u.port.arm.nodeChange = s.port.arm.nodeChange
  port : Port.noticesOnly s.port u.port
  rest : u = { s with nodes := u.nodes, store := u.store, lines := { s.lines with urgent := u.lines.urgent }, journal := u.journal, port := u.port }
  kept : m = { n with lastPres := m.lastPres, memory := m.memory }
  concerns : ∀ cred x, u.credRelevant cred x = s.credRelevant cred x

theorem Presented.refl (hn : s.node? a = some n) : Presented a n n s s := ⟨hn, fun _ _ => rfl, rfl, rfl, rfl, rfl, fun _ _ => rfl⟩

/-- A grant counted on a credential leaves what its card claims (04:R82). -/
theorem State.credRelevant_granted (s : State) (k : Nat) (at_ : Nat) (cred : Option Nat) (x : Node) :
    (s.modCred k (Cred.granted at_)).credRelevant cred x = s.credRelevant cred x := by
  cases cred with
  | none => rfl
  | some j =>
    show ((s.modCred k (Cred.granted at_)).cred? j).any _ = (s.cred? j).any _
    have mod : (s.modCred k (Cred.granted at_)).cred? j = (s.cred? j).map (fun c => if c.number = k then c.granted at_ else c) :=
      findKey_map Cred.number (fun c => if c.number = k then c.granted at_ else c) (fun c => by split <;> rfl) j s.store.recs
    rw [mod, Option.any_map]
    refine congrArg (fun f => (s.cred? j).any f) (funext fun c => ?_)
    split <;> rfl

theorem State.presented_frame {v w : State} {x : Nat} {f : Node → Node} (first : v = { s with store := v.store })
    (second : w = { v.modNode x f with lines := { v.lines with urgent := w.lines.urgent }, journal := w.journal, port := w.port }) :
    w = { s with nodes := w.nodes, store := w.store, lines := { s.lines with urgent := w.lines.urgent }, journal := w.journal, port := w.port } := by
  rw [second, first]
  rfl

theorem State.offerDecision_frame (s : State) (d : Decision) : (s.offerDecision d).port.arm.nodeChange = s.port.arm.nodeChange ∧
    Port.noticesOnly s.port (s.offerDecision d).port ∧ s.offerDecision d = { s with
      lines := { s.lines with urgent := (s.offerDecision d).lines.urgent }, journal := (s.offerDecision d).journal
      port := (s.offerDecision d).port } := by
  unfold State.offerDecision
  split
  · refine ⟨s.append_nodeChange _, (s.append_noticed _).notices, ?_⟩
    exact State.eq_of_fields (journal := rfl) (port := rfl) (lines := by simp [State.decisionLate])
      (pending := by simp [State.decisionLate]) (part := by simp [State.decisionLate]) (supply := by simp [State.decisionLate])
      (loader := by simp [State.decisionLate]) (time := by simp [State.decisionLate]) (inviter := by simp [State.decisionLate])
      (nodes := by simp [State.decisionLate]) (store := by simp [State.decisionLate]) (revoc := by simp [State.decisionLate])
      (minibar := by simp [State.decisionLate]) (choices := by simp [State.decisionLate])
  · exact ⟨rfl, rfl, rfl⟩

/-- The memory entry of a decision (06:R126). -/
def State.decisionEntry (s : State) (n : Node) (p : Presentation) : MemEntry :=
  { pres := p.number.toNat, cred := numberCarried p.cred.toNat, serial := p.serial.toNat, arrival := s.now,
    granted := (s.evaluate n p s.now).granted, reason := (s.evaluate n p s.now).reason, reported := false }

/-- The DECISION of an evaluation (06:R123). -/
def State.decisionOf (s : State) (n : Node) (a : Nat) (p : Presentation) (origin : Nat) : Decision :=
  { node := a, pres := p.number.toNat, granted := (s.evaluate n p s.now).granted, reason := (s.evaluate n p s.now).reason,
    mode := (s.evaluate n p s.now).mode, origin := origin, age := 0, point := n.enrol.point, cred := numberCarried p.cred.toNat,
    serial := p.serial.toNat, arrival := s.now }

theorem State.decideAdmission_acts (hn : s.node? a = some n) (p : Presentation) (origin : Nat) : s.decideAdmission a p origin =
    ((if (s.evaluate n p s.now).granted then s.modCred p.cred.toNat (Cred.granted s.now) else s).modNode a
      (Node.remember (s.decisionEntry n p))).offerDecision (s.decisionOf n a p origin) := by
  simp only [State.decideAdmission, hn]
  rfl

theorem Presented.decideAdmission (hn : s.node? a = some n) (p : Presentation) (origin : Nat) :
    ∃ m, Presented a n m s (s.decideAdmission a p origin) ∧ m.lastPres = n.lastPres := by
  obtain ⟨v, hv⟩ : ∃ v, v = if (s.evaluate n p s.now).granted then s.modCred p.cred.toNat (Cred.granted s.now) else s := ⟨_, rfl⟩
  have acts := State.decideAdmission_acts hn p origin
  rw [← hv] at acts
  generalize s.decisionEntry n p = e at acts
  generalize s.decisionOf n a p origin = d at acts
  have stored : v = { s with store := v.store } := by
    rw [hv]
    split <;> rfl
  have concerns (cred : Option Nat) (x : Node) : v.credRelevant cred x = s.credRelevant cred x := by
    rw [hv]
    split
    · exact s.credRelevant_granted _ _ cred x
    · rfl
  obtain ⟨nodeChange, notices, offered⟩ := (v.modNode a (Node.remember e)).offerDecision_frame d
  have nodes (x : Nat) : (s.decideAdmission a p origin).node? x = (v.modNode a (Node.remember e)).node? x := by
    rw [acts, offered]
    rfl
  have before (x : Nat) : v.node? x = s.node? x := (congrArg (fun y : State => y.node? x) stored :)
  have port : v.port = s.port := (congrArg State.port stored :)
  refine ⟨n.remember e, ⟨?_, fun x ne => ?_, ?_, ?_, ?_, rfl, fun cred x => ?_⟩, rfl⟩
  · rw [nodes, State.modNode_node? _ _ (Node.remember e) (fun _ => rfl), before, hn]
    rfl
  · rw [nodes, State.modNode_node?_ne _ (Node.remember e) (fun _ => rfl) ne, before]
  · rw [acts, nodeChange, State.modNode_port, port]
  · rw [acts, ← port]
    exact notices
  · rw [acts]
    exact State.presented_frame stored offered
  · rw [← concerns, acts, offered]
    rfl

/-- A presentation repeated leaves the state (02:R37). -/
theorem State.presentation_idle (hn : s.node? a = some n) {r : Round} {p : Option Presentation}
    (idle : ∀ q, p = some q → n.lastPres = some q.number.toNat) : s.presentation a r p = s := by
  cases p with
  | none => rfl
  | some q =>
    simp only [State.presentation, hn]
    exact if_pos (idle q rfl)

theorem State.presentation_new (hn : s.node? a = some n) (r : Round) {p : Presentation} (new : n.lastPres ≠ some p.number.toNat) :
    s.presentation a r (some p) = (s.modNode a (fun n => { n with lastPres := some p.number.toNat })).decideAdmission a p r.number := by
  simp only [State.presentation, hn]
  exact if_neg new

theorem Presented.presentation (hn : s.node? a = some n) (r : Round) (p : Option Presentation) :
    ∃ m, Presented a n m s (s.presentation a r p) ∧ ∀ q, p = some q → m.lastPres = some q.number.toNat := by
  by_cases idle : ∀ q, p = some q → n.lastPres = some q.number.toNat
  · rw [State.presentation_idle hn idle]
    exact ⟨n, .refl hn, idle⟩
  · push Not at idle
    obtain ⟨q, rfl, new⟩ := idle
    rw [State.presentation_new hn r new]
    have set := NodeTurned.modNode hn (fun n => { n with lastPres := some q.number.toNat }) fun _ => ⟨rfl, rfl⟩
    obtain ⟨m, presented, last⟩ := Presented.decideAdmission set.node q r.number
    refine ⟨m, ⟨presented.node, fun x ne => (presented.others x ne).trans (set.others x ne), presented.nodeChange, presented.port,
      presented.rest.trans rfl, presented.kept.trans rfl, presented.concerns⟩, ?_⟩
    rintro _ ⟨⟩
    exact last

end Items

end Sys2Proof.Machine

/-! O39: the copies of an answered window (01:R7, R9 to R11). -/

namespace Sys2Proof.Machine

open Sys2Proof

/-! ### Faults beside a good copy -/

/-- The fault charged for a copy beside a good one (01 Table 1.2). -/
def CopyJudgement.charge (serves : Bool) : CopyJudgement → Option FaultKind
  | .good => none
  | .faulty k => some k
  | .absent => if serves then some .noAnswer else none

/-- A line after a window with a good copy: VALID_SEEN, or its correctable fault. -/
def Line.after (j : CopyJudgement) (fault : Option FaultKind) (l : Line) : Line :=
  match j, fault with
  | .good, _ => l.seen
  | _, none => l
  | _, some k => l.charged k .correctable

/-- The first-fault record after a window with a good copy (01:R10). -/
def FirstFault.after (faultA faultB : Option FaultKind) (number node now : Nat) (f : FirstFault) : FirstFault :=
  match faultA, faultB with
  | some k, _ => f.offer ⟨.a, k, .correctable⟩ number node now
  | none, some k => f.offer ⟨.b, k, .correctable⟩ number node now
  | none, none => f

section Faults
variable {s : State} {ja jb : CopyJudgement}

theorem State.chargeFaults_heard (good : ja = .good ∨ jb = .good) (serveA serveB : Bool) (first : Completion) (number node : Nat) (s : State) :
    ((s.seenIf .a ja).seenIf .b jb).chargeFaults number node (resolve serveA serveB first ja jb).2 = { s with lines := { s.lines with
      lineA := s.lines.lineA.after ja (ja.charge serveA)
      lineB := s.lines.lineB.after jb (jb.charge serveB)
      first := s.lines.first.after (ja.charge serveA) (jb.charge serveB) number node s.now } } := by
  cases ja with
  | good =>
    cases jb with
    | good => rfl
    | faulty k => rfl
    | absent => cases serveB <;> rfl
  | faulty j =>
    obtain rfl : jb = .good := good.resolve_left (by simp)
    rfl
  | absent =>
    obtain rfl : jb = .good := good.resolve_left (by simp)
    cases serveA <;> rfl

/-- A good copy holds an answer. -/
theorem judgeCopy_answers {addr number : Nat} {serves : Bool} {copy : Option Copy} (good : judgeCopy addr number serves copy = .good) :
    ∃ x, copy.map (·.answer) = some x := by
  cases serves with
  | false => cases good
  | true =>
    cases copy with
    | none => cases good
    | some c => exact ⟨_, rfl⟩

/-- The answer used: one of a good copy, with two that of the line that completed first (01:R7). -/
theorem usedAnswer_heard {copyA copyB : Option Copy} (heardA : ja = .good → ∃ x, copyA.map (·.answer) = some x)
    (heardB : jb = .good → ∃ x, copyB.map (·.answer) = some x) (good : ja = .good ∨ jb = .good) (serveA serveB : Bool)
    (first : Completion) (tie : Bool) : ∃ x, usedAnswer (resolve serveA serveB first ja jb).1 tie copyA copyB = some x ∧
      (ja = .good ∧ copyA.map (·.answer) = some x ∨ jb = .good ∧ copyB.map (·.answer) = some x) ∧
      (ja = .good → jb = .good → (first = .aFirst → copyA.map (·.answer) = some x) ∧ (first = .bFirst → copyB.map (·.answer) = some x)) := by
  by_cases goodA : ja = .good
  · obtain ⟨x, hx⟩ := heardA goodA
    by_cases goodB : jb = .good
    · obtain ⟨y, hy⟩ := heardB goodB
      subst goodA goodB
      cases first with
      | aFirst => exact ⟨x, hx, .inl ⟨rfl, hx⟩, fun _ _ => ⟨fun _ => hx, by simp⟩⟩
      | bFirst => exact ⟨y, hy, .inr ⟨rfl, hy⟩, fun _ _ => ⟨by simp, fun _ => hy⟩⟩
      | together =>
        cases tie with
        | true => exact ⟨x, hx, .inl ⟨rfl, hx⟩, fun _ _ => ⟨by simp, by simp⟩⟩
        | false => exact ⟨y, hy, .inr ⟨rfl, hy⟩, fun _ _ => ⟨by simp, by simp⟩⟩
    · refine ⟨x, ?_, .inl ⟨goodA, hx⟩, fun _ h => absurd h goodB⟩
      subst goodA
      cases jb with
      | good => exact absurd rfl goodB
      | faulty k => exact hx
      | absent => exact hx
  · have goodB := good.resolve_left goodA
    obtain ⟨y, hy⟩ := heardB goodB
    refine ⟨y, ?_, .inr ⟨goodB, hy⟩, fun h => absurd h goodA⟩
    subst goodB
    cases ja with
    | good => exact absurd rfl goodA
    | faulty k => exact hy
    | absent => exact hy

end Faults

/-- The state in which a good answer is handed to the node manager: the window closed, lines and first-fault record charged. -/
def State.windowHeard (a number : Nat) (ja jb : CopyJudgement) (choices : Nat) (s : State) : State :=
  { s.dropWindow a with
    choices := choices
    lines := { (s.dropWindow a).lines with
      lineA := s.lines.lineA.after ja (ja.charge s.lines.lineA.st.inService)
      lineB := s.lines.lineB.after jb (jb.charge s.lines.lineB.st.inService)
      first := s.lines.first.after (ja.charge s.lines.lineA.st.inService) (jb.charge s.lines.lineB.st.inService) number a s.now } }

/-- An answer window that closes with a good copy, its node in PROBATION, ONLINE or SILENT. -/
theorem State.resolveWindow_heard {s : State} {r : Round} {a : Nat} {n : Node} {copyA copyB : Option Copy} {first : Completion}
    (hn : s.node? a = some n) (window : n.st.hasWindow = true) :
    let ja := judgeCopy a r.number s.lines.lineA.st.inService copyA
    let jb := judgeCopy a r.number s.lines.lineB.st.inService copyB
    (ja = .good ∨ jb = .good) → ∃ x c, s.resolveWindow r ⟨a, false⟩ copyA copyB first = (s.windowHeard a r.number ja jb c).goodAnswer n r x ∧
      (ja = .good ∧ copyA.map (·.answer) = some x ∨ jb = .good ∧ copyB.map (·.answer) = some x) ∧
      (ja = .good → jb = .good → (first = .aFirst → copyA.map (·.answer) = some x) ∧ (first = .bFirst → copyB.map (·.answer) = some x)) := by
  intro ja jb good
  have charged := State.chargeFaults_heard good s.lines.lineA.st.inService s.lines.lineB.st.inService first r.number a (s.dropWindow a)
  let res := resolve s.lines.lineA.st.inService s.lines.lineB.st.inService first ja jb
  let t := (((s.dropWindow a).seenIf .a ja).seenIf .b jb).chargeFaults r.number a res.2
  obtain ⟨x, used, source, both⟩ := usedAnswer_heard (copyA := copyA) (copyB := copyB) judgeCopy_answers judgeCopy_answers good
    s.lines.lineA.st.inService s.lines.lineB.st.inService first t.tie
  obtain ⟨c, chosen⟩ : ∃ c, t.choseIf (res.1 == .either) = s.windowHeard a r.number ja jb c := by
    rw [show t = _ from charged, State.choseIf]
    split
    · exact ⟨_, rfl⟩
    · exact ⟨_, rfl⟩
  refine ⟨x, c, ?_, source, both⟩
  show (t.choseIf (res.1 == .either)).windowResult a r (usedAnswer res.1 t.tie copyA copyB) = _
  have here : (s.windowHeard a r.number ja jb c).node? a = some n := hn
  rw [show usedAnswer res.1 t.tie copyA copyB = some x from used, chosen]
  simp only [State.windowResult, here, window, if_true]

end Sys2Proof.Machine

/-! O39: a good answer in its stages (02:R32). -/

namespace Sys2Proof.Machine

open Sys2Proof

/-! ### The stages -/

section Congruence
variable {s t : State}

theorem State.deliverable_of (revoc : t.revoc = s.revoc) (concerns : ∀ cred x, t.credRelevant cred x = s.credRelevant cred x) :
    t.caughtUp = s.caughtUp := by
  have deliverable (c : Change) (n : Node) : t.deliverable c n = s.deliverable c n := by
    have relevant : t.relevant c n = s.relevant c n := by
      unfold State.relevant
      cases c.body <;> simp only [concerns]
    rw [State.deliverable, relevant]
    rfl
  funext n
  simp only [State.caughtUp, revoc, deliverable]

theorem State.ackedNode_congr (store : t.store = s.store) (revoc : t.revoc = s.revoc) : t.ackedNode = s.ackedNode := by
  funext ack cacheLost n
  simp only [State.ackedNode, State.cacheCount_congr store revoc, revoc]

end Congruence

/-- The stages of a good answer `x` of the node `n`: the record heard and acknowledged is `k`, presented `p`, its items handed on `q`, its
pending flag heeded `w`, tested `m`. -/
structure GoodAnswer (r : Round) (x : Answer) (n k p q w m : Node) (s s₁ s₂ s₃ t : State) : Prop where
  settled : NodeTurned n.addr k (n.returnRecords s.now) (n.hearsChange r x || decide (k.fallback ≠ n.fallback)) s s₁
  acked : k = s.ackedNode x.ack.toNat x.status.cacheLost (n.heard r x s.time.epoch)
  presents : s₂ = s₁.presentation n.addr r x.pres
  presented : Presented n.addr k p s₁ s₂
  last : ∀ pres, x.pres = some pres → p.lastPres = some pres.number.toNat
  items : s₃ = x.items.foldl (State.item n.addr) s₂
  handed : Handed n.addr p q s₂ s₃
  left : PermitLeft (x.items.filter isOfflineRecord).length p q
  flagged : w = q.pendingHeard s₃.journal.freeSpace s.time.epoch x.pending x.seconds.toNat r.secs p.permit
  tested : m = w.tested (s.passesProbation ((n.heard r x s.time.epoch).endsReload x.ack.toNat x.status.cacheLost) w)
  done : NodeTurned n.addr m
    (if s.passesProbation ((n.heard r x s.time.epoch).endsReload x.ack.toNat x.status.cacheLost) w
      then [(s.now, nodeStateEntry w (.nodeState .online))] else [])
    (s.passesProbation ((n.heard r x s.time.epoch).endsReload x.ack.toNat x.status.cacheLost) w) s₃ t

section Stages
variable {r : Round} {x : Answer} {n k p q w m : Node} {s s₁ s₂ s₃ t : State}

theorem State.ackedNode_kept (s : State) (ack : Nat) (cacheLost : Bool) (n : Node) : s.ackedNode ack cacheLost n = { n with
    cursor := (s.ackedNode ack cacheLost n).cursor, reload := (s.ackedNode ack cacheLost n).reload
    fallback := (s.ackedNode ack cacheLost n).fallback, latchFallback := (s.ackedNode ack cacheLost n).latchFallback } := by
  unfold State.ackedNode
  (repeat' split) <;> rfl

theorem Node.pendingHeard_kept (free epoch : Nat) (pending : Bool) (s1 w1 : Nat) (before : Permit) (n : Node) :
    n.pendingHeard free epoch pending s1 w1 before = { n with
      upload := (n.pendingHeard free epoch pending s1 w1 before).upload, received := (n.pendingHeard free epoch pending s1 w1 before).received
      permit := (n.pendingHeard free epoch pending s1 w1 before).permit
      latchPermit := (n.pendingHeard free epoch pending s1 w1 before).latchPermit
      clock := (n.pendingHeard free epoch pending s1 w1 before).clock } := by
  unfold Node.pendingHeard
  split
  · rw [Node.withMark_permitted]
  · rfl
  · rfl
  · split
    · split
      · rw [Node.reopened_eq]
      · rfl
    · rfl

theorem Node.heard_answering (window : n.st.hasWindow = true) (r : Round) (x : Answer) (epoch : Nat) :
    (n.heard r x epoch).st.answering = true := by
  obtain st | st | st := Node.hasWindow_cases window <;> simp [Node.heard, st, NodeState.answering]

theorem State.goodAnswer_stages (hn : s.node? n.addr = some n) (window : n.st.hasWindow = true) (running : s.part = .running) (r : Round)
    (x : Answer) : ∃ k p q w m s₁ s₂ s₃, GoodAnswer r x n k p q w m s s₁ s₂ s₃ (s.goodAnswer n r x) := by
  obtain ⟨s₀, hs₀⟩ : ∃ s₀, s₀ = ((s.goodAnswerState n).storeStatus n.addr x.status).clockReading n.addr r x := ⟨_, rfl⟩
  have heard := NodeTurned.heard hn window running r x
  rw [← hs₀] at heard
  have store : s₀.store = s.store := (congrArg State.store heard.rest :)
  have revoc : s₀.revoc = s.revoc := (congrArg State.revoc heard.rest :)
  have acked := NodeTurned.acknowledge heard.node (heard.part.trans running) x.ack.toNat x.status.cacheLost
  rw [State.ackedNode_congr store revoc] at acked
  have settled := heard.andThen acked
  obtain ⟨s₁, hs₁⟩ : ∃ s₁, s₁ = s₀.acknowledge n.addr x.ack.toNat x.status.cacheLost := ⟨_, rfl⟩
  rw [← hs₁] at settled
  obtain ⟨p, presented, last⟩ := Presented.presentation settled.node r x.pres
  obtain ⟨s₂, hs₂⟩ : ∃ s₂, s₂ = s₁.presentation n.addr r x.pres := ⟨_, rfl⟩
  rw [← hs₂] at presented
  obtain ⟨q, handed, left⟩ := Handed.items x.items presented.node
  obtain ⟨s₃, hs₃⟩ : ∃ s₃, s₃ = x.items.foldl (State.item n.addr) s₂ := ⟨_, rfl⟩
  rw [← hs₃] at handed
  have time : s₃.time = s.time := (congrArg State.time handed.rest :).trans ((congrArg State.time presented.rest :).trans
    (congrArg State.time settled.rest :))
  have part : s₃.part = .running := (congrArg State.part handed.rest :).trans ((congrArg State.part presented.rest :).trans
    (settled.part.trans running))
  have concerns (cred : Option Nat) (y : Node) : s₃.credRelevant cred y = s.credRelevant cred y := by
    have later : s₃.credRelevant cred y = s₂.credRelevant cred y := (congrArg (fun v : State => v.credRelevant cred y) handed.rest :)
    have first : s₁.credRelevant cred y = s.credRelevant cred y := (congrArg (fun v : State => v.credRelevant cred y) settled.rest :)
    exact later.trans ((presented.concerns cred y).trans first)
  have revoc₃ : s₃.revoc = s.revoc := (congrArg State.revoc handed.rest :).trans ((congrArg State.revoc presented.rest :).trans
    (congrArg State.revoc settled.rest :))
  have answering : q.st.answering = true := by
    rw [handed.kept, presented.kept, State.ackedNode_kept]
    exact Node.heard_answering window r x s.time.epoch
  have permit : s₂.permitOf n.addr = p.permit := by rw [State.permitOf, presented.node]; rfl
  have flagged := NodeTurned.pendingFlag handed.node answering x.pending x.seconds.toNat r.secs p.permit
  rw [time] at flagged
  obtain ⟨s₄, hs₄⟩ : ∃ s₄, s₄ = s₃.pendingFlag n.addr x.pending x.seconds.toNat r.secs p.permit := ⟨_, rfl⟩
  rw [← hs₄] at flagged
  have tested := NodeTurned.probationTest flagged.node (flagged.part.trans part)
    ((n.heard r x s.time.epoch).endsReload x.ack.toNat x.status.cacheLost)
  have caught : s₄.caughtUp = s.caughtUp := (congrArg State.caughtUp flagged.rest :).trans (State.deliverable_of revoc₃ concerns)
  have passes (b : Bool) (y : Node) : s₄.passesProbation b y = s.passesProbation b y := by
    simp only [State.passesProbation, caught]
  rw [passes, show s₄.now = s.now from (congrArg State.now flagged.rest :).trans (State.now_eq time)] at tested
  have done := flagged.trans tested
  rw [List.nil_append, Bool.false_or] at done
  have acts : s.goodAnswer n r x = s₄.probationTest n.addr ((n.heard r x s.time.epoch).endsReload x.ack.toNat x.status.cacheLost) := by
    have ended : (s₀.node? n.addr).any (fun m => m.endsReload x.ack.toNat x.status.cacheLost)
        = (n.heard r x s.time.epoch).endsReload x.ack.toNat x.status.cacheLost := by
      rw [heard.node]
      rfl
    rw [hs₄, ← permit, hs₃, hs₂, hs₁, ← ended, hs₀]
    rfl
  refine ⟨_, p, q, _, _, s₁, s₂, s₃, ⟨settled, rfl, hs₂, presented, last, hs₃, handed, left, rfl, rfl, acts ▸ done⟩⟩

end Stages

end Sys2Proof.Machine

/-! O39: what the stages of a good answer leave of the node, field by field. -/

namespace Sys2Proof.Machine

open Sys2Proof

/-! ### The acknowledged generation -/

section Acknowledged
variable {s : State} {ack : Nat} {cacheLost : Bool} {n : Node}

theorem State.ackedNode_idle (idle : n.reload.underWay = false) :
    (s.ackedNode ack cacheLost n).cursor = n.cursor.acknowledge s.revoc.gen ack ∧ (s.ackedNode ack cacheLost n).fallback = n.fallback ∧
      (s.ackedNode ack cacheLost n).reload = if n.fallback = .restricted ∧ n.reload.isNone ∧ s.cacheCount (n.cursorMoved s.revoc.gen ack) ≤ 256
        ∧ s.cacheCount (n.cursorMoved s.revoc.gen ack) < s.cacheCount n then .marked else n.reload := by
  rw [State.ackedNode, idle, if_neg Bool.false_ne_true]
  split <;> exact ⟨rfl, rfl, rfl⟩

theorem State.ackedNode_ends (ends : n.endsReload ack cacheLost = true) :
    (s.ackedNode ack cacheLost n).cursor = ⟨ack, ack, 0⟩ ∧ (s.ackedNode ack cacheLost n).reload = .none ∧
      (s.ackedNode ack cacheLost n).fallback = if n.fallback = .restricted ∧ s.cacheCount (n.reloaded ack) ≤ 256 then .full else n.fallback := by
  have under : n.reload.underWay = true := by
    unfold Node.endsReload at ends
    split at ends
    · rename_i reload
      rw [reload]
      rfl
    · cases ends
  rw [State.ackedNode, if_pos under, if_pos ends]
  split <;> exact ⟨rfl, rfl, rfl⟩

theorem State.ackedNode_goes (under : n.reload.underWay = true) (goes : n.endsReload ack cacheLost = false) :
    s.ackedNode ack cacheLost n = n := by
  rw [State.ackedNode, if_pos under, goes, if_neg Bool.false_ne_true]

/-- FALLBACK_PARAMS is latched by a change of the fallback mode. -/
theorem State.ackedNode_latches (s : State) (ack : Nat) (cacheLost : Bool) (n : Node) : (s.ackedNode ack cacheLost n).latchFallback
    = (n.latchFallback || decide ((s.ackedNode ack cacheLost n).fallback ≠ n.fallback)) := by
  cases under : n.reload.underWay with
  | false =>
    rw [(State.ackedNode_idle under).2.1, State.ackedNode, under, if_neg Bool.false_ne_true]
    split <;> simp [Node.cursorMoved, Node.marked]
  | true =>
    rw [State.ackedNode, if_pos under]
    split
    · split
      · rename_i falls
        simp [falls.1]
      · simp [Node.reloaded]
    · simp

theorem Node.endsReload_iff : n.endsReload ack cacheLost = true ↔
    ∃ g w, n.reload = .awaiting g w ∧ 1 ≤ w ∧ ack = g ∧ cacheLost = false := by
  unfold Node.endsReload
  cases n.reload with
  | awaiting g w =>
    simp only [Bool.and_eq_true, decide_eq_true_eq, beq_iff_eq, Bool.not_eq_true', Reload.awaiting.injEq]
    exact ⟨fun ⟨⟨passed, same⟩, clear⟩ => ⟨g, w, ⟨rfl, rfl⟩, passed, same, clear⟩,
      fun ⟨_, _, ⟨rfl, rfl⟩, passed, same, clear⟩ => ⟨⟨passed, same⟩, clear⟩⟩
  | _ => simp

end Acknowledged

/-! ### The clock and the lost cache -/

section Heard
variable {r : Round} {x : Answer} {n : Node} {epoch : Nat}

theorem Node.losesCache_eq (n : Node) (b : StatusBits) : (b.cacheLost && !(n.status.any (fun c => c.cacheLost))) = n.losesCache b := by
  unfold Node.losesCache Node.heldStatus
  cases n.status <;> rfl

theorem Node.heard_underWay (r : Round) (x : Answer) (epoch : Nat) (n : Node) :
    (n.heard r x epoch).reload.underWay = (n.reload.underWay && !n.losesCache x.status) := by
  unfold Node.heard
  cases n.losesCache x.status with
  | false => exact (Bool.and_true _).symm
  | true => exact (Bool.and_false _).symm

/-- A reload under way at an answer whose cache lost bit is not newly set is the node's own. -/
theorem Node.heard_reload (kept : n.losesCache x.status = false) : (n.heard r x epoch).reload = n.reload := by
  rw [Node.heard, kept]
  rfl

theorem Node.hearsChange_iff : n.hearsChange r x = true ↔ n.st = .silent ∨ n.heldStatus.batteryLow ≠ x.status.batteryLow ∨
    n.heldStatus.fallbackActive ≠ x.status.fallbackActive ∨ n.losesCache x.status = true ∨
    (n.clock.sample r.number r.tick x.ticks.toNat).suspect = true ∧ n.clock.suspect = false := by
  simp [Node.hearsChange, or_assoc]

theorem Clock.judge_anchor (raw : Int) (c : Clock) : (c.judge raw).anchor = c.anchor := by
  unfold Clock.judge
  split <;> rfl

theorem Clock.sample_anchor (number tick stamp : Nat) (c : Clock) : (c.sample number tick stamp).anchor = c.anchor := by
  unfold Clock.sample
  split
  · rfl
  · split
    · exact Clock.judge_anchor _ c
    · rfl

theorem sub48_wrapped (a : Nat) {n : Nat} (h : n < 281474976710656) : sub48 ((a + n) % 281474976710656) a = n := by
  unfold sub48
  omega

theorem Clock.sample_closes {c : Clock} {sp : Span} (held : c.span = some sp) (lo : 64 ≤ sp.k) (hi : sp.k ≤ 72) (number : Nat)
    {tick stamp dw dn : Nat} (ticks : dw < 281474976710656) (stamps : dn < 4294967296) (w : tick = (sp.w0 + dw) % 281474976710656)
    (v : stamp = (sp.n0 + dn) % 4294967296) : c.sample number tick stamp = (c.judge (rawSample dw dn)).openSpan number tick stamp := by
  have elapsed : sub48 tick sp.w0 = dw := by rw [w, sub48_wrapped _ ticks]
  have counted : sub32 stamp sp.n0 = dn := by rw [v, sub32_wrapped _ stamps]
  simp only [Clock.sample, held, if_pos (And.intro lo hi), elapsed, counted]

theorem Clock.sample_waits {c : Clock} {sp : Span} (held : c.span = some sp) (young : sp.k < 64) (number tick stamp : Nat) :
    c.sample number tick stamp = c := by
  simp only [Clock.sample, held]
  exact if_neg fun h => absurd h.1 (Nat.not_le.mpr young)

theorem Clock.sample_opens {c : Clock} (none : c.span = none) (number tick stamp : Nat) : c.sample number tick stamp = c.openSpan number tick stamp := by
  simp only [Clock.sample, none]

theorem Node.pendingHeard_clock (free epoch : Nat) (pending : Bool) (s1 w1 : Nat) (before : Permit) (n : Node) :
    (n.pendingHeard free epoch pending s1 w1 before).clock = { n.clock with
      anchor := (n.pendingHeard free epoch pending s1 w1 before).clock.anchor } := by
  unfold Node.pendingHeard
  split
  · rw [Node.withMark_permitted]
  · rfl
  · unfold Node.drained
    dsimp only
    split <;> rfl
  · split
    · split
      · rw [Node.reopened_eq]
      · rfl
    · rfl

theorem Node.clockHeard_sampled (r : Round) (x : Answer) (epoch : Nat) (n : Node) : n.clockHeard r x epoch = { n.clock.sample r.number r.tick x.ticks.toNat with
    anchor := (n.clockHeard r x epoch).anchor } := by
  unfold Node.clockHeard
  split <;> rfl

end Heard

/-! ### The node's record -/

section Record
variable {r : Round} {x : Answer} {h n k p q w m : Node} {s s₁ s₂ s₃ t : State}

theorem Node.answer_frame (acked : k = { h with cursor := k.cursor, reload := k.reload, fallback := k.fallback, latchFallback := k.latchFallback })
    (presented : p = { k with lastPres := p.lastPres, memory := p.memory })
    (handed : q = { p with memory := q.memory, received := q.received, permit := q.permit, latchPermit := q.latchPermit, comps := q.comps
                           session := q.session })
    (flagged : w = { q with upload := w.upload, received := w.received, permit := w.permit, latchPermit := w.latchPermit, clock := w.clock })
    (tested : m = { w with st := m.st }) : m = { h with
      st := m.st, lastPres := p.lastPres, cursor := k.cursor, reload := k.reload, fallback := k.fallback, latchFallback := k.latchFallback
      memory := q.memory, comps := q.comps, session := q.session, upload := w.upload, received := w.received, permit := w.permit
      latchPermit := w.latchPermit, clock := w.clock } := by
  rw [tested, flagged, handed, presented, acked]

theorem Node.tested_kept (b : Bool) (n : Node) : n.tested b = { n with st := (n.tested b).st } := by
  unfold Node.tested
  split <;> rfl

/-- The test of the record `w` that the answer `x` of the node `n` leaves (02:R34). -/
def State.answerPasses (s : State) (r : Round) (x : Answer) (n w : Node) : Bool :=
  s.passesProbation ((n.heard r x s.time.epoch).endsReload x.ack.toNat x.status.cacheLost) w

variable (G : GoodAnswer r x n k p q w m s s₁ s₂ s₃ t)
include G

theorem GoodAnswer.keeps : k = { n.heard r x s.time.epoch with
    cursor := k.cursor, reload := k.reload, fallback := k.fallback, latchFallback := k.latchFallback } := by
  rw [G.acked]
  exact s.ackedNode_kept _ _ _

theorem GoodAnswer.flags : w = { q with
    upload := w.upload, received := w.received, permit := w.permit, latchPermit := w.latchPermit, clock := w.clock } := by
  rw [G.flagged]
  exact Node.pendingHeard_kept _ _ _ _ _ _ _

theorem GoodAnswer.tests : m = { w with st := m.st } := by
  rw [G.tested]
  exact Node.tested_kept _ _

theorem GoodAnswer.record : m = { n.heard r x s.time.epoch with
    st := m.st, lastPres := p.lastPres, cursor := k.cursor, reload := k.reload, fallback := k.fallback, latchFallback := k.latchFallback
    memory := q.memory, comps := q.comps, session := q.session, upload := w.upload, received := w.received, permit := w.permit
    latchPermit := w.latchPermit, clock := w.clock } :=
  Node.answer_frame G.keeps G.presented.kept G.handed.kept G.flags G.tests

/-! ### State and counts -/

theorem GoodAnswer.good : m.good = if n.st = .silent then 1 else min 255 (n.good + 1) := (congrArg Node.good G.record :)

theorem GoodAnswer.before : w.st = if n.st = .silent then .probation else n.st := by
  have flags : w.st = q.st := (congrArg Node.st G.flags :)
  have handed : q.st = p.st := (congrArg Node.st G.handed.kept :)
  have presented : p.st = k.st := (congrArg Node.st G.presented.kept :)
  rw [flags, handed, presented]
  exact (congrArg Node.st G.keeps :)

theorem GoodAnswer.state : m.st = if s.answerPasses r x n w then .online else w.st := by
  rw [G.tested, Node.tested, apply_ite Node.st]
  rfl

theorem GoodAnswer.passed_iff : s.answerPasses r x n w = true ↔ w.st = .probation ∧ 8 ≤ m.good ∧ m.upload = none ∧
    ((n.heard r x s.time.epoch).endsReload x.ack.toNat x.status.cacheLost = true ∨ s.caughtUp m = true) := by
  have good : w.good = m.good := (congrArg Node.good G.tests :).symm
  have upload : w.upload = m.upload := (congrArg Node.upload G.tests :).symm
  have caught : s.caughtUp m = s.caughtUp w := by
    rw [G.tests]
    rfl
  rw [State.answerPasses, State.passesProbation, decide_eq_true_iff, good, upload, caught, Option.isNone_iff_eq_none]

theorem GoodAnswer.online (st : n.st = .online) : m.st = .online := by
  have before := G.before
  rw [st, if_neg (by simp)] at before
  rw [G.state, before]
  split <;> rfl

theorem GoodAnswer.returned (st : n.st = .silent) : m.st = .probation := by
  have good := G.good
  rw [if_pos st] at good
  have fails : ¬ s.answerPasses r x n w = true := fun passed => absurd (G.passed_iff.mp passed).2.1 (by rw [good]; decide)
  rw [G.state, if_neg fails, G.before, if_pos st]

theorem GoodAnswer.probation (st : n.st = .probation) : m.st = if s.answerPasses r x n w then .online else .probation := by
  rw [G.state, G.before, st]
  rfl

/-- The node goes to ONLINE exactly when it passes the test. -/
theorem GoodAnswer.passed_eq (window : n.st.hasWindow = true) : s.answerPasses r x n w = decide (n.st ≠ .online ∧ m.st = .online) := by
  obtain st | st | st := Node.hasWindow_cases window
  · rw [G.probation st, st]
    cases s.answerPasses r x n w <;> simp
  · have fails : ¬ s.answerPasses r x n w = true := fun passed => by
      have before := (G.passed_iff.mp passed).1
      rw [G.before, st] at before
      simp at before
    rw [st]
    simpa using fails
  · have fails : ¬ s.answerPasses r x n w = true := fun passed => by
      have online := G.state
      rw [if_pos passed, G.returned st] at online
      cases online
    rw [G.returned st]
    simpa using fails

/-- The state changes exactly for a SILENT node and one that passes the test. -/
theorem GoodAnswer.changes (window : n.st.hasWindow = true) : decide (m.st ≠ n.st) = (decide (n.st = .silent) || s.answerPasses r x n w) := by
  rw [G.passed_eq window]
  obtain st | st | st := Node.hasWindow_cases window
  · rw [G.probation st, st]
    cases s.answerPasses r x n w <;> simp
  · rw [G.online st, st]
    rfl
  · rw [G.returned st, st]
    rfl

/-! ### Clock and fallback mode -/

theorem GoodAnswer.handedClock : q.clock = n.clockHeard r x s.time.epoch := by
  have handed : q.clock = p.clock := (congrArg Node.clock G.handed.kept :)
  have presented : p.clock = k.clock := (congrArg Node.clock G.presented.kept :)
  rw [handed, presented]
  exact (congrArg Node.clock G.keeps :)

theorem GoodAnswer.clock : m.clock = { n.clock.sample r.number r.tick x.ticks.toNat with anchor := m.clock.anchor } := by
  have tests : m.clock = w.clock := (congrArg Node.clock G.tests :)
  have flagged : w.clock = { q.clock with anchor := w.clock.anchor } := by
    rw [G.flagged]
    exact Node.pendingHeard_clock _ _ _ _ _ _ _
  rw [tests, flagged, G.handedClock, Node.clockHeard_sampled]

theorem GoodAnswer.latches : m.latchFallback = (n.latchFallback || decide (n.st = .silent ∨
    (n.clock.sample r.number r.tick x.ticks.toNat).grace ≠ n.clock.grace ∨ m.fallback ≠ n.fallback)) := by
  have latch : m.latchFallback = k.latchFallback := (congrArg Node.latchFallback G.record :)
  have mode : m.fallback = k.fallback := (congrArg Node.fallback G.record :)
  rw [latch, mode, G.acked, State.ackedNode_latches]
  show (_ || decide _ || decide (_ ≠ n.fallback)) = _
  rw [Bool.or_assoc, ← Bool.decide_or]
  exact congrArg (n.latchFallback || ·) (decide_eq_decide.mpr or_assoc)

/-! ### NODE_CHANGE -/

theorem GoodAnswer.nodeChange (window : n.st.hasWindow = true) : t.port.arm.nodeChange = (s.port.arm.nodeChange && !decide (m.st ≠ n.st ∨
    m.fallback ≠ n.fallback ∨ n.heldStatus.batteryLow ≠ x.status.batteryLow ∨ n.heldStatus.fallbackActive ≠ x.status.fallbackActive ∨
    n.losesCache x.status = true ∨ (n.clock.sample r.number r.tick x.ticks.toNat).suspect = true ∧ n.clock.suspect = false)) := by
  have mode : m.fallback = k.fallback := (congrArg Node.fallback G.record :)
  have arm : t.port.arm.nodeChange = (s₃.port.arm.nodeChange && !s.answerPasses r x n w) := G.done.arm
  have changes : m.st ≠ n.st ↔ n.st = .silent ∨ s.answerPasses r x n w = true := by
    rw [← decide_eq_true_iff (p := m.st ≠ n.st), G.changes window, Bool.or_eq_true, decide_eq_true_iff]
  rw [arm, G.handed.nodeChange, G.presented.nodeChange, G.settled.arm, mode, Bool.and_assoc, ← Bool.not_or]
  refine congrArg (s.port.arm.nodeChange && !·) (Bool.eq_iff_iff.mpr ?_)
  rw [Bool.or_eq_true, Bool.or_eq_true, Node.hearsChange_iff, decide_eq_true_iff, decide_eq_true_iff, changes]
  tauto

end Record

end Sys2Proof.Machine

/-! O39: cursor, upload, permit and the units behind the items at a good answer. -/

namespace Sys2Proof.Machine

open Sys2Proof

section Record
variable {r : Round} {x : Answer} {n k p q w m : Node} {s s₁ s₂ s₃ t : State} (G : GoodAnswer r x n k p q w m s s₁ s₂ s₃ t)
include G

/-! ### Cursor and reload (05:R106, R107, R110) -/

theorem GoodAnswer.delivery : m.cursor = k.cursor ∧ m.reload = k.reload ∧ m.fallback = k.fallback :=
  ⟨(congrArg Node.cursor G.record :), (congrArg Node.reload G.record :), (congrArg Node.fallback G.record :)⟩

/-- No reload under way: the cursor moves, and the mode stands. -/
theorem GoodAnswer.idle (idle : (n.heard r x s.time.epoch).reload.underWay = false) :
    m.cursor = n.cursor.acknowledge s.revoc.gen x.ack.toNat ∧ m.fallback = n.fallback := by
  obtain ⟨cursor, -, mode⟩ := G.delivery
  obtain ⟨moved, stands, -⟩ := State.ackedNode_idle (s := s) (ack := x.ack.toNat) (cacheLost := x.status.cacheLost) idle
  rw [cursor, mode, G.acked]
  exact ⟨moved, stands⟩

theorem GoodAnswer.lost (lost : n.losesCache x.status = true) : m.reload = .marked := by
  have marked : (n.heard r x s.time.epoch).reload = .marked := if_pos lost
  obtain ⟨-, -, reload⟩ := State.ackedNode_idle (s := s) (ack := x.ack.toNat) (cacheLost := x.status.cacheLost)
    (n := n.heard r x s.time.epoch) (by rw [marked]; rfl)
  rw [G.delivery.2.1, G.acked, reload, marked]
  split <;> rfl

/-- The mark of a RESTRICTED node whose cache count falls to 256 or less. -/
theorem GoodAnswer.relaxed (idle : (n.heard r x s.time.epoch).reload.underWay = false) (kept : n.losesCache x.status = false) :
    m.reload = if n.fallback = .restricted ∧ n.reload = .none ∧ s.cacheCount { n with cursor := m.cursor } ≤ 256
      ∧ s.cacheCount { n with cursor := m.cursor } < s.cacheCount n then .marked else n.reload := by
  obtain ⟨-, -, reload⟩ := State.ackedNode_idle (s := s) (ack := x.ack.toNat) (cacheLost := x.status.cacheLost) idle
  have none : n.reload.isNone = true ↔ n.reload = .none := by cases n.reload <;> simp [Reload.isNone]
  rw [G.delivery.2.1, G.acked, reload, Node.heard_reload kept, (G.idle idle).1]
  simp only [none]
  rfl

/-- A reload that this answer ends. -/
theorem GoodAnswer.ends (kept : n.losesCache x.status = false) {g wait : Nat} (awaits : n.reload = .awaiting g wait) (passed : 1 ≤ wait)
    (same : x.ack.toNat = g) (clear : x.status.cacheLost = false) : m.cursor = ⟨g, g, 0⟩ ∧ m.reload = .none ∧
      m.fallback = if n.fallback = .restricted ∧ s.cacheCount { n with cursor := ⟨g, g, 0⟩ } ≤ 256 then .full else n.fallback := by
  have ends : (n.heard r x s.time.epoch).endsReload x.ack.toNat x.status.cacheLost = true :=
    Node.endsReload_iff.mpr ⟨g, wait, (Node.heard_reload kept).trans awaits, passed, same, clear⟩
  obtain ⟨cursor, reload, mode⟩ := G.delivery
  rw [cursor, reload, mode, G.acked]
  subst same
  exact State.ackedNode_ends ends

/-- A reload that goes on. -/
theorem GoodAnswer.goes (under : (n.heard r x s.time.epoch).reload.underWay = true) (kept : n.losesCache x.status = false)
    (fails : ∀ g wait, n.reload = .awaiting g wait → wait = 0 ∨ x.ack.toNat ≠ g ∨ x.status.cacheLost = true) :
    m.cursor = n.cursor ∧ m.reload = n.reload ∧ m.fallback = n.fallback := by
  have goes : (n.heard r x s.time.epoch).endsReload x.ack.toNat x.status.cacheLost = false := by
    rw [← Bool.not_eq_true, Node.endsReload_iff]
    rintro ⟨g, wait, awaits, passed, same, clear⟩
    obtain zero | other | lost := fails g wait ((Node.heard_reload kept).symm.trans awaits)
    · omega
    · exact other same
    · rw [lost] at clear
      cases clear
  obtain ⟨cursor, reload, mode⟩ := G.delivery
  rw [cursor, reload, mode, G.acked, State.ackedNode_goes under goes]
  exact ⟨rfl, Node.heard_reload kept, rfl⟩

/-- A PROBATION node passes its test (02:R34, 05:R104). -/
theorem GoodAnswer.passes_iff (st : n.st = .probation) : m.st = .online ↔ 8 ≤ m.good ∧ m.upload = none ∧
    ((∃ g wait, (n.reload.underWay && !n.losesCache x.status) = true ∧ n.reload = .awaiting g wait ∧ 1 ≤ wait ∧ x.ack.toNat = g ∧
      x.status.cacheLost = false) ∨
      m.reload = .none ∧ ∀ c ∈ s.revoc.changes, s.Delivers c m → genBelow m.cursor.sent c.gen = false) := by
  have ends : (n.heard r x s.time.epoch).endsReload x.ack.toNat x.status.cacheLost = true ↔
      ∃ g wait, (n.reload.underWay && !n.losesCache x.status) = true ∧ n.reload = .awaiting g wait ∧ 1 ≤ wait ∧ x.ack.toNat = g ∧
        x.status.cacheLost = false := by
    rw [Node.endsReload_iff]
    cases lost : n.losesCache x.status with
    | true =>
      have marked : (n.heard r x s.time.epoch).reload = .marked := if_pos lost
      simp [marked]
    | false =>
      rw [Node.heard_reload lost]
      refine exists_congr fun g => exists_congr fun wait => ⟨fun h => ⟨by rw [h.1]; rfl, h⟩, fun h => h.2⟩
  have caught : s.caughtUp m = true ↔ m.reload = .none ∧ ∀ c ∈ s.revoc.changes, s.Delivers c m → genBelow m.cursor.sent c.gen = false := by
    have none : m.reload.isNone = true ↔ m.reload = .none := by cases m.reload <;> simp [Reload.isNone]
    simp only [State.caughtUp, Bool.and_eq_true, none, List.all_eq_true, Bool.or_eq_true, Bool.not_eq_true', ← State.deliverable_iff]
    refine and_congr_right fun _ => forall₂_congr fun c _ => ?_
    cases s.deliverable c m <;> simp
  have before : w.st = .probation := by rw [G.before, st]; rfl
  have online : m.st = .online ↔ s.answerPasses r x n w = true := by
    rw [G.probation st]
    cases s.answerPasses r x n w <;> simp
  rw [online, G.passed_iff, ends, caught]
  exact and_iff_right before

/-! ### Upload and permit (07:R131, R132, R136) -/

theorem GoodAnswer.handedUpload : q.upload = n.upload := by
  have presented : p.upload = k.upload := (congrArg Node.upload G.presented.kept :)
  rw [G.handed.upload, presented]
  exact (congrArg Node.upload G.keeps :)

theorem GoodAnswer.presentedPermit : p.permit = (if n.st = .silent then .none else n.permit) ∧ p.latchPermit = n.latchPermit := by
  have permit : p.permit = k.permit := (congrArg Node.permit G.presented.kept :)
  have latch : p.latchPermit = k.latchPermit := (congrArg Node.latchPermit G.presented.kept :)
  rw [permit, latch]
  exact ⟨(congrArg Node.permit G.keeps :), (congrArg Node.latchPermit G.keeps :)⟩

/-- The permit fields are those that the pending flag leaves. -/
theorem GoodAnswer.uploads : m.upload = w.upload ∧ m.received = w.received ∧ m.permit = w.permit ∧ m.latchPermit = w.latchPermit ∧ m.clock = w.clock :=
  ⟨(congrArg Node.upload G.tests :), (congrArg Node.received G.tests :), (congrArg Node.permit G.tests :), (congrArg Node.latchPermit G.tests :),
    (congrArg Node.clock G.tests :)⟩

/-- Without an upload no record is taken, and the permit stands through the items. -/
theorem GoodAnswer.idlePermit (none : n.upload = none) : q.permit = (if n.st = .silent then .none else n.permit) ∧ q.latchPermit = n.latchPermit := by
  obtain ⟨permit, latch⟩ := G.presentedPermit
  have same := G.left.idle (.inl (G.handed.upload.symm.trans (G.handedUpload.trans none)))
  exact ⟨same.1.trans permit, same.2.1.trans latch⟩

/-- A node with an upload writes no record in the test, so the journal is that of the items. -/
theorem GoodAnswer.uploading {up : Upload} (upload : m.upload = some up) : t.journal = s₃.journal := by
  have fails : s.answerPasses r x n w = false := Bool.eq_false_iff.mpr fun passed => by
    rw [(G.passed_iff.mp passed).2.2.1] at upload
    cases upload
  have journal : t.journal = s₃.journal.pushAll (if s.answerPasses r x n w then [(s.now, nodeStateEntry w (.nodeState .online))] else []) :=
    G.done.journal
  rw [journal, fails]
  rfl

theorem GoodAnswer.marked (absent : n.upload = none) (pending : x.pending = true) :
    m.upload = some ((n.clock.sample r.number r.tick x.ticks.toNat).takeMark x.seconds.toNat r.secs s.time.epoch) ∧
      m.received = 0 ∧ m.clock.anchor = n.clock.anchor ∧
      m.permit = (if decide (64 ≤ t.journal.freeSpace) then .latched else .none) ∧
      m.latchPermit = (n.latchPermit || decide (64 ≤ t.journal.freeSpace)) := by
  have clock : q.clock = n.clock.sample r.number r.tick x.ticks.toNat := by
    rw [G.handedClock, Node.clockHeard, pending]
    rfl
  have flagged := G.flagged
  simp only [Node.pendingHeard, G.handedUpload, absent, pending, Node.withMark_permitted, clock] at flagged
  obtain ⟨upload, received, permit, latch, clocks⟩ := G.uploads
  have journal := G.uploading (upload.trans (congrArg Node.upload flagged :))
  rw [upload, received, permit, latch, clocks, flagged, journal, Clock.sample_anchor, (G.idlePermit absent).2]
  refine ⟨rfl, rfl, rfl, ?_, rfl⟩
  by_cases room : 64 ≤ s₃.journal.freeSpace <;> simp [room]

theorem GoodAnswer.anchored (absent : n.upload = none) (pending : x.pending = false) : m.upload = none ∧
    m.permit = (if n.st = .silent then .none else n.permit) ∧ m.latchPermit = n.latchPermit ∧
    m.clock.anchor = some ⟨x.seconds.toNat, r.secs, s.time.epoch⟩ := by
  have flagged := G.flagged
  simp only [Node.pendingHeard, G.handedUpload, absent, pending] at flagged
  obtain ⟨upload, -, permit, latch, clocks⟩ := G.uploads
  obtain ⟨opened, stands⟩ := G.idlePermit absent
  rw [upload, permit, latch, clocks, flagged, G.handedUpload, G.handedClock, opened, stands, Node.clockHeard, pending, absent]
  exact ⟨rfl, rfl, rfl, rfl⟩

/-- The anchor stands through an upload until it is drained. -/
theorem GoodAnswer.handedAnchor {up : Upload} (held : n.upload = some up) : q.clock.anchor = n.clock.anchor := by
  rw [G.handedClock, Node.clockHeard, held, Option.isSome_some, Bool.or_true, if_pos rfl, Clock.sample_anchor]

theorem GoodAnswer.pendingKept {up : Upload} (held : n.upload = some up) (pending : x.pending = true) :
    (∀ j, q.permit = .opened j → p.permit = .opened j → w = q.reopened s₃.journal.freeSpace) ∧
      ((∀ j, q.permit = .opened j → p.permit ≠ .opened j) → w = q) := by
  have flagged := G.flagged
  simp only [Node.pendingHeard, G.handedUpload, held, pending] at flagged
  rw [flagged]
  cases q.permit with
  | opened i =>
    refine ⟨fun j now was => ?_, fun other => if_neg (other i rfl)⟩
    cases now
    exact if_pos was
  | none => exact ⟨fun _ now => (nomatch now), fun _ => rfl⟩
  | latched => exact ⟨fun _ now => (nomatch now), fun _ => rfl⟩
  | placed i => exact ⟨fun _ now => (nomatch now), fun _ => rfl⟩

theorem GoodAnswer.going {up : Upload} (held : n.upload = some up) (pending : x.pending = true) :
    m.upload = some up ∧ m.clock.anchor = n.clock.anchor ∧ m.received = q.received := by
  obtain ⟨upload, received, -, -, clocks⟩ := G.uploads
  have kept : w.upload = q.upload ∧ w.clock = q.clock ∧ w.received = q.received := by
    by_cases again : ∃ j, q.permit = .opened j ∧ p.permit = .opened j
    · obtain ⟨j, now, was⟩ := again
      rw [(G.pendingKept held pending).1 j now was, Node.reopened_eq]
      exact ⟨rfl, rfl, rfl⟩
    · rw [(G.pendingKept held pending).2 fun j now was => again ⟨j, now, was⟩]
      exact ⟨rfl, rfl, rfl⟩
  rw [upload, received, clocks, kept.1, kept.2.1, kept.2.2, G.handedUpload, G.handedAnchor held]
  exact ⟨held, rfl, rfl⟩

theorem GoodAnswer.drained {up : Upload} (held : n.upload = some up) (pending : x.pending = false) : m.upload = none ∧ m.permit = .none ∧
    m.clock.anchor = if s.time.epoch = up.epoch then some ⟨up.s1, up.w1, s.time.epoch⟩ else n.clock.anchor := by
  have flagged := G.flagged
  simp only [Node.pendingHeard, G.handedUpload, held, pending] at flagged
  obtain ⟨upload, -, permit, -, clocks⟩ := G.uploads
  rw [upload, permit, clocks, flagged]
  refine ⟨rfl, rfl, ?_⟩
  rw [Node.drained]
  split
  · rfl
  · exact G.handedAnchor held

/-- An OPEN permit through an answer with the pending flag set (07:R136, R137). -/
theorem GoodAnswer.opened {up : Upload} (held : n.upload = some up) (pending : x.pending = true) {j : Nat}
    (opened : (if n.st = .silent then .none else n.permit) = Permit.opened (j + 1)) :
    let taken := (x.items.filter isOfflineRecord).length
    (taken = 0 → m.permit = (if decide (64 ≤ t.journal.freeSpace) then .latched else .none) ∧
      m.latchPermit = (n.latchPermit || decide (64 ≤ t.journal.freeSpace))) ∧
    (1 ≤ taken → taken ≤ j → m.permit = .opened (j + 1 - taken) ∧ m.latchPermit = n.latchPermit) ∧
    (j < taken → (m.permit = .none ∨ m.permit = .latched) ∧ m.permit = q.permit ∧ m.latchPermit = q.latchPermit) := by
  intro taken
  obtain ⟨-, -, permit, latch, -⟩ := G.uploads
  obtain ⟨before, stood⟩ := G.presentedPermit
  have upload : p.upload = some up := G.handed.upload.symm.trans (G.handedUpload.trans held)
  rw [opened] at before
  obtain ⟨reopens, stays⟩ := G.pendingKept held pending
  rw [permit, latch]
  refine ⟨fun zero => ?_, fun some few => ?_, fun many => ?_⟩
  · obtain ⟨same, latched⟩ := G.left.few up j upload before (by omega)
    have same : q.permit = .opened (j + 1) := same.trans (congrArg Permit.opened (by omega))
    rw [reopens (j + 1) same before, Node.reopened_eq, G.uploading (G.going held pending).1, G.handedUpload, held, latched, stood]
    simp
  · obtain ⟨falls, latched⟩ := G.left.few up j upload before few
    have other : ∀ i, q.permit = .opened i → p.permit ≠ .opened i := fun i now was => by
      have same : Permit.opened (j + 1 - taken) = .opened (j + 1) := (falls.symm.trans now).trans (was.symm.trans before)
      injection same
      omega
    rw [stays other, falls, latched, stood]
    exact ⟨rfl, rfl⟩
  · have closed := G.left.many up j upload before many
    rw [stays fun i now => by rw [now] at closed; simp at closed]
    exact ⟨closed, rfl, rfl⟩

theorem GoodAnswer.unopened {up : Upload} (held : n.upload = some up) (pending : x.pending = true)
    (closed : ∀ j, (if n.st = .silent then .none else n.permit) ≠ Permit.opened j) :
    m.permit = (if n.st = .silent then .none else n.permit) ∧ m.latchPermit = n.latchPermit := by
  obtain ⟨-, -, permit, latch, -⟩ := G.uploads
  obtain ⟨before, stood⟩ := G.presentedPermit
  have same := G.left.idle (.inr fun j => by rw [before]; exact closed _)
  have stays := (G.pendingKept held pending).2 fun j _ was => closed j (before.symm.trans was)
  rw [permit, latch, stays, same.1, same.2.1]
  exact ⟨before, stood⟩

/-! ### The units behind the items -/

/-- The fields of a node's record that its items look at, once the answer is heard. -/
def Node.heardByItems (r : Round) (x : Answer) (epoch : Nat) (n k : Node) : Node :=
  { k with
    status := some x.status
    permit := if n.st = .silent then .none else k.permit
    received := if n.st = .silent then 0 else k.received
    clock := n.clockHeard r x epoch }

/-- The state on which the presentation of a good answer of node `a` acts: status bits, clock, permit and NODE_STATE alone. -/
def State.beforePresentation (s : State) (a : Nat) (r : Round) (x : Answer) (n : Node) : State :=
  { s.modNode a (n.heardByItems r x s.time.epoch) with
    journal := if n.st = .silent then s.journal.push s.now
      { kind := .nodeState, node := some a, point := some n.enrol.point, detail1 := some (.nodeState .probation) } else s.journal }

theorem GoodAnswer.alike {v : State} (like : Alike n.addr s v) (hn : s.node? n.addr = some n) :
    Alike n.addr s₁ (v.beforePresentation n.addr r x n) where
  part := (congrArg State.part G.settled.rest :).trans like.part
  loader := (congrArg State.loader G.settled.rest :).trans like.loader
  time := (congrArg State.time G.settled.rest :).trans like.time
  store := (congrArg State.store G.settled.rest :).trans like.store
  revoc := (congrArg State.revoc G.settled.rest :).trans like.revoc
  minibar := (congrArg State.minibar G.settled.rest :).trans like.minibar
  journal := by
    rw [G.settled.journal, Node.returnRecords, State.beforePresentation, like.journal, like.now]
    split <;> rfl
  urgent := (congrArg (fun v : State => v.lines.urgent) G.settled.rest :).trans like.urgent
  enrolled := (G.settled.enrolled.trans like.enrolled).trans
    (State.enrolled_modNode v n.addr (n.heardByItems r x v.time.epoch) fun _ => ⟨rfl, rfl⟩).symm
  node := by
    obtain ⟨j, hj, view⟩ := like.node_of hn
    have mod : (v.beforePresentation n.addr r x n).node? n.addr = _ :=
      State.modNode_node? v n.addr (n.heardByItems r x v.time.epoch) fun _ => rfl
    rw [mod, G.settled.node, hj, G.keeps, Node.of_itemView view, ← like.time]
    rfl

end Record

/-- A field that no item looks at set on one side. -/
theorem Alike.shown {a : Nat} {v u : State} (h : Alike a v u) (p : Option Nat) : Alike a (v.modNode a (fun n => { n with lastPres := p })) u where
  part := h.part
  loader := h.loader
  time := h.time
  store := h.store
  revoc := h.revoc
  minibar := h.minibar
  journal := h.journal
  urgent := h.urgent
  enrolled := (State.enrolled_modNode v a (fun n => { n with lastPres := p }) fun _ => ⟨rfl, rfl⟩).trans h.enrolled
  node := by
    rw [State.modNode_node? v a (fun n => { n with lastPres := p }) fun _ => rfl, Option.map_map, ← h.node]
    rfl

/-- The presentation of node record `k` acts as the decision does, where it is new (02:R37). -/
theorem Alike.presentation {a : Nat} {v u : State} {k : Node} (h : Alike a v u) (hn : v.node? a = some k) (r : Round) (pres : Option Presentation) :
    Alike a (v.presentation a r pres) (match pres with
      | some p => if k.lastPres = some p.number.toNat then u else u.decideAdmission a p r.number
      | none => u) := by
  cases pres with
  | none => exact h
  | some p =>
    dsimp only
    split
    · rename_i repeated
      rw [State.presentation_idle hn fun q eq => by cases eq; exact repeated]
      exact h
    · rename_i new
      rw [State.presentation_new hn r new]
      exact (h.shown _).decideAdmission p r.number

end Sys2Proof.Machine

/-! PROOF of O39. WINDOW_CLOSE with a good copy (01:R7, 02:R32). -/

namespace Sys2Proof.Machine

open Sys2Proof

section Answer
variable {r : Round} {x : Answer} {n k p q w m : Node} {s s₁ s₂ s₃ t : State}

theorem State.answer_frame (settled : s₁ = { s with nodes := s₁.nodes, journal := s₁.journal, port := s₁.port })
    (presented : s₂ = { s₁ with nodes := s₂.nodes, store := s₂.store, lines := { s₁.lines with urgent := s₂.lines.urgent }, journal := s₂.journal
                                port := s₂.port })
    (handed : s₃ = { s₂ with nodes := s₃.nodes, minibar := s₃.minibar, journal := s₃.journal, port := s₃.port })
    (done : t = { s₃ with nodes := t.nodes, journal := t.journal, port := t.port }) :
    t = { s with nodes := t.nodes, store := t.store, minibar := t.minibar, lines := { s.lines with urgent := t.lines.urgent }
                 journal := t.journal, port := t.port } := by
  rw [done, handed, presented, settled]

variable (G : GoodAnswer r x n k p q w m s s₁ s₂ s₃ t)
include G

theorem GoodAnswer.rest : t = { s with
    nodes := t.nodes, store := t.store, minibar := t.minibar, lines := { s.lines with urgent := t.lines.urgent }, journal := t.journal
    port := t.port } :=
  State.answer_frame G.settled.rest G.presented.rest G.handed.rest G.done.rest

theorem GoodAnswer.others {b : Nat} (ne : b ≠ n.addr) : t.node? b = s.node? b :=
  (G.done.others b ne).trans ((G.handed.others b ne).trans ((G.presented.others b ne).trans (G.settled.others b ne)))

theorem GoodAnswer.port : Port.noticesOnly s.port t.port :=
  Port.noticesOnly_trans G.settled.port (Port.noticesOnly_trans G.presented.port (Port.noticesOnly_trans G.handed.port G.done.port))

/-! ### Spans and presentations -/

theorem GoodAnswer.opensSpan (none : n.clock.span = none) :
    m.clock = { n.clock with span := some ⟨r.number, r.tick, x.ticks.toNat, 0⟩, anchor := m.clock.anchor } :=
  G.clock.trans (by rw [Clock.sample_opens none]; rfl)

theorem GoodAnswer.keepsSpan {sp : Span} (held : n.clock.span = some sp) (young : sp.k < 64) : m.clock = { n.clock with anchor := m.clock.anchor } :=
  G.clock.trans (by rw [Clock.sample_waits held young])

theorem GoodAnswer.closesSpan {sp : Span} (held : n.clock.span = some sp) (lo : 64 ≤ sp.k) (hi : sp.k ≤ 72) {dw dn : Nat} (ticks : dw < 281474976710656)
    (stamps : dn < 4294967296) (tick : r.tick = (sp.w0 + dw) % 281474976710656) (stamp : x.ticks.toNat = (sp.n0 + dn) % 4294967296) :
    m.clock = { n.clock.judge (rawSample dw dn) with span := some ⟨r.number, r.tick, x.ticks.toNat, 0⟩, anchor := m.clock.anchor } :=
  G.clock.trans (by rw [Clock.sample_closes held lo hi r.number ticks stamps tick stamp]; rfl)

theorem GoodAnswer.lastPres : m.lastPres = p.lastPres := (congrArg Node.lastPres G.record :)

theorem GoodAnswer.heardPres : k.lastPres = n.lastPres := (congrArg Node.lastPres G.keeps :)

/-- A presentation repeated, or none: number, store, urgent queue and memory stand (02:R37). -/
theorem GoodAnswer.repeated (same : ∀ pres, x.pres = some pres → n.lastPres = some pres.number.toNat) : m.lastPres = n.lastPres ∧
    t.store = s.store ∧ t.lines.urgent = s.lines.urgent ∧
    m.memory.map (fun e => { e with reported := false }) = n.memory.map (fun e => { e with reported := false }) := by
  have stands : s₂ = s₁ := G.presents.trans (State.presentation_idle G.settled.node fun pres eq => G.heardPres.trans (same pres eq))
  have node : p = k := Option.some.inj (G.presented.node.symm.trans ((congrArg (fun v : State => v.node? n.addr) stands).trans G.settled.node))
  have memory : m.memory = q.memory := (congrArg Node.memory G.record :)
  refine ⟨by rw [G.lastPres, node, G.heardPres], ?_, ?_, ?_⟩
  · rw [(congrArg State.store G.done.rest :), (congrArg State.store G.handed.rest :), stands, (congrArg State.store G.settled.rest :)]
  · rw [(congrArg State.lines G.done.rest :), (congrArg State.lines G.handed.rest :), stands, (congrArg State.lines G.settled.rest :)]
  · rw [memory, G.handed.memory, node, (congrArg Node.memory G.keeps :)]
    rfl

/-! ### State, counts and cursor -/

theorem GoodAnswer.counted (answering : n.st ≠ .silent) : m.good = min 255 (n.good + 1) := G.good.trans (if_neg answering)

theorem GoodAnswer.tried (st : n.st = .probation) : m.st = .probation ∨ m.st = .online := by
  rw [G.probation st]
  split
  · exact .inr rfl
  · exact .inl rfl

theorem GoodAnswer.cursorMoves (idle : (n.heard r x s.time.epoch).reload.underWay = false) (below : genBelow n.cursor.acked x.ack.toNat = true)
    (within : genBelow s.revoc.gen x.ack.toNat = false) : m.cursor =
      { acked := x.ack.toNat, sent := if genBelow n.cursor.sent x.ack.toNat then x.ack.toNat else n.cursor.sent, stall := 0 } := by
  rw [(G.idle idle).1, Cursor.acknowledge, if_pos ⟨below, by rw [within]; exact Bool.false_ne_true⟩]

theorem GoodAnswer.cursorStands (idle : (n.heard r x s.time.epoch).reload.underWay = false)
    (outside : genBelow n.cursor.acked x.ack.toNat = false ∨ genBelow s.revoc.gen x.ack.toNat = true) : m.cursor = n.cursor := by
  rw [(G.idle idle).1, Cursor.acknowledge, if_neg]
  rintro ⟨below, within⟩
  obtain old | ahead := outside
  · exact Bool.false_ne_true (old.symm.trans below)
  · exact within ahead

/-! ### The items behind the presentation -/

/-- The state on which the items act. -/
def State.beforeItems (s : State) (a : Nat) (r : Round) (x : Answer) (n : Node) : State :=
  match x.pres with
  | some p => if n.lastPres = some p.number.toNat then s.beforePresentation a r x n
      else (s.beforePresentation a r x n).decideAdmission a p r.number
  | none => s.beforePresentation a r x n

theorem GoodAnswer.itemsAlike {v : State} (like : Alike n.addr s v) (hn : s.node? n.addr = some n) :
    Alike n.addr s₃ (x.items.foldl (State.item n.addr) (v.beforeItems n.addr r x n)) := by
  rw [G.items, G.presents]
  have alike := (G.alike like hn).presentation G.settled.node r x.pres
  rw [G.heardPres] at alike
  exact Alike.items x.items alike

/-- A record that shows the items what `q` does holds the answer's compartments, session and memory. -/
theorem GoodAnswer.shows {j : Node} (view : j.itemView = q.itemView) : (j.comps, j.session, j.memory) = (m.comps, m.session, m.memory) ∧
    j.received = q.received ∧ (j.permit, j.latchPermit) = (q.permit, q.latchPermit) := by
  have record := Node.of_itemView view
  rw [G.record, record]
  exact ⟨rfl, rfl, rfl⟩

theorem GoodAnswer.units : t.minibar = s₃.minibar ∧ t.store = s₃.store ∧ t.lines.urgent = s₃.lines.urgent :=
  ⟨(congrArg State.minibar G.done.rest :), (congrArg State.store G.done.rest :), (congrArg (fun v : State => v.lines.urgent) G.done.rest :)⟩

theorem GoodAnswer.journal (window : n.st.hasWindow = true) : t.journal = if n.st ≠ .online ∧ m.st = .online then
    s₃.journal.push s.now { kind := .nodeState, node := some n.addr, point := some n.enrol.point, detail1 := some (.nodeState .online) }
    else s₃.journal := by
  have journal : t.journal = s₃.journal.pushAll (if s.answerPasses r x n w then [(s.now, nodeStateEntry w (.nodeState .online))] else []) :=
    G.done.journal
  have entry : nodeStateEntry w (.nodeState .online) = nodeStateEntry n (.nodeState .online) := by
    have same : nodeStateEntry m (.nodeState .online) = nodeStateEntry n (.nodeState .online) := by
      rw [G.record]
      rfl
    rw [← same, G.tests]
    rfl
  rw [journal, entry, G.passed_eq window]
  split
  · rename_i passes
    rw [if_pos (of_decide_eq_true passes)]
    rfl
  · rename_i fails
    rw [if_neg fun passes => fails (decide_eq_true passes)]
    rfl

end Answer

/-! ### The window -/

/-- What changes lines and the free choice, and then hands the answer on. -/
theorem State.heard_frame {s u t : State} (first : u = { s with lines := u.lines, choices := u.choices })
    (second : t = { u with nodes := t.nodes, store := t.store, minibar := t.minibar, lines := { u.lines with urgent := t.lines.urgent }
                           journal := t.journal, port := t.port }) :
    t = { s with lines := t.lines, nodes := t.nodes, store := t.store, minibar := t.minibar, journal := t.journal, port := t.port
                 choices := t.choices } := by
  rw [second, first]

/-- Settles O39: the copies judged, then the stages of the answer used, field by field. -/
theorem goodAnswersMoveANodeByItsState : Obligations.GoodAnswersMoveANodeByItsState := by
  unfold Obligations.GoodAnswersMoveANodeByItsState
  intro a copyA copyB first r n s running round opened hn state judged jA jB good fault lineAfter captured
  have window : n.st.hasWindow = true := by obtain h | h | h := state <;> rw [h] <;> rfl
  have addr : n.addr = a.toNat := (findKey_some Node.addr hn).1
  have closes : exec (.windowClose a copyA copyB first) s = .next (s.resolveWindow r ⟨a.toNat, false⟩ copyA copyB first) := by
    show execWindowClose a copyA copyB first s = _
    simp only [execWindowClose, running, round, opened]
  obtain ⟨x, c, resolved, source, both⟩ := State.resolveWindow_heard (r := r) (first := first) hn window good
  let u : State := s.windowHeard a.toNat r.number jA jB c
  have here : u.node? n.addr = some n := by rw [addr]; exact hn
  obtain ⟨k, p, q, w, m, s₁, s₂, s₃, G⟩ := State.goodAnswer_stages here window running r x
  have lines : (u.goodAnswer n r x).lines = { u.lines with urgent := (u.goodAnswer n r x).lines.urgent } := (congrArg State.lines G.rest :)
  have dropped : (s.dropWindow a.toNat).lines = { s.lines with
      round := some { r with windows := r.windows.filter (fun w => w.addr != a.toNat) } } := by
    rw [State.dropWindow, round]
    rfl
  have alike := G.itemsAlike (v := s) ⟨rfl, rfl, rfl, rfl, rfl, rfl, rfl, rfl, rfl, rfl⟩ here
  obtain ⟨j, found, view⟩ := alike.node_of G.handed.node
  have journal := G.journal window
  obtain ⟨minibar, store, urgent⟩ := G.units
  obtain ⟨shown, received, permit⟩ := G.shows view
  rw [addr] at alike found journal
  have lostEq := Node.losesCache_eq n x.status
  have underEq := Node.heard_underWay r x u.time.epoch n
  rw [← lostEq] at underEq
  refine ⟨u.goodAnswer n r x, m, x, closes.trans (congrArg Host.Outcome.next resolved), addr ▸ G.done.node, source, both, ?_,
    fun b ne => G.others (by rwa [addr]), ?_, ?_, ?_, ?_, G.port, ?_⟩
  · intro lost under ack status clock spanned permitted room
    have idle (h : under = false) : (n.heard r x u.time.epoch).reload.underWay = false := underEq.trans h
    have kept (h : lost = false) : n.losesCache x.status = false := lostEq.symm.trans h
    have goes (h : under = true) : (n.heard r x u.time.epoch).reload.underWay = true ∧ n.losesCache x.status = false := by
      refine ⟨underEq.trans h, kept ?_⟩
      cases hl : lost with
      | false => rfl
      | true => simp [under, hl] at h
    refine ⟨G.opensSpan, fun sp span => ⟨G.keepsSpan span, fun lo hi dw dn => G.closesSpan span lo hi⟩,
      (congrArg Node.status G.record :), (congrArg Node.missed G.record :), (congrArg Node.enrol G.record :), (congrArg Node.addr G.record :),
      (congrArg Node.joins G.record :), (congrArg Node.copy G.record :), (congrArg Node.silent G.record :), G.latches,
      (congrArg Node.latchComp G.record :), ?_, fun st => ⟨G.online st, G.counted (by simp [st])⟩, fun st => ⟨G.counted (by simp [st]), G.tried st, ?_⟩,
      fun st => ⟨G.returned st, G.good.trans (if_pos st)⟩,
      fun p pres => G.lastPres.trans (G.last p pres), fun h => G.lost (lostEq.symm.trans h),
      fun h => G.cursorMoves (idle h), fun h => G.cursorStands (idle h), fun g wait h => G.ends (goes h).2, fun h => G.goes (goes h).1 (goes h).2,
      fun h => (G.idle (idle h)).2,
      fun h clear => ⟨_, _, (s.caches_iff n _).mpr rfl, (s.caches_iff _ _).mpr rfl, G.relaxed (idle h) (kept clear)⟩, G.marked, G.anchored,
      fun up held pending => ⟨(G.going held pending).1, (G.going held pending).2.1⟩, fun up => G.drained, ?_⟩
    · have arm := G.nodeChange window
      rw [← lostEq] at arm
      exact arm
    · have passes := G.passes_iff st
      rw [← lostEq] at passes
      exact passes
    · intro moved noted returned presented handed
      have acts : handed = x.items.foldl (State.item a.toNat) (s.beforeItems a.toNat r x n) := rfl
      rw [acts, ← alike.minibar, ← alike.store, ← alike.urgent, ← alike.journal, found]
      refine ⟨minibar, store, urgent, congrArg some shown, fun up held pending => ⟨?_, fun i opens => ?_, G.unopened held pending⟩, journal, G.repeated⟩
      · rw [(G.going held pending).2.2, ← received]
        rfl
      · obtain ⟨none, few, many⟩ := G.opened held pending opens
        refine ⟨none, few, fun more => ?_⟩
        obtain ⟨closed, same, latched⟩ := many more
        exact ⟨closed, by rw [same, latched, ← permit]; rfl⟩
  · rw [lines]
    rfl
  · rw [lines]
    rfl
  · rw [lines]
    show s.lines.first.after (jA.charge s.lines.lineA.st.inService) (jB.charge s.lines.lineB.st.inService) r.number a.toNat s.now = _
    have chargeA : fault .a jA = jA.charge s.lines.lineA.st.inService := rfl
    have chargeB : fault .b jB = jB.charge s.lines.lineB.st.inService := rfl
    rw [chargeA, chargeB]
    rfl
  · rw [lines]
    show ({ (s.dropWindow a.toNat).lines with lineA := _, lineB := _, first := _, urgent := _ } : LineEngine) = _
    rw [dropped]
  · exact State.heard_frame rfl G.rest

end Sys2Proof.Machine
